-- ==== Sys2Proof/Word.lean ====
section
/-! DEFINITION. The machine's words and their plainest names (R3, R4). -/

namespace Sys2Proof

/-- A 32-bit lane or steering register, and one instruction word (R4, R177). -/
abbrev Word := BitVec 32
/-- A 64-bit value: a register pair, an address, a device time (R4). -/
abbrev DWord := BitVec 64
/-- The smallest addressable unit (R4). -/
abbrev Byte := BitVec 8
/-- A lane register number v0-v127 (R177). -/
abbrev Reg := BitVec 7
/-- A steering register number s0-s63 (R183). -/
abbrev SReg := BitVec 6
/-- A predicate number p0-p15 (R178). -/
abbrev Pred := BitVec 4
/-- A condition number c0-c7 (R183). -/
abbrev Cond := BitVec 3
/-- A barrier or feed number, 0-31 (R196). -/
abbrev Obj := BitVec 5
/-- A word offset from the image base (R182). -/
abbrev Tgt := BitVec 24
/-- An accelerator id (R102). -/
abbrev Aid := BitVec 10
/-- A context id (R51). -/
abbrev CtxId := BitVec 12

end Sys2Proof
end

