-- ==== Sys2Proof/Config.lean ====
section
/-! DEFINITION. What one OZ-K9-512 fixes (Table 0.2, Table 1.2) and the free values the manual leaves open. -/

namespace Sys2Proof.Config

/-- Model ticks in a nanosecond; an aclk is 20 ticks, since it lasts 1/0.85 ns = 20/17 ns (R6). -/
def ticksPerNs : Nat := 17
/-- Model ticks in one aclk (R6). -/
def ticksPerAclk : Nat := 20
/-- Cores of the package (R15). -/
def cores : Nat := 256
/-- Registers of one lane partition (R19). -/
def partRegs : Nat := 65536
/-- Thread contexts of one lane partition (Table 6.1). -/
def partContexts : Nat := 512
/-- Wave slots of one lane partition (R19). -/
def waveSlots : Nat := 16
/-- Active waves of one lane partition (R209). -/
def activeWaves : Nat := 8
/-- Groups of one wave former (R222). -/
def formerGroups : Nat := 32
/-- Team slots of a core (R119). -/
def teamSlots : Nat := 16
/-- Scratchpad lines of a core (R19). -/
def scratchLines : Nat := 8192
/-- Accumulator tiles of a core (R19). -/
def tiles : Nat := 16
/-- Bytes of a memory line (R148). -/
def lineBytes : Nat := 128
/-- log2 of a bank set in bytes: bits [38:30] of a physical address name the set (R22). -/
def setShift : Nat := 30
/-- Bank sets (R22). -/
def sets : Nat := 512
/-- Physical address bits (R99). -/
def paBits : Nat := 39
/-- Ticks that an engine's read without ACQ may lie behind a store: 2 µs (R358, R355; log entry 72). -/
def pastTicks : Nat := 34000
/-- Cells of one receive queue (R113). -/
def rxCells : Nat := 256
/-- Pending grids the package holds (R87). -/
def maxPending : Nat := 65536
/-- Child grids one team may have (Table 4.5). -/
def maxChildren : Nat := 256
/-- Deepest nesting (R82). -/
def maxDepth : Nat := 10

/-- The value a tile cell takes when a program stores to bytes that Opal owns (R459): the manual calls the
tile's result undefined. A free value: the argument is the free-value counter of State (log entry 2). -/
opaque freeByte : Nat → Byte

/-- The bank [31:24] and row [23:0] of a line (Table 7.6), by line number: the manual gives no map from addresses to rows.
A free value (log entry 2). -/
opaque rowOf : Nat → Nat

/-- SLH-DSA-SHAKE-256s signature check of an object under a key (R499, R500), uninterpreted (log entry 6). -/
opaque slhVerifies : List Byte → List Byte → Bool

/-- The quote's signature under the device's own key (R506), uninterpreted (log entry 6). -/
opaque slhSign : List Byte → List Byte

/-- The Ozolmaris public key in the mask ROM (R499); the manual gives no value (log entry 6). -/
opaque romKey : List Byte

/-- The owner public keys that an owner key record names, of which up to four count (R499); the manual gives the record no layout (log entry 6). -/
opaque ownerKeys : List Byte → List (List Byte)

/-- The flash objects as the device is delivered: 0 firmware, 1 owner key record, 2 configuration record (R499, log entry 3). -/
opaque factoryObject : Nat → List Byte

/-- A byte of a staged flash object that no FLASHWR has written (R510): the manual gives it no value. A free value, by object
and offset (log entry 2). -/
opaque stagedByte : Nat → Nat → Byte

/-- The number that a grid takes at its acceptance, where it is free (Table 9.2): the manual says only that it is unique. A free value, by
acceptance (log entry 5). -/
opaque gridChoice : Nat → Nat

/-- Whether the saved training values of a channel fail their check at a warm start (Table 24.2): the manual does not say when they do. A free
value, by channel, by the start that trained it and by the start that checks it (log entry 2). -/
opaque trainingFails : Nat → Nat → Nat → Bool

/-- The rating of a power rail in W (Table 24.3): the manual gives no number. A free value, by rail (log entry 2). -/
opaque railRating : Nat → Nat

/-- Whether an LSE combine takes the left score as the larger of +0 and -0 (R455): the manual does not say. A free value, by the two scores
(log entry 2). -/
opaque lseLeft : BitVec 32 → BitVec 32 → Bool

/-- Which of several free places the device takes, where the manual says only that it takes a free one: 0 a private block (R56), 1 a save slot (R475),
2 a slot of Opal's staging (R450), 3 the rank that a GROUP window is read at (log entry 78). A free value, by kind and by use (log entry 2). -/
opaque placeChoice : Nat → Nat → Nat

/-- The place of a thread among those of its wave that perform one memory instruction (R353): the device does not state their order. A free
value, by memory instruction of a wave and thread id (log entry 2). -/
opaque threadRank : Nat → Nat → Nat

/-- Which value a fetched code word has after stores to it: 0 the newest, else one of the older (R34 leaves it open, word by word). A free value,
by fetch (log entry 16). -/
opaque codeChoice : Nat → Nat

end Sys2Proof.Config
end

