-- ==== Sys2Proof/Syntax.lean ====
section
/-! DEFINITION. The instructions of both streams and the device events: one constructor of Instr per row of the opcode table.
The guard bit G of a word is read beside the instruction, by the step (R171). -/

namespace Sys2Proof

/-- A rounding mode (R240, R276). -/
inductive RM where | rn | rz | ru | rd
  deriving DecidableEq, Repr

/-- A second operand: a register with its hold bit, or the extension word (R249). -/
inductive Src where
  | reg (b : Reg) (hb : Bool)
  | imm (w : Word)
  deriving DecidableEq, Repr

/-- A second operand of a floating-point instruction (R275): register form, register named by the extension word, immediate. -/
inductive FSrc where
  | reg (b : Reg) (hb : Bool)
  | xreg (b : Reg)
  | imm (w : Word)
  deriving DecidableEq, Repr

/-- R format with D, A and B (R249). -/
structure R3 where
  d : Reg
  a : Reg
  ha : Bool
  b : Src
  deriving DecidableEq, Repr

/-- R format with D and A only. -/
structure R2 where
  d : Reg
  a : Reg
  ha : Bool
  deriving DecidableEq, Repr

/-- R format with A and B, D being no register. -/
structure RAB where
  a : Reg
  ha : Bool
  b : Src
  deriving DecidableEq, Repr

/-- Floating-point R format (R275). -/
structure F3 where
  d : Reg
  a : Reg
  ha : Bool
  b : FSrc
  deriving DecidableEq, Repr

/-- Floating-point R format whose D is a predicate. -/
structure FAB where
  a : Reg
  ha : Bool
  b : FSrc
  deriving DecidableEq, Repr

/-- Q format without extension (R179). -/
structure Q2 where
  d : Reg
  a : Reg
  la : BitVec 4
  rm : RM
  deriving DecidableEq, Repr

/-- Access sizes (Table 8.4). -/
inductive Size where | b8 | b16 | b32 | b64 | b128
  deriving DecidableEq, Repr

/-- M format with the offset layout (R180, R181); an absent offset is 0. -/
structure MArgs where
  d : Reg
  a : Reg
  la : BitVec 4
  sz : Size
  hint : BitVec 2
  off : Option Word
  deriving DecidableEq, Repr

/-- M format with the window layout (Table 8.5). -/
structure WArgs where
  d : Reg
  a : Reg
  la : BitVec 4
  sz : Size
  hint : BitVec 2
  handle : BitVec 16
  acq : Bool
  rel : Bool
  deriving DecidableEq, Repr

/-- ICMP conditions (Table 11.3). -/
inductive ICond where | eq | ne | lt | le | gt | ge | lo | hs
  deriving DecidableEq, Repr

/-- FCMP and HCMP2 conditions (Table 12.1). -/
inductive FCond where | eq | ne | lt | le | gt | ge | un | ord
  deriving DecidableEq, Repr

/-- Predicate operations (R256). -/
inductive PlopOp where | and | or | xor | andn | orn | nand | nor | xnor
  deriving DecidableEq, Repr

/-- SETX operand (R262). -/
inductive SetxSrc where
  | reg (a : Reg) (ha : Bool)
  | imm (base len : BitVec 7)
  deriving DecidableEq, Repr

/-- FCVT directions (R285). -/
inductive CvtDir where | toF16 | toBf16 | fromF16 | fromBf16
  deriving DecidableEq, Repr

/-- FSGN operations (R283). -/
inductive SgnOp where | copy | ncopy | xor
  deriving DecidableEq, Repr

/-- F8PK kinds (Table 12.5). -/
inductive F8Kind where | e4m3 | e5m2 | mx | dx
  deriving DecidableEq, Repr

/-- F4PK kinds (Table 12.5). -/
inductive F4Kind where | e2m1 | mx | dx
  deriving DecidableEq, Repr

/-- DXEXP kinds (R294). -/
inductive DxKind where | dxb8 | dxb4 | mxfp8 | mxfp4
  deriving DecidableEq, Repr

/-- QDOT8 and QDOT4 operands (R296). -/
structure QDot where
  d : Reg
  a : Reg
  ha : Bool
  dx : Bool
  rm : RM
  b : Reg
  s : Reg
  sa : BitVec 2
  sb : BitVec 2
  deriving DecidableEq, Repr

/-- Scopes (R316, R339, Table 15.2). -/
inductive Scope where | dev | pod | sys
  deriving DecidableEq, Repr

/-- FCNT selections (R342). -/
inductive FcntSel where | p | c | fill | room
  deriving DecidableEq, Repr

/-- REDQ operations (Table 18.4). -/
inductive RedOp where | add | min | max | umin | umax | and | or | xor | fadd | fmin | fmax | cnt
  deriving DecidableEq, Repr

/-- Special registers (Table 9.2). -/
inductive Special where
  | tid | rid | rtid | team | grid | gangrank | gangsize | aid | depth | dtime | teamstat | core | part | wave | lane
  deriving DecidableEq, Repr

/-- A steering second operand (R298). -/
inductive SSrc where
  | reg (b : SReg)
  | imm (w : Word)
  deriving DecidableEq, Repr

/-- S format with D, A and B (R298). -/
structure S3 where
  d : SReg
  a : SReg
  b : SSrc
  deriving DecidableEq, Repr

/-- S format with D and A. -/
structure S2 where
  d : SReg
  a : SReg
  deriving DecidableEq, Repr

/-- Atomic operations (R315, R332). -/
inductive AtomOp where | add | min | max | and | or | xor | exch | cas
  deriving DecidableEq, Repr

/-- Common fields of the engine commands (R183, R344, Tables 16.5, 16.7, 19.6). -/
structure EArgs where
  pb : SReg
  bar : Obj
  scope : BitVec 2
  acq : Bool
  rel : Bool
  arv : Bool
  deriving DecidableEq, Repr

/-- COPY sides (R344). -/
inductive CopyKind where | mem | win | feed
  deriving DecidableEq, Repr

/-- CUBE operand modes (Table 16.1). -/
inductive CubeMode where | two | mz | zn | z
  deriving DecidableEq, Repr

/-- CDRAIN formats (Table 16.7). -/
inductive DrainFmt where | f32 | bf16 | e4m3 | e5m2 | tmx | tdx
  deriving DecidableEq, Repr

/-- A window handle operand: immediate, or low half of an s-register (R321, R322). -/
inductive HSrc where
  | imm (h : BitVec 16)
  | reg (b : SReg)
  deriving DecidableEq, Repr

/-- A party of a team, named by the model's team number and the thread id. -/
inductive Party where
  | lane (team : Nat) (tid : Nat)
  | steer (team : Nat)
  deriving DecidableEq, Repr

/-- Sources of fault records that FLTCMD names (Table 20.2, Table 20.4). -/
structure FltTarget where
  ctx : CtxId
  src : BitVec 4
  id : BitVec 10
  team : BitVec 24
  deriving DecidableEq, Repr

/-- An Opal rendezvous message (R450): the addressed rank's context, group, sequence number, tile, the schedule's step, the sender's
rank, the header control word and the tile's control words (R441), the staging address, the sender's AID, whether it lies in another pod, the
station through which it comes if not (R105). -/
structure CollMsg where
  ctx : CtxId
  grp : BitVec 8
  seq : BitVec 16
  tile : Nat
  step : Nat
  rank : Nat
  hdr : Word
  ctl : DWord
  stage : DWord
  sender : Aid
  xp : Bool
  station : BitVec 4
  deriving DecidableEq, Repr

/-- Messages of a K9 to another that take no answer: a slot of a receive box is free again (R412), a box is closed (R409), a collective has been
aborted, as its sender found it (R460). -/
inductive Note where
  | slotBack (ctx : CtxId) (box : Nat)
  | boxClosed (ctx : CtxId) (box : Nat)
  | collAbort (ctx : CtxId) (grp : BitVec 8) (seq : BitVec 16) (cause : BitVec 3) (code : BitVec 8) (rank : Nat) (norank : Bool)
  deriving DecidableEq, Repr

/-- What a transaction asks of a K9 (R114, R361): `fill` asks only for a page that the remote-read cache may hold (R349); Opal's
ready-to-receive, and its transfer with its signal done (R450), its question about a sequence number (R441), a grant of box slots (R410). -/
inductive TxOp where
  | load (bytes : Nat) (fill : Bool)
  | store (data : List Byte)
  | atomic (op : AtomOp) (unsigned : Bool) (wide : Bool) (x y : DWord)
  | probe
  | record (data : List Byte)
  | rtr (m : CollMsg)
  | grant (slots : Nat)
  | done (m : CollMsg) (data : List Byte)
  | query (grp : BitVec 8) (seq : BitVec 16)
  | note (n : Note)
  deriving DecidableEq, Repr

/-- Where a transaction goes at its target (R65, R68, R142, R411, R450): a record's box with its peer address, the staging of the rank that takes
part in an instance (R440). -/
inductive TxDest where
  | ctx (ctx : CtxId) (key : Word) (addr : Nat)
  | gang (grid : Word) (rank : Nat) (offset : Nat)
  | box (ctx : CtxId) (key : Word) (box : Nat) (addr : Nat)
  | stage (ctx : CtxId) (addr : Nat) (grp : BitVec 8) (seq : BitVec 16)
  deriving DecidableEq, Repr

/-- An inbound transaction (R361): sender, the compute cluster whose TLB translates it (R70), destination, request. -/
structure InTx where
  sender : Aid
  cluster : BitVec 5
  dest : TxDest
  op : TxOp
  deriving DecidableEq, Repr

/-- An inbound transaction with the station and the class of its cell (R110, R113). -/
structure InCell where
  station : BitVec 4
  cls : BitVec 2
  tx : InTx
  deriving DecidableEq, Repr

/-- Where a cell comes from: the station that it comes through, and its sender. -/
structure RecordSource where
  station : BitVec 4
  sender : Aid
  deriving DecidableEq, Repr

/-- Who asks about a sequence number (R441): its rank, and where its question comes from, none for another pod. -/
structure CollAsker where
  rank : Nat
  via : Option RecordSource
  deriving DecidableEq, Repr

/-- The context whose collective an abort is about, and where it comes from (R460): none for another pod, or for this K9 itself. -/
structure AbortAt where
  ctx : CtxId
  via : Option RecordSource
  deriving DecidableEq, Repr

/-- A doorbell (R78): its queue, and the connection that it comes on (R81). -/
structure DoorbellAt where
  queue : BitVec 14
  conn : BitVec 16
  deriving DecidableEq, Repr

/-- What a station's training finds (R103, R116): whether the switch reports its AID as a duplicate, and the link delay in ns. -/
structure Training where
  dup : Bool
  delay : Nat
  deriving DecidableEq, Repr

/-- Why a gang's next round may be due (R139): the K9 that reports freed resources, or none when time has passed. -/
structure RetryCause where
  grid : Nat
  freed : Option Aid
  deriving DecidableEq, Repr

/-- The answer of a target K9 (R336, R361); `wait`: its party is not there yet, or saved, and the asker waits (R411, R441, R450); `aborted`: the
collective has the outcome that the rank kept (R460). -/
inductive TxReply where
  | ack
  | wait
  | data (bytes : List Byte)
  | nonres
  | fault (code : BitVec 8) (cause : BitVec 4)
  | aborted (cause : BitVec 3) (code : BitVec 8) (rank : Nat) (norank : Bool)
  deriving DecidableEq, Repr

/-- A reservation request for one gang member (R137); `resume`: the gang was saved and is brought back (R141), on the K9 `home`, with the bytes of
its save slot, the numbers of its child grids and its open collectives (entry, sequence number, rank) if another K9 holds it (R478); `failing`:
ticks since the first of the rounds that have failed (R139); `ranks`: the entries of the gang's group (R49). -/
structure GangReq where
  coord : Aid
  grid : Word
  member : Nat
  size : Nat
  resume : Bool
  ctx : CtxId
  prio : Nat
  pcap : Nat
  depth : Nat
  accepted : Nat
  desc : List Byte
  ranks : List DWord
  home : Aid
  slot : List (Nat × Byte)
  children : List Word
  opens : List (Nat × Nat × Nat)
  failing : Nat
  deriving DecidableEq, Repr

/-- A management request as it arrives (Table 24.4): the TCP connection that brings it, one of four (R508), the tag and the payload. -/
structure MgmtReq where
  conn : Nat
  tag : Word
  payload : List Byte
  deriving DecidableEq, Repr

/-- What TCP brings to the management port (R508): a peer opens a connection, one of the four ends, or a frame arrives on one, whole, with the
MAGIC, OP, TAG and payload of its header (Table 24.4). -/
inductive TcpEvent where
  | opened (peer : BitVec 128)
  | closed (conn : Nat)
  | frame (conn : Nat) (magic op : BitVec 16) (tag : Word) (payload : List Byte)
  deriving DecidableEq, Repr

/-- One instruction of a lane or steering stream, or one event of the device. -/
inductive Instr where
  -- lane, integer (Tables 11.1-11.3)
  | iadd (o : R3)
  | isub (o : R3) (rev : Bool)
  | imul (o : R3)
  | imulh (o : R3) (u : Bool)
  | imad (o : R3)
  | imin (o : R3) (u : Bool)
  | imax (o : R3) (u : Bool)
  | iabs (o : R2)
  | and (o : R3)
  | or (o : R3)
  | xor (o : R3)
  | andn (o : R3)
  | shl (o : R3)
  | shr (o : R3)
  | sar (o : R3)
  | rol (o : R3)
  | bfx (o : R3)
  | bfi (o : R3)
  | popc (o : R2)
  | clz (o : R2)
  | brev (o : R2)
  | icmp (c : ICond) (p : Pred) (o : RAB)
  | isel (o : R2) (w : Option Word) (p : Pred) (n : Bool)
  | mov (d : Reg) (b : Src)
  | movs (d : Reg) (n : SReg)
  | iadd64 (o : R3)
  | imulw (o : R3) (sg : Bool)
  | plop (op : PlopOp) (d a b : Pred)
  | pmovGet (d : Reg)
  | pmovPut (a : Reg) (ha : Bool)
  | pmovSet (w : Word)
  | setx (n : BitVec 2) (v : SetxSrc)
  | movx (d : Reg) (n : BitVec 2) (b : Src)
  | stx (d : Reg) (n : BitVec 2) (b : Src)
  -- lane, floating point (12.2-12.5)
  | fadd (o : F3) (rm : RM)
  | fsub (o : F3) (rm : RM)
  | fmul (o : F3) (rm : RM)
  | ffma (o : F3) (rm : RM)
  | fmin (o : F3) (prop : Bool)
  | fmax (o : F3) (prop : Bool)
  | fcmp (c : FCond) (p : Pred) (o : FAB)
  | fclass (o : R2)
  | frnd (o : R2) (rm : RM)
  | f2i (o : R2) (rm : RM) (u : Bool)
  | i2f (o : R2) (rm : RM) (u : Bool)
  | fcvt (o : R2) (rm : RM) (dir : CvtDir) (hi : Bool)
  | hadd2 (o : F3) (rm : RM) (bf nb : Bool)
  | hmul2 (o : F3) (rm : RM) (bf nb : Bool)
  | hfma2 (o : F3) (rm : RM) (bf nb : Bool)
  | hminmax2 (o : F3) (bf mx prop : Bool)
  | hcmp2 (c : FCond) (p : Pred) (o : FAB) (bf : Bool)
  | fscale (o : F3) (rm : RM)
  | fexp (o : R2) (m : Bool)
  | fsgn (o : F3) (op : SgnOp)
  -- lane, correctly rounded functions (R289)
  | rcp (o : Q2)
  | rsq (o : Q2)
  | sqrt (o : Q2)
  | fdiv (o : Q2) (b : Reg) (hb : Bool)
  | ex2 (o : Q2)
  | lg2 (o : Q2)
  | sinpi (o : Q2)
  | cospi (o : Q2)
  -- lane, narrow formats (12.7)
  | f8pk (o : F3) (kind : F8Kind) (rm : RM) (pos : BitVec 2)
  | f8up (o : R2) (byte : BitVec 2) (e5m2 : Bool)
  | f4pk (o : F3) (kind : F4Kind) (rz : Bool) (pos : BitVec 3)
  | f4up (o : R2) (nib : BitVec 3)
  | bmax (o : F3)
  | qdot8 (o : QDot)
  | qdot4 (o : QDot)
  | dxexp (o : R2) (kind : DxKind) (delta : BitVec 4)
  | dxdec (o : R2) (four : Bool) (sel : BitVec 3) (s : Reg) (sa : BitVec 2)
  -- lane, memory (Table 14.2)
  | ld (m : MArgs)
  | st (m : MArgs)
  | lds (m : MArgs)
  | sts (m : MArgs)
  | atom (m : MArgs)
  | atomf (m : MArgs)
  | atomx (m : MArgs)
  | ldw (m : WArgs)
  | stw (m : WArgs)
  | atw (m : WArgs)
  | mcst (m : WArgs)
  | rreq (m : MArgs)
  | pref (m : MArgs)
  | fence (sc : Scope)
  | fadv (f : Obj) (cons : Bool) (b : Src)
  | fcnt (d : Reg) (f : Obj) (sel : FcntSel)
  -- lane, control (Table 11.4)
  | br (p : Pred) (n : Bool) (j : Option (BitVec 4)) (tgt : Tgt)
  | jmp (tgt : Tgt)
  | call (tgt : Tgt)
  | calli (a : Reg) (j : Option (BitVec 4))
  | ret (j : Option (BitVec 4))
  | join (a : Reg) (p : Pred) (j : BitVec 4)
  | exit
  | spawn (a : Reg) (p : Pred) (tgt : Tgt)
  -- lane, synchronisation (18, 13.4, 19.4, 17)
  | redq (n : BitVec 3) (op : RedOp) (a : Reg) (ha : Bool)
  | dqpop (d : Reg) (p : Option Pred)
  | bara (k : Obj) (p : Option Pred)
  | barw (k : Obj) (arv : Bool) (p : Pred)
  | rclaim (p : Pred) (b : Src)
  | rrel (p : Pred) (b : Src) (pool : Bool)
  | trdy (a : Reg) (ha : Bool) (b : Src)
  | rayq (d a : Reg) (la : BitVec 4) (b : Reg) (p : Pred) (any : Bool)
  | rwsend (m : WArgs)
  | rwrecv (d : Reg) (f : Obj) (la : BitVec 4)
  | rwrecvNb (d : Reg) (f : Obj) (la : BitVec 4) (p : Pred)
  -- lane, SYS (Table 11.6)
  | trap (code : Option Word)
  | brkpt
  | srd (d : Reg) (sel : Special)
  | nop
  | yield
  | stat (d : Reg) (clr : Option (BitVec 5))
  -- steering, scalar (Table 13.2)
  | sadd (o : S3)
  | ssub (o : S3) (rev : Bool)
  | smul (o : S3)
  | smulh (o : S3) (u : Bool)
  | smin (o : S3) (u : Bool)
  | smax (o : S3) (u : Bool)
  | sand (o : S3)
  | sor (o : S3)
  | sxor (o : S3)
  | sshl (o : S3)
  | sshr (o : S3)
  | ssar (o : S3)
  | sbfx (o : S3)
  | spopc (o : S2)
  | sclz (o : S2)
  | scmp (c : ICond) (p : Cond) (a : SReg) (b : SSrc)
  | ssel (o : S3) (c : Cond) (n : Bool)
  | smov (d : SReg) (b : SSrc)
  | sadd64 (o : S3)
  | clop (op : PlopOp) (d a b : Cond)
  | sdiv (o : S3) (u : Bool)
  | srem (o : S3) (u : Bool)
  -- steering, control (Table 13.4)
  | sbr (c : Cond) (n : Bool) (tgt : Tgt)
  | sjmp (tgt : Tgt)
  | scall (tgt : Tgt)
  | sret
  | sdone
  | sloop (d : SReg) (tgt : Tgt)
  -- steering, queues, memory, engines (13.4-13.6, 14.8, 16, 18, 19)
  | dqpush (role : BitVec 2) (b : SSrc)
  | qrd (d : SReg) (q : BitVec 3) (b : SSrc)
  | sld (d a : SReg) (sz : Size) (sg : Bool) (hint : BitVec 2) (off : Option Word)
  | sst (d a : SReg) (sz : Size) (hint : BitVec 2) (off : Option Word)
  | satom (d a b : SReg) (op : AtomOp) (wide unsigned : Bool)
  | sfence (sc : Scope) (eng : Bool)
  | srds (d : SReg) (sel : Special)
  | copy (e : EArgs) (sk dk : CopyKind) (sf df : Obj)
  | cube (e : EArgs) (mode : CubeMode) (init : Bool) (fa fb fc : Obj) (t : BitVec 4)
  | cdrain (e : EArgs) (fmt : DrainFmt) (clr : Bool) (df : Obj) (t : BitVec 4) (delta : BitVec 4)
  | aclaim (d : SReg) (b : SSrc)
  | arel (b : SSrc)
  | finit (f : Obj) (a : Option SReg)
  | bari (k : Obj) (rst : Bool) (b : SSrc)
  | bararm (k : Obj)
  | bararmTile (pb : SReg) (k : Obj)
  | coll (e : EArgs) (slot : BitVec 2) (grp : BitVec 8)
  | rwgrant (d a : SReg) (b : SSrc) (f : Obj)
  | sbara (k : Obj) (c : Option Cond)
  | sbarw (k : Obj) (arv : Bool) (c : Cond)
  | cwait (a b : SReg)
  | attime (pb : SReg) (dt : Bool)
  | launch (d a : SReg)
  | waitch (one : Option SReg)
  | bwp (b : SSrc)
  | gdetach
  | rrinv (h : Option HSrc)
  | wprobe (d : SReg) (h : HSrc)
  | strap (code : Option Word)
  | sbrk
  | snop
  | syld
  -- events: results, contexts, queues, launch, placement
  | lateResultWrite (p : Party) (id : Nat)
  | nopRecord (q : BitVec 14)
  | launchRecord (q : BitVec 14)
  | signalRecord (q : BitVec 14)
  | waitRereadTimer (grid : Nat)
  | tfireReached (grid : Nat)
  | attimeFire (team idx : Nat)
  | teamPlace (die : BitVec 2)
  | passoverTimeout (die : BitVec 2)
  | preemptTimeout (die : BitVec 2)
  | waitchSaveTimeout (die : BitVec 2)
  | stageLineLand (team idx unit : Nat)
  | saveComplete (team : Nat)
  | teamResume (team : Nat)
  | gangRound (grid : Nat)
  | gangReservationRequest (r : GangReq)
  | gangRoundTimeout (grid : Nat)
  | gangRelease (grid : Word) (member : Nat)
  | gangCommit (grid : Word)
  | gangStagedReport (grid : Word) (member : Nat)
  | gangOpen (grid : Word)
  | gangBringupTimeout (grid : Nat) (member : Nat)
  | gangRetry (r : RetryCause)
  | detachNotice (grid : Word) (member : Nat) (done : Bool)
  | gangBreak (grid : Word) (member : Nat)
  | brokerSilenceTimeout (grid : Word) (member : Nat)
  -- events: main memory
  | phaseInForce (ctx : CtxId)
  | memoryLineAccess (set : BitVec 9)
  | actIdleTimeout (set : BitVec 9)
  | retEntryTimeout (set : BitVec 9)
  | wakeComplete (set : BitVec 9)
  | clearingEnd (set : BitVec 9)
  | patrolIntervalStart
  | patrolRead (set granule : BitVec 9) (corrected bad : List Nat)
  -- events: pod and host
  | windowTimeout (id : Nat)
  | slotTransmit (i : BitVec 4)
  | beaconLoss
  | rrqTailNotice
  | fltTailNotice
  -- events: scheduler, joins, claims
  | waveSwap (core : BitVec 8) (part : BitVec 2)
  | starvationPromote (core : BitVec 8) (part : BitVec 2)
  | slotReclaim (core : BitVec 8) (part : BitVec 2)
  | formerEmitTimeout (core : BitVec 8) (part : BitVec 2)
  | joinTimeout (team : Nat) (j : BitVec 4)
  | claimDeadlock (team : Nat)
  | tileDeadlock (core : BitVec 8)
  | cwaitPoll (team : Nat)
  -- events: engines
  | firedCommandEnqueue (team idx : Nat)
  | copyLineLand (team idx unit : Nat)
  | copyComplete (team idx : Nat)
  | cubePass (core : BitVec 8)
  | cdrainStep (core : BitVec 8)
  | cubeComplete (team idx : Nat)
  | collStart (team idx : Nat)
  | readyToReceive (m : CollMsg)
  | transferDone (m : CollMsg) (data : List Byte)
  | collQuery (ctx : CtxId) (grp : BitVec 8) (seq : BitVec 16) (asker : CollAsker)
  | collAbort (at0 : AbortAt) (grp : BitVec 8) (seq : BitVec 16) (cause : BitVec 3) (code : BitVec 8) (rank : Nat) (norank : Bool)
  | collComplete (team idx : Nat)
  -- events: retirement
  | teamRetire (team : Nat)
  | gridRetire (grid : Nat)
  | privateBlockCleared (ctx : CtxId) (k : Nat)
  -- events: start-up and management
  | coldStart
  | reservedEncoding (code : BitVec 8)
  | windowReply (id : Nat) (r : TxReply)
  | gangReservationAnswer (grid : Word) (member : Nat) (granted : Bool)
  | gangSaveRequest (grid : Word)
  -- events that only the outside brings: commands of the host and of the management port, other K9s, power, wear
  | activate (ctx : CtxId)
  | destroy (ctx : CtxId)
  | invalPage (ctx : CtxId)
  | invalAll (ctx : CtxId)
  | bind (q : BitVec 14)
  | unbind (q : BitVec 14)
  | doorbell (q : DoorbellAt) (v : DWord)
  | bankOn (set : BitVec 9)
  | bankOff (set : BitVec 9)
  | bankInuse (set : BitVec 9)
  | bankNotuse (set : BitVec 9)
  | bankPres (set : BitVec 9)
  | bankNopres (set : BitVec 9)
  | remapLost (set : BitVec 9)
  | busCodingChoice (set : BitVec 9) (low : Bool)
  | stationTrain (i : BitVec 4) (t : Training)
  | stationDown (i : BitVec 4)
  | stationUp (i : BitVec 4)
  | reachReport (i : BitVec 4) (aids : List Nat)
  | slotmapWrite (k : BitVec 2) (v : DWord)
  | inboundTransaction (x : InCell)
  | timeBeacon (beacons : List (Nat × DWord)) (xpod : Bool)
  | rdmaWrite (conn : BitVec 16) (key : Word) (addr : Nat) (data : List Byte)
  | rdmaRead (conn : BitVec 16) (key : Word) (addr len : Nat)
  | unsupportedRdmaRequest (conn : BitVec 16)
  | registerWrite (conn : BitVec 16) (key : Word) (off : Word) (v : DWord)
  | tsq (v : DWord)
  | restart (t : FltTarget)
  | discard (t : FltTarget)
  | killthread (t : FltTarget)
  | killteam (t : FltTarget)
  | killgrid (t : FltTarget)
  | grantMessage (src : RecordSource) (ctx : CtxId) (box : BitVec 8) (n : Nat)
  | recordLand (src : RecordSource) (ctx : CtxId) (key : Word) (box : BitVec 8) (data : List Byte)
  | slotReturn (src : RecordSource) (ctx : CtxId) (box : BitVec 8)
  | closeNotice (src : RecordSource) (ctx : CtxId) (box : BitVec 8)
  | status (r : MgmtReq)
  | quote (r : MgmtReq)
  | flashwr (r : MgmtReq)
  | flashseal (r : MgmtReq)
  | start (r : MgmtReq)
  | read (r : MgmtReq)
  | connset (r : MgmtReq)
  | epset (r : MgmtReq)
  | msave (r : MgmtReq)
  | mresume (r : MgmtReq)
  | powerCapLimit (k : BitVec 2) (watts : BitVec 16)
  | thermalLimit (celsius : Nat)
  | thermalTrip (celsius : Nat)
  | tcpConnection (e : TcpEvent)
  deriving DecidableEq, Repr

end Sys2Proof
end

