-- ==== Sys2Proof/WellFormed.lean ====
section
/-! DEFINITION. Which instructions have an encoding (R177-R183), and which field combinations an encoding admits. -/

namespace Sys2Proof

/-- The instruction streams of R168; an event belongs to none. -/
inductive Stream where | lane | steer | event
  deriving DecidableEq, Repr

/-- A register form carries no modifier: its modifiers stand at their default (R249, R275). -/
def Src.isImm (b : Src) : Bool := match b with | .reg _ _ => false | .imm _ => true

/-- A floating-point register form carries no modifier (R275). -/
def FSrc.isExt (b : FSrc) : Bool := match b with | .reg _ _ => false | .xreg _ => true | .imm _ => true

/-- An even register number. -/
def evenReg (r : Reg) : Bool := r.extractLsb' 0 1 == 0#1
/-- A multiple of 4. -/
def quadReg (r : Reg) : Bool := r.extractLsb' 0 2 == 0#2
/-- A multiple of 16. -/
def blockReg (r : Reg) : Bool := r.extractLsb' 0 4 == 0#4
/-- An even steering register number. -/
def evenS (r : SReg) : Bool := r.extractLsb' 0 1 == 0#1
/-- A steering register number that is a multiple of 4. -/
def quadS (r : SReg) : Bool := r.extractLsb' 0 2 == 0#2

/-- A register source of a pair operand is even (R260). -/
def Src.evenB (b : Src) : Bool := match b with | .reg r _ => evenReg r | .imm _ => true
/-- A steering register source of a pair operand is even (R304). -/
def SSrc.evenB (b : SSrc) : Bool := match b with | .reg r => evenS r | .imm _ => true

/-- The alignment of a data group's first register (Table 8.4). -/
def Size.alignedD (sz : Size) (d : Reg) : Bool :=
  match sz with
  | .b8 => true | .b16 => true | .b32 => true
  | .b64 => evenReg d
  | .b128 => quadReg d

/-- ATOM and ATW sizes (Table 14.2). -/
def Size.atomic (sz : Size) : Bool := match sz with | .b32 => true | .b64 => true | .b8 => false | .b16 => false | .b128 => false

/-- Sizes a steering access accepts (R313). -/
def Size.steering (sz : Size) : Bool := match sz with | .b128 => false | .b8 => true | .b16 => true | .b32 => true | .b64 => true

/-- Sizes whose load may be sign-extended (R313). -/
def Size.narrow (sz : Size) : Bool := match sz with | .b8 => true | .b16 => true | .b32 => false | .b64 => false | .b128 => false

/-- E-format fields (R183, R344): the block base is at most 56, a barrier number only with ARV, and the scope is none
exactly when neither ACQ nor REL is set (DEDUCED, log entry 7). -/
def EArgs.wf (e : EArgs) : Bool :=
  decide (e.pb.toNat ≤ 56) && (e.arv || e.bar == 0#5) && ((e.scope == 0#2) == (!e.acq && !e.rel))


/-- The field combinations that an encoding admits, per instruction: what the decoding checks of R193 accept. -/
def Instr.wf (i : Instr) : Bool :=
  match i with
  | .isub o rev => o.b.isImm || !rev
  | .imulh o u => o.b.isImm || !u
  | .imin o u => o.b.isImm || !u
  | .imax o u => o.b.isImm || !u
  | .iadd64 o => evenReg o.d && evenReg o.a && o.b.evenB
  | .imulw o sg => evenReg o.d && (o.b.isImm || !sg)
  | .fadd o rm => o.b.isExt || rm == .rn
  | .fsub o rm => o.b.isExt || rm == .rn
  | .fmul o rm => o.b.isExt || rm == .rn
  | .ffma o rm => o.b.isExt || rm == .rn
  | .fmin o prop => o.b.isExt || !prop
  | .fmax o prop => o.b.isExt || !prop
  | .fcvt _ rm dir _ => dir == .toF16 || dir == .toBf16 || rm == .rn
  | .hadd2 o rm bf nb => o.b.isExt || (rm == .rn && !bf && !nb)
  | .hmul2 o rm bf nb => o.b.isExt || (rm == .rn && !bf && !nb)
  | .hfma2 o rm bf nb => o.b.isExt || (rm == .rn && !bf && !nb)
  | .hminmax2 o bf mx prop => o.b.isExt || (!bf && !mx && !prop)
  | .hcmp2 _ p o bf => (p.extractLsb' 0 1 == 0#1) && (o.b.isExt || !bf)
  | .fscale o rm => o.b.isExt || rm == .rn
  | .fsgn o op => o.b.isExt || op == .copy
  | .f8pk o kind rm pos =>
    (o.b.isExt || (kind == .e4m3 && rm == .rn && pos == 0#2)) &&
    (if kind == .e4m3 || kind == .e5m2 then pos.extractLsb' 0 1 == 0#1 else rm == .rn)
  | .f4pk o kind rz pos =>
    (o.b.isExt || (kind == .e2m1 && !rz && pos == 0#3)) &&
    (if kind == .e2m1 then pos.extractLsb' 2 1 == 0#1 else !rz)
  | .qdot8 o => !o.dx || (o.sa.extractLsb' 0 1 == 0#1 && o.sb.extractLsb' 0 1 == 0#1)
  | .qdot4 o => !o.dx || (o.sa.extractLsb' 0 1 == 0#1 && o.sb.extractLsb' 0 1 == 0#1)
  | .dxexp _ kind delta => if kind == .dxb8 || kind == .dxb4 then delta != 0#4 else delta == 0#4
  | .dxdec _ four sel _ sa => (four || sel.extractLsb' 2 1 == 0#1) && sa.extractLsb' 0 1 == 0#1
  | .ld m => m.sz.alignedD m.d && evenReg m.a
  | .st m => m.sz.alignedD m.d && evenReg m.a && m.la == 0#4
  | .lds m => m.sz.alignedD m.d
  | .sts m => m.sz.alignedD m.d && m.la == 0#4
  | .atom m => m.sz.atomic && quadReg m.d && evenReg m.a
  | .atomf m => m.sz == .b32 && evenReg m.a
  | .atomx m => m.sz == .b64 && evenReg m.d && evenReg m.a
  | .ldw m => m.sz.alignedD m.d && evenReg m.a && !m.rel
  | .stw m => m.sz.alignedD m.d && evenReg m.a && m.la == 0#4 && !m.acq
  | .atw m => m.sz.atomic && quadReg m.d && evenReg m.a
  | .mcst m => m.sz.alignedD m.d && evenReg m.a && m.la == 0#4 && !m.acq
  | .rreq m => m.sz == .b8 && evenReg m.a
  | .pref m => m.sz == .b8 && evenReg m.a && m.d == 0#7 && m.la == 0#4
  | .bara _ _ => true
  | .barw _ arv p => !arv || p == 0#4
  | .rrel _ b pool => b.isImm || !pool
  | .rayq d a _ b _ _ => quadReg d && quadReg a && evenReg b
  | .rwsend m => m.sz == .b128 && blockReg m.d && evenReg m.a && m.la == 0#4 && !m.acq
  | .rwrecv d _ _ => blockReg d
  | .rwrecvNb d _ _ _ => blockReg d
  | .srd d sel => sel != .dtime || evenReg d
  | .sadd64 o => evenS o.d && evenS o.a && o.b.evenB
  | .sld d a sz sg _ _ => evenS a && sz.steering && (sz != .b64 || evenS d) && (!sg || sz.narrow)
  | .sst d a sz _ _ => evenS a && sz.steering && (sz != .b64 || evenS d)
  | .satom d a b op wide u =>
    evenS a && (!wide || (evenS d && evenS b)) &&
    (op != .cas || (if wide then quadS b else evenS b)) && (!u || op == .min || op == .max)
  | .srds d sel => sel != .dtime || evenS d
  | .copy e sk dk sf df =>
    e.wf && !(sk == .win && dk == .win) && (sk == .feed || sf == 0#5) && (dk == .feed || df == 0#5)
  | .cube e mode _ _ _ fc _ => e.wf && (mode != .two || fc == 0#5)
  | .cdrain e fmt _ _ _ delta => e.wf && (if fmt == .tdx then delta != 0#4 else delta == 0#4)
  | .bararmTile pb _ => decide (pb.toNat ≤ 56)
  | .coll e _ _ => e.wf
  | .cwait a b => evenS a && evenS b
  | .attime pb _ => decide (pb.toNat ≤ 56)
  | .launch d a => evenS d && evenS a
  | .sbarw _ arv c => !arv || c == 0#3
  | _ => true

/-- The stream an instruction belongs to. -/
def Instr.stream (i : Instr) : Stream :=
  match i with
  | .iadd _ => .lane
  | .isub _ _ => .lane
  | .imul _ => .lane
  | .imulh _ _ => .lane
  | .imad _ => .lane
  | .imin _ _ => .lane
  | .imax _ _ => .lane
  | .iabs _ => .lane
  | .and _ => .lane
  | .or _ => .lane
  | .xor _ => .lane
  | .andn _ => .lane
  | .shl _ => .lane
  | .shr _ => .lane
  | .sar _ => .lane
  | .rol _ => .lane
  | .bfx _ => .lane
  | .bfi _ => .lane
  | .popc _ => .lane
  | .clz _ => .lane
  | .brev _ => .lane
  | .icmp _ _ _ => .lane
  | .isel _ _ _ _ => .lane
  | .mov _ _ => .lane
  | .movs _ _ => .lane
  | .iadd64 _ => .lane
  | .imulw _ _ => .lane
  | .plop _ _ _ _ => .lane
  | .pmovGet _ => .lane
  | .pmovPut _ _ => .lane
  | .pmovSet _ => .lane
  | .setx _ _ => .lane
  | .movx _ _ _ => .lane
  | .stx _ _ _ => .lane
  | .fadd _ _ => .lane
  | .fsub _ _ => .lane
  | .fmul _ _ => .lane
  | .ffma _ _ => .lane
  | .fmin _ _ => .lane
  | .fmax _ _ => .lane
  | .fcmp _ _ _ => .lane
  | .fclass _ => .lane
  | .frnd _ _ => .lane
  | .f2i _ _ _ => .lane
  | .i2f _ _ _ => .lane
  | .fcvt _ _ _ _ => .lane
  | .hadd2 _ _ _ _ => .lane
  | .hmul2 _ _ _ _ => .lane
  | .hfma2 _ _ _ _ => .lane
  | .hminmax2 _ _ _ _ => .lane
  | .hcmp2 _ _ _ _ => .lane
  | .fscale _ _ => .lane
  | .fexp _ _ => .lane
  | .fsgn _ _ => .lane
  | .rcp _ => .lane
  | .rsq _ => .lane
  | .sqrt _ => .lane
  | .fdiv _ _ _ => .lane
  | .ex2 _ => .lane
  | .lg2 _ => .lane
  | .sinpi _ => .lane
  | .cospi _ => .lane
  | .f8pk _ _ _ _ => .lane
  | .f8up _ _ _ => .lane
  | .f4pk _ _ _ _ => .lane
  | .f4up _ _ => .lane
  | .bmax _ => .lane
  | .qdot8 _ => .lane
  | .qdot4 _ => .lane
  | .dxexp _ _ _ => .lane
  | .dxdec _ _ _ _ _ => .lane
  | .ld _ => .lane
  | .st _ => .lane
  | .lds _ => .lane
  | .sts _ => .lane
  | .atom _ => .lane
  | .atomf _ => .lane
  | .atomx _ => .lane
  | .ldw _ => .lane
  | .stw _ => .lane
  | .atw _ => .lane
  | .mcst _ => .lane
  | .rreq _ => .lane
  | .pref _ => .lane
  | .fence _ => .lane
  | .fadv _ _ _ => .lane
  | .fcnt _ _ _ => .lane
  | .br _ _ _ _ => .lane
  | .jmp _ => .lane
  | .call _ => .lane
  | .calli _ _ => .lane
  | .ret _ => .lane
  | .join _ _ _ => .lane
  | .exit => .lane
  | .spawn _ _ _ => .lane
  | .redq _ _ _ _ => .lane
  | .dqpop _ _ => .lane
  | .bara _ _ => .lane
  | .barw _ _ _ => .lane
  | .rclaim _ _ => .lane
  | .rrel _ _ _ => .lane
  | .trdy _ _ _ => .lane
  | .rayq _ _ _ _ _ _ => .lane
  | .rwsend _ => .lane
  | .rwrecv _ _ _ => .lane
  | .rwrecvNb _ _ _ _ => .lane
  | .trap _ => .lane
  | .brkpt => .lane
  | .srd _ _ => .lane
  | .nop => .lane
  | .yield => .lane
  | .stat _ _ => .lane
  | .sadd _ => .steer
  | .ssub _ _ => .steer
  | .smul _ => .steer
  | .smulh _ _ => .steer
  | .smin _ _ => .steer
  | .smax _ _ => .steer
  | .sand _ => .steer
  | .sor _ => .steer
  | .sxor _ => .steer
  | .sshl _ => .steer
  | .sshr _ => .steer
  | .ssar _ => .steer
  | .sbfx _ => .steer
  | .spopc _ => .steer
  | .sclz _ => .steer
  | .scmp _ _ _ _ => .steer
  | .ssel _ _ _ => .steer
  | .smov _ _ => .steer
  | .sadd64 _ => .steer
  | .clop _ _ _ _ => .steer
  | .sdiv _ _ => .steer
  | .srem _ _ => .steer
  | .sbr _ _ _ => .steer
  | .sjmp _ => .steer
  | .scall _ => .steer
  | .sret => .steer
  | .sdone => .steer
  | .sloop _ _ => .steer
  | .dqpush _ _ => .steer
  | .qrd _ _ _ => .steer
  | .sld _ _ _ _ _ _ => .steer
  | .sst _ _ _ _ _ => .steer
  | .satom _ _ _ _ _ _ => .steer
  | .sfence _ _ => .steer
  | .srds _ _ => .steer
  | .copy _ _ _ _ _ => .steer
  | .cube _ _ _ _ _ _ _ => .steer
  | .cdrain _ _ _ _ _ _ => .steer
  | .aclaim _ _ => .steer
  | .arel _ => .steer
  | .finit _ _ => .steer
  | .bari _ _ _ => .steer
  | .bararm _ => .steer
  | .bararmTile _ _ => .steer
  | .coll _ _ _ => .steer
  | .rwgrant _ _ _ _ => .steer
  | .sbara _ _ => .steer
  | .sbarw _ _ _ => .steer
  | .cwait _ _ => .steer
  | .attime _ _ => .steer
  | .launch _ _ => .steer
  | .waitch _ => .steer
  | .bwp _ => .steer
  | .gdetach => .steer
  | .rrinv _ => .steer
  | .wprobe _ _ => .steer
  | .strap _ => .steer
  | .sbrk => .steer
  | .snop => .steer
  | .syld => .steer
  | .lateResultWrite _ _ => .event
  | .activate _ => .event
  | .destroy _ => .event
  | .invalPage _ => .event
  | .invalAll _ => .event
  | .bind _ => .event
  | .unbind _ => .event
  | .doorbell _ _ => .event
  | .nopRecord _ => .event
  | .launchRecord _ => .event
  | .signalRecord _ => .event
  | .waitRereadTimer _ => .event
  | .tfireReached _ => .event
  | .attimeFire _ _ => .event
  | .teamPlace _ => .event
  | .passoverTimeout _ => .event
  | .preemptTimeout _ => .event
  | .waitchSaveTimeout _ => .event
  | .stageLineLand _ _ _ => .event
  | .saveComplete _ => .event
  | .teamResume _ => .event
  | .gangRound _ => .event
  | .gangReservationRequest _ => .event
  | .gangRoundTimeout _ => .event
  | .gangRelease _ _ => .event
  | .gangCommit _ => .event
  | .gangStagedReport _ _ => .event
  | .gangOpen _ => .event
  | .gangBringupTimeout _ _ => .event
  | .gangRetry _ => .event
  | .detachNotice _ _ _ => .event
  | .gangBreak _ _ => .event
  | .brokerSilenceTimeout _ _ => .event
  | .phaseInForce _ => .event
  | .memoryLineAccess _ => .event
  | .actIdleTimeout _ => .event
  | .retEntryTimeout _ => .event
  | .wakeComplete _ => .event
  | .bankOn _ => .event
  | .clearingEnd _ => .event
  | .bankOff _ => .event
  | .bankInuse _ => .event
  | .bankNotuse _ => .event
  | .bankPres _ => .event
  | .bankNopres _ => .event
  | .patrolIntervalStart => .event
  | .patrolRead _ _ _ _ => .event
  | .remapLost _ => .event
  | .busCodingChoice _ _ => .event
  | .stationTrain _ _ => .event
  | .stationDown _ => .event
  | .stationUp _ => .event
  | .reachReport _ _ => .event
  | .windowTimeout _ => .event
  | .slotTransmit _ => .event
  | .slotmapWrite _ _ => .event
  | .inboundTransaction _ => .event
  | .timeBeacon _ _ => .event
  | .beaconLoss => .event
  | .rdmaWrite _ _ _ _ => .event
  | .rdmaRead _ _ _ _ => .event
  | .unsupportedRdmaRequest _ => .event
  | .registerWrite _ _ _ _ => .event
  | .tsq _ => .event
  | .rrqTailNotice => .event
  | .fltTailNotice => .event
  | .restart _ => .event
  | .discard _ => .event
  | .killthread _ => .event
  | .killteam _ => .event
  | .killgrid _ => .event
  | .waveSwap _ _ => .event
  | .starvationPromote _ _ => .event
  | .slotReclaim _ _ => .event
  | .formerEmitTimeout _ _ => .event
  | .joinTimeout _ _ => .event
  | .claimDeadlock _ => .event
  | .tileDeadlock _ => .event
  | .cwaitPoll _ => .event
  | .firedCommandEnqueue _ _ => .event
  | .copyLineLand _ _ _ => .event
  | .copyComplete _ _ => .event
  | .cubePass _ => .event
  | .cdrainStep _ => .event
  | .cubeComplete _ _ => .event
  | .grantMessage _ _ _ _ => .event
  | .recordLand _ _ _ _ _ => .event
  | .slotReturn _ _ _ => .event
  | .closeNotice _ _ _ => .event
  | .collStart _ _ => .event
  | .readyToReceive _ => .event
  | .transferDone _ _ => .event
  | .collQuery _ _ _ _ => .event
  | .collAbort _ _ _ _ _ _ _ => .event
  | .collComplete _ _ => .event
  | .teamRetire _ => .event
  | .gridRetire _ => .event
  | .privateBlockCleared _ _ => .event
  | .coldStart => .event
  | .status _ => .event
  | .quote _ => .event
  | .flashwr _ => .event
  | .flashseal _ => .event
  | .start _ => .event
  | .read _ => .event
  | .connset _ => .event
  | .epset _ => .event
  | .msave _ => .event
  | .mresume _ => .event
  | .powerCapLimit _ _ => .event
  | .thermalLimit _ => .event
  | .thermalTrip _ => .event
  | .reservedEncoding _ => .event
  | .windowReply _ _ => .event
  | .gangReservationAnswer _ _ _ => .event
  | .gangSaveRequest _ => .event
  | .tcpConnection _ => .event

end Sys2Proof
end

