-- ==== Sys2Proof/Decode.lean ====
section
/-! DEFINITION. Decoding of lane and steering instruction words (chapter 8 and the field tables of the instruction chapters),
and the encoder that lays the fields out. The guard bit G is no part of an instruction: `laneG` and `steerG` read it. -/

namespace Sys2Proof

/-- Why a word is no instruction of its stream: its opcode is reserved (check 2 of R193), or a field, a sub-operation, a
modifier or the second word is not one that the instruction defines (check 3). Both raise RESERVED_OP (R194). -/
inductive Reject where
  | opcode
  | field
  /-- The bytes end before the instruction does. -/
  | short
  deriving DecidableEq, Repr

namespace Dec

/-- An instruction, if its field rules hold. -/
def ok (c : Bool) (i : Instr) : Option Instr := if c then some i else none

/-- Bits [hi:lo] of a word as a shorter vector: `bits w lo n`. -/
def bits (w : Word) (lo n : Nat) : BitVec n := w.extractLsb' lo n
/-- One bit of a word. -/
def bit (w : Word) (i : Nat) : Bool := w.extractLsb' i 1 == 1#1

/-- Opcode [6:0] (R177). -/
def op (w : Word) : BitVec 7 := bits w 0 7
/-- R, Q, M: D [13:7]. -/
def fD (w : Word) : Reg := bits w 7 7
/-- R, Q, M: A [20:14]. -/
def fA (w : Word) : Reg := bits w 14 7
/-- R: B [27:21]. -/
def fB (w : Word) : Reg := bits w 21 7
/-- R: HA [29]. -/
def fHA (w : Word) : Bool := bit w 29
/-- R: HB [30]. -/
def fHB (w : Word) : Bool := bit w 30
/-- X [31]. -/
def fX (w : Word) : Bool := bit w 31
/-- Q, M: LA [24:21]. -/
def fLA (w : Word) : BitVec 4 := bits w 21 4
/-- Q: MOD [27:25]; M: SZ. -/
def fMOD (w : Word) : BitVec 3 := bits w 25 3
/-- Q: MOD2 [30:29]; M: HINT. -/
def fMOD2 (w : Word) : BitVec 2 := bits w 29 2
/-- C: A [13:7]. -/
def cA (w : Word) : Reg := bits w 7 7
/-- C: P [17:14]. -/
def cP (w : Word) : Pred := bits w 14 4
/-- C: PN [18]. -/
def cPN (w : Word) : Bool := bit w 18
/-- C: J [22:19]. -/
def cJ (w : Word) : BitVec 4 := bits w 19 4
/-- C: MOD [27:23]; bit 4 is JREC (R225). -/
def cMOD (w : Word) : BitVec 5 := bits w 23 5
/-- C: [30:29]. -/
def cZ (w : Word) : BitVec 2 := bits w 29 2
/-- S: D [12:7]; E: PB. -/
def sD (w : Word) : SReg := bits w 7 6
/-- S: A [18:13]. -/
def sA (w : Word) : SReg := bits w 13 6
/-- S: B [24:19]. -/
def sB (w : Word) : SReg := bits w 19 6
/-- S: MOD [30:26]. -/
def sMOD (w : Word) : BitVec 5 := bits w 26 5
/-- E: BAR [17:13]. -/
def eBAR (w : Word) : Obj := bits w 13 5
/-- E: SCOPE [19:18]. -/
def eSCOPE (w : Word) : BitVec 2 := bits w 18 2
/-- E: MOD [30:22]. -/
def eMOD (w : Word) : BitVec 9 := bits w 22 9

/-- Rounding modes (R276). -/
def rm (x : BitVec 2) : RM :=
  match x.toNat with | 0 => .rn | 1 => .rz | 2 => .ru | _ => .rd
/-- The code of a rounding mode. -/
def rmBits (m : RM) : BitVec 2 := match m with | .rn => 0 | .rz => 1 | .ru => 2 | .rd => 3

/-- Conditions of Table 11.3. -/
def icond (x : BitVec 3) : ICond :=
  match x.toNat with
  | 0 => .eq | 1 => .ne | 2 => .lt | 3 => .le | 4 => .gt | 5 => .ge | 6 => .lo | _ => .hs
/-- The code of an integer condition. -/
def icondBits (c : ICond) : BitVec 3 :=
  match c with | .eq => 0 | .ne => 1 | .lt => 2 | .le => 3 | .gt => 4 | .ge => 5 | .lo => 6 | .hs => 7

/-- Conditions of Table 12.1. -/
def fcond (x : BitVec 3) : FCond :=
  match x.toNat with
  | 0 => .eq | 1 => .ne | 2 => .lt | 3 => .le | 4 => .gt | 5 => .ge | 6 => .un | _ => .ord
/-- The code of a floating-point condition. -/
def fcondBits (c : FCond) : BitVec 3 :=
  match c with | .eq => 0 | .ne => 1 | .lt => 2 | .le => 3 | .gt => 4 | .ge => 5 | .un => 6 | .ord => 7

/-- Predicate operations (R256). -/
def plop (x : BitVec 3) : PlopOp :=
  match x.toNat with
  | 0 => .and | 1 => .or | 2 => .xor | 3 => .andn | 4 => .orn | 5 => .nand | 6 => .nor | _ => .xnor
/-- The code of a predicate operation. -/
def plopBits (c : PlopOp) : BitVec 3 :=
  match c with | .and => 0 | .or => 1 | .xor => 2 | .andn => 3 | .orn => 4 | .nand => 5 | .nor => 6 | .xnor => 7

/-- Access sizes (Table 8.4). -/
def size (x : BitVec 3) : Option Size :=
  match x.toNat with
  | 0 => some .b8 | 1 => some .b16 | 2 => some .b32 | 3 => some .b64 | 4 => some .b128 | _ => none
/-- The code of an access size. -/
def sizeBits (s : Size) : BitVec 3 := match s with | .b8 => 0 | .b16 => 1 | .b32 => 2 | .b64 => 3 | .b128 => 4

/-- FCVT directions (R285). -/
def cvtDir (x : BitVec 2) : CvtDir :=
  match x.toNat with | 0 => .toF16 | 1 => .toBf16 | 2 => .fromF16 | _ => .fromBf16
/-- The code of a conversion direction. -/
def cvtDirBits (d : CvtDir) : BitVec 2 := match d with | .toF16 => 0 | .toBf16 => 1 | .fromF16 => 2 | .fromBf16 => 3

/-- FSGN operations; 3 is reserved (R283). -/
def sgn (x : BitVec 2) : Option SgnOp :=
  match x.toNat with | 0 => some .copy | 1 => some .ncopy | 2 => some .xor | _ => none
/-- The code of a sign operation. -/
def sgnBits (o : SgnOp) : BitVec 2 := match o with | .copy => 0 | .ncopy => 1 | .xor => 2

/-- F8PK kinds (Table 12.5). -/
def f8kind (x : BitVec 2) : F8Kind :=
  match x.toNat with | 0 => .e4m3 | 1 => .e5m2 | 2 => .mx | _ => .dx
/-- The code of an F8PK kind. -/
def f8kindBits (k : F8Kind) : BitVec 2 := match k with | .e4m3 => 0 | .e5m2 => 1 | .mx => 2 | .dx => 3
/-- F4PK kinds (Table 12.5); 3 is reserved. -/
def f4kind (x : BitVec 2) : Option F4Kind :=
  match x.toNat with | 0 => some .e2m1 | 1 => some .mx | 2 => some .dx | _ => none
/-- The code of an F4PK kind. -/
def f4kindBits (k : F4Kind) : BitVec 2 := match k with | .e2m1 => 0 | .mx => 1 | .dx => 2
/-- DXEXP kinds (R294). -/
def dxkind (x : BitVec 2) : DxKind :=
  match x.toNat with | 0 => .dxb8 | 1 => .dxb4 | 2 => .mxfp8 | _ => .mxfp4
/-- The code of a DXEXP kind. -/
def dxkindBits (k : DxKind) : BitVec 2 := match k with | .dxb8 => 0 | .dxb4 => 1 | .mxfp8 => 2 | .mxfp4 => 3

/-- Scopes of FENCE and SFENCE; 3 is reserved (R316, R339). -/
def scope (x : BitVec 2) : Option Scope :=
  match x.toNat with | 0 => some .dev | 1 => some .pod | 2 => some .sys | _ => none
/-- The code of a scope. -/
def scopeBits (s : Scope) : BitVec 2 := match s with | .dev => 0 | .pod => 1 | .sys => 2
/-- FCNT selections (R342). -/
def fsel (x : BitVec 2) : FcntSel :=
  match x.toNat with | 0 => .p | 1 => .c | 2 => .fill | _ => .room
/-- The code of an FCNT selection. -/
def fselBits (s : FcntSel) : BitVec 2 := match s with | .p => 0 | .c => 1 | .fill => 2 | .room => 3

/-- REDQ operations (Table 18.4); 12-15 are reserved. -/
def redop (x : BitVec 4) : Option RedOp :=
  match x.toNat with
  | 0 => some .add | 1 => some .min | 2 => some .max | 3 => some .umin | 4 => some .umax | 5 => some .and
  | 6 => some .or | 7 => some .xor | 8 => some .fadd | 9 => some .fmin | 10 => some .fmax | 11 => some .cnt
  | _ => none
/-- The code of a REDQ operation. -/
def redopBits (o : RedOp) : BitVec 4 :=
  match o with
  | .add => 0 | .min => 1 | .max => 2 | .umin => 3 | .umax => 4 | .and => 5 | .or => 6 | .xor => 7
  | .fadd => 8 | .fmin => 9 | .fmax => 10 | .cnt => 11

/-- Special register selectors (Table 9.2). -/
def special (x : Nat) : Option Special :=
  match x with
  | 0x00 => some .tid | 0x01 => some .rid | 0x02 => some .rtid | 0x03 => some .team | 0x04 => some .grid
  | 0x05 => some .gangrank | 0x06 => some .gangsize | 0x07 => some .aid | 0x08 => some .depth
  | 0x09 => some .dtime | 0x0A => some .teamstat | 0x10 => some .core | 0x11 => some .part
  | 0x12 => some .wave | 0x13 => some .lane | _ => none
/-- The selector of a special register. -/
def specialNo (s : Special) : Nat :=
  match s with
  | .tid => 0x00 | .rid => 0x01 | .rtid => 0x02 | .team => 0x03 | .grid => 0x04 | .gangrank => 0x05
  | .gangsize => 0x06 | .aid => 0x07 | .depth => 0x08 | .dtime => 0x09 | .teamstat => 0x0A
  | .core => 0x10 | .part => 0x11 | .wave => 0x12 | .lane => 0x13

/-- Atomic operations (R315, R332). -/
def atomOp (x : BitVec 3) : AtomOp :=
  match x.toNat with
  | 0 => .add | 1 => .min | 2 => .max | 3 => .and | 4 => .or | 5 => .xor | 6 => .exch | _ => .cas
/-- The code of an atomic operation. -/
def atomOpBits (o : AtomOp) : BitVec 3 :=
  match o with | .add => 0 | .min => 1 | .max => 2 | .and => 3 | .or => 4 | .xor => 5 | .exch => 6 | .cas => 7

/-- COPY sides (R344). -/
def copyKind (x : BitVec 2) : Option CopyKind :=
  match x.toNat with | 0 => some .mem | 1 => some .win | 2 => some .feed | _ => none
/-- The code of a COPY side. -/
def copyKindBits (k : CopyKind) : BitVec 2 := match k with | .mem => 0 | .win => 1 | .feed => 2
/-- TRI and CPL of a CUBE (Table 16.5): CPL above, TRI below. -/
def cubeMode (x : BitVec 3) : Option CubeMode :=
  match x.toNat with | 0 => some .two | 1 => some .mz | 3 => some .zn | 5 => some .z | _ => none
/-- CPL and TRI of a CUBE mode. -/
def cubeModeBits (m : CubeMode) : BitVec 3 := match m with | .two => 0 | .mz => 1 | .zn => 3 | .z => 5
/-- CDRAIN formats (Table 16.7). -/
def drainFmt (x : BitVec 3) : Option DrainFmt :=
  match x.toNat with
  | 0 => some .f32 | 1 => some .bf16 | 2 => some .e4m3 | 3 => some .e5m2 | 4 => some .tmx | 5 => some .tdx
  | _ => none
/-- The code of a CDRAIN format. -/
def drainFmtBits (f : DrainFmt) : BitVec 3 :=
  match f with | .f32 => 0 | .bf16 => 1 | .e4m3 => 2 | .e5m2 => 3 | .tmx => 4 | .tdx => 5

/-! ## Operand forms -/

/-- The second operand and the modifier of an integer R-format instruction (R249): in register form the modifier is 0. -/
def src (w : Word) (x : Option Word) : Option (Src × BitVec 7) :=
  match x with
  | none => some (.reg (fB w) (fHB w), 0)
  | some e => if fHB w then none else some (.imm e, fB w)

/-- R format with D, A, B all registers. -/
def r3 (w : Word) (b : Src) : R3 := ⟨fD w, fA w, fHA w, b⟩

/-- D, A, B registers and no modifier. -/
def int3 (w : Word) (x : Option Word) (k : R3 → Instr) : Option Instr :=
  (src w x).bind fun s => ok (s.2 == 0) (k (r3 w s.1))

/-- D, A, B registers and modifier 0 or 1. -/
def int3m (w : Word) (x : Option Word) (k : R3 → Bool → Instr) : Option Instr :=
  (src w x).bind fun s => ok (s.2 == 0 || s.2 == 1) (k (r3 w s.1) (s.2 == 1))

/-- D and A registers, B zero, X clear. -/
def int2 (w : Word) (x : Option Word) (k : R2 → Instr) : Option Instr :=
  ok (x.isNone && fB w == 0 && !fHB w) (k ⟨fD w, fA w, fHA w⟩)

/-- D and A registers, B control bits, X clear; `good` says which controls are defined. -/
def ctl2 (w : Word) (x : Option Word) (good : BitVec 7 → Bool) (k : R2 → BitVec 7 → Instr) : Option Instr :=
  ok (x.isNone && !fHB w && good (fB w)) (k ⟨fD w, fA w, fHA w⟩ (fB w))

/-- The second operand and modifier bits [5:0] of a floating-point R-format instruction (R275). -/
def fsrc (w : Word) (x : Option Word) : Option (FSrc × BitVec 6) :=
  match x with
  | none => some (.reg (fB w) (fHB w), 0)
  | some e =>
    if fHB w then none
    else if (fB w).extractLsb' 6 1 == 1#1 then
      (if bits e 7 25 == 0 then some (.xreg (bits e 0 7), (fB w).extractLsb' 0 6) else none)
    else some (.imm e, (fB w).extractLsb' 0 6)

/-- Floating-point D, A, B; `good` says which modifiers are defined. -/
def fp3 (w : Word) (x : Option Word) (good : BitVec 6 → Bool) (k : F3 → BitVec 6 → Instr) : Option Instr :=
  (fsrc w x).bind fun s => ok (good s.2) (k ⟨fD w, fA w, fHA w, s.1⟩ s.2)

/-- Floating-point A, B, with D no register. -/
def fpab (w : Word) (x : Option Word) (good : BitVec 6 → Bool) (k : FAB → BitVec 6 → Instr) : Option Instr :=
  (fsrc w x).bind fun s => ok (good s.2) (k ⟨fA w, fHA w, s.1⟩ s.2)

/-- Q format without extension (R289). -/
def q2 (w : Word) (x : Option Word) (k : Q2 → Instr) : Option Instr :=
  ok (x.isNone && fMOD w == 0) (k ⟨fD w, fA w, fLA w, rm (fMOD2 w)⟩)

/-- M format with the offset layout (R181). -/
def mem (w : Word) (x : Option Word) (k : MArgs → Instr) : Option Instr :=
  (size (fMOD w)).bind fun sz =>
    let i := k ⟨fD w, fA w, fLA w, sz, fMOD2 w, x⟩
    ok i.wf i

/-- M format with the window layout (Table 8.5), X required. -/
def win (w : Word) (x : Option Word) (k : WArgs → Instr) : Option Instr :=
  x.bind fun e =>
  (size (fMOD w)).bind fun sz =>
    let i := k ⟨fD w, fA w, fLA w, sz, fMOD2 w, bits e 0 16, bit e 16, bit e 17⟩
    ok (bits e 18 14 == 0 && i.wf) i

/-- The join slot of a C-format word: JREC clear needs J zero (R225), and MOD[3:0] is zero (R264). -/
def jslot (w : Word) : Option (Option (BitVec 4)) :=
  if (cMOD w).extractLsb' 0 4 != 0 || cZ w != 0 then none
  else if (cMOD w).extractLsb' 4 1 == 1#1 then some (some (cJ w))
  else if cJ w == 0 then some none else none

/-- The target of an extension word: [31:24] are zero (R182). -/
def tgt (x : Option Word) : Option Tgt :=
  x.bind fun e => if bits e 24 8 == 0 then some (bits e 0 24) else none

/-- QDOT8 and QDOT4 (R296). -/
def qdot (w : Word) (x : Option Word) (k : QDot → Instr) : Option Instr :=
  x.bind fun e =>
    let m := fB w
    let i := k ⟨fD w, fA w, fHA w, m.extractLsb' 0 1 == 1#1, rm (m.extractLsb' 1 2), bits e 0 7, bits e 8 7,
      bits e 16 2, bits e 18 2⟩
    ok (!fHB w && m.extractLsb' 3 4 == 0#4 && bits e 7 1 == 0#1 && bits e 15 1 == 0#1 && bits e 20 12 == 0 && i.wf) i

/-- SYS sub-operations (Table 11.6). -/
def sys (w : Word) (x : Option Word) : Option Instr :=
  if fHA w || fHB w then none else
  match (fB w).toNat with
  | 0 => ok (fD w == 0 && fA w == 0) (.trap x)
  | 1 => ok (fD w == 0 && fA w == 0 && x.isNone) .brkpt
  | 2 => (special (fA w).toNat).bind fun s => ok (x.isNone && (Instr.srd (fD w) s).wf) (.srd (fD w) s)
  | 3 => ok (fD w == 0 && fA w == 0 && x.isNone) .nop
  | 4 => ok (fD w == 0 && fA w == 0 && x.isNone) .yield
  | 5 =>
    match x with
    | none => ok (fA w == 0) (.stat (fD w) none)
    | some e => ok (fA w == 0 && bits e 5 27 == 0) (.stat (fD w) (some (bits e 0 5)))
  | _ => none

/-- Lane opcodes of Table 8.7. -/
def laneOp (o : Nat) : Bool :=
  decide (o ≤ 0x33) || (decide (0x38 ≤ o) && decide (o ≤ 0x48)) || (decide (0x50 ≤ o) && decide (o ≤ 0x6E)) ||
  (decide (0x70 ≤ o) && decide (o ≤ 0x72)) || o == 0x7F

/-- Steering opcodes of Table 8.9. -/
def steerOp (o : Nat) : Bool :=
  decide (o ≤ 0x15) || (decide (0x20 ≤ o) && decide (o ≤ 0x25)) || (decide (0x28 ≤ o) && decide (o ≤ 0x2E)) ||
  (decide (0x30 ≤ o) && decide (o ≤ 0x3D)) || (decide (0x40 ≤ o) && decide (o ≤ 0x45)) || o == 0x7F

/-- Lane opcodes 0x00-0x1F: integer, predicate and index (chapter 11). -/
def laneInt (w : Word) (x : Option Word) : Option Instr :=
  match (op w).toNat with
  | 0x00 => int3 w x .iadd
  | 0x01 => int3m w x .isub
  | 0x02 => int3 w x .imul
  | 0x03 => int3m w x .imulh
  | 0x04 => int3 w x .imad
  | 0x05 => int3m w x .imin
  | 0x06 => int3m w x .imax
  | 0x07 => int2 w x .iabs
  | 0x08 => int3 w x .and
  | 0x09 => int3 w x .or
  | 0x0A => int3 w x .xor
  | 0x0B => int3 w x .andn
  | 0x0C => int3 w x .shl
  | 0x0D => int3 w x .shr
  | 0x0E => int3 w x .sar
  | 0x0F => int3 w x .rol
  | 0x10 => int3 w x .bfx
  | 0x11 => int3 w x .bfi
  | 0x12 => int2 w x .popc
  | 0x13 => int2 w x .clz
  | 0x14 => int2 w x .brev
  | 0x15 => (src w x).bind fun s =>
      ok (s.2 == 0) (.icmp (icond ((fD w).extractLsb' 4 3)) ((fD w).extractLsb' 0 4) ⟨fA w, fHA w, s.1⟩)
  | 0x16 => ok (!fHB w && (fB w).extractLsb' 5 2 == 0#2)
      (.isel ⟨fD w, fA w, fHA w⟩ x ((fB w).extractLsb' 0 4) ((fB w).extractLsb' 4 1 == 1#1))
  | 0x17 => (src w x).bind fun s => ok (s.2 == 0 && fA w == 0 && !fHA w) (.mov (fD w) s.1)
  | 0x18 => ok (x.isNone && fA w == 0 && !fHA w && !fHB w && (fB w).extractLsb' 6 1 == 0#1)
      (.movs (fD w) ((fB w).extractLsb' 0 6))
  | 0x19 => (int3 w x .iadd64).bind fun i => ok i.wf i
  | 0x1A => (int3m w x .imulw).bind fun i => ok i.wf i
  | 0x1B => ok (x.isNone && !fHA w && !fHB w && (fA w).extractLsb' 4 3 == 0#3 && (fB w).extractLsb' 4 3 == 0#3)
      (.plop (plop ((fD w).extractLsb' 4 3)) ((fD w).extractLsb' 0 4) ((fA w).extractLsb' 0 4) ((fB w).extractLsb' 0 4))
  | 0x1C =>
    match x with
    | none =>
      if fB w == 0 then ok (fA w == 0 && !fHA w && !fHB w) (.pmovGet (fD w))
      else ok (fB w == 1 && fD w == 0 && !fHB w) (.pmovPut (fA w) (fHA w))
    | some e => ok (fB w == 2 && fD w == 0 && fA w == 0 && !fHA w && !fHB w) (.pmovSet e)
  | 0x1D =>
    match x with
    | none => ok ((fD w).extractLsb' 2 5 == 0#5 && fB w == 0 && !fHB w) (.setx ((fD w).extractLsb' 0 2) (.reg (fA w) (fHA w)))
    | some e => ok ((fD w).extractLsb' 2 5 == 0#5 && fA w == 0 && !fHA w && !fHB w && fB w == 0 && bits e 14 18 == 0)
        (.setx ((fD w).extractLsb' 0 2) (.imm (bits e 0 7) (bits e 7 7)))
  | 0x1E => (src w x).bind fun s =>
      ok (s.2 == 0 && (fA w).extractLsb' 2 5 == 0#5 && !fHA w) (.movx (fD w) ((fA w).extractLsb' 0 2) s.1)
  | 0x1F => (src w x).bind fun s =>
      ok (s.2 == 0 && (fA w).extractLsb' 2 5 == 0#5 && !fHA w) (.stx (fD w) ((fA w).extractLsb' 0 2) s.1)
  | _ => none

/-- The rounding mode in modifier bits [1:0]. -/
def m6rm (m : BitVec 6) : RM := rm (m.extractLsb' 0 2)
/-- One modifier bit. -/
def m6 (m : BitVec 6) (i : Nat) : Bool := m.extractLsb' i 1 == 1#1
/-- One control bit. -/
def m7 (m : BitVec 7) (i : Nat) : Bool := m.extractLsb' i 1 == 1#1

/-- Lane opcodes 0x20-0x33: floating point (12.2-12.5). -/
def laneFp (w : Word) (x : Option Word) : Option Instr :=
  match (op w).toNat with
  | 0x20 => fp3 w x (fun m => m.extractLsb' 2 4 == 0#4) (fun o m => .fadd o (m6rm m))
  | 0x21 => fp3 w x (fun m => m.extractLsb' 2 4 == 0#4) (fun o m => .fsub o (m6rm m))
  | 0x22 => fp3 w x (fun m => m.extractLsb' 2 4 == 0#4) (fun o m => .fmul o (m6rm m))
  | 0x23 => fp3 w x (fun m => m.extractLsb' 2 4 == 0#4) (fun o m => .ffma o (m6rm m))
  | 0x24 => fp3 w x (fun m => m.extractLsb' 1 5 == 0#5) (fun o m => .fmin o (m6 m 0))
  | 0x25 => fp3 w x (fun m => m.extractLsb' 1 5 == 0#5) (fun o m => .fmax o (m6 m 0))
  | 0x26 => fpab w x (fun m => m == 0) (fun o _ => .fcmp (fcond ((fD w).extractLsb' 4 3)) ((fD w).extractLsb' 0 4) o)
  | 0x27 => int2 w x .fclass
  | 0x28 => ctl2 w x (fun b => b.extractLsb' 2 5 == 0#5) (fun o b => .frnd o (rm (b.extractLsb' 0 2)))
  | 0x29 => ctl2 w x (fun b => b.extractLsb' 3 4 == 0#4) (fun o b => .f2i o (rm (b.extractLsb' 0 2)) (m7 b 2))
  | 0x2A => ctl2 w x (fun b => b.extractLsb' 3 4 == 0#4) (fun o b => .i2f o (rm (b.extractLsb' 0 2)) (m7 b 2))
  | 0x2B => ctl2 w x (fun b => b.extractLsb' 5 2 == 0#2 && (b.extractLsb' 3 1 == 0#1 || b.extractLsb' 0 2 == 0#2))
      (fun o b => .fcvt o (rm (b.extractLsb' 0 2)) (cvtDir (b.extractLsb' 2 2)) (m7 b 4))
  | 0x2C => fp3 w x (fun m => m.extractLsb' 4 2 == 0#2) (fun o m => .hadd2 o (m6rm m) (m6 m 2) (m6 m 3))
  | 0x2D => fp3 w x (fun m => m.extractLsb' 4 2 == 0#2) (fun o m => .hmul2 o (m6rm m) (m6 m 2) (m6 m 3))
  | 0x2E => fp3 w x (fun m => m.extractLsb' 4 2 == 0#2) (fun o m => .hfma2 o (m6rm m) (m6 m 2) (m6 m 3))
  | 0x2F => fp3 w x (fun m => m.extractLsb' 0 2 == 0#2 && !m6 m 5) (fun o m => .hminmax2 o (m6 m 2) (m6 m 3) (m6 m 4))
  | 0x30 => (fpab w x (fun m => m.extractLsb' 0 2 == 0#2 && m.extractLsb' 3 3 == 0#3)
      (fun o m => .hcmp2 (fcond ((fD w).extractLsb' 4 3)) ((fD w).extractLsb' 0 4) o (m6 m 2))).bind fun i => ok i.wf i
  | 0x31 => fp3 w x (fun m => m.extractLsb' 2 4 == 0#4) (fun o m => .fscale o (m6rm m))
  | 0x32 => ctl2 w x (fun b => b.extractLsb' 1 6 == 0#6) (fun o b => .fexp o (m7 b 0))
  | 0x33 => (fsrc w x).bind fun s =>
      (sgn (s.2.extractLsb' 0 2)).bind fun o => ok (s.2.extractLsb' 2 4 == 0#4) (.fsgn ⟨fD w, fA w, fHA w, s.1⟩ o)
  | _ => none

/-- Lane opcodes 0x38-0x3F: correctly rounded functions (R289). -/
def laneFunc (w : Word) (x : Option Word) : Option Instr :=
  match (op w).toNat with
  | 0x38 => q2 w x .rcp
  | 0x39 => q2 w x .rsq
  | 0x3A => q2 w x .sqrt
  | 0x3B => x.bind fun e => ok (fMOD w == 0 && bits e 8 24 == 0)
      (.fdiv ⟨fD w, fA w, fLA w, rm (fMOD2 w)⟩ (bits e 0 7) (bit e 7))
  | 0x3C => q2 w x .ex2
  | 0x3D => q2 w x .lg2
  | 0x3E => q2 w x .sinpi
  | 0x3F => q2 w x .cospi
  | _ => none

/-- Lane opcodes 0x40-0x48: narrow formats (12.7). -/
def laneNarrow (w : Word) (x : Option Word) : Option Instr :=
  match (op w).toNat with
  | 0x40 => (fp3 w x (fun _ => true)
      (fun o m => .f8pk o (f8kind (m.extractLsb' 0 2)) (rm (m.extractLsb' 2 2)) (m.extractLsb' 4 2))).bind fun i => ok i.wf i
  | 0x41 => ctl2 w x (fun b => b.extractLsb' 3 4 == 0#4) (fun o b => .f8up o (b.extractLsb' 0 2) (m7 b 2))
  | 0x42 => (fsrc w x).bind fun s =>
      (f4kind (s.2.extractLsb' 0 2)).bind fun k =>
        let i := Instr.f4pk ⟨fD w, fA w, fHA w, s.1⟩ k (m6 s.2 5) (s.2.extractLsb' 2 3)
        ok i.wf i
  | 0x43 => ctl2 w x (fun b => b.extractLsb' 3 4 == 0#4) (fun o b => .f4up o (b.extractLsb' 0 3))
  | 0x44 => fp3 w x (fun m => m == 0) (fun o _ => .bmax o)
  | 0x45 => qdot w x .qdot8
  | 0x46 => qdot w x .qdot4
  | 0x47 => (ctl2 w x (fun b => !m7 b 6) (fun o b => .dxexp o (dxkind (b.extractLsb' 0 2)) (b.extractLsb' 2 4))).bind
      fun i => ok i.wf i
  | 0x48 => x.bind fun e =>
      let i := Instr.dxdec ⟨fD w, fA w, fHA w⟩ (m7 (fB w) 0) ((fB w).extractLsb' 1 3) (bits e 0 7) (bits e 8 2)
      ok (!fHB w && (fB w).extractLsb' 4 3 == 0#3 && bits e 7 1 == 0#1 && bits e 10 22 == 0 && i.wf) i
  | _ => none

/-- Lane opcodes 0x50-0x5F: memory (Table 14.2, R339-R342). -/
def laneMem (w : Word) (x : Option Word) : Option Instr :=
  match (op w).toNat with
  | 0x50 => mem w x .ld
  | 0x51 => mem w x .st
  | 0x52 => mem w x .lds
  | 0x53 => mem w x .sts
  | 0x54 => mem w x .atom
  | 0x55 => mem w x .atomf
  | 0x56 => mem w x .atomx
  | 0x57 => win w x .ldw
  | 0x58 => win w x .stw
  | 0x59 => win w x .atw
  | 0x5A => win w x .mcst
  | 0x5B => mem w x .rreq
  | 0x5C => mem w x .pref
  | 0x5D => (scope ((fB w).extractLsb' 0 2)).bind fun s =>
      ok (x.isNone && fD w == 0 && fA w == 0 && !fHA w && !fHB w && (fB w).extractLsb' 2 5 == 0#5) (.fence s)
  | 0x5E => (src w x).bind fun s =>
      ok (s.2 == 0 && fA w == 0 && !fHA w && (fD w).extractLsb' 6 1 == 0#1)
        (.fadv ((fD w).extractLsb' 0 5) (m7 (fD w) 5) s.1)
  | 0x5F => ok (x.isNone && fA w == 0 && !fHA w && !fHB w) (.fcnt (fD w) ((fB w).extractLsb' 0 5) (fsel ((fB w).extractLsb' 5 2)))
  | _ => none

/-- Lane opcodes 0x60-0x67: control (Table 11.4). -/
def laneCtl (w : Word) (x : Option Word) : Option Instr :=
  (jslot w).bind fun j =>
  match (op w).toNat with
  | 0x60 => (tgt x).bind fun t => ok (cA w == 0) (.br (cP w) (cPN w) j t)
  | 0x61 => (tgt x).bind fun t => ok (cA w == 0 && cP w == 0 && !cPN w && j.isNone) (.jmp t)
  | 0x62 => (tgt x).bind fun t => ok (cA w == 0 && cP w == 0 && !cPN w && j.isNone) (.call t)
  | 0x63 => ok (x.isNone && cP w == 0 && !cPN w) (.calli (cA w) j)
  | 0x64 => ok (x.isNone && cA w == 0 && cP w == 0 && !cPN w) (.ret j)
  | 0x65 => j.bind fun n => ok (x.isNone && !cPN w) (.join (cA w) (cP w) n)
  | 0x66 => ok (x.isNone && cA w == 0 && cP w == 0 && !cPN w && j.isNone) .exit
  | 0x67 => (tgt x).bind fun t => ok (!cPN w && j.isNone) (.spawn (cA w) (cP w) t)
  | _ => none

/-- Lane opcodes 0x68-0x72 and 0x7F: synchronisation, rays, SYS. -/
def laneSync (w : Word) (x : Option Word) : Option Instr :=
  match (op w).toNat with
  | 0x68 => (redop ((fB w).extractLsb' 0 4)).bind fun o =>
      ok (x.isNone && !fHB w && (fB w).extractLsb' 4 3 == 0#3 && (fD w).extractLsb' 3 4 == 0#4)
        (.redq ((fD w).extractLsb' 0 3) o (fA w) (fHA w))
  | 0x69 =>
      if x.isNone && fA w == 0 && !fHA w && !fHB w && (fB w).extractLsb' 5 2 == 0#2 then
        (if m7 (fB w) 4 then some (.dqpop (fD w) (some ((fB w).extractLsb' 0 4)))
         else ok ((fB w).extractLsb' 0 4 == 0#4) (.dqpop (fD w) none))
      else none
  | 0x6A =>
      if x.isNone && !fHA w && !fHB w && (fD w).extractLsb' 5 2 == 0#2 && (fA w).extractLsb' 4 3 == 0#3 then
        (if fB w == 1 then some (.bara ((fD w).extractLsb' 0 5) (some ((fA w).extractLsb' 0 4)))
         else ok (fB w == 0 && fA w == 0) (.bara ((fD w).extractLsb' 0 5) none))
      else none
  | 0x6B => ok (x.isNone && !fHA w && !fHB w && (fD w).extractLsb' 5 2 == 0#2 && (fA w).extractLsb' 4 3 == 0#3 &&
      (fB w == 0 || (fB w == 1 && fA w == 0)))
      (.barw ((fD w).extractLsb' 0 5) (fB w == 1) ((fA w).extractLsb' 0 4))
  | 0x6C => (src w x).bind fun s =>
      ok (s.2 == 0 && fA w == 0 && !fHA w && (fD w).extractLsb' 4 3 == 0#3) (.rclaim ((fD w).extractLsb' 0 4) s.1)
  | 0x6D => (src w x).bind fun s =>
      ok ((s.2 == 0 || s.2 == 1) && fA w == 0 && !fHA w && (fD w).extractLsb' 4 3 == 0#3)
        (.rrel ((fD w).extractLsb' 0 4) s.1 (s.2 == 1))
  | 0x6E => (src w x).bind fun s => ok (s.2 == 0 && fD w == 0) (.trdy (fA w) (fHA w) s.1)
  | 0x70 => x.bind fun e =>
      let i := Instr.rayq (fD w) (fA w) (fLA w) (bits e 0 7) (bits e 8 4) (bit e 12)
      ok (fMOD w == 0 && fMOD2 w == 0 && !bit e 7 && bits e 13 19 == 0 && i.wf) i
  | 0x71 => win w x .rwsend
  | 0x72 =>
    match x with
    | none => ok (fA w == 0 && blockReg (fD w)) (.rwrecv (fD w) (fMOD2 w ++ fMOD w) (fLA w))
    | some e => ok (fA w == 0 && blockReg (fD w) && bits e 0 8 == 0 && bits e 12 20 == 0)
        (.rwrecvNb (fD w) (fMOD2 w ++ fMOD w) (fLA w) (bits e 8 4))
  | 0x7F => sys w x
  | _ => none

/-- The instruction of a lane word and its extension word, if every field is one the instruction defines. -/
def lane (w : Word) (x : Option Word) : Option Instr :=
  if fX w != x.isSome then none
  else if (op w).toNat < 0x20 then laneInt w x
  else if (op w).toNat < 0x34 then laneFp w x
  else if (op w).toNat < 0x40 then laneFunc w x
  else if (op w).toNat < 0x50 then laneNarrow w x
  else if (op w).toNat < 0x60 then laneMem w x
  else if (op w).toNat < 0x68 then laneCtl w x
  else laneSync w x

/-! ## Steering -/

/-- The second operand of an S-format instruction (R298). -/
def ssrc (w : Word) (x : Option Word) : Option SSrc :=
  match x with
  | none => some (.reg (sB w))
  | some e => if sB w == 0 then some (.imm e) else none

/-- D, A, B and MOD 0. -/
def s3 (w : Word) (x : Option Word) (k : S3 → Instr) : Option Instr :=
  (ssrc w x).bind fun b => ok (sMOD w == 0) (k ⟨sD w, sA w, b⟩)

/-- D, A, B and MOD[0]. -/
def s3m (w : Word) (x : Option Word) (k : S3 → Bool → Instr) : Option Instr :=
  (ssrc w x).bind fun b => ok ((sMOD w).extractLsb' 1 4 == 0#4) (k ⟨sD w, sA w, b⟩ (sMOD w == 1))

/-- D and A, B zero, X clear, MOD 0. -/
def s2 (w : Word) (x : Option Word) (k : S2 → Instr) : Option Instr :=
  ok (x.isNone && sB w == 0 && sMOD w == 0) (k ⟨sD w, sA w⟩)

/-- Steering opcodes 0x00-0x15 (Table 13.2, R303-R305). -/
def steerInt (w : Word) (x : Option Word) : Option Instr :=
  match (op w).toNat with
  | 0x00 => s3 w x .sadd
  | 0x01 => s3m w x .ssub
  | 0x02 => s3 w x .smul
  | 0x03 => s3m w x .smulh
  | 0x04 => s3m w x .smin
  | 0x05 => s3m w x .smax
  | 0x06 => s3 w x .sand
  | 0x07 => s3 w x .sor
  | 0x08 => s3 w x .sxor
  | 0x09 => s3 w x .sshl
  | 0x0A => s3 w x .sshr
  | 0x0B => s3 w x .ssar
  | 0x0C => s3 w x .sbfx
  | 0x0D => s2 w x .spopc
  | 0x0E => s2 w x .sclz
  | 0x0F => (ssrc w x).bind fun b => ok (sMOD w == 0) (.scmp (icond ((sD w).extractLsb' 3 3)) ((sD w).extractLsb' 0 3) (sA w) b)
  | 0x10 => (ssrc w x).bind fun b => ok ((sMOD w).extractLsb' 4 1 == 0#1)
      (.ssel ⟨sD w, sA w, b⟩ ((sMOD w).extractLsb' 0 3) ((sMOD w).extractLsb' 3 1 == 1#1))
  | 0x11 => (ssrc w x).bind fun b => ok (sMOD w == 0 && sA w == 0) (.smov (sD w) b)
  | 0x12 => (s3 w x .sadd64).bind fun i => ok i.wf i
  | 0x13 => ok (x.isNone && (sMOD w).extractLsb' 3 2 == 0#2 && (sD w).extractLsb' 3 3 == 0#3 &&
        (sA w).extractLsb' 3 3 == 0#3 && (sB w).extractLsb' 3 3 == 0#3)
      (.clop (plop ((sMOD w).extractLsb' 0 3)) ((sD w).extractLsb' 0 3) ((sA w).extractLsb' 0 3) ((sB w).extractLsb' 0 3))
  | 0x14 => s3m w x .sdiv
  | 0x15 => s3m w x .srem
  | _ => none

/-- Steering opcodes 0x20-0x25 (Table 13.4). -/
def steerCtl (w : Word) (x : Option Word) : Option Instr :=
  match (op w).toNat with
  | 0x20 => (tgt x).bind fun t =>
      ok (sD w == 0 && sB w == 0 && (sA w).extractLsb' 3 3 == 0#3 && (sMOD w).extractLsb' 1 4 == 0#4)
        (.sbr ((sA w).extractLsb' 0 3) (sMOD w == 1) t)
  | 0x21 => (tgt x).bind fun t => ok (sD w == 0 && sA w == 0 && sB w == 0 && sMOD w == 0) (.sjmp t)
  | 0x22 => (tgt x).bind fun t => ok (sD w == 0 && sA w == 0 && sB w == 0 && sMOD w == 0) (.scall t)
  | 0x23 => ok (x.isNone && sD w == 0 && sA w == 0 && sB w == 0 && sMOD w == 0) .sret
  | 0x24 => ok (x.isNone && sD w == 0 && sA w == 0 && sB w == 0 && sMOD w == 0) .sdone
  | 0x25 => (tgt x).bind fun t => ok (sA w == 0 && sB w == 0 && sMOD w == 0) (.sloop (sD w) t)
  | _ => none

/-- Steering opcodes 0x28-0x2E (13.4, 13.5). -/
def steerMem (w : Word) (x : Option Word) : Option Instr :=
  match (op w).toNat with
  | 0x28 => (ssrc w x).bind fun b => ok (sMOD w == 0 && sA w == 0 && (sD w).extractLsb' 2 4 == 0#4)
      (.dqpush ((sD w).extractLsb' 0 2) b)
  | 0x29 => (ssrc w x).bind fun b => ok (sMOD w == 0 && (sA w).extractLsb' 3 3 == 0#3)
      (.qrd (sD w) ((sA w).extractLsb' 0 3) b)
  | 0x2A => (size (0#1 ++ (sMOD w).extractLsb' 0 2)).bind fun sz =>
      let i := Instr.sld (sD w) (sA w) sz ((sMOD w).extractLsb' 2 1 == 1#1) ((sMOD w).extractLsb' 3 2) x
      ok (sB w == 0 && i.wf) i
  | 0x2B => (size (0#1 ++ (sMOD w).extractLsb' 0 2)).bind fun sz =>
      let i := Instr.sst (sD w) (sA w) sz ((sMOD w).extractLsb' 3 2) x
      ok (sB w == 0 && (sMOD w).extractLsb' 2 1 == 0#1 && i.wf) i
  | 0x2C =>
      let i := Instr.satom (sD w) (sA w) (sB w) (atomOp ((sMOD w).extractLsb' 0 3))
        ((sMOD w).extractLsb' 3 1 == 1#1) ((sMOD w).extractLsb' 4 1 == 1#1)
      ok (x.isNone && i.wf) i
  | 0x2D => (scope ((sMOD w).extractLsb' 0 2)).bind fun s =>
      ok (x.isNone && sD w == 0 && sA w == 0 && sB w == 0 && (sMOD w).extractLsb' 3 2 == 0#2)
        (.sfence s ((sMOD w).extractLsb' 2 1 == 1#1))
  | 0x2E => (special (sA w).toNat).bind fun s =>
      ok (x.isNone && sB w == 0 && sMOD w == 0 && (Instr.srds (sD w) s).wf) (.srds (sD w) s)
  | _ => none

/-- The common fields of an engine command (R183). -/
def eargs (w : Word) : EArgs := ⟨sD w, eBAR w, eSCOPE w, bit w 20, bit w 21, bit w 22⟩

/-- E-format opcodes (Tables 4.7, 16.5, 16.7, 18.3, 19.6, R344); the second word is always there. -/
def steerE (w : Word) (e : Word) : Option Instr :=
  match (op w).toNat with
  | 0x30 => (copyKind (bits e 0 2)).bind fun sk => (copyKind (bits e 2 2)).bind fun dk =>
      let i := Instr.copy (eargs w) sk dk (bits e 4 5) (bits e 9 5)
      ok ((eMOD w).extractLsb' 1 8 == 0#8 && bits e 14 18 == 0 && i.wf) i
  | 0x31 => (cubeMode ((eMOD w).extractLsb' 1 3)).bind fun m =>
      let i := Instr.cube (eargs w) m ((eMOD w).extractLsb' 4 1 == 1#1) (bits e 0 5) (bits e 5 5) (bits e 10 5) (bits e 15 4)
      ok ((eMOD w).extractLsb' 5 4 == 0#4 && bits e 19 13 == 0 && i.wf) i
  | 0x32 => (drainFmt ((eMOD w).extractLsb' 1 3)).bind fun f =>
      let i := Instr.cdrain (eargs w) f ((eMOD w).extractLsb' 4 1 == 1#1) (bits e 0 5) (bits e 5 4) (bits e 9 4)
      ok ((eMOD w).extractLsb' 5 4 == 0#4 && bits e 13 19 == 0 && i.wf) i
  | 0x37 =>
      if eSCOPE w == 0 && !bit w 20 && !bit w 21 && (eMOD w).extractLsb' 1 8 == 0#8 && e == 0 then
        (if (eMOD w).extractLsb' 0 1 == 1#1 then
           ok (decide ((sD w).toNat ≤ 56)) (.bararmTile (sD w) (eBAR w))
         else ok (sD w == 0) (.bararm (eBAR w)))
      else none
  | 0x38 =>
      let i := Instr.coll (eargs w) ((eMOD w).extractLsb' 1 2) (bits e 0 8)
      ok ((eMOD w).extractLsb' 3 6 == 0#6 && bits e 8 24 == 0 && i.wf) i
  | 0x3D => ok (eBAR w == 0 && eSCOPE w == 0 && !bit w 20 && !bit w 21 && eMOD w == 0 && bits e 1 31 == 0 &&
      decide ((sD w).toNat ≤ 56)) (.attime (sD w) (bit e 0))
  | _ => none

/-- S-format opcodes 0x33-0x3C and 0x40-0x45, 0x7F (chapters 6, 13, 16, 17, 18). -/
def steerObj (w : Word) (x : Option Word) : Option Instr :=
  match (op w).toNat with
  | 0x33 => (ssrc w x).bind fun b => ok (sA w == 0 && sMOD w == 0) (.aclaim (sD w) b)
  | 0x34 => (ssrc w x).bind fun b => ok (sD w == 0 && sA w == 0 && sMOD w == 0) (.arel b)
  | 0x35 =>
      if x.isNone && sB w == 0 && (sD w).extractLsb' 5 1 == 0#1 && (sMOD w).extractLsb' 1 4 == 0#4 then
        (if sMOD w == 1 then ok (sA w == 0) (.finit ((sD w).extractLsb' 0 5) none)
         else some (.finit ((sD w).extractLsb' 0 5) (some (sA w))))
      else none
  | 0x36 => (ssrc w x).bind fun b =>
      ok (sA w == 0 && (sD w).extractLsb' 5 1 == 0#1 && (sMOD w).extractLsb' 1 4 == 0#4)
        (.bari ((sD w).extractLsb' 0 5) (sMOD w == 1) b)
  | 0x39 => (ssrc w x).bind fun b => some (.rwgrant (sD w) (sA w) b (sMOD w))
  | 0x3A =>
      if x.isNone && sB w == 0 && (sD w).extractLsb' 5 1 == 0#1 && (sA w).extractLsb' 3 3 == 0#3 &&
         (sMOD w).extractLsb' 1 4 == 0#4 then
        (if sMOD w == 1 then some (.sbara ((sD w).extractLsb' 0 5) (some ((sA w).extractLsb' 0 3)))
         else ok (sA w == 0) (.sbara ((sD w).extractLsb' 0 5) none))
      else none
  | 0x3B => ok (x.isNone && sB w == 0 && (sD w).extractLsb' 5 1 == 0#1 && (sA w).extractLsb' 3 3 == 0#3 &&
         (sMOD w).extractLsb' 1 4 == 0#4 && (sMOD w == 0 || sA w == 0))
      (.sbarw ((sD w).extractLsb' 0 5) (sMOD w == 1) ((sA w).extractLsb' 0 3))
  | 0x3C => ok (x.isNone && sD w == 0 && sMOD w == 0 && evenS (sA w) && evenS (sB w)) (.cwait (sA w) (sB w))
  | 0x40 => ok (x.isNone && sB w == 0 && sMOD w == 0 && evenS (sA w) && evenS (sD w)) (.launch (sD w) (sA w))
  | 0x41 =>
      if x.isNone && sB w == 0 && sD w == 0 && (sMOD w).extractLsb' 1 4 == 0#4 then
        (if sMOD w == 1 then some (.waitch (some (sA w))) else ok (sA w == 0) (.waitch none))
      else none
  | 0x42 => (ssrc w x).bind fun b => ok (sD w == 0 && sA w == 0 && sMOD w == 0) (.bwp b)
  | 0x43 => ok (x.isNone && sD w == 0 && sA w == 0 && sB w == 0 && sMOD w == 0) .gdetach
  | 0x44 =>
      if sD w == 0 && sA w == 0 && (sMOD w).extractLsb' 1 4 == 0#4 then
        (if sMOD w == 1 then ok (x.isNone && sB w == 0) (.rrinv none)
         else match x with
          | none => some (.rrinv (some (.reg (sB w))))
          | some e => ok (sB w == 0 && bits e 16 16 == 0) (.rrinv (some (.imm (bits e 0 16)))))
      else none
  | 0x45 =>
      if sA w == 0 && sMOD w == 0 then
        (match x with
          | none => some (.wprobe (sD w) (.reg (sB w)))
          | some e => ok (sB w == 0 && bits e 16 16 == 0) (.wprobe (sD w) (.imm (bits e 0 16))))
      else none
  | 0x7F =>
      if sD w == 0 && sA w == 0 && sB w == 0 then
        (match (sMOD w).toNat with
          | 0 => some (.strap x)
          | 1 => ok x.isNone .sbrk
          | 2 => ok x.isNone .snop
          | 3 => ok x.isNone .syld
          | _ => none)
      else none
  | _ => none

/-- E-format opcodes of Table 8.9. -/
def isE (o : Nat) : Bool := o == 0x30 || o == 0x31 || o == 0x32 || o == 0x37 || o == 0x38 || o == 0x3D

/-- The instruction of a steering word and its second word, if every field is one the instruction defines. -/
def steer (w : Word) (x : Option Word) : Option Instr :=
  if fX w != x.isSome then none
  else if isE (op w).toNat then x.bind fun e => steerE w e
  else if (op w).toNat < 0x16 then steerInt w x
  else if (op w).toNat < 0x28 then steerCtl w x
  else if (op w).toNat < 0x2F then steerMem w x
  else steerObj w x

/-- Whether an instruction word has a second word (R170): X set, or E format whatever bit 31 holds. -/
def hasSecond (st : Stream) (w : Word) : Bool := fX w || (st == .steer && isE (op w).toNat)

/-- An R-format lane word (Table 8.2); `g` is the guard bit. -/
def rWord (o : BitVec 7) (g : Bool) (d a b : BitVec 7) (ha hb x : Bool) : Word :=
  BitVec.ofBool x ++ BitVec.ofBool hb ++ BitVec.ofBool ha ++ BitVec.ofBool g ++ b ++ a ++ d ++ o
/-- A Q- or M-format lane word. -/
def qWord (o : BitVec 7) (g : Bool) (d a : BitVec 7) (la : BitVec 4) (md : BitVec 3) (m2 : BitVec 2) (x : Bool) : Word :=
  BitVec.ofBool x ++ m2 ++ BitVec.ofBool g ++ md ++ la ++ a ++ d ++ o
/-- A C-format lane word. -/
def cWord (o : BitVec 7) (g : Bool) (a : BitVec 7) (p : BitVec 4) (pn : Bool) (j : Option (BitVec 4)) (x : Bool) : Word :=
  BitVec.ofBool x ++ 0#2 ++ BitVec.ofBool g ++ BitVec.ofBool j.isSome ++ 0#4 ++ j.getD 0 ++ BitVec.ofBool pn ++ p ++ a ++ o
/-- An S-format steering word. -/
def sWord (o : BitVec 7) (g : Bool) (d a b : BitVec 6) (md : BitVec 5) (x : Bool) : Word :=
  BitVec.ofBool x ++ md ++ BitVec.ofBool g ++ b ++ a ++ d ++ o
/-- An E-format steering word. -/
def eWord (o : BitVec 7) (pb : BitVec 6) (bar : BitVec 5) (sc : BitVec 2) (acq rel : Bool) (md : BitVec 9) : Word :=
  1#1 ++ md ++ BitVec.ofBool rel ++ BitVec.ofBool acq ++ sc ++ bar ++ pb ++ o

end Dec

open Dec

/-- Decode one word of a stream with its second word, rejecting by name (R192, R193 checks 2 and 3). -/
def decode (st : Stream) (w : Word) (x : Option Word) : Except Reject Instr :=
  match st with
  | .event => .error .opcode
  | .lane =>
    if laneOp (op w).toNat then (match lane w x with | some i => .ok i | none => .error .field)
    else .error .opcode
  | .steer =>
    if steerOp (op w).toNat then (match steer w x with | some i => .ok i | none => .error .field)
    else .error .opcode

/-- The guard bit of a word: bit 28 of a lane word, bit 25 of an S-format word; an E-format instruction is guarded as a
whole (R177, R183). -/
def guardBit (st : Stream) (w : Word) : Bool :=
  match st with
  | .steer => if isE (op w).toNat then true else bit w 25
  | _ => bit w 28

/-- The little-endian word of four bytes (R4). -/
def wordOf (b0 b1 b2 b3 : Byte) : Word := b3 ++ b2 ++ b1 ++ b0
/-- The four bytes of a word, lowest first (R4). -/
def bytesOf (w : Word) : List Byte := [w.extractLsb' 0 8, w.extractLsb' 8 8, w.extractLsb' 16 8, w.extractLsb' 24 8]

/-- Decode the first instruction of a stretch of bytes: the instruction and the bytes after it. -/
def decodeBytes (st : Stream) (bs : List Byte) : Except Reject (Instr × List Byte) :=
  match bs with
  | b0 :: b1 :: b2 :: b3 :: r =>
    let w := wordOf b0 b1 b2 b3
    if hasSecond st w then
      match r with
      | c0 :: c1 :: c2 :: c3 :: r' =>
        match decode st w (some (wordOf c0 c1 c2 c3)) with
        | .ok i => .ok (i, r')
        | .error e => .error e
      | _ => .error .short
    else
      match decode st w none with
      | .ok i => .ok (i, r)
      | .error e => .error e
  | _ => .error .short

/-- The host's question: the instruction whose bits are `w`, the first word in bits [31:0] and the second above it. The
lane map is asked first and then the steering map (log entry 8). -/
def decodeTableWord (nbits w : Nat) : Option Instr :=
  let v := w % 2 ^ nbits
  let bs := bytesOf (BitVec.ofNat 32 v) ++ bytesOf (BitVec.ofNat 32 (v / 2 ^ 32))
  match decodeBytes .lane bs with
  | .ok r => some r.1
  | .error _ => match decodeBytes .steer bs with | .ok r => some r.1 | .error _ => none


namespace Enc

/-- A word and, in immediate form, its extension word. -/
def withExt (w : Word) (x : Option Word) : List Word := match x with | none => [w] | some e => [w, e]

/-- The immediate of a second operand. -/
def srcExt (b : Src) : Option Word := match b with | .reg _ _ => none | .imm w => some w
/-- The B field of a second operand: the register, or the modifier. -/
def srcB (b : Src) (m : BitVec 7) : BitVec 7 := match b with | .reg r _ => r | .imm _ => m
/-- The hold bit of a second operand. -/
def srcHB (b : Src) : Bool := match b with | .reg _ h => h | .imm _ => false

/-- An integer R-format instruction whose D field is `d` and A field `a` (R249). -/
def rSrc (o : BitVec 7) (g : Bool) (d a : BitVec 7) (ha : Bool) (b : Src) (m : BitVec 7) : List Word :=
  withExt (rWord o g d a (srcB b m) ha (srcHB b) (srcExt b).isSome) (srcExt b)

/-- D, A, B registers. -/
def int3 (o : BitVec 7) (g : Bool) (r : R3) (m : BitVec 7) : List Word := rSrc o g r.d r.a r.ha r.b m
/-- D, A registers with control bits in B. -/
def ctl2 (o : BitVec 7) (g : Bool) (r : R2) (b : BitVec 7) : List Word := [rWord o g r.d r.a b r.ha false false]

/-- A modifier of 0 or 1. -/
def flag7 (b : Bool) : BitVec 7 := if b then 1 else 0

/-- The extension word of a floating-point second operand (R275). -/
def fExt (b : FSrc) : Option Word :=
  match b with
  | .reg _ _ => none
  | .xreg r => some (0#25 ++ r)
  | .imm w => some w
/-- The B field of a floating-point second operand: the register, or RB and the modifier. -/
def fB7 (b : FSrc) (m : BitVec 6) : BitVec 7 := match b with | .reg r _ => r | .xreg _ => 1#1 ++ m | .imm _ => 0#1 ++ m
/-- The hold bit of a floating-point second operand. -/
def fHB7 (b : FSrc) : Bool := match b with | .reg _ h => h | .xreg _ => false | .imm _ => false

/-- A floating-point R-format instruction (R275). -/
def fSrc (o : BitVec 7) (g : Bool) (d a : BitVec 7) (ha : Bool) (b : FSrc) (m : BitVec 6) : List Word :=
  withExt (rWord o g d a (fB7 b m) ha (fHB7 b) (fExt b).isSome) (fExt b)
/-- D, A, B registers, floating point. -/
def fp3 (o : BitVec 7) (g : Bool) (r : F3) (m : BitVec 6) : List Word := fSrc o g r.d r.a r.ha r.b m
/-- Q format without extension. -/
def q2 (o : BitVec 7) (g : Bool) (r : Q2) : List Word := [qWord o g r.d r.a r.la 0 (rmBits r.rm) false]
/-- M format, offset layout. -/
def mem (o : BitVec 7) (g : Bool) (m : MArgs) : List Word :=
  withExt (qWord o g m.d m.a m.la (sizeBits m.sz) m.hint m.off.isSome) m.off
/-- M format, window layout. -/
def win (o : BitVec 7) (g : Bool) (m : WArgs) : List Word :=
  [qWord o g m.d m.a m.la (sizeBits m.sz) m.hint true, 0#14 ++ BitVec.ofBool m.rel ++ BitVec.ofBool m.acq ++ m.handle]
/-- The extension word that holds a target. -/
def tgtWord (t : Tgt) : Word := 0#8 ++ t
/-- QDOT8 and QDOT4. -/
def qdot (o : BitVec 7) (g : Bool) (q : QDot) : List Word :=
  [rWord o g q.d q.a (0#4 ++ rmBits q.rm ++ BitVec.ofBool q.dx) q.ha false true,
   0#12 ++ q.sb ++ q.sa ++ 0#1 ++ q.s ++ 0#1 ++ q.b]

/-- The immediate of a steering second operand. -/
def sExt (b : SSrc) : Option Word := match b with | .reg _ => none | .imm w => some w
/-- The B field of a steering second operand. -/
def sB6 (b : SSrc) : BitVec 6 := match b with | .reg r => r | .imm _ => 0
/-- An S-format instruction with a second operand. -/
def sSrc (o : BitVec 7) (g : Bool) (d a : BitVec 6) (b : SSrc) (m : BitVec 5) : List Word :=
  withExt (sWord o g d a (sB6 b) m (sExt b).isSome) (sExt b)
/-- D, A, B of the S format. -/
def s3 (o : BitVec 7) (g : Bool) (r : S3) (m : BitVec 5) : List Word := sSrc o g r.d r.a r.b m
/-- A modifier of 0 or 1. -/
def flag5 (b : Bool) : BitVec 5 := if b then 1 else 0
/-- A handle operand's B field and extension. -/
def hWords (o : BitVec 7) (g : Bool) (d : BitVec 6) (h : HSrc) : List Word :=
  match h with
  | .imm n => [sWord o g d 0 0 0 true, 0#16 ++ n]
  | .reg b => [sWord o g d 0 b 0 false]
/-- The first word of an engine command: MOD[8:1] is `md`. -/
def eng (o : BitVec 7) (e : EArgs) (md : BitVec 8) : Word :=
  eWord o e.pb e.bar e.scope e.acq e.rel (md ++ BitVec.ofBool e.arv)
/-- The SYS word of a sub-operation (Table 8.8). -/
def sys (g : Bool) (d a b : BitVec 7) (x : Option Word) : List Word := withExt (rWord 0x7F g d a b false false x.isSome) x

end Enc

open Enc in
/-- The words of a well-formed instruction with guard bit `g`, laid out from the encoding tables; an event has none. -/
def encodeWith (g : Bool) (i : Instr) : List Word :=
  match i with
  | .iadd o => int3 0x00 g o 0
  | .isub o rev => int3 0x01 g o (flag7 rev)
  | .imul o => int3 0x02 g o 0
  | .imulh o u => int3 0x03 g o (flag7 u)
  | .imad o => int3 0x04 g o 0
  | .imin o u => int3 0x05 g o (flag7 u)
  | .imax o u => int3 0x06 g o (flag7 u)
  | .iabs o => ctl2 0x07 g o 0
  | .and o => int3 0x08 g o 0
  | .or o => int3 0x09 g o 0
  | .xor o => int3 0x0A g o 0
  | .andn o => int3 0x0B g o 0
  | .shl o => int3 0x0C g o 0
  | .shr o => int3 0x0D g o 0
  | .sar o => int3 0x0E g o 0
  | .rol o => int3 0x0F g o 0
  | .bfx o => int3 0x10 g o 0
  | .bfi o => int3 0x11 g o 0
  | .popc o => ctl2 0x12 g o 0
  | .clz o => ctl2 0x13 g o 0
  | .brev o => ctl2 0x14 g o 0
  | .icmp c p o => rSrc 0x15 g (icondBits c ++ p) o.a o.ha o.b 0
  | .isel o w p n => withExt (rWord 0x16 g o.d o.a (0#2 ++ BitVec.ofBool n ++ p) o.ha false w.isSome) w
  | .mov d b => rSrc 0x17 g d 0 false b 0
  | .movs d n => [rWord 0x18 g d 0 (0#1 ++ n) false false false]
  | .iadd64 o => int3 0x19 g o 0
  | .imulw o sg => int3 0x1A g o (flag7 sg)
  | .plop c d x y => [rWord 0x1B g (plopBits c ++ d) (0#3 ++ x) (0#3 ++ y) false false false]
  | .pmovGet d => [rWord 0x1C g d 0 0 false false false]
  | .pmovPut r ha => [rWord 0x1C g 0 r 1 ha false false]
  | .pmovSet w => [rWord 0x1C g 0 0 2 false false true, w]
  | .setx n v =>
    match v with
    | .reg r ha => [rWord 0x1D g (0#5 ++ n) r 0 ha false false]
    | .imm b l => [rWord 0x1D g (0#5 ++ n) 0 0 false false true, 0#18 ++ l ++ b]
  | .movx d n b => rSrc 0x1E g d (0#5 ++ n) false b 0
  | .stx d n b => rSrc 0x1F g d (0#5 ++ n) false b 0
  | .fadd o m => fp3 0x20 g o (0#4 ++ rmBits m)
  | .fsub o m => fp3 0x21 g o (0#4 ++ rmBits m)
  | .fmul o m => fp3 0x22 g o (0#4 ++ rmBits m)
  | .ffma o m => fp3 0x23 g o (0#4 ++ rmBits m)
  | .fmin o p => fp3 0x24 g o (0#5 ++ BitVec.ofBool p)
  | .fmax o p => fp3 0x25 g o (0#5 ++ BitVec.ofBool p)
  | .fcmp c p o => fSrc 0x26 g (fcondBits c ++ p) o.a o.ha o.b 0
  | .fclass o => ctl2 0x27 g o 0
  | .frnd o m => ctl2 0x28 g o (0#5 ++ rmBits m)
  | .f2i o m u => ctl2 0x29 g o (0#4 ++ BitVec.ofBool u ++ rmBits m)
  | .i2f o m u => ctl2 0x2A g o (0#4 ++ BitVec.ofBool u ++ rmBits m)
  | .fcvt o m dir hi => ctl2 0x2B g o (0#2 ++ BitVec.ofBool hi ++ cvtDirBits dir ++ rmBits m)
  | .hadd2 o m bf nb => fp3 0x2C g o (0#2 ++ BitVec.ofBool nb ++ BitVec.ofBool bf ++ rmBits m)
  | .hmul2 o m bf nb => fp3 0x2D g o (0#2 ++ BitVec.ofBool nb ++ BitVec.ofBool bf ++ rmBits m)
  | .hfma2 o m bf nb => fp3 0x2E g o (0#2 ++ BitVec.ofBool nb ++ BitVec.ofBool bf ++ rmBits m)
  | .hminmax2 o bf mx prop => fp3 0x2F g o (0#1 ++ BitVec.ofBool prop ++ BitVec.ofBool mx ++ BitVec.ofBool bf ++ 0#2)
  | .hcmp2 c p o bf => fSrc 0x30 g (fcondBits c ++ p) o.a o.ha o.b (0#3 ++ BitVec.ofBool bf ++ 0#2)
  | .fscale o m => fp3 0x31 g o (0#4 ++ rmBits m)
  | .fexp o m => ctl2 0x32 g o (0#6 ++ BitVec.ofBool m)
  | .fsgn o k => fp3 0x33 g o (0#4 ++ sgnBits k)
  | .rcp o => q2 0x38 g o
  | .rsq o => q2 0x39 g o
  | .sqrt o => q2 0x3A g o
  | .fdiv o b hb => [qWord 0x3B g o.d o.a o.la 0 (rmBits o.rm) true, 0#24 ++ BitVec.ofBool hb ++ b]
  | .ex2 o => q2 0x3C g o
  | .lg2 o => q2 0x3D g o
  | .sinpi o => q2 0x3E g o
  | .cospi o => q2 0x3F g o
  | .f8pk o k m pos => fp3 0x40 g o (pos ++ rmBits m ++ f8kindBits k)
  | .f8up o y e => ctl2 0x41 g o (0#4 ++ BitVec.ofBool e ++ y)
  | .f4pk o k rz pos => fp3 0x42 g o (BitVec.ofBool rz ++ pos ++ f4kindBits k)
  | .f4up o n => ctl2 0x43 g o (0#4 ++ n)
  | .bmax o => fp3 0x44 g o 0
  | .qdot8 o => qdot 0x45 g o
  | .qdot4 o => qdot 0x46 g o
  | .dxexp o k dl => ctl2 0x47 g o (0#1 ++ dl ++ dxkindBits k)
  | .dxdec o four sel s sa => [rWord 0x48 g o.d o.a (0#3 ++ sel ++ BitVec.ofBool four) o.ha false true, 0#22 ++ sa ++ 0#1 ++ s]
  | .ld m => mem 0x50 g m
  | .st m => mem 0x51 g m
  | .lds m => mem 0x52 g m
  | .sts m => mem 0x53 g m
  | .atom m => mem 0x54 g m
  | .atomf m => mem 0x55 g m
  | .atomx m => mem 0x56 g m
  | .ldw m => win 0x57 g m
  | .stw m => win 0x58 g m
  | .atw m => win 0x59 g m
  | .mcst m => win 0x5A g m
  | .rreq m => mem 0x5B g m
  | .pref m => mem 0x5C g m
  | .fence s => [rWord 0x5D g 0 0 (0#5 ++ scopeBits s) false false false]
  | .fadv f c b => rSrc 0x5E g (0#1 ++ BitVec.ofBool c ++ f) 0 false b 0
  | .fcnt d f s => [rWord 0x5F g d 0 (fselBits s ++ f) false false false]
  | .br p n j t => [cWord 0x60 g 0 p n j true, tgtWord t]
  | .jmp t => [cWord 0x61 g 0 0 false none true, tgtWord t]
  | .call t => [cWord 0x62 g 0 0 false none true, tgtWord t]
  | .calli r j => [cWord 0x63 g r 0 false j false]
  | .ret j => [cWord 0x64 g 0 0 false j false]
  | .join r p j => [cWord 0x65 g r p false (some j) false]
  | .exit => [cWord 0x66 g 0 0 false none false]
  | .spawn r p t => [cWord 0x67 g r p false none true, tgtWord t]
  | .redq n o r ha => [rWord 0x68 g (0#4 ++ n) r (0#3 ++ redopBits o) ha false false]
  | .dqpop d p => [rWord 0x69 g d 0 (0#2 ++ BitVec.ofBool p.isSome ++ p.getD 0) false false false]
  | .bara k p => [rWord 0x6A g (0#2 ++ k) (0#3 ++ p.getD 0) (flag7 p.isSome) false false false]
  | .barw k arv p => [rWord 0x6B g (0#2 ++ k) (0#3 ++ p) (flag7 arv) false false false]
  | .rclaim p b => rSrc 0x6C g (0#3 ++ p) 0 false b 0
  | .rrel p b pool => rSrc 0x6D g (0#3 ++ p) 0 false b (flag7 pool)
  | .trdy r ha b => rSrc 0x6E g 0 r ha b 0
  | .rayq d r la b p any => [qWord 0x70 g d r la 0 0 true, 0#19 ++ BitVec.ofBool any ++ p ++ 0#1 ++ b]
  | .rwsend m => win 0x71 g m
  | .rwrecv d f la => [qWord 0x72 g d 0 la (f.extractLsb' 0 3) (f.extractLsb' 3 2) false]
  | .rwrecvNb d f la p => [qWord 0x72 g d 0 la (f.extractLsb' 0 3) (f.extractLsb' 3 2) true, 0#20 ++ p ++ 0#8]
  | .trap c => sys g 0 0 0 c
  | .brkpt => sys g 0 0 1 none
  | .srd d s => sys g d (BitVec.ofNat 7 (specialNo s)) 2 none
  | .nop => sys g 0 0 3 none
  | .yield => sys g 0 0 4 none
  | .stat d c => sys g d 0 5 (c.map fun m => 0#27 ++ m)
  | .sadd o => s3 0x00 g o 0
  | .ssub o rev => s3 0x01 g o (flag5 rev)
  | .smul o => s3 0x02 g o 0
  | .smulh o u => s3 0x03 g o (flag5 u)
  | .smin o u => s3 0x04 g o (flag5 u)
  | .smax o u => s3 0x05 g o (flag5 u)
  | .sand o => s3 0x06 g o 0
  | .sor o => s3 0x07 g o 0
  | .sxor o => s3 0x08 g o 0
  | .sshl o => s3 0x09 g o 0
  | .sshr o => s3 0x0A g o 0
  | .ssar o => s3 0x0B g o 0
  | .sbfx o => s3 0x0C g o 0
  | .spopc o => [sWord 0x0D g o.d o.a 0 0 false]
  | .sclz o => [sWord 0x0E g o.d o.a 0 0 false]
  | .scmp c p r b => sSrc 0x0F g (icondBits c ++ p) r b 0
  | .ssel o c n => s3 0x10 g o (0#1 ++ BitVec.ofBool n ++ c)
  | .smov d b => sSrc 0x11 g d 0 b 0
  | .sadd64 o => s3 0x12 g o 0
  | .clop c d x y => [sWord 0x13 g (0#3 ++ d) (0#3 ++ x) (0#3 ++ y) (0#2 ++ plopBits c) false]
  | .sdiv o u => s3 0x14 g o (flag5 u)
  | .srem o u => s3 0x15 g o (flag5 u)
  | .sbr c n t => [sWord 0x20 g 0 (0#3 ++ c) 0 (flag5 n) true, tgtWord t]
  | .sjmp t => [sWord 0x21 g 0 0 0 0 true, tgtWord t]
  | .scall t => [sWord 0x22 g 0 0 0 0 true, tgtWord t]
  | .sret => [sWord 0x23 g 0 0 0 0 false]
  | .sdone => [sWord 0x24 g 0 0 0 0 false]
  | .sloop d t => [sWord 0x25 g d 0 0 0 true, tgtWord t]
  | .dqpush r b => sSrc 0x28 g (0#4 ++ r) 0 b 0
  | .qrd d q b => sSrc 0x29 g d (0#3 ++ q) b 0
  | .sld d r sz sg hint off => withExt (sWord 0x2A g d r 0 (hint ++ BitVec.ofBool sg ++ (sizeBits sz).extractLsb' 0 2) off.isSome) off
  | .sst d r sz hint off => withExt (sWord 0x2B g d r 0 (hint ++ 0#1 ++ (sizeBits sz).extractLsb' 0 2) off.isSome) off
  | .satom d r b o wide u => [sWord 0x2C g d r b (BitVec.ofBool u ++ BitVec.ofBool wide ++ atomOpBits o) false]
  | .sfence s e => [sWord 0x2D g 0 0 0 (0#2 ++ BitVec.ofBool e ++ scopeBits s) false]
  | .srds d s => [sWord 0x2E g d (BitVec.ofNat 6 (specialNo s)) 0 0 false]
  | .copy e sk dk sf df => [eng 0x30 e 0, 0#18 ++ df ++ sf ++ copyKindBits dk ++ copyKindBits sk]
  | .cube e m init fa fb fc t => [eng 0x31 e (0#4 ++ BitVec.ofBool init ++ cubeModeBits m), 0#13 ++ t ++ fc ++ fb ++ fa]
  | .cdrain e f clr df t dl => [eng 0x32 e (0#4 ++ BitVec.ofBool clr ++ drainFmtBits f), 0#19 ++ dl ++ t ++ df]
  | .aclaim d b => sSrc 0x33 g d 0 b 0
  | .arel b => sSrc 0x34 g 0 0 b 0
  | .finit f r =>
    match r with
    | none => [sWord 0x35 g (0#1 ++ f) 0 0 1 false]
    | some r => [sWord 0x35 g (0#1 ++ f) r 0 0 false]
  | .bari k rst b => sSrc 0x36 g (0#1 ++ k) 0 b (flag5 rst)
  | .bararm k => [eWord 0x37 0 k 0 false false 0, 0]
  | .bararmTile pb k => [eWord 0x37 pb k 0 false false 1, 0]
  | .coll e slot grp => [eng 0x38 e (0#6 ++ slot), 0#24 ++ grp]
  | .rwgrant d r b f => sSrc 0x39 g d r b f
  | .sbara k c => [sWord 0x3A g (0#1 ++ k) (0#3 ++ c.getD 0) 0 (flag5 c.isSome) false]
  | .sbarw k arv c => [sWord 0x3B g (0#1 ++ k) (0#3 ++ c) 0 (flag5 arv) false]
  | .cwait r b => [sWord 0x3C g 0 r b 0 false]
  | .attime pb dt => [eWord 0x3D pb 0 0 false false 0, 0#31 ++ BitVec.ofBool dt]
  | .launch d r => [sWord 0x40 g d r 0 0 false]
  | .waitch r =>
    match r with
    | none => [sWord 0x41 g 0 0 0 0 false]
    | some r => [sWord 0x41 g 0 r 0 1 false]
  | .bwp b => sSrc 0x42 g 0 0 b 0
  | .gdetach => [sWord 0x43 g 0 0 0 0 false]
  | .rrinv h =>
    match h with
    | none => [sWord 0x44 g 0 0 0 1 false]
    | some h => hWords 0x44 g 0 h
  | .wprobe d h => hWords 0x45 g d h
  | .strap c => withExt (sWord 0x7F g 0 0 0 0 c.isSome) c
  | .sbrk => [sWord 0x7F g 0 0 0 1 false]
  | .snop => [sWord 0x7F g 0 0 0 2 false]
  | .syld => [sWord 0x7F g 0 0 0 3 false]
  | .lateResultWrite _ _ => []
  | .activate _ => []
  | .destroy _ => []
  | .invalPage _ => []
  | .invalAll _ => []
  | .bind _ => []
  | .unbind _ => []
  | .doorbell _ _ => []
  | .nopRecord _ => []
  | .launchRecord _ => []
  | .signalRecord _ => []
  | .waitRereadTimer _ => []
  | .tfireReached _ => []
  | .attimeFire _ _ => []
  | .teamPlace _ => []
  | .passoverTimeout _ => []
  | .preemptTimeout _ => []
  | .waitchSaveTimeout _ => []
  | .stageLineLand _ _ _ => []
  | .saveComplete _ => []
  | .teamResume _ => []
  | .gangRound _ => []
  | .gangReservationRequest _ => []
  | .gangRoundTimeout _ => []
  | .gangRelease _ _ => []
  | .gangCommit _ => []
  | .gangStagedReport _ _ => []
  | .gangOpen _ => []
  | .gangBringupTimeout _ _ => []
  | .gangRetry _ => []
  | .detachNotice _ _ _ => []
  | .gangBreak _ _ => []
  | .brokerSilenceTimeout _ _ => []
  | .phaseInForce _ => []
  | .memoryLineAccess _ => []
  | .actIdleTimeout _ => []
  | .retEntryTimeout _ => []
  | .wakeComplete _ => []
  | .bankOn _ => []
  | .clearingEnd _ => []
  | .bankOff _ => []
  | .bankInuse _ => []
  | .bankNotuse _ => []
  | .bankPres _ => []
  | .bankNopres _ => []
  | .patrolIntervalStart => []
  | .patrolRead _ _ _ _ => []
  | .remapLost _ => []
  | .busCodingChoice _ _ => []
  | .stationTrain _ _ => []
  | .stationDown _ => []
  | .stationUp _ => []
  | .reachReport _ _ => []
  | .windowTimeout _ => []
  | .slotTransmit _ => []
  | .slotmapWrite _ _ => []
  | .inboundTransaction _ => []
  | .timeBeacon _ _ => []
  | .beaconLoss => []
  | .rdmaWrite _ _ _ _ => []
  | .rdmaRead _ _ _ _ => []
  | .unsupportedRdmaRequest _ => []
  | .registerWrite _ _ _ _ => []
  | .tsq _ => []
  | .rrqTailNotice => []
  | .fltTailNotice => []
  | .restart _ => []
  | .discard _ => []
  | .killthread _ => []
  | .killteam _ => []
  | .killgrid _ => []
  | .waveSwap _ _ => []
  | .starvationPromote _ _ => []
  | .slotReclaim _ _ => []
  | .formerEmitTimeout _ _ => []
  | .joinTimeout _ _ => []
  | .claimDeadlock _ => []
  | .tileDeadlock _ => []
  | .cwaitPoll _ => []
  | .firedCommandEnqueue _ _ => []
  | .copyLineLand _ _ _ => []
  | .copyComplete _ _ => []
  | .cubePass _ => []
  | .cdrainStep _ => []
  | .cubeComplete _ _ => []
  | .grantMessage _ _ _ _ => []
  | .recordLand _ _ _ _ _ => []
  | .slotReturn _ _ _ => []
  | .closeNotice _ _ _ => []
  | .collStart _ _ => []
  | .readyToReceive _ => []
  | .transferDone _ _ => []
  | .collQuery _ _ _ _ => []
  | .collAbort _ _ _ _ _ _ _ => []
  | .collComplete _ _ => []
  | .teamRetire _ => []
  | .gridRetire _ => []
  | .privateBlockCleared _ _ => []
  | .coldStart => []
  | .status _ => []
  | .quote _ => []
  | .flashwr _ => []
  | .flashseal _ => []
  | .start _ => []
  | .read _ => []
  | .connset _ => []
  | .epset _ => []
  | .msave _ => []
  | .mresume _ => []
  | .powerCapLimit _ _ => []
  | .thermalLimit _ => []
  | .thermalTrip _ => []
  | .reservedEncoding _ => []
  | .windowReply _ _ => []
  | .gangReservationAnswer _ _ _ => []
  | .gangSaveRequest _ => []
  | .tcpConnection _ => []

/-- The words of a well-formed instruction with the guard bit clear. -/
def encode (i : Instr) : List Word := encodeWith false i

end Sys2Proof
end

