-- ==== Sys2Proof/Machine/Map.lean ====
section
/-! DEFINITION. Finite data by number: lists of (key, value) pairs with strictly rising keys.
The sparse form has a default, which no entry holds. -/

namespace Sys2Proof.Machine

/-- A list of (key, value) pairs. -/
abbrev Map (α : Type) := List (Nat × α)

/-- The value at a key, if there is an entry. -/
def Map.find? {α : Type} (m : Map α) (k : Nat) : Option α :=
  match m with
  | [] => none
  | e :: r => if e.1 = k then some e.2 else Map.find? r k

/-- Insert or replace the entry of a key, keeping the keys rising. -/
def Map.put {α : Type} (m : Map α) (k : Nat) (v : α) : Map α :=
  match m with
  | [] => [(k, v)]
  | e :: r => if k < e.1 then (k, v) :: e :: r else if e.1 = k then (k, v) :: r else e :: Map.put r k v

/-- Drop every entry of a key. -/
def Map.erase {α : Type} (m : Map α) (k : Nat) : Map α :=
  m.filter (fun e => decide (e.1 ≠ k))

/-- Change the value at a key, if there is one. -/
def Map.modify {α : Type} (m : Map α) (k : Nat) (f : α → α) : Map α :=
  match m.find? k with
  | none => m
  | some v => m.put k (f v)

/-- The value of a sparse map at a key: the default where nothing is listed. -/
def Map.get {α : Type} (d : α) (m : Map α) (k : Nat) : α :=
  match m with
  | [] => d
  | e :: r => if e.1 = k then e.2 else Map.get d r k

/-- Write a sparse map: writing the default removes the entry. -/
def Map.set {α : Type} [DecidableEq α] (d : α) (m : Map α) (k : Nat) (v : α) : Map α :=
  if v = d then m.erase k else m.put k v

/-- Strictly rising keys, none below a bound. -/
def Map.risingFrom {α : Type} (lo : Nat) (m : Map α) : Bool :=
  match m with
  | [] => true
  | e :: r => decide (lo ≤ e.1) && Map.risingFrom (e.1 + 1) r

/-- Strictly rising keys. -/
def Map.rising {α : Type} (m : Map α) : Bool := Map.risingFrom 0 m

/-- The canonical form of a sparse map: strictly rising keys, no entry equal to the default. -/
def Map.wf {α : Type} [DecidableEq α] (d : α) (m : Map α) : Bool :=
  m.rising && m.all (fun e => decide (e.2 ≠ d))

/-- The lowest number in [lo, lo + n) that is no member of a list. -/
def lowestFree (used : List Nat) : Nat → Nat → Option Nat
  | _, 0 => none
  | lo, n + 1 => if used.contains lo then lowestFree used (lo + 1) n else some lo

/-- Insert by a rising key. -/
def insertBy {α : Type} (key : α → Nat) (a : α) : List α → List α
  | [] => [a]
  | b :: r => if key a ≤ key b then a :: b :: r else b :: insertBy key a r

/-- Sort by a rising key, keeping the order of equals. -/
def sortBy {α : Type} (key : α → Nat) (l : List α) : List α := l.foldr (insertBy key) []

end Sys2Proof.Machine
end

