-- ==== Sys2Proof/Machine/State.lean ====
section
/-! DEFINITION. The whole state of one K9 as plain data, its reset value, and the reasons a step can stop. -/

namespace Sys2Proof.Machine

/-- A position (H, k): word offset of the clause header and index of the instruction (R174). -/
structure Pos where
  h : Nat
  k : Nat
  deriving DecidableEq, Repr

/-- A fault record (Table 20.2). -/
structure FaultRec where
  code : BitVec 8
  src : BitVec 4
  cause : BitVec 4
  id : BitVec 10
  h : Nat
  k : Nat
  addr : DWord
  info : Word
  handle : BitVec 16
  peer : Aid
  ctx : CtxId
  team : BitVec 24
  deriving DecidableEq, Repr

/-- One slot of a fetched clause: an instruction word with its second word, or the fault of a dictionary code (R175, R176). -/
inductive Slot where
  | word (w : Word) (ext : Option Word)
  | bad (code : BitVec 8)
  deriving DecidableEq, Repr

/-- A clause as it was fetched (R34, R168): the header's fields and the slots. -/
structure Clause where
  h : Nat
  slots : List Slot
  ft : Nat
  gen : Bool
  gneg : Bool
  gpred : BitVec 4
  waitll : Nat
  yld : Bool
  deriving DecidableEq, Repr

/-- Where a late result stands: its values have not come, are due to be written, or are written. -/
inductive LateSt where | waiting | due | done
  deriving DecidableEq, Repr

/-- An outstanding late result (R185, R186, R299): the count of its shadow still to run, the registers and predicates it names,
the values and flags due, and where it stands. -/
structure Late where
  id : Nat
  shadow : Nat
  dregs : List Nat
  dpreds : List Nat
  regs : List (Nat × Word)
  preds : List (Nat × Bool)
  flags : BitVec 5
  st : LateSt
  deriving DecidableEq, Repr

/-- A ray query that waits (R402, R407): its operands and the remote records (handle, offset, bytes) read so far. -/
structure RayRun where
  d : Nat
  p : Nat
  any : Bool
  root : DWord
  ray : List Word
  known : List (Nat × Nat × List Byte)
  deriving DecidableEq, Repr

/-- What a thread parked on a scratch line or receive slot still has to do when it is released (R328, R411, R412). -/
inductive Todo where
  | load (sz : Size) (d : Nat) (la : Nat) (addr : Nat) (late15 : Bool)
  | store (addr : Nat) (data : List Byte)
  | atom (op : AtomOp) (unsigned wide : Bool) (addr : Nat) (x y : DWord) (dregs : List Nat) (la : Nat)
  | atomf (addr : Nat) (x : Word) (d la : Nat)
  | ray (run : RayRun) (la : Nat)
  deriving DecidableEq, Repr

/-- Objects on which a lane thread parks (Table 9.5); `issue` is one number for the threads of a wave that parked together (R412). -/
inductive Park where
  | join (j : Nat) (p : Nat)
  | queue (d : Nat) (p : Option Nat)
  | line (l : Nat) (todo : Todo)
  | barrier (k : Nat) (token : Bool)
  | claim (p : Nat)
  | recv (f : Nat) (d : Nat) (la : Nat) (issue : Nat)
  | send (m : WArgs) (aid : Aid) (ctx : CtxId) (key : Word) (box at0 : Nat)
  | redq (n : Nat) (op : RedOp) (x : Word)
  deriving DecidableEq, Repr

/-- Lane thread states (Table 9.1). -/
inductive TState where
  | wave
  | former
  | spilled
  | parked (o : Park)
  | stopped (f : FaultRec)
  | exited
  deriving DecidableEq, Repr

/-- One lane thread (R203, Table 20.7). -/
structure Thread where
  role : Nat
  part : Nat
  st : TState
  pos : Pos
  nextPos : Pos
  g : Bool
  v : Map Word
  p : BitVec 16
  x : Map (BitVec 14)
  link : List Tgt
  depth : Nat
  sticky : BitVec 5
  reported : BitVec 5
  late : List Late
  dpos : Nat
  nxt : Map Nat
  stamp : Nat
  fenced : Bool
  deriving DecidableEq, Repr

/-- A decision queue (R219, R311): entries pushed so far by position modulo 32, tail, head, closed. -/
structure DQueue where
  ent : Map Word
  tail : Nat
  head : Nat
  closed : Bool
  deriving DecidableEq, Repr

/-- One open REDQ step of a role and register (R428): the contributions (tid, x, op). -/
structure RedStep where
  contribs : List (Nat × Word × RedOp)
  deriving DecidableEq, Repr

/-- One arrival at a role's claim step (R431). -/
structure ClaimArr where
  tid : Nat
  rel : Bool
  pool : Bool
  n : Nat
  p : Nat
  deriving DecidableEq, Repr

/-- A role of a team (R39, R126, R219, R428, R431). -/
structure Role where
  nreg : Nat
  first : Nat
  nthr : Nat
  entry : Nat
  held : List Nat
  dq : DQueue
  red : Map (Nat × List RedStep)
  claim : List ClaimArr
  claimOrder : Nat
  deriving DecidableEq, Repr

/-- Why a steering thread is blocked (R300, Table 9.5), or held by a late result (R173, R299); where it goes on, for the waits that an event
elsewhere ends. -/
inductive SBlock where
  | dqpush (role : Nat) | qrd (q : Nat) (seq : BitVec 16) | waitch (one : Option Word) | aclaim (order d n : Nat) (next : Pos) | sbarw (k : Nat) (token : Bool) (next : Pos)
  | cwait (addr want : DWord) (next : Pos) | line | arel | finit | engine | arming | fence | gdetach | done | late
  deriving DecidableEq, Repr

/-- Steering thread states (Table 20.6 SSTATE). -/
inductive SState where
  | running
  | blocked (b : SBlock)
  | done
  | stopped (f : FaultRec)
  deriving DecidableEq, Repr

/-- A fence that the steering thread has met (R316): the engine commands issued before it, and the scope. -/
structure SFence where
  upto : Nat
  eng : Bool
  scope : Scope
  deriving DecidableEq, Repr

/-- The steering thread of a team (R218, R307, R91, R421); `left`: the latest flip that it left by SBARW (R358); the fences that its next
access waits for (R316). -/
structure Steer where
  st : SState
  pos : Pos
  nextPos : Pos
  g : Bool
  clause : Option Clause
  s : Map Word
  c : BitVec 8
  link : List Tgt
  armt : Option DWord
  blatch : Option Nat
  late : List Late
  left : Nat × Nat
  fences : List SFence
  deriving DecidableEq, Repr

/-- A join slot (R225, R226). -/
structure Join where
  mask : List Nat
  arrived : List Nat
  armed : Bool
  deadline : Option Nat
  deriving DecidableEq, Repr

/-- A barrier (Table 18.1); in live mode the list names the lane threads that have arrived in the phase (R414); the stores to memory and to
the team's scratchpad that came before its last flip (R358). -/
structure Bar where
  count : Nat
  arr : Nat
  ph : Bool
  who : List Nat
  flip : Nat × Nat
  deriving DecidableEq, Repr

/-- A feed (Table 14.6), with the box and sender of each record landed and not yet popped (R412). -/
structure Feed where
  fbase : Nat
  flog : Nat
  pcnt : Nat
  ccnt : Nat
  recs : List (Nat × Nat)
  deriving DecidableEq, Repr

/-- An accumulator tile (R373, R380): elements by 64 m + n, flags INV OF UF NX. -/
structure Tile where
  phys : Nat
  e : Map Word
  inv : Bool
  ov : Bool
  uf : Bool
  nx : Bool
  deriving DecidableEq, Repr

/-- The engine commands as captured (R344, R385, R387, R439, R422, R43). -/
inductive EngCmd where
  | copy (e : EArgs) (sk dk : CopyKind) (sf df : Nat) (par : List Word)
  | cube (e : EArgs) (mode : CubeMode) (init : Bool) (fa fb fc t : Nat) (par : List Word)
  | cdrain (e : EArgs) (fmt : DrainFmt) (clr : Bool) (df t delta : Nat) (par : List Word)
  | coll (e : EArgs) (slot : Nat) (grp : BitVec 8) (par : List Word)
  | tile (word slot tile : Word)
  | stage (region : Nat) (before : Bool) (va : Nat) (soff lines : Nat)
  deriving DecidableEq, Repr

/-- Engine entry states (Table 20.9). -/
inductive EngSt where
  | queued | running | held (t : DWord) | armed (bar : Nat) | waiting | faulted (f : FaultRec)
  deriving DecidableEq, Repr

/-- One tile of an open collective at this rank (R445-R451): its control words, LADDR with the RDST doubleword, the schedule step reached, a final
value that is to leave through its window and whether it has been sent, the staging slots it holds, whether the first of them holds a BF16 SUM partial
in FP32, whether complete, whether a store of the program reached it while it was Opal's (R459). -/
structure CollTile where
  ctl : DWord
  extra : DWord × DWord
  step : Nat
  val : List Byte
  sent : Bool
  slots : List Nat
  part : Bool
  done : Bool
  spoiled : Bool
  deriving DecidableEq, Repr

/-- A store of the program to memory or its team's scratchpad before Opal knows where the tiles lie, with the ready bits that were set (R459). -/
structure ScrOrMem where
  scr : Bool
  addr : Nat
  bytes : Nat
  ready : List Nat
  deriving DecidableEq, Repr

/-- An open collective at this rank (R437, R440): `ranks` the descriptor's entries, `perm` the rank of each position, `me` this rank,
`sends` the ready-to-receives that wait here (tile, step, staging address), `asked` those sent from here (tile, step, staging slot), `owed` the
status word of an abort that waits for its line, `bad` that an armed entry named a tile at or above NT (R444), `wrote` the stores before the block
was read (R459), `coming` the steps (tile, step) whose transfer is arriving (R462). -/
structure CollRun where
  seq : BitVec 16
  started : Bool
  hdr : Word
  stage : Nat
  stagesz : Nat
  stat : DWord
  ranks : List DWord
  perm : List Nat
  me : Nat
  tiles : List CollTile
  sends : List (Nat × Nat × DWord)
  asked : List (Nat × Nat × Nat)
  owed : Option DWord
  bad : Bool
  wrote : List ScrOrMem
  coming : List (Nat × Nat)
  deriving DecidableEq, Repr

/-- An engine entry (Table 20.9): committed and speculative positions, units landed out of order, issue order, the stores to memory and to the
team's scratchpad that its reads follow in any case (R358), the transactions made before its issue (R359). -/
structure Eng where
  cmd : EngCmd
  st : EngSt
  attime : Option DWord
  cpos : Nat
  spos : Nat
  landed : List Nat
  order : Nat
  cleared : Bool
  flags : BitVec 5
  run : Option CollRun
  after : Nat × Nat
  since : Nat
  deriving DecidableEq, Repr

/-- Where a team is (R119, R203). -/
inductive Place where
  | resident (core : Nat) (slot : Nat)
  | saved
  deriving DecidableEq, Repr

/-- Bring-up and save stages of a team (R132, R140, R476). -/
inductive Phase where
  | staging | gangWait | running | saving
  deriving DecidableEq, Repr

/-- Gang member states (R144). -/
inductive GState where | attached | detached | done
  deriving DecidableEq, Repr

/-- Gang membership of a team (R49, R144); `broken`: its K9 has recorded the break of the gang (R146). -/
structure GangMem where
  rank : Nat
  size : Nat
  state : GState
  broken : Bool
  deriving DecidableEq, Repr

/-- The parts of an accepted image's header that execution uses (Table 2.1). -/
structure Image where
  kimg : Nat
  codeoff : Nat
  codelen : Nat
  dictoff : Nat
  dictn : Nat
  nfeed : Nat
  minsl : Nat
  deriving DecidableEq, Repr

/-- A team that holds a core or a save slot (R119, Table 20.6); `inWaitch`: it was saved under R96; `sold`: what its scratch stores replaced, the
latest first, `sseq` how many there have been (R358); `away`: the numbers of child grids that it launched on another K9, from which it has moved, and
that have not retired (R478, R484). -/
structure Team where
  ctx : CtxId
  grid : Nat
  gridNo : Word
  index : Nat
  prio : Nat
  accepted : Nat
  depth : Nat
  img : Image
  place : Place
  phase : Phase
  placedAt : Nat
  roles : List Role
  threads : Map Thread
  steer : Steer
  q : Map (Word × BitVec 16)
  scratch : Map Byte
  sold : List (Nat × List Byte)
  sseq : Nat
  slines : Nat
  sbase : Nat
  absent : Map Nat
  tiles : List Tile
  feeds : Map Feed
  bars : Map Bar
  joins : Map Join
  reserve : Nat
  xmask : BitVec 5
  priv : Nat
  lspill : Nat
  eng : Map Eng
  ready : Map (List Nat)
  dead : Bool
  arith : Bool
  killed : Bool
  children : List Nat
  away : List Word
  gang : Option GangMem
  pblk : Option Nat
  sslot : Option Nat
  stuckSince : Option Nat
  waitchSince : Option Nat
  mheld : Bool
  inWaitch : Bool
  lateCtr : Nat
  deriving DecidableEq, Repr

/-- A launch descriptor's fields (Tables 2.4-2.7). -/
structure Desc where
  kimg : Nat
  args : DWord
  nteam : Nat
  nrole : Nat
  gang : Bool
  prio : Nat
  sentry : Nat
  slines : Nat
  acc : Nat
  priv : Nat
  lspill : Nat
  rres : Nat
  xmask : BitVec 5
  ccnt : Nat
  ggrp : Nat
  roles : List (Nat × Nat × Nat)
  waits : List (DWord × DWord)
  iargs : List Word
  regions : List (Nat × Nat × Nat × Nat × Nat)
  feeds : List (Nat × Nat)
  bars : List Nat
  deriving DecidableEq, Repr

/-- A round of the gang coordinator (R137-R140). -/
inductive GangPhase where
  | idle
  | round (since : Nat) (granted : List Nat)
  | failed (since : Nat)
  | committed (since : Nat) (staged : List Nat)
  | opened
  deriving DecidableEq, Repr

/-- An accepted grid (R80, R82, R85, R484): `next` holds the next unplaced team of each die, `reread` the time of its last R86 event, `born` the
device time of its acceptance, `coord` the coordinator's AID, `members` a gang's member states as this K9 knows them (1 DETACHED, 2 DONE, 3 broken;
R144, R146), `begun` that the gang has been opened, `peers` the K9 of each member of the latest round (R141), `ranks` the entries of the gang's group
(R49), `holders` the K9s on which the members were when the gang was last open (R478), `failing` the time of the first of the rounds that have failed
since (R139), `owing` the other K9s whose part in the grid is not over (R484), `parentAway` the gang and the member that launched this grid here and
have moved away since, `drained` the K9s whose members have all completed step 4 of the gang's save as this K9 knows, `saveGo` that all have (R497),
`savedAt` the K9s whose members are all saved, `allSaved` that all are (R507). -/
structure Grid where
  ctx : CtxId
  no : Word
  desc : Desc
  raw : List Byte
  img : Image
  parentTeam : Option Nat
  parentGrid : Option Nat
  depth : Nat
  pcap : Nat
  prio : Nat
  accepted : Nat
  d0 : Nat
  queue : Option Nat
  serialOn : Option Nat
  tfire : Option DWord
  met : List Bool
  eligible : Bool
  notify : Option (DWord × DWord × Nat)
  next : List Nat
  live : Nat
  killedTeam : Bool
  gang : GangPhase
  reread : Nat
  born : DWord
  coord : Aid
  members : Map Nat
  begun : Bool
  peers : Map Aid
  ranks : List DWord
  holders : Map Aid
  failing : Option Nat
  owing : List Aid
  parentAway : Option (Word × Nat)
  drained : List Aid
  saveGo : Bool
  savedAt : List Aid
  allSaved : Bool
  deriving DecidableEq, Repr

/-- A bound work queue (R75-R79). -/
structure Queue where
  ringpa : Nat
  ctx : CtxId
  pcap : Nat
  qlog : Nat
  head : Nat
  tail : Nat
  nqp : Nat
  qerr : Nat
  deriving DecidableEq, Repr

/-- An ACTIVE context (R51, R53); `clearing` lists the private blocks being cleared, by index and bytes (R57). -/
structure Ctx where
  ptbase : Nat
  nb : Nat
  pmax : Nat
  wtbase : Nat
  nwin : Nat
  gdbase : Nat
  ngrp : Nat
  pvbase : Nat
  pvsize : Nat
  cowfl : Nat
  keys : List DWord
  clearing : List (Nat × Nat)
  deriving DecidableEq, Repr

/-- A context's phase register and promise (Table 7.4, R159). -/
structure PhaseReg where
  ph : Nat
  lead : Nat
  force : Nat
  change : Option (Nat × Nat)
  deriving DecidableEq, Repr

/-- A matching, resident translation held by a cluster TLB (R70): context, size, page number, entry's low and high words. -/
structure TlbEntry where
  ctx : CtxId
  size : Nat
  vpn : Nat
  lo : DWord
  hi : DWord
  deriving DecidableEq, Repr

/-- A bank set (Tables 7.1, 7.2, 7.6; R150-R152, R155, R161-R167): the requests that an OFF still waits for and the commands behind it, the row
history, the corrected errors of each row in the interval, the runs of lines that the stager has read in it. -/
structure Bank where
  state : Nat
  inuse : Bool
  pres : Bool
  clr : Bool
  patrol : Bool
  waking : Bool
  offAfter : Option Nat
  cmds : List Nat
  queue : List Nat
  lastAccess : Nat
  cecnt : Nat
  uecnt : Nat
  remaps : Nat
  spare : Nat
  lastrow : Word
  rlost : Bool
  rows : List (Nat × Nat × Nat)
  counts : Map Nat
  remap : Map Nat
  granules : List Nat
  runs : List (Nat × Nat)
  lowToggle : Bool
  deriving DecidableEq, Repr

/-- One wave (R204, R209-R211, R215); its operand latch holds registers with the uses left to them, the oldest first. -/
structure Wave where
  team : Nat
  tids : List Nat
  pos : Pos
  clause : Option Clause
  active : Bool
  yielded : Bool
  readySince : Nat
  heldSince : Nat
  latch : List (Nat × Nat)
  deriving DecidableEq, Repr

/-- One group of the wave former, or spilled from it (R222, R223). -/
structure Group where
  team : Nat
  tids : List Nat
  pos : Pos
  last : Nat
  joined : Bool
  deriving DecidableEq, Repr

/-- One lane partition's scheduler (R209, R222). -/
structure Part where
  waves : Map Wave
  former : List Group
  spilled : List Group
  deriving DecidableEq, Repr

/-- Who waits for a transaction (R336, R337, R402, R410, R411), an engine command with its issue order; a piece of a larger one (R114). -/
inductive TxOwner where
  | load (tid : Nat) (late : Nat) (sz : Size) (d : Nat)
  | store (tid : Nat)
  | atomic (tid : Nat) (late : Nat) (wide : Bool) (d : Nat)
  | mcst (tid : Nat) (batch : Nat) (rank : Nat)
  | record (tid : Nat)
  | ray (tid : Nat) (late : Nat) (run : RayRun)
  | probe (late : Nat) (d : Nat)
  | grant (late : Nat) (d : Nat) (box sender n : Nat)
  | engine (idx unit order : Nat)
  | piece (parent idx : Nat)
  deriving DecidableEq, Repr

/-- An outstanding transaction of this K9 (R107, R362): window offsets `lo` to `lo + len`, the pod of its target if another, the answer
once it has come, whether the target has said that it waits (`told`), whether its thread runs on before the answer (`ahead`), whether it is
sent as pieces (R114), whether it fills a line of the remote-read cache (R349), whether that line has been dropped since (R350), and
the bytes before the first that it asks for in what its request reads (R114). -/
structure Tx where
  team : Nat
  owner : TxOwner
  handle : BitVec 16
  target : Aid
  pod : Option Word
  dest : TxDest
  op : TxOp
  lo : Nat
  len : Nat
  acq : Bool
  rel : Bool
  cls : Nat
  station : Option Nat
  sentAt : Nat
  answer : Option TxReply
  told : Bool
  ahead : Bool
  split : Bool
  fill : Option Nat
  stale : Bool
  skip : Nat
  pos : Pos
  deriving DecidableEq, Repr

/-- A local store or atomic of a lane thread that has not taken its place in the single order yet (R363): to memory at a physical address, or to
its team's scratchpad; for an atomic its operation and the late result that waits for its old value. -/
structure Pending where
  team : Nat
  tid : Nat
  scr : Bool
  addr : Nat
  data : List Byte
  rmw : Option (Todo × Nat)
  deriving DecidableEq, Repr

/-- The bytes that a store to memory replaced, and when (R358). -/
structure Past where
  clock : Nat
  addr : Nat
  old : List Byte
  deriving DecidableEq, Repr

/-- A receive box (R409). -/
structure RBox where
  team : Nat
  feed : Nat
  g : Map Nat
  deriving DecidableEq, Repr

/-- Sender's credits for a box (R409): slots in use and granted. -/
structure Credit where
  target : Aid
  ctx : CtxId
  box : Nat
  u : Nat
  g : Nat
  deriving DecidableEq, Repr

/-- A line of the remote-read cache (R348). -/
structure RrcLine where
  ctx : CtxId
  handle : BitVec 16
  wver : Nat
  off : Nat
  data : List Byte
  deriving DecidableEq, Repr

/-- A gang reservation held by this K9's broker for a coordinator (R137, R138), until open; `resumed`: its member was saved (R141);
`brought`: its state is a copy of a save slot, which is still held elsewhere (R478); `desc`: the descriptor with the region table as its own
context has it (R49). -/
structure Resv where
  grid : Word
  coord : Aid
  member : Nat
  team : Nat
  prio : Nat
  accepted : Nat
  resumed : Bool
  brought : Bool
  committed : Bool
  desc : Desc
  deriving DecidableEq, Repr

/-- A team that waits for a place (R93): a grid's next team, or a saved team. -/
inductive Cand where
  | fresh (grid index : Nat)
  | saved (team : Nat)
  deriving DecidableEq, Repr

/-- A die's placement unit (R94, R95): the teams that have headed its rank and fitted nowhere, each with the time of its first
failure, and the teams behind which the unit places no other. -/
structure Die where
  waits : List (Cand × Nat)
  blocked : List Cand
  deriving DecidableEq, Repr

/-- A member reservation that this K9 refused, with the time of its gang's first failed round as this K9 saw it (R139). -/
structure Refused where
  req : GangReq
  since : Nat
  deriving DecidableEq, Repr

/-- Messages that leave the device: what an outside observer sees; a `message` leaves for another K9 of the pod as a cell. -/
inductive Out where
  | rdma (conn : Nat) (key : Word) (addr : DWord) (data : List Byte)
  | rdmaReply (conn : Nat) (ok : Bool) (data : List Byte)
  | rdmaRefused (conn : Nat)
  | aidReport (station : Nat) (aid : Aid)
  | txReply (station cls : Nat) (peer : Aid) (r : TxReply)
  | cell (station cls : Nat) (peer : Aid) (id : Nat) (dest : TxDest) (op : TxOp)
  | message (station cls : Nat) (peer : Aid) (m : Out)
  | uet (host : BitVec 128) (ports : Byte) (peer : Aid) (id : Nat) (op : TxOp)
  | gangRequest (peer : Aid) (r : GangReq)
  | gangAnswer (peer : Aid) (grid : Word) (member : Nat) (granted : Bool)
  | gangCommit (peer : Aid) (grid : Word)
  | gangRelease (peer : Aid) (grid : Word) (member : Nat)
  | gangStaged (peer : Aid) (grid : Word) (member : Nat)
  | gangOpen (peer : Aid) (grid : Word)
  | gangDetach (grid : Word) (member : Nat) (done : Bool)
  | gangBroken (grid : Word) (member : Nat)
  | gangSave (grid : Word)
  | gangFreed (peer : Aid) (grid : Word) (member : Nat)
  | note (n : Note)
  | uetReply (host : BitVec 128) (ports : Byte) (podn : Word) (peer : Aid) (r : TxReply)
  | uetNote (host : BitVec 128) (ports : Byte) (podn : Word) (peer : Aid) (n : Note)
  | mgmt (conn : Nat) (frame : List Byte)
  | tcp (conn : Option Nat)
  | tcpEnd (conn : Nat)
  deriving DecidableEq, Repr

/-- What a cell carries: a request of this K9, its reply to another, a message that takes no answer. -/
inductive CellItem where
  | tx (id : Nat)
  | reply (r : TxReply)
  | message (m : Out)
  deriving DecidableEq, Repr

/-- A cell that is to leave on a station (R105, R110, R111): its class, its peer, for a reply the station of its request, for a message its home
station; whether it is ready to leave. -/
structure Cell where
  item : CellItem
  cls : Nat
  peer : Aid
  home : Nat
  ready : Bool
  deriving DecidableEq, Repr

/-- A connection table entry (Table 4.8). -/
structure Conn where
  valid : Bool
  port : BitVec 3
  dmr : Bool
  dmrw : Bool
  dcs : Bool
  rqpn : BitVec 24
  spsn : BitVec 24
  rpsn : BitVec 24
  rgid : BitVec 128
  rmac : BitVec 48
  dmrkey : Word
  dcskey : Word
  hostkey : Word
  deriving DecidableEq, Repr

/-- An endpoint table entry (Table 24.7). -/
structure Endp where
  podn : Word
  aid : Aid
  valid : Bool
  addr : BitVec 128
  ports : Byte
  deriving DecidableEq, Repr

/-- The accepted configuration record (Table 24.1). -/
structure Cfg where
  aid : Aid
  patrol : Nat
  ctxtab : Nat
  qtab : Nat
  dbbase : Nat
  rrcbase : Nat
  rrcsize : Nat
  savebase : Nat
  saven : Nat
  hosts : List (BitVec 128)
  deriving DecidableEq, Repr

/-- A power rail's register (Table 24.3). -/
structure Rail where
  cap : BitVec 16
  meas : BitVec 16
  lim : Bool
  deriving DecidableEq, Repr

/-- A response of the management port that is due: its connection, tag and op, the teams whose saves it waits for, the gang that it waits for, the
number of the READ whose lines it waits for, status and payload (R507, R508). -/
structure MgmtAns where
  conn : Nat
  tag : Word
  op : BitVec 16
  wait : List Nat
  gang : Option Word
  reading : Option Nat
  status : BitVec 16
  payload : List Byte
  deriving DecidableEq, Repr

/-- The management controller (24): `measured` the flash objects as they stood at the last start, `conns` the peers of the open TCP connections, by
number 0 to 3, `starting` names a start in progress (true: warm), `trained` the start that last trained every channel and `retrained` the later
starts that retrained one (R501), `answers` the responses that are not yet sent. -/
structure Mgmt where
  accepted : Bool
  flash : Map (List Byte)
  measured : Map (List Byte)
  staged : Map (List Byte)
  lastStart : Nat
  starts : Nat
  conns : Map (BitVec 128)
  starting : Option Bool
  trip : Bool
  hot : Bool
  log : List (BitVec 8 × Nat)
  rails : List Rail
  trained : Nat
  retrained : Map Nat
  answers : List MgmtAns
  deriving DecidableEq, Repr

/-- Pod registers, stations and the device-time unit (Table 5.2, R105, R111, R116-R118): the link delay that each station measured at
training, the class that each last served in an unreserved slot, the slot in which it last sent, the latest median while the count holds
still. -/
structure Pod where
  up : BitVec 16
  dup : BitVec 16
  drop : Word
  reach : Map (List Nat)
  delay : Map Nat
  slotmap : List DWord
  inForce : List DWord
  slotPending : List (Nat × List DWord)
  lastClass : Map Nat
  lastSlot : Map Nat
  lock : Bool
  xpod : Bool
  steps : BitVec 16
  offs : Word
  acquired : Bool
  lastMedian : Option DWord
  goodRun : Nat
  hold : Option DWord
  lastBeacon : Nat
  slewAt : Nat
  deriving DecidableEq, Repr

/-- A ring of the control page (Tables 14.3, 20.4). -/
structure Ring where
  base : Nat
  log : Nat
  head : Nat
  tail : Nat
  lost : Nat
  nqp : Nat
  naddr : DWord
  notified : Nat
  noteAt : Option Nat
  deriving DecidableEq, Repr

/-- A request for device memory that is served line by line, in places of the single order that need not be adjacent (R368, R507): of a
connection, or of a management READ by its number; what is still to be written, or what has been read and how much is left. -/
structure LineJob where
  who : Nat ⊕ Nat
  write : Bool
  addr : Nat
  data : List Byte
  left : Nat
  deriving DecidableEq, Repr

/-- SEQ and LAST of a command status register. -/
structure CmdStat where
  seq : BitVec 16
  last : BitVec 8
  deriving DecidableEq, Repr

/-- A fault command that is not complete (R473): one whose turn has not come, with the grid that it addresses, or a kill that waits for the
accesses that its parties have sent (R372), with its records. -/
inductive FltJob where
  | queued (op : Nat) (x : FltTarget) (grid : Word)
  | kill (teams : List Nat) (tid : Option Nat) (recs : List FaultRec)
  deriving DecidableEq, Repr

/-- The control page's registers that no other record holds (Table 4.9); the fault commands in progress. -/
structure Ctl where
  ctxarg : DWord
  ctxstat : CmdStat
  qstat : CmdStat
  bankstat : CmdStat
  fltgrid : Word
  fltstat : CmdStat
  tsqgrid : Word
  tsqval : DWord
  jobs : List FltJob
  deriving DecidableEq, Repr

/-- An abort as its status word tells it (Table 19.8): cause, code, rank, NORANK. -/
structure CollEnd where
  cause : BitVec 3
  code : BitVec 8
  rank : Nat
  norank : Bool
  deriving DecidableEq, Repr

/-- Opal's per-K9 records (R440, R460): next sequence numbers and the last outcomes (none: completed), by 256 × context + group. -/
structure Opal where
  seqs : Map (BitVec 16)
  outcomes : Map (List (BitVec 16 × Option CollEnd))
  deriving DecidableEq, Repr

/-- One coming turn of the agenda (log entry 1); what the rules leave open to time has turns of its own (R358,
R362, R363, R113, R368), and so has an error that the stager's read of a line finds (R162). -/
inductive Turn where
  | issue (core part slot : Nat)
  | hold (core part slot : Nat)
  | perform (team tid : Nat)
  | ahead (id : Nat)
  | behind (stores scratch : Nat) (i : Instr)
  | receive (queue : Nat)
  | ecc (pa : Nat) (bad : Bool)
  | spread (i : Instr)
  | line (job : Nat)
  | steer (core slot : Nat)
  | event (i : Instr)
  | elapse (ticks : Nat)
  deriving DecidableEq, Repr

/-- A value that a code or dictionary word of a grid held before a store to it while a team of the grid was resident (R34): the grid, the
word's number in physical memory, the value. -/
structure OldWord where
  grid : Nat
  word : Nat
  val : Word
  deriving DecidableEq, Repr

/-- The whole state of one K9. -/
structure State where
  clock : Nat
  dtime : DWord
  agenda : List Turn
  freeCtr : Nat
  cur : Option Party
  cfg : Cfg
  mgmt : Mgmt
  conns : Map Conn
  endps : Map Endp
  mem : List Host.Cell
  oldCode : List OldWord
  past : List Past
  pastCtr : Nat
  view : Nat × Nat
  holding : Bool
  pending : List Pending
  poison : List Nat
  banks : Map Bank
  held : List (Nat × Nat)
  ctxs : Map Ctx
  phases : Map PhaseReg
  tlbs : Map (List TlbEntry)
  rrc : List RrcLine
  queues : Map Queue
  lastLaunch : Map Nat
  grids : Map Grid
  gridCtr : Nat
  acceptCtr : Nat
  dies : Map Die
  teams : Map Team
  teamCtr : Nat
  cores : Map (Map Part)
  steerPtr : Map (Nat × Nat)
  claimCtr : Nat
  orderCtr : Nat
  boxes : Map RBox
  credits : List Credit
  txs : Map Tx
  txCtr : Nat
  cells : List Cell
  rxq : Map (List InTx)
  lineJobs : List LineJob
  resvs : List Resv
  refused : List Refused
  opal : Opal
  pod : Pod
  rrq : Ring
  flt : Ring
  ctl : Ctl
  out : List Out
  deriving DecidableEq, Repr

/-- Why the machine stops. Raised by a meaning only in a state that no run of the device reaches. -/
inductive Fault where
  /-- An instruction of a stream is performed with no current party of that stream, or with a party whose team or
  thread is gone. Raised by the meanings of the lane and steering instructions through their common entry. Safe:
  the step selects a live party before it performs an instruction. -/
  | noParty
  deriving DecidableEq, Repr

/-- Why a meaning refuses. -/
inductive Refusal where
  /-- The instruction has no meaning yet: raised by the dispatch only, by the mnemonic of its row. Safe. -/
  | notModelled (mnemonic : String)
  deriving DecidableEq, Repr

/-- An outcome of this machine. -/
abbrev Res := Host.Outcome State Fault Refusal

/-- The record of a bank set after a cold start (Tables 7.2, 7.6). -/
def Bank.reset : Bank where
  state := 2
  inuse := false
  pres := false
  clr := false
  patrol := false
  waking := false
  offAfter := none
  cmds := []
  queue := []
  lastAccess := 0
  cecnt := 0
  uecnt := 0
  remaps := 0
  spare := 64
  lastrow := 0
  rlost := false
  rows := []
  counts := []
  remap := []
  granules := []
  runs := []
  lowToggle := false

/-- A phase register after ACTIVATE and at reset (R156, Table 7.4). -/
def PhaseReg.reset : PhaseReg := ⟨0, 0, 0, none⟩

/-- A ring's registers at reset (Tables 14.3, 20.4). -/
def Ring.reset : Ring := ⟨0, 0, 0, 0, 0, 0, 0, 0, none⟩

/-- A command status register at reset. -/
def CmdStat.reset : CmdStat := ⟨0, 0⟩

/-- The configuration record the model starts with (log entry 3). -/
def Cfg.reset : Cfg where
  aid := 0
  patrol := 0
  ctxtab := 0x7F00000000
  qtab := 0x7F10000000
  dbbase := 0x04000000
  rrcbase := 0
  rrcsize := 0
  savebase := 0x7E00000000
  saven := 256
  hosts := [0, 0, 0, 0]

/-- The management controller after a cold start (R501, R502, Table 24.3; log entry 3). -/
def Mgmt.reset : Mgmt where
  accepted := true
  flash := []
  measured := []
  staged := []
  lastStart := 1
  starts := 1
  conns := []
  starting := none
  trip := false
  hot := false
  log := []
  rails := List.replicate 4 ⟨0xFFFF, 0, false⟩
  trained := 1
  retrained := []
  answers := []

/-- The pod registers at reset (Table 5.2). -/
def Pod.reset : Pod where
  up := 0
  dup := 0
  drop := 0
  reach := []
  delay := []
  slotmap := [0, 0, 0, 0]
  inForce := [0, 0, 0, 0]
  slotPending := []
  lastClass := []
  lastSlot := []
  lock := false
  xpod := false
  steps := 0
  offs := 0
  acquired := false
  lastMedian := none
  goodRun := 0
  hold := none
  lastBeacon := 0
  slewAt := 0

/-- The control page at reset (R502). -/
def Ctl.reset : Ctl := ⟨0, .reset, .reset, .reset, 0, .reset, 0, 0, []⟩

/-- The machine right after a cold start (R501, R502): zero memory, every context FREE, every queue unbound, no grid. -/
def State.reset : State where
  clock := 0
  dtime := 0
  agenda := []
  freeCtr := 0
  cur := none
  cfg := .reset
  mgmt := .reset
  conns := []
  endps := []
  mem := []
  oldCode := []
  past := []
  pastCtr := 0
  view := (0, 0)
  holding := false
  pending := []
  poison := []
  banks := []
  held := []
  ctxs := []
  phases := []
  tlbs := []
  rrc := []
  queues := []
  lastLaunch := []
  grids := []
  gridCtr := 0
  acceptCtr := 0
  dies := []
  teams := []
  teamCtr := 0
  cores := []
  steerPtr := []
  claimCtr := 0
  orderCtr := 0
  boxes := []
  credits := []
  txs := []
  txCtr := 0
  cells := []
  rxq := []
  lineJobs := []
  resvs := []
  refused := []
  opal := ⟨[], []⟩
  pod := .reset
  rrq := .reset
  flt := .reset
  ctl := .reset
  out := []

end Sys2Proof.Machine
end

