-- ==== Sys2Proof/Machine/Ops.lean ====
section
/-! DEFINITION. The named operations over registers, memory, translation and fault records that every meaning uses; taking a
fault (`State.stopLane`, `State.stopSteer`) and the return from one (`State.restartLane`, `State.restartSteer`). -/

namespace Sys2Proof.Machine

/-! ## Fault codes (Table 20.1) -/

namespace Code
/-- BAD_CLAUSE -/
def badClause : BitVec 8 := 0x01
/-- RESERVED_OP -/
def reservedOp : BitVec 8 := 0x02
/-- BAD_DICT -/
def badDict : BitVec 8 := 0x03
/-- LOOKAHEAD -/
def lookahead : BitVec 8 := 0x04
/-- REG_RANGE -/
def regRange : BitVec 8 := 0x05
/-- INDEX_RANGE -/
def indexRange : BitVec 8 := 0x06
/-- ALIGN -/
def align : BitVec 8 := 0x10
/-- APERTURE -/
def aperture : BitVec 8 := 0x11
/-- STORE_NONRES -/
def storeNonres : BitVec 8 := 0x12
/-- PROTECTION -/
def protection : BitVec 8 := 0x13
/-- WINDOW_HANDLE -/
def windowHandle : BitVec 8 := 0x14
/-- WINDOW_KEY -/
def windowKey : BitVec 8 := 0x15
/-- WINDOW_LIMIT -/
def windowLimit : BitVec 8 := 0x16
/-- GANG_DEPARTED -/
def gangDeparted : BitVec 8 := 0x17
/-- GANG_DETACHED -/
def gangDetached : BitVec 8 := 0x18
/-- POISON -/
def poison : BitVec 8 := 0x19
/-- BANK_OFF -/
def bankOff : BitVec 8 := 0x1A
/-- REMAP_LOST -/
def remapLost : BitVec 8 := 0x1B
/-- CUBE_SHAPE -/
def cubeShape : BitVec 8 := 0x20
/-- CUBE_FORMAT -/
def cubeFormat : BitVec 8 := 0x21
/-- FEED_RANGE -/
def feedRange : BitVec 8 := 0x22
/-- COLL_MISMATCH -/
def collMismatch : BitVec 8 := 0x30
/-- COLL_ABORT -/
def collAbort : BitVec 8 := 0x31
/-- SLOT_GRANT -/
def slotGrant : BitVec 8 := 0x32
/-- CLAIM_DEADLOCK -/
def claimDeadlock : BitVec 8 := 0x40
/-- TRAP -/
def trap : BitVec 8 := 0x50
/-- BRKPT -/
def brkpt : BitVec 8 := 0x51
/-- ARITH -/
def arith : BitVec 8 := 0x60
/-- KILL -/
def kill : BitVec 8 := 0x70
end Code

/-- What a fault's record says beyond who stopped and where (Table 20.2). -/
structure Trap where
  code : BitVec 8
  cause : BitVec 4 := 0
  addr : DWord := 0
  info : Word := 0
  handle : BitVec 16 := 0
  peer : Aid := 0
  deriving DecidableEq, Repr

/-! ## Bytes and words -/

/-- The value of bytes, lowest address first (R4). -/
def leNat (bs : List Byte) : Nat :=
  match bs with
  | [] => 0
  | b :: r => b.toNat + 256 * leNat r

/-- The low `n` bytes of a value, lowest first (R4). -/
def leBytes (n v : Nat) : List Byte :=
  match n with
  | 0 => []
  | k + 1 => BitVec.ofNat 8 v :: leBytes k (v / 256)

/-- Bits [hi:lo] of a value as a number. -/
def field (v lo n : Nat) : Nat := v / 2 ^ lo % 2 ^ n
/-- One bit of a value. -/
def flag (v i : Nat) : Bool := v / 2 ^ i % 2 == 1

/-- Numbers `lo, lo+1, ...`, `n` of them. -/
def span (lo n : Nat) : List Nat :=
  match n with
  | 0 => []
  | k + 1 => lo :: span (lo + 1) k

/-- A 32-bit word as a signed 64-bit value. -/
def sext64 (w : Word) : DWord := w.signExtend 64
/-- A pair, the even register low (R4). -/
def pair (lo hi : Word) : DWord := hi ++ lo

/-! ## Physical memory (R22, R99): zero where nothing is listed (R501) -/

/-- The canonical form of memory: addresses strictly rising, no entry zero. -/
def Memory.wf (m : List Host.Cell) : Bool := Map.wf (0 : Byte) m

/-- Read one byte. -/
def Memory.get (m : List Host.Cell) (a : Nat) : Byte := Map.get (0 : Byte) m a
/-- Write one byte. -/
def Memory.set (m : List Host.Cell) (a : Nat) (b : Byte) : List Host.Cell := Map.set (0 : Byte) m a b
/-- Read `n` bytes. -/
def Memory.bytes (m : List Host.Cell) (a n : Nat) : List Byte :=
  match n with
  | 0 => []
  | k + 1 => Memory.get m a :: Memory.bytes m (a + 1) k
/-- Write bytes at rising addresses. -/
def Memory.store (m : List Host.Cell) (a : Nat) (bs : List Byte) : List Host.Cell :=
  match bs with
  | [] => m
  | b :: r => Memory.store (Memory.set m a b) (a + 1) r
/-- Read a little-endian value of `n` bytes. -/
def Memory.val (m : List Host.Cell) (a n : Nat) : Nat := leNat (Memory.bytes m a n)
/-- Drop every byte of a range: it reads as zero. -/
def Memory.clear (m : List Host.Cell) (a n : Nat) : List Host.Cell :=
  m.filter (fun c => decide (c.1 < a ∨ a + n ≤ c.1))
/-- Write listed cells one by one, each at its address plus `d`. -/
def Memory.shifted (m : List Host.Cell) (cells : List Host.Cell) (src dst : Nat) : List Host.Cell :=
  match cells with
  | [] => m
  | c :: r => Memory.shifted (Memory.set m (c.1 - src + dst) c.2) r src dst
/-- Copy a range of `n` bytes. -/
def Memory.copy (m : List Host.Cell) (src dst n : Nat) : List Host.Cell :=
  Memory.shifted (Memory.clear m dst n) (m.filter (fun c => decide (src ≤ c.1 ∧ c.1 < src + n))) src dst

/-- Read a physical value. -/
def State.val (s : State) (a n : Nat) : Nat := Memory.val s.mem a n
/-- Read physical bytes. -/
def State.bytes (s : State) (a n : Nat) : List Byte := Memory.bytes s.mem a n
/-! ## Bank sets (chapter 7) -/

/-- The bank set of a physical address (R22). -/
def setOf (pa : Nat) : Nat := pa / 2 ^ Config.setShift % Config.sets
/-- A bank set's record. -/
def State.bank (s : State) (k : Nat) : Bank := Map.get Bank.reset s.banks k
/-- Write a bank set's record. -/
def State.setBank (s : State) (k : Nat) (b : Bank) : State := { s with banks := Map.set Bank.reset s.banks k b }

/-- What an access to a line meets before it reads or writes (R154, R163, R166): code and cause (Table 20.3). -/
def State.lineFault (s : State) (pa : Nat) : Option (BitVec 8 × BitVec 4) :=
  let b := s.bank (setOf pa)
  if b.clr then some (Code.bankOff, 1)
  else if b.state = 0 then some (Code.bankOff, 0)
  else if b.state = 4 then some (Code.poison, 1)
  else if s.poison.contains (pa / Config.lineBytes) then some (Code.poison, 0)
  else none

/-- The phase register of a context (Table 7.4). -/
def State.phase (s : State) (c : CtxId) : PhaseReg := Map.get PhaseReg.reset s.phases c.toNat

/-- A line access reaches its controller: it queues for the set, a sleeping set starts to wake, and a context in STREAM or
BURST holds the set from then on (R150, R152, R157). A set that is OFF, clearing or LOST takes no request. No value depends on it. -/
def State.touch (s : State) (ctx : Option CtxId) (pa : Nat) : State :=
  let k := setOf pa
  let b := s.bank k
  if b.clr ∨ b.state = 0 ∨ b.state = 4 then s
  else
    let b' := { b with queue := b.queue ++ [pa / Config.lineBytes], waking := b.waking || b.state == 1 || b.state == 2, lastAccess := s.clock }
    let s := s.setBank k b'
    match ctx with
    | none => s
    | some c =>
      if decide (2 ≤ (s.phase c).force) && !s.held.contains (c.toNat, k) then { s with held := s.held ++ [(c.toNat, k)] } else s

/-- What an access meets in a set as a whole, whatever its lines hold (R154, R166). -/
def State.setFault (s : State) (pa : Nat) : Option (BitVec 8 × BitVec 4) :=
  let b := s.bank (setOf pa)
  if b.clr then some (Code.bankOff, 1)
  else if b.state = 0 then some (Code.bankOff, 0)
  else if b.state = 4 then some (Code.poison, 1)
  else none

/-- Several line accesses. -/
def State.touchAll (s : State) (ctx : Option CtxId) (pas : List Nat) : State := pas.foldl (fun s a => s.touch ctx a) s

/-- Add a run of lines, from `a` up to `z`, to disjoint runs; the run that it becomes stands first. -/
def addRun (l : List (Nat × Nat)) (a z : Nat) : List (Nat × Nat) :=
  let near := fun (r : Nat × Nat) => decide (r.1 ≤ z ∧ a ≤ r.2)
  (l.filter near).foldl (fun m r => (min m.1 r.1, max m.2 r.2)) (a, z) :: l.filter fun r => !near r

/-- The stager has read lines of a set: a granule all of whose lines it has read in the interval is marked (R161), and a patrol that
has no granule left is over (R162). -/
def Bank.sees (b : Bank) (a z : Nat) : Bank :=
  if b.clr ∨ b.state = 0 ∨ b.state = 4 then b
  else
    let runs := addRun b.runs a z
    match runs with
    | r :: _ =>
      let lo := (r.1 + 16383) / 16384
      let gs := b.granules ++ ((span lo (r.2 / 16384 - lo)).map (· % 512)).filter fun g => !b.granules.contains g
      { b with runs := runs, granules := gs, patrol := b.patrol && decide (gs.length < 512) }
    | [] => b

/-- The stager has read `n` bytes of one set. -/
def State.seen (s : State) (pa n : Nat) : State :=
  s.setBank (setOf pa) ((s.bank (setOf pa)).sees (pa / Config.lineBytes) ((pa + n + Config.lineBytes - 1) / Config.lineBytes))

/-! ## Translation (R58-R62, R70) -/

/-- A page-table entry as the device reads it: the low and high doublewords and where it lies. -/
structure Pte where
  lo : Nat
  hi : Nat
  size : Nat
  deriving DecidableEq, Repr

/-- log2 of a page (Table 3.4). -/
def pageShift (size : Nat) : Nat := match size with | 0 => 16 | 1 => 21 | _ => 30
/-- RES -/
def Pte.res (e : Pte) : Bool := flag e.lo 55
/-- W -/
def Pte.w (e : Pte) : Bool := flag e.lo 56
/-- COW -/
def Pte.cow (e : Pte) : Bool := flag e.lo 57
/-- SRO -/
def Pte.sro (e : Pte) : Bool := flag e.lo 58
/-- RRC -/
def Pte.rrc (e : Pte) : Bool := flag e.lo 59
/-- D -/
def Pte.d (e : Pte) : Bool := flag e.lo 62
/-- The physical address of a virtual address under an entry (Table 3.4). -/
def Pte.pa (e : Pte) (va : Nat) : Nat :=
  let sh := pageShift e.size
  field e.hi 0 23 * 2 ^ 16 / 2 ^ sh * 2 ^ sh + va % 2 ^ sh

/-- Whether the entry at `a` matches (R58, R59). -/
def State.pteMatch (s : State) (ctx vpn size a : Nat) : Bool :=
  let lo := s.val a 8
  let hi := s.val (a + 8) 8
  flag lo 54 && field lo 40 12 == ctx && field lo 52 2 == size && field lo 0 40 == vpn && !flag lo 63 && hi / 2 ^ 23 == 0

/-- The first matching slot of a bucket. -/
def State.bucket (s : State) (ctx vpn size base : Nat) : Nat → Nat → Option Nat
  | _, 0 => none
  | slot, n + 1 =>
    if s.pteMatch ctx vpn size (base + 16 * slot) then some (base + 16 * slot)
    else State.bucket s ctx vpn size base (slot + 1) n

/-- A walk's end: the address of the matching entry, no match, or a fault at a bucket line. -/
inductive Walk where
  | found (a : Nat)
  | missing
  | fault (code : BitVec 8) (cause : BitVec 4)
  deriving DecidableEq, Repr

/-- The bucket hash of R59. -/
def pageHash (ctx vpn size : Nat) : Nat :=
  ((vpn % 2 ^ 20) ^^^ (vpn / 2 ^ 20) ^^^ (ctx * 0x101) ^^^ (size * 0x55555)) % 2 ^ 20

/-- The probes of one size: the lines read and the end. -/
def State.probe (s : State) (c : Ctx) (ctx vpn size h : Nat) : Nat → Nat → List Nat × Walk
  | _, 0 => ([], .missing)
  | j, n + 1 =>
    let base := c.ptbase + 128 * ((h + j) % 2 ^ c.nb)
    match s.lineFault base with
    | some f => ([base], .fault f.1 f.2)
    | none =>
      match s.bucket ctx vpn size base 0 8 with
      | some a => ([base], .found a)
      | none => let r := State.probe s c ctx vpn size h (j + 1) n; (base :: r.1, r.2)

/-- The page number of an address at a size: bits [55:s] (R59, Table 3.4). -/
def vpnOf (va size : Nat) : Nat := va % 2 ^ 56 / 2 ^ pageShift size

/-- One size of a walk (R59). -/
def State.walkSize (s : State) (c : Ctx) (ctx va size : Nat) : List Nat × Walk :=
  let vpn := vpnOf va size
  s.probe c ctx vpn size (pageHash ctx vpn size) 0 c.pmax

/-- The walk of R59: 64 KiB, then 2 MiB, then 1 GiB. -/
def State.walk (s : State) (c : Ctx) (ctx va : Nat) : List Nat × Walk :=
  let r0 := s.walkSize c ctx va 0
  match r0.2 with
  | .missing =>
    let r1 := s.walkSize c ctx va 1
    match r1.2 with
    | .missing => let r2 := s.walkSize c ctx va 2; (r0.1 ++ r1.1 ++ r2.1, r2.2)
    | w => (r0.1 ++ r1.1, w)
  | w => (r0.1, w)

/-- The entry at an address. -/
def State.pteAt (s : State) (a : Nat) : Pte := let lo := s.val a 8; ⟨lo, s.val (a + 8) 8, field lo 52 2⟩

/-! ## Stores, and the code words that they overwrite (R34) -/

/-- The virtual ranges of an image's code and dictionary: start and bytes. -/
def Image.codeRanges (i : Image) : List (Nat × Nat) := [(i.kimg + i.codeoff, 4 * i.codelen), (i.kimg + i.dictoff, 4 * i.dictn)]

/-- Where the 64 KiB at a virtual address lie, in a context's page table. -/
def State.pageBase (s : State) (ctx : CtxId) (va : Nat) : Option Nat :=
  match Map.find? s.ctxs ctx.toNat with
  | none => none
  | some c =>
    match (s.walk c ctx.toNat va).2 with
    | .found a => if (s.pteAt a).res then some ((s.pteAt a).pa va) else none
    | _ => none

/-- The words among `ws` that lie in a range of code, as a context maps it. -/
def State.codeAmong (s : State) (ctx : CtxId) (r : Nat × Nat) (ws : List Nat) : List Nat :=
  (span (r.1 / 65536) ((r.1 + r.2 + 65535) / 65536 - r.1 / 65536)).flatMap fun p =>
    match s.pageBase ctx (p * 65536) with
    | none => []
    | some b => ws.filter fun w => 4 * w / 65536 == b / 65536 && decide (r.1 ≤ p * 65536 + 4 * w % 65536 ∧ p * 65536 + 4 * w % 65536 < r.1 + r.2)

/-- The code words of grids with a resident team that a store of `n` bytes overwrites, with the values that they hold (R34). -/
def State.overwritten (s : State) (a n : Nat) : List OldWord :=
  s.teams.flatMap fun e =>
    match e.2.place with
    | .saved => []
    | .resident _ _ => (e.2.img.codeRanges.flatMap fun r => s.codeAmong e.2.ctx r (span (a / 4) ((a + n + 3) / 4 - a / 4))).map fun w =>
        ⟨e.2.grid, w, BitVec.ofNat 32 (s.val (4 * w) 4)⟩

/-- The old values that may still be fetched after a store: those of grids that the device still has, each once. -/
def State.oldAfter (s : State) (a n : Nat) : List OldWord :=
  (s.overwritten a n).foldl (fun l o => if l.contains o then l else l ++ [o])
    (s.oldCode.filter fun o => (Map.find? s.grids o.grid).isSome || s.teams.any fun e => e.2.grid == o.grid)

/-- Write physical bytes; what they replace is kept while a read may still lie behind the store (R358). -/
def State.store (s : State) (a : Nat) (bs : List Byte) : State :=
  { s with mem := Memory.store s.mem a bs, oldCode := s.oldAfter a bs.length, pastCtr := s.pastCtr + 1,
           past := ⟨s.clock, a, s.bytes a bs.length⟩ :: s.past.filter fun p => decide (s.clock < p.clock + Config.pastTicks) }

/-- Memory as it stood before the latest `n` stores, as far back as they are kept. -/
def State.memBefore (s : State) (n : Nat) : List Host.Cell := (s.past.take n).foldl (fun m p => Memory.store m p.addr p.old) s.mem

/-- Physical bytes as they stood before the latest `n` stores. -/
def State.bytesBefore (s : State) (n pa k : Nat) : List Byte := ({ s with mem := s.memBefore n } : State).bytes pa k

/-- Write one whole line: it replaces all 128 bytes and clears a poison mark (R163). -/
def State.putLine (s : State) (a : Nat) (bs : List Byte) : State :=
  { s.store a bs with poison := s.poison.filter (fun l => decide (l ≠ a / 128)) }

/-- What the TLB of a cluster holds for an address (R70). -/
def State.tlbHit (s : State) (cl : Nat) (ctx : CtxId) (va : Nat) : Option Pte :=
  ((Map.get [] s.tlbs cl).find? (fun e => e.ctx == ctx && e.vpn == vpnOf va e.size)).map
    (fun e => ⟨e.lo.toNat, e.hi.toNat, e.size⟩)

/-- A resident translation enters a TLB of 4,096 entries (R20, R70); a full one drops the entry filled longest ago (log entry 67). -/
def State.tlbFill (s : State) (cl : Nat) (ctx : CtxId) (va : Nat) (e : Pte) : State :=
  let old := (Map.get [] s.tlbs cl).filter fun t => !(t.ctx == ctx && t.size == e.size && t.vpn == vpnOf va e.size)
  let new : TlbEntry := ⟨ctx, e.size, vpnOf va e.size, BitVec.ofNat 64 e.lo, BitVec.ofNat 64 e.hi⟩
  { s with tlbs := Map.set [] s.tlbs cl ((new :: old).take 4096) }

/-- Drop the translations that a test names from every TLB (R54, R62, R73). -/
def State.tlbDrop (s : State) (bad : TlbEntry → Bool) : State :=
  { s with tlbs := s.tlbs.map (fun p => (p.1, p.2.filter (fun e => !bad e))) }

/-- A translation's outcome. -/
inductive Xlat where
  | entry (e : Pte)
  | missing
  | fault (code : BitVec 8) (cause : BitVec 4)
  deriving DecidableEq, Repr

/-- Translate in a context, through the TLB of a cluster when one is concerned (R59, R70). A context that is not ACTIVE maps
nothing. -/
def State.translate (s : State) (ctx : CtxId) (cl : Option Nat) (va : Nat) : State × Xlat :=
  match cl.bind fun k => s.tlbHit k ctx va with
  | some e => (s, .entry e)
  | none =>
    match Map.find? s.ctxs ctx.toNat with
    | none => (s, .missing)
    | some c =>
      let r := s.walk c ctx.toNat va
      let s1 := s.touchAll (some ctx) r.1
      match r.2 with
      | .missing => (s1, .missing)
      | .fault k q => (s1, .fault k q)
      | .found a =>
        let e := s.pteAt a
        match cl with
        | some k => (if e.res then s1.tlbFill k ctx va e else s1, .entry e)
        | none => (s1, .entry e)

/-- An access's outcome: where it is performed, a non-resident page, or a fault. -/
inductive Acc where
  | ok (pa : Nat) (rrc : Bool)
  | nonres
  | bad (code : BitVec 8) (cause : BitVec 4)
  deriving DecidableEq, Repr

/-- The line check of R325 step 6; a full-line write of an engine passes a poison line (R163). -/
def State.atLine (s : State) (pa : Nat) (rrc full : Bool) : Acc :=
  match s.lineFault pa with
  | some f => if full && f.1 == Code.poison && f.2 == 0 then .ok pa rrc else .bad f.1 f.2
  | none => .ok pa rrc

/-- Judge a load (R60); `priv` is a private-aperture access (R56). -/
def State.judgeLoad (s : State) (ctx : CtxId) (cl : Option Nat) (priv : Bool) (va : Nat) : State × Acc :=
  let r := s.translate ctx cl va
  match r.2 with
  | .missing => (r.1, .nonres)
  | .fault k q => (r.1, .bad k q)
  | .entry e =>
    if priv && e.size != 0 then (r.1, .bad Code.protection 0)
    else if !e.res then (r.1, .nonres)
    else (r.1.touch (some ctx) (e.pa va), r.1.atLine (e.pa va) e.rrc false)

/-- Set the D bit of the entry that a walk finds, in memory and in every TLB (R58). -/
def State.setD (s : State) (ctx : CtxId) (va : Nat) : State :=
  match Map.find? s.ctxs ctx.toNat with
  | none => s
  | some c =>
    match (s.walk c ctx.toNat va).2 with
    | .found a =>
      let b := (Memory.get s.mem (a + 7)) ||| 0x40
      let s := ({ s with mem := Memory.set s.mem (a + 7) b } : State).touch (some ctx) a
      { s with tlbs := s.tlbs.map (fun p => (p.1, p.2.map (fun e =>
          if e.ctx == ctx && e.vpn == vpnOf va e.size then { e with lo := e.lo ||| 0x4000000000000000 } else e))) }
    | _ => s

/-- The physical address of a context block's COWN (Table 3.1). -/
def State.cownAt (s : State) (ctx : CtxId) : Nat := s.cfg.ctxtab + 128 * ctx.toNat + 0x48

/-- Copy the 64 KiB of a page with its poison marks: a poison source line marks its copy and moves no data (R62). -/
def State.copyPage (s : State) (src dst : Nat) : State :=
  let bad := s.poison.filter fun l => decide (src / 128 ≤ l ∧ l < src / 128 + 512)
  let keep := s.poison.filter fun l => decide (l < dst / 128 ∨ dst / 128 + 512 ≤ l)
  let m := Memory.copy s.mem src dst 65536
  let m := bad.foldl (fun m l => Memory.clear m (l * 128 - src + dst) 128) m
  { s with mem := m, poison := keep ++ bad.map (fun l => l - src / 128 + dst / 128) }

/-- The copy-on-write of R62 for a store that met entry `e`: the new page is mapped, or why it cannot be. A fault at the line of COWN, or at
the set of either page, is the store's (log entry 69); nothing has changed then. -/
def State.cowPage (s : State) (ctx : CtxId) (cl : Option Nat) (c : Ctx) (va : Nat) (e : Pte) : State × Option (BitVec 8 × BitVec 4) :=
  let src := e.pa va / 65536 * 65536
  match s.lineFault (s.cownAt ctx) with
  | some f => (s, some f)
  | none =>
    let s := s.touch (some ctx) (s.cownAt ctx)
    let n := s.val (s.cownAt ctx) 4
    if n = 0 then (s, some (Code.storeNonres, 1))
    else
      match s.judgeLoad ctx cl false (c.cowfl + 8 * (n - 1)) with
      | (s1, .ok pa _) =>
        let pg := s.val pa 8
        if pg % 2 ^ 16 ≠ 0 ∨ 2 ^ 39 ≤ pg then (s1, some (Code.storeNonres, 1))
        else
          match (s1.setFault src).or (s1.setFault pg) with
          | some f => (s1, some f)
          | none =>
            match (s1.walk c ctx.toNat va).2 with
            | .found a =>
              let s2 := (s1.store (s1.cownAt ctx) (leBytes 4 (n - 1))).touchAll (some ctx) [src, pg, a]
              let s3 := (s2.copyPage src pg).seen src 65536
              -- W = 1, COW = 0, SRO = 0, D = 1, the new PPN; every other field kept
              let lo := e.lo - (if e.cow then 2 ^ 57 else 0) - (if e.sro then 2 ^ 58 else 0)
              let lo := lo + (if e.w then 0 else 2 ^ 56) + (if e.d then 0 else 2 ^ 62)
              let s4 := s3.store a (leBytes 8 lo ++ leBytes 8 (pg / 65536))
              (s4.tlbDrop (fun t => t.ctx == ctx && t.size == 0 && t.vpn == vpnOf va 0), none)
            | _ => (s1, some (Code.storeNonres, 1))
      | (s1, _) => (s1, some (Code.storeNonres, 1))

/-- Judge a store against one translation (R60, R62). A 2 MiB or 1 GiB entry with COW, W = 1 and SRO = 0 takes the store (log entry 68). -/
def State.judgeStoreOnce (s : State) (ctx : CtxId) (cl : Option Nat) (priv : Bool) (va : Nat) (full retry : Bool) :
    State × Option Acc :=
  let r := s.translate ctx cl va
  match r.2 with
  | .missing => (r.1, some (.bad Code.storeNonres 0))
  | .fault k q => (r.1, some (.bad k q))
  | .entry e =>
    if priv && e.size != 0 then (r.1, some (.bad Code.protection 0))
    else if !e.res then (r.1, some (.bad Code.storeNonres 0))
    else if e.w && !e.sro then
      let s1 := r.1.touch (some ctx) (e.pa va)
      match s1.atLine (e.pa va) e.rrc full with
      | .ok pa q => ((if e.d then s1 else s1.setD ctx va), some (.ok pa q))
      | a => (s1, some a)
    else if e.cow && !e.w && e.size == 0 then
      match Map.find? r.1.ctxs ctx.toNat with
      | none => (r.1, some (.bad Code.storeNonres 0))
      | some c =>
        -- the compare-and-swap of step 3 is against the value translated with
        match (r.1.walk c ctx.toNat va).2 with
        | .found a =>
          if r.1.pteAt a = e then
            match r.1.cowPage ctx cl c va e with
            | (s1, some f) => (s1, some (.bad f.1 f.2))
            | (s1, none) => (s1, if retry then none else some (.bad Code.protection 0))
          else (r.1.tlbDrop (fun t => t.ctx == ctx && t.vpn == vpnOf va t.size),
            if retry then none else some (.bad Code.protection 0))
        | _ => (r.1.tlbDrop (fun t => t.ctx == ctx && t.vpn == vpnOf va t.size),
            if retry then none else some (.bad Code.storeNonres 0))
    else (r.1, some (.bad Code.protection 0))

/-- Judge a store: after a copy or a lost race the store is translated again (R62); three tries suffice, since the second
walks and the third finds the copy. -/
def State.judgeStore (s : State) (ctx : CtxId) (cl : Option Nat) (priv : Bool) (va : Nat) (full : Bool) : State × Acc :=
  match s.judgeStoreOnce ctx cl priv va full true with
  | (s1, some a) => (s1, a)
  | (s1, none) =>
    match s1.judgeStoreOnce ctx cl priv va full true with
    | (s2, some a) => (s2, a)
    | (s2, none) =>
      match s2.judgeStoreOnce ctx cl priv va full false with
      | (s3, some a) => (s3, a)
      | (s3, none) => (s3, .nonres)

/-! ## Registers and parties -/

/-- Lane register (R177). -/
def Thread.reg (t : Thread) (n : Nat) : Word := Map.get 0 t.v n
/-- Write a lane register. -/
def Thread.setReg (t : Thread) (n : Nat) (w : Word) : Thread := { t with v := Map.set 0 t.v n w }
/-- Even register pair (R4). -/
def Thread.pairAt (t : Thread) (n : Nat) : DWord := pair (t.reg n) (t.reg (n + 1))
/-- Write a pair. -/
def Thread.setPair (t : Thread) (n : Nat) (d : DWord) : Thread :=
  (t.setReg n (d.extractLsb' 0 32)).setReg (n + 1) (d.extractLsb' 32 32)
/-- Predicate. -/
def Thread.pred (t : Thread) (n : Nat) : Bool := t.p.getLsbD n
/-- A bit vector with one bit replaced. -/
def setBit {w : Nat} (v : BitVec w) (n : Nat) (b : Bool) : BitVec w :=
  if b then v ||| BitVec.twoPow w n else v &&& ~~~ BitVec.twoPow w n
/-- Write a predicate. -/
def Thread.setPred (t : Thread) (n : Nat) (b : Bool) : Thread := { t with p := setBit t.p n b }
/-- Several registers from consecutive words. -/
def Thread.setRegs (t : Thread) (n : Nat) (ws : List Word) : Thread :=
  match ws with
  | [] => t
  | w :: r => Thread.setRegs (t.setReg n w) (n + 1) r
/-- Add sticky flags (R247). -/
def Thread.addFlags (t : Thread) (f : BitVec 5) : Thread := { t with sticky := t.sticky ||| f }
/-- Index register (Table 9.4): BASE and LEN. -/
def Thread.index (t : Thread) (n : Nat) : Nat × Nat :=
  let x := Map.get 0 t.x n
  ((x.extractLsb' 0 7).toNat, (x.extractLsb' 7 7).toNat)
/-- A live thread has neither exited nor been killed (R203). -/
def Thread.live (t : Thread) : Bool := match t.st with | .exited => false | _ => true

/-- Steering register. -/
def Steer.reg (t : Steer) (n : Nat) : Word := Map.get 0 t.s n
/-- Write a steering register. -/
def Steer.setReg (t : Steer) (n : Nat) (w : Word) : Steer := { t with s := Map.set 0 t.s n w }
/-- Even steering pair (R4). -/
def Steer.pairAt (t : Steer) (n : Nat) : DWord := pair (t.reg n) (t.reg (n + 1))
/-- Write a steering pair. -/
def Steer.setPair (t : Steer) (n : Nat) (d : DWord) : Steer :=
  (t.setReg n (d.extractLsb' 0 32)).setReg (n + 1) (d.extractLsb' 32 32)
/-- Condition. -/
def Steer.cond (t : Steer) (n : Nat) : Bool := t.c.getLsbD n
/-- Write a condition. -/
def Steer.setCond (t : Steer) (n : Nat) (b : Bool) : Steer := { t with c := setBit t.c n b }

/-- A team by its model number. -/
def State.team? (s : State) (t : Nat) : Option Team := Map.find? s.teams t
/-- Replace a team. -/
def State.setTeam (s : State) (t : Nat) (T : Team) : State := { s with teams := Map.put s.teams t T }
/-- Change a team, if it exists. -/
def State.modTeam (s : State) (t : Nat) (f : Team → Team) : State := { s with teams := Map.modify s.teams t f }
/-- A thread of a team. -/
def Team.thread? (T : Team) (tid : Nat) : Option Thread := Map.find? T.threads tid
/-- Replace a thread. -/
def Team.setThread (T : Team) (tid : Nat) (th : Thread) : Team := { T with threads := Map.put T.threads tid th }
/-- Change a thread, if it exists. -/
def Team.modThread (T : Team) (tid : Nat) (f : Thread → Thread) : Team := { T with threads := Map.modify T.threads tid f }
/-- Replace a thread of a team. -/
def State.setThread (s : State) (t : Nat) (T : Team) (tid : Nat) (th : Thread) : State := s.setTeam t (T.setThread tid th)

/-- Change a thread of a team, through the state. -/
def State.modThread (s : State) (t tid : Nat) (f : Thread → Thread) : State := s.modTeam t fun T => T.modThread tid f

/-- The role of a thread. -/
def Team.role (T : Team) (k : Nat) : Role :=
  T.roles.getD k ⟨0, 0, 0, 0, [], ⟨[], 0, 0, false⟩, [], [], 0⟩
/-- Change a role. -/
def Team.modRole (T : Team) (k : Nat) (f : Role → Role) : Team := { T with roles := T.roles.modify k f }
/-- The register count of a thread (R39). -/
def Team.regCount (T : Team) (th : Thread) : Nat := (T.role th.role).nreg
/-- The ids of the live threads of a team. -/
def Team.liveTids (T : Team) : List Nat := (T.threads.filter fun e => e.2.live).map Prod.fst
/-- The ids of the live threads of a role. -/
def Team.liveOf (T : Team) (k : Nat) : List Nat := (T.threads.filter fun e => e.2.live && e.2.role == k).map Prod.fst
/-- The core of a resident team. -/
def Team.core? (T : Team) : Option Nat := match T.place with | .resident c _ => some c | .saved => none
/-- The TLB cluster of a resident team: eight cores (R20). -/
def Team.cluster (T : Team) : Option Nat := T.core?.map (· / 8)
/-- Barrier k (Table 18.1). -/
def Team.bar (T : Team) (k : Nat) : Bar := Map.get ⟨0, 0, false, [], (0, 0)⟩ T.bars k
/-- Write barrier k. -/
def Team.setBar (T : Team) (k : Nat) (b : Bar) : Team := { T with bars := Map.set ⟨0, 0, false, [], (0, 0)⟩ T.bars k b }
/-- Join slot j (R225). -/
def Team.join (T : Team) (j : Nat) : Join := Map.get ⟨[], [], false, none⟩ T.joins j
/-- Write join slot j. -/
def Team.setJoin (T : Team) (j : Nat) (x : Join) : Team := { T with joins := Map.set ⟨[], [], false, none⟩ T.joins j x }
/-- Feed n (Table 14.6). -/
def Team.feed (T : Team) (n : Nat) : Feed := Map.get ⟨0, 0, 0, 0, []⟩ T.feeds n
/-- Write feed n. -/
def Team.setFeed (T : Team) (n : Nat) (f : Feed) : Team := { T with feeds := Map.set ⟨0, 0, 0, 0, []⟩ T.feeds n f }
/-- Fill of a feed (R340). -/
def Feed.fill (f : Feed) : Nat := (f.pcnt + 2 ^ 32 - f.ccnt) % 2 ^ 32
/-- Ring size in bytes. -/
def Feed.size (f : Feed) : Nat := 2 ^ f.flog
/-- Room of a feed. -/
def Feed.room (f : Feed) : Nat := f.size - f.fill
/-- Some engine command of the team is faulted (R467). -/
def Team.isHeld (T : Team) : Bool := T.eng.any fun e => match e.2.st with | .faulted _ => true | _ => false
/-- TEAMSTAT (R470). -/
def Team.stat (T : Team) : BitVec 5 :=
  BitVec.ofBool T.killed ++ BitVec.ofBool (match T.steer.st with | .done => true | _ => false) ++
  BitVec.ofBool T.isHeld ++ BitVec.ofBool T.arith ++ BitVec.ofBool T.dead
/-- gangrank (Table 9.2). -/
def Team.rank (T : Team) : Nat := match T.gang with | some g => g.rank | none => 0
/-- gangsize (Table 9.2). -/
def Team.gsize (T : Team) : Nat := match T.gang with | some g => g.size | none => 1

/-! ## Scratchpad (R43, R44) -/

/-- Read `n` scratch bytes. -/
def Team.sbytes (T : Team) (a n : Nat) : List Byte :=
  match n with
  | 0 => []
  | k + 1 => Map.get (0 : Byte) T.scratch a :: Team.sbytes T (a + 1) k
/-- Write scratch bytes; what they replace is kept for the reads that may lie behind the store (R358). -/
def Team.sstore (T : Team) (a : Nat) (bs : List Byte) : Team :=
  { T with scratch := Memory.store T.scratch a bs, sold := (a, T.sbytes a bs.length) :: T.sold, sseq := T.sseq + 1 }
/-- Data has landed in a line whose presence bit was clear: a read finds the line as it stands once the bit is set, not as it stood before (R328). -/
def Team.lineLanded (T : Team) (l : Nat) : Team :=
  { T with sold := T.sold.map fun e => if e.1 < 128 * (l + 1) ∧ 128 * l < e.1 + e.2.length then (e.1, []) else e }
/-- The scratchpad as it stood before the latest `n` stores. -/
def Team.scrBefore (T : Team) (n : Nat) : Map Byte := (T.sold.take n).foldl (fun m p => Memory.store m p.1 p.2) T.scratch
/-- The presence bit of a line is clear while data is pending for it (R328). -/
def Team.lineAbsent (T : Team) (l : Nat) : Bool := decide (Map.get 0 T.absent l ≠ 0)

/-! ## Fault records and rings (R471, R472, R331) -/

/-- The 32 bytes of a fault record (Table 20.2). -/
def FaultRec.bytes (r : FaultRec) : List Byte :=
  leBytes 4 (r.code.toNat + r.src.toNat * 2 ^ 8 + r.cause.toNat * 2 ^ 12 + r.id.toNat * 2 ^ 16) ++
  leBytes 4 (r.h % 2 ^ 24 + r.k % 16 * 2 ^ 24) ++ leBytes 8 r.addr.toNat ++ leBytes 4 r.info.toNat ++
  leBytes 4 (r.handle.toNat + r.peer.toNat * 2 ^ 16) ++ leBytes 4 r.ctx.toNat ++ leBytes 4 r.team.toNat

/-- A ring that takes a record: it is enabled, not full, and its slot can be written (R331, R472). -/
def State.ringSlot (s : State) (r : Ring) (bytes : Nat) : Option Nat :=
  if r.log < 4 ∨ 16 < r.log then none
  else if (r.tail + 2 ^ 32 - r.head) % 2 ^ 32 = 2 ^ r.log then none
  else
    let a := r.base + bytes * (r.tail % 2 ^ r.log)
    match s.lineFault a with
    | some _ => none
    | none => some a

/-- Append a fault record to the fault ring, or count it as lost (R472). -/
def State.report (s : State) (r : FaultRec) : State :=
  match s.ringSlot s.flt 32 with
  | some a => { (s.touch none a).store a r.bytes with flt := { s.flt with tail := (s.flt.tail + 1) % 2 ^ 32 } }
  | none => { s with flt := { s.flt with lost := min (s.flt.lost + 1) (2 ^ 32 - 1) } }

/-- The record of a lane thread's stop at its position. -/
def Team.laneRec (T : Team) (tid : Nat) (p : Pos) (f : Trap) : FaultRec :=
  ⟨f.code, 0, f.cause, BitVec.ofNat 10 tid, p.h, p.k, f.addr, f.info, f.handle, f.peer, T.ctx, BitVec.ofNat 24 T.index⟩
/-- The record of the steering thread's stop. -/
def Team.steerRec (T : Team) (p : Pos) (f : Trap) : FaultRec :=
  ⟨f.code, 1, f.cause, 0, p.h, p.k, f.addr, f.info, f.handle, f.peer, T.ctx, BitVec.ofNat 24 T.index⟩
/-- The record of an engine entry's stream fault: 2 stager, 3 cube, 4 Opal. -/
def Team.engRec (T : Team) (src : BitVec 4) (idx : Nat) (f : Trap) : FaultRec :=
  ⟨f.code, src, f.cause, BitVec.ofNat 10 idx, 0, 0, f.addr, f.info, f.handle, f.peer, T.ctx, BitVec.ofNat 24 T.index⟩

/-- TAKING A FAULT, lane thread (R465, R471): the thread is STOPPED with its record at its position, and the record goes to
the fault ring. -/
def State.stopLane (s : State) (t : Nat) (T : Team) (tid : Nat) (th : Thread) (f : Trap) : State :=
  let r := T.laneRec tid th.pos f
  (s.setThread t T tid { th with st := .stopped r }).report r

/-- TAKING A FAULT, steering thread (R301, R471). -/
def State.stopSteer (s : State) (t : Nat) (T : Team) (f : Trap) : State :=
  let r := T.steerRec T.steer.pos f
  (s.setTeam t { T with steer := { T.steer with st := .stopped r } }).report r

/-- A stop whose restart continues at the next instruction (R466). -/
def stopsAfter (code : BitVec 8) : Bool := code == Code.trap || code == Code.brkpt

/-- A position inside the fetched clause, or its fall-through header. -/
def Thread.enterFormer (th : Thread) (p : Pos) : Thread := { th with st := .former, pos := p, nextPos := p }

/-! ## The control state of a thread in its record (Table 20.7, log entry 22) -/

/-- Bytes at an offset of a save slot. -/
abbrev Piece := Nat × List Byte

/-- A value of `n` bytes at an offset. -/
def piece (off n v : Nat) : Piece := (off, leBytes n v)

/-- A number from named flags, lowest first. -/
def packFlags : List Bool → Nat
  | [] => 0
  | b :: r => (if b then 1 else 0) + 2 * packFlags r

/-- The shadow words of a late result: one for every seven registers and one predicate. -/
def Late.shadows (l : Late) : List Nat :=
  if l.shadow = 0 then []
  else (span 0 (max ((l.dregs.length + 6) / 7) l.dpreds.length)).map fun i =>
    let rs := (l.dregs.drop (7 * i)).take 7
    l.shadow + rs.headD 0 * 2 ^ 4 + rs.length * 2 ^ 11 + (match l.dpreds[i]? with | some p => p + 1 | none => 0) * 2 ^ 14

/-- What a thread is parked on (Table 20.7): POBJ and PIDX. -/
def Park.code (p : Park) : Nat × Nat :=
  match p with
  | .join j _ => (1, j)
  | .queue _ _ => (2, 0)
  | .line l _ => (3, l)
  | .barrier k _ => (4, k)
  | .claim _ => (5, 0)
  | .recv f _ _ _ => (6, f)
  | .send _ _ _ _ b _ => (6, b)
  | .redq n _ _ => (7, n)

/-- The part of a thread record that spawn memory holds (R223): state, position, guard value, predicates, index registers, links, shadows and
pop position. -/
def Thread.control (th : Thread) (tid : Nat) : List Piece :=
  let at0 := 0x20000 + 256 * tid
  let st := match th.st with | .parked o => (2, o.code) | .stopped _ => (3, (0, 0)) | _ => (1, (0, 0))
  let sh := (th.late.flatMap Late.shadows).take 16
  [piece at0 4 (st.1 + th.role * 4 + packFlags [th.g] * 16 + st.2.1 * 2 ^ 8 + st.2.2 % 65536 * 2 ^ 16),
    piece (at0 + 4) 4 (th.pos.h + th.pos.k * 2 ^ 24), piece (at0 + 8) 2 th.p.toNat,
    piece (at0 + 0x14) 4 (th.link.length + th.depth * 8), piece (at0 + 0x2C) 4 th.dpos] ++
  (th.x.map fun e => piece (at0 + 0xC + 2 * e.1) 2 e.2.toNat) ++
  (((span 0 th.link.length).zip th.link.reverse).map fun e => piece (at0 + 0x18 + 4 * e.1) 4 e.2.toNat) ++
  (((span 0 sh.length).zip sh).map fun e => piece (at0 + 0x40 + 4 * e.1) 4 e.2)

/-- The bytes of a region of a slot, by offset in the region. -/
def region (m : Map Byte) (off n : Nat) : Map Byte :=
  (m.filter fun c => decide (off ≤ c.1 ∧ c.1 < off + n)).map fun c => (c.1 - off, c.2)

/-- A counter that its field holds modulo 2^w: as it was, unless the field says otherwise. -/
def keepLow (w old new : Nat) : Nat := if old % 2 ^ w = new then old else new

/-- Link entries, the youngest first. -/
def linksOf (m : Map Byte) (off n : Nat) : List Tgt := ((span 0 n).map fun i => BitVec.ofNat 24 (Memory.val m (off + 4 * i) 4)).reverse

/-- A shadow word as a result whose registers are written. -/
def lateOf (w : Nat) : Option Late :=
  if field w 0 4 = 0 then none
  else some ⟨0, field w 0 4, span (field w 4 7) (field w 11 3), if field w 14 5 = 0 then [] else [field w 14 5 - 1], [], [], 0, .done⟩

/-- The results that the shadow words of a record tell of: those that a thread has, if the words are theirs. -/
def latesOf (old : List Late) (ws : List Nat) : List Late :=
  if (old.flatMap Late.shadows).take 16 = ws.filter (fun w => w % 16 != 0) then old else ws.filterMap lateOf

/-- The control state of a thread as its record has it (Table 20.7). -/
def Thread.ofControl (th : Thread) (c : Map Byte) : Thread :=
  let v := fun o n => Memory.val c o n
  let pos : Pos := ⟨field (v 4 4) 0 24, field (v 4 4) 24 4⟩
  { th with
    g := flag (v 0 4) 4, pos := pos, nextPos := if pos = th.pos then th.nextPos else pos, p := BitVec.ofNat 16 (v 8 2),
    x := (span 0 4).filterMap fun i => let w : BitVec 14 := BitVec.ofNat 14 (v (0xC + 2 * i) 2); if w = 0 then none else some (i, w),
    link := linksOf c 0x18 (field (v 0x14 4) 0 3), depth := field (v 0x14 4) 3 12, dpos := keepLow 32 th.dpos (v 0x2C 4),
    late := latesOf th.late ((span 0 16).map fun i => v (0x40 + 4 * i) 4) }

/-- Where the record of a thread lies in the save slot of its team. -/
def State.recordAt (s : State) (j tid : Nat) : Nat := s.cfg.savebase + 4194304 * j + 0x20000 + 256 * tid

/-- The two lines of a thread record are written whole (R163); in a set that is OFF, clearing or LOST nothing is (log entry 79). -/
def State.putRecord (s : State) (j tid : Nat) (ps : List Piece) : State :=
  let base := s.recordAt j tid
  if (s.setFault base).isSome then s
  else
    let m := ps.foldl (fun m p => Memory.store m p.1 p.2) []
    (((s.touchAll none [base, base + 128]).putLine base (Memory.bytes m (0x20000 + 256 * tid) 128)).putLine (base + 128)
      (Memory.bytes m (0x20000 + 256 * tid + 128) 128))

/-- The bytes of a thread record; none while a line of it cannot be read. -/
def State.getRecord (s : State) (j tid : Nat) : Option (Map Byte) :=
  let base := s.recordAt j tid
  if (s.lineFault base).isSome || (s.lineFault (base + 128)).isSome then none else some (region s.mem base 256)

/-! ## The wave former (R222, R223) -/

/-- A partition's scheduler. -/
def State.part (s : State) (c p : Nat) : Part := Map.get ⟨[], [], []⟩ (Map.get [] s.cores c) p
/-- Write a partition's scheduler. -/
def State.setPart (s : State) (c p : Nat) (x : Part) : State :=
  { s with cores := Map.set [] s.cores c (Map.set ⟨[], [], []⟩ (Map.get [] s.cores c) p x) }

/-- The control state of a thread moves to spawn memory, the record region of its team's save slot, by whole lines (R223, R475). -/
def State.spillThread (s : State) (t tid : Nat) : State :=
  match s.team? t with
  | none => s
  | some T =>
    match T.thread? tid with
    | none => s
    | some th =>
      let s1 := s.setThread t T tid { th with st := .spilled }
      match T.sslot with
      | none => s1
      | some j => s1.putRecord j tid (th.control tid)

/-- A spilled thread is brought back into the former, as its record in spawn memory has it (R223). -/
def State.unspillThread (s : State) (t tid : Nat) : State :=
  match s.team? t with
  | none => s
  | some T =>
    match T.thread? tid with
    | none => s
    | some th =>
      let back := { th with st := .former }
      match T.sslot with
      | none => s.setThread t T tid back
      | some j =>
        match s.getRecord j tid with
        | some c => (s.touchAll none [s.recordAt j tid, s.recordAt j tid + 128]).setThread t T tid (back.ofControl c)
        | none => s.setThread t T tid back

/-- The group with the oldest last arrival of a former. -/
def Part.oldest (x : Part) : Option Nat :=
  (List.find? (fun i => x.former.all fun h => match x.former[i]? with | some g => decide (g.last ≤ h.last) | none => false)
    (span 0 x.former.length))

/-- Spill the group with the oldest last arrival (R223). -/
def State.spillOldest (s : State) (c p : Nat) : State :=
  let x := s.part c p
  match x.oldest with
  | none => s
  | some i =>
    match x.former[i]? with
    | none => s
    | some g => g.tids.foldl (fun s u => s.spillThread g.team u) (s.setPart c p { x with former := x.former.eraseIdx i, spilled := x.spilled ++ [g] })

/-- One thread arrives: it joins the open group of its team and position, or opens a new one; when every group is occupied one is spilled
first (R222, R223). -/
def State.formerOne (s : State) (c p t : Nat) (pos : Pos) (joined : Bool) (tid : Nat) : State :=
  let x := s.part c p
  let mine := fun (g : Group) => g.team == t && g.pos == pos && decide (g.tids.length < 32)
  match x.former.findIdx? mine with
  | some i =>
    s.setPart c p { x with former := x.former.modify i fun g => { g with tids := g.tids ++ [tid], last := s.clock, joined := g.joined || joined } }
  | none =>
    let s1 := if x.former.length < Config.formerGroups then s else s.spillOldest c p
    let y := s1.part c p
    s1.setPart c p { y with former := y.former ++ [⟨t, [tid], pos, s.clock, joined⟩] }

/-- The wave former takes arriving threads (R222). -/
def State.formerAdd (s : State) (T : Team) (t : Nat) (tids : List Nat) (pos : Pos) (part : Nat) (joined : Bool) : State :=
  match T.core? with
  | none => s
  | some c => tids.foldl (fun s u => s.formerOne c part t pos joined u) s

/-- A spilled group is brought back with its timer restarted; a thread that its record now places elsewhere joins the group of that position. -/
def State.unspillGroup (s : State) (c p : Nat) (g : Group) : State :=
  let s1 := g.tids.foldl (fun s u => s.unspillThread g.team u) s
  let at' := fun (u : Nat) => (((s1.team? g.team).bind fun T => T.thread? u).map Thread.pos).getD g.pos
  let here := g.tids.filter fun u => at' u == g.pos
  let x := s1.part c p
  let s2 := if here.isEmpty then s1 else s1.setPart c p { x with former := x.former ++ [{ g with tids := here, last := s.clock }] }
  (g.tids.filter fun u => at' u != g.pos).foldl (fun s u => s.formerOne c p g.team (at' u) g.joined u) s2

/-- Bring spilled groups back, the oldest first, while a former group is free (R223). -/
def State.unspill (s : State) (c p : Nat) : State :=
  let x := s.part c p
  let back := x.spilled.take (Config.formerGroups - x.former.length)
  if back.isEmpty then s
  else back.foldl (fun s g => s.unspillGroup c p g) (s.setPart c p { x with spilled := x.spilled.drop back.length })

/-- The same in every partition of a core. -/
def State.unspillCore (s : State) (c : Nat) : State := (span 0 4).foldl (fun s p => s.unspill c p) s

/-- THE RETURN FROM A FAULT, lane thread (R466, R473): TRAP and BRKPT continue after the instruction, every other stop
performs the instruction again. The thread enters FORMER. -/
def State.restartLane (s : State) (t : Nat) (T : Team) (tid : Nat) (th : Thread) (r : FaultRec) : State :=
  let p := if stopsAfter r.code then th.nextPos else th.pos
  let s1 := s.setThread t T tid (th.enterFormer p)
  s1.formerAdd T t [tid] p th.part false

/-- THE RETURN FROM A FAULT, steering thread. -/
def State.restartSteer (s : State) (t : Nat) (T : Team) (r : FaultRec) : State :=
  let p := if stopsAfter r.code then T.steer.nextPos else T.steer.pos
  s.setTeam t { T with steer := { T.steer with st := .running, pos := p, nextPos := p } }

/-! ## Outbound messages -/

/-- Ports and stations carry traffic: a configuration record is accepted, no start is in progress, no thermal trip (R500, R505). -/
def State.portsOpen (s : State) : Bool := s.mgmt.accepted && s.mgmt.starting.isNone && !s.mgmt.trip

/-- An RDMA write on a valid connection; on any other it is not sent (R98). -/
def State.sendRdma (s : State) (conn : Nat) (addr : DWord) (data : List Byte) : State :=
  match Map.find? s.conns conn with
  | some c => if s.portsOpen && c.valid && conn != 0 then { s with out := s.out ++ [.rdma conn c.hostkey addr data] } else s
  | none => s

/-- Send a message. -/
def State.send (s : State) (m : Out) : State := { s with out := s.out ++ [m] }

/-- A message to another K9 of the pod waits as a cell of a class for a slot of the station that an address and the peer name (R105, R110). -/
def State.toPeer (s : State) (peer : Aid) (cls a : Nat) (m : Out) : State :=
  { s with cells := s.cells ++ [⟨.message m, cls, peer, (a / 128 + peer.toNat) % 16, false⟩] }

/-- The class and the address of the messages about a gang, for which Table 5.1 and R105 name none (log entry 97). -/
def State.toBroker (s : State) (peer : Aid) (m : Out) : State := s.toPeer peer 2 0 m

/-- A message about a gang: it leaves for another K9, or, when it is for this K9 itself, arrives here as the event `i` (R108). -/
def State.post (s : State) (peer : Aid) (m : Out) (i : Instr) : State :=
  if peer = s.cfg.aid then { s with agenda := s.agenda ++ [.event i] } else s.toBroker peer m

/-- The other K9s of a gang, as a K9 knows them: of its group's entries, of its members, its coordinator. -/
def Grid.others (g : Grid) (own : Aid) : List Aid :=
  ((g.ranks.map fun k => (k.extractLsb' 0 10 : Aid)) ++ g.holders.map Prod.snd ++ g.peers.map Prod.snd ++ [g.coord]).foldl
    (fun l a => if a = own ∨ a ∈ l then l else l ++ [a]) []

/-- A message about a gang to every other K9 of it. -/
def State.toGang (s : State) (grid : Nat) (m : Out) : State :=
  match Map.find? s.grids grid with
  | some g => (g.others s.cfg.aid).foldl (fun s a => s.toBroker a m) s
  | none => s

/-! ## Apertures (R55, R56) -/

/-- Where a generic address lies. -/
inductive Loc where
  | mem (priv : Bool) (va : Nat)
  | scr (off : Nat)
  | bad
  deriving DecidableEq, Repr

/-- Bytes of one private block (R56). -/
def privBlock (priv : Nat) : Nat := (1024 * (priv * 256) + 65535) / 65536 * 65536

/-- Bytes `va` to `va + n` overlap the private arena (Table 3.3). -/
def Ctx.arena (c : Ctx) (va n : Nat) : Bool :=
  let a := va % 2 ^ 56
  decide (0 < c.pvsize ∧ a < c.pvbase + c.pvsize * 2 ^ 30 ∧ c.pvbase < a + n)

/-- Resolve an access of `n` bytes (Table 3.3); `tid` is none for the steering thread and the engines. -/
def State.resolve (s : State) (T : Team) (tid : Option Nat) (a : DWord) (n : Nat) : Loc :=
  let off := a.toNat % 2 ^ 56
  match a.toNat / 2 ^ 56 with
  | 0 =>
    match Map.find? s.ctxs T.ctx.toNat with
    | some c => if c.arena off n then .bad else .mem false off
    | none => .mem false off
  | 1 =>
    match tid, T.pblk, Map.find? s.ctxs T.ctx.toNat with
    | some i, some k, some c =>
      if off + n ≤ T.priv * 256 then .mem true (c.pvbase + k * privBlock T.priv + i * (T.priv * 256) + off) else .bad
    | _, _, _ => .bad
  | 2 => if off + n ≤ T.slines * 128 then .scr off else .bad
  | _ => .bad

end Sys2Proof.Machine
end

