-- ==== Sys2Proof/Machine/Bank.lean ====
section
/-! DEFINITION. Main memory's power contract (chapter 7): bank set states, bank commands, bandwidth phases, patrol, error summaries. -/

namespace Sys2Proof.Machine

/-- Ticks in a number of nanoseconds. -/
def nsTicks (n : Nat) : Nat := n * Config.ticksPerNs
/-- Ticks in a number of microseconds. -/
def usTicks (n : Nat) : Nat := nsTicks (n * 1000)

/-- Change a bank set's record. -/
def State.modBank (s : State) (k : Nat) (f : Bank → Bank) : State := s.setBank k (f (s.bank k))

/-! ## Holding and governing (R157, R158) -/

/-- The walks of `n` pages from `va`: the bucket lines that each reads, and the bank set in which the page lies if it is resident. -/
def State.pageWalks (s : State) (c : Ctx) (ctx : CtxId) (va : Nat) : Nat → List (List Nat × Option Nat)
  | 0 => []
  | n + 1 =>
    let w := s.walk c ctx.toNat va
    let here := match w.2 with
      | .found a => let e := s.pteAt a; if e.res then some (setOf (e.pa va)) else none
      | _ => none
    (w.1, here) :: State.pageWalks s c ctx (va + 65536) n

/-- The walks of the pages of a team's regions: mode, address of the team's first line, lines (R42). -/
def State.regionWalks (s : State) (T : Team) : List (List Nat × Option Nat) :=
  match Map.find? s.ctxs T.ctx.toNat, Map.find? s.grids T.grid with
  | some c, some g => g.desc.regions.flatMap fun r =>
      let va := r.1 + T.index * r.2.2.2.2 * 128
      s.pageWalks c T.ctx (va / 65536 * 65536) ((va % 65536 + r.2.2.1 * 128 + 65535) / 65536)
  | _, _ => []

/-- The bank sets that a team's regions touch (R157). -/
def State.regionSets (s : State) (T : Team) : List Nat := (s.regionWalks T).filterMap Prod.snd

/-- A reservation of this K9 that waits for its commit: its member is not resident yet (R137). -/
def State.uncommitted (s : State) (t : Nat) : Bool := s.resvs.any fun r => r.team == t && !r.committed

/-- A context holds a set (R157). -/
def State.holds (s : State) (ctx k : Nat) : Bool :=
  s.held.contains (ctx, k) ||
    s.teams.any fun e => e.2.ctx.toNat == ctx && (match e.2.place with | .resident _ _ => !s.uncommitted e.1 | .saved => false) &&
      (s.regionSets e.2).contains k

/-- The governing phase of a set (R157). -/
def State.governing (s : State) (k : Nat) : Nat :=
  s.phases.foldl (fun m p => if s.holds p.1 k then max m p.2.force else m) 0

/-- Write a context's phase register. -/
def State.setPhase (s : State) (c : CtxId) (p : PhaseReg) : State := { s with phases := Map.set PhaseReg.reset s.phases c.toNat p }

/-- The sets that a context holds. -/
def State.heldSets (s : State) (ctx : CtxId) : List Nat := (span 0 Config.sets).filter fun k => s.holds ctx.toNat k

/-- The wake latency of a set in nanoseconds (R159). -/
def Bank.wakeNs (b : Bank) : Nat := match b.state with | 1 => 1200 | 2 => 30 | _ => 0

/-- A change whose device time has come is in force (R159); below STREAM the context lets its sets go (R157). -/
def State.settlePhase (s : State) (ctx : CtxId) : State :=
  let r := s.phase ctx
  match r.change with
  | some (t, p) =>
    if t ≤ s.dtime.toNat then
      let s1 := s.setPhase ctx { r with force := p, change := none }
      if p < 2 then { s1 with held := s1.held.filter (fun h => h.1 ≠ ctx.toNat) } else s1
    else s
  | none => s

/-- A BWP at the present device time (R156, R159, R320): the register takes the phase and lead; a change comes into force at its time, or is
cancelled. -/
def State.writePhase (s : State) (ctx : CtxId) (ph lead : Nat) : State :=
  let s0 := s.settlePhase ctx
  let r := s0.phase ctx
  let now := s0.dtime.toNat
  if ph = r.ph then s0.setPhase ctx { r with lead := lead }
  else if r.force < ph then
    let W := (s0.heldSets ctx).foldl (fun m k => max m (s0.bank k).wakeNs) 0
    let s1 := s0.setPhase ctx { r with ph := ph, lead := lead, change := some (now + max (lead * 1000) W, ph) }
    (s0.heldSets ctx).foldl (fun s k => s.modBank k fun b => { b with waking := b.waking || b.state == 1 || b.state == 2 }) s1
  else if ph < r.force then s0.setPhase ctx { r with ph := ph, lead := lead, change := some (now + lead * 1000, ph) }
  else s0.setPhase ctx { r with ph := ph, lead := lead, change := none }

/-- PHASE_IN_FORCE (R159). -/
def execPhaseInForce (ctx : CtxId) (s : State) : Res := .next (s.settlePhase ctx)

/-! ## Bank commands (R153, R155) -/

/-- A command completes with a status. -/
def CmdStat.done (c : CmdStat) (last : BitVec 8) : CmdStat := ⟨c.seq + 1, last⟩
/-- A bank command completes. -/
def State.bankDone (s : State) (last : BitVec 8) : State := { s with ctl := { s.ctl with bankstat := s.ctl.bankstat.done last } }

/-- The time that clearing a set takes: 1 GiB at 51.2 GB/s (R153). -/
def clearTicks : Nat := nsTicks 20971520

/-- CLEARING_END (R153): after 20.97 ms every line of the set reads zero and the set enters IDLE; one whose remap table has been lost since is LOST
(log entry 81). -/
def execClearingEnd (k : BitVec 9) (s : State) : Res :=
  let n := k.toNat
  let b := s.bank n
  if b.clr && decide (b.lastAccess + clearTicks ≤ s.clock) then
    let s1 := { s with mem := Memory.clear s.mem (n * 2 ^ Config.setShift) (2 ^ Config.setShift),
                       poison := s.poison.filter (fun l => decide (setOf (l * Config.lineBytes) ≠ n)) }
    .next ((s1.setBank n { b with state := if b.rlost then 4 else 2, clr := false }).bankDone 0)
  else .next s

/-- A set goes OFF. -/
def Bank.off (b : Bank) : Bank := { b with state := 0, waking := false, patrol := false, offAfter := none, cmds := [], queue := [] }

/-- ON: clearing begins; the command completes when it ends (R153, R155). -/
def State.bankOn (s : State) (k : Nat) : State :=
  let b := s.bank k
  if b.state = 0 ∧ b.clr = false then s.setBank k { b with clr := true, lastAccess := s.clock } else s.bankDone 1

/-- OFF: at once, or behind the requests that are queued (R155). -/
def State.bankOff (s : State) (k : Nat) : State :=
  let b := s.bank k
  if b.inuse ∨ b.state = 4 ∨ b.clr then s.bankDone 1
  else if b.state = 0 then s.bankDone 0
  else if b.queue.isEmpty then (s.setBank k b.off).bankDone 0
  else s.setBank k { b with offAfter := some b.queue.length }

/-- INUSE (R155). -/
def State.bankInuse (s : State) (k : Nat) : State :=
  let b := s.bank k
  if b.state = 0 ∨ b.clr then s.bankDone 1 else (s.setBank k { b with inuse := true }).bankDone 0

/-- A bank command by its number in Table 7.3; 0 and 7 are none. -/
def State.bankOp (s : State) (k op : Nat) : State :=
  match op with
  | 1 => s.bankOn k
  | 2 => s.bankOff k
  | 3 => s.bankInuse k
  | 4 => (s.modBank k fun b => { b with inuse := false }).bankDone 0
  | 5 => (s.modBank k fun b => { b with pres := true }).bankDone 0
  | 6 => (s.modBank k fun b => { b with pres := false }).bankDone 0
  | _ => s.bankDone 3

/-- A bank command is written: behind an OFF of the same set that waits, it waits too (R155, log entry 80). -/
def State.bankIssue (s : State) (k op : Nat) : State :=
  if (s.bank k).offAfter.isSome then s.modBank k fun b => { b with cmds := b.cmds ++ [op] } else s.bankOp k op

/-- An OFF that waits for nothing more is performed, and then the commands behind it. -/
def State.offNow (s : State) (k : Nat) : State :=
  let b := s.bank k
  if b.offAfter = some 0 then b.cmds.foldl (fun s op => s.bankOp k op) ((s.setBank k b.off).bankDone 0) else s

/-- ON (R153, R155). -/
def execBankOn (k : BitVec 9) (s : State) : Res := .next (s.bankIssue k.toNat 1)
/-- OFF (R155). -/
def execBankOff (k : BitVec 9) (s : State) : Res := .next (s.bankIssue k.toNat 2)
/-- INUSE (R155). -/
def execBankInuse (k : BitVec 9) (s : State) : Res := .next (s.bankIssue k.toNat 3)
/-- NOTUSE (R155). -/
def execBankNotuse (k : BitVec 9) (s : State) : Res := .next (s.bankIssue k.toNat 4)
/-- PRES (R155). -/
def execBankPres (k : BitVec 9) (s : State) : Res := .next (s.bankIssue k.toNat 5)
/-- NOPRES (R155). -/
def execBankNopres (k : BitVec 9) (s : State) : Res := .next (s.bankIssue k.toNat 6)

/-! ## Service and sleep (R149, R150, R152, R158) -/

/-- MEMORY_LINE_ACCESS (R149, R150): a set in ACT serves the oldest request of its queue. -/
def execMemoryLineAccess (k : BitVec 9) (s : State) : Res :=
  let b := s.bank k.toNat
  if b.state = 3 ∧ b.queue ≠ [] then
    .next ((s.setBank k.toNat { b with queue := b.queue.drop 1, lastAccess := s.clock, offAfter := b.offAfter.map (· - 1) }).offNow k.toNat)
  else .next s

/-- ACT_IDLE_TIMEOUT (R152, Table 7.5). -/
def execActIdleTimeout (k : BitVec 9) (s : State) : Res :=
  let b := s.bank k.toNat
  if b.state = 3 ∧ b.queue = [] ∧ b.patrol = false ∧ b.lastAccess + nsTicks 200 ≤ s.clock ∧ s.governing k.toNat ≠ 3 then
    .next (s.setBank k.toNat { b with state := 2 })
  else .next s

/-- How long a set must have gone without an access before RET (Table 7.5). -/
def retTicks (phase : Nat) : Option Nat := match phase with | 0 => some (usTicks 10) | 1 => some (usTicks 100) | _ => none

/-- RET_ENTRY_TIMEOUT (R158). -/
def execRetEntryTimeout (k : BitVec 9) (s : State) : Res :=
  let b := s.bank k.toNat
  match retTicks (s.governing k.toNat) with
  | some d =>
    if b.state = 2 ∧ b.queue = [] ∧ b.patrol = false ∧ b.waking = false ∧ b.lastAccess + d ≤ s.clock then
      .next (s.setBank k.toNat { b with state := 1 })
    else .next s
  | none => .next s

/-- WAKE_COMPLETE (R152, R158): a set that is waking, or that BURST holds, reaches ACT; one in RET under STREAM reaches IDLE. -/
def execWakeComplete (k : BitVec 9) (s : State) : Res :=
  let b := s.bank k.toNat
  if b.state ≠ 1 ∧ b.state ≠ 2 then .next s
  else if b.waking ∨ s.governing k.toNat = 3 then .next (s.setBank k.toNat { b with state := 3, waking := false, lastAccess := s.clock })
  else if b.state = 1 ∧ s.governing k.toNat = 2 then .next (s.setBank k.toNat { b with state := 2 })
  else .next s

/-! ## Patrol, errors, loss, bus code (R161-R167) -/

/-- PATROL_INTERVAL_START (R161, R165). -/
def execPatrolIntervalStart (s : State) : Res :=
  let fresh := s.banks.map fun e => (e.1, { e.2 with granules := [], runs := [], counts := [] })
  .next { s with banks := fresh.filter (fun e => decide (e.2 ≠ Bank.reset)) }

/-- An error of a row in the set's history of the last 64 rows with errors: corrected and uncorrectable ones (R164). -/
def Bank.noteRow (b : Bank) (row : Nat) (ue : Bool) : Bank :=
  let old := (b.rows.find? fun r => r.1 == row).getD (row, 0, 0)
  let new := if ue then (row, old.2.1, old.2.2 + 1) else (row, old.2.1 + 1, old.2.2)
  { b with rows := (new :: b.rows.filter (fun r => r.1 != row)).take 64, lastrow := BitVec.ofNat 32 row }

/-- Remap a row while a spare is left: its errors of the interval count no more (R165). -/
def Bank.remapRow (b : Bank) (row : Nat) : Bank :=
  if 0 < b.spare then
    { b with remap := Map.put b.remap row (b.remap.foldl (fun n e => max n (e.2 + 1)) 0), remaps := b.remaps + 1, spare := b.spare - 1, counts := Map.set 0 b.counts row 0 }
  else b

/-- A corrected error (R162, R164); the third of a row in an interval remaps it (R165). -/
def Bank.corrected (b : Bank) (row : Nat) : Bank :=
  let n := Map.get 0 b.counts row + 1
  let b1 := { b with cecnt := min (b.cecnt + 1) (2 ^ 32 - 1), counts := Map.set 0 b.counts row n }.noteRow row false
  if 3 ≤ n then b1.remapRow row else b1
/-- A line made poison (R163, R164); it remaps its row (R165). -/
def Bank.spoiled (b : Bank) (row : Nat) : Bank :=
  ({ b with uecnt := min (b.uecnt + 1) (2 ^ 16 - 1) }.noteRow row true).remapRow row

/-- A patrol or stager read finds an error in a line (R162, R163). -/
def State.findError (s : State) (line : Nat) (bad : Bool) : State :=
  let k := setOf (line * Config.lineBytes)
  let b := s.bank k
  if b.clr ∨ b.state = 0 ∨ b.state = 4 ∨ s.poison.contains line then s
  else if bad then ({ s with poison := s.poison ++ [line] } : State).setBank k (b.spoiled (Config.rowOf line))
  else s.setBank k (b.corrected (Config.rowOf line))

/-- PATROL_READ (R161, R162): the patrol engine reads an unmarked granule; `fixed` and `bad` are the lines in which it finds a
correctable and an uncorrectable error. -/
def execPatrolRead (k : BitVec 9) (granule : BitVec 9) (fixed bad : List Nat) (s : State) : Res :=
  let n := k.toNat
  let b := s.bank n
  if b.clr ∨ b.state = 0 ∨ b.state = 4 ∨ b.granules.contains granule.toNat then .next s
  else
    let lo := (n * 2 ^ Config.setShift + granule.toNat * 2 ^ 21) / Config.lineBytes
    let inside := fun (l : List Nat) => l.filter fun x => decide (lo ≤ x ∧ x < lo + 16384)
    let s1 := (inside bad).foldl (fun s x => s.findError x true) ((inside fixed).foldl (fun s x => s.findError x false) s)
    let gs := b.granules ++ [granule.toNat]
    .next (s1.modBank n fun c =>
      { c with granules := gs, lastAccess := s.clock, state := if b.state = 1 then 3 else c.state,
               patrol := (b.patrol || b.state == 1) && decide (gs.length < 512) })

/-- REMAP_LOST (R166): the set is LOST, and the management controller logs it; a set that is OFF or clearing is LOST when clearing ends (R153, log
entry 81). An OFF that waits is refused, and the commands behind it follow. -/
def execRemapLost (k : BitVec 9) (s : State) : Res :=
  let n := k.toNat
  let b := s.bank n
  let s1 := { s with mgmt := { s.mgmt with log := s.mgmt.log ++ [(Code.remapLost, n)] } }
  if b.state = 0 then .next (s1.setBank n { b with rlost := true })
  else
    let s2 := s1.setBank n { b with state := 4, rlost := true, queue := [], waking := false, patrol := false, offAfter := none, cmds := [] }
    .next (b.cmds.foldl (fun s op => s.bankOp n op) (if b.offAfter.isSome then s2.bankDone 1 else s2))

/-- BUS_CODING_CHOICE (R167): power only. -/
def execBusCodingChoice (k : BitVec 9) (low : Bool) (s : State) : Res := .next (s.modBank k.toNat fun b => { b with lowToggle := low })

end Sys2Proof.Machine
end

