-- ==== Sys2Proof/Machine/Flags.lean ====
section
/-! DEFINITION. The sticky arithmetic flags (Tables 10.7, 10.8) and how an exact value is rounded to a format with its flags
(R233-R242). Values are exact dyadic numbers; nothing is computed in floating point. -/

namespace Sys2Proof.Machine

/-- A set of sticky flags: [0] INV, [1] DZ, [2] OF, [3] UF, [4] NX (Table 10.7). -/
abbrev FlagSet := BitVec 5

namespace FlagSet
/-- INV -/
def inv : FlagSet := 1
/-- DZ -/
def dz : FlagSet := 2
/-- OF; every condition that sets OF also sets NX (Table 10.8). -/
def ovf : FlagSet := 0x14
/-- UF -/
def uf : FlagSet := 8
/-- NX -/
def nx : FlagSet := 16
/-- A flag, if a condition holds. -/
def when (c : Bool) (f : FlagSet) : FlagSet := if c then f else 0
end FlagSet

/-- A floating-point format (Table 10.1): fraction bits, exponent bits, bias, magnitude code of the largest finite value,
magnitude code of infinity where there is one, and the default NaN (Table 10.2). -/
structure Fmt where
  f : Nat
  ebits : Nat
  bias : Nat
  maxCode : Nat
  inf : Option Nat
  nan : Nat
  deriving DecidableEq, Repr

namespace Fmt
/-- FP32 -/
def fp32 : Fmt := ⟨23, 8, 127, 0x7F7FFFFF, some 0x7F800000, 0x7FC00000⟩
/-- FP16 -/
def fp16 : Fmt := ⟨10, 5, 15, 0x7BFF, some 0x7C00, 0x7E00⟩
/-- BF16 -/
def bf16 : Fmt := ⟨7, 8, 127, 0x7F7F, some 0x7F80, 0x7FC0⟩
/-- FP8 E5M2 -/
def e5m2 : Fmt := ⟨2, 5, 15, 0x7B, some 0x7C, 0x7E⟩
/-- FP8 E4M3: no infinity -/
def e4m3 : Fmt := ⟨3, 4, 7, 0x7E, none, 0x7F⟩
/-- FP4 E2M1: no infinity and no NaN; the NaN entry is the +0 of Table 10.5 -/
def e2m1 : Fmt := ⟨1, 2, 1, 0x7, none, 0⟩
/-- Bits below the sign. -/
def mag (t : Fmt) : Nat := t.f + t.ebits
/-- The exponent of the unit of the subnormal grid. -/
def qmin (t : Fmt) : Int := 1 - (t.bias : Int) - t.f
/-- The exponent of the smallest normal. -/
def emin (t : Fmt) : Int := 1 - (t.bias : Int)
/-- A code with its sign. -/
def signed (t : Fmt) (neg : Bool) (code : Nat) : Nat := if neg then 2 ^ t.mag + code else code
end Fmt

/-- What a code denotes: a NaN, an infinity, or an exact value (-1)^neg * m * 2^e. -/
inductive FVal where
  | nan (sig : Bool)
  | inf (neg : Bool)
  | fin (neg : Bool) (m : Nat) (e : Int)
  deriving DecidableEq, Repr

/-- Decode a code of a format (R233, R234): a signalling NaN has its top fraction bit clear; E4M3 NaNs are quiet. -/
def Fmt.decode (t : Fmt) (c : Nat) : FVal :=
  let neg := c / 2 ^ t.mag % 2 == 1
  let k := c % 2 ^ t.mag
  let E := k / 2 ^ t.f
  let F := k % 2 ^ t.f
  if t.maxCode < k then
    (match t.inf with
     | some i => if k = i then .inf neg else .nan (F / 2 ^ (t.f - 1) == 0)
     | none => .nan false)
  else if E = 0 then .fin neg F t.qmin
  else .fin neg (2 ^ t.f + F) (t.qmin + E - 1)

/-- A signalling NaN. -/
def FVal.signalling (v : FVal) : Bool := match v with | .nan s => s | _ => false
/-- A NaN. -/
def FVal.isNan (v : FVal) : Bool := match v with | .nan _ => true | _ => false
/-- An infinity. -/
def FVal.isInf (v : FVal) : Bool := match v with | .inf _ => true | _ => false
/-- A zero. -/
def FVal.isZero (v : FVal) : Bool := match v with | .fin _ m _ => m == 0 | _ => false
/-- The sign. -/
def FVal.neg (v : FVal) : Bool := match v with | .nan _ => false | .inf n => n | .fin n _ _ => n

/-- Round the non-negative m * 2^e to a multiple of 2^q: the integer quotient and whether it is exact. Ties to even in rn;
`up` says whether the mode moves the magnitude away from zero. -/
def roundInt (rn up : Bool) (m : Nat) (e q : Int) : Nat × Bool :=
  if q ≤ e then (m * 2 ^ (e - q).toNat, true)
  else if m = 0 then (0, true)
  else
    let d := (q - e).toNat
    if Nat.log2 m + 2 < d then (if up then 1 else 0, false)
    else
      let fl := m / 2 ^ d
      let rem := m % 2 ^ d
      if rem = 0 then (fl, true)
      else
        let half := 2 ^ (d - 1)
        let inc := if rn then decide (half < rem) || (decide (rem = half) && fl % 2 == 1) else up
        (if inc then fl + 1 else fl, false)

/-- Whether a mode moves a magnitude of that sign away from zero (R240). -/
def roundsAway (rm : RM) (neg : Bool) : Bool :=
  match rm with
  | .rn => false
  | .rz => false
  | .ru => !neg
  | .rd => neg

/-- The result of an overflow (Table 10.4). -/
def Fmt.overflow (t : Fmt) (rm : RM) (neg : Bool) : Nat :=
  match t.inf with
  | some i => t.signed neg (if rm = .rn ∨ roundsAway rm neg then i else t.maxCode)
  | none => t.signed neg t.maxCode

/-- `round(v, fmt, mode)` of R240 for v = (-1)^neg * m * 2^e: the code and the flags. A zero takes the sign given. -/
def Fmt.round (t : Fmt) (rm : RM) (neg : Bool) (m : Nat) (e : Int) : Nat × FlagSet :=
  if m = 0 then (t.signed neg 0, 0)
  else
    let lg : Int := Nat.log2 m + e
    let q : Int := max (lg - t.f) t.qmin
    let r := roundInt (rm == .rn) (roundsAway rm neg) m e q
    let code := (q - t.qmin).toNat * 2 ^ t.f + r.1
    if q - t.qmin > 2 ^ t.ebits ∨ t.maxCode < code then (t.overflow rm neg, FlagSet.ovf)
    else (t.signed neg code,
      FlagSet.when (!r.2 && decide (lg < t.emin)) FlagSet.uf ||| FlagSet.when (!r.2) FlagSet.nx)

/-- Round an infinity (R240 step 1). -/
def Fmt.roundInf (t : Fmt) (neg : Bool) : Nat × FlagSet :=
  match t.inf with
  | some i => (t.signed neg i, 0)
  | none => (t.signed neg t.maxCode, FlagSet.ovf)

/-- Round a value known to lie strictly between m * 2^e and (m+1) * 2^e when `sticky`, and equal to m * 2^e otherwise.
`m` carries at least two bits more than the format's precision, so the midpoint rounds as the value does. -/
def Fmt.roundSticky (t : Fmt) (rm : RM) (neg : Bool) (m : Nat) (e : Int) (sticky : Bool) : Nat × FlagSet :=
  t.round rm neg (2 * m + (if sticky then 1 else 0)) (e - 1)

/-- An exact value scaled to an integer at exponent `e`. -/
def scaled (neg : Bool) (m : Nat) (x e : Int) : Int :=
  let v : Int := (m * 2 ^ (x - e).toNat : Nat)
  if neg then -v else v

/-- The sum of exact finite terms: integer and exponent. -/
def exactSum (ts : List (Bool × Nat × Int)) : Int × Int :=
  let e := ts.foldl (fun a t => min a t.2.2) 0
  (ts.foldl (fun a t => a + scaled t.1 t.2.1 t.2.2 e) 0, e)

/-- The sign of a sum that is exactly zero (R241): that of the terms when they all agree as zeros, otherwise + and, in rd, -. -/
def zeroSign (rm : RM) (ts : List (Bool × Nat × Int)) : Bool :=
  if ts.all (fun t => t.1 && t.2.1 == 0) then true
  else if ts.all (fun t => !t.1 && t.2.1 == 0) then false
  else rm == .rd

/-- Round an exact sum of finite terms once. -/
def Fmt.roundSum (t : Fmt) (rm : RM) (ts : List (Bool × Nat × Int)) : Nat × FlagSet :=
  let v := exactSum ts
  if v.1 = 0 then (t.signed (zeroSign rm ts) 0, 0)
  else t.round rm (decide (v.1 < 0)) v.1.natAbs v.2

/-- The finite term of a value. -/
def FVal.term (v : FVal) : Bool × Nat × Int := match v with | .fin n m e => (n, m, e) | _ => (false, 0, 0)

/-- The sum of values, rounded once (R278, R287): NaN operands, Inf - Inf, an infinity, or the exact sum. -/
def Fmt.sum (t : Fmt) (rm : RM) (vs : List FVal) : Nat × FlagSet :=
  let sg := FlagSet.when (vs.any FVal.signalling) FlagSet.inv
  if vs.any FVal.isNan then (t.nan, sg)
  else if vs.any (fun v => v.isInf && v.neg) && vs.any (fun v => v.isInf && !v.neg) then (t.nan, FlagSet.inv)
  else
    match vs.find? FVal.isInf with
    | some v => t.roundInf v.neg
    | none => t.roundSum rm (vs.map FVal.term)

/-- The exact product of two values that are no NaN and no 0 * Inf. -/
def FVal.mul (a b : FVal) : FVal :=
  match a, b with
  | .fin n m e, .fin n' m' e' => .fin (n != n') (m * m') (e + e')
  | _, _ => .inf (a.neg != b.neg)

/-- A zero times an infinity. -/
def FVal.zeroInf (a b : FVal) : Bool := (a.isZero && b.isInf) || (a.isInf && b.isZero)

/-- FMUL (R278). -/
def Fmt.mul (t : Fmt) (rm : RM) (a b : FVal) : Nat × FlagSet :=
  let sg := FlagSet.when (a.signalling || b.signalling) FlagSet.inv
  if a.zeroInf b then (t.nan, FlagSet.inv)
  else if a.isNan || b.isNan then (t.nan, sg)
  else
    match a.mul b with
    | .fin n m e => t.round rm n m e
    | v => t.roundInf v.neg

/-- FFMA (R278): a * b + d rounded once. -/
def Fmt.fma (t : Fmt) (rm : RM) (a b d : FVal) : Nat × FlagSet :=
  let sg := FlagSet.when (a.signalling || b.signalling || d.signalling) FlagSet.inv
  if a.zeroInf b then (t.nan, FlagSet.inv)
  else if a.isNan || b.isNan || d.isNan then (t.nan, sg)
  else t.sum rm [a.mul b, d]

/-- A value's sign flipped. -/
def FVal.flip (v : FVal) : FVal := match v with | .nan s => .nan s | .inf n => .inf (!n) | .fin n m e => .fin (!n) m e

/-- Exact comparison of values that are no NaN: -1, 0 or 1 as the first is below, equal or above; zeros are equal. -/
def FVal.cmp (a b : FVal) : Int :=
  match a, b with
  | .inf n, .inf n' => if n = n' then 0 else if n then -1 else 1
  | .inf n, _ => if n then -1 else 1
  | _, .inf n => if n then 1 else -1
  | _, _ =>
    let d := (exactSum [a.term, b.flip.term]).1
    if d < 0 then -1 else if d = 0 then 0 else 1

/-- Round a value to an integer in a mode: the exact integer and whether it changed (R242, R284). -/
def FVal.toInt (rm : RM) (neg : Bool) (m : Nat) (e : Int) : Int × Bool :=
  let r := roundInt (rm == .rn) (roundsAway rm neg) m e 0
  (if neg then -(r.1 : Int) else r.1, r.2)

end Sys2Proof.Machine
end

