-- ==== Sys2Proof/Machine/Func.lean ====
section
/-! DEFINITION. The correctly rounded functions of R246: division and roots exactly, the transcendental functions by interval
arithmetic on integers, refined until both ends round alike (log entry 9). -/

namespace Sys2Proof.Machine

/-- The integer square root of `v`, bit by bit from bit `n - 1` down, given the part `r` already found. -/
def isqrtFrom (v : Nat) : Nat → Nat → Nat
  | 0, r => r
  | n + 1, r => let r' := r + 2 ^ n; isqrtFrom v n (if r' * r' ≤ v then r' else r)

/-- The integer square root. -/
def isqrt (v : Nat) : Nat := isqrtFrom v (Nat.log2 v / 2 + 1) 0

/-- FDIV, fdiv of R401 (R246): IEEE 754 division rounded once. -/
def Fmt.div (t : Fmt) (rm : RM) (x y : FVal) : Nat × FlagSet :=
  let neg := x.neg != y.neg
  if x.isNan || y.isNan then (t.nan, FlagSet.when (x.signalling || y.signalling) FlagSet.inv)
  else if (x.isInf && y.isInf) || (x.isZero && y.isZero) then (t.nan, FlagSet.inv)
  else if x.isInf then t.roundInf neg
  else if y.isInf then (t.signed neg 0, 0)
  else
    match x, y with
    | .fin _ m e, .fin _ m' e' =>
      if m' = 0 then ((t.roundInf neg).1, FlagSet.dz)
      else if m = 0 then (t.signed neg 0, 0)
      else
        let n := m * 2 ^ 64
        t.roundSticky rm neg (n / m') (e - e' - 64) (n % m' != 0)
    | _, _ => (t.nan, 0)

/-- The square root of m * 2^e, m > 0. -/
def Fmt.sqrtPos (t : Fmt) (rm : RM) (m : Nat) (e : Int) : Nat × FlagSet :=
  let odd := e % 2 != 0
  let m1 := if odd then 2 * m else m
  let e1 := if odd then e - 1 else e
  let n := m1 * 2 ^ 80
  let r := isqrt n
  t.roundSticky rm false r (e1 / 2 - 40) (r * r != n)

/-- SQRT (Table 10.6). -/
def Fmt.sqrt (t : Fmt) (rm : RM) (x : FVal) : Nat × FlagSet :=
  match x with
  | .nan s => (t.nan, FlagSet.when s FlagSet.inv)
  | .inf n => if n then (t.nan, FlagSet.inv) else t.roundInf false
  | .fin n m e => if m = 0 then (t.signed n 0, 0) else if n then (t.nan, FlagSet.inv) else t.sqrtPos rm m e

/-- RSQ (Table 10.6): floor(2^K / sqrt m) is the root of floor(2^2K / m). -/
def Fmt.rsq (t : Fmt) (rm : RM) (x : FVal) : Nat × FlagSet :=
  match x with
  | .nan s => (t.nan, FlagSet.when s FlagSet.inv)
  | .inf n => if n then (t.nan, FlagSet.inv) else (0, 0)
  | .fin n m e =>
    if m = 0 then ((t.roundInf n).1, FlagSet.dz)
    else if n then (t.nan, FlagSet.inv)
    else
      let odd := e % 2 != 0
      let m1 := if odd then 2 * m else m
      let e1 := if odd then e - 1 else e
      let r := isqrt (2 ^ 160 / m1)
      t.roundSticky rm false r (-(e1 / 2) - 80) (r * r * m1 != 2 ^ 160)

/-- RCP (Table 10.6). -/
def Fmt.rcp (t : Fmt) (rm : RM) (x : FVal) : Nat × FlagSet := t.div rm (.fin false 1 0) x

/-! ## Fixed point with P fraction bits -/

/-- ln 2 = sum of 1 / (k 2^k), `n` terms from `k`. -/
def ln2Sum (P : Nat) : Nat → Nat → Nat
  | _, 0 => 0
  | k, n + 1 => 2 ^ P / (k * 2 ^ k) + ln2Sum P (k + 1) n

/-- ln 2 with P fraction bits, at most P + 10 units low. -/
def ln2Fix (P : Nat) : Nat := ln2Sum P 1 (P + 2)

/-- The alternating series of arctan(1/q): `pw` is 2^P / q^(2i+1). -/
def atanSum (q2 : Nat) : Nat → Nat → Nat → Int
  | _, _, 0 => 0
  | pw, i, n + 1 =>
    let t : Int := (pw / (2 * i + 1) : Nat)
    (if i % 2 = 0 then t else -t) + atanSum q2 (pw / q2) (i + 1) n

/-- pi with P fraction bits, by Machin's formula. -/
def piFix (P : Nat) : Nat :=
  (16 * atanSum 25 (2 ^ P / 5) 0 (P / 4 + 2) - 4 * atanSum 57121 (2 ^ P / 239) 0 (P / 15 + 2)).toNat

/-- The series of exp(t): `term` is t^k / k!. -/
def expSum (P t : Nat) : Nat → Nat → Nat → Nat
  | _, _, 0 => 0
  | term, k, n + 1 => term + expSum P t (term * t / 2 ^ P / (k + 1)) (k + 1) n

/-- The series of sin and cos: `term` is t^k / k! with alternating sign every second power. -/
def trigSum (P t2 : Nat) : Nat → Nat → Nat → Bool → Int
  | _, _, 0, _ => 0
  | term, k, n + 1, neg =>
    (if neg then -(term : Int) else term) + trigSum P t2 (term * t2 / 2 ^ P / ((k + 1) * (k + 2))) (k + 2) n (!neg)

/-- sin t for a fixed-point t. -/
def sinFix (P t : Nat) : Int := trigSum P (t * t / 2 ^ P) t 1 (P / 4 + 4) false
/-- cos t for a fixed-point t. -/
def cosFix (P t : Nat) : Int := trigSum P (t * t / 2 ^ P) (2 ^ P) 0 (P / 4 + 4) false

/-- The series of artanh z: `pw` is z^(2i+1). -/
def atanhSum (P z2 : Nat) : Nat → Nat → Nat → Nat
  | _, _, 0 => 0
  | pw, i, n + 1 => pw / (2 * i + 1) + atanhSum P z2 (pw * z2 / 2 ^ P) (i + 1) n

/-- Round a value known to within 2^12 units of `v` at exponent `e` (v carries its sign): the two ends' roundings when they
agree. -/
def Fmt.roundBall (t : Fmt) (rm : RM) (v : Int) (e : Int) : Option (Nat × FlagSet) :=
  let n := v.natAbs
  if n < 2 ^ 13 then none
  else
    let lo := t.roundSticky rm (decide (v < 0)) (n - 2 ^ 12) e true
    let hi := t.roundSticky rm (decide (v < 0)) (n + 2 ^ 12) e true
    if lo = hi then some lo else none

/-- The first precision that decides, of those tried; the last one's lower end otherwise (log entry 9: never needed). -/
def Fmt.decide3 (t : Fmt) (rm : RM) (g : Nat → Int × Int) : Nat × FlagSet :=
  let at' := fun P => t.roundBall rm (g P).1 (g P).2
  match at' 384 with
  | some r => r
  | none =>
    match at' 768 with
    | some r => r
    | none =>
      match at' 1536 with
      | some r => r
      | none => t.roundSticky rm (decide ((g 1536).1 < 0)) ((g 1536).1.natAbs) (g 1536).2 true

/-- 2^x for a non-integer x = n + r, r in (0,1) held exactly as `r` / 2^160: value at precision P. -/
def exp2At (n : Int) (r P : Nat) : Int × Int :=
  let t := r * ln2Fix P / 2 ^ 160
  ((expSum P t (2 ^ P) 0 (P / 4 + 4) : Nat), n - P)

/-- EX2 (Table 10.6). -/
def Fmt.ex2 (t : Fmt) (rm : RM) (x : FVal) : Nat × FlagSet :=
  match x with
  | .nan s => (t.nan, FlagSet.when s FlagSet.inv)
  | .inf n => if n then (0, 0) else t.roundInf false
  | .fin neg m e =>
    if m = 0 then t.round rm false 1 0
    else
      let lg : Int := Nat.log2 m + e
      -- |x| at or above 2^9 lies beyond every result but overflow and underflow
      if 9 ≤ lg then (if neg then t.roundSticky rm false 1 (-500) true else t.roundSticky rm false (2 ^ 40) 500 true)
      else
        let v := scaled neg m e (-160)
        let n := v / 2 ^ 160
        let r := (v % 2 ^ 160).toNat
        if r = 0 then t.round rm false 1 n
        else t.decide3 rm (exp2At n r)

/-- log2 of 2^k * y for y = m / 2^j in (1,2): value at precision P. -/
def log2At (k : Int) (m j P : Nat) : Int × Int :=
  let z := (m - 2 ^ j) * 2 ^ P / (m + 2 ^ j)
  let ln := 2 * atanhSum P (z * z / 2 ^ P) z 0 (P / 3 + 4)
  (k * 2 ^ P + (ln * 2 ^ P / ln2Fix P : Nat), -P)

/-- LG2 (Table 10.6). -/
def Fmt.lg2 (t : Fmt) (rm : RM) (x : FVal) : Nat × FlagSet :=
  match x with
  | .nan s => (t.nan, FlagSet.when s FlagSet.inv)
  | .inf n => if n then (t.nan, FlagSet.inv) else t.roundInf false
  | .fin neg m e =>
    if m = 0 then ((t.roundInf true).1, FlagSet.dz)
    else if neg then (t.nan, FlagSet.inv)
    else
      let j := Nat.log2 m
      let k : Int := j + e
      if m = 2 ^ j then t.round rm (decide (k < 0)) k.natAbs 0
      else t.decide3 rm (log2At k m j)

/-- sin(pi u) for u = r / 2^160 in (0, 1/2), and cos of it: value at precision P. -/
def sinpiAt (neg : Bool) (r P : Nat) : Int × Int :=
  -- u up to 1/4 by the sine, above by the cosine of 1/2 - u
  let v :=
    if r ≤ 2 ^ 158 then sinFix P (r * piFix P / 2 ^ 160)
    else cosFix P ((2 ^ 159 - r) * piFix P / 2 ^ 160)
  (if neg then -v else v, -P)

/-- sin(pi r / 2^160) for r in [0, 2^161), no multiple of 2^159. -/
def Fmt.sinTurn (t : Fmt) (rm : RM) (r : Nat) : Nat × FlagSet :=
  let neg := decide (2 ^ 160 < r)
  let r1 := if neg then r - 2 ^ 160 else r
  let r2 := if 2 ^ 159 < r1 then 2 ^ 160 - r1 else r1
  t.decide3 rm (sinpiAt neg r2)

/-- SINPI (Table 10.6). -/
def Fmt.sinpi (t : Fmt) (rm : RM) (x : FVal) : Nat × FlagSet :=
  match x with
  | .nan s => (t.nan, FlagSet.when s FlagSet.inv)
  | .inf _ => (t.nan, FlagSet.inv)
  | .fin neg m e =>
    if m = 0 then (t.signed neg 0, 0)
    else if 0 ≤ e then (t.signed neg 0, 0)
    else
      let v := scaled neg m e (-160) % 2 ^ 161
      let r := v.toNat
      if r = 0 ∨ r = 2 ^ 160 then (t.signed neg 0, 0)
      else if r = 2 ^ 159 then t.round rm false 1 0
      else if r = 3 * 2 ^ 159 then t.round rm true 1 0
      else t.sinTurn rm r

/-- COSPI (Table 10.6): cos(pi x) = sin(pi (x + 1/2)). -/
def Fmt.cospi (t : Fmt) (rm : RM) (x : FVal) : Nat × FlagSet :=
  match x with
  | .nan s => (t.nan, FlagSet.when s FlagSet.inv)
  | .inf _ => (t.nan, FlagSet.inv)
  | .fin neg m e =>
    if m = 0 then t.round rm false 1 0
    else
      let v := (scaled neg m (max e (-160)) (-160) + 2 ^ 159) % 2 ^ 161
      let r := v.toNat
      if r = 0 ∨ r = 2 ^ 160 then (0, 0)
      else if r = 2 ^ 159 then t.round rm false 1 0
      else if r = 3 * 2 ^ 159 then t.round rm true 1 0
      else t.sinTurn rm r

end Sys2Proof.Machine
end

