-- ==== Sys2Proof/Machine/Clause.lean ====
section
/-! DEFINITION. Fetching a clause (R32-R34, R168-R176): its words, the conditions of its header, dictionary codes, control positions; the position
behind an instruction. -/

namespace Sys2Proof.Machine

/-- A word offset lies in the code section. -/
def Image.inCode (i : Image) (w : Nat) : Bool := decide (i.codeoff / 4 ≤ w ∧ w < i.codeoff / 4 + i.codelen)

/-- The code word at a physical address, as a grid's team fetches it: after stores to it while the grid was resident it is the new value or one
of the old, by free choice (R34, log entry 16). -/
def State.readCode (s : State) (grid pa : Nat) : State × Word :=
  let now := BitVec.ofNat 32 (s.val pa 4)
  match (s.oldCode.filter fun o => o.grid == grid && o.word == pa / 4).map OldWord.val with
  | [] => (s, now)
  | l => ({ s with freeCtr := s.freeCtr + 1 }, (now :: l).getD (Config.codeChoice s.freeCtr % (l.length + 1)) now)

/-- One code or dictionary word at a byte address of the team's image (R34): a non-resident page reads as zero. -/
def State.codeWord (s : State) (T : Team) (va : Nat) : State × (Word ⊕ Trap) :=
  match s.judgeLoad T.ctx T.cluster false (va % 2 ^ 56) with
  | (s1, .ok pa _) => let r := s1.readCode T.grid pa; (r.1, .inl r.2)
  | (s1, .nonres) => (s1, .inl 0)
  | (s1, .bad k q) => (s1, .inr { code := k, cause := q })

/-- Several words, one after another. -/
def State.codeWords (s : State) (T : Team) (va : Nat) : Nat → State × (List Word ⊕ Trap)
  | 0 => (s, .inl [])
  | n + 1 =>
    match s.codeWord T va with
    | (s1, .inr f) => (s1, .inr f)
    | (s1, .inl w) =>
      match State.codeWords s1 T (va + 4) n with
      | (s2, .inl r) => (s2, .inl (w :: r))
      | (s2, .inr f) => (s2, .inr f)

/-- LEN, DICT, the words of the body. -/
def headLen (w : Word) : Nat := field w.toNat 0 4
/-- The body's words (R170). -/
def bodyWords (w : Word) : Nat := if flag w.toNat 4 then (headLen w + 1) / 2 else headLen w

/-- Conditions 2 to 6 of R169. -/
def headOk (st : Stream) (w : Word) : Bool :=
  field w.toNat 24 8 == 0xA5 && field w.toNat 19 5 == 0 && headLen w != 0 && (flag w.toNat 5 == (st == .steer)) &&
    !(st == .steer && flag w.toNat 11 && flag w.toNat 10)

/-- A control opcode of a stream (R172). -/
def controlOp (st : Stream) (w : Word) : Bool :=
  let o := (Dec.op w).toNat
  match st with
  | .steer => decide (0x20 ≤ o ∧ o ≤ 0x25)
  | _ => decide (0x60 ≤ o ∧ o ≤ 0x67)

/-- The slots of a word clause; none when a second word lies beyond the body, or a control instruction is not the last (R170, R172). -/
def wordSlots (st : Stream) : List Word → Option (List Slot)
  | [] => some []
  | [w] => if Dec.hasSecond st w then none else some [.word w none]
  | w :: x :: r =>
    if Dec.hasSecond st w then
      (if controlOp st w && !r.isEmpty then none else (wordSlots st r).map fun l => .word w (some x) :: l)
    else if controlOp st w then none
    else (wordSlots st (x :: r)).map fun l => .word w none :: l

/-! ## Dictionary clauses (R175, R176) -/

/-- Which of D, A and B a lane word without extension uses as register numbers. -/
def regUse (w : Word) : Bool × Bool × Bool :=
  let o := (Dec.op w).toNat
  let b := Dec.fB w
  match o with
  | 0x07 => (true, true, false) | 0x12 => (true, true, false) | 0x13 => (true, true, false) | 0x14 => (true, true, false)
  | 0x15 => (false, true, true) | 0x16 => (true, true, false) | 0x17 => (true, false, true) | 0x18 => (true, false, false)
  | 0x1B => (false, false, false) | 0x1C => (b == 0, b == 1, false) | 0x1D => (false, true, false) | 0x1E => (true, false, true)
  | 0x1F => (true, false, true) | 0x26 => (false, true, true)
  | 0x27 => (true, true, false) | 0x28 => (true, true, false) | 0x29 => (true, true, false) | 0x2A => (true, true, false)
  | 0x2B => (true, true, false) | 0x30 => (false, true, true) | 0x32 => (true, true, false)
  | 0x41 => (true, true, false) | 0x43 => (true, true, false) | 0x47 => (true, true, false)
  | 0x5D => (false, false, false) | 0x5E => (false, false, true) | 0x5F => (true, false, false)
  | 0x68 => (false, true, false) | 0x69 => (true, false, false) | 0x6A => (false, false, false) | 0x6B => (false, false, false)
  | 0x6C => (false, false, true) | 0x6D => (false, false, true) | 0x6E => (false, true, true)
  | 0x70 => (true, true, false) | 0x72 => (true, false, false)
  | 0x7F => (b == 2 || b == 5, false, false)
  | _ => if 0x38 ≤ o ∧ o ≤ 0x3F then (true, true, false) else (true, true, true)

/-- C or M format (Table 8.7). -/
def fmtCM (w : Word) : Bool :=
  let o := (Dec.op w).toNat
  decide (0x60 ≤ o ∧ o ≤ 0x67) || decide (0x50 ≤ o ∧ o ≤ 0x5C) || o == 0x71

/-- Add a bias to the register fields that a word uses. -/
def addBias (w : Word) (b : BitVec 7) : Word :=
  let u := regUse w
  let up := fun (w : Word) (lo : Nat) (on : Bool) =>
    if on then (w &&& ~~~((0x7F : Word) <<< lo)) ||| (((w.extractLsb' lo 7 + b).zeroExtend 32) <<< lo) else w
  up (up (up w 7 u.1) 14 u.2.1) 21 u.2.2

/-- A code with the entry that it names: none for a code that names no entry. -/
def expandCode (st : Stream) (code : BitVec 16) (entry : Option Word) : Slot :=
  match entry with
  | none => .bad Code.badDict
  | some e =>
    let b : BitVec 7 := (code.extractLsb' 10 6).zeroExtend 7
    let known := match st with | .steer => Dec.steerOp (Dec.op e).toNat | _ => Dec.laneOp (Dec.op e).toNat
    if e.msb then .bad Code.badDict
    else if !known then .bad Code.reservedOp
    else if b = 0 then .word e none
    else if st == .steer || fmtCM e then .bad Code.badDict
    else .word (addBias e b) none

/-- The codes of a body's words. -/
def codesOf (ws : List Word) : List (BitVec 16) := ws.flatMap fun w => [w.extractLsb' 0 16, w.extractLsb' 16 16]

/-- The entries that codes name, read from the dictionary. -/
def State.dictEntries (s : State) (T : Team) : List (BitVec 16) → State × (List (BitVec 16 × Option Word) ⊕ Trap)
  | [] => (s, .inl [])
  | c :: r =>
    let i := (c.extractLsb' 0 10).toNat
    let here : State × (Option Word ⊕ Trap) :=
      if c = 0xFFFF ∨ T.img.dictn ≤ i then (s, .inl none)
      else match s.codeWord T (T.img.kimg + T.img.dictoff + 4 * i) with
        | (s1, .inl w) => (s1, .inl (some w))
        | (s1, .inr f) => (s1, .inr f)
    match here with
    | (s1, .inr f) => (s1, .inr f)
    | (s1, .inl e) =>
      match State.dictEntries s1 T r with
      | (s2, .inl l) => (s2, .inl ((c, e) :: l))
      | (s2, .inr f) => (s2, .inr f)

/-- The slots of a dictionary clause; none when a control opcode is not the last (R172). -/
def dictSlots (st : Stream) : List (BitVec 16 × Option Word) → Option (List Slot)
  | [] => some []
  | e :: r =>
    let ctl := match e.2 with | some w => controlOp st w | none => false
    if ctl && !r.isEmpty then none else (dictSlots st r).map fun l => expandCode st e.1 e.2 :: l

/-! ## THE FETCH OF A CLAUSE -/

/-- The clause that a header and its slots make. -/
def clauseOf (h : Nat) (w : Word) (slots : List Slot) : Clause where
  h := h
  slots := slots
  ft := h + 1 + bodyWords w
  gen := flag w.toNat 11
  gneg := flag w.toNat 6
  gpred := BitVec.ofNat 4 (field w.toNat 7 4)
  waitll := field w.toNat 14 4
  yld := flag w.toNat 18

/-- Fetch the clause at word offset `h` (R169, R170, R172, R175). -/
def State.fetchClause (s : State) (T : Team) (st : Stream) (h : Nat) : State × (Clause ⊕ Trap) :=
  let bad : Trap := { code := Code.badClause }
  if !T.img.inCode h then (s, .inr bad)
  else
    match s.codeWord T (T.img.kimg + 4 * h) with
    | (s1, .inr f) => (s1, .inr f)
    | (s1, .inl w) =>
      if !headOk st w ∨ T.img.codeoff / 4 + T.img.codelen < h + 1 + bodyWords w then (s1, .inr bad)
      else
        match s1.codeWords T (T.img.kimg + 4 * (h + 1)) (bodyWords w) with
        | (s2, .inr f) => (s2, .inr f)
        | (s2, .inl ws) =>
          if flag w.toNat 4 then
            let cs := codesOf ws
            if (cs.drop (headLen w)).any fun c => c != 0xFFFF then (s2, .inr bad)
            else
              match s2.dictEntries T (cs.take (headLen w)) with
              | (s3, .inr f) => (s3, .inr f)
              | (s3, .inl es) =>
                match dictSlots st es with
                | some l => (s3, .inl (clauseOf h w l))
                | none => (s3, .inr bad)
          else
            match wordSlots st ws with
            | some l => (s2, .inl (clauseOf h w l))
            | none => (s2, .inr bad)

/-- The instruction of a slot; what is no instruction stops its party (R176, R193, R194). -/
def Slot.instr (st : Stream) (x : Slot) : Instr :=
  match x with
  | .bad c => .reservedEncoding c
  | .word w e => match decode st w e with | .ok i => i | .error _ => .reservedEncoding Code.reservedOp

/-- The G bit of a slot (R171). -/
def Slot.guarded (st : Stream) (x : Slot) : Bool := match x with | .bad _ => false | .word w _ => guardBit st w

/-- The position behind slot `k` of a clause (R170). -/
def Clause.after (c : Clause) (k : Nat) : Pos := if k + 1 < c.slots.length then ⟨c.h, k + 1⟩ else ⟨c.ft, 0⟩

/-- The position behind the one at which a party of a team stands, if its clause can be fetched (R174). -/
def State.posAfter (s : State) (T : Team) (st : Stream) (p : Pos) : Pos :=
  match (s.fetchClause T st p.h).2 with
  | .inl cl => cl.after p.k
  | .inr _ => p

end Sys2Proof.Machine
end

