-- ==== Sys2Proof/Machine/Operands.lean ====
section
/-! DEFINITION. Operand forms of the two streams (R249, R275, R298), the common entry of every lane and steering meaning (checks
4 of R193), and the integer results that both streams share (Table 11.1, R252, R253). -/

namespace Sys2Proof.Machine

/-! ## Integer results -/

namespace Alu
/-- High word of the signed product. -/
def mulhs (a b : Word) : Word := ((a.signExtend 64 * b.signExtend 64).extractLsb' 32 32)
/-- High word of the unsigned product. -/
def mulhu (a b : Word) : Word := ((a.zeroExtend 64 * b.zeroExtend 64).extractLsb' 32 32)
/-- The smaller, unsigned with `u`. -/
def min (u : Bool) (a b : Word) : Word := if u then (if b.ult a then b else a) else (if b.slt a then b else a)
/-- The larger, unsigned with `u`. -/
def max (u : Bool) (a b : Word) : Word := if u then (if a.ult b then b else a) else (if a.slt b then b else a)
/-- IABS: 0x8000_0000 gives itself. -/
def abs (a : Word) : Word := if a.msb then 0 - a else a
/-- SHL: 0 for 32 and more. -/
def shl (a b : Word) : Word := if 32 ≤ b.toNat then 0 else a <<< b.toNat
/-- SHR: 0 for 32 and more. -/
def shr (a b : Word) : Word := a >>> b.toNat
/-- SAR: copies of the sign for 32 and more. -/
def sar (a b : Word) : Word := a.sshiftRight b.toNat
/-- ROL by b[4:0]. -/
def rol (a b : Word) : Word := a.rotateLeft (b.toNat % 32)
/-- The bits that exist in a field (R252). -/
def fieldWidth (b : Word) : Nat := Nat.min (Nat.min (b.extractLsb' 8 6).toNat 32) (32 - (b.extractLsb' 0 5).toNat)
/-- BFX (R252). -/
def bfx (a b : Word) : Word :=
  let pos := (b.extractLsb' 0 5).toNat
  let w := fieldWidth b
  if w = 0 then 0
  else
    let f := (a >>> pos).toNat % 2 ^ w
    if b.getLsbD 16 && f / 2 ^ (w - 1) % 2 == 1 then BitVec.ofInt 32 ((f : Int) - 2 ^ w) else BitVec.ofNat 32 f
/-- BFI (R252). -/
def bfi (a b d : Word) : Word :=
  let pos := (b.extractLsb' 0 5).toNat
  let m : Word := BitVec.ofNat 32 (2 ^ fieldWidth b - 1) <<< pos
  (d &&& ~~~m) ||| ((a <<< pos) &&& m)
/-- The 1 bits among the lowest `n`. -/
def popFrom (a : Word) : Nat → Nat
  | 0 => 0
  | n + 1 => (if a.getLsbD n then 1 else 0) + popFrom a n
/-- POPC (R253). -/
def popc (a : Word) : Word := BitVec.ofNat 32 (popFrom a 32)
/-- The zero bits above the highest 1 bit among the lowest `n`. -/
def clzFrom (a : Word) : Nat → Nat
  | 0 => 0
  | n + 1 => if a.getLsbD n then 0 else 1 + clzFrom a n
/-- CLZ: 32 for 0 (R253). -/
def clz (a : Word) : Word := BitVec.ofNat 32 (clzFrom a 32)
/-- BREV: bit i moves to bit 31 - i (R253). -/
def brev (a : Word) : Word := a.reverse
/-- ICMP, SCMP (Table 11.3). -/
def icmp (c : ICond) (a b : Word) : Bool :=
  match c with
  | .eq => a == b
  | .ne => a != b
  | .lt => a.slt b
  | .le => a.sle b
  | .gt => b.slt a
  | .ge => b.sle a
  | .lo => a.ult b
  | .hs => b.ule a
/-- PLOP, CLOP (R256). -/
def plop (o : PlopOp) (a b : Bool) : Bool :=
  match o with
  | .and => a && b
  | .or => a || b
  | .xor => a != b
  | .andn => a && !b
  | .orn => a || !b
  | .nand => !(a && b)
  | .nor => !(a || b)
  | .xnor => a == b
/-- SDIV (Table 13.3): signed division truncates toward zero. -/
def sdiv (u : Bool) (a b : Word) : Word :=
  if b = 0 then 0xFFFFFFFF else if u then a.udiv b else a.sdiv b
/-- SREM (Table 13.3): the remainder takes the sign of a. -/
def srem (u : Bool) (a b : Word) : Word :=
  if b = 0 then a else if u then a.umod b else a.srem b
end Alu

/-! ## Lane operands -/

/-- The registers a second operand names. -/
def srcRegs (b : Src) : List Nat := match b with | .reg r _ => [r.toNat] | .imm _ => []
/-- The value of a second operand (R249). -/
def srcVal (b : Src) (th : Thread) : Word := match b with | .reg r _ => th.reg r.toNat | .imm w => w
/-- The registers a pair operand names. -/
def srcPairRegs (b : Src) : List Nat := match b with | .reg r _ => [r.toNat, r.toNat + 1] | .imm _ => []
/-- The value of a pair operand: an immediate is sign-extended (R260). -/
def srcPair (b : Src) (th : Thread) : DWord := match b with | .reg r _ => th.pairAt r.toNat | .imm w => sext64 w
/-- The registers a floating-point second operand names. -/
def fsrcRegs (b : FSrc) : List Nat := match b with | .reg r _ => [r.toNat] | .xreg r => [r.toNat] | .imm _ => []
/-- The value of a floating-point second operand (R275). -/
def fsrcVal (b : FSrc) (th : Thread) : Word := match b with | .reg r _ => th.reg r.toNat | .xreg r => th.reg r.toNat | .imm w => w

/-- A pending late result whose shadow has not run out names one of these registers or predicates (R186). -/
def Thread.shadowed (th : Thread) (regs preds : List Nat) : Bool :=
  th.late.any fun l => decide (0 < l.shadow) && (regs.any l.dregs.contains || preds.any l.dpreds.contains)

/-- Run a lane meaning on the current thread. -/
def State.lane (s : State) (k : Nat → Team → Nat → Thread → Res) : Res :=
  match s.cur with
  | some (.lane t tid) =>
    match s.team? t with
    | some T => match T.thread? tid with | some th => k t T tid th | none => .fault .noParty
    | none => .fault .noParty
  | _ => .fault .noParty

/-- The common entry of a lane meaning: every named register in range (R39), then no late destination named (R186), then
the instruction's own effect. -/
def State.laneRun (s : State) (regs preds : List Nat) (k : Nat → Team → Nat → Thread → Res) : Res :=
  s.lane fun t T tid th =>
    if regs.any (fun r => decide (T.regCount th ≤ r)) then .next (s.stopLane t T tid th { code := Code.regRange })
    else if th.shadowed regs preds then .next (s.stopLane t T tid th { code := Code.lookahead })
    else k t T tid th

/-- A lane effect on the performing thread alone. -/
def State.laneEff (s : State) (regs preds : List Nat) (f : Thread → Thread) : Res :=
  s.laneRun regs preds fun t T tid th => .next (s.setThread t T tid (f th))

/-- v[D] from a, b and the old d (R249). -/
def State.int3 (s : State) (o : R3) (f : Word → Word → Word → Word) : Res :=
  s.laneEff ([o.d.toNat, o.a.toNat] ++ srcRegs o.b) [] fun th =>
    th.setReg o.d.toNat (f (th.reg o.a.toNat) (srcVal o.b th) (th.reg o.d.toNat))

/-- v[D] from a. -/
def State.int2 (s : State) (o : R2) (f : Word → Word) : Res :=
  s.laneEff [o.d.toNat, o.a.toNat] [] fun th => th.setReg o.d.toNat (f (th.reg o.a.toNat))

/-- v[D] and sticky flags from a, b and the old d (R275, R248). -/
def State.fp3 (s : State) (o : F3) (f : Word → Word → Word → Nat × FlagSet) : Res :=
  s.laneEff ([o.d.toNat, o.a.toNat] ++ fsrcRegs o.b) [] fun th =>
    let r := f (th.reg o.a.toNat) (fsrcVal o.b th) (th.reg o.d.toNat)
    (th.setReg o.d.toNat (BitVec.ofNat 32 r.1)).addFlags r.2

/-- v[D] and sticky flags from a and the old d. -/
def State.fp2 (s : State) (o : R2) (f : Word → Word → Nat × FlagSet) : Res :=
  s.laneEff [o.d.toNat, o.a.toNat] [] fun th =>
    let r := f (th.reg o.a.toNat) (th.reg o.d.toNat)
    (th.setReg o.d.toNat (BitVec.ofNat 32 r.1)).addFlags r.2

/-- A long-latency result of the performing thread: it is outstanding until LATE_RESULT_WRITE, with shadow LA (R185, R186).
The value's place in the single order is here. -/
def Thread.addLate (th : Thread) (id la : Nat) (dregs dpreds : List Nat) (regs : List (Nat × Word))
    (preds : List (Nat × Bool)) (flags : FlagSet) (st : LateSt) : Thread :=
  { th with late := th.late ++ [⟨id, la, dregs, dpreds, regs, preds, flags, st⟩] }

/-- Enter a late result under a fresh number of the team. -/
def State.lateLane (s : State) (t : Nat) (T : Team) (tid : Nat) (th : Thread) (la : Nat) (dregs dpreds : List Nat)
    (regs : List (Nat × Word)) (preds : List (Nat × Bool)) (flags : FlagSet) : State :=
  s.setThread t { T with lateCtr := T.lateCtr + 1 } tid (th.addLate T.lateCtr la dregs dpreds regs preds flags .due)

/-- A Q-format function of one source (R289). -/
def State.func1 (s : State) (o : Q2) (f : RM → FVal → Nat × FlagSet) : Res :=
  s.laneRun [o.d.toNat, o.a.toNat] [] fun t T tid th =>
    let r := f o.rm (Fmt.fp32.decode (th.reg o.a.toNat).toNat)
    .next (s.lateLane t T tid th o.la.toNat [o.d.toNat] [] [(o.d.toNat, BitVec.ofNat 32 r.1)] [] r.2)

/-! ## Steering operands -/

/-- The registers a steering second operand names. -/
def ssrcRegs (b : SSrc) : List Nat := match b with | .reg r => [r.toNat] | .imm _ => []
/-- The value of a steering second operand (R298). -/
def ssrcVal (b : SSrc) (st : Steer) : Word := match b with | .reg r => st.reg r.toNat | .imm w => w
/-- The registers a steering pair operand names. -/
def ssrcPairRegs (b : SSrc) : List Nat := match b with | .reg r => [r.toNat, r.toNat + 1] | .imm _ => []
/-- The value of a steering pair operand (R304). -/
def ssrcPair (b : SSrc) (st : Steer) : DWord := match b with | .reg r => st.pairAt r.toNat | .imm w => sext64 w

/-- Run a steering meaning on the current steering thread. -/
def State.steer (s : State) (k : Nat → Team → Steer → Res) : Res :=
  match s.cur with
  | some (.steer t) => match s.team? t with | some T => k t T T.steer | none => .fault .noParty
  | _ => .fault .noParty

/-- Write back the steering thread, running. -/
def State.setSteer (s : State) (t : Nat) (T : Team) (st : Steer) : State := s.setTeam t { T with steer := st }

/-- The steering thread waits: the instruction will be performed again, nothing else changes (R300). -/
def State.steerWait (s : State) (t : Nat) (T : Team) (b : SBlock) : State :=
  s.setTeam t { T with steer := { T.steer with st := .blocked b, nextPos := T.steer.pos } }

/-- After a steering instruction: a thread that runs on stands at its next position. -/
def State.steerOn (s : State) (t : Nat) : State :=
  s.modTeam t fun T => match T.steer.st with
    | .running => { T with steer := { T.steer with pos := T.steer.nextPos }, stuckSince := none }
    | _ => T

/-- A steering thread that an event elsewhere releases goes on behind its instruction. -/
def Steer.goOn (st : Steer) (next : Pos) : Steer := { st with st := .running, pos := next, nextPos := next }

/-- The interlock of a late result: the instruction waits and will issue again (R184, R299). -/
def State.steerStall (s : State) (t : Nat) (T : Team) : State :=
  s.steerWait t T .late

/-- The common entry of a steering meaning: it waits while a late result that it names is outstanding (R299). -/
def State.steerRun (s : State) (regs : List Nat) (k : Nat → Team → Steer → Res) : Res :=
  s.steer fun t T st =>
    if st.late.any (fun l => regs.any l.dregs.contains) then .next (s.steerStall t T)
    else k t T st

/-- A steering effect on the steering thread alone. -/
def State.steerEff (s : State) (regs : List Nat) (f : Steer → Steer) : Res :=
  s.steerRun regs fun t T st => .next (s.setSteer t T (f { st with st := .running }))

/-- s[D] from a and b (R298). -/
def State.sint3 (s : State) (o : S3) (f : Word → Word → Word) : Res :=
  s.steerEff ([o.d.toNat, o.a.toNat] ++ ssrcRegs o.b) fun st =>
    st.setReg o.d.toNat (f (st.reg o.a.toNat) (ssrcVal o.b st))

/-- s[D] from a. -/
def State.sint2 (s : State) (o : S2) (f : Word → Word) : Res :=
  s.steerEff [o.d.toNat, o.a.toNat] fun st => st.setReg o.d.toNat (f (st.reg o.a.toNat))

/-- A late result of the steering thread (R299). -/
def State.lateSteer (s : State) (t : Nat) (T : Team) (dregs : List Nat) (regs : List (Nat × Word)) (lst : LateSt) : State :=
  let l : Late := ⟨T.lateCtr, 0, dregs, [], regs, [], 0, lst⟩
  s.setTeam t { T with lateCtr := T.lateCtr + 1, steer := { T.steer with st := .running, late := T.steer.late ++ [l] } }

end Sys2Proof.Machine
end

