-- ==== Sys2Proof/Machine/LaneFloat.lean ====
section
/-! DEFINITION. Lane instructions 0x20-0x33 and 0x38-0x3F: floating point, packed halves and the correctly rounded functions
(12.2-12.6). -/

namespace Sys2Proof.Machine

/-- An FP32 register as a value. -/
def f32 (w : Word) : FVal := Fmt.fp32.decode w.toNat

/-- FADD (R278). -/
def execFadd (o : F3) (rm : RM) (s : State) : Res := s.fp3 o fun a b _ => Fmt.fp32.sum rm [f32 a, f32 b]
/-- FSUB (R278). -/
def execFsub (o : F3) (rm : RM) (s : State) : Res := s.fp3 o fun a b _ => Fmt.fp32.sum rm [f32 a, (f32 b).flip]
/-- FMUL (R278). -/
def execFmul (o : F3) (rm : RM) (s : State) : Res := s.fp3 o fun a b _ => Fmt.fp32.mul rm (f32 a) (f32 b)
/-- FFMA (R278). -/
def execFfma (o : F3) (rm : RM) (s : State) : Res := s.fp3 o fun a b d => Fmt.fp32.fma rm (f32 a) (f32 b) (f32 d)

/-- The order of codes in which -0 is below +0, for operands that are no NaN (R279). -/
def Fmt.below (t : Fmt) (a b : Nat) : Bool :=
  let c := (t.decode a).cmp (t.decode b)
  decide (c < 0) || (decide (c = 0) && (t.decode a).neg && !(t.decode b).neg)

/-- FMIN, FMAX of codes of a format (R279). -/
def Fmt.minmax (t : Fmt) (mx prop : Bool) (a b : Nat) : Nat × FlagSet :=
  let x := t.decode a
  let y := t.decode b
  let sg := FlagSet.when (x.signalling || y.signalling) FlagSet.inv
  if x.isNan && y.isNan then (t.nan, sg)
  else if prop && (x.isNan || y.isNan) then (t.nan, sg)
  else if x.isNan then (b, sg)
  else if y.isNan then (a, sg)
  else if mx then (if t.below a b then b else a, 0)
  else (if t.below b a then b else a, 0)

/-- FMIN (R279). -/
def execFmin (o : F3) (prop : Bool) (s : State) : Res := s.fp3 o fun a b _ => Fmt.fp32.minmax false prop a.toNat b.toNat
/-- FMAX (R279). -/
def execFmax (o : F3) (prop : Bool) (s : State) : Res := s.fp3 o fun a b _ => Fmt.fp32.minmax true prop a.toNat b.toNat

/-- FCMP, HCMP2 conditions (Table 12.1). -/
def fcmpHolds (c : FCond) (x y : FVal) : Bool :=
  let un := x.isNan || y.isNan
  let k := x.cmp y
  match c with
  | .eq => !un && decide (k = 0)
  | .ne => un || decide (k ≠ 0)
  | .lt => !un && decide (k < 0)
  | .le => !un && decide (k ≤ 0)
  | .gt => !un && decide (0 < k)
  | .ge => !un && decide (0 ≤ k)
  | .un => un
  | .ord => !un

/-- FCMP (R281). -/
def execFcmp (c : FCond) (p : Pred) (o : FAB) (s : State) : Res :=
  s.laneEff (o.a.toNat :: fsrcRegs o.b) [p.toNat] fun th =>
    let x := f32 (th.reg o.a.toNat)
    let y := f32 (fsrcVal o.b th)
    (th.setPred p.toNat (fcmpHolds c x y)).addFlags (FlagSet.when (x.signalling || y.signalling) FlagSet.inv)

/-- The class bit of a value (Table 12.2). -/
def fclassBit (w : Word) : Nat :=
  match f32 w with
  | .nan true => 8
  | .nan false => 9
  | .inf n => if n then 0 else 7
  | .fin n m e =>
    if m = 0 then (if n then 3 else 4)
    else if m < 2 ^ 23 ∧ e = -149 then (if n then 2 else 5)
    else (if n then 1 else 6)

/-- FCLASS (R282). -/
def execFclass (o : R2) (s : State) : Res := s.int2 o fun a => BitVec.ofNat 32 (2 ^ fclassBit a)

/-- FRND (Table 12.3). -/
def frnd (rm : RM) (a : Word) : Nat × FlagSet :=
  match f32 a with
  | .nan sg => (0x7FC00000, FlagSet.when sg FlagSet.inv)
  | .inf _ => (a.toNat, 0)
  | .fin n m e => let r := roundInt (rm == .rn) (roundsAway rm n) m e 0; ((Fmt.fp32.round .rn n r.1 0).1, 0)

/-- FRND (R284). -/
def execFrnd (o : R2) (rm : RM) (s : State) : Res := s.fp2 o fun a _ => frnd rm a

/-- F2I (Table 10.5). -/
def f2i (rm : RM) (u : Bool) (a : Word) : Nat × FlagSet :=
  let top : Nat := if u then 0xFFFFFFFF else 0x7FFFFFFF
  let bot : Nat := if u then 0 else 0x80000000
  match f32 a with
  | .nan _ => (0, FlagSet.inv)
  | .inf n => (if n then bot else top, FlagSet.inv)
  | .fin n m e =>
    let r := FVal.toInt rm n m e
    if (top : Int) < r.1 then (top, FlagSet.inv)
    else if r.1 < (if u then 0 else -0x80000000) then (bot, FlagSet.inv)
    else ((BitVec.ofInt 32 r.1).toNat, FlagSet.when (!r.2) FlagSet.nx)

/-- F2I (R284). -/
def execF2i (o : R2) (rm : RM) (u : Bool) (s : State) : Res := s.fp2 o fun a _ => f2i rm u a

/-- I2F (R284). -/
def i2f (rm : RM) (u : Bool) (a : Word) : Nat × FlagSet :=
  if u then Fmt.fp32.round rm false a.toNat 0 else Fmt.fp32.round rm a.msb a.toInt.natAbs 0

/-- I2F (R284). -/
def execI2f (o : R2) (rm : RM) (u : Bool) (s : State) : Res := s.fp2 o fun a _ => i2f rm u a

/-- A value converted to a format (Table 10.5): a NaN gives its default NaN; E2M1 sets invalid for every NaN. -/
def Fmt.convert (t : Fmt) (rm : RM) (v : FVal) : Nat × FlagSet :=
  match v with
  | .nan sg => (t.nan, FlagSet.when (sg || t == Fmt.e2m1) FlagSet.inv)
  | .inf n => if t.inf.isSome then t.roundInf n else (t.signed n t.maxCode, FlagSet.ovf)
  | .fin n m e => t.round rm n m e

/-- FCVT (R285). -/
def fcvt (rm : RM) (dir : CvtDir) (hi : Bool) (a d : Word) : Nat × FlagSet :=
  let half := if hi then a.toNat / 65536 else a.toNat % 65536
  let put := fun (r : Nat × FlagSet) =>
    (if hi then r.1 * 65536 + d.toNat % 65536 else d.toNat / 65536 * 65536 + r.1, r.2)
  match dir with
  | .toF16 => put (Fmt.fp16.convert rm (f32 a))
  | .toBf16 => put (Fmt.bf16.convert rm (f32 a))
  | .fromF16 => Fmt.fp32.convert .rn (Fmt.fp16.decode half)
  | .fromBf16 => Fmt.fp32.convert .rn (Fmt.bf16.decode half)

/-- FCVT (R285). -/
def execFcvt (o : R2) (rm : RM) (dir : CvtDir) (hi : Bool) (s : State) : Res := s.fp2 o fun a d => fcvt rm dir hi a d

/-- FSCALE (R280): a * 2^n rounded once. -/
def fscale (rm : RM) (a b : Word) : Nat × FlagSet :=
  match f32 a with
  | .nan sg => (0x7FC00000, FlagSet.when sg FlagSet.inv)
  | .inf _ => (a.toNat, 0)
  | .fin n m e => if m = 0 then (a.toNat, 0) else Fmt.fp32.round rm n m (e + b.toInt)

/-- FSCALE (R280). -/
def execFscale (o : F3) (rm : RM) (s : State) : Res := s.fp3 o fun a b _ => fscale rm a b

/-- FEXP (R286). -/
def fexp (md : Bool) (a : Word) : Nat × FlagSet :=
  match f32 a with
  | .nan sg => if md then (0x7FC00000, FlagSet.when sg FlagSet.inv) else (0x80000000, FlagSet.inv)
  | .inf _ => if md then (a.toNat, 0) else (0x7FFFFFFF, FlagSet.inv)
  | .fin n m e =>
    if m = 0 then (if md then (a.toNat, 0) else (0x80000000, FlagSet.inv))
    else if md then Fmt.fp32.round .rn n m (-(Nat.log2 m : Int))
    else ((BitVec.ofInt 32 (Nat.log2 m + e)).toNat, 0)

/-- FEXP (R286). -/
def execFexp (o : R2) (m : Bool) (s : State) : Res := s.fp2 o fun a _ => fexp m a

/-- FSGN (R283). -/
def fsgn (op : SgnOp) (a b : Word) : Word :=
  let sg := match op with | .copy => b.msb | .ncopy => !b.msb | .xor => a.msb != b.msb
  BitVec.ofBool sg ++ a.extractLsb' 0 31

/-- FSGN (R283): no flag, payloads pass through. -/
def execFsgn (o : F3) (op : SgnOp) (s : State) : Res := s.fp3 o fun a b _ => ((fsgn op a b).toNat, 0)

/-! ## Packed halves (R287) -/

/-- The half format. -/
def halfFmt (bf : Bool) : Fmt := if bf then Fmt.bf16 else Fmt.fp16
/-- The lo half. -/
def lo16 (w : Word) : Nat := w.toNat % 65536
/-- The hi half. -/
def hi16 (w : Word) : Nat := w.toNat / 65536

/-- An operation on both halves with the union of their flags (R248). -/
def halves (f : Nat → Nat → Nat → Nat × FlagSet) (a b d : Word) : Nat × FlagSet :=
  let l := f (lo16 a) (lo16 b) (lo16 d)
  let h := f (hi16 a) (hi16 b) (hi16 d)
  (h.1 * 65536 + l.1, h.2 ||| l.2)

/-- The second operand's half, negated with .nb. -/
def nbVal (t : Fmt) (nb : Bool) (y : Nat) : FVal := if nb then (t.decode y).flip else t.decode y

/-- HADD2 (R287). -/
def execHadd2 (o : F3) (rm : RM) (bf nb : Bool) (s : State) : Res :=
  s.fp3 o (halves fun x y _ => (halfFmt bf).sum rm [(halfFmt bf).decode x, nbVal (halfFmt bf) nb y])
/-- HMUL2 (R287). -/
def execHmul2 (o : F3) (rm : RM) (bf nb : Bool) (s : State) : Res :=
  s.fp3 o (halves fun x y _ => (halfFmt bf).mul rm ((halfFmt bf).decode x) (nbVal (halfFmt bf) nb y))
/-- HFMA2 (R287). -/
def execHfma2 (o : F3) (rm : RM) (bf nb : Bool) (s : State) : Res :=
  s.fp3 o (halves fun x y d => (halfFmt bf).fma rm ((halfFmt bf).decode x) (nbVal (halfFmt bf) nb y) ((halfFmt bf).decode d))
/-- HMINMAX2 (R287). -/
def execHminmax2 (o : F3) (bf mx prop : Bool) (s : State) : Res :=
  s.fp3 o (halves fun x y _ => (halfFmt bf).minmax mx prop x y)

/-- HCMP2 (R288): the lo outcome to p, the hi outcome to p + 1. -/
def execHcmp2 (c : FCond) (p : Pred) (o : FAB) (bf : Bool) (s : State) : Res :=
  s.laneEff (o.a.toNat :: fsrcRegs o.b) [p.toNat, p.toNat + 1] fun th =>
    let a := th.reg o.a.toNat
    let b := fsrcVal o.b th
    let t := halfFmt bf
    let x := t.decode (lo16 a)
    let y := t.decode (lo16 b)
    let x' := t.decode (hi16 a)
    let y' := t.decode (hi16 b)
    ((th.setPred p.toNat (fcmpHolds c x y)).setPred (p.toNat + 1) (fcmpHolds c x' y')).addFlags
      (FlagSet.when (x.signalling || y.signalling || x'.signalling || y'.signalling) FlagSet.inv)

/-! ## Correctly rounded functions (R289) -/

/-- RCP (Table 10.6). -/
def execRcp (o : Q2) (s : State) : Res := s.func1 o Fmt.fp32.rcp
/-- RSQ (Table 10.6). -/
def execRsq (o : Q2) (s : State) : Res := s.func1 o Fmt.fp32.rsq
/-- SQRT (Table 10.6). -/
def execSqrt (o : Q2) (s : State) : Res := s.func1 o Fmt.fp32.sqrt
/-- FDIV (Table 10.6). -/
def execFdiv (o : Q2) (b : Reg) (_hb : Bool) (s : State) : Res :=
  s.laneRun [o.d.toNat, o.a.toNat, b.toNat] [] fun t T tid th =>
    let r := Fmt.fp32.div o.rm (f32 (th.reg o.a.toNat)) (f32 (th.reg b.toNat))
    .next (s.lateLane t T tid th o.la.toNat [o.d.toNat] [] [(o.d.toNat, BitVec.ofNat 32 r.1)] [] r.2)
/-- EX2 (Table 10.6). -/
def execEx2 (o : Q2) (s : State) : Res := s.func1 o Fmt.fp32.ex2
/-- LG2 (Table 10.6). -/
def execLg2 (o : Q2) (s : State) : Res := s.func1 o Fmt.fp32.lg2
/-- SINPI (Table 10.6). -/
def execSinpi (o : Q2) (s : State) : Res := s.func1 o Fmt.fp32.sinpi
/-- COSPI (Table 10.6). -/
def execCospi (o : Q2) (s : State) : Res := s.func1 o Fmt.fp32.cospi

end Sys2Proof.Machine
end

