-- ==== Sys2Proof/Machine/Window.lean ====
section
/-! DEFINITION. Releasing threads, context reads, groups (R435, R436), the issuer's and the target's side of a window access (R64-R69,
R142-R147, R336, R361), outstanding transactions and the remote-read cache (R348-R350). -/

namespace Sys2Proof

/-- Bytes of a size. -/
def Size.bytes (z : Size) : Nat := match z with | .b8 => 1 | .b16 => 2 | .b32 => 4 | .b64 => 8 | .b128 => 16
/-- Registers of the data group. -/
def Size.regs (z : Size) : Nat := match z with | .b8 | .b16 | .b32 => 1 | .b64 => 2 | .b128 => 4

/-- The right that a request needs (R68): 0 read, 1 write, 2 atomic. -/
def TxOp.right (o : TxOp) : Nat :=
  match o with
  | .load _ _ => 0
  | .store _ => 1
  | .atomic _ _ _ _ _ => 2
  | .probe => 0
  | .record _ => 1
  | .rtr _ => 0
  | .grant _ => 1
  | .done _ _ => 1
  | .query _ _ => 0
  | .note _ => 1

/-- A message that takes no answer. -/
def TxOp.isNote (o : TxOp) : Bool := match o with | .note _ => true | _ => false

/-- The address of a request at its target, which R105 spreads by. -/
def TxDest.addr (d : TxDest) : Nat :=
  match d with
  | .ctx _ _ a => a
  | .gang _ rank off => rank * 2 ^ 20 + off
  | .box _ _ _ a => a
  | .stage _ a _ _ => a

/-- A transaction's destination with another address. -/
def TxDest.at (d : TxDest) (a : Nat) : TxDest :=
  match d with
  | .ctx c key _ => .ctx c key a
  | .gang g _ _ => .gang g (a / 2 ^ 20) (a % 2 ^ 20)
  | .box c key b _ => .box c key b a
  | .stage c _ g q => .stage c a g q

/-- Bytes of a request. -/
def TxOp.len (o : TxOp) : Nat :=
  match o with
  | .load n _ => n
  | .store d => d.length
  | .atomic _ _ w _ _ => if w then 8 else 4
  | .probe => 1
  | .record d => d.length
  | .rtr _ => 1
  | .grant _ => 1
  | .done _ d => d.length
  | .query _ _ => 1
  | .note _ => 1

end Sys2Proof

namespace Sys2Proof.Machine

/-- A fault at an address. -/
def trapAt (k : BitVec 8) (q : BitVec 4) (a : DWord) : Trap := { code := k, cause := q, addr := a }

/-! ## Tiles of a collective that the program writes (R459) -/

/-- A store of the program into a tile that Opal owns leaves the tile's result undefined (R459); `hit` says which ranges of generic addresses the
store reaches. -/
def CollRun.spoilTiles (ready : List Nat) (hit : Nat → Nat → Bool) (r : CollRun) : CollRun :=
  { r with tiles := ((span 0 r.tiles.length).zip r.tiles).map (fun e =>
      if ready.contains e.1 && !e.2.done && hit e.2.extra.1.toNat (field e.2.ctl.toNat 32 14 * 128) then { e.2 with spoiled := true } else e.2) }

/-- An open collective after a store of the program: one whose block has not been read keeps the store until its tiles are known. -/
def CollRun.spoil (x : ScrOrMem) (hit : Nat → Nat → Bool) (r : CollRun) : CollRun :=
  if r.started then r.spoilTiles x.ready hit else if x.ready.isEmpty then r else { r with wrote := r.wrote ++ [x] }

/-- The slot of a collective. -/
def EngCmd.slot? (c : EngCmd) : Option Nat := match c with | .coll _ k _ _ => some k | _ => none

/-- A team's open collectives after a store that reaches the ranges which a test names. -/
def Team.spoilIf (T : Team) (scr : Bool) (addr n : Nat) (hit : Nat → Nat → Bool) : Team :=
  { T with eng := T.eng.map (fun e =>
      match e.2.run, e.2.cmd.slot? with
      | some r, some k => (e.1, { e.2 with run := some (r.spoil ⟨scr, addr, n, Map.get [] T.ready k⟩ hit) })
      | _, _ => e) }

/-- The ranges of generic addresses that `n` bytes of a scratchpad meet. -/
def scrHit (off n : Nat) (a l : Nat) : Bool := decide (a < 2 ^ 57 + off + n ∧ 2 ^ 57 + off < a + l)

/-- A store to `n` bytes of a team's scratchpad reaches its own tiles. -/
def Team.spoil (T : Team) (off n : Nat) : Team := T.spoilIf true off n (scrHit off n)

/-- The bytes at a physical address lie in a range of a context's virtual addresses. -/
def State.maps (s : State) (ctx : CtxId) (pa n a l : Nat) : Bool :=
  decide (a < 2 ^ 56) && (span (a / 65536) ((a + l + 65535) / 65536 - a / 65536)).any fun p =>
    match s.pageBase ctx (p * 65536) with
    | some b => let lo := max a (p * 65536) - p * 65536
                let hi := min (a + l) ((p + 1) * 65536) - p * 65536
                decide (b + lo < pa + n ∧ pa < b + hi)
    | none => false

/-- A store to a team's scratchpad that no part of Opal makes (R459). -/
def State.spoilScr (s : State) (t off n : Nat) : State := s.modTeam t fun T => T.spoil off n

/-- A store to memory that no part of Opal makes reaches the tiles that lie there, in whatever context (R459). -/
def State.spoilMem (s : State) (pa n : Nat) : State :=
  { s with teams := s.teams.map fun e => (e.1, e.2.spoilIf false pa n (s.maps e.2.ctx pa n)) }

/-! ## Registers of a memory access (R324, R326) -/

/-- Words from bytes, four at a time. -/
def wordsOf (bs : List Byte) : Nat → List Word
  | 0 => []
  | n + 1 => BitVec.ofNat 32 (leNat (bs.take 4)) :: wordsOf (bs.drop 4) n
/-- The register values of a load of a size into group `d`; .b8 and .b16 zero-extend. -/
def loadVals (z : Size) (d : Nat) (bs : List Byte) : List (Nat × Word) := (span d z.regs).zip (wordsOf bs z.regs)
/-- The bytes of consecutive registers. -/
def Thread.regBytes (th : Thread) (d : Nat) : Nat → List Byte
  | 0 => []
  | n + 1 => leBytes 4 (th.reg d).toNat ++ Thread.regBytes th (d + 1) n
/-- The bytes that a store of a size writes. -/
def Thread.storeBytes (th : Thread) (z : Size) (d : Nat) : List Byte := (th.regBytes d z.regs).take z.bytes

/-! ## Leaving waves, parking and release (Tables 9.1, 9.5) -/

/-- Take a thread out of every wave and group of its team's core; empty waves and groups go, and a wave that loses it holds no operands any more
(R215). -/
def State.leaveAll (s : State) (t : Nat) (T : Team) (tid : Nat) : State :=
  match T.core? with
  | none => s
  | some c =>
    let drop := fun (gs : List Group) =>
      (gs.map fun g => if g.team = t then { g with tids := g.tids.filter (· ≠ tid) } else g).filter fun g => !g.tids.isEmpty
    let parts := (Map.get [] s.cores c).map fun p =>
      (p.1, { p.2 with
        waves := ((p.2.waves).map fun w => if w.2.team = t ∧ tid ∈ w.2.tids then (w.1, { w.2 with tids := w.2.tids.filter (· ≠ tid), latch := [] }) else w).filter
          fun w => !w.2.tids.isEmpty,
        former := drop p.2.former, spilled := drop p.2.spilled })
    ({ s with cores := Map.set [] s.cores c parts } : State).unspillCore c

/-- A parked thread is released: it enters FORMER behind the instruction that parked it (Table 9.1). -/
def State.unpark (s : State) (t : Nat) (T : Team) (tid : Nat) (th : Thread) : State :=
  (s.setThread t { T with stuckSince := none } tid (th.enterFormer th.nextPos)).formerAdd T t [tid] th.nextPos th.part false

/-- A lane thread parks on an object (Table 9.5). -/
def State.park (s : State) (t : Nat) (T : Team) (tid : Nat) (th : Thread) (o : Park) : State :=
  s.setThread t T tid { th with st := .parked o }

/-- The values of a late result of a thread have come: they are due to be written (R185). -/
def Thread.due (th : Thread) (id : Nat) (regs : List (Nat × Word)) (preds : List (Nat × Bool)) (flags : FlagSet) : Thread :=
  { th with late := th.late.map fun l =>
      if l.id = id then { l with regs := regs, preds := preds, flags := flags, st := .due } else l }

/-- The same for the steering thread (R299). -/
def Steer.due (st : Steer) (id : Nat) (regs : List (Nat × Word)) : Steer :=
  { st with late := st.late.map fun l => if l.id = id then { l with regs := regs, st := .due } else l }

/-! ## Reads in a context -/

/-- The outcome of reading several bytes in a context. -/
inductive ReadRes where
  | ok (bs : List Byte)
  | nonres
  | bad (code : BitVec 8) (cause : BitVec 4)
  deriving DecidableEq, Repr

/-- Read `n` bytes at a global virtual address, one 128-byte line after another, as memory stood `b` stores ago (R358); `fuel` bounds the lines. -/
def State.readCtx (s : State) (ctx : CtxId) (cl : Option Nat) (fuel va n : Nat) (b : Nat := 0) : State × ReadRes :=
  match fuel with
  | 0 => (s, .ok [])
  | fuel + 1 =>
    if n = 0 then (s, .ok [])
    else
      let k := min n (128 - va % 128)
      let r := s.judgeLoad ctx cl false va
      match r.2 with
      | .nonres => (r.1, .nonres)
      | .bad c q => (r.1, .bad c q)
      | .ok pa _ =>
        let here := r.1.bytesBefore b pa k
        let q := State.readCtx r.1 ctx cl fuel (va + k) (n - k) b
        match q.2 with
        | .ok rest => (q.1, .ok (here ++ rest))
        | x => (q.1, x)

/-- Lines that `n` bytes can touch. -/
def linesFor (n : Nat) : Nat := n / 128 + 2

/-! ## Groups (R435, R436) -/

/-- A rank entry (Table 19.2). -/
structure GRank where
  aid : Aid
  ctx : CtxId
  xp : Bool
  podn : Word
  deriving DecidableEq, Repr

/-- A group descriptor as read: a legal group with its class and ranks, a descriptor that breaks R436 with the ranks it lists, or
why it could not be read. -/
inductive GroupRes where
  | ok (cls : Nat) (ranks : List GRank)
  | broken (ranks : List GRank)
  | nonres
  | bad (code : BitVec 8) (cause : BitVec 4)
  deriving DecidableEq, Repr

/-- The rank entry in 8 bytes. -/
def gRankOf (v : Nat) : GRank :=
  ⟨BitVec.ofNat 10 v, BitVec.ofNat 12 (field v 16 12), flag v 31, BitVec.ofNat 32 (field v 32 32)⟩

/-- Table 19.2 for one entry. -/
def gRankOk (v : Nat) : Bool := field v 10 6 == 0 && field v 28 3 == 0 && (flag v 31 || field v 32 32 == 0)

/-- The 8-byte values in a list of bytes. -/
def dwordsOf (bs : List Byte) : Nat → List Nat
  | 0 => []
  | n + 1 => leNat (bs.take 8) :: dwordsOf (bs.drop 8) n

/-- No member twice. -/
def noRepeats {α : Type} [DecidableEq α] : List α → Bool
  | [] => true
  | a :: r => !r.contains a && noRepeats r

/-- Read the descriptor of group `g` in a context (R435), as memory stood `b` stores ago (R358). -/
def State.readGroup (s : State) (ctx : CtxId) (cl : Option Nat) (g : Nat) (b : Nat := 0) : State × GroupRes :=
  match Map.find? s.ctxs ctx.toNat with
  | none => (s, .broken [])
  | some c =>
    if c.ngrp ≤ g then (s, .broken [])
    else
      let base := c.gdbase + 16384 * g
      match s.readCtx ctx cl 2 base 64 b with
      | (s1, .nonres) => (s1, .nonres)
      | (s1, .bad k q) => (s1, .bad k q)
      | (s1, .ok hd) =>
        let h := leNat (hd.take 4)
        let n := field h 0 11
        let cls := field h 11 2
        match s1.readCtx ctx cl (linesFor (8 * min n 1024)) (base + 64) (8 * min n 1024) b with
        | (s2, .nonres) => (s2, .nonres)
        | (s2, .bad k q) => (s2, .bad k q)
        | (s2, .ok bs) =>
          let vs := dwordsOf bs (min n 1024)
          let ranks := vs.map gRankOf
          if 1 ≤ n ∧ n ≤ 1024 ∧ (cls = 0 ∨ cls = 3) ∧ h / 2 ^ 13 = 0 ∧ (hd.drop 4).all (· == 0) ∧ vs.all gRankOk ∧ noRepeats ranks then
            (s2, .ok cls ranks)
          else (s2, .broken ranks)

/-! ## The issuer's side (R64-R67) -/

/-- A window entry (Table 3.6) as one 256-bit value. -/
abbrev WinEntry := Nat

/-- Every reserved bit of a window entry is zero. -/
def winReservedOk (e : WinEntry) : Bool :=
  field e 6 10 == 0 && field e 26 6 == 0 && field e 44 4 == 0 && field e 120 8 == 0 && field e 184 8 == 0 && field e 224 32 == 0

/-- What a window access asks: offset, length, the right it needs (0 RD, 1 WR, 2 AT), the kinds its instruction accepts (1 MEM,
2 GANG, 3 GROUP). -/
structure WinReq where
  handle : BitVec 16
  off : Nat
  len : Nat
  right : Nat
  kinds : List Nat
  align : Nat
  deriving DecidableEq, Repr

/-- Where an accepted access goes: one target, or every rank of a group. -/
inductive WinTo where
  | one (aid : Aid) (dest : TxDest) (cls : Nat) (rrc : Bool) (wver : Nat)
  | many (ranks : List (Aid × TxDest)) (cls : Nat)
  deriving DecidableEq, Repr

/-- The issuer's judgement. -/
inductive WinRes where
  | ok (w : WinTo)
  | bad (f : Trap)
  deriving DecidableEq, Repr

/-- Read a window entry as a load in the issuing context (R64, R66): a non-resident page reads as zero, a set that is LOST
raises BANK_OFF here, with CAUSE 0 (log entry 90). -/
def State.winEntry (s : State) (ctx : CtxId) (cl : Option Nat) (h : Nat) : State × (WinEntry ⊕ (BitVec 8 × BitVec 4)) :=
  match Map.find? s.ctxs ctx.toNat with
  | none => (s, .inl 0)
  | some c =>
    if c.nwin ≤ h then (s, .inl 0)
    else
      match s.readCtx ctx cl 2 (c.wtbase + 32 * h) 32 with
      | (s1, .ok bs) => (s1, .inl (leNat bs))
      | (s1, .nonres) => (s1, .inl 0)
      | (s1, .bad k q) => if k = Code.poison ∧ q = 1 then (s1, .inr (Code.bankOff, 0)) else (s1, .inr (k, q))

/-- The gang checks of R67 at the issuer: detached first, then a recorded break (R144, R147). -/
def Team.gangFault (T : Team) : Option (BitVec 8) :=
  match T.gang with
  | none => some Code.windowHandle
  | some g => if g.state ≠ .attached then some Code.gangDetached else if g.broken then some Code.gangDeparted else none

/-- The ranks of a gang's group, as they were read when its members were placed (R49, R141). -/
def State.gangRanks (s : State) (T : Team) : List GRank :=
  match Map.find? s.grids T.grid with | some g => g.ranks.map fun k => gRankOf k.toNat | none => []

/-- Drop the lines that a test names; what a fill in flight brings for such a line does not enter the cache any more (R321, R350). -/
def State.rrcDrop (s : State) (bad : RrcLine → Bool) : State :=
  { s with rrc := s.rrc.filter fun l => !bad l,
           txs := s.txs.map fun x =>
             match x.2.fill, s.team? x.2.team with
             | some w, some T => if bad ⟨T.ctx, x.2.handle, w, x.2.lo / 2048 * 2048, []⟩ then (x.1, { x.2 with stale := true }) else x
             | _, _ => x }

/-- The issuer's check of a window access (R66, R336, R67, R142). An access that finds another WVER drops the handle's lines (R350). The peer address
must be aligned as well (log entry 73); RBASE of a GANG entry is not looked at (log entry 74), and a COPY through it is of class 2; a COPY or RDST
through a GROUP entry of class 0 is of class 0 (log entry 85). -/
def State.winCheck (s : State) (T : Team) (q : WinReq) : State × WinRes :=
  let cl := T.cluster
  let tr := fun (k : BitVec 8) => WinRes.bad { code := k, addr := BitVec.ofNat 64 q.off, handle := q.handle }
  match s.winEntry T.ctx cl q.handle.toNat with
  | (s1, .inr f) => (s1, .bad { code := f.1, cause := f.2, addr := BitVec.ofNat 64 q.off, handle := q.handle })
  | (s0, .inl e) =>
    let kind := field e 0 2
    let limit := field e 128 56
    let rights := flag e (2 + q.right)
    let key := BitVec.ofNat 32 (field e 192 32)
    let at0 := field e 64 56 + q.off
    let wver := field e 48 8
    let s1 := s0.rrcDrop fun l => l.ctx == T.ctx && l.handle == q.handle && l.wver != wver
    if kind = 0 ∨ !winReservedOk e ∨ !q.kinds.contains kind then (s1, tr Code.windowHandle)
    else if kind = 1 then
      if !rights then (s1, tr Code.protection)
      else if limit < q.off + q.len then (s1, tr Code.windowLimit)
      else if q.off % q.align ≠ 0 ∨ at0 % q.align ≠ 0 then (s1, tr Code.align)
      else (s1, .ok (.one (BitVec.ofNat 10 (field e 16 10)) (.ctx (BitVec.ofNat 12 (field e 32 12)) key at0) 3 (flag e 5) wver))
    else if kind = 2 then
      if T.gang.isNone ∨ T.gsize * 2 ^ 20 < limit then (s1, tr Code.windowHandle)
      else if !rights then (s1, tr Code.protection)
      else if limit < q.off + q.len then (s1, tr Code.windowLimit)
      else if q.off % q.align ≠ 0 then (s1, tr Code.align)
      else if T.slines * 128 < q.off % 2 ^ 20 + q.len then (s1, tr Code.windowLimit)
      else
        match T.gangFault with
        | some k => (s1, tr k)
        | none =>
          let ranks := s1.gangRanks T
          let r := q.off / 2 ^ 20
          match ranks[r % ranks.length]? with
          | some k => (s1, .ok (.one k.aid (.gang T.gridNo r (q.off % 2 ^ 20)) 2 false wver))
          | none => (s1, tr Code.gangDeparted)
    else
      match s1.readGroup T.ctx cl (field e 56 8) with
      | (s2, .ok cls ranks) =>
        if ranks.any GRank.xp then (s2, tr Code.windowHandle)
        else if !rights then (s2, tr Code.protection)
        else if limit < q.off + q.len then (s2, tr Code.windowLimit)
        else if q.off % q.align ≠ 0 ∨ at0 % q.align ≠ 0 then (s2, tr Code.align)
        else (s2, .ok (.many (ranks.map fun k => (k.aid, .ctx k.ctx key at0)) cls))
      | (s2, .bad k c) => (s2, .bad { code := k, cause := c, addr := BitVec.ofNat 64 q.off, handle := q.handle })
      | (s2, _) => (s2, tr Code.windowHandle)

/-! ## Transactions (R107, R362) -/

/-- A transaction as it is made. -/
def mkTx (s : State) (t : Nat) (o : TxOwner) (h : BitVec 16) (aid : Aid) (dest : TxDest) (op : TxOp) (lo len cls : Nat)
    (acq rel : Bool) (fill : Option Nat) (pos : Pos) : Tx :=
  { team := t, owner := o, handle := h, target := aid, pod := none, dest := dest, op := op, lo := lo, len := len, acq := acq, rel := rel,
    cls := cls, station := none, sentAt := s.clock, answer := none, told := false, ahead := false, split := false, fill := fill, stale := false, skip := 0, pos := pos }

/-- `n` bytes at an address as naturally aligned requests of 1 to 128 bytes (R114). -/
def natPieces : Nat → Nat → Nat → List (Nat × Nat)
  | 0, _, _ => []
  | fuel + 1, a, n =>
    match [128, 64, 32, 16, 8, 4, 2, 1].find? fun k => a % k == 0 && decide (k ≤ n) with
    | some k => (a, k) :: natPieces fuel (a + k) (n - k)
    | none => []

/-- The smallest naturally aligned request of 1 to 128 bytes that covers `n` bytes of one line (R114). -/
def coverOf (a n : Nat) : Nat := ([1, 2, 4, 8, 16, 32, 64].find? fun k => decide (a + n ≤ a / k * k + k)).getD 128

/-- `n` bytes at an address line by line, each line's part read by one request (R114, R407): the address of the part, its bytes, the size of the
request. -/
def linePieces : Nat → Nat → Nat → List (Nat × Nat × Nat)
  | 0, _, _ => []
  | fuel + 1, a, n =>
    if n = 0 then []
    else
      let k := min n (128 - a % 128)
      (a, k, coverOf a k) :: linePieces fuel (a + k) (n - k)

/-- A request of a transaction: where it goes, what it asks, the offset and the bytes of its part, the bytes before that part in what it reads. -/
structure TxCut where
  dest : TxDest
  op : TxOp
  lo : Nat
  len : Nat
  skip : Nat
  deriving DecidableEq, Repr

/-- The requests that a transaction is sent as: those of R114 for a load or a store, the cells of an Opal transfer (R450). -/
def Tx.cut (own : Aid) (x : Tx) : List TxCut :=
  let a := x.dest.addr
  match x.op with
  | .load n f => (linePieces n a n).map fun p => ⟨x.dest.at (p.1 - p.1 % p.2.2), .load p.2.2 f, p.1 - a, p.2.1, p.1 % p.2.2⟩
  | .store d => (natPieces d.length a d.length).map fun p => ⟨x.dest.at p.1, .store ((d.drop (p.1 - a)).take p.2), p.1 - a, p.2, 0⟩
  | .done _ d =>
    if x.target = own ∨ x.pod.isSome then []
    else (span 0 ((d.length + 127) / 128)).map fun c => ⟨x.dest.at (a + 128 * c), .store ((d.drop (128 * c)).take 128), 128 * c, 128, 0⟩
  | _ => []

/-- A transaction that is sent as pieces. -/
def Tx.isSplit (own : Aid) (x : Tx) : Bool :=
  match x.op with | .done _ _ => !(x.cut own).isEmpty | _ => decide (1 < (x.cut own).length)

/-- A transaction that one request of R114 performs. -/
def Tx.single (own : Aid) (x : Tx) : Tx :=
  match x.cut own with
  | [p] => { x with dest := p.dest, op := p.op, skip := p.skip, split := false }
  | _ => { x with split := false }

/-- The address of a rank in another pod, and its ports (R436, R511). -/
def State.endpoint (s : State) (podn : Word) (aid : Aid) : Option Endp :=
  (List.find? (fun (e : Nat × Endp) => e.2.valid && e.2.podn == podn && e.2.aid == aid) s.endps).map Prod.snd

/-- A transaction of this K9 to itself, which crosses no switch (R108). -/
def Tx.own (x : Tx) (aid : Aid) : Bool := x.pod.isNone && x.target == aid

/-- A whole transaction is put under its number: within the pod its cell waits for a slot, to another pod it leaves as a message of the Ultra
Ethernet Transport, to this K9 itself it crosses no switch (R108, R110, R115). -/
def State.putTx (s : State) (id : Nat) (x : Tx) : State :=
  let s1 := { s with txs := Map.put s.txs id x }
  match x.pod with
  | some p =>
    (match s.endpoint p x.target with
     | some e => if s.portsOpen then { s1 with out := s1.out ++ [.uet e.addr e.ports x.target id x.op] } else s1
     | none => s1)
  | none => if x.own s.cfg.aid then s1 else { s1 with cells := s1.cells ++ [⟨.tx id, x.cls, x.target, 0, false⟩] }

/-- A transaction is put under its number, with its pieces if it is sent as pieces (R114). -/
def State.launchTx (s : State) (id : Nat) (x : Tx) : State :=
  if x.isSplit s.cfg.aid then
    let ps := x.cut s.cfg.aid
    ((span 0 ps.length).zip ps).foldl (fun s p =>
        { s with txCtr := s.txCtr + 1 }.putTx s.txCtr
          { x with owner := .piece id p.1, dest := p.2.dest, op := p.2.op, lo := x.lo + p.2.lo, len := p.2.len, skip := p.2.skip, fill := none, split := false })
      { s with txs := Map.put s.txs id { x with split := true, skip := 0 } }
  else s.putTx id (x.single s.cfg.aid)

/-- Enter a transaction. -/
def State.newTx (s : State) (x : Tx) : State := { s with txCtr := s.txCtr + 1 }.launchTx s.txCtr x

/-- The lane thread that a transaction belongs to. -/
def TxOwner.lane? (o : TxOwner) : Option Nat :=
  match o with
  | .load tid _ _ _ => some tid
  | .store tid => some tid
  | .atomic tid _ _ _ => some tid
  | .mcst tid _ _ => some tid
  | .record tid => some tid
  | .ray tid _ _ => some tid
  | .probe _ _ => none
  | .grant _ _ _ _ _ => none
  | .engine _ _ _ => none
  | .piece _ _ => none

/-- The outstanding transactions of a lane thread. -/
def State.txOf (s : State) (t tid : Nat) : Map Tx := s.txs.filter fun x => x.2.team == t && x.2.owner.lane? == some tid

/-- The late result of a transaction's owner. -/
def TxOwner.late? (o : TxOwner) : Option Nat :=
  match o with
  | .load _ late _ _ => some late
  | .atomic _ late _ _ => some late
  | .ray _ late _ => some late
  | _ => none

/-- A lane thread waits out one of its window accesses: a fault that its target finds is precise at the issuing instruction (R336, R337), so
the thread goes on only when the answer has come, or ahead of one that will be no fault (R362, log entry 10). -/
def State.accessHolds (s : State) (t tid : Nat) : Bool := (s.txOf t tid).any fun x => !x.2.ahead

/-- Shadows count down by one instruction, those of the results that `before` names (R186). -/
def Thread.countDown (th : Thread) (before : Nat → Bool) : Thread :=
  { th with late := (th.late.map fun l => if before l.id then { l with shadow := l.shadow - 1 } else l).filter fun l =>
      !(l.st == .done && l.shadow == 0) }

/-- An access that its thread waited out has been performed: it counts as executed now. -/
def State.accessDone (s : State) (x : Tx) (tid : Nat) : State :=
  if x.ahead then s
  else s.modThread x.team tid fun th => th.countDown fun id => match x.owner.late? with | some n => decide (id < n) | none => true

/-- The transactions of one MCST (R337). -/
def State.mcstOf (s : State) (t tid batch : Nat) : Map Tx :=
  s.txs.filter fun y => y.2.team == t && (match y.2.owner with | .mcst u c _ => u == tid && c == batch | _ => false)

/-- The thread of an access goes on before the answer, which will be no fault: the accesses behind it may be performed before it (R362). An
engine command without REL goes on so behind its window writes (R360). -/
def State.goAhead (s : State) (id : Nat) : State :=
  match Map.find? s.txs id with
  | none => s
  | some x =>
    match x.owner.lane? with
    | none =>
      (match x.owner, x.op with
       | .engine _ _ _, .store _ => if x.rel then s else { s with txs := Map.modify s.txs id (fun y => { y with ahead := true }) }
       | _, _ => s)
    | some tid =>
      if x.ahead || x.acq || (x.cls == 1 && x.target == s.cfg.aid) then s
      else
        let mine := match x.owner with | .mcst _ b _ => (s.mcstOf x.team tid b).map Prod.fst | _ => [id]
        { s.accessDone x tid with txs := s.txs.map (fun y => if mine.contains y.1 then (y.1, { y.2 with ahead := true }) else y) }

/-- A thread's next memory access must wait: an access with ACQ, or an access before a fence, has not been performed (R339, R362). -/
def State.memBlocked (s : State) (t tid : Nat) (th : Thread) : Bool :=
  (s.txOf t tid).any fun x => th.fenced || x.2.acq

/-- Two records for one box, through whatever handles. -/
def Tx.sameBox (x y : Tx) : Bool :=
  match x.dest, y.dest with
  | .box c _ b _, .box c' _ b' _ => x.target == y.target && c == c' && b == b'
  | _, _ => false

/-- A transaction must not be performed yet: an earlier one through the same handle overlaps it, or is a record for the same box (R411), or it
releases and an earlier one of its thread is outstanding (R362, items 1 and 2). -/
def State.accessBehind (s : State) (id : Nat) (x : Tx) : Bool :=
  match x.owner.lane? with
  | none => false
  | some tid => (s.txOf x.team tid).any fun y => decide (y.1 < id) &&
      (match x.owner, y.2.owner with
       | .mcst _ b _, .mcst _ b' _ => b != b'
       | _, _ => true) &&
      (x.rel || x.sameBox y.2 || (y.2.handle == x.handle && y.2.target == x.target && decide (y.2.lo < x.lo + x.len ∧ x.lo < y.2.lo + y.2.len)))

/-- The same of a piece, which stands where its whole does. -/
def State.txBehind (s : State) (id : Nat) (x : Tx) : Bool :=
  match x.owner with
  | .piece p _ => (match Map.find? s.txs p with | some y => s.accessBehind p y | none => false)
  | _ => s.accessBehind id x

/-! ## The target's side (R68, R69, R142-R147, R361, R411) -/

/-- The key check of R68. -/
def State.keyOk (s : State) (ctx : CtxId) (key : Word) (right : Nat) : Bool :=
  match Map.find? s.ctxs ctx.toNat with
  | none => false
  | some c => key != 0 && c.keys.any fun k => k.extractLsb' 0 32 == key && k.getLsbD (32 + right)

/-- An integer read-modify-write of R332 on `w` bits. -/
def atomFn (op : AtomOp) (u wide : Bool) (old x y : DWord) : DWord :=
  let lt := fun (a b : DWord) =>
    if wide then (if u then a.ult b else a.slt b)
    else (if u then (a.truncate 32).ult (b.truncate 32) else (a.truncate 32).slt (b.truncate 32))
  let r := match op with
    | .add => old + x
    | .min => if lt x old then x else old
    | .max => if lt old x then x else old
    | .and => old &&& x
    | .or => old ||| x
    | .xor => old ^^^ x
    | .exch => x
    | .cas => if (if wide then old == x else old.truncate 32 == x.truncate 32) then y else old
  if wide then r else (r.truncate 32 : Word).zeroExtend 64

/-- The bytes that an atomic leaves, and the old value it returns. -/
def atomBytes (op : AtomOp) (u wide : Bool) (x y : DWord) (old : List Byte) : List Byte :=
  leBytes (if wide then 8 else 4) (atomFn op u wide (BitVec.ofNat 64 (leNat old)) x y).toNat

/-- An atomic operation number (R315, R332). -/
def atomOf (n : Nat) : AtomOp :=
  match n with
  | 0 => .add | 1 => .min | 2 => .max | 3 => .and | 4 => .or | 5 => .xor | 6 => .exch | _ => .cas

/-- A load at a target, through the TLB of a cluster (R70), as memory stood `b` stores ago (R358): a line of the remote-read cache is given only
from a page with RRC set (R349); an empty answer says that it is clear (log entry 36). -/
def State.targetLoad (s : State) (ctx : CtxId) (cl : Nat) (va n : Nat) (fill : Bool) (b : Nat) : State × TxReply :=
  match s.judgeLoad ctx (some cl) false va with
  | (s1, .nonres) => (s1, .nonres)
  | (s1, .bad k q) => (s1, .fault k q)
  | (s1, .ok pa rrc) => (s1, .data (if fill && !rrc then [] else s1.bytesBefore b pa n))

/-- A receive box of a context: numbered 256 × context + box. -/
def boxKey (ctx : CtxId) (k : Nat) : Nat := 256 * ctx.toNat + k

/-- The team and number of a gang member on this K9; of two copies of its state the one that has a place (R478). -/
def State.gangTeam (s : State) (grid : Word) (rank : Nat) : Option (Nat × Team) :=
  let ms := s.teams.filter fun e => e.2.gridNo == grid && (match e.2.gang with | some g => g.rank == rank | none => false)
  (ms.find? fun e => decide (e.2.place ≠ .saved)).or ms.head?

/-- Read and advance a feed for one RWRECV (R412): the record, the feed after, and the box and sender it landed under. -/
def Team.popRecord (T : Team) (f : Nat) : List Byte × Team × Option (Nat × Nat) :=
  let F := T.feed f
  let at0 := F.fbase * 128
  let bs := (span 0 64).map fun i => (Map.get (0 : Byte) T.scratch (at0 + (F.ccnt + i) % F.size))
  (bs, T.setFeed f { F with ccnt := (F.ccnt + 64) % 2 ^ 32, recs := F.recs.drop 1 }, F.recs.head?)

/-- This K9's credits for a box (R409): slots in use and granted. -/
def State.credit (s : State) (aid : Aid) (ctx : CtxId) (box : Nat) : Nat × Nat :=
  match List.find? (fun (c : Credit) => c.target == aid && c.ctx == ctx && c.box == box) s.credits with
  | some c => (c.u, c.g)
  | none => (0, 0)

/-- Change this K9's credits for a box. -/
def State.modCredit (s : State) (aid : Aid) (ctx : CtxId) (box : Nat) (f : Credit → Credit) : State :=
  { s with credits := s.credits.map (fun c => if c.target = aid ∧ c.ctx = ctx ∧ c.box = box then f c else c) }

/-- One slot of a box fewer is in use at this sender (R411, R412). -/
def State.uncredit (s : State) (aid : Aid) (ctx : CtxId) (box : Nat) : State :=
  s.modCredit aid ctx box fun c => { c with u := c.u - 1 }

/-- The 64 bytes of a remote work record as the device sends it: SRC holds the sender (R408). -/
def State.recordBytes (s : State) (th : Thread) (d : Nat) : List Byte :=
  let bs := th.regBytes d 16
  bs.take 46 ++ leBytes 2 s.cfg.aid.toNat ++ bs.drop 48

/-- Take a slot and send a record (R411). -/
def State.sendRecord (s : State) (t tid : Nat) (th : Thread) (m : WArgs) (aid : Aid) (ctx : CtxId) (key : Word) (box at0 : Nat) : State :=
  (s.modCredit aid ctx box fun c => { c with u := c.u + 1 }).newTx
    (mkTx s t (.record tid) m.handle aid (.box ctx key box at0) (.record (s.recordBytes th m.d.toNat)) (64 * box) 64 1 false m.rel none th.pos)

/-- The threads of `l`, named by team and id, in an order that the manual leaves open: a free value (log entry 2). -/
def State.freeOrder {α : Type} (s : State) (l : List (Nat × Nat × α)) : List (Nat × Nat × α) :=
  sortBy (fun (e : Nat × Nat × α) => Config.threadRank s.freeCtr (1024 * e.1 + e.2.1)) l

/-- A sender's parked threads take the slots that have come free, in an order left open (R411); those of a team that is saved, or that is being
saved, once it is resumed (R352, R476, R477). -/
def State.serveSend (s : State) (aid : Aid) (ctx : CtxId) (box : Nat) : State :=
  let parked := (s.teams.filter fun e => e.2.core?.isSome && e.2.phase == .running).flatMap fun e => e.2.threads.filterMap fun x =>
    match x.2.st with
    | .parked (.send m a c key b at0) => if a = aid ∧ c = ctx ∧ b = box then some (e.1, x.1, x.2, m, key, at0) else none
    | _ => none
  (s.freeOrder parked).foldl (fun s e =>
    if (s.credit aid ctx box).1 ≠ (s.credit aid ctx box).2 then
      let s1 := s.sendRecord e.1 e.2.1 e.2.2.1 e.2.2.2.1 aid ctx e.2.2.2.2.1 box e.2.2.2.2.2
      match s1.team? e.1 with | some T => s1.unpark e.1 T e.2.1 e.2.2.1 | none => s1
    else s) ({ s with freeCtr := s.freeCtr + 1 } : State)

/-- A popped slot goes back to its box's sender (R412): this K9's own credits at once, another K9's by a cell of class RWR (log entry 92). -/
def State.slotBack (s : State) (ctx : CtxId) (o : Option (Nat × Nat)) : State :=
  match o with
  | none => s
  | some (box, sender) =>
    if BitVec.ofNat 10 sender = s.cfg.aid then (s.uncredit s.cfg.aid ctx box).serveSend s.cfg.aid ctx box
    else s.toPeer (BitVec.ofNat 10 sender) 1 (64 * box) (.note (.slotBack ctx box))

/-- A thread takes a record: its 16 registers are late results, due at once (R412). -/
def State.takeRecord (s : State) (t : Nat) (T : Team) (tid : Nat) (th : Thread) (f d la : Nat) (preds : List (Nat × Bool)) : State :=
  let r := T.popRecord f
  (s.lateLane t r.2.1 tid th la (span d 16) (preds.map Prod.fst) ((span d 16).zip (wordsOf r.1 16)) preds 0).slotBack T.ctx r.2.2

/-- A record that has landed serves one thread parked on its feed (R412, Table 9.5): of those that parked together the lowest, which of
the rest is left open. -/
def State.serveRecv (s : State) (t f : Nat) : State :=
  match s.team? t with
  | none => s
  | some T =>
    if (T.feed f).fill < 64 then s
    else
      let parked := T.threads.filterMap fun x =>
        match x.2.st with
        | .parked (.recv g d la w) => if g = f then some (t, x.1, x.2, d, la, w) else none
        | _ => none
      let first := parked.filter fun e => !parked.any fun o => o.2.2.2.2.2 == e.2.2.2.2.2 && decide (o.2.1 < e.2.1)
      match s.freeOrder first with
      | [] => s
      | (_, tid, th, d, la, _) :: _ =>
        let s1 := ({ s with freeCtr := s.freeCtr + 1 } : State).takeRecord t T tid th f d la []
        match s1.team? t with
        | some T1 => match T1.thread? tid with | some th1 => s1.unpark t T1 tid th1 | none => s1
        | none => s1

/-- A feed's producer count has moved: each record it covers serves one waiting thread (R340, R412). -/
def State.serveRecvs (s : State) (t f : Nat) : Nat → State
  | 0 => s
  | n + 1 => State.serveRecvs (s.serveRecv t f) t f n

/-- Land a record in a box (R411): one that finds its team saved or its ring full is refused for retry (R410), one that finds its line of the
ring staged but not yet present waits for it (R135). -/
def State.landRecord (s : State) (sender : Aid) (ctx : CtxId) (box : Nat) (data : List Byte) : State × Option TxReply :=
  match Map.find? s.boxes (boxKey ctx box) with
  | none => (s, some (.fault Code.slotGrant 0))
  | some b =>
    match s.team? b.team with
    | none => (s, some (.fault Code.slotGrant 0))
    | some T =>
      let F := T.feed b.feed
      if T.place = .saved ∨ F.room < 64 then (s, some .wait)
      else if T.lineAbsent ((F.fbase * 128 + F.pcnt % F.size) / 128) then (s, none)
      else
        let at0 := F.fbase * 128
        let m := ((span 0 64).zip data).foldl (fun m e => Memory.set m (at0 + (F.pcnt + e.1) % F.size) e.2) T.scratch
        let T1 := ({ T with scratch := m } : Team).spoil (at0 + F.pcnt % F.size) 64
        let T2 := T1.setFeed b.feed { F with pcnt := (F.pcnt + 64) % 2 ^ 32, recs := F.recs ++ [(box, sender.toNat)] }
        ((s.setTeam b.team T2).serveRecv b.team b.feed, some .ack)

/-- Store at a target, through the TLB of a cluster. -/
def State.targetStore (s : State) (ctx : CtxId) (cl : Nat) (va : Nat) (data : List Byte) : State × TxReply :=
  let full := decide (data.length = 128 ∧ va % 128 = 0)
  match s.judgeStore ctx (some cl) false va full with
  | (s1, .ok pa _) => ((if full then s1.putLine pa data else s1.store pa data).spoilMem pa data.length, .ack)
  | (s1, .nonres) => (s1, .fault Code.storeNonres 0)
  | (s1, .bad k q) => (s1, .fault k q)

/-- A window access at its target (R361): the answer, or none while it must wait; a read of this K9's own engine stands `b` stores to memory and
to a scratchpad behind (R358). -/
def State.inbound (s : State) (x : InTx) (b : Nat × Nat := (0, 0)) : State × Option TxReply :=
  let cl := x.cluster.toNat
  match x.dest with
  | .ctx ctx key va =>
    if !s.keyOk ctx key x.op.right then (s, some (.fault Code.windowKey 0))
    else
      match Map.find? s.ctxs ctx.toNat with
      | none => (s, some (.fault Code.windowKey 0))
      | some c =>
        if c.arena va x.op.len then (s, some (.fault Code.protection 0))
        else
          match x.op with
          | .probe => (s, some .ack)
          | .load n fill => let r := s.targetLoad ctx cl va n fill b.1; (r.1, some r.2)
          | .store d => let r := s.targetStore ctx cl va d; (r.1, some r.2)
          | .atomic op u w v y =>
            (match s.judgeStore ctx (some cl) false va false with
             | (s1, .ok pa _) =>
               let old := s1.bytes pa (if w then 8 else 4)
               ((s1.store pa (atomBytes op u w v y old)).spoilMem pa x.op.len, some (.data old))
             | (s1, .nonres) => (s1, some (.fault Code.storeNonres 0))
             | (s1, .bad k q) => (s1, some (.fault k q)))
          | _ => (s, some (.fault Code.windowHandle 0))
  | .gang grid rank off =>
    match s.gangTeam grid rank with
    | none => (s, some (.fault Code.gangDeparted 0))
    | some (t, T) =>
      if T.killed then (s, some (.fault Code.gangDeparted 0))
      else if T.place = .saved ∨ (T.phase ≠ .running ∧ T.phase ≠ .saving) then (s, none)
      else if T.slines * 128 < off + x.op.len then (s, some (.fault Code.windowLimit 0))
      else if T.lineAbsent (off / 128) then (s, none)
      else
        match x.op with
        | .load n _ => (s, some (.data (({ T with scratch := T.scrBefore b.2 } : Team).sbytes off n)))
        | .store d => (s.setTeam t ((T.sstore off d).spoil off d.length), some .ack)
        | .atomic op u w v y =>
          let old := T.sbytes off (if w then 8 else 4)
          (s.setTeam t ((T.sstore off (atomBytes op u w v y old)).spoil off x.op.len), some (.data old))
        | .probe => (s, some .ack)
        | _ => (s, some (.fault Code.windowHandle 0))
  | .box ctx key box _ =>
    if !s.keyOk ctx key x.op.right then (s, some (.fault Code.windowKey 0))
    else
      match x.op with
      | .record d => s.landRecord x.sender ctx box d
      | _ => (s, some (.fault Code.windowHandle 0))
  | .stage _ _ _ _ => (s, none)

/-- This K9's own access as it reaches itself (R108): it is translated where its team stands. -/
def State.ownTx (s : State) (x : Tx) : InTx :=
  ⟨s.cfg.aid, BitVec.ofNat 5 (((s.team? x.team).bind Team.cluster).getD 0), x.dest, x.op⟩

/-- How far behind the present the read of a command may stand: the stores to memory and to the scratchpad that it does not see yet (R358). -/
def State.behind (s : State) (T : Team) (e : Eng) : Nat × Nat := (min s.view.1 (s.pastCtr - e.after.1), min s.view.2 (T.sseq - e.after.2))

/-- The whole of a piece. -/
def State.wholeOf (s : State) (id : Nat) (x : Tx) : Nat × Tx :=
  match x.owner with
  | .piece p _ => (match Map.find? s.txs p with | some y => (p, y) | none => (id, x))
  | _ => (id, x)

/-- The command that an engine's transaction belongs to, while it has it. -/
def State.ownerEng (s : State) (x : Tx) : Option Eng :=
  match x.owner with
  | .engine i _ o => ((s.team? x.team).bind fun T => Map.find? T.eng i).filter fun e => e.order == o
  | _ => none

/-- How far behind an access of this K9 to itself may stand: of an engine's read of memory or its own team's scratchpad what R358 leaves open,
of another team's scratchpad any number of its stores. -/
def State.ownBehind (s : State) (id : Nat) (x : Tx) : Nat × Nat :=
  match s.team? x.team, s.ownerEng (s.wholeOf id x).2 with
  | some T, some e =>
    (match x.dest with
     | .gang grid rank _ => if (s.gangTeam grid rank).map Prod.fst = some x.team then s.behind T e else (0, s.view.2)
     | _ => s.behind T e)
  | _, _ => (0, 0)

/-! ## The remote-read cache (R348-R350) -/

/-- The line that serves a read. -/
def State.rrcHit (s : State) (ctx : CtxId) (h : BitVec 16) (wver off : Nat) : Option RrcLine :=
  s.rrc.find? fun l => l.ctx == ctx && l.handle == h && l.wver == wver && l.off == off / 2048 * 2048

/-- A write through a handle drops the lines that it covers (R350). -/
def State.rrcWrite (s : State) (ctx : CtxId) (h : BitVec 16) (off len : Nat) : State :=
  s.rrcDrop fun l => l.ctx == ctx && l.handle == h && decide (l.off < off + len ∧ off < l.off + 2048)

/-- Fill a line; the oldest go when the carve-out is full. -/
def State.rrcFill (s : State) (ctx : CtxId) (h : BitVec 16) (wver off : Nat) (data : List Byte) : State :=
  let l : RrcLine := ⟨ctx, h, wver, off / 2048 * 2048, data⟩
  { s with rrc := (l :: (s.rrc.filter fun k => !(k.ctx == ctx && k.handle == h && k.off == l.off))).take (s.cfg.rrcsize * 2 ^ 19) }

/-! ## Answers -/

/-- The fault of a window access, precise at the issuing instruction (R336, R471). -/
def Tx.trap (x : Tx) (k : BitVec 8) (q : BitVec 4) : Trap :=
  { code := k, cause := q, addr := BitVec.ofNat 64 x.lo, handle := x.handle,
    peer := (match x.owner with | .mcst _ _ r => BitVec.ofNat 10 r | _ => x.target) }

/-- A transaction is one of a set or a piece of one of it. -/
def Tx.under (ids : List Nat) (y : Nat × Tx) : Bool :=
  ids.contains y.1 || (match y.2.owner with | .piece p _ => ids.contains p | _ => false)

/-- Drop transactions with their pieces. -/
def State.endTxs (s : State) (ids : List Nat) : State := { s with txs := s.txs.filter fun y => !Tx.under ids y }

/-- Drop a transaction. -/
def State.endTx (s : State) (id : Nat) : State := s.endTxs [id]

/-- Mark a transaction. -/
def State.modTx (s : State) (id : Nat) (f : Tx → Tx) : State := { s with txs := Map.modify s.txs id f }

/-- A thread that is in a wave, the former or spill memory. -/
def Thread.atLarge (th : Thread) : Bool := match th.st with | .wave => true | .former => true | .spilled => true | _ => false

/-- Drop an access: an MCST goes with its stores at every rank. -/
def State.dropAccess (s : State) (id : Nat) (x : Tx) : State :=
  match x.owner with
  | .mcst tid b _ => s.endTxs ((s.mcstOf x.team tid b).map Prod.fst)
  | _ => s.endTx id

/-- A fault stops the thread at the access's position, and the access leaves no trace: a restart performs the instruction again (R336, R465,
R466). -/
def State.stopAccess (s : State) (t : Nat) (T : Team) (tid : Nat) (th : Thread) (id : Nat) (x : Tx) (f : Trap) : State :=
  let r := T.laneRec tid x.pos f
  (((s.dropAccess id x).leaveAll t T tid).setThread t T tid
    { th with st := .stopped r, pos := x.pos, late := th.late.filter (fun l => some l.id != x.owner.late?) }).report r

/-- A window fault stops the issuing thread. -/
def State.txFault (s : State) (t : Nat) (T : Team) (tid : Nat) (th : Thread) (id : Nat) (x : Tx) (k : BitVec 8) (q : BitVec 4) : State :=
  s.stopAccess t T tid th id x (x.trap k q)

/-- Registers of an atomic's old value (R332). -/
def atomRegs (wide : Bool) (d : Nat) : List Nat := if wide then [d + 2, d + 3] else [d + 1]

/-- The old value of an atomic in its registers. -/
def atomVals (wide : Bool) (d : Nat) (old : List Byte) : List (Nat × Word) := (atomRegs wide d).zip (wordsOf old 2)

/-- When every rank of an MCST has answered: the fault of the lowest-numbered failing rank, or its end (R337). -/
def State.mcstAnswered (s : State) (T : Team) (tid : Nat) (th : Thread) (id batch : Nat) (x : Tx) : State :=
  let all := s.mcstOf x.team tid batch
  if all.any fun y => y.2.answer.isNone then s
  else
    match all.findSome? fun y => match y.2.answer with | some (.fault k q) => some (y.1, y.2, k, q) | _ => none with
    | some (i, y, k, q) => s.txFault x.team T tid th i y k q
    | none => (s.dropAccess id x).accessDone x tid

/-- A fault at the target gives the slot of a record back, whether or not its thread is still there (R411). -/
def State.recordRefused (s : State) (x : Tx) (r : TxReply) : State :=
  match r, x.op, x.dest with
  | .fault _ _, .record _, .box ctx _ box _ => s.uncredit x.target ctx box
  | _, _, _ => s

/-- Give an answer to the lane thread that waits for it. -/
def State.answerLane (s : State) (id : Nat) (x : Tx) (r : TxReply) (tid : Nat) : State :=
  match s.team? x.team with
  | none => (s.recordRefused x r).endTx id
  | some T =>
    match T.thread? tid with
    | none => (s.recordRefused x r).endTx id
    | some th =>
      if !th.live then (s.recordRefused x r).endTx id
      else
        match x.owner, r with
        | .mcst _ b _, _ => s.mcstAnswered T tid th id b x
        | _, .wait => s
        | .record _, .fault k q => (s.recordRefused x r).txFault x.team T tid th id x k q
        | _, .fault k q => s.txFault x.team T tid th id x k q
        | .load _ late z d, .nonres =>
          ((s.endTx id).setThread x.team T tid (th.due late (loadVals z d []) [(15, true)] 0)).accessDone x tid
        | .load _ late z d, .data bs => ((s.endTx id).setThread x.team T tid (th.due late (loadVals z d bs) [] 0)).accessDone x tid
        | .atomic _ late w d, .data bs => ((s.endTx id).setThread x.team T tid (th.due late (atomVals w d bs) [] 0)).accessDone x tid
        | _, _ => (s.endTx id).accessDone x tid

end Sys2Proof.Machine
end

