-- ==== Sys2Proof/Machine/Rays.lean ====
section
/-! DEFINITION. The Beryl ray unit (17.1-17.3): exact box tests, the triangle sequence, and the traversal of a hierarchy of local and
borrowed records. -/

namespace Sys2Proof.Machine

/-! ## Exact reals m * 2^e -/

/-- A dyadic rational. -/
structure Dy where
  m : Int
  e : Int
  deriving DecidableEq, Repr

/-- Sum. -/
def Dy.add (a b : Dy) : Dy :=
  let e := min a.e b.e
  ⟨a.m * 2 ^ (a.e - e).toNat + b.m * 2 ^ (b.e - e).toNat, e⟩
/-- Negation. -/
def Dy.neg (a : Dy) : Dy := ⟨-a.m, a.e⟩
/-- Product. -/
def Dy.mul (a b : Dy) : Dy := ⟨a.m * b.m, a.e + b.e⟩
/-- a ≤ b -/
def Dy.le (a b : Dy) : Bool := decide (0 ≤ (b.add a.neg).m)
/-- The value of a finite code. -/
def FVal.dy (v : FVal) : Dy := match v with | .fin n m e => ⟨if n then -(m : Int) else m, e⟩ | _ => ⟨0, 0⟩

/-- A rational with a positive denominator. -/
structure Frac where
  num : Dy
  den : Dy
  deriving DecidableEq, Repr

/-- a ≤ b -/
def Frac.le (a b : Frac) : Bool := (a.num.mul b.den).le (b.num.mul a.den)
/-- (p - o) / d for d not zero. -/
def Frac.cut (p o d : Dy) : Frac :=
  let n := p.add o.neg
  if d.m < 0 then ⟨n.neg, d.neg⟩ else ⟨n, d⟩

/-! ## Rays and boxes (R395, R400, R402) -/

/-- A ray: origin, direction (three FP32 values each) and the interval. -/
structure Ray where
  o : List FVal
  d : List FVal
  tmin : FVal
  tmax : FVal
  deriving DecidableEq, Repr

/-- A component. -/
def comp (l : List FVal) (a : Nat) : FVal := l.getD a (.fin false 0 0)

/-- A box: the widened planes per axis. -/
abbrev RayBox := List (Dy × Dy)

/-- The smaller and the larger cut of an axis, when the direction is not zero there. -/
def axisCuts (r : Ray) (a : Nat) (b : Dy × Dy) : Frac × Frac :=
  let d := (comp r.d a).dy
  let o := (comp r.o a).dy
  let x := Frac.cut b.1 o d
  let y := Frac.cut b.2 o d
  if d.m < 0 then (y, x) else (x, y)

/-- A box meets the ray (R400): some real t of the interval lies between the cuts of every axis. -/
def Ray.meets (r : Ray) (b : RayBox) : Bool :=
  if r.tmin.isInf then false
  else
    let one : Dy := ⟨1, 0⟩
    let axes := (span 0 3).zip b
    let moving := axes.filter fun x => !(comp r.d x.1).isZero
    let still := axes.filter fun x => (comp r.d x.1).isZero
    let los := ⟨r.tmin.dy, one⟩ :: moving.map fun x => (axisCuts r x.1 x.2).1
    let his := (if r.tmax.isInf then [] else [⟨r.tmax.dy, one⟩]) ++ moving.map fun x => (axisCuts r x.1 x.2).2
    still.all (fun x => x.2.1.le (comp r.o x.1).dy && ((comp r.o x.1).dy).le x.2.2) &&
      los.all fun l => his.all fun h => l.le h

/-- Round a dyadic to FP32. -/
def Dy.f32 (a : Dy) : FVal := Fmt.fp32.decode (Fmt.fp32.round .rn (decide (a.m < 0)) a.m.natAbs a.e).1
/-- FP32 addition in rn. -/
def fadd32 (a b : FVal) : FVal := Fmt.fp32.decode (Fmt.fp32.sum .rn [a, b]).1
/-- FP32 exact sum of several terms, rounded once. -/
def fsum32 (l : List FVal) : FVal := Fmt.fp32.decode (Fmt.fp32.sum .rn l).1
/-- FP32 product in rn. -/
def fmul32 (a b : FVal) : FVal := Fmt.fp32.decode (Fmt.fp32.mul .rn a b).1
/-- FP32 quotient in rn. -/
def fdiv32 (a b : FVal) : FVal := Fmt.fp32.decode (Fmt.fp32.div .rn a b).1
/-- The code of a value. -/
def FVal.code32 (v : FVal) : Nat := (Fmt.fp32.convert .rn v).1

/-- The entry distance of a box (R402). -/
def Ray.entry (r : Ray) (b : RayBox) : FVal :=
  ((span 0 3).zip b).foldl (fun t x =>
    if (comp r.d x.1).isZero then t
    else
      let q := fun (p : Dy) => fdiv32 (fadd32 p.f32 (comp r.o x.1).flip) (comp r.d x.1)
      let lo := q x.2.1
      let hi := q x.2.2
      let near := if hi.cmp lo < 0 then hi else lo
      if t.cmp near < 0 then near else t) r.tmin

/-! ## Triangles (R401) -/

/-- A value that the sequence may compute without rejecting the triangle. -/
def FVal.finite (v : FVal) : Bool := !v.isNan && !v.isInf

/-- The axis of the largest direction component; ties to the lowest. -/
def Ray.axis (r : Ray) : Nat :=
  let a := fun i => match comp r.d i with | .fin _ m e => FVal.fin false m e | v => v
  let k := if (a 0).cmp (a 1) < 0 then 1 else 0
  if (a k).cmp (a 2) < 0 then 2 else k

/-- A vertex after translation and shear, with the values computed on the way. -/
def Ray.shear (r : Ray) (kx ky kz : Nat) (sx sy sz : FVal) (v : List FVal) : List FVal × List FVal :=
  let q := (span 0 3).map fun i => fadd32 (comp v i) (comp r.o i).flip
  let px := fsum32 [comp q kx, (sx.mul (comp q kz)).flip]
  let py := fsum32 [comp q ky, (sy.mul (comp q kz)).flip]
  let pz := fmul32 sz (comp q kz)
  ([px, py, pz], q ++ [px, py, pz])

/-- The triangle test: t, b1 and b2 of an accepted triangle. -/
def Ray.triangle (r : Ray) (v0 v1 v2 : List FVal) : Option (FVal × FVal × FVal) :=
  if !((v0 ++ v1 ++ v2).all FVal.finite) then none
  else
    let kz := r.axis
    let x0 := (kz + 1) % 3
    let y0 := (x0 + 1) % 3
    let swap := (comp r.d kz).neg
    let kx := if swap then y0 else x0
    let ky := if swap then x0 else y0
    let dz := comp r.d kz
    let sx := fdiv32 (comp r.d kx) dz
    let sy := fdiv32 (comp r.d ky) dz
    let sz := fdiv32 (.fin false 1 0) dz
    let A := r.shear kx ky kz sx sy sz v0
    let B := r.shear kx ky kz sx sy sz v1
    let C := r.shear kx ky kz sx sy sz v2
    let edge := fun (P Q : List FVal) => fsum32 [(comp P 0).mul (comp Q 1), ((comp P 1).mul (comp Q 0)).flip]
    let U := edge C.1 B.1
    let V := edge A.1 C.1
    let W := edge B.1 A.1
    let below := fun (x : FVal) => decide (x.cmp (.fin false 0 0) < 0)
    let above := fun (x : FVal) => decide (0 < x.cmp (.fin false 0 0))
    if !(([sx, sy, sz] ++ A.2 ++ B.2 ++ C.2 ++ [U, V, W]).all FVal.finite) then none
    else if [U, V, W].any below && [U, V, W].any above then none
    else
      let det := fsum32 [U, V, W]
      if det.isZero || !det.finite then none
      else
        let T := fsum32 [U.mul (comp A.1 2), V.mul (comp B.1 2), W.mul (comp C.1 2)]
        let t := fdiv32 T det
        let b1 := fdiv32 V det
        let b2 := fdiv32 W det
        if !([T, t, b1, b2].all FVal.finite) then none
        else if t.cmp r.tmin < 0 ∨ r.tmax.cmp t < 0 then none
        else some (t, b1, b2)

/-! ## Records -/

/-- Why a query stops before its result: a non-resident page, a fault, a remote record not yet read, or a staged line still
absent. -/
inductive RayStop where
  | nonres
  | fault (f : Trap)
  | need (h : BitVec 16) (off len : Nat) (aid : Aid) (dest : TxDest) (cls : Nat) (rrc : Bool) (wver : Nat)
  | absent (l : Nat)
  deriving DecidableEq, Repr

/-- A candidate (R400). -/
structure RayHit where
  t : FVal
  prim : Nat
  inst : Nat
  b1 : FVal
  b2 : FVal
  deriving DecidableEq, Repr

/-- What the traversal has found so far, in order of visit: candidates, and leave candidates (t_e, PAID, ROFF). -/
structure RayAcc where
  s : State
  hits : List RayHit
  leaves : List (FVal × Nat × Nat)
  stop : Option RayStop
  deriving DecidableEq, Repr

/-- Where a hierarchy lies: behind a window of an accelerator, or local; its base; the address of the enclosing instance node. -/
structure RaySpace where
  via : Option (BitVec 16 × Nat)
  base : Nat
  inst : Option Nat
  deriving DecidableEq, Repr

/-- A record's bytes, or why the query stops. -/
abbrev RayRd := State × (List Byte ⊕ RayStop)

/-- Read a local record (R406, R325 steps 3 to 6). -/
def State.rayLocal (s : State) (T : Team) (a n al : Nat) : RayRd :=
  let g : DWord := BitVec.ofNat 64 a
  match s.resolve T none g n with
  | .bad => (s, .inr (.fault (trapAt Code.aperture 0 g)))
  | .scr off =>
    if a % al ≠ 0 then (s, .inr (.fault (trapAt Code.align 0 g)))
    else if T.lineAbsent (off / 128) then (s, .inr (.absent (off / 128)))
    else if T.lineAbsent ((off + n - 1) / 128) then (s, .inr (.absent ((off + n - 1) / 128)))
    else (s, .inl (T.sbytes off n))
  | .mem _ va =>
    if a % al ≠ 0 then (s, .inr (.fault (trapAt Code.align 0 g)))
    else
      match s.readCtx T.ctx T.cluster 2 va n with
      | (s1, .ok bs) => (s1, .inl bs)
      | (s1, .nonres) => (s1, .inr .nonres)
      | (s1, .bad k q) => (s1, .inr (.fault (trapAt k q g)))

/-- Read a borrowed record through its window, as an LDW without ACQ (R402, R406, R349). -/
def State.rayRemote (s : State) (T : Team) (known : List (Nat × Nat × List Byte)) (h : BitVec 16) (paid off n al : Nat) : RayRd :=
  match s.winCheck T ⟨h, off, n, 0, [1], al⟩ with
  | (s1, .bad f) => (s1, .inr (.fault f))
  | (s1, .ok (.many _ _)) => (s1, .inr (.fault { code := Code.windowHandle, addr := BitVec.ofNat 64 off, handle := h }))
  | (s1, .ok (.one aid dest cls rrc wver)) =>
    if aid.toNat ≠ paid then (s1, .inr (.fault { code := Code.windowHandle, addr := BitVec.ofNat 64 off, handle := h }))
    else
      match List.find? (fun (k : Nat × Nat × List Byte) => k.1 == h.toNat && k.2.1 == off && k.2.2.length == n) known with
      | some k => (s1, .inl k.2.2)
      | none =>
        match (if rrc then s1.rrcHit T.ctx h wver off else none) with
        | some l =>
          if off % 2048 + n ≤ 2048 then (s1, .inl ((l.data.drop (off % 2048)).take n))
          else (s1, .inr (.need h off n aid dest cls false wver))
        | none => (s1, .inr (.need h off n aid dest cls (rrc && decide (off % 2048 + n ≤ 2048)) wver))

/-- Read a record of a space. -/
def State.rayRecord (s : State) (T : Team) (known : List (Nat × Nat × List Byte)) (sp : RaySpace) (a n al : Nat) : RayRd :=
  match sp.via with
  | none => s.rayLocal T a n al
  | some (h, paid) => s.rayRemote T known h paid a n al

/-- A little-endian field of a record. -/
def recAt (bs : List Byte) (off n : Nat) : Nat := leNat ((bs.drop off).take n)
/-- An FP32 field of a record. -/
def fpAt (bs : List Byte) (off : Nat) : FVal := Fmt.fp32.decode (recAt bs off 4)
/-- Three FP32 fields. -/
def vecAt (bs : List Byte) (off : Nat) : List FVal := [fpAt bs off, fpAt bs (off + 4), fpAt bs (off + 8)]

/-- The widened box of child `i` of an internal node; none for an empty child (R395). -/
def childBox (bs : List Byte) (i : Nat) : Option RayBox :=
  let axis := fun a =>
    let O := fpAt bs (4 * a)
    let E := recAt bs (12 + a) 1
    let lo := recAt bs (16 + 6 * i + 2 * a) 1
    let hi := recAt bs (16 + 6 * i + 2 * a + 1) 1
    if !O.finite || E == 255 || decide (hi < lo) then none
    else some (O.dy.add ⟨(lo : Int) - 1, (E : Int) - 127⟩, O.dy.add ⟨(hi : Int) + 1, (E : Int) - 127⟩)
  match axis 0, axis 1, axis 2 with
  | some x, some y, some z => some [x, y, z]
  | _, _, _ => none

/-- The children of a node that the ray meets: entry distance, reference and slot; in order of distance for an ANY query (R403). -/
def metChildren (r : Ray) (any : Bool) (bs : List Byte) : List (FVal × Nat) :=
  let all := (span 0 4).filterMap fun i =>
    match childBox bs i with
    | some b => if r.meets b then some (r.entry b, recAt bs (40 + 6 * i) 6) else none
    | none => none
  if any then
    all.foldl (fun l c => l.takeWhile (fun x => decide (x.1.cmp c.1 ≤ 0)) ++ [c] ++ l.dropWhile (fun x => decide (x.1.cmp c.1 ≤ 0))) []
  else all

/-- Test the triangles of a leaf in record order (R396, R401). -/
def rayLeaf (T : Team) (known : List (Nat × Nat × List Byte)) (sp : RaySpace) (r : Ray) (any : Bool) : Nat → Nat → RayAcc → RayAcc
  | 0, _, acc => acc
  | n + 1, a, acc =>
    if acc.stop.isSome || (any && !acc.hits.isEmpty) then acc
    else
      match acc.s.rayRecord T known sp a 48 16 with
      | (s1, .inr x) => { acc with s := s1, stop := some x }
      | (s1, .inl bs) =>
        let acc1 := match r.triangle (vecAt bs 0) (vecAt bs 12) (vecAt bs 24) with
          | some (t, b1, b2) => { acc with s := s1, hits := acc.hits ++ [⟨t, recAt bs 36 4 % 2 ^ 31, sp.inst.getD 0, b1, b2⟩] }
          | none => { acc with s := s1 }
        rayLeaf T known sp r any n (a + 48) acc1

/-- The ray in an instance's space; none where the instance is empty (R397). -/
def Ray.enter (r : Ray) (bs : List Byte) : Option Ray :=
  let m := (span 0 12).map fun i => fpAt bs (4 * i)
  let row := fun k (v : List FVal) => [(comp m (4 * k)).mul (comp v 0), (comp m (4 * k + 1)).mul (comp v 1), (comp m (4 * k + 2)).mul (comp v 2)]
  let o := (span 0 3).map fun k => fsum32 (row k r.o ++ [comp m (4 * k + 3)])
  let d := (span 0 3).map fun k => fsum32 (row k r.d)
  if m.all FVal.finite && o.all FVal.finite && d.all FVal.finite && !(d.all FVal.isZero) then some { r with o := o, d := d } else none

/-- Visit an internal node and everything below it; `fuel` is one more than the levels left (R399). -/
def rayNode (T : Team) (known : List (Nat × Nat × List Byte)) (any : Bool) : Nat → RaySpace → Ray → Nat → RayAcc → RayAcc
  | 0, _, _, _, acc => acc
  | fuel + 1, sp, r, a, acc =>
    if acc.stop.isSome || (any && !acc.hits.isEmpty) then acc
    else
      match acc.s.rayRecord T known sp a 64 64 with
      | (s1, .inr x) => { acc with s := s1, stop := some x }
      | (s1, .inl bs) =>
        (metChildren r any bs).foldl (fun acc c =>
          if acc.stop.isSome || (any && !acc.hits.isEmpty) then acc
          else
            let kind := c.2 % 8
            let at0 := sp.base + 16 * (c.2 / 256)
            match kind with
            | 1 => rayNode T known any fuel sp r at0 acc
            | 2 => rayLeaf T known sp r any (field c.2 3 5 + 1) at0 acc
            | 3 =>
              if sp.inst.isSome || fuel == 0 then acc
              else
                match acc.s.rayRecord T known sp at0 64 64 with
                | (s2, .inr x) => { acc with s := s2, stop := some x }
                | (s2, .inl ib) =>
                  match r.enter ib with
                  | none => { acc with s := s2 }
                  | some r1 =>
                    let base := recAt ib 48 7
                    rayNode T known any (fuel - 1) ⟨sp.via, base, some at0⟩ r1 base { acc with s := s2 }
            | 4 =>
              if sp.inst.isSome || sp.via.isSome || fuel == 0 then acc
              else
                match acc.s.rayRecord T known sp at0 64 64 with
                | (s2, .inr x) => { acc with s := s2, stop := some x }
                | (s2, .inl pb) =>
                  let paid := recAt pb 0 2 % 1024
                  let roff := recAt pb 8 6
                  if flag (recAt pb 0 2) 15 then
                    rayNode T known any (fuel - 1) ⟨some (BitVec.ofNat 16 (recAt pb 2 2), paid), roff, none⟩ r roff { acc with s := s2 }
                  else { acc with s := s2, leaves := acc.leaves ++ [(c.1, paid, roff)] }
            | _ => acc) { acc with s := s1 }

/-! ## The query (R400, R402, R403, R405) -/

/-- The better of two candidates (R400). -/
def RayHit.better (a b : RayHit) : RayHit :=
  let c := b.t.cmp a.t
  if c < 0 then b else if 0 < c then a
  else if b.prim < a.prim then b else if a.prim < b.prim then a
  else if b.inst < a.inst then b else a

/-- The better of two leave candidates (R402). -/
def leaveBetter (a b : FVal × Nat × Nat) : FVal × Nat × Nat :=
  let c := b.1.cmp a.1
  if c < 0 then b else if 0 < c then a
  else if b.2.1 < a.2.1 then b else if a.2.1 < b.2.1 then a
  else if b.2.2 < a.2.2 then b else a

/-- The results of a finished traversal: status and v[D] to v[D+3] (Table 17.5). -/
def rayResult (acc : RayAcc) (any : Bool) : Bool × List Word :=
  let w := fun (n : Nat) => BitVec.ofNat 32 n
  let hit := match acc.hits with | [] => none | h :: r => some (if any then h else r.foldl RayHit.better h)
  let leave := match acc.leaves with | [] => none | l :: r => some (r.foldl leaveBetter l)
  let hitW := fun (h : RayHit) => (true, [w h.t.code32, w h.prim, w h.b1.code32, w h.b2.code32])
  let leaveW := fun (l : FVal × Nat × Nat) =>
    (false, [w l.1.code32, w (3 * 2 ^ 30 + l.2.1), w (l.2.2 % 2 ^ 32), w (l.2.2 / 2 ^ 32)])
  match hit, leave with
  | some h, some l => if any then hitW h else if l.1.cmp h.t < 0 then leaveW l else hitW h
  | some h, none => hitW h
  | none, some l => leaveW l
  | none, none => (false, [0x7F800000, 0xFFFFFFFF, 0, 0])

/-- The MISS results. -/
def rayMiss : Bool × List Word := (false, [0x7F800000, 0xFFFFFFFF, 0, 0])

/-- The ray of eight register values; none for the rays that miss without a visit (R405). -/
def rayOf (ws : List Word) : Option Ray :=
  let v := ws.map f32
  let r : Ray := ⟨[comp v 0, comp v 1, comp v 2], [comp v 3, comp v 4, comp v 5], comp v 6, comp v 7⟩
  let zero : FVal := .fin false 0 0
  if v.any FVal.isNan || r.o.any FVal.isInf || r.d.any FVal.isInf || r.d.all FVal.isZero || decide (r.tmax.cmp r.tmin < 0) ||
     decide (r.tmin.cmp zero < 0) then none
  else some r

/-- The outcome of a query: results with p15, or why it stops. -/
inductive RayOut where
  | done (p : Bool) (ws : List Word) (nonres : Bool)
  | stop (x : RayStop)
  deriving DecidableEq, Repr

/-- Run a query from its root with the remote records known so far. -/
def State.rayQuery (s : State) (T : Team) (q : RayRun) : State × RayOut :=
  match rayOf q.ray with
  | none => (s, .done rayMiss.1 rayMiss.2 false)
  | some r =>
    let root := q.root.toNat
    let acc := rayNode T q.known q.any 65 ⟨none, root, none⟩ r root ⟨s, [], [], none⟩
    match acc.stop with
    | none => let x := rayResult acc q.any; (acc.s, .done x.1 x.2 false)
    | some .nonres => (acc.s, .done rayMiss.1 rayMiss.2 true)
    | some x => (acc.s, .stop x)

end Sys2Proof.Machine
end

