-- ==== Sys2Proof/Machine/LaneMem.lean ====
section
/-! DEFINITION. Lane instructions 0x50-0x5F: loads, stores, atomics, windows, RREQ, PREF, FENCE and feed counts (chapter 14). -/

namespace Sys2Proof.Machine

/-! ## Common steps (R325) -/

/-- The common entry of a lane memory access: as `laneRun`, and the fences behind it are met (R339; the step issues it only then). -/
def State.memRun (s : State) (regs preds : List Nat) (k : Nat → Team → Nat → Thread → Res) : Res :=
  s.laneRun regs preds fun t T tid th => k t T tid { th with fenced := false }

/-- The generic address of an M-format instruction (R325 step 2). -/
def mAddr (m : MArgs) (th : Thread) : DWord := th.pairAt m.a.toNat + sext64 (m.off.getD 0)
/-- The scratch address of LDS and STS (R325 step 2). -/
def mSaddr (m : MArgs) (th : Thread) : DWord := (th.reg m.a.toNat + m.off.getD 0).zeroExtend 64 + 0x0200000000000000
/-- The registers that hold a generic address. -/
def mRegs (m : MArgs) : List Nat := [m.a.toNat, m.a.toNat + 1]

/-- Steps 3 and 4 of R325: the aperture, then the alignment. -/
def State.locate (s : State) (T : Team) (tid : Option Nat) (a : DWord) (n : Nat) : Loc ⊕ BitVec 8 :=
  match s.resolve T tid a n with
  | .bad => .inr Code.aperture
  | l => if a.toNat % n = 0 then .inl l else .inr Code.align

/-! ## Local stores that have not taken their place yet (R363) -/

/-- The FP32 sum of ATOMF (R333). -/
def atomfSum (old : List Byte) (x : Word) : Nat × FlagSet :=
  Fmt.fp32.sum .rn [Fmt.fp32.decode (leNat old), Fmt.fp32.decode x.toNat]

/-- The bytes that an atomic reads. -/
def Todo.width (o : Todo) : Nat := match o with | .atom _ _ w _ _ _ _ _ => if w then 8 else 4 | _ => 4

/-- What an atomic leaves for the old bytes, the registers that take the old value and the flags (R332, R333). -/
def Todo.rmw (o : Todo) (old : List Byte) : List Byte × List (Nat × Word) × FlagSet :=
  match o with
  | .atom op u w _ x y dregs _ => (atomBytes op u w x y old, dregs.zip (wordsOf old dregs.length), 0)
  | .atomf _ x d _ => let r := atomfSum old x; (leBytes 4 r.1, [(d, BitVec.ofNat 32 (leNat old))], r.2)
  | _ => (old, [], 0)

/-- Bytes are stored for a thread at a place that has been judged. -/
def State.performBytes (s : State) (p : Pending) (data : List Byte) : State :=
  if p.scr then (s.modTeam p.team fun T => T.sstore p.addr data).spoilScr p.team p.addr data.length
  else (s.store p.addr data).spoilMem p.addr data.length

/-- A local store or atomic takes its place in the single order. -/
def State.performOne (s : State) (p : Pending) : State :=
  match p.rmw with
  | none => s.performBytes p p.data
  | some (o, late) =>
    match s.team? p.team with
    | none => s
    | some T =>
      let r := o.rmw (if p.scr then T.sbytes p.addr o.width else s.bytes p.addr o.width)
      (s.performBytes p r.1).modThread p.team p.tid fun th => th.due late r.2.1 [] r.2.2

/-- The local stores that a test names take their places, in program order. -/
def State.performWhere (s : State) (mine : Pending → Bool) : State :=
  (s.pending.filter mine).foldl State.performOne { s with pending := s.pending.filter fun p => !mine p }

/-- A thread's local stores take their places. -/
def State.performThread (s : State) (t tid : Nat) : State := s.performWhere fun p => p.team == t && p.tid == tid
/-- A team's local stores take their places. -/
def State.performTeam (s : State) (t : Nat) : State := s.performWhere fun p => p.team == t
/-- Every local store takes its place. -/
def State.performAll (s : State) : State := s.performWhere fun _ => true

/-- A judged store of a thread takes its place now, or is held behind (R351, R363): what follows it in the thread without an event of the
single order may be performed first (log entry 87). -/
def State.place (s : State) (p : Pending) : State := if s.holding then { s with pending := s.pending ++ [p] } else s.performOne p

/-! ## Loads -/

/-- A load from scratch: it parks on an absent line (R328). -/
def State.scrLoad (s : State) (t : Nat) (T : Team) (tid : Nat) (th : Thread) (off : Nat) (z : Size) (d la : Nat) (r15 : Bool) : State :=
  if T.lineAbsent (off / 128) then s.park t T tid th (.line (off / 128) (.load z d la off r15))
  else s.lateLane t T tid th la (span d z.regs) (if r15 then [15] else []) (loadVals z d (T.sbytes off z.bytes)) [] 0

/-- A load at a generic address (R325-R329). -/
def State.gLoad (s : State) (t : Nat) (T : Team) (tid : Nat) (th : Thread) (a : DWord) (z : Size) (d la : Nat) : State :=
  match s.locate T (some tid) a z.bytes with
  | .inr k => s.stopLane t T tid th (trapAt k 0 a)
  | .inl .bad => s.stopLane t T tid th (trapAt Code.aperture 0 a)
  | .inl (.scr off) => s.scrLoad t T tid th off z d la true
  | .inl (.mem priv va) =>
    match s.judgeLoad T.ctx T.cluster priv va with
    | (s1, .bad k q) => s1.stopLane t T tid th (trapAt k q a)
    | (s1, .nonres) => s1.lateLane t T tid th la (span d z.regs) [15] (loadVals z d []) [(15, true)] 0
    | (s1, .ok pa _) => s1.lateLane t T tid th la (span d z.regs) [15] (loadVals z d (s1.bytes pa z.bytes)) [] 0

/-- LD (R327, R329). -/
def execLd (m : MArgs) (s : State) : Res :=
  s.memRun (span m.d.toNat m.sz.regs ++ mRegs m) [15] fun t T tid th =>
    .next (s.gLoad t T tid th (mAddr m th) m.sz m.d.toNat m.la.toNat)

/-- LDS (R327, R328). -/
def execLds (m : MArgs) (s : State) : Res :=
  s.memRun (span m.d.toNat m.sz.regs ++ [m.a.toNat]) [] fun t T tid th =>
    match s.locate T (some tid) (mSaddr m th) m.sz.bytes with
    | .inl (.scr off) => .next (s.scrLoad t T tid th off m.sz m.d.toNat m.la.toNat false)
    | .inr k => .next (s.stopLane t T tid th (trapAt k 0 (mSaddr m th)))
    | .inl _ => .next (s.stopLane t T tid th (trapAt Code.aperture 0 (mSaddr m th)))

/-! ## Stores -/

/-- A store to scratch: it waits on an absent line (R135, R328). -/
def State.scrStore (s : State) (t : Nat) (T : Team) (tid : Nat) (th : Thread) (off : Nat) (data : List Byte) : State :=
  if T.lineAbsent (off / 128) then s.park t T tid th (.line (off / 128) (.store off data))
  else (s.setThread t T tid th).place ⟨t, tid, true, off, data, none⟩

/-- A store at a generic address (R325-R328). -/
def State.gStore (s : State) (t : Nat) (T : Team) (tid : Nat) (th : Thread) (a : DWord) (data : List Byte) : State :=
  match s.locate T (some tid) a data.length with
  | .inr k => s.stopLane t T tid th (trapAt k 0 a)
  | .inl .bad => s.stopLane t T tid th (trapAt Code.aperture 0 a)
  | .inl (.scr off) => s.scrStore t T tid th off data
  | .inl (.mem priv va) =>
    match s.judgeStore T.ctx T.cluster priv va false with
    | (s1, .ok pa _) => (s1.setThread t T tid th).place ⟨t, tid, false, pa, data, none⟩
    | (s1, .bad k q) => s1.stopLane t T tid th (trapAt k q a)
    | (s1, .nonres) => s1.stopLane t T tid th (trapAt Code.storeNonres 0 a)

/-- ST (R327). -/
def execSt (m : MArgs) (s : State) : Res :=
  s.memRun (span m.d.toNat m.sz.regs ++ mRegs m) [] fun t T tid th =>
    .next (s.gStore t T tid th (mAddr m th) (th.storeBytes m.sz m.d.toNat))

/-- STS (R327): a store in the scratch aperture. -/
def execSts (m : MArgs) (s : State) : Res :=
  s.memRun (span m.d.toNat m.sz.regs ++ [m.a.toNat]) [] fun t T tid th =>
    .next (s.gStore t T tid th (mSaddr m th) (th.storeBytes m.sz m.d.toNat))

/-! ## Atomics (R332-R334) -/

/-- Enter a long-latency result whose values are still to come. -/
def State.lateWait (s : State) (t : Nat) (T : Team) (tid : Nat) (th : Thread) (la : Nat) (dregs dpreds : List Nat) : State :=
  s.setThread t { T with lateCtr := T.lateCtr + 1 } tid (th.addLate T.lateCtr la dregs dpreds [] [] 0 .waiting)

/-- An atomic that has been judged is held behind (R351, R363): its old value comes when it takes its place. -/
def State.holdRmw (s : State) (t : Nat) (T : Team) (tid : Nat) (th : Thread) (la : Nat) (dregs : List Nat) (scr : Bool) (addr : Nat) (o : Todo) : State :=
  let s1 := s.lateWait t T tid th la dregs []
  { s1 with pending := s1.pending ++ [⟨t, tid, scr, addr, [], some (o, T.lateCtr)⟩] }

/-- What an atomic does at a location: the new bytes from the old, the registers that take the old value, the flags set at issue and those
set when it is written, and what a thread parked on an absent line has still to do. -/
structure Rmw where
  n : Nat
  f : List Byte → List Byte
  dregs : List Nat
  now : FlagSet
  flags : List Byte → FlagSet
  todo : Nat → Todo

/-- An indivisible read-modify-write at a generic address, judged as a store (R325, R328, R332). -/
def State.gRmw (s : State) (t : Nat) (T : Team) (tid : Nat) (th : Thread) (a : DWord) (la : Nat) (r : Rmw) : State :=
  match s.locate T (some tid) a r.n with
  | .inr k => s.stopLane t T tid th (trapAt k 0 a)
  | .inl .bad => s.stopLane t T tid th (trapAt Code.aperture 0 a)
  | .inl (.scr off) =>
    if T.lineAbsent (off / 128) then s.park t T tid (th.addFlags r.now) (.line (off / 128) (r.todo off))
    else if s.holding then s.holdRmw t T tid (th.addFlags r.now) la r.dregs true off (r.todo off)
    else
      let old := T.sbytes off r.n
      (s.lateLane t (T.sstore off (r.f old)) tid (th.addFlags r.now) la r.dregs [] (r.dregs.zip (wordsOf old r.dregs.length)) []
        (r.flags old)).spoilScr t off r.n
  | .inl (.mem priv va) =>
    match s.judgeStore T.ctx T.cluster priv va false with
    | (s1, .ok pa _) =>
      if s1.holding then s1.holdRmw t T tid (th.addFlags r.now) la r.dregs false pa (r.todo pa)
      else
      let old := s1.bytes pa r.n
      ((s1.store pa (r.f old)).lateLane t T tid (th.addFlags r.now) la r.dregs [] (r.dregs.zip (wordsOf old r.dregs.length)) []
        (r.flags old)).spoilMem pa r.n
    | (s1, .bad k q) => s1.stopLane t T tid th (trapAt k q a)
    | (s1, .nonres) => s1.stopLane t T tid th (trapAt Code.storeNonres 0 a)

/-- The operation that a control word names (R332). -/
def ctlOp (w : Word) : AtomOp := atomOf (w.extractLsb' 0 3).toNat

/-- The registers that ATOM and ATW read and write (R332): the new value for cas only. -/
def atomNames (wide : Bool) (d : Nat) (op : AtomOp) : List Nat :=
  d :: atomRegs wide d ++ (if op = .cas then (if wide then [d + 4, d + 5] else [d + 2]) else [])

/-- The operand and the new value (R332). -/
def Thread.atomArgs (th : Thread) (wide : Bool) (d : Nat) : DWord × DWord :=
  if wide then (th.pairAt (d + 2), th.pairAt (d + 4)) else ((th.reg (d + 1)).zeroExtend 64, (th.reg (d + 2)).zeroExtend 64)

/-- The integer read-modify-write that a thread's registers describe. -/
def Thread.atomRmw (th : Thread) (wide : Bool) (d la : Nat) : Rmw :=
  let w := th.reg d
  let xy := th.atomArgs wide d
  let op := ctlOp w
  let u := w.getLsbD 3
  ⟨if wide then 8 else 4, atomBytes op u wide xy.1 xy.2, atomRegs wide d, 0, (fun _ => 0),
    (fun off => .atom op u wide off xy.1 xy.2 (atomRegs wide d) la)⟩

/-- Size .b64 of an atomic. -/
def Size.wide (z : Size) : Bool := z == .b64

/-- ATOM (R332). -/
def execAtom (m : MArgs) (s : State) : Res :=
  s.lane fun _ _ _ th0 =>
    let wide := Size.wide m.sz
    let op := ctlOp (th0.reg m.d.toNat)
    s.memRun (atomNames wide m.d.toNat op ++ mRegs m) [] fun t T tid th =>
      .next (s.gRmw t T tid th (mAddr m th) m.la.toNat (th.atomRmw wide m.d.toNat m.la.toNat))

/-- The read-modify-write of ATOMF. -/
def atomfRmw (x : Word) (d la : Nat) : Rmw :=
  ⟨4, (fun old => leBytes 4 (atomfSum old x).1), [d], 0, (fun old => (atomfSum old x).2), (fun off => .atomf off x d la)⟩

/-- ATOMF (R333). -/
def execAtomf (m : MArgs) (s : State) : Res :=
  s.memRun (m.d.toNat :: mRegs m) [] fun t T tid th =>
    .next (s.gRmw t T tid th (mAddr m th) m.la.toNat (atomfRmw (th.reg m.d.toNat) m.d.toNat m.la.toNat))

/-- `fx_enc` (R239): FP32 to FX64 at scale k. -/
def fxEnc (x : FVal) (k : Int) : DWord × FlagSet :=
  match x with
  | .nan _ => (0, FlagSet.inv)
  | .inf n => (if n then 0x8000000000000000 else 0x7FFFFFFFFFFFFFFF, FlagSet.ovf)
  | .fin neg m e =>
    let r := FVal.toInt .rn neg m (e + k)
    if (2 ^ 63 - 1 : Int) < r.1 then (0x7FFFFFFFFFFFFFFF, FlagSet.ovf)
    else if r.1 < -(2 ^ 63) then (0x8000000000000000, FlagSet.ovf)
    else (BitVec.ofInt 64 r.1, FlagSet.when (!r.2) FlagSet.nx)

/-- `fx_dec` (R239). -/
def fxDec (a : DWord) (k : Int) : Nat × FlagSet := Fmt.fp32.round .rn a.msb a.toInt.natAbs (-k)

/-- ATOMX (R334): the addend's flags are set at issue. -/
def execAtomx (m : MArgs) (s : State) : Res :=
  s.memRun ([m.d.toNat, m.d.toNat + 1] ++ mRegs m) [] fun t T tid th =>
    let d := m.d.toNat
    let n := fxEnc (Fmt.fp32.decode (th.reg d).toNat) ((th.reg (d + 1)).extractLsb' 0 7).toInt
    let r : Rmw := ⟨8, atomBytes .add false true n.1 0, [d, d + 1], n.2, (fun _ => 0),
      (fun off => .atom .add false true off n.1 0 [d, d + 1] m.la.toNat)⟩
    .next (s.gRmw t T tid th (mAddr m th) m.la.toNat r)

/-! ## Windows (R335-R337) -/

/-- The 2 KiB line of a window read, as the target addresses it. -/
def TxDest.line (d : TxDest) (off : Nat) : TxDest := match d with | .ctx c k a => .ctx c k (a - off % 2048) | x => x

/-- Send a window load for a late result (R336, R349). -/
def State.sendLoad (s : State) (t : Nat) (o : TxOwner) (h : BitVec 16) (aid : Aid) (dest : TxDest) (off len cls : Nat)
    (acq rrc : Bool) (wver : Nat) (pos : Pos) : State :=
  if rrc && !acq && decide (0 < s.cfg.rrcsize) then
    s.newTx (mkTx s t o h aid (TxDest.line dest off) (.load 2048 true) off len cls acq false (some wver) pos)
  else s.newTx (mkTx s t o h aid dest (.load len false) off len cls acq false none pos)

/-- The registers and predicates of a finished query (Table 17.5, R329). -/
def RayRun.vals (q : RayRun) (ws : List Word) : List (Nat × Word) := (span q.d 4).zip ws
/-- Its predicates. -/
def RayRun.preds (q : RayRun) (p nonres : Bool) : List (Nat × Bool) := (q.p, p) :: (if nonres then [(15, true)] else [])

/-- Ask for a borrowed record that a query needs, each line of it read whole (R407); an unaligned read across two cache lines is not cached. -/
def State.sendRay (s : State) (t : Nat) (o : TxOwner) (h : BitVec 16) (off len : Nat) (aid : Aid) (dest : TxDest) (cls : Nat)
    (rrc : Bool) (wver : Nat) (pos : Pos) : State := s.sendLoad t o h aid dest off len cls false rrc wver pos

/-- Perform a ray query for a thread: its result, its stop, its wait for a staged line, or its first borrowed record (R404-R407). -/
def State.rayGo (s : State) (t : Nat) (T : Team) (tid : Nat) (th : Thread) (q : RayRun) (la : Nat) : State :=
  match s.rayQuery T q with
  | (s1, .done p ws nr) => s1.lateLane t T tid th la (span q.d 4) [q.p, 15] (q.vals ws) (q.preds p nr) 0
  | (s1, .stop (.need h off len aid dest cls rrc wver)) =>
    (s1.sendRay t (.ray tid T.lateCtr q) h off len aid dest cls rrc wver th.pos).lateWait t T tid th la (span q.d 4) [q.p, 15]
  | (s1, .stop (.fault f)) => s1.stopLane t T tid th f
  | (s1, .stop (.absent l)) => s1.park t T tid th (.line l (.ray q la))
  | (s1, .stop .nonres) => s1.lateLane t T tid th la (span q.d 4) [q.p, 15] (q.vals rayMiss.2) (q.preds rayMiss.1 true) 0

/-- LDW (R335, R336, R349). -/
def execLdw (m : WArgs) (s : State) : Res :=
  s.memRun (span m.d.toNat m.sz.regs ++ [m.a.toNat, m.a.toNat + 1]) [15] fun t T tid th =>
    let off := (th.pairAt m.a.toNat).toNat
    let n := m.sz.bytes
    let d := m.d.toNat
    match s.winCheck T ⟨m.handle, off, n, 0, [1, 2], n⟩ with
    | (s1, .bad f) => .next (s1.stopLane t T tid th f)
    | (s1, .ok (.many _ _)) => .next (s1.stopLane t T tid th { code := Code.windowHandle, addr := BitVec.ofNat 64 off, handle := m.handle })
    | (s1, .ok (.one aid dest cls rrc wver)) =>
      match (if rrc && !m.acq then s1.rrcHit T.ctx m.handle wver off else none) with
      | some l =>
        .next (s1.lateLane t T tid th m.la.toNat (span d m.sz.regs) [15] (loadVals m.sz d ((l.data.drop (off % 2048)).take n)) [] 0)
      | none =>
        .next ((s1.sendLoad t (.load tid T.lateCtr m.sz d) m.handle aid dest off n cls m.acq rrc wver th.pos).lateWait
          t T tid th m.la.toNat (span d m.sz.regs) [15])

/-- STW (R335, R336). -/
def execStw (m : WArgs) (s : State) : Res :=
  s.memRun (span m.d.toNat m.sz.regs ++ [m.a.toNat, m.a.toNat + 1]) [] fun t T tid th =>
    let off := (th.pairAt m.a.toNat).toNat
    let n := m.sz.bytes
    match s.winCheck T ⟨m.handle, off, n, 1, [1, 2], n⟩ with
    | (s1, .bad f) => .next (s1.stopLane t T tid th f)
    | (s1, .ok (.many _ _)) => .next (s1.stopLane t T tid th { code := Code.windowHandle, addr := BitVec.ofNat 64 off, handle := m.handle })
    | (s1, .ok (.one aid dest cls _ _)) =>
      let op := TxOp.store (th.storeBytes m.sz m.d.toNat)
      .next (((s1.rrcWrite T.ctx m.handle off n).newTx (mkTx s t (.store tid) m.handle aid dest op off n cls m.acq m.rel none th.pos)).setThread
        t T tid th)

/-- ATW (R335, R332, R367). -/
def execAtw (m : WArgs) (s : State) : Res :=
  s.lane fun _ _ _ th0 =>
    let wide := Size.wide m.sz
    let d := m.d.toNat
    let w := th0.reg d
    s.memRun (atomNames wide d (ctlOp w) ++ [m.a.toNat, m.a.toNat + 1]) [] fun t T tid th =>
      let off := (th.pairAt m.a.toNat).toNat
      let n := m.sz.bytes
      match s.winCheck T ⟨m.handle, off, n, 2, [1, 2], n⟩ with
      | (s1, .bad f) => .next (s1.stopLane t T tid th f)
      | (s1, .ok (.many _ _)) => .next (s1.stopLane t T tid th { code := Code.windowHandle, addr := BitVec.ofNat 64 off, handle := m.handle })
      | (s1, .ok (.one aid dest cls _ _)) =>
        let xy := th.atomArgs wide d
        let op := TxOp.atomic (ctlOp w) (w.getLsbD 3) wide xy.1 xy.2
        .next
          (((s1.rrcWrite T.ctx m.handle off n).newTx (mkTx s t (.atomic tid T.lateCtr wide d) m.handle aid dest op off n cls m.acq m.rel none th.pos)).lateWait
            t T tid th m.la.toNat (atomRegs wide d) [])

/-- One transaction per rank, in rank order (R337). -/
def State.sendRanks (s : State) (t tid batch : Nat) (m : WArgs) (data : List Byte) (off cls : Nat) (pos : Pos) :
    Nat → List (Aid × TxDest) → State
  | _, [] => s
  | r, k :: rest =>
    State.sendRanks (s.newTx (mkTx s t (.mcst tid batch r) m.handle k.1 k.2 (.store data) off data.length cls m.acq m.rel none pos))
      t tid batch m data off cls pos (r + 1) rest

/-- MCST (R337, R366). -/
def execMcst (m : WArgs) (s : State) : Res :=
  s.memRun (span m.d.toNat m.sz.regs ++ [m.a.toNat, m.a.toNat + 1]) [] fun t T tid th =>
    let off := (th.pairAt m.a.toNat).toNat
    let n := m.sz.bytes
    match s.winCheck T ⟨m.handle, off, n, 1, [3], n⟩ with
    | (s1, .bad f) => .next (s1.stopLane t T tid th f)
    | (s1, .ok (.one _ _ _ _ _)) => .next (s1.stopLane t T tid th { code := Code.windowHandle, addr := BitVec.ofNat 64 off, handle := m.handle })
    | (s1, .ok (.many ranks cls)) =>
      .next (((s1.rrcWrite T.ctx m.handle off n).sendRanks t tid s1.txCtr m (th.storeBytes m.sz m.d.toNat) off cls th.pos 0 ranks).setThread t T tid th)

/-! ## RREQ, PREF, FENCE (R330, R331, R338, R339) -/

/-- The record of a residency request (Table 14.4). -/
def rrqRecord (va : Nat) (ctx : CtxId) (team n : Nat) : List Byte :=
  leBytes 8 (va % 2 ^ 56) ++ leBytes 2 ctx.toNat ++ leBytes 2 team ++ leBytes 4 n

/-- Write a request record, or not (R331): the status. -/
def State.request (s : State) (va : Nat) (ctx : CtxId) (team : Nat) : State × Word :=
  match s.ringSlot s.rrq 16 with
  | none => (s, 2)
  | some a => ({ (s.touch none a).store a (rrqRecord va ctx team s.rrq.tail) with rrq := { s.rrq with tail := (s.rrq.tail + 1) % 2 ^ 32 } }, 0)

/-- RREQ (R330). -/
def execRreq (m : MArgs) (s : State) : Res :=
  s.laneRun (m.d.toNat :: mRegs m) [] fun t T tid th =>
    let a := mAddr m th
    let done := fun (s : State) (w : Word) => Host.Outcome.next (s.lateLane t T tid th m.la.toNat [m.d.toNat] [] [(m.d.toNat, w)] [] 0)
    match s.locate T (some tid) a 1 with
    | .inr k => .next (s.stopLane t T tid th (trapAt k 0 a))
    | .inl .bad => .next (s.stopLane t T tid th (trapAt Code.aperture 0 a))
    | .inl (.scr _) => done s 1
    | .inl (.mem _ va) =>
      match s.translate T.ctx T.cluster va with
      | (s1, .entry e) => if e.res then done s1 1 else (let r := s1.request va T.ctx T.index; done r.1 r.2)
      | (s1, _) => let r := s1.request va T.ctx T.index; done r.1 r.2

/-- PREF (R338): changes time only, and raises no fault beyond the decoding checks. -/
def execPref (_ : MArgs) (s : State) : Res := s.lane fun _ _ _ _ => .next s

/-- FENCE (R339): the thread's next memory access waits until its window accesses have been performed; .dev changes time only. -/
def execFence (sc : Scope) (s : State) : Res :=
  s.laneRun [] [] fun t T tid th =>
    .next (s.setThread t T tid { th with fenced := th.fenced || (sc != .dev && !(s.txOf t tid).isEmpty) })

/-! ## Feed counts (R341, R342) -/

/-- The common entry of an instruction with a feed operand among its registers (R193 check 4): `before` and `after` are the registers
checked before and after the feed. -/
def State.feedRun (s : State) (f : Nat) (before after preds : List Nat) (k : Nat → Team → Nat → Thread → Res) : Res :=
  s.lane fun t T tid th =>
    if before.any (fun r => decide (T.regCount th ≤ r)) then .next (s.stopLane t T tid th { code := Code.regRange })
    else if T.img.nfeed ≤ f then .next (s.stopLane t T tid th { code := Code.feedRange })
    else s.laneRun (before ++ after) preds k

/-- FADV (R341). -/
def execFadv (f : Obj) (cons : Bool) (b : Src) (s : State) : Res :=
  s.feedRun f.toNat [] (srcRegs b) [] fun t T tid th =>
    let n := (srcVal b th).toNat
    let F := T.feed f.toNat
    if cons then
      if F.fill < n then .next (s.stopLane t T tid th { code := Code.feedRange })
      else .next (s.setTeam t (T.setFeed f.toNat { F with ccnt := (F.ccnt + n) % 2 ^ 32 }))
    else
      if F.size - F.fill < n then .next (s.stopLane t T tid th { code := Code.feedRange })
      else .next ((s.setTeam t (T.setFeed f.toNat { F with pcnt := (F.pcnt + n) % 2 ^ 32 })).serveRecvs t f.toNat 1024)

/-- The count that FCNT selects. -/
def Feed.count (F : Feed) (sel : FcntSel) : Nat :=
  match sel with
  | .p => F.pcnt
  | .c => F.ccnt
  | .fill => F.fill
  | .room => F.size - F.fill

/-- FCNT (R342). -/
def execFcnt (d : Reg) (f : Obj) (sel : FcntSel) (s : State) : Res :=
  s.feedRun f.toNat [d.toNat] [] [] fun t T tid th =>
    .next (s.setThread t T tid (th.setReg d.toNat (BitVec.ofNat 32 ((T.feed f.toNat).count sel))))

/-! ## Threads parked on a scratch line (R328) -/

/-- Do what a thread released from a line still has to do, against the line as it stands. -/
def State.runTodo (s : State) (t : Nat) (T : Team) (tid : Nat) (th : Thread) (o : Todo) : State :=
  match o with
  | .load z d la off r15 =>
    s.lateLane t T tid th la (span d z.regs) (if r15 then [15] else []) (loadVals z d (T.sbytes off z.bytes)) [] 0
  | .store off data => (s.setTeam t (T.sstore off data)).spoilScr t off data.length
  | .atom op u w off x y dregs la =>
    let old := T.sbytes off (if w then 8 else 4)
    (s.lateLane t (T.sstore off (atomBytes op u w x y old)) tid th la dregs [] (dregs.zip (wordsOf old dregs.length)) [] 0).spoilScr t off (if w then 8 else 4)
  | .atomf off x d la =>
    let old := T.sbytes off 4
    let r := atomfSum old x
    (s.lateLane t (T.sstore off (leBytes 4 r.1)) tid th la [d] [] [(d, BitVec.ofNat 32 (leNat old))] [] r.2).spoilScr t off 4
  | .ray q la => s.rayGo t T tid th q la

/-- A query, which counts as executed when it is done (R186). -/
def Todo.isRay (o : Todo) : Bool := match o with | .ray _ _ => true | _ => false

/-- Release one thread if it is parked on a line. -/
def State.releaseFrom (s : State) (t l tid : Nat) : State :=
  match s.team? t with
  | none => s
  | some T =>
    match T.thread? tid with
    | none => s
    | some th =>
      match th.st with
      | .parked (.line k o) =>
        if k = l then
          let s1 := s.runTodo t T tid th o
          match s1.team? t with
          | some T1 =>
            (match T1.thread? tid with
             | some th1 =>
               (match th1.st with
                | .stopped _ => s1
                | .parked (.line k' _) => if k' = k then s1.unpark t T1 tid th1 else s1
                | _ =>
                  let th2 := if o.isRay && !s1.accessHolds t tid then th1.countDown (fun id => decide (id < T.lateCtr)) else th1
                  s1.unpark t T1 tid th2)
             | none => s1)
          | none => s1
        else s
      | _ => s

/-- A line has landed: its threads go on, by thread id (R328). -/
def State.releaseLine (s : State) (t l : Nat) : State :=
  match s.team? t with
  | none => s
  | some T => (T.threads.map Prod.fst).foldl (fun s tid => s.releaseFrom t l tid) s

end Sys2Proof.Machine
end

