-- ==== Sys2Proof/Machine/Sync.lean ====
section
/-! DEFINITION. The objects on which parties wait: engine queues and their entries (R346, R381, R440, R471), barriers (18.1, 18.4),
joins (9.8), decision queues (R219), result registers (R427, R428), register claims (R429-R431), arithmetic reports (R469)
and the end of a lane thread (R272). -/

namespace Sys2Proof

/-- Commands of the stager's COPY queue (R346). -/
def Machine.EngCmd.isCopy (c : Machine.EngCmd) : Bool := match c with | .copy _ _ _ _ _ _ => true | _ => false
/-- Staging streams (R346). -/
def Machine.EngCmd.isStage (c : Machine.EngCmd) : Bool := match c with | .stage _ _ _ _ _ => true | _ => false
/-- Commands of the cube queue (R381). -/
def Machine.EngCmd.isCube (c : Machine.EngCmd) : Bool :=
  match c with | .cube _ _ _ _ _ _ _ _ => true | .cdrain _ _ _ _ _ _ _ => true | _ => false
/-- Collectives. -/
def Machine.EngCmd.isColl (c : Machine.EngCmd) : Bool := match c with | .coll _ _ _ _ => true | _ => false
/-- Armed tile entries (R422). -/
def Machine.EngCmd.isTile (c : Machine.EngCmd) : Bool := match c with | .tile _ _ _ => true | _ => false

/-- The common fields of a command. -/
def Machine.EngCmd.args? (c : Machine.EngCmd) : Option EArgs :=
  match c with
  | .copy e _ _ _ _ _ => some e
  | .cube e _ _ _ _ _ _ _ => some e
  | .cdrain e _ _ _ _ _ _ => some e
  | .coll e _ _ _ => some e
  | .tile _ _ _ => none
  | .stage _ _ _ _ _ => none

/-- The feeds that a command names (R393). -/
def Machine.EngCmd.feeds (c : Machine.EngCmd) : List Nat :=
  match c with
  | .copy _ sk dk sf df _ => (if sk = .feed then [sf] else []) ++ (if dk = .feed then [df] else [])
  | .cube _ m _ fa fb fc _ _ => [fa, fb] ++ (if m = .two then [] else [fc])
  | .cdrain _ _ _ df _ _ _ => [df]
  | _ => []

/-- The accumulator tile that a command names (R392). -/
def Machine.EngCmd.tile? (c : Machine.EngCmd) : Option Nat :=
  match c with
  | .cube _ _ _ _ _ _ t _ => some t
  | .cdrain _ _ _ _ t _ _ => some t
  | _ => none

/-- The source number of a command's records (Table 20.2): 2 stager, 3 cube, 4 Opal. -/
def Machine.EngCmd.src (c : Machine.EngCmd) : BitVec 4 :=
  match c with
  | .copy _ _ _ _ _ _ => 2
  | .stage _ _ _ _ _ => 2
  | .cube _ _ _ _ _ _ _ _ => 3
  | .cdrain _ _ _ _ _ _ _ => 3
  | .coll _ _ _ _ => 4
  | .tile _ _ _ => 4

end Sys2Proof

namespace Sys2Proof.Machine

/-- Do something with a thread, if it exists. -/
def State.onThread (s : State) (t tid : Nat) (k : Team → Thread → State) : State :=
  match s.team? t with
  | none => s
  | some T => match T.thread? tid with | none => s | some th => k T th

/-- Release a parked thread after changing it; one that has ended stays ended. -/
def State.release (s : State) (t tid : Nat) (f : Thread → Thread) : State :=
  s.onThread t tid fun T th => if th.live then s.unpark t T tid (f th) else s

/-! ## Arithmetic reports (R469) -/

/-- The ARITH record of a lane thread, when it has flags to report. -/
def State.arithLane (s : State) (t tid : Nat) : State :=
  s.onThread t tid fun T th =>
    let new := th.sticky &&& T.xmask &&& ~~~th.reported
    if new = 0 then s
    else
      let T1 := { T.setThread tid { th with reported := th.reported ||| new } with arith := true }
      (s.setTeam t T1).report (T.laneRec tid th.pos { code := Code.arith, info := new.zeroExtend 32 })

/-- The ARITH record of an engine command's flags, at its completion (R380, R456). -/
def State.arithEng (s : State) (t idx : Nat) (src : BitVec 4) (flags : BitVec 5) (info : Word) : State :=
  match s.team? t with
  | none => s
  | some T =>
    if flags &&& T.xmask = 0 then s
    else (s.setTeam t { T with arith := true }).report (T.engRec src idx { code := Code.arith, info := info })

/-! ## Engine entries -/

/-- An entry that stands in an engine's queue. -/
def EngSt.inQueue (st : EngSt) : Bool := match st with | .queued => true | .running => true | .faulted _ => true | _ => false
/-- Held under ATTIME. -/
def EngSt.isHeld (st : EngSt) : Bool := match st with | .held _ => true | _ => false
/-- Faulted. -/
def EngSt.isFaulted (st : EngSt) : Bool := match st with | .faulted _ => true | _ => false
/-- Armed on barrier `k`. -/
def EngSt.armedOn (st : EngSt) (k : Nat) : Bool := match st with | .armed b => b == k | _ => false

/-- Entries of a team that a test names. -/
def Team.countEng (T : Team) (f : Eng → Bool) : Nat := (T.eng.filter fun e => f e.2).length

/-- The teams resident on a core. -/
def State.teamsOn (s : State) (c : Nat) : Map Team := s.teams.filter fun e => e.2.core? == some c

/-- Entries of a core's resident teams that a test names. -/
def State.countCore (s : State) (c : Nat) (f : Eng → Bool) : Nat :=
  (s.teamsOn c).foldl (fun n e => n + e.2.countEng f) 0

/-- An open instance occupies collective slot `k` (R440). -/
def Team.slotOpen (T : Team) (k : Nat) : Bool :=
  T.eng.any fun e => e.2.cmd.slot? == some k && e.2.st.inQueue

/-- There is room for a command in its engine (R346, R381, R440). -/
def State.engRoom (s : State) (T : Team) (c : EngCmd) : Bool :=
  let core := T.core?.getD 0
  if c.isCopy then
    decide (T.countEng (fun e => e.cmd.isCopy && e.st.inQueue) < 16) &&
    decide (s.countCore core (fun e => (e.cmd.isCopy || e.cmd.isStage) && e.st.inQueue) < 64)
  else if c.isStage then decide (s.countCore core (fun e => (e.cmd.isCopy || e.cmd.isStage) && e.st.inQueue) < 64)
  else if c.isCube then
    decide (T.countEng (fun e => e.cmd.isCube && e.st.inQueue) < 8) &&
    decide (s.countCore core (fun e => e.cmd.isCube && e.st.inQueue) < 32)
  else
    match c.slot? with
    | some k =>
      !T.slotOpen k &&
      decide (s.teams.foldl (fun n e => n + e.2.countEng (fun x => x.cmd.isColl && x.st.inQueue)) 0 < 512)
    | none => true

/-- The bits of a COPY's parameter block (Table 14.7). -/
def parAt (par : List Word) (i : Nat) : Nat := (par.getD i 0).toNat
/-- Source address or offset. -/
def copySrc (par : List Word) : Nat := parAt par 0 + 2 ^ 32 * parAt par 1
/-- Destination address or offset. -/
def copyDst (par : List Word) : Nat := parAt par 2 + 2 ^ 32 * parAt par 3
/-- Bytes of a row. -/
def copyRow (par : List Word) : Nat := parAt par 4
/-- Rows. -/
def copyRows (par : List Word) : Nat := parAt par 6 % 65536 + 1
/-- The row length is legal. -/
def copyRowOk (par : List Word) : Bool := copyRow par % 128 == 0 && decide (128 ≤ copyRow par ∧ copyRow par ≤ 16777216)
/-- Lines of a row. -/
def copyLpr (par : List Word) : Nat := copyRow par / 128
/-- Units of a COPY: 128-byte lines in row order (R468). -/
def copyUnits (par : List Word) : Nat := copyRows par * copyLpr par
/-- Address of unit `u` of a side with base and stride in lines. -/
def unitAddr (par : List Word) (base stride u : Nat) : Nat :=
  (base + u / copyLpr par * stride * 128 + u % copyLpr par * 128) % 2 ^ 64
/-- Destination address of a unit. -/
def copyDstAt (par : List Word) (u : Nat) : Nat := unitAddr par (copyDst par) (parAt par 7 / 65536) u
/-- Source address of a unit. -/
def copySrcAt (par : List Word) (u : Nat) : Nat := unitAddr par (copySrc par) (parAt par 7 % 65536) u

/-- The scratch line of an aligned generic address of a team. -/
def Team.scrLine (T : Team) (a : Nat) : Option Nat :=
  if a / 2 ^ 56 = 2 ∧ a % 128 = 0 ∧ a % 2 ^ 56 / 128 < T.slines then some (a % 2 ^ 56 / 128) else none

/-- The scratch line that unit `u` of a command writes through a mem destination, whose presence the unit sets (R345). -/
def EngCmd.unitLine (c : EngCmd) (T : Team) (u : Nat) : Option Nat :=
  match c with
  | .copy _ _ .mem _ _ par => if copyRowOk par then T.scrLine (copyDstAt par u) else none
  | .stage _ _ _ soff _ => some (soff + u)
  | _ => none

/-- Units of a command with presence bits. -/
def EngCmd.units (c : EngCmd) : Nat :=
  match c with
  | .copy _ _ _ _ _ par => copyUnits par
  | .stage _ _ _ _ lines => lines
  | _ => 0

/-- One more datum is pending for a line. -/
def Team.owe (T : Team) (l : Nat) : Team := { T with absent := Map.set 0 T.absent l (Map.get 0 T.absent l + 1) }
/-- One datum fewer. -/
def Team.pay (T : Team) (l : Nat) : Team := { T with absent := Map.set 0 T.absent l (Map.get 0 T.absent l - 1) }

/-- Clear the presence bits of the lines that a COPY covers (R345). -/
def Team.clearPresence (T : Team) (c : EngCmd) : Team :=
  (span 0 c.units).foldl (fun T u => match c.unitLine T u with | some l => T.owe l | none => T) T

/-- A line's pending datum has come or is given up; when none is left its waiters go on (R328, R347). -/
def State.payLine (s : State) (t l : Nat) : State :=
  match s.team? t with
  | none => s
  | some T =>
    let T1 := T.pay l
    if T1.lineAbsent l then s.setTeam t T1 else (s.setTeam t (T1.lineLanded l)).releaseLine t l

/-- A stream ends before its end: every line that it still owes is paid (R347, R473). -/
def State.payRest (s : State) (t : Nat) (e : Eng) : State :=
  if e.st.inQueue then
    (span e.cpos (e.cmd.units - e.cpos)).foldl (fun s u =>
      if e.landed.contains u then s
      else match (s.team? t).bind fun T => e.cmd.unitLine T u with
        | some l => s.payLine t l
        | none => s) s
  else s

/-- Change an engine entry. -/
def State.modEng (s : State) (t idx : Nat) (f : Eng → Eng) : State :=
  s.modTeam t fun T => { T with eng := Map.modify T.eng idx f }

/-- Remove an engine entry: its index is free again (R471). -/
def State.dropEng (s : State) (t idx : Nat) : State := s.modTeam t fun T => { T with eng := Map.erase T.eng idx }

/-- A fresh entry. -/
def Eng.fresh (c : EngCmd) (st : EngSt) (attime : Option DWord) (order : Nat) : Eng :=
  { cmd := c, st := st, attime := attime, cpos := 0, spos := 0, landed := [], order := order, cleared := false, flags := 0, run := none,
    after := (0, 0), since := 0 }

/-- Enter a command into the team's engine table, at the lowest free index (R471). -/
def State.addEng (s : State) (t : Nat) (T : Team) (c : EngCmd) (st : EngSt) (attime : Option DWord) : State × Nat :=
  let idx := (lowestFree (T.eng.map Prod.fst) 0 512).getD 0
  ({ s.setTeam t { T with eng := Map.put T.eng idx (Eng.fresh c st attime s.orderCtr) } with orderCtr := s.orderCtr + 1 }, idx)

/-- The key of a group's sequence counter. -/
def groupKey (ctx : CtxId) (g : BitVec 8) : Nat := 256 * ctx.toNat + g.toNat

/-- A collective instance as it is issued (R440); STAT 1 is no legal address: the block has not been read. -/
def CollRun.fresh (seq : BitVec 16) : CollRun :=
  { seq := seq, started := false, hdr := 0, stage := 0, stagesz := 0, stat := 1, ranks := [], perm := [], me := 0, tiles := [],
    sends := [], asked := [], owed := none, bad := false, wrote := [], coming := [] }

/-- The later of two points, each given by the stores before it. -/
def laterOf (a b : Nat × Nat) : Nat × Nat := (max a.1 b.1, max a.2 b.2)

/-- The present point: the stores to memory and to the team's scratchpad so far. -/
def State.point (s : State) (T : Team) : Nat × Nat := (s.pastCtr, T.sseq)

/-- What the reads of a command follow in any case, at its issue (R358, R359). -/
def State.readsAfter (s : State) (T : Team) (e : Eng) : Nat × Nat :=
  if e.cmd.args?.any fun a => a.acq then s.point T else laterOf e.after T.steer.left

/-- A command with ACQ at POD or SYS may not read yet: a window access that the steering thread made before it, a probe, has not been performed
(R359). -/
def State.acqHeld (s : State) (t : Nat) (e : Eng) : Bool :=
  (e.cmd.args?.any fun a => a.acq && decide (2 ≤ a.scope.toNat)) &&
    s.txs.any fun x => x.2.team == t && x.2.answer.isNone && decide (x.1 < e.since) && (match x.2.owner with | .probe _ _ => true | _ => false)

/-- THE ISSUE OF AN ENGINE COMMAND: it enters its queue; a COPY clears the presence bits that it covers, a COLL takes the next
sequence number of its group (R345, R440). -/
def State.issueEng (s : State) (t idx : Nat) : State :=
  match s.team? t with
  | none => s
  | some T =>
    match Map.find? T.eng idx with
    | none => s
    | some e0 =>
      let e := { e0 with after := s.readsAfter T e0, since := s.txCtr }
      match e.cmd with
      | .copy _ _ _ _ _ _ =>
        let T1 := T.clearPresence e.cmd
        s.setTeam t { T1 with eng := Map.put T1.eng idx { e with st := .queued, attime := none } }
      | .coll _ _ g _ =>
        let k := groupKey T.ctx g
        let q := Map.get 0 s.opal.seqs k
        let s1 := { s with opal := { s.opal with seqs := Map.set 0 s.opal.seqs k (q + 1) } }
        s1.modEng t idx fun _ => { e with st := .queued, attime := none, run := some (CollRun.fresh q) }
      | _ => s.modEng t idx fun _ => { e with st := .queued, attime := none }

/-- Commands that a team holds for a device time (R92). -/
def Team.heldCount (T : Team) : Nat := T.countEng fun e => e.st.isHeld

/-- A fired, waiting command goes on: it is held for its device time when fewer than 8 are (R92, log entry 75), or issued if its engine has
room (R424). -/
def State.tryWaiting (s : State) (t idx : Nat) : State :=
  match s.team? t with
  | none => s
  | some T =>
    match Map.find? T.eng idx with
    | some e =>
      if e.st ≠ .waiting ∨ T.place = .saved then s
      else
        match e.attime with
        | some x => if T.heldCount < 8 then s.modEng t idx fun e => { e with st := .held x } else s
        | none => if s.engRoom T e.cmd then s.issueEng t idx else s
    | none => s

/-- Fired commands that wait, oldest first: order, team and entry. -/
def State.waitingEng (s : State) : List (Nat × Nat × Nat) :=
  sortBy Prod.fst (s.teams.flatMap fun T =>
    (T.2.eng.filter fun e => decide (e.2.st = .waiting)).map fun e => (e.2.order, T.1, e.1))

/-- Give freed room to the fired commands that wait for it, in firing order (R424). -/
def State.drainWaiting (s : State) : State := s.waitingEng.foldl (fun s e => s.tryWaiting e.2.1 e.2.2) s

/-- Stop an engine entry with a stream fault (R467): the team is HELD. -/
def State.stopEng (s : State) (t idx : Nat) (f : Trap) : State :=
  match s.team? t with
  | none => s
  | some T =>
    match Map.find? T.eng idx with
    | none => s
    | some e =>
      let r := T.engRec e.cmd.src idx f
      (s.modEng t idx fun e => { e with st := .faulted r }).report r

/-- The tiles of the open instance of a slot, once its block is read (R443). -/
def Team.slotTiles (T : Team) (k : Nat) : Option Nat :=
  (List.find? (fun (e : Nat × Eng) => e.2.cmd.slot? == some k && e.2.st.inQueue) T.eng).bind fun e =>
    e.2.run.bind fun r => if r.started then some r.tiles.length else none

/-- The check of R443: slot and tile exist. -/
def Team.tileOk (T : Team) (a b : Word) : Bool :=
  decide (a.toNat < 4) && decide (b.toNat < 1024) &&
    (match T.slotTiles a.toNat with | some n => decide (b.toNat < n) | none => true)

/-- Set a ready bit (R443). -/
def Team.setReady (T : Team) (a b : Nat) : Team :=
  let m := Map.get [] T.ready a
  { T with ready := Map.set [] T.ready a (if m.contains b then m else m ++ [b]) }

/-! ## Barriers -/

/-- A lane arrival's mark in a barrier whose thread has ended since: it still counts as an arrival of the phase (R414). -/
def goneMark (tid : Nat) : Nat := 1024 + tid

/-- In live mode ARR holds the number of live threads that have arrived (R414). -/
def Team.recount (T : Team) (k : Nat) : Team :=
  let b := T.bar k
  if b.count = 0 then T.setBar k { b with arr := (b.who.filter fun i => T.liveTids.contains i).length } else T

/-- Count an arrival (R414): of a lane thread, or of the steering thread or an engine. -/
def Team.arrive (T : Team) (k : Nat) (who : Option Nat) : Team :=
  let b := T.bar k
  let names := match who with | some i => if b.who.contains i then b.who else b.who ++ [i] | none => b.who
  if b.count ≠ 0 then T.setBar k { b with arr := b.arr + 1, who := names }
  else (T.setBar k { b with who := names }).recount k

/-- The phase of a barrier is complete (R414). -/
def Team.phaseDone (T : Team) (k : Nat) : Bool :=
  let b := T.bar k
  if b.count ≠ 0 then decide (b.count ≤ b.arr)
  else !b.who.isEmpty && T.liveTids.all fun i => b.who.contains i

/-- An entry named a tile of the open instance in a slot that it does not have: the instance will abort (R444, R460). -/
def Team.badTile (T : Team) (slot : Nat) : Team :=
  { T with eng := T.eng.map fun e =>
      if e.2.cmd.slot? = some slot ∧ e.2.run.any CollRun.started ∧ !e.2.st.isFaulted then (e.1, { e.2 with run := e.2.run.map fun r => { r with bad := true } }) else e }

/-- Fire one armed entry (R422, R424): its reads follow the flip (R358). A tile that the open instance does not have aborts the instance, as
R443's late check does; an entry that fails for itself is the stream at fault (R444, R460; log entry 98). -/
def State.fire (s : State) (t idx : Nat) : State :=
  match s.team? t with
  | none => s
  | some T =>
    match Map.find? T.eng idx with
    | none => s
    | some e =>
      match e.cmd with
      | .tile _ a b =>
        if T.tileOk a b then (s.modTeam t fun T => T.setReady a.toNat b.toNat).dropEng t idx
        else if a.toNat < 4 ∧ b.toNat < 1024 then (s.modTeam t fun T => T.badTile a.toNat).dropEng t idx
        else s.stopEng t idx { code := Code.indexRange }
      | _ =>
        let s1 := s.modEng t idx fun e => { e with st := .waiting, order := s.orderCtr, after := s.point T, since := s.txCtr }
        ({ s1 with orderCtr := s.orderCtr + 1 }).tryWaiting t idx

/-- The entries armed on a barrier, in the order they were armed. -/
def Team.armedOn (T : Team) (k : Nat) : List Nat :=
  (sortBy (fun (e : Nat × Eng) => e.2.order) (T.eng.filter fun e => e.2.st.armedOn k)).map Prod.fst

/-- The threads that wait on a barrier with a token unlike its phase. -/
def Team.passed (T : Team) (k : Nat) : List Nat :=
  (T.threads.filter fun e => match e.2.st with | .parked (.barrier j tok) => j == k && tok != (T.bar k).ph | _ => false).map Prod.fst

/-- A steering thread that waits on a barrier with a token unlike its phase goes on, and has left the flip behind it (R416, R418, R358). -/
def Steer.passBar (st : Steer) (k : Nat) (b : Bar) : Steer :=
  match st.st with
  | .blocked (.sbarw j tok next) => if j = k ∧ tok ≠ b.ph then { st.goOn next with left := laterOf st.left b.flip } else st
  | _ => st

/-- THE FLIP (R415): the phase is inverted, the arrivals start again, the armed entries fire, the waiting threads go on. -/
def State.flip (s : State) (t k : Nat) : State :=
  match s.team? t with
  | none => s
  | some T =>
    let b := T.bar k
    let b1 := { b with arr := 0, ph := !b.ph, who := [], flip := s.point T }
    let T1 := { T.setBar k b1 with stuckSince := none }
    let s1 := (T1.armedOn k).foldl (fun s i => s.fire t i) (s.setTeam t T1)
    let s2 := s1.modTeam t fun T => { T with steer := T.steer.passBar k b1 }
    (T1.passed k).foldl (fun s tid => s.release t tid id) s2

/-- The completion test (R414). -/
def State.testBar (s : State) (t k : Nat) : State :=
  match s.team? t with
  | none => s
  | some T => if T.phaseDone k then s.flip t k else s

/-- An arrival at a barrier: one event (R415). -/
def State.arriveBar (s : State) (t k : Nat) (who : Option Nat) : State := (s.modTeam t fun T => T.arrive k who).testBar t k

/-! ## Joins (R226-R228) -/

/-- Threads in chunks of at most 32. -/
def chunks32 : Nat → List Nat → List (List Nat)
  | 0, _ => []
  | fuel + 1, l => if l.isEmpty then [] else l.take 32 :: chunks32 fuel (l.drop 32)

/-- Write the status of a join to a thread and let it continue behind the JOIN. -/
def Thread.leaveJoin (th : Thread) (status : Bool) : Thread :=
  match th.st with
  | .parked (.join _ p) => (th.setPred p status).enterFormer th.nextPos
  | _ => th

/-- The distinct (partition, position) pairs of threads. -/
def Team.places (T : Team) (tids : List Nat) : List (Nat × Pos) :=
  tids.foldl (fun l i => match T.thread? i with
    | some th => if l.contains (th.part, th.pos) then l else l ++ [(th.part, th.pos)]
    | none => l) []

/-- The arrived threads of a slot go on together, one former group per partition and position (R226). -/
def State.releaseJoin (s : State) (t j : Nat) (status : Bool) : State :=
  match s.team? t with
  | none => s
  | some T =>
    let x := T.join j
    let T1 := x.arrived.foldl (fun T i => T.modThread i fun th => th.leaveJoin status) T
    let T2 := { T1.setJoin j ⟨[], [], false, none⟩ with stuckSince := none }
    (T2.places x.arrived).foldl (fun s pp =>
      let here := x.arrived.filter fun i => match T2.thread? i with | some th => decide (th.part = pp.1 ∧ th.pos = pp.2) | none => false
      (chunks32 here.length here).foldl (fun s g => s.formerAdd T2 t g pp.2 pp.1 true) s) (s.setTeam t T2)

/-- The two tests of a slot at the end of an aclk: completion, then the deadline (R226, R227). -/
def State.testJoin (s : State) (t j : Nat) : State :=
  match s.team? t with
  | none => s
  | some T =>
    let x := T.join j
    if !x.armed then s
    else if x.mask.all fun i => x.arrived.contains i then s.releaseJoin t j false
    else
      match x.deadline with
      | some d => if d ≤ s.clock then s.releaseJoin t j true else s
      | none => s

/-! ## Decision queues (R219, R310, R311) -/

/-- The head of a queue: the oldest entry not popped by every live thread of the role. -/
def Team.queueHead (T : Team) (k : Nat) : Nat :=
  (T.liveOf k).foldl (fun h i => match T.thread? i with | some th => min h th.dpos | none => h) (T.role k).dq.tail

/-- Move the head of a role's queue. -/
def Team.rehead (T : Team) (k : Nat) : Team := T.modRole k fun r => { r with dq := { r.dq with head := T.queueHead k } }

/-- What a thread pops: the value with its status, or nothing yet (R310). -/
def Team.popDq (T : Team) (th : Thread) : Option (Word × Bool) :=
  let q := (T.role th.role).dq
  if th.dpos < q.tail then some (Map.get 0 q.ent (th.dpos % 32), true)
  else if q.closed then some (0, false) else none

/-- A thread with its popped value. -/
def Thread.takeDq (th : Thread) (d : Nat) (p : Option Nat) (v : Word × Bool) : Thread :=
  let th1 := (if v.2 then { th with dpos := th.dpos + 1 } else th).setReg d v.1
  match p with | some n => th1.setPred n v.2 | none => th1

/-- Serve one thread that is parked on its queue. -/
def State.servePop (s : State) (t tid : Nat) : State :=
  s.onThread t tid fun T th =>
    match th.st with
    | .parked (.queue d p) =>
      (match T.popDq th with
       | some v => (s.unpark t T tid (th.takeDq d p v)).modTeam t fun T => T.rehead th.role
       | none => s)
    | _ => s

/-- Serve every thread of a role that is parked on its queue. -/
def State.serveQueue (s : State) (t k : Nat) : State :=
  match s.team? t with
  | none => s
  | some T => (T.liveOf k).foldl (fun s tid => s.servePop t tid) (s.modTeam t fun T => T.rehead k)

/-! ## Result registers (R427, R428) -/

/-- The smaller or larger of FP32 contributions under R279 without PROP. -/
def redFm (mx : Bool) (xs : List Word) : Word :=
  match xs.filter fun x => !(f32 x).isNan with
  | [] => 0x7FC00000
  | a :: r => r.foldl (fun m x => BitVec.ofNat 32 (Fmt.fp32.minmax mx false m.toNat x.toNat).1) a

/-- The combined value of a set of contributions (Table 18.4). -/
def redCombine (op : RedOp) (xs : List Word) : Word :=
  match op, xs with
  | .cnt, _ => BitVec.ofNat 32 xs.length
  | .fadd, _ => BitVec.ofNat 32 (Fmt.fp32.sum .rn (xs.map f32)).1
  | .fmin, _ => redFm false xs
  | .fmax, _ => redFm true xs
  | _, [] => 0
  | .add, a :: r => r.foldl (· + ·) a
  | .min, a :: r => r.foldl (Alu.min false) a
  | .max, a :: r => r.foldl (Alu.max false) a
  | .umin, a :: r => r.foldl (Alu.min true) a
  | .umax, a :: r => r.foldl (Alu.max true) a
  | .and, a :: r => r.foldl (· &&& ·) a
  | .or, a :: r => r.foldl (· ||| ·) a
  | .xor, a :: r => r.foldl (· ^^^ ·) a

/-- The operation of an instance: that of its lowest contributing thread. -/
def RedStep.op (r : RedStep) : RedOp :=
  match sortBy (fun (c : Nat × Word × RedOp) => c.1 % 1024) r.contribs with | [] => .add | a :: _ => a.2.2

/-- The open instances of a role and register: number of the oldest, and the list. -/
def Role.redAt (r : Role) (n : Nat) : Nat × List RedStep := Map.get (0, []) r.red n

/-- Close every oldest instance to which all live threads of the role have contributed (R428). -/
def Team.closeRed (T : Team) (k n : Nat) : Nat → Team
  | 0 => T
  | fuel + 1 =>
    let r := (T.role k).redAt n
    match r.2 with
    | [] => T
    | J :: rest =>
      if (T.liveOf k).all fun i => J.contribs.any fun c => c.1 == i then
        let q := Map.get (0, 0) T.q n
        let v := redCombine J.op (J.contribs.map fun c => c.2.1)
        let T1 := { T with q := Map.set (0, 0) T.q n (v, q.2 + 1) }
        (T1.modRole k fun x => { x with red := Map.set (0, []) x.red n (r.1 + 1, rest) }).closeRed k n fuel
      else T

/-- A thread's next instance would be the fifth open one (R428). -/
def Team.redFull (T : Team) (th : Thread) (n : Nat) : Bool :=
  decide (4 ≤ Map.get 0 th.nxt n - ((T.role th.role).redAt n).1)

/-- Add a contribution of a thread to its next instance (R428). -/
def Team.contribute (T : Team) (tid : Nat) (th : Thread) (n : Nat) (op : RedOp) (x : Word) : Team :=
  let j := Map.get 0 th.nxt n
  let r := (T.role th.role).redAt n
  let i := j - r.1
  let l := if i < r.2.length then r.2.modify i (fun (J : RedStep) => { J with contribs := J.contribs ++ [(tid, x, op)] })
    else r.2 ++ [⟨[(tid, x, op)]⟩]
  (T.modRole th.role fun y => { y with red := Map.set (0, []) y.red n (r.1, l) }).setThread tid
    { th with nxt := Map.set 0 th.nxt n (j + 1) }

/-- Close what is complete, then let one parked thread contribute, and again. -/
def State.serveRed (s : State) (t k n : Nat) : Nat → State
  | 0 => s
  | fuel + 1 =>
    match s.team? t with
    | none => s
    | some T =>
      let T1 := T.closeRed k n 5
      let s1 := s.setTeam t T1
      match List.find? (fun (e : Nat × Thread) => e.2.role == k &&
          (match e.2.st with | .parked (.redq m _ _) => m == n && !T1.redFull e.2 n | _ => false)) T1.threads with
      | some (tid, th) =>
        (match th.st with
         | .parked (.redq _ op x) =>
           State.serveRed ((s1.setTeam t (T1.contribute tid th n op x)).release t tid id) t k n fuel
         | _ => s1)
      | none => s1

/-- Test the instances of a role's register (R428). -/
def State.testRed (s : State) (t k n : Nat) : State := s.serveRed t k n 1025

/-! ## Registers of a core and claims (R126-R131, R429-R431) -/

/-- Contexts that a team holds for a role in a partition: live and held free (R126). -/
def Team.ctxIn (T : Team) (k p : Nat) : Nat :=
  (T.threads.filter fun e => e.2.live && e.2.role == k && e.2.part == p).length + ((T.role k).held.filter (· == p)).length

/-- Contexts of a team in a partition. -/
def Team.ctxAll (T : Team) (p : Nat) : Nat := (span 0 T.roles.length).foldl (fun n k => n + T.ctxIn k p) 0
/-- Registers of a team in a partition. -/
def Team.regsIn (T : Team) (p : Nat) : Nat := (span 0 T.roles.length).foldl (fun n k => n + (T.role k).nreg * T.ctxIn k p) 0

/-- Free registers of a partition. -/
def State.partFree (s : State) (c p : Nat) : Int :=
  (Config.partRegs : Int) - ((s.teamsOn c).foldl (fun n e => n + e.2.regsIn p) 0 : Nat)
/-- Free contexts of a partition. -/
def State.partCtx (s : State) (c p : Nat) : Int :=
  (Config.partContexts : Int) - ((s.teamsOn c).foldl (fun n e => n + e.2.ctxAll p) 0 : Nat)
/-- The core pool (R129). -/
def State.corePool (s : State) (c : Nat) : Int :=
  (span 0 4).foldl (fun n p => n + s.partFree c p) 0 - ((s.teamsOn c).foldl (fun n e => n + e.2.reserve) 0 : Nat)

/-- Every live thread of a role has arrived at its claim. -/
def Team.claimFull (T : Team) (k : Nat) : Bool :=
  let l := (T.role k).claim
  !l.isEmpty && (T.liveOf k).all fun i => l.any fun a => a.tid == i

/-- End a claim instance: the status goes to every arrived thread, which goes on. -/
def State.endClaim (s : State) (t k : Nat) (ok : Bool) : State :=
  match s.team? t with
  | none => s
  | some T =>
    let l := (T.role k).claim
    let s1 := s.setTeam t (T.modRole k fun r => { r with claim := [] })
    l.foldl (fun s a => s.release t a.tid fun th => th.setPred a.p ok) s1

/-- The arrivals agree (R431). -/
def claimAgrees (l : List ClaimArr) : Bool :=
  match l with
  | [] => true
  | a :: r => r.all fun b => b.n == a.n && b.rel == a.rel && b.pool == a.pool

/-- Drop registers from `lo` on of every context of a role: they read zero when they come back. -/
def Team.dropRegs (T : Team) (k lo : Nat) : Team :=
  { T with threads := T.threads.map (fun e => if e.2.role = k then (e.1, { e.2 with v := e.2.v.filter fun x => decide (x.1 < lo) }) else e) }

/-- Complete a claim instance, if it can be: granted, performed, or failed because its arrivals differ (R431). -/
def State.claimStep (s : State) (t k : Nat) : Option State :=
  match s.team? t with
  | none => none
  | some T =>
    let r := T.role k
    match r.claim with
    | [] => none
    | a :: _ =>
      if !T.claimFull k then none
      else if !claimAgrees r.claim then some (s.endClaim t k false)
      else
        let need := fun p => a.n * T.ctxIn k p
        let tot := need 0 + need 1 + need 2 + need 3
        if a.rel then
          let T1 := ({ T with reserve := if a.pool then T.reserve else T.reserve + tot }).modRole k fun r => { r with nreg := r.nreg - a.n }
          some ((s.setTeam t (T1.dropRegs k (r.nreg - a.n))).endClaim t k true)
        else
          match T.core? with
          | none => none
          | some c =>
            let u := min T.reserve tot
            if (span 0 4).all (fun p => decide ((need p : Int) ≤ s.partFree c p)) && decide (0 ≤ s.corePool c - tot + u) then
              let T1 := ({ T with reserve := T.reserve - u }).modRole k fun r => { r with nreg := r.nreg + a.n }
              some ((s.setTeam t (T1.dropRegs k r.nreg)).endClaim t k true)
            else none

/-- The pending claims of a core with every arrival, the oldest first: order, team and role. -/
def State.pendingClaims (s : State) (c : Nat) : List (Nat × Nat × Nat) :=
  sortBy Prod.fst ((s.teamsOn c).flatMap fun e =>
    ((span 0 e.2.roles.length).filter fun k => e.2.claimFull k).map fun k => ((e.2.role k).claimOrder, e.1, k))

/-- Among the pending claims of a core, any that can be granted is granted, the oldest first (R431); `fuel` bounds the grants. -/
def State.reconsiderCore (s : State) (c : Nat) : Nat → State
  | 0 => s
  | fuel + 1 =>
    match (s.pendingClaims c).findSome? fun e => s.claimStep e.2.1 e.2.2 with
    | some s1 => State.reconsiderCore s1 c fuel
    | none => s

/-- The pending claims of a core are reconsidered: at most 16 teams of 4 roles have one each. -/
def State.reconsider (s : State) (c : Option Nat) : State := match c with | none => s | some c => s.reconsiderCore c 64

/-- The pending claims of a team's core are reconsidered. -/
def State.reconsiderFor (s : State) (t : Nat) : State := s.reconsider ((s.team? t).bind Team.core?)

/-! ## CWAIT's reads (R426) -/

/-- CWAIT reads its word: the steering thread goes on, waits, or stops. -/
def State.cwaitRead (s : State) (t : Nat) (T : Team) (g want : DWord) (next : Pos) : State :=
  let test := fun (s : State) (bs : List Byte) =>
    if want.toNat ≤ leNat bs then s.setSteer t T { T.steer with st := .running, nextPos := next } else s.steerWait t T (.cwait g want next)
  match s.locate T none g 8 with
  | .inr k => s.stopSteer t T (trapAt k 0 g)
  | .inl .bad => s.stopSteer t T (trapAt Code.aperture 0 g)
  | .inl (.scr o) => if T.lineAbsent (o / 128) then s.steerWait t T (.cwait g want next) else test s (T.sbytes o 8)
  | .inl (.mem _ va) =>
    match s.judgeLoad T.ctx T.cluster false va with
    | (s1, .ok pa _) => test s1 (s1.bytes pa 8)
    | (s1, .nonres) => s1.stopSteer t T (trapAt Code.storeNonres 0 g)
    | (s1, .bad k q) => s1.stopSteer t T (trapAt k q g)

/-- A blocked CWAIT reads its word again; not while its team is saved or being saved (R476). -/
def State.pollCwait (s : State) (t : Nat) : State :=
  match s.team? t with
  | none => s
  | some T =>
    match T.steer.st with
    | .blocked (.cwait g want next) =>
      if T.phase ≠ .running ∨ T.core?.isNone ∨ T.killed then s else (s.cwaitRead t T g want next).steerOn t
    | _ => s

/-- The blocked CWAITs of a context read their words again, at each event of R86. -/
def State.pollCwaits (s : State) (ctx : CtxId) : State :=
  (s.teams.filter fun e => e.2.ctx == ctx).foldl (fun s e => s.pollCwait e.1) s

/-! ## The end of a lane thread (R272, R473) -/

/-- The tests that follow an exit, a kill or a spawn in a role: queue, results, claims (R219, R228, R414, R428, R431). -/
def State.afterLive (s : State) (t k : Nat) : State :=
  let s1 := s.serveQueue t k
  let s2 := (span 0 8).foldl (fun s n => s.testRed t k n) s1
  s2.reconsiderFor t

/-- Remove a thread from every join, barrier and claim that holds it; what it gave to a barrier or a result stays, under a name that no later
thread has (R414, R428). -/
def Team.forget (T : Team) (tid : Nat) : Team :=
  { T with
    joins := T.joins.map (fun e => (e.1, { e.2 with mask := e.2.mask.filter (· ≠ tid), arrived := e.2.arrived.filter (· ≠ tid) })),
    bars := T.bars.map (fun e => (e.1, { e.2 with who := e.2.who.map fun i => if i = tid then goneMark tid else i })),
    roles := T.roles.map fun r =>
      { r with
        claim := r.claim.filter fun a => a.tid ≠ tid
        red := r.red.map fun e => (e.1, e.2.1, e.2.2.map fun J => { J with contribs := J.contribs.map fun c => if c.1 = tid then (goneMark tid, c.2) else c }) } }

/-- THE END OF A LANE THREAD by EXIT or KILLTHREAD: pending register writes are discarded, with the flags that would come with them (R272, log entry
96); the context stays with the team, the
objects that waited for the thread are tested (R126, R219, R228, R272, R414, R428, R431). -/
def State.endThread (s : State) (t tid : Nat) : State :=
  match s.team? t with
  | none => s
  | some T =>
    match T.thread? tid with
    | none => s
    | some th =>
      let T1 := (T.setThread tid { th with st := .exited, late := [] }).modRole th.role fun r => { r with held := r.held ++ [th.part] }
      let T2 := T1.forget tid
      let T3 := (span 0 32).foldl (fun T k => T.recount k) T2
      let s1 := (s.setTeam t T3).leaveAll t T tid
      let s2 := ((span 0 32).filter fun k => (T3.bar k).count == 0).foldl (fun s k => s.testBar t k) s1
      s2.afterLive t th.role

end Sys2Proof.Machine
end

