-- ==== Sys2Proof/Machine/Launch.lean ====
section
/-! DEFINITION. How work comes to the device: the judgement of a launch (R30-R50), acceptance, waits and eligibility (R82-R89), the work
queues with their doorbells and records (R75-R81). -/

namespace Sys2Proof.Machine

/-! ## Reading the objects of a launch (R37, Table 2.9) -/

/-- Bytes `off` to `off + n` of a block, as a number. -/
def fld (bs : List Byte) (off n : Nat) : Nat := leNat ((bs.drop off).take n)

/-- Read in the global aperture of a context: none stands for every cause of IMG_READ. -/
def State.readGlobal (s : State) (ctx : CtxId) (va n : Nat) : State × Option (List Byte) :=
  match Map.find? s.ctxs ctx.toNat with
  | none => (s, none)
  | some c =>
    if 2 ^ 56 < va + n ∨ c.arena va n then (s, none)
    else
      match s.readCtx ctx none (linesFor n) va n with
      | (s1, .ok bs) => (s1, some bs)
      | (s1, _) => (s1, none)

/-! ## Launch status (Table 2.9) and path status (Table 4.5) -/

/-- IMG_READ -/
def imgRead : Nat := 1
/-- DESC_FIELD -/
def descField : Nat := 2
/-- IMG_HEADER -/
def imgHeader : Nat := 3
/-- NO_FIT -/
def noFit : Nat := 4
/-- SCRATCH_LAYOUT -/
def scratchLayout : Nat := 5
/-- GANG_SHAPE -/
def gangShape : Nat := 6

/-! ## The descriptor (Tables 2.4-2.6) -/

/-- Role entry k: threads, registers, entry; and whether its reserved bits are zero. -/
def roleEntry (bs : List Byte) (k : Nat) : (Nat × Nat × Nat) × Bool :=
  let lo := fld bs (0x40 + 8 * k) 4
  let hi := fld bs (0x44 + 8 * k) 4
  ((field lo 0 11, field lo 11 8, field hi 0 24), lo / 2 ^ 19 == 0 && hi / 2 ^ 24 == 0)

/-- Wait entry i: address and value. -/
def waitEntry (bs : List Byte) (i : Nat) : DWord × DWord :=
  (BitVec.ofNat 64 (fld bs (0x60 + 16 * i) 8), BitVec.ofNat 64 (fld bs (0x68 + 16 * i) 8))

/-- The fields of a descriptor; regions, feeds and barriers are read later. -/
def descOf (bs : List Byte) : Desc :=
  let w10 := fld bs 0x10 4
  let w18 := fld bs 0x18 4
  let w1c := fld bs 0x1C 4
  let w20 := fld bs 0x20 4
  let w24 := fld bs 0x24 4
  { kimg := fld bs 0 8, args := BitVec.ofNat 64 (fld bs 8 8), nteam := field w10 0 24, nrole := field w10 24 2 + 1,
    gang := flag w10 26, prio := field w10 28 4, sentry := fld bs 0x14 3, slines := field w18 0 14, acc := field w18 14 5,
    priv := field w1c 0 17, lspill := field w1c 17 8, rres := field w20 0 13, xmask := BitVec.ofNat 5 (field w20 16 5),
    ccnt := fld bs 0x30 8, ggrp := fld bs 0x38 1,
    roles := (span 0 (field w10 24 2 + 1)).map fun k => (roleEntry bs k).1,
    waits := (span 0 (field w24 5 3)).map (waitEntry bs),
    iargs := (span 0 24).map (fun i => BitVec.ofNat 32 (fld bs (0xA0 + 4 * i) 4)),
    regions := [], feeds := [], bars := [] }

/-- The number of region entries and the table's address. -/
def descRegt (bs : List Byte) : Nat × Nat := (field (fld bs 0x24 4) 0 5, fld bs 0x28 8)

/-- Every reserved field of the descriptor is zero (Table 2.4, R38). -/
def descReservedOk (bs : List Byte) : Bool :=
  let w20 := fld bs 0x20 4
  !flag (fld bs 0x10 4) 27 && fld bs 0x17 1 == 0 && fld bs 0x18 4 / 2 ^ 19 == 0 && fld bs 0x1C 4 / 2 ^ 25 == 0 &&
    field w20 13 3 == 0 && w20 / 2 ^ 21 == 0 && fld bs 0x24 4 / 2 ^ 8 == 0 && fld bs 0x38 4 / 2 ^ 8 == 0 && fld bs 0x3C 4 == 0 &&
    (span 0 (descOf bs).nrole).all fun k => (roleEntry bs k).2

/-- The ranges of a role in use (Table 2.5). -/
def roleOk (r : Nat × Nat × Nat) : Bool := decide (1 ≤ r.1 ∧ r.1 ≤ 1024 ∧ 4 ≤ r.2.1 ∧ r.2.1 ≤ 128 ∧ r.2.1 % 4 = 0)

/-- Step 2 of R50: the descriptor's own fields. -/
def descOk (bs : List Byte) : Bool :=
  let d := descOf bs
  let rt := descRegt bs
  descReservedOk bs && decide (d.kimg < 2 ^ 56 ∧ d.kimg % 256 = 0 ∧ 1 ≤ d.nteam ∧ d.slines ≤ 8192 ∧ d.acc ≤ 16 ∧ d.priv ≤ 65536 ∧
    d.lspill * 64 ≤ d.priv * 256 ∧ rt.1 ≤ 16 ∧ d.waits.length ≤ 4 ∧ d.ccnt % 8 = 0) &&
    (rt.1 == 0 || rt.2 % 16 == 0) && d.roles.all roleOk && decide ((d.roles.map Prod.fst).sum ≤ 1024) &&
    d.waits.all fun w => w.1.toNat % 8 == 0

/-- Region entry i of the table's bytes: address, mode, lines, scratch line, stride; and whether it obeys Table 2.7. -/
def regionEntry (bs : List Byte) (i : Nat) : (Nat × Nat × Nat × Nat × Nat) × Bool :=
  let lo := fld bs (16 * i) 8
  let hi := fld bs (16 * i + 8) 8
  let va := field lo 0 56
  let mode := field lo 56 2
  let n := field hi 0 24
  ((va, mode, n, field hi 32 13, hi / 2 ^ 45), decide (lo / 2 ^ 58 = 0 ∧ field hi 24 8 = 0 ∧ va % 128 = 0 ∧ mode ≠ 3 ∧ 1 ≤ n))

/-! ## The image header (R31, Table 2.1) -/

/-- The header's sections: byte ranges in use, with the header itself. -/
def sections (h : List Byte) : List (Nat × Nat) :=
  let dictn := field (fld h 0x18 4) 0 11
  let decl := field (fld h 0x28 4) 0 6 + field (fld h 0x28 4) 6 6
  [(0, 64), (fld h 0x0C 4, fld h 0x0C 4 + 4 * fld h 0x10 3)] ++
    (if dictn = 0 then [] else [(fld h 0x14 4, fld h 0x14 4 + 4 * dictn)]) ++
    (if fld h 0x20 4 = 0 then [] else [(fld h 0x1C 4, fld h 0x1C 4 + fld h 0x20 4)]) ++
    (if decl = 0 then [] else [(fld h 0x24 4, fld h 0x24 4 + 4 * decl)])

/-- No two ranges share a byte. -/
def disjoint : List (Nat × Nat) → Bool
  | [] => true
  | a :: r => r.all (fun b => decide (a.2 ≤ b.1 ∨ b.2 ≤ a.1)) && disjoint r

/-- Step 5 of R50: the header under R31 and Table 2.1. -/
def headerOk (h : List Byte) : Bool :=
  let isize := fld h 8 4
  let w18 := fld h 0x18 4
  let w28 := fld h 0x28 4
  decide (fld h 0 4 = 0x4F5A4B39 ∧ fld h 4 4 = 1 ∧ 64 ≤ isize ∧ isize ≤ 67108864 ∧ fld h 0x0C 4 % 4 = 0 ∧ 64 ≤ fld h 0x0C 4 ∧
    1 ≤ fld h 0x10 3 ∧ fld h 0x13 1 = 0 ∧ w18 ≤ 1024 ∧ w28 / 2 ^ 12 = 0 ∧ field w28 0 6 ≤ 32 ∧ field w28 6 6 ≤ 32 ∧
    fld h 0x2C 4 ≤ 8192 ∧ fld h 0x30 16 = 0) &&
    (w18 == 0 || fld h 0x14 4 % 4 == 0) && (fld h 0x20 4 == 0 || fld h 0x1C 4 % 128 == 0) &&
    (w28 == 0 || fld h 0x24 4 % 4 == 0) && (sections h).all (fun r => decide (r.2 ≤ isize)) && disjoint (sections h)

/-- The header's fields that execution uses. -/
def imageOf (kimg : Nat) (h : List Byte) : Image :=
  ⟨kimg, fld h 0x0C 4, fld h 0x10 3, fld h 0x14 4, fld h 0x18 4, field (fld h 0x28 4) 0 6, fld h 0x2C 4⟩

/-! ## The declaration block (R35, R36, Tables 2.2, 2.3) -/

/-- A feed entry's rules that need no team. -/
def feedOk (w : Nat) : Bool :=
  let l := field w 13 5
  decide (w / 2 ^ 18 = 0 ∧ 9 ≤ l ∧ l ≤ 19) && (field w 0 13 * 128) % min (2 ^ l) 4096 == 0

/-- A barrier entry's reserved bits. -/
def barOk (w : Nat) : Bool := w / 2 ^ 16 == 0

/-- Scratch byte ranges of the feed rings and the staged regions. -/
def Desc.ranges (d : Desc) : List (Nat × Nat) :=
  d.feeds.map (fun f => (f.1 * 128, f.1 * 128 + 2 ^ f.2)) ++
    (d.regions.filter fun r => r.2.1 != 0).map (fun r => (r.2.2.2.1 * 128, (r.2.2.2.1 + r.2.2.1) * 128))

/-- The registers of a team at launch (R40). -/
def Desc.regs (d : Desc) : Nat := (d.roles.map fun r => r.1 * r.2.1).sum

/-! ## THE LAUNCH CHECK (R50) -/

/-- The outcome of the checks: a launch status, or the launch. -/
inductive Judged where
  | refused (status : Nat)
  | ok (d : Desc) (i : Image)
  deriving DecidableEq, Repr

/-- Step 10: the group of a gang, in the launching context (R49). -/
def State.judgeGang (s : State) (ctx : CtxId) (d : Desc) (i : Image) : State × Judged :=
  if !d.gang then (s, .ok d i)
  else
    match s.readGroup ctx none d.ggrp with
    | (s1, .ok _ ranks) =>
      if ranks.length ≤ 64 ∧ d.nteam ≤ 64 ∧ !ranks.any GRank.xp then (s1, .ok d i) else (s1, .refused gangShape)
    | (s1, .broken _) => (s1, .refused gangShape)
    | (s1, _) => (s1, .refused imgRead)

/-- Steps 8 and 9: R40, then the scratchpad. -/
def State.judgeLayout (s : State) (d : Desc) (i : Image) : State × Judged :=
  if 262144 < d.regs + 32 * d.rres then (s, .refused noFit)
  else if d.slines < i.minsl ∨ !d.ranges.all (fun r => decide (r.2 ≤ d.slines * 128)) ∨ !disjoint d.ranges then
    (s, .refused scratchLayout)
  else (s, .ok d i)

/-- Step 7: the declaration block of `nf` feeds and `nb` barriers at offset `off`. -/
def State.judgeDecl (s : State) (ctx : CtxId) (d : Desc) (i : Image) (off nf nb : Nat) : State × Judged :=
  if nf + nb = 0 then s.judgeLayout d i
  else
    match s.readGlobal ctx (d.kimg + off) (4 * (nf + nb)) with
    | (s1, none) => (s1, .refused imgRead)
    | (s1, some bs) =>
      let fs := (span 0 nf).map fun k => fld bs (4 * k) 4
      let rs := (span nf nb).map fun k => fld bs (4 * k) 4
      if fs.all feedOk && rs.all barOk then
        s1.judgeLayout { d with feeds := fs.map (fun w => (field w 0 13, field w 13 5)), bars := rs } i
      else (s1, .refused imgHeader)

/-- Steps 5 and 6: the image header, then the entry points. -/
def State.judgeImage (s : State) (ctx : CtxId) (d : Desc) : State × Judged :=
  match s.readGlobal ctx d.kimg 64 with
  | (s1, none) => (s1, .refused imgRead)
  | (s1, some h) =>
    let i := imageOf d.kimg h
    if !headerOk h then (s1, .refused imgHeader)
    else if !i.inCode d.sentry ∨ !d.roles.all (fun r => i.inCode r.2.2) then (s1, .refused descField)
    else s1.judgeDecl ctx d i (fld h 0x24 4) (field (fld h 0x28 4) 0 6) (field (fld h 0x28 4) 6 6)

/-- Steps 2 to 9, on a descriptor as it was read; a member of a gang is checked so in its own context (R49). -/
def State.judgeDesc (s : State) (ctx : CtxId) (bs : List Byte) : State × Judged :=
  let d := descOf bs
  let rt := descRegt bs
  if !descOk bs then (s, .refused descField)
  else if rt.1 = 0 then s.judgeImage ctx d
  else
    match s.readGlobal ctx rt.2 (16 * rt.1) with
    | (s1, none) => (s1, .refused imgRead)
    | (s1, some rs) =>
      let es := (span 0 rt.1).map (regionEntry rs)
      if es.all Prod.snd then s1.judgeImage ctx { d with regions := es.map Prod.fst } else (s1, .refused descField)

/-- Steps 1 to 10: the descriptor's bytes with the judgement: every line is read at one moment (log entry 89). An address that is not a multiple of 256
is judged as a field (log entry 76). -/
def State.judgeLaunch (s : State) (ctx : CtxId) (ldesc : Nat) : State × List Byte × Judged :=
  match s.readGlobal ctx ldesc 256 with
  | (s1, none) => (s1, [], .refused imgRead)
  | (s1, some bs) =>
    if ldesc % 256 ≠ 0 then (s1, bs, .refused descField)
    else
      match s1.judgeDesc ctx bs with
      | (s2, .ok d i) => let r := s2.judgeGang ctx d i; (r.1, bs, r.2)
      | (s2, r) => (s2, bs, r)

/-! ## Grid numbers (Table 9.2) -/

/-- A number that a list does not hold: the free choice of log entry 5 where it is one of the `m`, else the lowest. -/
def freeNumber (used : List Nat) (m k : Nat) : Nat :=
  let c := Config.gridChoice k % m
  if used.contains c then (lowestFree used 0 (used.length + 1)).getD 0 else c

/-- A free place among `m`: the free choice `c` where it is one, else the lowest (log entry 2). -/
def takeFree (c : Nat) (used : List Nat) (m : Nat) : Option Nat :=
  if c % m < m ∧ used.contains (c % m) = false then some (c % m) else lowestFree used 0 m

/-- The number of a grid: unique among its context's grids below 2^31, or among this coordinator's gangs (Table 9.2). -/
def State.gridNumber (s : State) (ctx : CtxId) (gang : Bool) : Word :=
  if gang then
    let base := 0x80000000 + s.cfg.aid.toNat * 2 ^ 20
    let used := ((s.grids.map fun e => e.2.no.toNat).filter fun n => decide (base ≤ n ∧ n < base + 2 ^ 20)).map (· - base)
    BitVec.ofNat 32 (base + freeNumber used (2 ^ 20) s.acceptCtr)
  else
    let used := (s.grids.filter fun e => e.2.ctx == ctx).map fun e => e.2.no.toNat
    BitVec.ofNat 32 (freeNumber used (2 ^ 31) s.acceptCtr)

/-! ## Acceptance (R80, R82, R85, R93) -/

/-- Who brings a launch: its cap on priority, its depth, its home die, what identifies it in the order of R93, and what its grid waits for. -/
structure Source where
  pcap : Nat
  depth : Nat
  d0 : Nat
  host : Bool
  who : Nat
  parent : Option (Nat × Nat)
  queue : Option Nat
  serialOn : Option Nat
  tfire : Option DWord
  notify : Option (DWord × DWord × Nat)
  deriving DecidableEq, Repr

/-- The place of an acceptance in the order of R93: the aclk, device launches by core before host records by queue, then one after another. -/
def State.acceptKey (s : State) (host : Bool) (who : Nat) : Nat :=
  (((s.clock / Config.ticksPerAclk) * 2 + (if host then 1 else 0)) * 2 ^ 14 + who) * 2 ^ 64 + s.acceptCtr

/-- The first team index of each die (R121). -/
def firstIndex (d0 : Nat) : List Nat := (span 0 4).map fun e => (e + 4 - d0 % 4) % 4

/-- Pending grids: accepted, not yet eligible (R87). -/
def State.pendingCount (s : State) : Nat := (s.grids.filter fun e => !e.2.eligible).length

/-- Accept a judged launch: the state and the grid's key. -/
def State.acceptGrid (s : State) (ctx : CtxId) (raw : List Byte) (d : Desc) (i : Image) (src : Source) : State × Nat :=
  let g : Grid :=
    { ctx := ctx, no := s.gridNumber ctx d.gang, desc := d, raw := raw, img := i, parentTeam := src.parent.map Prod.fst,
      parentGrid := src.parent.map Prod.snd, depth := src.depth, pcap := src.pcap, prio := min d.prio src.pcap,
      accepted := s.acceptKey src.host src.who, d0 := src.d0, queue := src.queue, serialOn := src.serialOn, tfire := src.tfire,
      met := d.waits.map (fun _ => false), eligible := false, notify := src.notify, next := firstIndex src.d0, live := 0,
      killedTeam := false, gang := .idle, reread := s.clock, born := s.dtime, coord := s.cfg.aid, members := [], begun := false, peers := [],
      ranks := [], holders := [], failing := none, owing := [], parentAway := none, drained := [], saveGo := false, savedAt := [], allSaved := false }
  ({ s with grids := Map.put s.grids s.gridCtr g, gridCtr := s.gridCtr + 1, acceptCtr := s.acceptCtr + 1 }, s.gridCtr)

/-- Change a grid. -/
def State.modGrid (s : State) (k : Nat) (f : Grid → Grid) : State := { s with grids := Map.modify s.grids k f }

/-! ## Waits and eligibility (R41, R85, R86) -/

/-- Read one counter: whether its wait is met. -/
def State.waitMet (s : State) (ctx : CtxId) (w : DWord × DWord) : State × Bool :=
  match s.readGlobal ctx w.1.toNat 8 with
  | (s1, some bs) => (s1, decide (w.2.toNat ≤ leNat bs))
  | (s1, none) => (s1, false)

/-- Judge the waits in use, each on its own; one that has been met stays met (R41). -/
def State.waitsMet (s : State) (ctx : CtxId) : List (DWord × DWord) → List Bool → State × List Bool
  | [], _ => (s, [])
  | w :: ws, ms =>
    let here := if ms.headD false then (s, true) else s.waitMet ctx w
    let rest := State.waitsMet here.1 ctx ws (ms.drop 1)
    (rest.1, here.2 :: rest.2)

/-- The conditions of R85 at this moment. -/
def State.ripe (s : State) (g : Grid) : Bool :=
  g.met.all id && (match g.tfire with | some t => t.ule s.dtime | none => true) &&
    (match g.serialOn with | some k => (Map.find? s.grids k).isNone | none => true) && (Map.find? s.ctxs g.ctx.toNat).isSome

/-- An eligible grid stays eligible (R85). -/
def State.testEligible (s : State) (k : Nat) : State :=
  match Map.find? s.grids k with
  | some g => if !g.eligible && s.ripe g then s.modGrid k fun g => { g with eligible := true } else s
  | none => s

/-- The device re-reads a pending grid's unmet counters (R86). -/
def State.rereadGrid (s : State) (k : Nat) : State :=
  match Map.find? s.grids k with
  | some g =>
    if g.eligible then s
    else
      let r := s.waitsMet g.ctx g.desc.waits g.met
      (r.1.modGrid k fun g => { g with met := r.2, reread := s.clock }).testEligible k
  | none => s

/-- An event of R86 for a context: its pending grids are looked at again, and its blocked CWAITs read their words (R426). -/
def State.rereadCtx (s : State) (ctx : CtxId) : State :=
  (((s.grids.filter fun e => e.2.ctx == ctx && !e.2.eligible).map Prod.fst).foldl (fun s k => s.rereadGrid k) s).pollCwaits ctx

/-- WAIT_REREAD_TIMER (R86): 10 µs without another event. -/
def execWaitRereadTimer (k : Nat) (s : State) : Res :=
  match Map.find? s.grids k with
  | some g => if g.reread + 10000 * Config.ticksPerNs ≤ s.clock then .next (s.rereadGrid k) else .next s
  | none => .next s

/-- TFIRE_REACHED (R85, R89). -/
def execTfireReached (k : Nat) (s : State) : Res := .next (s.testEligible k)

/-! ## Queue commands (R76, R77) -/

/-- The physical address of a queue's entry (R75). -/
def State.queueAt (s : State) (q : Nat) : Nat := s.cfg.qtab + 64 * q

/-- A physical line can be read or written. -/
def State.lineOpen (s : State) (pa : Nat) : Bool := (s.lineFault pa).isNone

/-- A queue entry obeys Table 4.1. -/
def queueOk (bs : List Byte) : Bool :=
  let ring := fld bs 0 8
  let w8 := fld bs 8 8
  decide (ring < 2 ^ 39 ∧ ring % 4096 = 0 ∧ w8 / 2 ^ 21 = 0 ∧ 4 ≤ field w8 16 5 ∧ field w8 16 5 ≤ 16 ∧ fld bs 0x1C 4 = 0 ∧
    fld bs 0x20 32 = 0)

/-- The queue that an entry describes. -/
def queueOf (bs : List Byte) : Queue :=
  let w8 := fld bs 8 8
  { ringpa := fld bs 0 8, ctx := BitVec.ofNat 12 (field w8 0 12), pcap := field w8 12 4, qlog := field w8 16 5, head := fld bs 0x10 4,
    tail := fld bs 0x14 4, nqp := fld bs 0x18 3, qerr := 0 }

/-- The device writes HEAD, TAIL and QERR of a queue's entry. -/
def State.putQueue (s : State) (q : Nat) (Q : Queue) : State :=
  let a := s.queueAt q
  let s1 := { s with queues := Map.put s.queues q Q }
  if s.lineOpen a then (((s1.touch none a).store (a + 0x10) (leBytes 4 Q.head ++ leBytes 4 Q.tail)).store (a + 0x1B) (leBytes 1 Q.qerr)) else s1

/-- A queue command completes with a status (Table 4.2). -/
def State.queueDone (s : State) (last : BitVec 8) : State := { s with ctl := { s.ctl with qstat := ⟨s.ctl.qstat.seq + 1, last⟩ } }

/-- BIND (R77): an entry that cannot be read is judged as one that breaks the table. -/
def execBind (q : BitVec 14) (s : State) : Res :=
  let a := s.queueAt q.toNat
  let bs := s.bytes a 64
  let s := s.touch none a
  if !s.lineOpen a ∨ !queueOk bs then .next (s.queueDone 2)
  else if (Map.find? s.queues q.toNat).isSome ∨ (Map.find? s.ctxs (queueOf bs).ctx.toNat).isNone then .next (s.queueDone 1)
  else .next ((s.putQueue q.toNat (queueOf bs)).queueDone 0)

/-- UNBIND (R77). -/
def execUnbind (q : BitVec 14) (s : State) : Res :=
  if (Map.find? s.queues q.toNat).isNone then .next (s.queueDone 1)
  else .next ({ s with queues := Map.erase s.queues q.toNat }.queueDone 0)

/-- A write of a doorbell page (R78, R86). -/
def State.ringBell (s : State) (q : BitVec 14) (v : DWord) : State :=
  match Map.find? s.queues q.toNat with
  | none => s
  | some Q =>
    let n := v.toNat % 2 ^ 32
    let dist := (n + 2 ^ 32 - Q.head) % 2 ^ 32
    let s1 :=
      if (Q.tail + 2 ^ 32 - Q.head) % 2 ^ 32 ≤ dist then
        s.putQueue q.toNat { Q with tail := n, qerr := if Q.qerr = 0 ∧ 2 ^ Q.qlog < dist then 2 else Q.qerr }
      else s
    s1.rereadCtx Q.ctx

/-! ## Work records (R79, R80) -/

/-- The bytes of a queue's next record, if it has one that may be read now. -/
def State.nextRecord (s : State) (Q : Queue) : Option Nat :=
  if Q.qerr ≠ 0 ∨ Q.head = Q.tail ∨ Config.maxPending ≤ s.pendingCount then none
  else some (Q.ringpa + 128 * (Q.head % 2 ^ Q.qlog))

/-- A record that R79 accepts: TAG, TYPE, SEQ and the reserved fields. -/
def recordOk (bs : List Byte) (head : Nat) : Bool :=
  decide (fld bs 0 1 = 0xC9 ∧ fld bs 1 1 ≤ 2 ∧ fld bs 2 2 = head % 65536 ∧ fld bs 4 4 < 8 ∧ fld bs 0x38 72 = 0)

/-- Consume the next record of a queue when it is of type `ty`; a record that breaks R79, or whose line cannot be read, stops the queue. -/
def State.consume (s : State) (q : Nat) (ty : Nat) (f : State → Queue → List Byte → State) : State :=
  match Map.find? s.queues q with
  | none => s
  | some Q =>
    match s.nextRecord Q with
    | none => s
    | some a =>
      let s0 := s.touch none a
      let bs := s0.bytes a 128
      if !s0.lineOpen a ∨ !recordOk bs Q.head then s0.putQueue q { Q with qerr := 1 }
      else if fld bs 1 1 ≠ ty then s
      else
        let Q1 := { Q with head := (Q.head + 1) % 2 ^ 32 }
        f (s0.putQueue q Q1) Q1 bs

/-- NOP_RECORD (R80). -/
def execNopRecord (q : BitVec 14) (s : State) : Res := .next (s.consume q.toNat 0 fun s _ _ => s)

/-- A notice (Table 4.6). -/
def noticeBytes (tag : DWord) (lstat kind : Nat) : List Byte := leBytes 8 tag.toNat ++ leBytes 1 lstat ++ leBytes 1 kind ++ leBytes 6 0

/-- Send a notice, when the record asked for one: NADDR, NTAG and the connection (R88). -/
def State.notice (s : State) (n : Option (DWord × DWord × Nat)) (lstat kind : Nat) : State :=
  match n with
  | none => s
  | some (addr, tag, conn) => s.sendRdma conn addr (noticeBytes tag lstat kind)

/-- LAUNCH_RECORD (R80, R85, R88, R89): the queue's latest LAUNCH grid is remembered across UNBIND and BIND. -/
def execLaunchRecord (q : BitVec 14) (s : State) : Res :=
  .next (s.consume q.toNat 1 fun s Q bs =>
    let fl := fld bs 4 4
    let note := if flag fl 1 then some (BitVec.ofNat 64 (fld bs 0x18 8), BitVec.ofNat 64 (fld bs 0x20 8), Q.nqp) else none
    match s.judgeLaunch Q.ctx (fld bs 8 8) with
    | (s1, _, .refused st) => s1.notice note st 0
    | (s1, raw, .ok d i) =>
      let src : Source :=
        { pcap := Q.pcap, depth := 0, d0 := q.toNat % 4, host := true, who := q.toNat, parent := none, queue := some q.toNat,
          serialOn := if flag fl 2 then Map.find? s1.lastLaunch q.toNat else none,
          tfire := if flag fl 0 then some (BitVec.ofNat 64 (fld bs 0x10 8)) else none, notify := note }
      let r := s1.acceptGrid Q.ctx raw d i src
      ({ r.1 with lastLaunch := Map.put r.1.lastLaunch q.toNat r.2 }).rereadGrid r.2)

/-- The atomic add of a counter in a context's global aperture (R80, R485): skipped where it cannot be performed. -/
def State.addCounter (s : State) (ctx : CtxId) (va v : Nat) : State :=
  match Map.find? s.ctxs ctx.toNat with
  | none => s
  | some c =>
    if va % 8 ≠ 0 ∨ 2 ^ 56 < va + 8 ∨ c.arena va 8 then s
    else
      match s.judgeStore ctx none false va false with
      | (s1, .ok pa _) => s1.store pa (leBytes 8 ((s1.val pa 8 + v) % 2 ^ 64))
      | (s1, _) => s1

/-- SIGNAL_RECORD (R80); the counter's waits are looked at again (R86). -/
def execSignalRecord (q : BitVec 14) (s : State) : Res :=
  .next (s.consume q.toNat 2 fun s Q bs => (s.addCounter Q.ctx (fld bs 0x28 8) (fld bs 0x30 8)).rereadCtx Q.ctx)

/-! ## Device launches (R82, R318) -/

/-- The path status of a LAUNCH (Table 4.5); where several causes hold at once, the first of the table in this order (log entry 91). -/
def State.pathStatus (s : State) (T : Team) : Nat :=
  if Config.maxDepth ≤ T.depth then 3
  else if Config.maxChildren ≤ T.children.length + T.away.length then 4
  else if Config.maxPending ≤ s.pendingCount then 5
  else 0

/-- LAUNCH (R82, R91, R318): path status and launch status, then the child's number. -/
def execLaunch (d a : SReg) (s : State) : Res :=
  s.steerRun [d.toNat, d.toNat + 1, a.toNat, a.toNat + 1] fun t T st =>
    let give := fun (s : State) (T : Team) (path status : Nat) (no : Word) =>
      Host.Outcome.next (s.lateSteer t T [d.toNat, d.toNat + 1] [(d.toNat, BitVec.ofNat 32 (path + 256 * status)), (d.toNat + 1, no)] .due)
    let T0 := { T with steer := { st with armt := none } }
    let path := s.pathStatus T
    if path ≠ 0 then give s T0 path 0 0xFFFFFFFF
    else
      match s.judgeLaunch T.ctx (st.pairAt a.toNat).toNat with
      | (s1, _, .refused r) => give s1 T0 0 r 0xFFFFFFFF
      | (s1, raw, .ok ds i) =>
        let core := T.core?.getD 0
        let pcap := match Map.find? s.grids T.grid with | some g => g.pcap | none => 15
        let src : Source :=
          { pcap := pcap, depth := T.depth + 1, d0 := core / 64, host := false, who := core, parent := some (t, T.grid), queue := none,
            serialOn := none, tfire := st.armt, notify := none }
        let r := s1.acceptGrid T.ctx raw ds i src
        let no := match Map.find? r.1.grids r.2 with | some g => g.no | none => 0xFFFFFFFF
        give (r.1.rereadGrid r.2) { T0 with children := T0.children ++ [r.2] } 0 0 no

/-- A child grid that has not retired, here or on a K9 from which the team has moved (R319, R484). -/
def State.childLive (s : State) (T : Team) (one : Option Word) : Bool :=
  (T.children.any fun k =>
    match Map.find? s.grids k with
    | some g => match one with | some n => g.no == n | none => true
    | none => false) || T.away.any fun n => match one with | some m => n == m | none => true

/-- WAITCH (R319). -/
def execWaitch (one : Option SReg) (s : State) : Res :=
  s.steerRun (one.map BitVec.toNat).toList fun t T st =>
    if s.childLive T (one.map fun r => st.reg r.toNat) then
      .next ((s.steerWait t T (.waitch (one.map fun r => st.reg r.toNat))).modTeam t fun T => { T with waitchSince := T.waitchSince.or (some s.clock) })
    else .next ((s.setSteer t T { st with st := .running }).modTeam t fun T => { T with waitchSince := none })

end Sys2Proof.Machine
end

