-- ==== Sys2Proof/Machine/Context.lean ====
section
/-! DEFINITION. Context commands: ACTIVATE, DESTROY, INVAL_PAGE and INVAL_ALL (R51-R54, R73). -/

namespace Sys2Proof.Machine

/-- A context command completes with a status (Table 3.2). -/
def State.ctxDone (s : State) (last : BitVec 8) : State := { s with ctl := { s.ctl with ctxstat := ⟨s.ctl.ctxstat.seq + 1, last⟩ } }

/-- A context block obeys Table 3.1. -/
def blockOk (bs : List Byte) : Bool :=
  let w8 := fld bs 8 8
  decide (fld bs 0 8 < 2 ^ 39 ∧ fld bs 0 8 % 4096 = 0 ∧ 4 ≤ field w8 0 5 ∧ field w8 0 5 ≤ 20 ∧ field w8 5 3 = 0 ∧ 1 ≤ field w8 8 5 ∧
    field w8 8 5 ≤ 16 ∧ w8 / 2 ^ 13 = 0 ∧ fld bs 0x10 8 < 2 ^ 56 ∧ fld bs 0x10 8 % 32 = 0 ∧ fld bs 0x18 8 ≤ 65536 ∧
    fld bs 0x20 8 < 2 ^ 56 ∧ fld bs 0x28 8 ≤ 256 ∧ fld bs 0x30 8 < 2 ^ 56 ∧ fld bs 0x30 8 % 2 ^ 30 = 0 ∧ fld bs 0x38 8 < 2 ^ 16 ∧
    fld bs 0x40 8 < 2 ^ 56 ∧ fld bs 0x40 8 % 8 = 0 ∧ fld bs 0x4C 4 = 0 ∧ fld bs 0x70 16 = 0) &&
    (span 0 4).all fun i => decide (fld bs (0x50 + 8 * i) 8 < 2 ^ 35)

/-- The context that a block describes. -/
def ctxOf (bs : List Byte) : Ctx where
  ptbase := fld bs 0 8
  nb := field (fld bs 8 8) 0 5
  pmax := field (fld bs 8 8) 8 5
  wtbase := fld bs 0x10 8
  nwin := fld bs 0x18 8
  gdbase := fld bs 0x20 8
  ngrp := fld bs 0x28 8
  pvbase := fld bs 0x30 8
  pvsize := fld bs 0x38 8
  cowfl := fld bs 0x40 8
  keys := (span 0 4).map fun i => BitVec.ofNat 64 (fld bs (0x50 + 8 * i) 8)
  clearing := []

/-- Forget what a K9 keeps by (context, group) about a context. -/
def dropCtxKeys {α : Type} (ctx : CtxId) (m : Map α) : Map α := m.filter fun e => decide (e.1 / 256 ≠ ctx.toNat)

/-- ACTIVATE (R51, R53, R156, R440): the group counters start again at 0. A block whose line cannot be read is BAD_BLOCK (log entry 70). -/
def execActivate (ctx : CtxId) (s : State) : Res :=
  if (Map.find? s.ctxs ctx.toNat).isSome then .next (s.ctxDone 1)
  else
    let a := s.cfg.ctxtab + 128 * ctx.toNat
    let bs := s.bytes a 128
    let s := s.touch none a
    if !s.lineOpen a ∨ !blockOk bs then .next (s.ctxDone 2)
    else
      .next ({ s with ctxs := Map.put s.ctxs ctx.toNat (ctxOf bs), phases := Map.set PhaseReg.reset s.phases ctx.toNat PhaseReg.reset,
                      opal := ⟨dropCtxKeys ctx s.opal.seqs, dropCtxKeys ctx s.opal.outcomes⟩ }.ctxDone 0)

/-! ## Private blocks (R57) -/

/-- Clear one 64 KiB page whose entry has D set: zeros, and D is clear in the entry and in every TLB. A page that is not resident, or whose
set is OFF, clearing or LOST, stays as it is, and so does one whose walk meets a bucket line that cannot be read: its block is free all the same
(log entry 51). -/
def State.clearPage (s0 : State) (c : Ctx) (ctx : CtxId) (va : Nat) : State :=
  let w := s0.walkSize c ctx.toNat va 0
  let s := s0.touchAll (some ctx) w.1
  match w.2 with
  | .found a =>
    let e := s.pteAt a
    let pa := e.pa va
    if !e.d || !e.res || (s.setFault pa).isSome then s
    else
      let wiped := ({ s with mem := Memory.clear s.mem pa 65536, poison := s.poison.filter (fun l => decide (l < pa / 128 ∨ pa / 128 + 512 ≤ l)) } :
        State).touchAll (some ctx) [pa, a]
      let s2 := { wiped with mem := Memory.set wiped.mem (a + 7) (Memory.get wiped.mem (a + 7) &&& 0xBF) }
      { s2 with tlbs := s2.tlbs.map (fun p => (p.1, p.2.map (fun e =>
          if e.ctx == ctx && e.size == 0 && e.vpn == vpnOf va 0 then { e with lo := e.lo &&& 0xBFFFFFFFFFFFFFFF } else e))) }
  | _ => s

/-- Clear the pages of block `k` of `n` bytes. -/
def State.clearBlock (s : State) (c : Ctx) (ctx : CtxId) (k n : Nat) : State :=
  (span 0 (n / 65536)).foldl (fun s i => s.clearPage c ctx (c.pvbase + k * n + i * 65536)) s

/-- Clear every private block of a context whose clearing is due. -/
def State.clearBlocks (s : State) (ctx : CtxId) : State :=
  match Map.find? s.ctxs ctx.toNat with
  | none => s
  | some c => c.clearing.foldl (fun s x => s.clearBlock c ctx x.1 x.2) s

/-- Some team of a grid has not been placed. -/
def Grid.unplaced (g : Grid) : Bool :=
  if g.desc.gang then decide (g.gang ≠ .opened) else g.next.any fun i => decide (i < g.desc.nteam)

/-- A context is in use (R54): a queued, resident or saved team, or a bound queue. -/
def State.ctxBusy (s : State) (ctx : CtxId) : Bool :=
  (s.teams.any fun e => e.2.ctx == ctx) || (s.grids.any fun e => e.2.ctx == ctx && e.2.unplaced) ||
    s.queues.any fun e => e.2.ctx == ctx

/-- DESTROY (R54; the phase register goes back to its reset value and the context holds no set any more, log entry 93): no cache of the model but the
TLBs and the remote-read cache holds a copy. The private blocks whose clearing is still due are cleared first (R57). -/
def execDestroy (ctx : CtxId) (s : State) : Res :=
  if (Map.find? s.ctxs ctx.toNat).isNone ∨ s.ctxBusy ctx then .next (s.ctxDone 1)
  else
    let s1 := ((s.clearBlocks ctx).tlbDrop fun e => e.ctx == ctx).rrcDrop fun l => l.ctx == ctx
    .next ({ s1 with ctxs := Map.erase s1.ctxs ctx.toNat, held := s1.held.filter (fun h => h.1 ≠ ctx.toNat),
                     phases := Map.set PhaseReg.reset s1.phases ctx.toNat PhaseReg.reset }.ctxDone 0)

/-- INVAL_PAGE (R53, R73): the page of CTXARG. No entry has SIZE 3, so nothing is dropped then (log entry 71). -/
def execInvalPage (ctx : CtxId) (s : State) : Res :=
  if (Map.find? s.ctxs ctx.toNat).isNone then .next (s.ctxDone 1)
  else
    let va := field s.ctl.ctxarg.toNat 0 56
    let size := field s.ctl.ctxarg.toNat 56 2
    .next ((s.tlbDrop fun e => e.ctx == ctx && e.size == size && e.vpn == vpnOf va size).ctxDone 0)

/-- INVAL_ALL (R53, R73). -/
def execInvalAll (ctx : CtxId) (s : State) : Res :=
  if (Map.find? s.ctxs ctx.toNat).isNone then .next (s.ctxDone 1)
  else .next ((s.tlbDrop fun e => e.ctx == ctx).ctxDone 0)

end Sys2Proof.Machine
end

