-- ==== Sys2Proof/Machine/Boxes.lean ====
section
/-! DEFINITION. Receive boxes and their credits (R409-R412): grants, landings, returns, closings. -/

namespace Sys2Proof.Machine

/-- Add a grant to this K9's credits for a box; the table holds 4,096 entries (R410). None: refused. -/
def State.addCredit (s : State) (target : Aid) (ctx : CtxId) (box n : Nat) : Option State :=
  if s.credits.any fun c => c.target == target && c.ctx == ctx && c.box == box then
    some ((s.modCredit target ctx box fun c => { c with g := c.g + n }).serveSend target ctx box)
  else if s.credits.length < 4096 then
    some (State.serveSend { s with credits := s.credits ++ [(⟨target, ctx, box, 0, n⟩ : Credit)] } target ctx box)
  else none

/-- Stop the threads parked in an RWSEND to a closed box (R411). -/
def State.failSends (s : State) (target : Aid) (ctx : CtxId) (box : Nat) : State :=
  s.teams.foldl (fun s e => e.2.threads.foldl (fun s x =>
    match x.2.st with
    | .parked (.send m a c _ b _) =>
      if a = target ∧ c = ctx ∧ b = box then
        s.onThread e.1 x.1 fun T th =>
          s.stopLane e.1 T x.1 th
            { code := Code.slotGrant, addr := BitVec.ofNat 64 (64 * b), handle := m.handle, peer := target }
      else s
    | _ => s) s) s

/-- The records of this K9 in flight to a box raise SLOT_GRANT when it is closed (R411). -/
def State.failRecords (s : State) (target : Aid) (ctx : CtxId) (box : Nat) : State :=
  s.txs.foldl (fun s x =>
    match x.2.owner, x.2.dest with
    | .record tid, .box c _ b _ =>
      if x.2.target = target ∧ c = ctx ∧ b = box ∧ x.2.answer = none then s.answerLane x.1 x.2 (.fault Code.slotGrant 0) tid else s
    | _, _ => s) s

/-- A sender learns that its box is closed: G becomes 0 (R411). -/
def State.closeBox (s : State) (target : Aid) (ctx : CtxId) (box : Nat) : State :=
  ((s.modCredit target ctx box fun c => { c with g := 0 }).failSends target ctx box).failRecords target ctx box

/-- A record is in flight to a box whose thread has gone on ahead of an answer that is no fault: no close notice comes before that answer
(log entry 10). -/
def State.recordAhead (s : State) (target : Aid) (ctx : CtxId) (box : Nat) : Bool :=
  s.txs.any fun x => x.2.ahead && x.2.target == target && (match x.2.dest with | .box c _ b _ => c == ctx && b == box | _ => false)

/-- The boxes of a team are unbound: its unpopped records go, and every sender with a grant is told (R409), by a cell of class RWR (log entry 92). -/
def State.unbindBoxes (s : State) (t : Nat) : State :=
  let mine := s.boxes.filter fun b => b.2.team == t
  let s1 := { s with boxes := s.boxes.filter (fun b => b.2.team != t) }
  mine.foldl (fun s b => b.2.g.foldl (fun s e =>
    if e.2 = 0 then s
    else
      let ctx := BitVec.ofNat 12 (b.1 / 256)
      let k := b.1 % 256
      if BitVec.ofNat 10 e.1 = s.cfg.aid then s.closeBox s.cfg.aid ctx k
      else s.toPeer (BitVec.ofNat 10 e.1) 1 (64 * k) (.note (.boxClosed ctx k))) s) s1

/-- The grants of every box bound to a feed of a team (R410). -/
def State.grantSum (s : State) (t f : Nat) : Nat :=
  ((s.boxes.filter fun b => b.2.team == t && b.2.feed == f).map fun b => (b.2.g.map Prod.snd).sum).sum

/-- Change a sender's reserved count in a box. -/
def State.modGrant (s : State) (key sender : Nat) (f : Nat → Nat) : State :=
  { s with boxes := Map.modify s.boxes key (fun b => { b with g := Map.set 0 b.g sender (f (Map.get 0 b.g sender)) }) }

/-- A box is bound to a team. -/
def State.boxOf (s : State) (key t : Nat) : Bool := (Map.find? s.boxes key).any fun b => b.team == t

/-- The answer to a grant: its status in the late result; a grant that did not take is given back, unless the box has been unbound since (R410). -/
def State.grantAnswered (s : State) (t late d box sender n status : Nat) : State :=
  match s.team? t with
  | none => s
  | some T =>
    let s1 := if status = 0 ∨ T.killed ∨ !s.boxOf (boxKey T.ctx box) t then s else s.modGrant (boxKey T.ctx box) sender (· - n)
    s1.setSteer t T (T.steer.due late [(d, BitVec.ofNat 32 status)])

/-- RWGRANT (R410). R105 names no address for the cells of a grant: 64 × box spreads them over the stations (log entry 92). -/
def execRwgrant (d a : SReg) (b : SSrc) (f : Obj) (s : State) : Res :=
  s.steer fun t T st =>
    if T.img.nfeed ≤ f.toNat then .next (s.stopSteer t T { code := Code.feedRange })
    else s.steerRun ([d.toNat, a.toNat] ++ ssrcRegs b) fun _ _ _ =>
      let sender := field (st.reg a.toNat).toNat 0 10
      let box := field (st.reg a.toNat).toNat 16 8
      let n := (ssrcVal b st).toNat
      let key := boxKey T.ctx box
      let F := T.feed f.toNat
      let taken := match Map.find? s.boxes key with | some B => B.team != t || B.feed != f.toNat | none => false
      if taken || decide (1024 < n ∨ 2 ^ F.flog / 64 < s.grantSum t f.toNat + n) then .next (s.stopSteer t T { code := Code.slotGrant })
      else
        let s0 := if (Map.find? s.boxes key).isSome then s else { s with boxes := Map.put s.boxes key ⟨t, f.toNat, []⟩ }
        if n = 0 then .next (s0.lateSteer t T [d.toNat] [(d.toNat, 0)] .due)
        else
          let s1 := s0.modGrant key sender (· + n)
          let who : Aid := BitVec.ofNat 10 sender
          if who = s.cfg.aid then
            match s1.addCredit who T.ctx box n with
            | some s2 =>
              (match s2.team? t with
               | some T2 => .next (s2.lateSteer t T2 [d.toNat] [(d.toNat, 0)] .due)
               | none => .next s2)
            | none => .next ((s1.modGrant key sender (· - n)).lateSteer t T [d.toNat] [(d.toNat, 1)] .due)
          else
            let s2 := s1.newTx (mkTx s1 t (.grant T.lateCtr d.toNat box sender n) 0 who (.box T.ctx 0 box (64 * box)) (.grant n) 0 0 1 false false
              none st.pos)
            .next (s2.lateSteer t T [d.toNat] [] .waiting)

end Sys2Proof.Machine
end

