-- ==== Sys2Proof/Machine/LaneNarrow.lean ====
section
/-! DEFINITION. Block formats and their encoders (R236-R238, R243, R244), and lane instructions 0x40-0x48: narrow elements and
blocks (12.7). -/

namespace Sys2Proof.Machine

/-! ## Blocks -/

/-- A value times 2^n. -/
def FVal.scale (v : FVal) (n : Int) : FVal := match v with | .fin s m e => .fin s m (e + n) | v => v

/-- The magnitude of a finite value; 0 for an infinity (R243: infinities are left out). -/
def FVal.finMag (v : FVal) : Nat × Int := match v with | .fin _ m e => (m, e) | _ => (0, 0)

/-- The larger of two magnitudes. -/
def magMax (a b : Nat × Int) : Nat × Int := if ((FVal.fin false a.1 a.2).cmp (.fin false b.1 b.2)) < 0 then b else a

/-- `emax` of R243. -/
def mxEmax (t : Fmt) : Int := if t = Fmt.e2m1 then 2 else 8

/-- The scale X of a block whose largest finite magnitude is `a` (R243). -/
def mxScale (t : Fmt) (a : Nat × Int) : Nat :=
  if a.1 = 0 then 0 else (max (-127) (min 127 (Nat.log2 a.1 + a.2 - mxEmax t)) + 127).toNat

/-- One element under scale X other than 0xFF (R243, R291). -/
def mxElem (t : Fmt) (X : Nat) (v : FVal) : Nat × FlagSet := t.convert .rn (v.scale (127 - (X : Int)))

/-- The exact value of an MX element under a scale (R236, R237). -/
def mxVal (t : Fmt) (X code : Nat) : FVal := if X = 255 then .nan false else (t.decode code).scale ((X : Int) - 127)

/-- `rne_int(a / 2^(E - 127))` (R244), and whether it is exact. -/
def dxRne (a : Nat × Int) (E : Nat) : Nat × Bool := roundInt true false a.1 a.2 ((E : Int) - 127)

/-- The smallest fitting exponent among `e, e+1, ...`, `n` of them, or the one after. -/
def dxSearch (M : Nat) (a : Nat × Int) : Nat → Nat → Nat
  | e, 0 => e
  | e, n + 1 => if (dxRne a e).1 ≤ M then e else dxSearch M a (e + 1) n

/-- The largest magnitude of a DXB format: 63 for DXB8, 3 for DXB4 (R238). -/
def dxM (four : Bool) : Nat := if four then 3 else 63

/-- `emax` of R244. -/
def dxEmax (four : Bool) : Nat := if four then 253 else 249

/-- `eh` of R244: the smallest e in 0..emax that fits, or emax if none. -/
def dxHi (four : Bool) (a : Nat × Int) : Nat := if a.1 = 0 then 0 else dxSearch (dxM four) a 0 (dxEmax four)

/-- One element under exponents other than 0xFF (R244): its code and flags. -/
def dxElem (four : Bool) (eh el : Nat) (v : FVal) : Nat × FlagSet :=
  let M := dxM four
  match v with
  | .nan _ => (0, 0)
  | .inf n => ((2 + n.toNat) * (M + 1) + M, FlagSet.ovf)
  | .fin n m e =>
    let l := dxRne (m, e) el
    if l.1 ≤ M then
      (n.toNat * (M + 1) + l.1, FlagSet.when (!l.2) FlagSet.nx ||| FlagSet.when (m != 0 && l.1 == 0) FlagSet.uf)
    else
      let h := dxRne (m, e) eh
      let k := min h.1 M
      ((2 + n.toNat) * (M + 1) + k,
        FlagSet.when (decide (M < h.1)) FlagSet.ovf ||| FlagSet.when (!h.2) FlagSet.nx ||| FlagSet.when (m != 0 && k == 0) FlagSet.uf)

/-- The exact value of a DXB element under its exponents (R238). -/
def dxVal (four : Bool) (eh el code : Nat) : FVal :=
  let M := dxM four
  if eh = 255 ∨ el = 255 then .nan false
  else .fin (code / (M + 1) % 2 == 1) (code % (M + 1)) (((if code / (2 * (M + 1)) % 2 = 1 then eh else el) : Int) - 127)

/-- The union of the flags of several results. -/
def flagsOf (rs : List (Nat × FlagSet)) : FlagSet := rs.foldl (fun f r => f ||| r.2) 0

/-- `mx_enc` (R243): the element codes, X and the flags. -/
def mxEnc (t : Fmt) (vs : List FVal) : List Nat × Nat × FlagSet :=
  if vs.any FVal.isNan then (vs.map (fun _ => 0), 255, FlagSet.when (vs.any FVal.signalling) FlagSet.inv)
  else
    let X := mxScale t (vs.foldl (fun a v => magMax a v.finMag) (0, 0))
    let rs := vs.map (mxElem t X)
    (rs.map Prod.fst, X, flagsOf rs)

/-- `dxb_enc` (R244): the element codes, E_hi, E_lo and the flags. -/
def dxEnc (four : Bool) (delta : Nat) (vs : List FVal) : List Nat × Nat × Nat × FlagSet :=
  if vs.any FVal.isNan then (vs.map (fun _ => 0), 255, 255, FlagSet.when (vs.any FVal.signalling) FlagSet.inv)
  else
    let eh := dxHi four (vs.foldl (fun a v => magMax a v.finMag) (0, 0))
    let el := eh - delta
    let rs := vs.map (dxElem four eh el)
    (rs.map Prod.fst, eh, el, flagsOf rs)

/-! ## Instructions -/

/-- A word with `n` bits from `lo` replaced. -/
def place (d : Word) (lo n v : Nat) : Word :=
  let m : Word := BitVec.ofNat 32 (2 ^ n - 1) <<< lo
  (d &&& ~~~m) ||| ((BitVec.ofNat 32 v <<< lo) &&& m)

/-- Byte j of a word (R290). -/
def byteOf (w : Word) (j : Nat) : Nat := field w.toNat (8 * j) 8

/-- The one-element MX kind of F8PK and F4PK (R291). -/
def packMx (t : Fmt) (a b : Word) : Nat × FlagSet :=
  let X := byteOf b 0
  if X = 255 then (0, FlagSet.when (f32 a).signalling FlagSet.inv) else mxElem t X (f32 a)

/-- The one-element DXB kind of F8PK and F4PK (R291). -/
def packDx (four : Bool) (a b : Word) : Nat × FlagSet :=
  let eh := byteOf b 0
  let el := byteOf b 1
  if eh = 255 ∨ el = 255 ∨ (f32 a).isNan then (0, FlagSet.when (f32 a).signalling FlagSet.inv) else dxElem four eh el (f32 a)

/-- Two elements side by side in v[D]. -/
def packPair (bits lo : Nat) (x y : Nat × FlagSet) (d : Word) : Nat × FlagSet :=
  ((place (place d lo bits x.1) (lo + bits) bits y.1).toNat, x.2 ||| y.2)

/-- One element in v[D]. -/
def packOne (bits lo : Nat) (x : Nat × FlagSet) (d : Word) : Nat × FlagSet := ((place d lo bits x.1).toNat, x.2)

/-- F8PK (R291). -/
def f8pk (kind : F8Kind) (rm : RM) (pos : Nat) (a b d : Word) : Nat × FlagSet :=
  match kind with
  | .e4m3 => packPair 8 (8 * pos) (Fmt.e4m3.convert rm (f32 a)) (Fmt.e4m3.convert rm (f32 b)) d
  | .e5m2 => packPair 8 (8 * pos) (Fmt.e5m2.convert rm (f32 a)) (Fmt.e5m2.convert rm (f32 b)) d
  | .mx => packOne 8 (8 * pos) (packMx Fmt.e4m3 a b) d
  | .dx => packOne 8 (8 * pos) (packDx false a b) d

/-- F8PK (R291). -/
def execF8pk (o : F3) (kind : F8Kind) (rm : RM) (pos : BitVec 2) (s : State) : Res := s.fp3 o (f8pk kind rm pos.toNat)

/-- F4PK (R291). -/
def f4pk (kind : F4Kind) (rz : Bool) (pos : Nat) (a b d : Word) : Nat × FlagSet :=
  match kind with
  | .e2m1 =>
    let rm := if rz then RM.rz else RM.rn
    packPair 4 (8 * pos) (Fmt.e2m1.convert rm (f32 a)) (Fmt.e2m1.convert rm (f32 b)) d
  | .mx => packOne 4 (4 * pos) (packMx Fmt.e2m1 a b) d
  | .dx => packOne 4 (4 * pos) (packDx true a b) d

/-- F4PK (R291). -/
def execF4pk (o : F3) (kind : F4Kind) (rz : Bool) (pos : BitVec 3) (s : State) : Res := s.fp3 o (f4pk kind rz pos.toNat)

/-- F8UP (R292). -/
def execF8up (o : R2) (byte : BitVec 2) (e5m2 : Bool) (s : State) : Res :=
  s.fp2 o fun a _ => Fmt.fp32.convert .rn ((if e5m2 then Fmt.e5m2 else Fmt.e4m3).decode (byteOf a byte.toNat))

/-- F4UP (R292). -/
def execF4up (o : R2) (nib : BitVec 3) (s : State) : Res :=
  s.fp2 o fun a _ => Fmt.fp32.convert .rn (Fmt.e2m1.decode (field a.toNat (4 * nib.toNat) 4))

/-- BMAX (R293): an infinity counts as +0. -/
def bmax (a b : Word) : Nat × FlagSet :=
  let x := f32 a
  let y := f32 b
  if x.isNan || y.isNan then (0x7FC00000, FlagSet.when (x.signalling || y.signalling) FlagSet.inv)
  else
    let m := magMax x.finMag y.finMag
    Fmt.fp32.round .rn false m.1 m.2

/-- BMAX (R293). -/
def execBmax (o : F3) (s : State) : Res := s.fp3 o fun a b _ => bmax a b

/-- DXEXP (R294). -/
def dxexp (kind : DxKind) (delta : Nat) (a : Word) : Nat × FlagSet :=
  let v := f32 a
  let sg := FlagSet.when v.signalling FlagSet.inv
  let dx := fun four => if v.isNan then (0xFFFF, sg) else (let eh := dxHi four v.finMag; ((eh - delta) * 256 + eh, sg))
  let mx := fun t => if v.isNan then (0xFF, sg) else (mxScale t v.finMag, sg)
  match kind with
  | .dxb8 => dx false
  | .dxb4 => dx true
  | .mxfp8 => mx Fmt.e4m3
  | .mxfp4 => mx Fmt.e2m1

/-- DXEXP (R294). -/
def execDxexp (o : R2) (kind : DxKind) (delta : BitVec 4) (s : State) : Res := s.fp2 o fun a _ => dxexp kind delta.toNat a

/-- The exact value of an element of a register under the scale at byte `j` of a scale register (R290, R296). -/
def elemVal (four dx : Bool) (w sc : Word) (i j : Nat) : FVal :=
  let code := if four then field w.toNat (4 * i) 4 else field w.toNat (8 * i) 8
  if dx then dxVal four (byteOf sc j) (byteOf sc (j + 1)) code
  else mxVal (if four then Fmt.e2m1 else Fmt.e4m3) (byteOf sc j) code

/-- QDOT8, QDOT4 (R296): an exact sum of products and d, rounded once. -/
def qdot (four dx : Bool) (rm : RM) (sa sb : Nat) (a b sc d : Word) : Nat × FlagSet :=
  let n := if four then 8 else 4
  let ps := (span 0 n).map fun i => (elemVal four dx a sc i sa, elemVal four dx b sc i sb)
  if ps.any (fun p => p.1.isNan || p.2.isNan) || (f32 d).isNan then
    (0x7FC00000, FlagSet.when (f32 d).signalling FlagSet.inv)
  else if (f32 d).isInf then (d.toNat, 0)
  else Fmt.fp32.sum rm (f32 d :: ps.map (fun p => p.1.mul p.2))

/-- QDOT on the performing thread. -/
def State.qdot (s : State) (four : Bool) (o : QDot) : Res :=
  s.laneEff [o.d.toNat, o.a.toNat, o.b.toNat, o.s.toNat] [] fun th =>
    let r := Machine.qdot four o.dx o.rm o.sa.toNat o.sb.toNat (th.reg o.a.toNat) (th.reg o.b.toNat) (th.reg o.s.toNat) (th.reg o.d.toNat)
    (th.setReg o.d.toNat (BitVec.ofNat 32 r.1)).addFlags r.2

/-- QDOT8 (R296). -/
def execQdot8 (o : QDot) (s : State) : Res := s.qdot false o
/-- QDOT4 (R296). -/
def execQdot4 (o : QDot) (s : State) : Res := s.qdot true o

/-- DXDEC (R297). -/
def execDxdec (o : R2) (four : Bool) (sel : BitVec 3) (sr : Reg) (sa : BitVec 2) (s : State) : Res :=
  s.laneEff [o.d.toNat, o.a.toNat, sr.toNat] [] fun th =>
    let r := Fmt.fp32.convert .rn (elemVal four true (th.reg o.a.toNat) (th.reg sr.toNat) sel.toNat sa.toNat)
    (th.setReg o.d.toNat (BitVec.ofNat 32 r.1)).addFlags r.2

end Sys2Proof.Machine
end

