-- ==== Sys2Proof/Machine/Cube.lean ====
section
/-! DEFINITION. The cube: shapes, formats and z-blocks (R373-R378), one pass and one drain step (R379-R383, R388, R389), completion (R384). -/

namespace Sys2Proof.Machine

/-! ## Shapes and formats -/

/-- The block of a tile (Table 16.6): sizes and origins in elements. -/
structure Block where
  m : Nat
  n : Nat
  om : Nat
  on : Nat
  deriving DecidableEq, Repr

/-- M or N by its code; 0 where reserved. -/
def blockSize (c : Nat) : Nat := match c with | 0 => 16 | 1 => 32 | 2 => 64 | _ => 0

/-- The block that s[PB] names (Table 16.6). -/
def blockOf (w : Nat) : Block := ⟨blockSize (field w 0 2), blockSize (field w 2 2), 16 * field w 4 2, 16 * field w 6 2⟩

/-- R376 for s[PB]. -/
def blockLegal (w : Nat) : Bool :=
  let b := blockOf w
  decide (b.m ≠ 0 ∧ b.n ≠ 0 ∧ b.om + b.m ≤ 64 ∧ b.on + b.n ≤ 64 ∧ w < 256)

/-- The whole tile (R380). -/
def Block.whole (b : Block) : Bool := b.m == 64 && b.n == 64

/-- Nibbles of an element of a format (Table 16.3). -/
def fmtNibbles (f : Nat) : Nat := if f < 2 then 4 else if f < 6 then 2 else 1
/-- Scale bytes per row of a z-block (Table 16.3). -/
def fmtScale (f : Nat) : Nat := match f with | 4 => 1 | 5 => 2 | 6 => 1 | 7 => 2 | _ => 0

/-- Width w and pass depth Zp of a legal pair, and the C formats it allows; none where Table 16.2 lists no such combination. -/
def cubePair (fa fb : Nat) (tri : Bool) (fc : Nat) : Option (Nat × Nat) :=
  let narrow := fun (w zp2 : Nat) => if tri then (if fc < 4 then some (w, zp2 / 2) else none) else some (w, zp2)
  if fa = 0 ∧ fb = 0 then (if tri then (if fc = 0 then some (16, 8) else none) else some (16, 16))
  else if fa = 1 ∧ fb = 1 then (if tri then none else some (16, 16))
  else if (fa = 2 ∨ fa = 3) ∧ (fb = 2 ∨ fb = 3) then narrow 32 32
  else if fa = fb ∧ (fa = 4 ∨ fa = 5) then narrow 32 32
  else if fa = fb ∧ (fa = 6 ∨ fa = 7) then narrow 32 64
  else none

/-- Bytes of a z-block of `R` rows (R377, Table 16.4). -/
def zblock (f w R : Nat) : Nat := 128 * ((R * w * fmtNibbles f / 2 + R * fmtScale f + 127) / 128)

/-- A CUBE command's operation. -/
structure CubeOp where
  mode : CubeMode
  b : Block
  z : Nat
  fmta : Nat
  fmtb : Nat
  fmtc : Nat
  w : Nat
  zp : Nat
  deriving DecidableEq, Repr

/-- The operation of a captured parameter block; a block that fails R375 has none. -/
def cubeOp (mode : CubeMode) (par : List Word) : Option CubeOp :=
  let f := parAt par 2
  let fa := field f 0 4
  let fb := field f 4 4
  let fc := field f 8 4
  (cubePair fa fb (mode != .two) fc).map fun p => ⟨mode, blockOf (parAt par 0), parAt par 1, fa, fb, fc, p.1, p.2⟩

/-- Bytes of a z-block of A. -/
def CubeOp.sizeA (o : CubeOp) : Nat := zblock o.fmta o.w o.b.m
/-- Bytes of a z-block of B. -/
def CubeOp.sizeB (o : CubeOp) : Nat := zblock o.fmtb o.w o.b.n
/-- Bytes of a z-block of C. -/
def CubeOp.sizeC (o : CubeOp) : Nat :=
  match o.mode with
  | .two => 0
  | .mz => zblock o.fmtc o.w o.b.m
  | .zn => zblock o.fmtc o.w o.b.n
  | .z => zblock o.fmtc o.w 1
/-- R376 for Z. -/
def CubeOp.zLegal (o : CubeOp) : Bool := decide (1 ≤ o.z ∧ o.z ≤ 1048576) && o.z % max o.zp o.w == 0
/-- Passes of the command (R374). -/
def CubeOp.passes (o : CubeOp) : Nat := o.z / o.zp
/-- First z-block that pass `p` reads. -/
def CubeOp.first (o : CubeOp) (p : Nat) : Nat := p * o.zp / o.w
/-- Number of z-blocks that pass `p` reads. -/
def CubeOp.reads (o : CubeOp) (p : Nat) : Nat := ((p + 1) * o.zp + o.w - 1) / o.w - o.first p
/-- Number of z-blocks that are consumed when pass `p` ends (R383). -/
def CubeOp.eats (o : CubeOp) (p : Nat) : Nat := (p + 1) * o.zp / o.w - o.first p
/-- Most z-blocks that a pass needs at once. -/
def CubeOp.most (o : CubeOp) : Nat := max 1 (o.zp / o.w)

/-! ## Operands (R377, R378) -/

/-- Byte `i` of a list. -/
def byteAt (bs : List Byte) (i : Nat) : Nat := (bs.getD i 0).toNat

/-- Element `z` of row `r` of a z-block that starts at `at0` and has `R` rows. -/
def cubeElem (f w R : Nat) (bs : List Byte) (at0 r z : Nat) : FVal :=
  let nib := fmtNibbles f
  let i := at0 + r * w * nib / 2 + z * nib / 2
  let code := if nib = 4 then byteAt bs i + 256 * byteAt bs (i + 1) else if nib = 2 then byteAt bs i else field (byteAt bs i) (4 * (z % 2)) 4
  let sc := at0 + R * w * nib / 2 + r * fmtScale f
  match f with
  | 0 => Fmt.bf16.decode code
  | 1 => Fmt.fp16.decode code
  | 2 => Fmt.e4m3.decode code
  | 3 => Fmt.e5m2.decode code
  | 4 => mxVal Fmt.e4m3 (byteAt bs sc) code
  | 5 => dxVal false (byteAt bs sc) (byteAt bs (sc + 1)) code
  | 6 => mxVal Fmt.e2m1 (byteAt bs sc) code
  | _ => dxVal true (byteAt bs sc) (byteAt bs (sc + 1)) code

/-- Bytes of a feed from its consumer position on. -/
def Team.ringBytes (T : Team) (f n : Nat) : List Byte :=
  let F := T.feed f
  (span 0 n).map fun i => Map.get (0 : Byte) T.scratch (F.fbase * 128 + (F.ccnt + i) % F.size)

/-- The values of row `r` that pass `p` reads, in increasing z. -/
def CubeOp.row (o : CubeOp) (f R size : Nat) (bs : List Byte) (p r : Nat) : List FVal :=
  (span (p * o.zp) o.zp).map fun z => cubeElem f o.w R bs ((z / o.w - o.first p) * size) r (z % o.w)

/-! ## One pass (R379) -/

/-- The term of a list of factors, and its flags. -/
def cubeTerm (fs : List FVal) : FVal × FlagSet :=
  if fs.any FVal.isNan then (.nan false, FlagSet.when (fs.any FVal.signalling) FlagSet.inv)
  else if fs.any FVal.isZero && fs.any FVal.isInf then (.nan false, FlagSet.inv)
  else
    match fs.foldl FVal.mul (.fin false 1 0) with
    | .fin n m e => let r := Fmt.fp32.round .rn n m e; (Fmt.fp32.decode r.1, r.2)
    | v => (v, 0)

/-- Stage two: the element after a pass, and the flags of both stages. -/
def cubeSum (e : Word) (ts : List (FVal × FlagSet)) : Word × FlagSet :=
  let r := Fmt.fp32.sum .rn (f32 e :: ts.map Prod.fst)
  (BitVec.ofNat 32 r.1, ts.foldl (fun f t => f ||| t.2) r.2)

/-- The terms of an output element: rows of A, of B, and of C where there is one. -/
def cubeTerms (a b : List FVal) (c : Option (List FVal)) : List (FVal × FlagSet) :=
  match c with
  | none => (a.zip b).map fun x => cubeTerm [x.1, x.2]
  | some cs => ((a.zip b).zip cs).map fun x => cubeTerm [x.1.1, x.1.2, x.2]

/-- Element of a tile. -/
def Tile.at (t : Tile) (m n : Nat) : Word := Map.get 0 t.e (64 * m + n)
/-- Write an element; there is none outside the 64 by 64 of the tile. -/
def Tile.put (t : Tile) (m n : Nat) (w : Word) : Tile := if m < 64 ∧ n < 64 then { t with e := Map.set 0 t.e (64 * m + n) w } else t
/-- Set tile flags (R380). -/
def Tile.addFlags (t : Tile) (f : FlagSet) : Tile :=
  { t with inv := t.inv || f.getLsbD 0, ov := t.ov || f.getLsbD 2, uf := t.uf || f.getLsbD 3, nx := t.nx || f.getLsbD 4 }
/-- Clear the flags. -/
def Tile.clearFlags (t : Tile) : Tile := { t with inv := false, ov := false, uf := false, nx := false }
/-- Set a block to +0.0. -/
def Tile.zero (t : Tile) (b : Block) : Tile :=
  { t with e := t.e.filter fun x => !decide (b.om ≤ x.1 / 64 ∧ x.1 / 64 < b.om + b.m ∧ b.on ≤ x.1 % 64 ∧ x.1 % 64 < b.on + b.n) }
/-- Set a block to +0.0; the flags of a whole tile are cleared with it (R380). -/
def Tile.wipe (t : Tile) (b : Block) : Tile := if b.whole then (t.zero b).clearFlags else t.zero b

/-- The results of one pass: (m, n, element), and the flags. -/
def CubeOp.results (o : CubeOp) (T : Team) (t : Tile) (fa fb fc p : Nat) : List (Nat × Nat × Word) × FlagSet :=
  let k := o.reads p
  let as := T.ringBytes fa (k * o.sizeA)
  let bs := T.ringBytes fb (k * o.sizeB)
  let cs := if o.mode = .two then [] else T.ringBytes fc (k * o.sizeC)
  let cols := (span 0 o.b.n).map fun n =>
    (n, o.row o.fmtb o.b.n o.sizeB bs p n, if o.mode = .zn then some (o.row o.fmtc o.b.n o.sizeC cs p n) else none)
  let cz := if o.mode = .z then some (o.row o.fmtc 1 o.sizeC cs p 0) else none
  let all := (span 0 o.b.m).flatMap fun m =>
    let a := o.row o.fmta o.b.m o.sizeA as p m
    let cm := if o.mode = .mz then some (o.row o.fmtc o.b.m o.sizeC cs p m) else cz
    cols.map fun c =>
      let r := cubeSum (t.at (o.b.om + m) (o.b.on + c.1)) (cubeTerms a c.2.1 (c.2.2.or cm))
      ((o.b.om + m, o.b.on + c.1, r.1), r.2)
  (all.map Prod.fst, all.foldl (fun f x => f ||| x.2) 0)

/-- A tile of a team. -/
def Team.tile (T : Team) (k : Nat) : Tile := T.tiles.getD k ⟨0, [], false, false, false, false⟩
/-- Change a tile. -/
def Team.modTile (T : Team) (k : Nat) (f : Tile → Tile) : Team := { T with tiles := T.tiles.modify k f }
/-- Consume bytes of a feed (R383). -/
def Team.eat (T : Team) (f n : Nat) : Team := T.setFeed f { T.feed f with ccnt := ((T.feed f).ccnt + n) % 2 ^ 32 }

/-- Every input feed holds the z-blocks that pass `p` reads (R382). -/
def CubeOp.ready (o : CubeOp) (T : Team) (fa fb fc p : Nat) : Bool :=
  let k := o.reads p
  decide (k * o.sizeA ≤ (T.feed fa).fill ∧ k * o.sizeB ≤ (T.feed fb).fill) &&
    (o.mode == .two || decide (k * o.sizeC ≤ (T.feed fc).fill))

/-- Perform pass `p` of a command. -/
def CubeOp.pass (o : CubeOp) (T : Team) (init : Bool) (fa fb fc t p : Nat) : Team × FlagSet :=
  let T0 := if init && p == 0 then T.modTile t (fun x => x.wipe o.b) else T
  let r := o.results T0 (T0.tile t) fa fb fc p
  let T1 := T0.modTile t fun x => (r.1.foldl (fun x e => x.put e.1 e.2.1 e.2.2) x).addFlags r.2
  let k := o.eats p
  let T2 := (T1.eat fa (k * o.sizeA)).eat fb (k * o.sizeB)
  (if o.mode = .two then T2 else T2.eat fc (k * o.sizeC), r.2)

/-! ## Drains (R387-R389) -/

/-- The size of a drain's output (Table 16.8). -/
def drainSize (f : DrainFmt) (b : Block) : Nat :=
  let pad := fun n => 128 * ((n + 127) / 128)
  match f with
  | .f32 => pad (b.m * b.n * 4)
  | .bf16 => pad (b.m * b.n * 2)
  | .e4m3 => pad (b.m * b.n)
  | .e5m2 => pad (b.m * b.n)
  | .tmx => b.m / 32 * zblock 4 32 b.n
  | .tdx => b.m / 32 * zblock 5 32 b.n

/-- Drain steps of 1,024 elements (R389). -/
def drainSteps (b : Block) : Nat := (b.m * b.n + 1023) / 1024

/-- Pad bytes with zeros. -/
def padTo (n : Nat) (bs : List Byte) : List Byte := bs ++ List.replicate (n - bs.length) 0

/-- The elements of a block in row-major order. -/
def Tile.block (t : Tile) (b : Block) : List Word :=
  (span 0 b.m).flatMap fun m => (span 0 b.n).map fun n => t.at (b.om + m) (b.on + n)

/-- An untransposed drain: bytes of each element and flags. -/
def drainRows (conv : Word → Nat × FlagSet) (bytes : Nat) (ws : List Word) : List Byte × FlagSet :=
  let rs := ws.map conv
  (rs.flatMap (fun r => leBytes bytes r.1), flagsOf rs)

/-- Column `n` of z-block `k`: 32 values. -/
def Tile.column (t : Tile) (b : Block) (k n : Nat) : List FVal :=
  (span 0 32).map fun i => f32 (t.at (b.om + 32 * k + i) (b.on + n))

/-- A transposed drain: element bytes, scale bytes and flags of one encoded column. -/
def drainCol (dx : Bool) (delta : Nat) (vs : List FVal) : List Byte × List Byte × FlagSet :=
  if dx then
    let r := dxEnc false delta vs
    (r.1.flatMap (leBytes 1), leBytes 1 r.2.1 ++ leBytes 1 r.2.2.1, r.2.2.2)
  else
    let r := mxEnc Fmt.e4m3 vs
    (r.1.flatMap (leBytes 1), leBytes 1 r.2.1, r.2.2)

/-- The z-blocks of a transposed drain. -/
def Tile.transposed (t : Tile) (dx : Bool) (delta : Nat) (b : Block) : List Byte × FlagSet :=
  let blocks := (span 0 (b.m / 32)).map fun k =>
    let cs := (span 0 b.n).map fun n => drainCol dx delta (t.column b k n)
    (padTo (zblock (if dx then 5 else 4) 32 b.n) (cs.flatMap (fun c => c.1) ++ cs.flatMap (fun c => c.2.1)),
      cs.foldl (fun f c => f ||| c.2.2) 0)
  (blocks.flatMap Prod.fst, blocks.foldl (fun f x => f ||| x.2) 0)

/-- The output of a drain, and its flags (R388). -/
def Tile.drain (t : Tile) (f : DrainFmt) (delta : Nat) (b : Block) : List Byte × FlagSet :=
  let r := match f with
    | .f32 => drainRows (fun w => (w.toNat, 0)) 4 (t.block b)
    | .bf16 => drainRows (fun w => Fmt.bf16.convert .rn (f32 w)) 2 (t.block b)
    | .e4m3 => drainRows (fun w => Fmt.e4m3.convert .rn (f32 w)) 1 (t.block b)
    | .e5m2 => drainRows (fun w => Fmt.e5m2.convert .rn (f32 w)) 1 (t.block b)
    | .tmx => t.transposed false delta b
    | .tdx => t.transposed true delta b
  (padTo (drainSize f b) r.1, r.2)

/-- The drain step that gives byte `off` of the output: the one that reads its element, the last one for padding (R389). -/
def drainStepOf (f : DrainFmt) (b : Block) (off : Nat) : Nat :=
  let rows := fun (size : Nat) => min (off / (1024 * size)) (drainSteps b - 1)
  let cols := fun (scale : Nat) =>
    let z := zblock (if scale = 1 then 4 else 5) 32 b.n
    let r := off % z
    if r < 32 * b.n then (off / z * b.n + r / 32) / 32
    else if r < (32 + scale) * b.n then (off / z * b.n + (r - 32 * b.n) / scale) / 32
    else drainSteps b - 1
  match f with
  | .f32 => rows 4
  | .bf16 => rows 2
  | .e4m3 => rows 1
  | .e5m2 => rows 1
  | .tmx => cols 1
  | .tdx => cols 2

/-- The bytes of line `l` of an output of `n` bytes whose first byte lies `a` bytes into its line. -/
def drainLine (a n l : Nat) : List Nat := span (128 * l - a) (min (128 * (l + 1) - a) n - (128 * l - a))

/-- The drain step that writes a line of the output: the last of those that give a byte of it, so that the line is written whole (R357). -/
def drainLineStep (f : DrainFmt) (b : Block) (a n l : Nat) : Nat := (drainLine a n l).foldl (fun j o => max j (drainStepOf f b o)) 0

/-- What drain step `j` writes, by offset: whole lines (R357). -/
def drainBytes (f : DrainFmt) (b : Block) (a : Nat) (out : List Byte) (j : Nat) : List (Nat × Byte) :=
  ((span 0 (out.length / 128 + 2)).filter fun l => drainLineStep f b a out.length l == j).flatMap fun l =>
    (drainLine a out.length l).zip (out.drop (128 * l - a))

/-- The flags that the conversions of one drain step set (R380). -/
def Tile.drainFlags (t : Tile) (f : DrainFmt) (delta : Nat) (b : Block) (j : Nat) : FlagSet :=
  let rows := fun (conv : Word → Nat × FlagSet) => flagsOf ((((t.block b).drop (1024 * j)).take 1024).map conv)
  let cols := fun (dx : Bool) =>
    (span (32 * j) (min 32 (b.m / 32 * b.n - 32 * j))).foldl (fun g c => g ||| (drainCol dx delta (t.column b (c / b.n) (c % b.n))).2.2) 0
  match f with
  | .f32 => 0
  | .bf16 => rows fun w => Fmt.bf16.convert .rn (f32 w)
  | .e4m3 => rows fun w => Fmt.e4m3.convert .rn (f32 w)
  | .e5m2 => rows fun w => Fmt.e5m2.convert .rn (f32 w)
  | .tmx => cols false
  | .tdx => cols true

/-- The scratch byte of a feed's ring at a byte count (R340). -/
def Feed.byteAt (F : Feed) (c : Nat) : Nat := F.fbase * 128 + c % F.size

/-- Every line of a ring that `n` bytes from a byte count touch is present (R135). -/
def Team.ringClear (T : Team) (F : Feed) (c n : Nat) : Bool :=
  (span 0 (n / 128 + 2)).all fun i => let p := c / 128 * 128 + 128 * i; decide (c + n ≤ p) || !T.lineAbsent (F.byteAt p / 128)

/-- Write bytes of a ring, given with their offsets from a byte count; they may spoil a tile of the team (R459). -/
def Team.ringWrite (T : Team) (F : Feed) (c : Nat) (bs : List (Nat × Byte)) : Team :=
  let m := bs.foldl (fun m e => Memory.set m (F.byteAt (c + e.1)) e.2) T.scratch
  bs.foldl (fun T e => T.spoil (F.byteAt (c + e.1)) 1) { T with scratch := m }

/-- One drain step: its elements are read, converted and written behind the producer count; the last one clears the block and advances the
count; a drain that clears a whole tile clears the tile's flags when it begins to read (R380, R389). -/
def Team.drainPart (T : Team) (f : DrainFmt) (clr : Bool) (df t delta : Nat) (b : Block) (j : Nat) : Team × FlagSet :=
  let x := T.tile t
  let out := (x.drain f delta b).1
  let g := x.drainFlags f delta b j
  let last := decide (drainSteps b ≤ j + 1)
  let F := T.feed df
  let T1 := T.modTile t fun x =>
    let x1 := (if clr && b.whole && j == 0 then x.clearFlags else x).addFlags g
    if clr && last then x1.zero b else x1
  let T2 := T1.ringWrite F F.pcnt (drainBytes f b (F.pcnt % 128) out j)
  (if last then T2.setFeed df { F with pcnt := (F.pcnt + out.length) % 2 ^ 32 } else T2, g)

/-! ## The cube's turn (R382) -/

/-- Steps of a command. -/
def EngCmd.steps (c : EngCmd) : Nat :=
  match c with
  | .cube _ mode _ _ _ _ _ par => (match cubeOp mode par with | some o => o.passes | none => 0)
  | .cdrain _ _ _ _ _ _ par => drainSteps (blockOf (parAt par 0))
  | _ => 0

/-- The next step of an entry is ready. -/
def Eng.stepReady (e : Eng) (T : Team) : Bool :=
  match e.cmd with
  | .cube _ mode _ fa fb fc _ par =>
    (match cubeOp mode par with | some o => decide (e.cpos < o.passes) && o.ready T fa fb fc e.cpos | none => false)
  | .cdrain _ f _ df _ _ par =>
    let n := drainSize f (blockOf (parAt par 0))
    decide (e.cpos < e.cmd.steps) && decide (n ≤ (T.feed df).room) && T.ringClear (T.feed df) (T.feed df).pcnt n
  | _ => false

/-- The late results of a team have all come. -/
def Team.lateHere (T : Team) : Bool := T.threads.all (fun e => e.2.late.all fun l => l.st != .waiting) && T.steer.late.all fun l => l.st != .waiting

/-- Steps 1 and 2 of a team's save: its engines still work, for its late results may wait for them; step 3 stops them (R476). -/
def Team.saveBegun (T : Team) : Bool := T.phase == .saving && !T.lateHere

/-- The commands of a team go on: it has started, its save has not come to step 3, and it does not wait for its gang (R371, R476). -/
def Team.working (T : Team) : Bool := T.core?.isSome && (T.phase == .running || T.saveBegun) && !T.killed

/-- The staging streams of a team go on, also before it starts (R132). -/
def Team.staging (T : Team) : Bool := T.core?.isSome && (T.phase == .running || T.phase == .staging || T.saveBegun) && !T.killed

/-- A team's head: its oldest queued or running cube command. -/
def Team.cubeHead (T : Team) : Option (Nat × Eng) :=
  (sortBy (fun (e : Nat × Eng) => e.2.order) (T.eng.filter fun e => e.2.cmd.isCube && e.2.st.inQueue)).head?

/-- The command whose step the cube starts: the oldest ready head of the core's teams. -/
def State.cubeNext (s : State) (core : Nat) : Option (Nat × Nat) :=
  let cs := (s.teamsOn core).filterMap fun t =>
    match t.2.cubeHead with
    | some e => if t.2.working && e.2.stepReady t.2 && !s.acqHeld t.1 e.2 then some (e.2.order, t.1, e.1) else none
    | none => none
  ((sortBy Prod.fst cs).head?).map Prod.snd

/-- An entry has done one more step, which set flags. -/
def Eng.stepped (e : Eng) (f : FlagSet) : Eng :=
  { e with st := .running, cpos := e.cpos + 1, spos := e.cpos + 1, cleared := true, flags := e.flags ||| f }

/-- CUBE_PASS (R379, R382): nothing happens while the cube's next step is no pass. -/
def execCubePass (core : BitVec 8) (s : State) : Res :=
  match s.cubeNext core.toNat with
  | none => .next s
  | some (t, i) =>
    match s.team? t with
    | none => .next s
    | some T =>
      match Map.find? T.eng i with
      | none => .next s
      | some e =>
        match e.cmd with
        | .cube _ mode init fa fb fc k par =>
          (match cubeOp mode par with
           | some o =>
             let r := o.pass T init fa fb fc k e.cpos
             .next ((s.setTeam t r.1).modEng t i fun e => e.stepped r.2)
           | none => .next s)
        | _ => .next s

/-- CDRAIN_STEP (R382, R389). -/
def execCdrainStep (core : BitVec 8) (s : State) : Res :=
  match s.cubeNext core.toNat with
  | none => .next s
  | some (t, i) =>
    match s.team? t with
    | none => .next s
    | some T =>
      match Map.find? T.eng i with
      | none => .next s
      | some e =>
        match e.cmd with
        | .cdrain _ f clr df k delta par =>
          let r := T.drainPart f clr df k delta (blockOf (parAt par 0)) e.cpos
          .next (((s.setTeam t r.1).modEng t i fun e => e.stepped r.2).serveRecvs t df 1024)
        | _ => .next s

/-- The arrival that a command makes at its completion. -/
def State.arriveCmd (s : State) (t : Nat) (e : EArgs) : State := if e.arv then s.arriveBar t e.bar.toNat none else s

/-- The end of a command: report, arrival, and its entry is free (R384, R345). -/
def State.finishCmd (s : State) (t i : Nat) (e : Eng) : State :=
  let s1 := match s.team? t with
    | some T => s.arithEng t i e.cmd.src e.flags ((e.flags &&& T.xmask).zeroExtend 32)
    | none => s
  let s2 := s1.dropEng t i
  let s3 := match e.cmd.args? with | some a => s2.arriveCmd t a | none => s2
  s3.drainWaiting

/-- CUBE_COMPLETE (R384): a command whose steps have ended completes, also while its team is being saved; none of a saved team does. -/
def execCubeComplete (t i : Nat) (s : State) : Res :=
  match s.team? t with
  | none => .next s
  | some T =>
    match Map.find? T.eng i with
    | some e => if e.cmd.isCube && e.st.inQueue && T.core?.isSome && !T.killed && decide (e.cmd.steps ≤ e.cpos) then .next (s.finishCmd t i e) else .next s
    | none => .next s

end Sys2Proof.Machine
end

