-- ==== Sys2Proof/Machine/LaneCtl.lean ====
section
/-! DEFINITION. Lane instructions 0x60-0x67: control transfers, the link stack, JOIN, EXIT and SPAWN (11.7, 11.8, 11.10). The step has
set the thread's next position to the fall-through header before a meaning runs. -/

namespace Sys2Proof.Machine

/-- The position of a clause header. -/
def atHeader (w : Nat) : Pos := ⟨w, 0⟩

/-- Go to a target. -/
def Thread.goto (th : Thread) (w : Nat) : Thread := { th with nextPos := atHeader w }

/-- The generic address of a link-spill word (R266). -/
def spillAddr (j : Nat) : DWord := BitVec.ofNat 64 (2 ^ 56 + 4 * j)

/-- The outcome of a link-stack operation: the state and thread after it, with a popped word, or a fault that changed neither the
stack nor memory. -/
inductive LinkRes where
  | ok (s : State) (th : Thread) (w : Word)
  | bad (s : State) (f : Trap)
  deriving DecidableEq, Repr

/-- `link_push` (R266, R267): the newest entry stands first. ADDR of the APERTURE is where the entry would have gone (log entry 94). -/
def State.linkPush (s : State) (T : Team) (tid : Nat) (th : Thread) (ret : Tgt) : LinkRes :=
  if th.link.length < 4 then .ok s { th with link := ret :: th.link } 0
  else if th.depth = 16 * T.lspill then .bad s (trapAt Code.aperture 0 (spillAddr th.depth))
  else
    let a := spillAddr th.depth
    match s.resolve T (some tid) a 4 with
    | .mem priv va =>
      (match s.judgeStore T.ctx T.cluster priv va false with
       | (s1, .ok pa _) =>
         .ok (s1.store pa (leBytes 4 (th.link.getLastD 0).toNat)) { th with link := ret :: th.link.dropLast, depth := th.depth + 1 } 0
       | (s1, .nonres) => .bad s1 (trapAt Code.storeNonres 0 a)
       | (s1, .bad k q) => .bad s1 (trapAt k q a))
    | _ => .bad s (trapAt Code.aperture 0 a)

/-- `link_pop` (R266, R267). -/
def State.linkPop (s : State) (T : Team) (tid : Nat) (th : Thread) : LinkRes :=
  match th.link with
  | e :: r => .ok s { th with link := r } (e.zeroExtend 32)
  | [] =>
    if th.depth = 0 then .bad s { code := Code.badClause }
    else
      let a := spillAddr (th.depth - 1)
      match s.resolve T (some tid) a 4 with
      | .mem priv va =>
        (match s.judgeLoad T.ctx T.cluster priv va with
         | (s1, .ok pa _) => .ok s1 { th with depth := th.depth - 1 } (BitVec.ofNat 32 (s1.val pa 4))
         | (s1, .nonres) => .bad s1 (trapAt Code.storeNonres 2 a)
         | (s1, .bad k q) => .bad s1 (trapAt k q a))
      | _ => .bad s (trapAt Code.aperture 0 a)

/-- A target that names no position: BAD_CLAUSE at the instruction itself (R265). -/
def badTarget (w : Word) : Trap := { code := Code.badClause, addr := w.zeroExtend 64 }

/-- BR (R265). -/
def execBr (p : Pred) (n : Bool) (_j : Option (BitVec 4)) (tgt : Tgt) (s : State) : Res :=
  s.laneEff [] [p.toNat] fun th => if th.pred p.toNat != n then th.goto tgt.toNat else th

/-- JMP (R265). -/
def execJmp (tgt : Tgt) (s : State) : Res := s.laneEff [] [] fun th => th.goto tgt.toNat

/-- CALL (R265). -/
def execCall (tgt : Tgt) (s : State) : Res :=
  s.laneRun [] [] fun t T tid th =>
    match s.linkPush T tid th (BitVec.ofNat 24 th.nextPos.h) with
    | .bad s1 f => .next (s1.stopLane t T tid th f)
    | .ok s1 th1 _ => .next (s1.setThread t T tid (th1.goto tgt.toNat))

/-- CALLI (R265). -/
def execCalli (a : Reg) (_j : Option (BitVec 4)) (s : State) : Res :=
  s.laneRun [a.toNat] [] fun t T tid th =>
    let w := th.reg a.toNat
    if 2 ^ 24 ≤ w.toNat then .next (s.stopLane t T tid th (badTarget w))
    else
      match s.linkPush T tid th (BitVec.ofNat 24 th.nextPos.h) with
      | .bad s1 f => .next (s1.stopLane t T tid th f)
      | .ok s1 th1 _ => .next (s1.setThread t T tid (th1.goto w.toNat))

/-- RET (R265). -/
def execRet (_j : Option (BitVec 4)) (s : State) : Res :=
  s.laneRun [] [] fun t T tid th =>
    match s.linkPop T tid th with
    | .bad s1 f => .next (s1.stopLane t T tid th f)
    | .ok s1 th1 w =>
      if 2 ^ 24 ≤ w.toNat then .next (s1.stopLane t T tid th (badTarget w))
      else .next (s1.setThread t T tid (th1.goto w.toNat))

/-- JOIN (R226, R271): the tests of the slot come at the end of the aclk (`State.endJoins`). Where several threads of a wave are the first arrivals
in one instruction with different T, that of the thread performed first counts, the one of the lowest id (log entry 95). -/
def execJoin (a : Reg) (p : Pred) (j : BitVec 4) (s : State) : Res :=
  s.laneRun [a.toNat] [p.toNat] fun t T tid th =>
    let x := T.join j.toNat
    if !x.mask.contains tid then .next (s.setThread t T tid (th.setPred p.toNat false))
    else
      let w := th.reg a.toNat
      let x1 : Join := { x with
        arrived := if x.arrived.contains tid then x.arrived else x.arrived ++ [tid],
        armed := true,
        deadline := if x.armed then x.deadline else if w = 0xFFFFFFFF then none else some ((s.clock / Config.ticksPerAclk + w.toNat) * Config.ticksPerAclk) }
      .next (s.park t (T.setJoin j.toNat x1) tid th (.join j.toNat p.toNat))

/-- EXIT (R272). -/
def execExit (s : State) : Res :=
  s.laneRun [] [] fun t _ tid _ => .next ((s.arithLane t tid).endThread t tid)

/-- A context for one more thread of a role in a partition (R126): one held free, or one of the core. -/
def State.takeContext (s : State) (T : Team) (k p : Nat) : Option Team :=
  let r := T.role k
  if r.held.contains p then some (T.modRole k fun r => { r with held := r.held.erase p })
  else
    match T.core? with
    | none => none
    | some c =>
      if decide (1 ≤ s.partCtx c p) && decide ((r.nreg : Int) ≤ s.partFree c p) && decide (0 ≤ s.corePool c - r.nreg) then some T else none

/-- The ids that are not free. -/
def Team.usedTids (T : Team) : List Nat := T.liveTids

/-- The state of a spawned thread (R230). -/
def Thread.spawned (th : Thread) (ws : List Word) (tgt : Nat) (now : Nat) : Thread :=
  ({ role := th.role, part := th.part, st := .former, pos := atHeader tgt, nextPos := atHeader tgt, g := false, v := [], p := 0, x := [],
     link := [], depth := 0, sticky := 0, reported := 0, late := [], dpos := th.dpos, nxt := th.nxt, stamp := now,
     fenced := false } : Thread).setRegs 0 ws

/-- Create up to `n` threads, one after another: the state and how many were created (R273). -/
def State.spawnLoop (s : State) (t : Nat) (th : Thread) (ws : List Word) (tgt : Nat) : Nat → State × Nat
  | 0 => (s, 0)
  | n + 1 =>
    match s.team? t with
    | none => (s, 0)
    | some T =>
      match lowestFree T.usedTids 0 1024, s.takeContext T th.role th.part with
      | some u, some T1 =>
        let s1 := s.setThread t T1 u (th.spawned ws tgt (s.clock / Config.ticksPerAclk * 1024))
        let s2 := match s1.team? t with | some T2 => s1.formerAdd T2 t [u] (atHeader tgt) th.part false | none => s1
        let r := State.spawnLoop s2 t th ws tgt n
        (r.1, r.2 + 1)
      | _, _ => (s, 0)

/-- SPAWN (R230, R273): true only when as many threads were created as v[A] asks for. -/
def execSpawn (a : Reg) (p : Pred) (tgt : Tgt) (s : State) : Res :=
  s.laneRun (span a.toNat 9) [p.toNat] fun t _ tid th =>
    let c := (th.reg a.toNat).toNat
    let ws := (span (a.toNat + 1) 8).map th.reg
    let r := s.spawnLoop t th ws tgt.toNat (min c 32)
    .next (r.1.modThread t tid fun th => (th.setReg a.toNat (BitVec.ofNat 32 r.2)).setPred p.toNat (decide (r.2 = c)))

end Sys2Proof.Machine
end

