-- ==== Sys2Proof/Machine/LaneSync.lean ====
section
/-! DEFINITION. Lane instructions 0x68-0x6E: REDQ, DQPOP, BARA, BARW, RCLAIM, RREL and TRDY (18.2, 18.6, 18.7, 13.4, 19.4). -/

namespace Sys2Proof.Machine

/-- REDQ (R427, R428). -/
def execRedq (n : BitVec 3) (op : RedOp) (a : Reg) (_ha : Bool) (s : State) : Res :=
  s.laneRun [a.toNat] [] fun t T tid th =>
    let x := th.reg a.toNat
    if T.redFull th n.toNat then .next (s.park t T tid th (.redq n.toNat op x))
    else .next ((s.setTeam t (T.contribute tid th n.toNat op x)).testRed t th.role n.toNat)

/-- DQPOP (R310). -/
def execDqpop (d : Reg) (p : Option Pred) (s : State) : Res :=
  s.laneRun [d.toNat] (p.map BitVec.toNat).toList fun t T tid th =>
    match T.popDq th with
    | some v => .next ((s.setThread t T tid (th.takeDq d.toNat (p.map BitVec.toNat) v)).modTeam t fun T => T.rehead th.role)
    | none => .next (s.park t T tid th (.queue d.toNat (p.map BitVec.toNat)))

/-- BARA (R417). -/
def execBara (k : Obj) (p : Option Pred) (s : State) : Res :=
  s.laneRun [] (p.map BitVec.toNat).toList fun t T tid _ =>
    let s1 := s.arithLane t tid
    let s2 := match p with | some q => s1.modThread t tid fun th => th.setPred q.toNat (T.bar k.toNat).ph | none => s1
    .next (s2.arriveBar t k.toNat (some tid))

/-- A lane thread parks on a barrier while its phase equals a token (R416). -/
def State.laneToken (s : State) (t tid k : Nat) (tok : Bool) : State :=
  s.onThread t tid fun T th => if (T.bar k).ph = tok then s.park t T tid th (.barrier k tok) else s

/-- BARW (R416, R417): with ARV the token is the phase before the arrival. -/
def execBarw (k : Obj) (arv : Bool) (p : Pred) (s : State) : Res :=
  s.laneRun [] (if arv then [] else [p.toNat]) fun t T tid th =>
    if arv then .next (((s.arithLane t tid).arriveBar t k.toNat (some tid)).laneToken t tid k.toNat (T.bar k.toNat).ph)
    else .next (s.laneToken t tid k.toNat (th.pred p.toNat))

/-- Arrive at a role's claim instance (R430, R431). -/
def State.claimArrive (s : State) (t : Nat) (T : Team) (tid : Nat) (th : Thread) (a : ClaimArr) : State :=
  let fresh := (T.role th.role).claim.isEmpty
  let T1 := T.modRole th.role fun r =>
    { r with claim := r.claim ++ [a], claimOrder := if fresh then s.claimCtr else r.claimOrder }
  let s1 := s.park t T1 tid th (.claim a.p)
  ({ s1 with claimCtr := if fresh then s.claimCtr + 1 else s.claimCtr }).reconsiderFor t

/-- RCLAIM (R430, R431). -/
def execRclaim (p : Pred) (b : Src) (s : State) : Res :=
  s.laneRun (srcRegs b) [p.toNat] fun t T tid th =>
    let n := (srcVal b th).toNat
    if n = 0 then .next (s.setThread t T tid (th.setPred p.toNat true))
    else if n % 4 ≠ 0 ∨ 128 < (T.role th.role).nreg + n then .next (s.stopLane t T tid th { code := Code.regRange })
    else .next (s.claimArrive t T tid th ⟨tid, false, false, n, p.toNat⟩)

/-- RREL (R430, R431); the step issues it only when every outstanding result of its thread is written. -/
def execRrel (p : Pred) (b : Src) (pool : Bool) (s : State) : Res :=
  s.laneRun (srcRegs b) [p.toNat] fun t T tid th =>
    let n := (srcVal b th).toNat
    if n = 0 then .next (s.setThread t T tid (th.setPred p.toNat true))
    else if n % 4 ≠ 0 ∨ (T.role th.role).nreg < n + 4 then .next (s.stopLane t T tid th { code := Code.regRange })
    else .next (s.claimArrive t T tid th ⟨tid, true, pool, n, p.toNat⟩)

/-- TRDY (R443). -/
def execTrdy (a : Reg) (_ha : Bool) (b : Src) (s : State) : Res :=
  s.laneRun (a.toNat :: srcRegs b) [] fun t T tid th =>
    let x := th.reg a.toNat
    let y := srcVal b th
    if T.tileOk x y then .next (s.setTeam t (T.setReady x.toNat y.toNat))
    else .next (s.stopLane t T tid th { code := Code.indexRange })

end Sys2Proof.Machine
end

