-- ==== Sys2Proof/Machine/LaneSys.lean ====
section
/-! DEFINITION. Lane instruction 0x7F, SYS, and the special registers of both streams (Tables 9.2, 11.6). -/

namespace Sys2Proof.Machine

/-- TRAP (R274, R466). -/
def execTrap (code : Option Word) (s : State) : Res :=
  s.laneRun [] [] fun t T tid th => .next (s.stopLane t T tid th { code := Code.trap, info := code.getD 0 })

/-- BRKPT (R274, R466). -/
def execBrkpt (s : State) : Res :=
  s.laneRun [] [] fun t T tid th => .next (s.stopLane t T tid th { code := Code.brkpt })

/-- The wave slot and lane of a thread in a wave (Table 9.2). -/
def State.waveOf (s : State) (T : Team) (t tid : Nat) (th : Thread) : Nat × Nat :=
  match T.core? with
  | none => (0, 0)
  | some c =>
    let p := Map.get ⟨[], [], []⟩ (Map.get [] s.cores c) th.part
    match List.find? (fun (w : Nat × Wave) => w.2.team == t && w.2.tids.contains tid) p.waves with
    | some w => (w.1, (w.2.tids.takeWhile (· ≠ tid)).length)
    | none => (0, 0)

/-- The special registers that a team's parties share (Table 9.2). -/
def State.teamSpecial (s : State) (T : Team) (sel : Special) : Nat :=
  match sel with
  | .team => T.index
  | .grid => T.gridNo.toNat
  | .gangrank => T.rank
  | .gangsize => T.gsize
  | .aid => s.cfg.aid.toNat
  | .depth => T.depth
  | .dtime => s.dtime.toNat
  | .teamstat => T.stat.toNat
  | .core => T.core?.getD 0
  | _ => 0xFFFFFFFF

/-- A special register as a lane thread reads it (R206). -/
def State.laneSpecial (s : State) (t : Nat) (T : Team) (tid : Nat) (th : Thread) (sel : Special) : Nat :=
  match sel with
  | .tid => tid
  | .rid => th.role
  | .rtid => (tid + 1024 - (T.role th.role).first) % 1024
  | .part => th.part
  | .wave => (s.waveOf T t tid th).1
  | .lane => (s.waveOf T t tid th).2
  | x => s.teamSpecial T x

/-- SRD (R206, R207). -/
def execSrd (d : Reg) (sel : Special) (s : State) : Res :=
  s.laneRun (span d.toNat (if sel = .dtime then 2 else 1)) [] fun t T tid th =>
    let v := s.laneSpecial t T tid th sel
    if sel = .dtime then .next (s.setThread t T tid (th.setPair d.toNat (BitVec.ofNat 64 v)))
    else .next (s.setThread t T tid (th.setReg d.toNat (BitVec.ofNat 32 v)))

/-- NOP. -/
def execNop (s : State) : Res := s.laneRun [] [] fun _ _ _ _ => .next s

/-- YIELD: time only (R209). -/
def execYield (s : State) : Res := s.laneRun [] [] fun _ _ _ _ => .next s

/-- STAT (R274, R469); the step issues it only when every result before it has been written, so that their flags are there. -/
def execStat (d : Reg) (clr : Option (BitVec 5)) (s : State) : Res :=
  s.laneEff [d.toNat] [] fun th =>
    let f := clr.getD 0
    { th.setReg d.toNat (th.sticky.zeroExtend 32) with sticky := th.sticky &&& ~~~f, reported := th.reported &&& ~~~f }

end Sys2Proof.Machine
end

