-- ==== Sys2Proof/Machine/LaneRay.lean ====
section
/-! DEFINITION. Lane instructions 0x70-0x72: RAYQ, RWSEND and RWRECV (17.3-17.5). -/

namespace Sys2Proof.Machine

/-- RAYQ (R404-R407). -/
def execRayq (d a : Reg) (la : BitVec 4) (b : Reg) (p : Pred) (any : Bool) (s : State) : Res :=
  s.memRun (span d.toNat 4 ++ span a.toNat 8 ++ [b.toNat, b.toNat + 1]) [p.toNat, 15] fun t T tid th =>
    let q : RayRun := ⟨d.toNat, p.toNat, any, th.pairAt b.toNat, (span a.toNat 8).map th.reg, []⟩
    .next (s.rayGo t T tid th q la.toNat)

/-- RWSEND (R411). -/
def execRwsend (m : WArgs) (s : State) : Res :=
  s.memRun (span m.d.toNat 16 ++ [m.a.toNat, m.a.toNat + 1]) [] fun t T tid th =>
    let off := (th.pairAt m.a.toNat).toNat
    let bad := fun (s : State) (k : BitVec 8) =>
      Host.Outcome.next (s.stopLane t T tid th { code := k, addr := BitVec.ofNat 64 off, handle := m.handle })
    match s.winCheck T ⟨m.handle, off, 64, 1, [1], 1⟩ with
    | (s1, .bad f) => .next (s1.stopLane t T tid th f)
    | (s1, .ok (.one aid (.ctx ctx key at0) _ _ _)) =>
      if off % 64 ≠ 0 then bad s1 Code.align
      else if 255 < off / 64 then bad s1 Code.windowLimit
      else
        let s2 := s1.rrcWrite T.ctx m.handle off 64
        let box := off / 64
        let c := s2.credit aid ctx box
        if c.1 = c.2 then .next (s2.park t T tid th (.send m aid ctx key box at0))
        else .next ((s2.sendRecord t tid th m aid ctx key box at0).setThread t T tid th)
    | (s1, _) => bad s1 Code.windowHandle

/-- Some box of the context on this K9 is bound to a team's feed (R412). -/
def State.feedBound (s : State) (t f : Nat) : Bool := s.boxes.any fun b => b.2.team == t && b.2.feed == f

/-- One number for the threads of a wave that issue together: a partition issues one wave in an aclk cycle (R209). -/
def State.issueMark (s : State) (th : Thread) : Nat := 4 * s.clock + th.part

/-- RWRECV, blocking (R412). -/
def execRwrecv (d : Reg) (f : Obj) (la : BitVec 4) (s : State) : Res :=
  s.feedRun f.toNat (span d.toNat 16) [] [] fun t T tid th =>
    if !s.feedBound t f.toNat then .next (s.stopLane t T tid th { code := Code.slotGrant })
    else if (T.feed f.toNat).fill < 64 then .next (s.park t T tid th (.recv f.toNat d.toNat la.toNat (s.issueMark th)))
    else .next (s.takeRecord t T tid th f.toNat d.toNat la.toNat [])

/-- RWRECV.nb (R412). -/
def execRwrecvNb (d : Reg) (f : Obj) (la : BitVec 4) (p : Pred) (s : State) : Res :=
  s.feedRun f.toNat (span d.toNat 16) [] [p.toNat] fun t T tid th =>
    if !s.feedBound t f.toNat then .next (s.stopLane t T tid th { code := Code.slotGrant })
    else if (T.feed f.toNat).fill < 64 then
      .next (s.lateLane t T tid th la.toNat (span d.toNat 16) [p.toNat] ((span d.toNat 16).map fun r => (r, 0)) [(p.toNat, false)] 0)
    else .next (s.takeRecord t T tid th f.toNat d.toNat la.toNat [(p.toNat, true)])

end Sys2Proof.Machine
end

