-- ==== Sys2Proof/Machine/SteerCtl.lean ====
section
/-! DEFINITION. Steering instructions 0x20-0x29 and SSYS: control, decision queues, result registers, traps (13.3, 13.4, 13.7). -/

namespace Sys2Proof.Machine

/-- Go to a target. -/
def Steer.goto (st : Steer) (w : Nat) : Steer := { st with nextPos := atHeader w }

/-- SBR (R307). -/
def execSbr (c : Cond) (n : Bool) (tgt : Tgt) (s : State) : Res :=
  s.steerEff [] fun st => if st.cond c.toNat != n then st.goto tgt.toNat else st

/-- SJMP (R307). -/
def execSjmp (tgt : Tgt) (s : State) : Res := s.steerEff [] fun st => st.goto tgt.toNat

/-- SCALL (R307): the newest entry stands first. -/
def execScall (tgt : Tgt) (s : State) : Res :=
  s.steerRun [] fun t T st =>
    if 16 ≤ st.link.length then .next (s.stopSteer t T { code := Code.aperture })
    else .next (s.setSteer t T ({ st with st := .running, link := BitVec.ofNat 24 st.nextPos.h :: st.link }.goto tgt.toNat))

/-- SRET (R307). -/
def execSret (s : State) : Res :=
  s.steerRun [] fun t T st =>
    match st.link with
    | [] => .next (s.stopSteer t T { code := Code.badClause })
    | e :: r => .next (s.setSteer t T ({ st with st := .running, link := r }.goto e.toNat))

/-- SLOOP (R307). -/
def execSloop (d : SReg) (tgt : Tgt) (s : State) : Res :=
  s.steerEff [d.toNat] fun st =>
    let v := st.reg d.toNat - 1
    let st1 := st.setReg d.toNat v
    if v ≠ 0 then st1.goto tgt.toNat else st1

/-- Close every decision queue of a team (R311). -/
def Team.closeQueues (T : Team) : Team :=
  { T with roles := T.roles.map fun r => { r with dq := { r.dq with closed := true } } }

/-- SDONE (R308). -/
def execSdone (s : State) : Res :=
  s.steer fun t T st =>
    if !st.late.isEmpty then .next (s.steerWait t T .done)
    else
      let T1 := { T with steer := { st with st := .done, armt := none, blatch := none, fences := [] } }
      .next ((span 0 T.roles.length).foldl (fun s k => s.serveQueue t k) (s.setTeam t T1.closeQueues))

/-- DQPUSH (R309). -/
def execDqpush (role : BitVec 2) (b : SSrc) (s : State) : Res :=
  s.steerRun (ssrcRegs b) fun t T st =>
    let k := role.toNat
    if T.roles.length ≤ k then .next (s.setSteer t T { st with st := .running })
    else
      let q := (T.role k).dq
      if 32 ≤ q.tail - q.head then .next (s.steerWait t T (.dqpush k))
      else
        let T1 := { T with steer := { st with st := .running } }
        let T2 := T1.modRole k fun r =>
          { r with dq := { q with ent := Map.set 0 q.ent (q.tail % 32) (ssrcVal b st), tail := q.tail + 1 } }
        .next ((s.setTeam t T2).serveQueue t k)

/-- QRD (R312). -/
def execQrd (d : SReg) (q : BitVec 3) (b : SSrc) (s : State) : Res :=
  s.steerRun (d.toNat :: ssrcRegs b) fun t T st =>
    let v := Map.get (0, 0) T.q q.toNat
    if (v.2 - (ssrcVal b st).truncate 16).toNat < 2 ^ 15 then
      .next (s.setSteer t T ({ st with st := .running }.setReg d.toNat v.1))
    else .next (s.steerWait t T (.qrd q.toNat ((ssrcVal b st).truncate 16)))

/-- STRAP (R323). -/
def execStrap (code : Option Word) (s : State) : Res :=
  s.steerRun [] fun t T _ => .next (s.stopSteer t T { code := Code.trap, info := code.getD 0 })

/-- SBRK (R323). -/
def execSbrk (s : State) : Res := s.steerRun [] fun t T _ => .next (s.stopSteer t T { code := Code.brkpt })

/-- SNOP. -/
def execSnop (s : State) : Res := s.steerEff [] fun st => st

/-- SYLD: time only (R212). -/
def execSyld (s : State) : Res := s.steerEff [] fun st => st

end Sys2Proof.Machine
end

