-- ==== Sys2Proof/Machine/SteerMem.lean ====
section
/-! DEFINITION. Steering instructions 0x2A-0x2E and CWAIT: loads, stores, atomics, fences, special registers and the wait on a counter
(13.5, 18.5). -/

namespace Sys2Proof.Machine

/-- The registers of a steering access's address and data. -/
def sRegs (d a : SReg) (n : Nat) : List Nat := span d.toNat n ++ [a.toNat, a.toNat + 1]

/-- The steering thread's address (R313). -/
def sAddr (a : SReg) (off : Option Word) (st : Steer) : DWord := st.pairAt a.toNat + sext64 (off.getD 0)

/-- A narrow value with its sign (R313). -/
def signExt (z : Size) (sg : Bool) (v : Nat) : Word :=
  if sg then (match z with | .b8 => (BitVec.ofNat 8 v).signExtend 32 | .b16 => (BitVec.ofNat 16 v).signExtend 32 | _ => BitVec.ofNat 32 v)
  else BitVec.ofNat 32 v

/-- The registers that an SLD writes. -/
def sldVals (z : Size) (sg : Bool) (d : Nat) (bs : List Byte) : List (Nat × Word) :=
  if z = .b64 then (span d 2).zip (wordsOf bs 2) else [(d, signExt z sg (leNat bs))]

/-- SLD (R313, R314). -/
def execSld (d a : SReg) (z : Size) (sg : Bool) (_hint : BitVec 2) (off : Option Word) (s : State) : Res :=
  s.steerRun (sRegs d a z.regs) fun t T st =>
    let g := sAddr a off st
    let n := z.bytes
    let give := fun (s : State) (bs : List Byte) => Host.Outcome.next (s.lateSteer t T (span d.toNat z.regs) (sldVals z sg d.toNat bs) .due)
    match s.locate T none g n with
    | .inr k => .next (s.stopSteer t T (trapAt k 0 g))
    | .inl .bad => .next (s.stopSteer t T (trapAt Code.aperture 0 g))
    | .inl (.scr o) => if T.lineAbsent (o / 128) then .next (s.steerWait t T .line) else give s (T.sbytes o n)
    | .inl (.mem _ va) =>
      match s.judgeLoad T.ctx T.cluster false va with
      | (s1, .ok pa _) => give s1 (s1.bytes pa n)
      | (s1, .nonres) => .next (s1.stopSteer t T (trapAt Code.storeNonres 0 g))
      | (s1, .bad k q) => .next (s1.stopSteer t T (trapAt k q g))

/-- The bytes of consecutive s-registers. -/
def Steer.regBytes (st : Steer) (d : Nat) : Nat → List Byte
  | 0 => []
  | n + 1 => leBytes 4 (st.reg d).toNat ++ Steer.regBytes st (d + 1) n

/-- SST (R313, R314). -/
def execSst (d a : SReg) (z : Size) (_hint : BitVec 2) (off : Option Word) (s : State) : Res :=
  s.steerRun (sRegs d a z.regs) fun t T st =>
    let g := sAddr a off st
    let n := z.bytes
    let data := (st.regBytes d.toNat z.regs).take n
    let T0 := { T with steer := { st with st := .running } }
    match s.locate T none g n with
    | .inr k => .next (s.stopSteer t T (trapAt k 0 g))
    | .inl .bad => .next (s.stopSteer t T (trapAt Code.aperture 0 g))
    | .inl (.scr o) =>
      if T.lineAbsent (o / 128) then .next (s.steerWait t T .line)
      else .next ((s.setTeam t (T0.sstore o data)).spoilScr t o n)
    | .inl (.mem _ va) =>
      match s.judgeStore T.ctx T.cluster false va false with
      | (s1, .ok pa _) => .next (((s1.store pa data).setTeam t T0).spoilMem pa n)
      | (s1, .nonres) => .next (s1.stopSteer t T (trapAt Code.storeNonres 0 g))
      | (s1, .bad k q) => .next (s1.stopSteer t T (trapAt k q g))

/-- The registers that SATOM reads as operands (R315). -/
def satomRegs (b : SReg) (op : AtomOp) (wide : Bool) : List Nat :=
  span b.toNat ((if wide then 2 else 1) * (if op = .cas then 2 else 1))

/-- The operand (compare value for cas) and the new value of cas. -/
def Steer.atomArgs (st : Steer) (b : Nat) (wide : Bool) : DWord × DWord :=
  if wide then (st.pairAt b, st.pairAt (b + 2)) else ((st.reg b).zeroExtend 64, (st.reg (b + 1)).zeroExtend 64)

/-- SATOM (R315). -/
def execSatom (d a b : SReg) (op : AtomOp) (wide u : Bool) (s : State) : Res :=
  s.steerRun (sRegs d a (if wide then 2 else 1) ++ satomRegs b op wide) fun t T st =>
    let g := sAddr a none st
    let n := if wide then 8 else 4
    let k := if wide then 2 else 1
    let xy := st.atomArgs b.toNat wide
    let vals := fun (old : List Byte) => (span d.toNat k).zip (wordsOf old k)
    match s.locate T none g n with
    | .inr c => .next (s.stopSteer t T (trapAt c 0 g))
    | .inl .bad => .next (s.stopSteer t T (trapAt Code.aperture 0 g))
    | .inl (.scr o) =>
      if T.lineAbsent (o / 128) then .next (s.steerWait t T .line)
      else
        let old := T.sbytes o n
        .next ((s.lateSteer t (T.sstore o (atomBytes op u wide xy.1 xy.2 old)) (span d.toNat k) (vals old) .due).spoilScr t o n)
    | .inl (.mem _ va) =>
      match s.judgeStore T.ctx T.cluster false va false with
      | (s1, .ok pa _) =>
        let old := s1.bytes pa n
        .next (((s1.store pa (atomBytes op u wide xy.1 xy.2 old)).lateSteer t T (span d.toNat k) (vals old) .due).spoilMem pa n)
      | (s1, .nonres) => .next (s1.stopSteer t T (trapAt Code.storeNonres 0 g))
      | (s1, .bad c q) => .next (s1.stopSteer t T (trapAt c q g))

/-- Engine commands issued before a point have writes to perform (R316). -/
def Team.engBefore (T : Team) (upto : Nat) : Bool :=
  T.eng.any fun e => !e.2.cmd.isStage && decide (e.2.order < upto) && (e.2.st.inQueue || e.2.st == .waiting)

/-- What an SFENCE covers has not been performed at its scope (R316, R356): the accesses of the steering thread itself are performed at their
instructions, but for the probes of windows. -/
def State.fenceOpen (s : State) (t : Nat) (T : Team) (f : SFence) : Bool :=
  (f.eng && T.engBefore f.upto) ||
    (f.scope != .dev && s.txs.any fun x => x.2.team == t && x.2.answer.isNone &&
      (match x.2.owner with
       | .probe _ _ => true
       | .engine _ _ o => f.eng && decide (o < f.upto) && (x.2.pod.isNone || f.scope == .sys)
       | _ => false))

/-- SFENCE (R316): the thread runs on to its next access. -/
def execSfence (sc : Scope) (eng : Bool) (s : State) : Res :=
  s.steerRun [] fun t T st => .next (s.setSteer t T { st with st := .running, fences := st.fences ++ [⟨s.orderCtr, eng, sc⟩] })

/-- SRDS (R206, R207, R317). -/
def execSrds (d : SReg) (sel : Special) (s : State) : Res :=
  let k := if sel = .dtime then 2 else 1
  s.steerRun (span d.toNat k) fun t T _ =>
    .next (s.lateSteer t T (span d.toNat k) ((span d.toNat k).zip (wordsOf (leBytes (4 * k) (s.teamSpecial T sel)) k)) .due)

/-- CWAIT (R426): it reads at issue, and again at its polls and at the events of R86. -/
def execCwait (a b : SReg) (s : State) : Res :=
  s.steerRun [a.toNat, a.toNat + 1, b.toNat, b.toNat + 1] fun t T st => .next (s.cwaitRead t T (sAddr a none st) (st.pairAt b.toNat) st.nextPos)

end Sys2Proof.Machine
end

