-- ==== Sys2Proof/Machine/SteerObj.lean ====
section
/-! DEFINITION. Steering instructions on the team's objects: tiles, feeds, barriers, arming, ATTIME, the phase register, detachment and the
window services (4.5, 6.8, 13.6, 16.8, 16.9, 18.3, 18.4). -/

namespace Sys2Proof.Machine

/-! ## Accumulator tiles (R390-R392) -/

/-- The physical tiles of a core that no team holds. -/
def State.freeTiles (s : State) (c : Nat) : List Nat :=
  let used := (s.teamsOn c).flatMap fun e => e.2.tiles.map Tile.phys
  (span 0 Config.tiles).filter fun k => !used.contains k

/-- A tile as it is given to a team. -/
def Tile.fresh (k : Nat) : Tile := ⟨k, [], false, false, false, false⟩

/-- The pending ACLAIMs of a core, the oldest first: order, team, register, count, and where the thread goes on (R391); a team that is saved
or being saved takes no part (R434). -/
def State.aclaims (s : State) (c : Nat) : List (Nat × Nat × Nat × Nat × Pos) :=
  sortBy Prod.fst ((s.teamsOn c).filterMap fun e =>
    match e.2.steer.st with
    | .blocked (.aclaim o d n next) => if e.2.phase = .running ∧ e.2.killed = false then some (o, e.1, d, n, next) else none
    | _ => none)

/-- The oldest pending ACLAIM of a core finds its tiles free (R391). -/
def State.aclaimFits (s : State) (c : Nat) : Bool :=
  match s.aclaims c with
  | (_, _, _, n, _) :: _ => decide (n ≤ (s.freeTiles c).length)
  | [] => false

/-- The grant of an ACLAIM: the lowest free tiles, numbered from the top of the held range (R390, R391). -/
def Team.giveTiles (T : Team) (free : List Nat) (d n : Nat) (st : Steer) : Team :=
  { T with tiles := T.tiles ++ (free.take n).map Tile.fresh, steer := st.setReg d (BitVec.ofNat 32 T.tiles.length) }

/-- Pending ACLAIMs of a core are considered again, in issue order (R391, R392). -/
def State.grantAclaims (s : State) (c : Nat) : Nat → State
  | 0 => s
  | fuel + 1 =>
    match s.aclaims c with
    | (_, t, d, n, next) :: _ =>
      if n ≤ (s.freeTiles c).length then
        State.grantAclaims (s.modTeam t fun T => { T.giveTiles (s.freeTiles c) d n (T.steer.goOn next) with stuckSince := none }) c fuel
      else s
    | [] => s

/-- ACLAIM (R391). -/
def execAclaim (d : SReg) (b : SSrc) (s : State) : Res :=
  s.steerRun (d.toNat :: ssrcRegs b) fun t T st =>
    let h := T.tiles.length
    let n := (ssrcVal b st).toNat
    let st1 := { st with st := .running }
    if n = 0 then .next (s.setSteer t T (st1.setReg d.toNat (BitVec.ofNat 32 h)))
    else if 16 < h + n then .next (s.setSteer t T (st1.setReg d.toNat 0xFFFFFFFF))
    else
      let c := T.core?.getD 0
      if (s.aclaims c).isEmpty && decide (n ≤ (s.freeTiles c).length) then .next (s.setTeam t (T.giveTiles (s.freeTiles c) d.toNat n st1))
      else .next { s.steerWait t T (.aclaim s.claimCtr d.toNat n st.nextPos) with claimCtr := s.claimCtr + 1 }

/-- AREL (R392). -/
def execArel (b : SSrc) (s : State) : Res :=
  s.steerRun (ssrcRegs b) fun t T st =>
    let h := T.tiles.length
    let n := (ssrcVal b st).toNat
    if h < n then .next (s.stopSteer t T { code := Code.regRange })
    else if T.eng.any (fun e => match e.2.cmd.tile? with | some k => decide (h - n ≤ k) | none => false) then
      .next (s.steerWait t T .arel)
    else .next ((s.setSteer t { T with tiles := T.tiles.take (h - n) } { st with st := .running }).grantAclaims (T.core?.getD 0) 16)

/-! ## Feeds (R393) -/

/-- The layout rules of FINIT. -/
def Team.layoutOk (T : Team) (l : Nat) : Bool :=
  let f := field l 13 5
  decide (l / 2 ^ 18 = 0 ∧ 9 ≤ f ∧ f ≤ 19) && (field l 0 13 * 128) % min (2 ^ f) 4096 == 0 &&
    decide (field l 0 13 * 128 + 2 ^ f ≤ T.slines * 128)

/-- FINIT (R393). -/
def execFinit (f : Obj) (a : Option SReg) (s : State) : Res :=
  s.steerRun (a.map BitVec.toNat).toList fun t T st =>
    let l := (a.map fun r => (st.reg r.toNat).toNat)
    let bad := match l with | some w => !T.layoutOk w | none => false
    if decide (T.img.nfeed ≤ f.toNat) || bad then .next (s.stopSteer t T { code := Code.feedRange })
    else if T.eng.any (fun e => e.2.cmd.feeds.contains f.toNat) then .next (s.steerWait t T .finit)
    else
      let F := T.feed f.toNat
      let F1 := match l with | some w => { F with fbase := field w 0 13, flog := field w 13 5 } | none => F
      .next (s.setSteer t (T.setFeed f.toNat { F1 with pcnt := 0, ccnt := 0, recs := [] }) { st with st := .running })

/-! ## Barriers (R418, R419) -/

/-- BARI (R419). -/
def execBari (k : Obj) (rst : Bool) (b : SSrc) (s : State) : Res :=
  s.steerRun (ssrcRegs b) fun t T st =>
    let n := (ssrcVal b st).toNat % 65536
    let B := T.bar k.toNat
    let T1 := (T.setBar k.toNat { B with count := n, arr := if rst then 0 else B.arr }).recount k.toNat
    .next ((s.setSteer t T1 { st with st := .running }).testBar t k.toNat)

/-- SBARA (R418). -/
def execSbara (k : Obj) (c : Option Cond) (s : State) : Res :=
  s.steerRun [] fun t T st =>
    let st1 := { st with st := .running }
    let st2 := match c with | some n => st1.setCond n.toNat (T.bar k.toNat).ph | none => st1
    .next ((s.setSteer t T st2).arriveBar t k.toNat none)

/-- Block while a barrier's phase equals a token, or leave it behind (R416, R358). -/
def State.steerToken (s : State) (t k : Nat) (tok : Bool) (next : Pos) : State :=
  s.modTeam t fun T =>
    let b := T.bar k
    { T with steer := if b.ph = tok then { T.steer with st := .blocked (.sbarw k tok next), nextPos := T.steer.pos }
                      else { T.steer with st := .running, left := laterOf T.steer.left b.flip } }

/-- SBARW (R416, R418). -/
def execSbarw (k : Obj) (arv : Bool) (c : Cond) (s : State) : Res :=
  s.steerRun [] fun t T st =>
    if arv then .next ((s.arriveBar t k.toNat none).steerToken t k.toNat (T.bar k.toNat).ph st.nextPos)
    else .next (s.steerToken t k.toNat (st.cond c.toNat) st.nextPos)

/-! ## Arming (R420-R423) and ATTIME (R90, R91) -/

/-- BARARM (R421). -/
def execBararm (k : Obj) (s : State) : Res := s.steerEff [] fun st => { st with blatch := some k.toNat }

/-- A barrier holds 8 armed entries (R423). -/
def Team.armFull (T : Team) (k : Nat) : Bool := decide (8 ≤ T.countEng fun e => e.st.armedOn k)

/-- BARARM.tile (R422). -/
def execBararmTile (pb : SReg) (k : Obj) (s : State) : Res :=
  s.steerRun [pb.toNat, pb.toNat + 1] fun t T st =>
    if T.armFull k.toNat then .next (s.steerWait t T .arming)
    else
      let T1 := { T with steer := { st with st := .running } }
      .next (s.addEng t T1 (.tile ((encode (.bararmTile pb k)).headD 0) (st.reg pb.toNat) (st.reg (pb.toNat + 1))) (.armed k.toNat) none).1

/-- ATTIME (R91). -/
def execAttime (pb : SReg) (dt : Bool) (s : State) : Res :=
  s.steerEff [pb.toNat, pb.toNat + 1] fun st =>
    let x := st.pairAt pb.toNat
    { st with armt := some (if dt then s.dtime + x else x) }

/-! ## Phase register (R320), detachment (R145) -/

/-- BWP (R320). -/
def execBwp (b : SSrc) (s : State) : Res :=
  s.steerRun (ssrcRegs b) fun t T st =>
    let v := (ssrcVal b st).toNat
    .next ((s.setSteer t T { st with st := .running }).writePhase T.ctx (field v 0 2) (field v 16 16))

/-- A window access of the team has not been performed and has not faulted; Opal's ready-to-receive is none. -/
def State.windowsOpen (s : State) (t : Nat) : Bool :=
  s.txs.any fun x => x.2.team == t && x.2.answer.isNone && (match x.2.op with | .rtr _ => false | _ => true)

/-- GDETACH (R144, R145). -/
def execGdetach (s : State) : Res :=
  s.steerRun [] fun t T st =>
    match T.gang with
    | none => .next (s.setSteer t T { st with st := .running })
    | some g =>
      if g.state ≠ .attached then .next (s.setSteer t T { st with st := .running })
      else if s.windowsOpen t then .next (s.steerWait t T .gdetach)
      else
        let s1 := s.setSteer t { T with gang := some { g with state := .detached } } { st with st := .running }
        .next ((s1.modGrid T.grid fun G => { G with members := Map.put G.members g.rank 1 }).toGang T.grid (.gangDetach T.gridNo g.rank false))

/-! ## RRINV and WPROBE (R321, R322) -/

/-- The handle that an operand names. -/
def hsrcVal (h : HSrc) (st : Steer) : BitVec 16 := match h with | .imm x => x | .reg b => (st.reg b.toNat).extractLsb' 0 16
/-- The register that it reads. -/
def hsrcRegs (h : HSrc) : List Nat := match h with | .imm _ => [] | .reg b => [b.toNat]

/-- RRINV (R321). -/
def execRrinv (h : Option HSrc) (s : State) : Res :=
  s.steerRun ((h.map hsrcRegs).getD []) fun t T st =>
    match h with
    | none => .next ((s.setSteer t T { st with st := .running }).rrcDrop fun l => l.ctx == T.ctx)
    | some x =>
      let n := hsrcVal x st
      match s.winEntry T.ctx T.cluster n.toNat with
      | (s1, .inl e) =>
        if field e 0 2 ≠ 1 ∨ !winReservedOk e then .next (s1.stopSteer t T { code := Code.windowHandle, handle := n })
        else .next ((s1.setSteer t T { st with st := .running }).rrcDrop fun l => l.ctx == T.ctx && l.handle == n)
      | (s1, .inr _) => .next (s1.stopSteer t T { code := Code.windowHandle, handle := n })

/-- WPROBE (R322). -/
def execWprobe (d : SReg) (h : HSrc) (s : State) : Res :=
  s.steerRun (d.toNat :: hsrcRegs h) fun t T st =>
    let n := hsrcVal h st
    let give := fun (s : State) (k : BitVec 8) => Host.Outcome.next (s.lateSteer t T [d.toNat] [(d.toNat, k.zeroExtend 32)] .due)
    match s.winCheck T ⟨n, 0, 1, 0, [1, 2], 1⟩ with
    | (s1, .bad f) => give s1 f.code
    | (s1, .ok (.many _ _)) => give s1 Code.windowHandle
    | (s1, .ok (.one aid dest cls _ _)) =>
      .next ((s1.newTx (mkTx s1 t (.probe T.lateCtr d.toNat) n aid dest .probe 0 1 cls false false none st.pos)).lateSteer t T [d.toNat] [] .waiting)

end Sys2Proof.Machine
end

