-- ==== Sys2Proof/Machine/SteerEng.lean ====
section
/-! DEFINITION. Steering instructions that issue engine commands: COPY, CUBE, CDRAIN and COLL (14.8, 16.6, 16.7, 19.3), with the two
latches (R91, R421). -/

namespace Sys2Proof.Machine

/-- The parameter block as it is captured (R344, R385, R387, R439). -/
def Steer.params (st : Steer) (pb : SReg) : List Word := (span pb.toNat 8).map st.reg

/-- The steering thread with both latches consumed. -/
def Steer.unlatched (st : Steer) : Steer := { st with armt := none, blatch := none }

/-- A command's own check fails: precise, with both latches consumed (R91, R421). -/
def State.failCmd (s : State) (t : Nat) (T : Team) (f : Trap) : State :=
  s.stopSteer t { T with steer := T.steer.unlatched } f

/-- A command passes its checks: it is armed on a barrier, held for a device time, issued, or it waits (R91, R92, R421, R423,
R346, R381, R440). -/
def State.issueCmd (s : State) (t : Nat) (T : Team) (c : EngCmd) : State :=
  let T1 := { T with steer := { T.steer.unlatched with st := .running } }
  match T.steer.blatch with
  | some k => if T.armFull k then s.steerWait t T .arming else (s.addEng t T1 c (.armed k) T.steer.armt).1
  | none =>
    match T.steer.armt with
    | some x => if 8 ≤ T.heldCount then s.steerWait t T .engine else (s.addEng t T1 c (.held x) (some x)).1
    | none =>
      if s.engRoom T c then (let r := s.addEng t T1 c .queued none; r.1.issueEng t r.2) else s.steerWait t T .engine

/-- COPY (R344, R345): nothing is checked beyond decoding (R347). -/
def execCopy (e : EArgs) (sk dk : CopyKind) (sf df : Obj) (s : State) : Res :=
  s.steerRun (span e.pb.toNat 8) fun t T st => .next (s.issueCmd t T (.copy e sk dk sf.toNat df.toNat (st.params e.pb)))

/-- Checks 2 to 6 of CUBE (R386): the first that fails. -/
def Team.cubeFault (T : Team) (mode : CubeMode) (fa fb fc k : Nat) (par : List Word) : Option (BitVec 8) :=
  let fs := if mode = .two then [fa, fb] else [fa, fb, fc]
  if fs.any (fun f => decide (T.img.nfeed ≤ f)) || !noRepeats fs then some Code.feedRange
  else if T.tiles.length ≤ k then some Code.regRange
  else if 2 ^ 12 ≤ parAt par 2 then some Code.cubeFormat
  else
    match cubeOp mode par with
    | none => some Code.cubeFormat
    | some o =>
      if !blockLegal (parAt par 0) || !o.zLegal then some Code.cubeShape
      else if (T.feed fa).size < o.most * o.sizeA ∨ (T.feed fb).size < o.most * o.sizeB ∨
          (mode ≠ .two ∧ (T.feed fc).size < o.most * o.sizeC) then some Code.feedRange
      else none

/-- CUBE (R385, R386). -/
def execCube (e : EArgs) (mode : CubeMode) (init : Bool) (fa fb fc : Obj) (k : BitVec 4) (s : State) : Res :=
  s.steerRun (span e.pb.toNat 3) fun t T st =>
    let par := st.params e.pb
    match T.cubeFault mode fa.toNat fb.toNat fc.toNat k.toNat par with
    | some f => .next (s.failCmd t T { code := f })
    | none => .next (s.issueCmd t T (.cube e mode init fa.toNat fb.toNat fc.toNat k.toNat par))

/-- The checks of CDRAIN (R389): the first that fails. -/
def Team.drainFault (T : Team) (f : DrainFmt) (df k : Nat) (par : List Word) : Option (BitVec 8) :=
  let b := blockOf (parAt par 0)
  if T.img.nfeed ≤ df then some Code.feedRange
  else if T.tiles.length ≤ k then some Code.regRange
  else if !blockLegal (parAt par 0) || ((f == .tmx || f == .tdx) && b.m == 16) then some Code.cubeShape
  else if (T.feed df).size < drainSize f b then some Code.feedRange
  else none

/-- CDRAIN (R387, R389). -/
def execCdrain (e : EArgs) (f : DrainFmt) (clr : Bool) (df : Obj) (k delta : BitVec 4) (s : State) : Res :=
  s.steerRun [e.pb.toNat] fun t T st =>
    let par := st.params e.pb
    match T.drainFault f df.toNat k.toNat par with
    | some c => .next (s.failCmd t T { code := c })
    | none => .next (s.issueCmd t T (.cdrain e f clr df.toNat k.toNat delta.toNat par))

/-- COLL (R439, R440). -/
def execColl (e : EArgs) (slot : BitVec 2) (grp : BitVec 8) (s : State) : Res :=
  s.steerRun [e.pb.toNat, e.pb.toNat + 1] fun t T st =>
    let n := match Map.find? s.ctxs T.ctx.toNat with | some c => c.ngrp | none => 0
    if n ≤ grp.toNat then .next (s.failCmd t T { code := Code.collAbort })
    else .next (s.issueCmd t T (.coll e slot.toNat grp (st.params e.pb)))

end Sys2Proof.Machine
end

