-- ==== Sys2Proof/Machine/Engine.lean ====
section
/-! DEFINITION. The stager: staging streams and the start of a team (R43-R46, R132-R135), COPY (R345-R347), and the issue of held and
fired commands (R91, R424). -/

/-- REL that reaches window writes and transfers: at POD or SYS scope (R356, R360). -/
def Sys2Proof.EArgs.relFar (a : Sys2Proof.EArgs) : Bool := a.rel && decide (2 ≤ a.scope.toNat)

namespace Sys2Proof.Machine

/-! ## Units of a stream (R468) -/

/-- Move the committed position over the units that have landed. -/
def commitOver (landed : List Nat) : Nat → Nat → Nat
  | c, 0 => c
  | c, n + 1 => if landed.contains c then commitOver landed (c + 1) n else c

/-- A unit of a stream is started: none at or after the speculative position has been (R468). -/
def Eng.startUnit (e : Eng) (u : Nat) : Eng := { e with spos := max e.spos (u + 1) }

/-- A unit of a stream has landed. -/
def Eng.land (e : Eng) (u : Nat) : Eng :=
  let l := e.landed ++ [u]
  let c := commitOver l e.cpos l.length
  { e with st := .running, landed := l.filter (fun x => decide (c ≤ x)), cpos := c, spos := max e.spos (u + 1) }

/-- A unit may land now: the stream has it before it, and it has not landed. -/
def Eng.wants (e : Eng) (u n : Nat) : Bool := e.st.inQueue && !e.st.isFaulted && decide (e.cpos ≤ u ∧ u < n) && !e.landed.contains u

/-! ## The start of a team (R46, R132, R477) -/

/-- The threads of a team that are ready to run, neither parked nor stopped nor gone. -/
def Team.readyTids (T : Team) : List Nat := (T.threads.filter fun e => e.2.atLarge).map Prod.fst

/-- Every ready thread but some enters FORMER at its position, in groups of one partition and position; no condition of R222 holds of them
yet. -/
def State.enterAll (s : State) (t : Nat) (but : List Nat) : State :=
  match s.team? t with
  | none => s
  | some T =>
    let ids := T.readyTids.filter fun i => !but.contains i
    let T1 := ids.foldl (fun T i => T.modThread i fun th => th.enterFormer th.pos) T
    (T1.places ids).foldl (fun s pp =>
      let here := ids.filter fun i => match T1.thread? i with | some th => decide (th.part = pp.1 ∧ th.pos = pp.2) | none => false
      (chunks32 here.length here).foldl (fun s g => s.formerAdd T1 t g pp.2 pp.1 false) s) (s.setTeam t T1)

/-- The reads of a team's commands follow everything up to now (R358, R371). -/
def State.acquireAll (s : State) (T : Team) : Team :=
  { T with steer := { T.steer with left := s.point T }, eng := T.eng.map fun e => (e.1, { e.2 with after := s.point T }) }

/-- Step 7 of Table 6.2: the steering thread and every thread start. -/
def State.startTeam (s : State) (t : Nat) : State := (s.modTeam t fun T => { s.acquireAll T with phase := .running }).enterAll t []

/-- Every BEFORE line is present. -/
def Team.beforeDone (T : Team) : Bool := T.eng.all fun e => match e.2.cmd with | .stage _ b _ _ _ => !b | _ => true

/-- A team whose BEFORE lines have come starts; a gang member's broker reports it instead (R132, R140). -/
def State.afterStage (s : State) (t : Nat) : State :=
  match s.team? t with
  | none => s
  | some T =>
    if T.phase ≠ .staging ∨ !T.beforeDone then s
    else
      match T.gang with
      | none => s.startTeam t
      | some g =>
        let coord := match Map.find? s.grids T.grid with | some G => G.coord | none => s.cfg.aid
        (s.modTeam t fun T => { T with phase := .gangWait }).post coord (.gangStaged coord T.gridNo g.rank)
          (.gangStagedReport T.gridNo g.rank)

/-! ## Staging streams (R45, R134) -/

/-- The stream that the stager copies: the oldest staging stream that has not faulted (R134). -/
def Team.stageHead (T : Team) : Option Nat :=
  ((sortBy (fun (e : Nat × Eng) => e.2.order) (T.eng.filter fun e => e.2.cmd.isStage && e.2.st.inQueue && !e.2.st.isFaulted)).head?).map
    Prod.fst

/-- An engine fault at the unit at C; units after it wait for it. -/
def State.unitFault (s : State) (t i : Nat) (e : Eng) (u : Nat) (f : Trap) : State := if u = e.cpos then s.stopEng t i f else s

/-- Read a line for a stream, as it stood `b` stores ago (R55, R60, R154, R163, R358): its bytes, a fault, or nothing while it must wait; the
stager's own reads count for the patrol (R161). -/
def State.streamRead (s : State) (T : Team) (stager : Bool) (b : Nat × Nat) (a : DWord) : State × (List Byte ⊕ Option Trap) :=
  match s.resolve T none a 128 with
  | .bad => (s, .inr (some (trapAt Code.aperture 0 a)))
  | .scr off =>
    if off % 128 ≠ 0 then (s, .inr (some (trapAt Code.align 0 a)))
    else if T.lineAbsent (off / 128) then (s, .inr none) else (s, .inl ({ T with scratch := T.scrBefore b.2 }.sbytes off 128))
  | .mem _ va =>
    if va % 128 ≠ 0 then (s, .inr (some (trapAt Code.align 0 a)))
    else
      match s.judgeLoad T.ctx T.cluster false va with
      | (s1, .ok pa _) => (if stager then s1.seen pa 128 else s1, .inl (s1.bytesBefore b.1 pa 128))
      | (s1, .nonres) => (s1, .inr (some (trapAt Code.storeNonres 0 a)))
      | (s1, .bad k q) => (s1, .inr (some (trapAt k q a)))

/-- A staging stream's line lands, and the stream ends with its last (R134). -/
def State.stageLand (s : State) (t i soff lines u : Nat) (bs : List Byte) : State :=
  let s1 := (s.modTeam t fun T => T.sstore ((soff + u) * 128) bs).modEng t i fun e => e.land u
  let s2 := s1.payLine t (soff + u)
  match (s2.team? t).bind fun T => Map.find? T.eng i with
  | some e => if lines ≤ e.cpos then ((s2.dropEng t i).drainWaiting).afterStage t else s2
  | none => s2

/-- STAGE_LINE_LAND (R45, R134). -/
def execStageLineLand (t i u : Nat) (s : State) : Res :=
  match s.team? t with
  | none => .next s
  | some T =>
    match Map.find? T.eng i with
    | none => .next s
    | some e =>
      match e.cmd with
      | .stage _ _ va soff lines =>
        if T.staging && e.wants u lines && T.stageHead == some i then
          match s.streamRead T true (0, 0) (BitVec.ofNat 64 (va + 128 * u)) with
          | (s1, .inl bs) => .next (s1.stageLand t i soff lines u bs)
          | (s1, .inr (some f)) => .next (s1.unitFault t i e u f)
          | (s1, .inr none) => .next s1
        else .next s
      | _ => .next s

/-! ## COPY (R345-R347) -/

/-- An older stream, or an earlier unit of the same one, still owes a line: data of several copies lands in the order of their issue (R135,
R328). -/
def Team.owesBefore (T : Team) (order u l : Nat) : Bool :=
  T.eng.any fun x => x.2.st.inQueue && decide (x.2.order ≤ order) &&
    (span x.2.cpos ((if x.2.order = order then u else x.2.cmd.units) - x.2.cpos)).any fun v =>
      !x.2.landed.contains v && x.2.cmd.unitLine T v == some l

/-- The window accesses of a unit of a command (R346, R360). -/
def State.unitTxs (s : State) (t i u order : Nat) : Map Tx :=
  s.txs.filter fun x => x.2.team == t && x.2.owner == .engine i u order

/-- A feed side cannot serve a COPY: it does not exist, or its ring is shorter than a row (R347). -/
def Team.feedBad (T : Team) (f : Nat) (par : List Word) : Bool := decide (T.img.nfeed ≤ f ∨ (T.feed f).size < copyRow par)

/-- The address of a unit as a fault names it (Table 20.2): of its mem or win side, the source first; else its place in the source's ring
(log entry 77). -/
def Team.unitAt (T : Team) (sk dk : CopyKind) (sf : Nat) (par : List Word) (u : Nat) : DWord :=
  if sk ≠ .feed then BitVec.ofNat 64 (copySrcAt par u)
  else if dk ≠ .feed then BitVec.ofNat 64 (copyDstAt par u)
  else BitVec.ofNat 64 (2 ^ 57 + (T.feed sf).byteAt ((T.feed sf).ccnt + u % copyLpr par * 128))

/-- The byte count of a unit of a feed's row. -/
def feedAt (count : Nat) (par : List Word) (u : Nat) : Nat := count + u % copyLpr par * 128

/-- The fault of a window access of a command (R66-R69, R107). -/
def Tx.engTrap (x : Tx) : Option Trap :=
  match x.answer with
  | some (.fault k q) => some (x.trap k q)
  | some .nonres => some (x.trap Code.storeNonres 0)
  | _ => none

/-- What a COPY unit reads: bytes, a fault, or nothing while it must wait; a window read is sent, and its answer found. A GROUP window is read
at one rank, which one is left open (log entry 78). -/
def State.copyRead (s : State) (t : Nat) (T : Team) (i : Nat) (e : Eng) (a : EArgs) (sk : CopyKind) (sf : Nat) (par : List Word) (u : Nat) :
    State × (List Byte ⊕ Option Trap) :=
  match sk with
  | .mem => s.streamRead T true (s.behind T e) (BitVec.ofNat 64 (copySrcAt par u))
  | .feed =>
    let F := T.feed sf
    if u / copyLpr par = e.cpos / copyLpr par ∧ copyRow par ≤ F.fill then
      (s, .inl ((span 0 128).map fun j => Map.get (0 : Byte) T.scratch (F.byteAt (feedAt F.ccnt par u + j))))
    else (s, .inr none)
  | .win =>
    let h : BitVec 16 := BitVec.ofNat 16 (parAt par 5)
    let off := copySrcAt par u
    match s.unitTxs t i u e.order with
    | (id, x) :: _ =>
      (match x.answer, x.engTrap with
       | some (.data bs), _ => (s.endTx id, .inl bs)
       | _, some f => (s, .inr (some f))
       | _, none => (s, .inr none))
    | [] =>
      let ask := fun (s : State) (aid : Aid) (dest : TxDest) (cls : Nat) (rrc : Bool) (wver : Nat) =>
        (s.sendLoad t (.engine i u e.order) h aid dest off 128 cls a.acq rrc wver ⟨0, 0⟩, (Sum.inr none : List Byte ⊕ Option Trap))
      match s.winCheck T ⟨h, off, 128, 0, [1, 2, 3], 128⟩ with
      | (s1, .bad f) => (s1, .inr (some f))
      | (s1, .ok (.many ranks cls)) =>
        (match ranks[Config.placeChoice 3 s.txCtr % ranks.length]? with
         | some k => ask s1 k.1 k.2 cls false 0
         | none => (s1, .inr (some { code := Code.windowHandle, addr := BitVec.ofNat 64 off, handle := h })))
      | (s1, .ok (.one aid dest cls rrc wver)) =>
        match (if rrc && !a.acq then s1.rrcHit T.ctx h wver off else none) with
        | some l => (s1, .inl ((l.data.drop (off % 2048)).take 128))
        | none => ask s1 aid dest cls rrc wver

/-- A COPY unit has landed: feed counts move when its row is whole (R345, R468). -/
def State.copyLanded (s : State) (t i : Nat) (sk dk : CopyKind) (sf df : Nat) (par : List Word) (u : Nat) : State :=
  match (s.team? t).bind fun T => Map.find? T.eng i with
  | none => s
  | some e =>
    let e1 := e.land u
    let s1 := s.modEng t i fun _ => e1
    if e1.cpos / copyLpr par = e.cpos / copyLpr par then s1
    else
      let s2 := if sk = .feed then s1.modTeam t (fun T => T.eat sf (copyRow par)) else s1
      if dk = .feed then
        (s2.modTeam t fun T => T.setFeed df { T.feed df with pcnt := ((T.feed df).pcnt + copyRow par) % 2 ^ 32 }).serveRecvs t df 1024
      else s2

/-- One store for every rank of a GROUP window, in rank order. -/
def State.copyRanks (s : State) (t : Nat) (o : TxOwner) (h : BitVec 16) (bs : List Byte) (off cls : Nat) (rel : Bool) (ranks : List (Aid × TxDest)) :
    State :=
  ranks.foldl (fun s k => s.newTx (mkTx s t o h k.1 k.2 (.store bs) off 128 cls false rel none ⟨0, 0⟩)) s

/-- What a COPY unit writes: landed, a fault, or sent through its window. -/
def State.copyWrite (s : State) (t : Nat) (T : Team) (i : Nat) (e : Eng) (a : EArgs) (sk dk : CopyKind) (sf df : Nat) (par : List Word)
    (u : Nat) (bs : List Byte) : State :=
  let g : DWord := BitVec.ofNat 64 (copyDstAt par u)
  match dk with
  | .mem =>
    (match s.resolve T none g 128 with
     | .bad => s.unitFault t i e u (trapAt Code.aperture 0 g)
     | .scr off =>
       if off % 128 ≠ 0 then s.unitFault t i e u (trapAt Code.align 0 g)
       else
         let s1 := (s.modTeam t fun T => T.sstore off bs).spoilScr t off 128
         (s1.copyLanded t i sk dk sf df par u).payLine t (off / 128)
     | .mem _ va =>
       if va % 128 ≠ 0 then s.unitFault t i e u (trapAt Code.align 0 g)
       else
         match s.judgeStore T.ctx T.cluster false va true with
         | (s1, .ok pa _) => ((s1.putLine pa bs).spoilMem pa 128).copyLanded t i sk dk sf df par u
         | (s1, .nonres) => s1.unitFault t i e u (trapAt Code.storeNonres 0 g)
         | (s1, .bad k q) => s1.unitFault t i e u (trapAt k q g))
  | .feed =>
    (s.modTeam t fun T => T.ringWrite (T.feed df) (feedAt (T.feed df).pcnt par u) ((span 0 128).zip bs)).copyLanded t i sk dk sf df par u
  | .win =>
    let h : BitVec 16 := BitVec.ofNat 16 (parAt par 5 / 65536)
    let off := copyDstAt par u
    match s.winCheck T ⟨h, off, 128, 1, [1, 2, 3], 128⟩ with
    | (s1, .bad f) => s1.unitFault t i e u f
    | (s1, .ok (.many ranks cls)) => s1.copyRanks t (.engine i u e.order) h bs off cls a.relFar ranks
    | (s1, .ok (.one aid dest cls _ _)) =>
      (s1.rrcWrite T.ctx h off 128).copyRanks t (.engine i u e.order) h bs off cls a.relFar [(aid, dest)]

/-- The destination can take the unit: an older copy of a scratch line has landed (R328); a feed has room for the whole row at C, on present
lines (R135). -/
def Team.copyOpen (T : Team) (e : Eng) (dk : CopyKind) (df : Nat) (par : List Word) (u : Nat) : Bool :=
  match dk with
  | .mem => (match T.scrLine (copyDstAt par u) with | some l => !T.owesBefore e.order u l | none => true)
  | .feed =>
    let F := T.feed df
    decide (u / copyLpr par = e.cpos / copyLpr par ∧ copyRow par ≤ F.room) && T.ringClear F (feedAt F.pcnt par u) 128
  | .win => true

/-- The window writes of a unit: none, a fault of the lowest rank, all performed or no longer awaited, or some still open (R345, R360). -/
def sentState (xs : Map Tx) : Option (Option Trap ⊕ Bool) :=
  if xs.isEmpty || !xs.all (fun x => match x.2.op with | .store _ => true | _ => false) then none
  else
    match xs.findSome? fun x => x.2.engTrap with
    | some f => some (.inl (some f))
    | none => some (.inr (xs.all fun x => x.2.ahead || x.2.answer.isSome))

/-- One unit of a COPY (R345). -/
def State.copyUnit (s : State) (t : Nat) (T : Team) (i : Nat) (e : Eng) (a : EArgs) (sk dk : CopyKind) (sf df : Nat) (par : List Word)
    (u : Nat) : State :=
  let here := T.unitAt sk dk sf par u
  if !copyRowOk par then s.unitFault t i e u (trapAt Code.align 0 here)
  else if (sk == .feed && T.feedBad sf par) || (dk == .feed && T.feedBad df par) then s.unitFault t i e u (trapAt Code.feedRange 0 here)
  else
    let sent := s.unitTxs t i u e.order
    match sentState sent with
    | some (.inl (some f)) => s.unitFault t i e u f
    | some (.inr true) =>
      (s.endTxs ((sent.filter fun x => !x.2.ahead).map Prod.fst)).copyLanded t i sk dk sf df par u
    | some _ => s
    | none =>
      if !T.copyOpen e dk df par u then s
      else
        match s.copyRead t T i e a sk sf par u with
        | (s1, .inl bs) => (s1.modEng t i fun e => e.startUnit u).copyWrite t T i e a sk dk sf df par u bs
        | (s1, .inr (some f)) => s1.unitFault t i e u f
        | (s1, .inr none) => if s1.txCtr = s.txCtr then s1 else s1.modEng t i fun e => e.startUnit u

/-- The COPY commands in progress: the four oldest of a team that have not faulted (R346). -/
def Team.copiesActive (T : Team) : List Nat :=
  ((sortBy (fun (e : Nat × Eng) => e.2.order) (T.eng.filter fun e => e.2.cmd.isCopy && e.2.st.inQueue && !e.2.st.isFaulted)).take 4).map
    Prod.fst

/-- A unit may go on: its team's engines work, or it is in flight while the team is being saved (R476). -/
def State.unitMay (s : State) (t : Nat) (T : Team) (i u : Nat) (e : Eng) : Bool :=
  T.working || (T.core?.isSome && T.phase == .saving && !T.killed && !(s.unitTxs t i u e.order).isEmpty)

/-- COPY_LINE_LAND (R345, R347). -/
def execCopyLineLand (t i u : Nat) (s : State) : Res :=
  match s.team? t with
  | none => .next s
  | some T =>
    match Map.find? T.eng i with
    | none => .next s
    | some e =>
      match e.cmd with
      | .copy a sk dk sf df par =>
        if s.unitMay t T i u e && !s.acqHeld t e && T.copiesActive.contains i && e.wants u (if copyRowOk par then copyUnits par else 1) then
          .next (s.copyUnit t T i e a sk dk sf df par u)
        else .next s
      | _ => .next s

/-- COPY_COMPLETE (R345). -/
def execCopyComplete (t i : Nat) (s : State) : Res :=
  match s.team? t with
  | none => .next s
  | some T =>
    match Map.find? T.eng i with
    | none => .next s
    | some e =>
      match e.cmd with
      | .copy _ _ _ _ _ par =>
        if T.core?.isSome && !T.killed && e.st.inQueue && !e.st.isFaulted && copyRowOk par && decide (copyUnits par ≤ e.cpos) then
          .next (s.finishCmd t i e)
        else .next s
      | _ => .next s

/-! ## Held and fired commands (R91, R92, R424) -/

/-- FIRED_COMMAND_ENQUEUE (R424). -/
def execFiredCommandEnqueue (t i : Nat) (s : State) : Res := .next (s.tryWaiting t i)

/-- ATTIME_FIRE (R91, R92): a held command whose time has come is issued when its engine has room. -/
def execAttimeFire (t i : Nat) (s : State) : Res :=
  match s.team? t with
  | none => .next s
  | some T =>
    match Map.find? T.eng i with
    | none => .next s
    | some e =>
      match e.st with
      | .held x =>
        if x.ule s.dtime && T.working && s.engRoom T e.cmd then
          .next ((({ s with orderCtr := s.orderCtr + 1 }.modEng t i fun e => { e with order := s.orderCtr }).issueEng t i).drainWaiting)
        else .next s
      | _ => .next s

end Sys2Proof.Machine
end

