-- ==== Sys2Proof/Machine/CollMath.lean ====
section
/-! DEFINITION. The values of a collective's tiles: operators (R452-R455), the forms they take in memory, and the schedules (R445-R449). -/

namespace Sys2Proof.Machine

/-! ## Fields of a tile entry (Table 19.4) -/

/-- OP -/
def CollTile.op (t : CollTile) : Nat := field t.ctl.toNat 0 4
/-- CMP -/
def CollTile.cmp (t : CollTile) : Bool := flag t.ctl.toNat 5
/-- RDST -/
def CollTile.rdst (t : CollTile) : Bool := flag t.ctl.toNat 6
/-- LDIM -/
def CollTile.ldim (t : CollTile) : Nat := field t.ctl.toNat 16 12
/-- SIZE, in bytes. -/
def CollTile.bytes (t : CollTile) : Nat := field t.ctl.toNat 32 14 * 128
/-- A BF16 SUM tile, whose partials are FP32 (R454). -/
def CollTile.bsum (t : CollTile) : Bool := t.op == 3 && flag t.ctl.toNat 4
/-- Bytes of a transfer (R438). -/
def CollTile.transfer (t : CollTile) : Nat := if t.bsum then 2 * t.bytes else t.bytes
/-- Bytes of the value as the operators see it. -/
def CollTile.valueBytes (t : CollTile) : Nat := if t.cmp then 1024 else t.transfer

/-- Bytes in pieces of `n`. -/
def bytesIn (n : Nat) : Nat → List Byte → List (List Byte)
  | 0, _ => []
  | k + 1, bs => if bs.isEmpty then [] else bs.take n :: bytesIn n k (bs.drop n)

/-! ## Exact sums of products -/

/-- A sum of products before it is rounded: a NaN with its flags, an infinity, or the exact terms. -/
inductive Prods where
  | nan (f : FlagSet)
  | inf (neg : Bool)
  | fin (ts : List (Bool × Nat × Int))
  deriving DecidableEq, Repr

/-- The sum of products: 0 × Inf and Inf - Inf are invalid, a NaN operand sets no flag (R453, R455). -/
def prods (ts : List (FVal × FVal)) : Prods :=
  if ts.any fun x => x.1.zeroInf x.2 then .nan FlagSet.inv
  else if ts.any fun x => x.1.isNan || x.2.isNan then .nan 0
  else
    let ps := ts.map fun x => x.1.mul x.2
    if ps.any (fun v => v.isInf && v.neg) && ps.any (fun v => v.isInf && !v.neg) then .nan FlagSet.inv
    else match ps.find? FVal.isInf with | some v => .inf v.neg | none => .fin (ps.map FVal.term)

/-- The sum divided by `den`, rounded once (R453, R455). -/
def Prods.round (t : Fmt) (den : Nat) (p : Prods) : Nat × FlagSet :=
  match p with
  | .nan f => (t.nan, f)
  | .inf n => t.roundInf n
  | .fin ts =>
    let v := exactSum ts
    if v.1 = 0 then (t.signed (zeroSign .rn ts) 0, 0)
    else t.roundSticky .rn (decide (v.1 < 0)) (v.1.natAbs * 2 ^ 64 / den) (v.2 - 64) (v.1.natAbs * 2 ^ 64 % den != 0)

/-- The value 1. -/
def FVal.one : FVal := .fin false 1 0
/-- An exact integer. -/
def FVal.nat (n : Nat) : FVal := .fin false n 0
/-- The exact difference of two values; an infinite subtrahend decides. -/
def FVal.minus (a b : FVal) : FVal :=
  match a, b with
  | .nan s, _ => .nan s
  | _, .nan s => .nan s
  | .inf n, _ => .inf n
  | _, .inf n => .inf (!n)
  | _, _ => let v := exactSum [a.term, b.flip.term]; .fin (decide (v.1 < 0)) v.1.natAbs v.2

/-! ## Image tiles (R452, R453) -/

/-- The right pixel's depth is strictly below the left one's: NaN above +Inf, -0 equal to +0. -/
def depthBelow (zl zr : Nat) : Bool :=
  let l := Fmt.fp32.decode zl
  let r := Fmt.fp32.decode zr
  if l.isNan then !r.isNan else !r.isNan && decide (r.cmp l < 0)

/-- One pixel of ZMIN (0), OVER (1) or SCNT (2). -/
def pixelOp (op : Nat) (L R : List Byte) : List Byte × FlagSet :=
  let near := if depthBelow (recAt L 0 4) (recAt R 0 4) then R else L
  let nl := recAt L 12 2
  let nr := recAt R 12 2
  if op = 0 then (near, 0)
  else if op = 2 ∧ nl + nr = 0 then (L, 0)
  else
    let ch := fun (bs : List Byte) (i : Nat) => Fmt.fp16.decode (recAt bs (4 + 2 * i) 2)
    let w := FVal.one.minus (ch L 3)
    let cs := (span 0 4).map fun i =>
      if op = 1 then (prods [(ch L i, FVal.one), (w, ch R i)]).round Fmt.fp16 1
      else (prods [(ch L i, FVal.nat nl), (ch R i, FVal.nat nr)]).round Fmt.fp16 (nl + nr)
    (near.take 4 ++ cs.flatMap (fun c => leBytes 2 c.1) ++ leBytes 2 (min (nl + nr) 65535) ++ leBytes 2 (recAt L 14 2 ||| recAt R 14 2),
      flagsOf cs)

/-- The identity pixel (R452). -/
def pixelIdentity (op : Nat) : List Byte := leBytes 16 (if op = 0 then 0x7F800000 else 0)

/-- The reserved bits of a compressed tile's header are zero (R10, Table 19.10). -/
def packedOk (raw : List Byte) : Bool := decide (recAt raw 0 8 < 4)

/-- The pixels of a compressed tile (Table 19.10); none: MODE is 3. -/
def unpackTile (op : Nat) (raw : List Byte) : Option (List Byte) :=
  match recAt raw 0 1 % 4 with
  | 0 => some ((List.replicate 64 (pixelIdentity op)).flatten)
  | 1 => some ((List.replicate 64 ((raw.drop 16).take 16)).flatten)
  | 2 => some ((raw.drop 128).take 1024)
  | _ => none

/-- The compressed form of a result: EMPTY and CONST are the header line alone (R452). -/
def packTile (op : Nat) (px : List Byte) : List Byte :=
  let p0 := px.take 16
  if px = (List.replicate 64 (pixelIdentity op)).flatten then List.replicate 128 0
  else if px = (List.replicate 64 p0).flatten then padTo 128 (padTo 16 [1] ++ p0)
  else padTo 128 [2] ++ px

/-! ## Elements and records (R454, R455) -/

/-- Combine two lists of elements of `w` bytes. -/
def elemOp (w : Nat) (f : Nat → Nat → Nat × FlagSet) (L R : List Byte) : List Byte × FlagSet :=
  let rs := ((bytesIn w L.length L).zip (bytesIn w R.length R)).map fun x => f (leNat x.1) (leNat x.2)
  (rs.flatMap (fun r => leBytes w r.1), flagsOf rs)

/-- A weight of LSE: 2 to the exact difference, rounded once; 1 when both are -Inf. -/
def lseWeight (x m : FVal) : FVal × FlagSet :=
  if m.isInf then (FVal.one, 0)
  else let r := Fmt.fp32.ex2 .rn (x.minus m); (Fmt.fp32.decode r.1, r.2)

/-- The record (m, s, v) of two records of `n` words (R455). Which of +0 and -0 is the larger score is left open (log entry 2). -/
def lseOp (L R : List Word) : List Word × FlagSet :=
  let mL := f32 (L.headD 0)
  let mR := f32 (R.headD 0)
  let bad := fun (v : FVal) => v.isNan || (v.isInf && !v.neg)
  if bad mL || bad mR then (L.map (fun _ => 0x7FC00000), FlagSet.inv)
  else
    let left := decide (0 < mL.cmp mR) || (mL.cmp mR == 0 && (L.headD 0 == R.headD 0 || Config.lseLeft (L.headD 0) (R.headD 0)))
    let m := if left then mL else mR
    let wL := lseWeight mL m
    let wR := lseWeight mR m
    let rs := ((L.drop 1).zip (R.drop 1)).map fun x => (prods [(f32 x.1, wL.1), (f32 x.2, wR.1)]).round Fmt.fp32 1
    ((if left then L.headD 0 else R.headD 0) :: rs.map (fun r => BitVec.ofNat 32 r.1), flagsOf rs ||| wL.2 ||| wR.2)

/-- combine(L, R) of R445 for values of a tile; `own` is this rank's value, whose bytes outside an LSE record stay (R455). -/
def CollTile.combine (t : CollTile) (L R own : List Byte) : List Byte × FlagSet :=
  match t.op with
  | 3 => elemOp 4 (fun a b => Fmt.fp32.sum .rn [Fmt.fp32.decode a, Fmt.fp32.decode b]) L R
  | 4 => if flag t.ctl.toNat 4 then elemOp 2 (Fmt.bf16.minmax true false) L R else elemOp 4 (Fmt.fp32.minmax true false) L R
  | 5 =>
    let n := 2 + t.ldim
    let r := lseOp (wordsOf L n) (wordsOf R n)
    (r.1.flatMap (fun w => leBytes 4 w.toNat) ++ own.drop (4 * n), r.2)
  | k =>
    let rs := ((bytesIn 16 64 L).zip (bytesIn 16 64 R)).map fun x => pixelOp k x.1 x.2
    (rs.flatMap Prod.fst, rs.foldl (fun f r => f ||| r.2) 0)

/-- A replacement: an LSE record's bytes alone change (R455). -/
def CollTile.replace (t : CollTile) (v own : List Byte) : List Byte :=
  if t.op = 5 then v.take (4 * (2 + t.ldim)) ++ own.drop (4 * (2 + t.ldim)) else v

/-- BF16 elements widened to FP32 (R242, R454). -/
def widen (bs : List Byte) : List Byte × FlagSet :=
  let rs := (bytesIn 2 bs.length bs).map fun x => Fmt.fp32.convert .rn (Fmt.bf16.decode (leNat x))
  (rs.flatMap (fun r => leBytes 4 r.1), flagsOf rs)

/-- The bytes of a value in memory or in a transfer (R450-R452); a BF16 SUM partial stays FP32. -/
def CollTile.stored (t : CollTile) (v : List Byte) : List Byte := if t.cmp then packTile t.op v else v

/-- The final form of a value (R449, R451, R454). -/
def CollTile.final (t : CollTile) (v : List Byte) : List Byte × FlagSet :=
  if t.bsum then
    let rs := (bytesIn 4 v.length v).map fun x => Fmt.bf16.convert .rn (Fmt.fp32.decode (leNat x))
    (rs.flatMap (fun r => leBytes 2 r.1), flagsOf rs)
  else (t.stored v, 0)

/-! ## Schedules (R445-R449) -/

/-- What a step does with the received value: combine(received, own), combine(own, received), or replace. -/
inductive CollMode where | left | right | copy
  deriving DecidableEq, Repr

/-- A step: from a position to a position. -/
structure CollStep where
  src : Nat
  dst : Nat
  mode : CollMode
  deriving DecidableEq, Repr

/-- The ring (R446) with owner `o`; kind 0 REDUCE, 1 ALLREDUCE, 2 REDSCAT. -/
def ringSteps (kind n o : Nat) : List CollStep :=
  (span 2 (n - 1)).map (fun k => ⟨(o + k - 1) % n, (o + k) % n, .left⟩) ++
    (if kind = 0 ∧ o ≠ 0 then [⟨o, 0, .copy⟩] else []) ++
    (if kind = 1 then (span 0 (n - 1)).map (fun k => ⟨(o + k) % n, (o + k + 1) % n, .copy⟩) else [])

/-- The pairs (j, j + 2^l) of one level of the tree. -/
def treeLevel (n l : Nat) : List (Nat × Nat) :=
  ((span 0 n).filter fun j => j % 2 ^ (l + 1) == 0 && decide (j + 2 ^ l < n)).map fun j => (j, j + 2 ^ l)

/-- The tree (R447). -/
def treeSteps (kind n : Nat) : List CollStep :=
  let ls := span 0 (Nat.log2 (n - 1) + 1)
  ls.flatMap (fun l => (treeLevel n l).map fun p => ⟨p.2, p.1, .right⟩) ++
    (if kind = 1 then ls.reverse.flatMap (fun l => (treeLevel n l).map fun p => ⟨p.1, p.2, .copy⟩) else [])

/-- The positions that hold block `b` after `r` rounds of binary-swap among 2^L. -/
def swapHeld (n L b r : Nat) : List Nat := (span 0 n).filter fun j => (span 0 r).all fun q => flag j q == flag b (L - 1 - q)

/-- Binary-swap (R448) for a tile of block `b`. -/
def swapSteps (kind n b : Nat) : List CollStep :=
  let L := Nat.log2 n
  let own := (swapHeld n L b L).headD 0
  (span 0 L).flatMap (fun r => (swapHeld n L b (r + 1)).map fun j =>
      let p := j ^^^ 2 ^ r
      ⟨p, j, if p < j then .left else .right⟩) ++
    (if kind = 0 ∧ own ≠ 0 then [⟨own, 0, .copy⟩] else []) ++
    (if kind = 1 then (span 0 L).reverse.flatMap (fun r => (swapHeld n L b (r + 1)).map fun j => ⟨j, j ^^^ 2 ^ r, .copy⟩) else [])

/-- KIND of a header word. -/
def hdrKind (h : Word) : Nat := field h.toNat 0 2
/-- ALG of a header word. -/
def hdrAlg (h : Word) : Nat := field h.toNat 2 2
/-- NT of a header word. -/
def hdrTiles (h : Word) : Nat := field h.toNat 5 11

/-- The schedule of tile `i` among `n` ranks. -/
def collSched (h : Word) (n i : Nat) : List CollStep :=
  if n ≤ 1 then []
  else
    match hdrAlg h with
    | 0 => ringSteps (hdrKind h) n (i % n)
    | 2 => treeSteps (hdrKind h) n
    | _ => swapSteps (hdrKind h) n (i / (hdrTiles h / n))

/-- The owner of tile `i`: the position where its value is first final. -/
def collOwner (h : Word) (n i : Nat) : Nat :=
  match hdrAlg h with
  | 0 => i % n
  | 2 => 0
  | _ => (swapHeld n (Nat.log2 n) (i / (hdrTiles h / n)) (Nat.log2 n)).headD 0

/-- A position is a result rank of tile `i` (R457). -/
def resultRank (h : Word) (n i p : Nat) : Bool :=
  match hdrKind h with
  | 0 => p == 0
  | 1 => true
  | _ => p == collOwner h n i

/-- The steps of tile `i` that concern position `p`, each with its number in the whole schedule. -/
def mySteps (h : Word) (n i p : Nat) : List (Nat × CollStep) :=
  let l := collSched h n i
  ((span 0 l.length).zip l).filter fun x => x.2.src == p || x.2.dst == p

end Sys2Proof.Machine
end

