-- ==== Sys2Proof/Machine/SaveArea.lean ====
section
/-! DEFINITION. The save slot of a team as bytes, and a team as its slot holds it (R475, R477, R480, Tables 20.5-20.9). The order of link entries
(oldest first), the instance a REDQ record stands at (its number modulo 4) and the split of a shadow over more than seven registers are the model's
(log entry 22). -/

namespace Sys2Proof.Machine

/-- The due results of a thread are written (R185, R187). -/
def Thread.landLate (th : Thread) (id : Nat) : Thread :=
  match List.find? (fun (l : Late) => l.id == id && l.st == .due) th.late with
  | none => th
  | some l =>
    let th1 := l.regs.foldl (fun th r => th.setReg r.1 r.2) th
    let th2 := (l.preds.foldl (fun th r => th.setPred r.1 r.2) th1).addFlags l.flags
    { th2 with late := (th2.late.map fun x => if x.id = id then { x with st := .done } else x).filter fun x => !(x.st == .done && x.shadow == 0) }

/-- Every due result of a thread is written. -/
def Thread.landAll (th : Thread) : Thread := th.late.foldl (fun th l => th.landLate l.id) th

/-- A due result of the steering thread is written (R299). -/
def Steer.landLate (st : Steer) (id : Nat) : Steer :=
  match List.find? (fun (l : Late) => l.id == id && l.st == .due) st.late with
  | none => st
  | some l => { l.regs.foldl (fun st r => st.setReg r.1 r.2) st with late := st.late.filter fun x => x.id != id }

/-- Every due result of the steering thread is written. -/
def Steer.landAll (st : Steer) : Steer := st.late.foldl (fun st l => st.landLate l.id) st

/-- A set of numbers below `8 n` as a bitmap of `n` bytes. -/
def bitmap (n : Nat) (ks : List Nat) : List Byte := leBytes n (packFlags ((span 0 (8 * n)).map ks.contains))

/-- TEAMSTAT and the scalar fields of Table 20.6. -/
def Team.headPieces (T : Team) (nchild : Nat) (now : DWord) : List Piece :=
  let g := match T.gang with
    | some m => T.rank + m.size * 2 ^ 6 + (match m.state with | .attached => 0 | .detached => 1 | .done => 2) * 2 ^ 14 + packFlags [m.broken] * 2 ^ 16
    | none => 2 ^ 6
  [piece 0 4 (T.ctx.toNat + T.prio * 2 ^ 12 + packFlags [T.gang.isSome] * 2 ^ 16), piece 4 4 T.gridNo.toNat, piece 8 4 T.index, piece 0xC 4 g,
    piece 0x10 8 T.img.kimg, piece 0x2C 4 (T.slines + T.tiles.length * 2 ^ 14), piece 0x30 4 T.reserve, piece 0x34 4 T.xmask.toNat,
    piece 0x38 4 T.stat.toNat, piece 0x3C 4 nchild, piece 0x40 4 (T.pblk.getD 0), piece 0x48 8 now.toNat] ++
  ((span 0 T.roles.length).flatMap fun k =>
    let r := T.role k
    [piece (0x18 + k) 1 r.nreg, piece (0x1C + 2 * k) 2 r.first, piece (0x24 + 2 * k) 2 r.held.length])

/-- The steering thread's part of Table 20.6. -/
def Steer.pieces (t : Steer) : List Piece :=
  let st := match t.st with | .running => 0 | .blocked .late => 0 | .blocked _ => 1 | .done => 2 | .stopped _ => 3
  let rec' := match t.st with | .stopped f => [(0x260, f.bytes)] | _ => []
  (t.s.map fun e => piece (0x100 + 4 * e.1) 4 e.2.toNat) ++
  [piece 0x200 4 (t.c.toNat + t.link.length * 2 ^ 8 + st * 2 ^ 13), piece 0x204 4 (t.pos.h + t.pos.k * 2 ^ 24 + packFlags [t.g] * 2 ^ 28),
    piece 0x248 8 (match t.armt with | some x => x.toNat | none => 0),
    piece 0x250 4 (packFlags [t.armt.isSome, t.blatch.isSome] + t.blatch.getD 0 * 4)] ++
  (((span 0 t.link.length).zip t.link.reverse).map fun e => piece (0x208 + 4 * e.1) 4 e.2.toNat) ++ rec'

/-- A REDQ operation's code (Table 18.4) is its encoding; the combined value so far, or the exact sum of `.fadd` (Table 20.8). -/
def RedStep.pieces (r : RedStep) (base : Nat) : List Piece :=
  let xs := r.contribs.map fun c => c.2.1
  let vs := xs.map f32
  let sum := (exactSum (((vs.filter FVal.finite).map FVal.term) ++ [(false, 0, -149)]))
  let head := [piece base 1 (1 + 2 * (Dec.redopBits r.op).toNat), (base + 0x80, bitmap 128 (r.contribs.map Prod.fst))]
  match r.op with
  | .fadd => head ++ [piece (base + 8) 72 (BitVec.ofInt 576 (sum.1 * 2 ^ (sum.2 + 149).toNat)).toNat,
      piece (base + 0x50) 1 (packFlags [vs.any FVal.isNan, vs.any (fun v => v.isInf && !v.neg), vs.any (fun v => v.isInf && v.neg),
        xs.all (· == 0x80000000), !xs.isEmpty])]
  | op => head ++ [piece (base + 4) 4 (redCombine op xs).toNat]

/-- Decision queues, joins and result instances of Table 20.6; join deadlines as aclk remaining, all ones of 32 bits for one that never comes
(log entry 22). -/
def Team.objectPieces (T : Team) (left : Nat → Nat) : List Piece :=
  (T.feeds.flatMap fun e => [piece (0x300 + 16 * e.1) 4 (e.2.fbase + e.2.flog * 2 ^ 13), piece (0x304 + 16 * e.1) 4 e.2.pcnt,
    piece (0x308 + 16 * e.1) 4 e.2.ccnt]) ++
  ((span 0 32).map fun k =>
    let b := T.bar k
    piece (0x500 + 8 * k) 8 (b.count + b.arr % 65536 * 2 ^ 16 + packFlags [b.ph] * 2 ^ 32 + (T.countEng fun e => e.st.armedOn k) * 2 ^ 33)) ++
  ((span 0 T.roles.length).flatMap fun k =>
    let q := (T.role k).dq
    let at0 := 0x600 + 256 * k
    (q.ent.map fun e => piece (at0 + 4 * e.1) 4 e.2.toNat) ++
    [piece (at0 + 0x80) 4 q.tail, piece (at0 + 0x84) 4 q.head, piece (at0 + 0x88) 1 (packFlags [q.closed])] ++
    ((T.role k).red.flatMap fun e => ((span e.2.1 e.2.2.length).zip e.2.2).flatMap fun j =>
      j.2.pieces (0x4000 + 256 * (32 * k + 4 * e.1 + j.1 % 4)))) ++
  (T.q.map fun e => piece (0xA00 + 8 * e.1) 6 (e.2.1.toNat + e.2.2.toNat * 2 ^ 32)) ++
  (((span 0 T.tiles.length).zip T.tiles).flatMap fun e =>
    piece (0xA40 + e.1) 1 (packFlags [e.2.inv, e.2.ov, e.2.uf, e.2.nx]) :: e.2.e.map fun x => piece (0x1E0000 + 16384 * e.1 + 4 * x.1) 4 x.2.toNat) ++
  (T.ready.map fun e => (0xA80 + 128 * e.1, bitmap 128 e.2)) ++
  [(0xC80, bitmap 1024 ((span 0 T.slines).filter fun l => !T.lineAbsent l))] ++
  (T.joins.flatMap fun e =>
    let at0 := 0x2000 + 512 * e.1
    [(at0, bitmap 128 e.2.mask), (at0 + 0x80, bitmap 128 e.2.arrived), piece (at0 + 0x100) 1 (packFlags [e.2.armed]),
      piece (at0 + 0x108) 8 (if e.2.armed then (match e.2.deadline with | some x => left x | none => 0xFFFFFFFF) else 0)])

/-- A thread record (Table 20.7) and its registers; a thread that is gone is free. -/
def Thread.pieces (th : Thread) (tid nreg : Nat) : List Piece :=
  let at0 := 0x20000 + 256 * tid
  if !th.live then []
  else
    th.control tid ++ [piece (at0 + 0x28) 4 (th.sticky.toNat + th.reported.toNat * 2 ^ 5), piece (at0 + 0x38) 8 th.stamp] ++
    (th.nxt.map fun e => piece (at0 + 0x30 + e.1) 1 e.2) ++
    (match th.st with | .stopped f => [(at0 + 0x80, f.bytes)] | _ => []) ++
    ((th.v.filter fun e => decide (e.1 < nreg)).map fun e => piece (0x60000 + 512 * tid + 4 * e.1) 4 e.2.toNat)

/-- KIND, the instruction words and the parameters of a command (Table 20.9). -/
def EngCmd.saved (c : EngCmd) : Nat × List Word × List Word :=
  match c with
  | .copy e sk dk sf df par => (1, encode (.copy e sk dk (BitVec.ofNat 5 sf) (BitVec.ofNat 5 df)), par)
  | .cube e m i fa fb fc t par => (2, encode (.cube e m i (BitVec.ofNat 5 fa) (BitVec.ofNat 5 fb) (BitVec.ofNat 5 fc) (BitVec.ofNat 4 t)), par)
  | .cdrain e f cl df t d par => (3, encode (.cdrain e f cl (BitVec.ofNat 5 df) (BitVec.ofNat 4 t) (BitVec.ofNat 4 d)), par)
  | .coll e k g par => (4, encode (.coll e (BitVec.ofNat 2 k) g), par)
  | .tile w a b => (5, [w], [a, b])
  | .stage r _ _ _ _ => (6, [], [BitVec.ofNat 32 r])

/-- An engine entry (Table 20.9). -/
def Eng.pieces (e : Eng) (i : Nat) : List Piece :=
  let at0 := 0x10000 + 128 * i
  let c := e.cmd.saved
  let st := match e.st with | .queued => 0 | .running => 1 | .held _ => 2 | .armed b => 3 + b * 8 | .waiting => 4 | .faulted _ => 5
  [piece at0 4 (c.1 + st * 8), piece (at0 + 4) 4 (c.2.1.getD 0 0).toNat, piece (at0 + 8) 4 (c.2.1.getD 1 0).toNat,
    (at0 + 0x10, c.2.2.flatMap fun w => leBytes 4 w.toNat), piece (at0 + 0x30) 8 (match e.attime with | some x => x.toNat | none => 0),
    piece (at0 + 0x38) 4 e.cpos, piece (at0 + 0x3C) 4 e.spos, piece (at0 + 0x40) 4 e.order] ++
  (match e.st with | .faulted f => [(at0 + 0x60, f.bytes)] | _ => [])

/-- Every piece of a team's slot but its scratchpad. -/
def State.slotPieces (s : State) (T : Team) (saved : DWord) : List Piece :=
  let nchild := (T.children.filter fun k => (Map.find? s.grids k).isSome).length + T.away.length
  T.headPieces nchild saved ++ T.steer.pieces ++ T.objectPieces (fun x => x / Config.ticksPerAclk) ++
    (T.threads.flatMap fun e => e.2.pieces e.1 (T.regCount e.2)) ++ T.eng.flatMap fun e => e.2.pieces e.1

/-- Where a team's slot begins. -/
def State.slotBase (s : State) (j : Nat) : Nat := s.cfg.savebase + 4194304 * j

/-- The bytes of a slot that the save writes: Table 20.5 up to its reserved end. -/
def slotBytes : Nat := 0x220000

/-- Lines of a set that is OFF, clearing or LOST take no write (R154, R166, log entry 79). -/
def State.setWritable (s : State) (a : Nat) : Bool := (s.setFault a).isNone

/-- Write a saved team's slot (R475, R476, R480), with the time of its save: whole lines, which clears their poison marks (R163). -/
def State.writeSlotAt (s : State) (T : Team) (saved : DWord) : State :=
  match T.sslot with
  | none => s
  | some j =>
    let base := s.slotBase j
    if !s.setWritable base then s
    else
      let m0 := Memory.clear s.mem base slotBytes
      let m1 := (s.slotPieces T saved).foldl (fun m p => Memory.store m (base + p.1) p.2) m0
      ({ s with mem := Memory.shifted m1 T.scratch 0 (base + 0xE0000),
                poison := s.poison.filter fun l => decide (l < base / 128 ∨ (base + slotBytes) / 128 ≤ l) } : State).seen base slotBytes |>.touch none base

/-- A team is saved: its slot is written. -/
def State.writeSlot (s : State) (T : Team) : State := s.writeSlotAt T s.dtime

/-- A change to a saved team is made in the save area (R473); the time of its save stays. -/
def State.resave (s : State) (t : Nat) : State :=
  match s.team? t with
  | some T =>
    (match T.place, T.sslot with
     | .saved, some j =>
       -- what has come for a thread of a saved team is written to its registers (R187)
       let U := { T with threads := T.threads.map fun e => (e.1, e.2.landAll) }
       (s.setTeam t U).writeSlotAt U (BitVec.ofNat 64 (s.val (s.slotBase j + 0x48) 8))
     | _, _ => s)
  | none => s

/-! ## A team as its slot holds it (R477) -/

/-- `n` bytes as words, those that are not zero. -/
def regionWords (m : Map Byte) (n : Nat) : Map Word :=
  (span 0 n).filterMap fun i => let w : Word := BitVec.ofNat 32 (Memory.val m (4 * i) 4); if w = 0 then none else some (i, w)

/-- The numbers of the set bits of a bitmap of `n` bytes. -/
def bitsOf (m : Map Byte) (off n : Nat) : List Nat :=
  (span 0 n).flatMap fun i => let b := Memory.get m (off + i); (span 0 8).filterMap fun k => if b.getLsbD k then some (8 * i + k) else none

/-- A set that a bitmap holds: in the order it had, unless the bitmap says otherwise. -/
def keepSet (old new : List Nat) : List Nat :=
  if old.all new.contains && new.all old.contains then old else new

/-- A fault record from its bytes (Table 20.2). -/
def faultOf (m : Map Byte) (off : Nat) : FaultRec :=
  let v := fun o n => Memory.val m (off + o) n
  let w0 := v 0 4
  let w1 := v 4 4
  let w5 := v 0x14 4
  ⟨BitVec.ofNat 8 w0, BitVec.ofNat 4 (field w0 8 4), BitVec.ofNat 4 (field w0 12 4), BitVec.ofNat 10 (field w0 16 10), field w1 0 24, field w1 24 4,
    BitVec.ofNat 64 (v 8 8), BitVec.ofNat 32 (v 0x10 4), BitVec.ofNat 16 w5, BitVec.ofNat 10 (field w5 16 10), BitVec.ofNat 12 (v 0x18 4),
    BitVec.ofNat 24 (v 0x1C 4)⟩

/-- A thread's state from STATE: a parked thread is parked on what it was parked on, if POBJ and PIDX name that; else it parks again when its team
is resumed (`State.parkAgain`). -/
def Thread.stateOf (th : Thread) (st obj idx : Nat) (same : Bool) (f : FaultRec) : TState :=
  match st with
  | 0 => .exited
  | 3 => .stopped f
  | 2 => (match th.st with | .parked o => if same && o.code.1 == obj && o.code.2 % 65536 == idx then .parked o else .former | _ => .former)
  | _ => (match th.st with | .parked _ => .former | .stopped _ => .former | .exited => .former | x => x)

/-- A thread as its record and its registers in the slot have it. -/
def Thread.ofSlot (th : Thread) (m : Map Byte) (tid : Nat) (nreg : Nat → Nat) : Thread :=
  let c := region m (0x20000 + 256 * tid) 256
  let v := fun o n => Memory.val c o n
  if v 0 1 % 4 = 0 then (if th.live then { th with st := .exited } else th)
  else
    let x := th.ofControl c
    let k := field (v 0 4) 2 2
    { x with
      role := k, st := th.stateOf (v 0 1 % 4) (field (v 0 4) 8 8) (field (v 0 4) 16 16) (decide (x.pos = th.pos)) (faultOf c 0x80),
      sticky := BitVec.ofNat 5 (v 0x28 4), reported := BitVec.ofNat 5 (field (v 0x28 4) 5 5),
      nxt := (span 0 8).foldl (fun m i => Map.set 0 m i (keepLow 8 (Map.get 0 th.nxt i) (v (0x30 + i) 1))) th.nxt,
      stamp := keepLow 64 th.stamp (v 0x38 8), v := regionWords (region m (0x60000 + 512 * tid) (4 * nreg k)) (nreg k) }

/-- The threads of a slot that State holds no thread for: a record that is not free. -/
def slotTids (m : Map Byte) : List Nat := (span 0 1024).filter fun t => Memory.get m (0x20000 + 256 * t) &&& 3 != 0

/-- A thread of which only its id is known, before its record is read. -/
def Thread.blank : Thread :=
  { role := 0, part := 0, st := .former, pos := ⟨0, 0⟩, nextPos := ⟨0, 0⟩, g := false, v := [], p := 0, x := [], link := [], depth := 0, sticky := 0,
    reported := 0, late := [], dpos := 0, nxt := [], stamp := 0, fenced := false }

/-- The steering thread as the slot has it. -/
def Steer.ofSlot (t : Steer) (m : Map Byte) : Steer :=
  let c := region m 0 0x300
  let v := fun o n => Memory.val c o n
  let pos : Pos := ⟨field (v 0x204 4) 0 24, field (v 0x204 4) 24 4⟩
  { t with
    st := (match field (v 0x200 4) 13 2 with
      | 2 => .done
      | 3 => .stopped (faultOf c 0x260)
      | 1 => (match t.st with | .blocked b => .blocked b | _ => .running)
      | _ => .running),
    pos := pos, nextPos := if pos = t.pos then t.nextPos else pos, g := flag (v 0x204 4) 28,
    s := regionWords (region c 0x100 256) 64, c := BitVec.ofNat 8 (v 0x200 1), link := linksOf c 0x208 (field (v 0x200 4) 8 5),
    armt := if flag (v 0x250 4) 0 then some (BitVec.ofNat 64 (v 0x248 8)) else none,
    blatch := if flag (v 0x250 4) 1 then some (field (v 0x250 4) 2 5) else none }

/-- A command from its words and parameters (Table 20.9). -/
def EngCmd.ofSlot (c : EngCmd) (w1 w2 : Word) (par : List Word) : EngCmd :=
  match c with
  | .tile _ _ _ => .tile w1 (par.getD 0 0) (par.getD 1 0)
  | .stage r b va so l => .stage r b va so l
  | _ =>
    match decode .steer w1 (some w2) with
    | .ok (.copy e sk dk sf df) => .copy e sk dk sf.toNat df.toNat par
    | .ok (.cube e m i fa fb fc t) => .cube e m i fa.toNat fb.toNat fc.toNat t.toNat (par.take 3)
    | .ok (.cdrain e f cl df t d) => .cdrain e f cl df.toNat t.toNat d.toNat par
    | .ok (.coll e k g) => .coll e k.toNat g par
    | _ => c

/-- An engine entry as the slot has it: gone where KIND is 0. -/
def Eng.ofSlot (e : Eng) (m : Map Byte) (i : Nat) : Option Eng :=
  let c := region m (0x10000 + 128 * i) 128
  let v := fun o n => Memory.val c o n
  let w : Nat → Word := fun o => BitVec.ofNat 32 (v o 4)
  if v 0 1 % 8 = 0 then none
  else
    let t : DWord := BitVec.ofNat 64 (v 0x30 8)
    some { e with
      cmd := e.cmd.ofSlot (w 4) (w 8) ((span 0 8).map fun k => w (0x10 + 4 * k)),
      st := (match field (v 0 4) 3 3 with
        | 0 => .queued
        | 1 => .running
        | 2 => .held t
        | 3 => .armed (field (v 0 4) 6 5)
        | 4 => .waiting
        | _ => .faulted (faultOf c 0x60)),
      attime := e.attime.map fun _ => t, cpos := v 0x38 4, spos := v 0x3C 4, order := keepLow 32 e.order (v 0x40 4) }

/-- A role's queue and counts as the slot has them. -/
def Role.ofSlot (r : Role) (m : Map Byte) (k : Nat) : Role :=
  let c := region m (0x600 + 256 * k) 256
  let h := region m 0 0x48
  let held := Memory.val h (0x24 + 2 * k) 2
  { r with
    nreg := Memory.val h (0x18 + k) 1, first := Memory.val h (0x1C + 2 * k) 2, held := r.held.take held ++ List.replicate (held - r.held.length) 0,
    dq := ⟨regionWords (region c 0 128) 32, keepLow 32 r.dq.tail (Memory.val c 0x80 4), keepLow 32 r.dq.head (Memory.val c 0x84 4),
      flag (Memory.val c 0x88 1) 0⟩ }

/-- A join slot as the slot has it: a deadline is kept in aclk. -/
def Join.ofSlot (x : Join) (m : Map Byte) (j : Nat) : Join :=
  let c := region m (0x2000 + 512 * j) 512
  let left := Memory.val c 0x108 8
  { mask := keepSet x.mask (bitsOf c 0 128), arrived := keepSet x.arrived (bitsOf c 0x80 128), armed := flag (Memory.val c 0x100 1) 0,
    deadline := if flag (Memory.val c 0x100 1) 0 && left != 0xFFFFFFFF then some (left * Config.ticksPerAclk) else none }

/-- An accumulator tile as the slot has it. -/
def Tile.ofSlot (x : Tile) (m : Map Byte) (k : Nat) : Tile :=
  let f := Memory.val m (0xA40 + k) 1
  { x with e := regionWords (region m (0x1E0000 + 16384 * k) 16384) 4096, inv := flag f 0, ov := flag f 1, uf := flag f 2, nx := flag f 3 }

/-- A contribution that leaves the combination of the others as it is (R428). -/
def redNeutral (op : RedOp) : Word :=
  match op with
  | .min => 0x7FFFFFFF
  | .umin => 0xFFFFFFFF
  | .max => 0x80000000
  | .and => 0xFFFFFFFF
  | .fmin => 0x7FC00000
  | .fmax => 0x7FC00000
  | _ => 0

/-- The words whose exact sum is `v` units of 2^-149. -/
def sumWords (v : Int) : List Word :=
  let word := fun (c : Nat) (e : Int) => (BitVec.ofNat 32 (Fmt.fp32.sum .rn [.fin (decide (v < 0)) c e]).1 : Word)
  let a := v.natAbs
  let top := a / 2 ^ 264
  let parts : List (Nat × Int) := (span 0 11).map (fun (i : Nat) => (a / 2 ^ (24 * i) % 2 ^ 24, 24 * (i : Int) - 149)) ++ [(top % 4096, 115)]
  parts.filterMap (fun x => if x.1 = 0 then none else some (word x.1 x.2)) ++ List.replicate (top / 4096) (word 1 127)

/-- A result instance from its 256 bytes (Table 20.8): who has contributed, and contributions that combine to what it holds. -/
def redOfBytes (c : Map Byte) : Option RedStep :=
  let b := Memory.val c 0 1
  if !flag b 0 then none
  else
    (Dec.redop (BitVec.ofNat 4 (b / 2))).map fun op =>
      let done := bitsOf c 0x80 128
      let f := Memory.val c 0x50 1
      let own := fun (x : Word) (l : List Nat) => l.map fun i => (i, x, op)
      match op with
      | .fadd =>
        let sum := (BitVec.ofNat 576 (Memory.val c 8 72)).toInt
        let extra := (if flag f 0 then [0x7FC00000] else []) ++ (if flag f 1 then [0x7F800000] else []) ++ (if flag f 2 then [0xFF800000] else []) ++
          sumWords sum
        ⟨own (if flag f 3 then 0x80000000 else 0) done ++ own 0 [] ++ extra.map fun x => (2048, x, op)⟩
      | .cnt => ⟨own 0 done⟩
      | _ => ⟨own (BitVec.ofNat 32 (Memory.val c 4 4)) (done.take 1) ++ own (redNeutral op) (done.drop 1)⟩

/-- The open instances of a role's register as the slot has them, from number `a` on; one that the slot holds as it was stays. -/
def redsOf (m : Map Byte) (k n a : Nat) (old : List RedStep) : List RedStep :=
  ((span 0 4).map fun j =>
    let c := region m (0x4000 + 256 * (32 * k + 4 * n + (a + j) % 4)) 256
    match old[j]? with
    | some J => if (J.pieces 0).foldl (fun x p => Memory.store x p.1 p.2) [] = c then some J else redOfBytes c
    | none => redOfBytes c).takeWhile Option.isSome |>.filterMap id

/-- Gang membership as the slot has it (Table 20.6). -/
def gangOf (head gs : Nat) : Option GangMem :=
  if flag head 16 then
    some ⟨field gs 0 6, field gs 6 8, (match field gs 14 2 with | 0 => .attached | 1 => .detached | _ => .done), flag gs 16⟩
  else none

/-- The tiles that the slot says are held: those of State first. -/
def tilesOf (ts : List Tile) (n : Nat) : List Tile := (span 0 n).map fun k => ts.getD k ⟨0, [], false, false, false, false⟩

/-- THE TEAM AS ITS SLOT HOLDS IT (R477): every field of Tables 20.6 to 20.9; what a thread or command is in the middle of is no part of a slot
(log entry 22). -/
def Team.ofSlot (T : Team) (m : Map Byte) : Team :=
  let h := region m 0 0x1100
  let v := fun o n => Memory.val h o n
  let slines := field (v 0x2C 4) 0 14
  let pres := (span 0 slines).filter fun l => !(Memory.get h (0xC80 + l / 8)).getLsbD (l % 8)
  let feeds := (span 0 32).foldl (fun fs i =>
    let c := region h (0x300 + 16 * i) 16
    let F := T.feed i
    Map.set ⟨0, 0, 0, 0, []⟩ fs i
      { F with fbase := field (Memory.val c 0 4) 0 13, flog := field (Memory.val c 0 4) 13 5, pcnt := Memory.val c 4 4, ccnt := Memory.val c 8 4 }) T.feeds
  let bars := (span 0 32).foldl (fun bs i =>
    let b := T.bar i
    let w := v (0x500 + 8 * i) 8
    Map.set ⟨0, 0, false, [], (0, 0)⟩ bs i { b with count := field w 0 16, arr := keepLow 16 b.arr (field w 16 16), ph := flag w 32 }) T.bars
  let nreg := fun k => if k < T.roles.length then v (0x18 + k) 1 else 0
  let had := T.threads.map Prod.fst
  { T with
    ctx := BitVec.ofNat 12 (field (v 0 4) 0 12), prio := field (v 0 4) 12 4, gridNo := BitVec.ofNat 32 (v 4 4), index := field (v 8 4) 0 24,
    gang := gangOf (v 0 4) (v 0xC 4), img := { T.img with kimg := v 0x10 8 }, slines := slines,
    children := if field (v 0x3C 4) 0 9 = 0 then [] else T.children, away := if field (v 0x3C 4) 0 9 = 0 then [] else T.away,
    pblk := T.pblk.map fun _ => field (v 0x40 4) 0 16,
    roles := ((span 0 T.roles.length).zip T.roles).map fun e =>
      { e.2.ofSlot h e.1 with red := (span 0 8).foldl (fun r n =>
          let a := (e.2.redAt n).1
          Map.set (0, []) r n (a, redsOf m e.1 n a (e.2.redAt n).2)) e.2.red },
    threads := (slotTids m |>.filter fun t => !had.contains t).foldl (fun ts t => Map.put ts t (Thread.blank.ofSlot m t nreg))
      (T.threads.map fun e => (e.1, e.2.ofSlot m e.1 nreg)),
    steer := T.steer.ofSlot h,
    q := (span 0 8).foldl (fun q i => Map.set (0, 0) q i (BitVec.ofNat 32 (v (0xA00 + 8 * i) 4), BitVec.ofNat 16 (v (0xA04 + 8 * i) 2))) T.q,
    scratch := region m 0xE0000 (128 * slines),
    absent := pres.map fun l => (l, max 1 (Map.get 0 T.absent l)),
    tiles := ((span 0 (field (v 0x2C 4) 14 5)).zip (tilesOf T.tiles (field (v 0x2C 4) 14 5))).map fun e => e.2.ofSlot m e.1,
    feeds := feeds, bars := bars,
    joins := (span 0 16).foldl (fun js j => Map.set ⟨[], [], false, none⟩ js j ((T.join j).ofSlot m j)) T.joins,
    reserve := v 0x30 4, xmask := BitVec.ofNat 5 (v 0x34 4), dead := flag (v 0x38 4) 0, arith := flag (v 0x38 4) 1,
    eng := T.eng.filterMap fun e => (e.2.ofSlot m e.1).map fun x => (e.1, x),
    ready := (span 0 4).foldl (fun r i => Map.set [] r i (keepSet (Map.get [] T.ready i) (bitsOf h (0xA80 + 128 * i) 128))) T.ready }

/-- The bytes of a slot that are not zero. -/
def State.slotMap (s : State) (j : Nat) : Map Byte := region s.mem (s.slotBase j) slotBytes

/-- The lines of a slot can be read: its set takes accesses and none of them is poison (R154, R163, R166). -/
def State.slotReadable (s : State) (j : Nat) : Bool :=
  s.setWritable (s.slotBase j) && !s.poison.any fun l => decide (s.slotBase j / 128 ≤ l ∧ l < (s.slotBase j + slotBytes) / 128)

/-- A party stopped by TRAP or BRKPT of which only its position is known goes on behind it (R466). -/
def State.behindTraps (s : State) (T : Team) : Team :=
  let next := fun (st : Stream) (code : BitVec 8) (p n : Pos) => if stopsAfter code && n == p then s.posAfter T st p else n
  { T with
    threads := T.threads.map (fun e => match e.2.st with
      | .stopped r => (e.1, { e.2 with nextPos := next .lane r.code e.2.pos e.2.nextPos })
      | _ => e),
    steer := match T.steer.st with
      | .stopped r => { T.steer with nextPos := next .steer r.code T.steer.pos T.steer.nextPos }
      | _ => T.steer }

/-- Read a saved team's slot (R477): one that cannot be read is not (log entry 79). -/
def State.readSlot (s : State) (T : Team) : Team :=
  match T.sslot with
  | none => T
  | some j => if s.slotReadable j then s.behindTraps (T.ofSlot (s.slotMap j)) else T

/-- A saved team as its slot has it now (R473, R477). -/
def State.fromSlot (s : State) (t : Nat) : State :=
  match s.team? t with
  | some T => if T.place = .saved then s.setTeam t (s.readSlot T) else s
  | none => s

end Sys2Proof.Machine
end

