-- ==== Sys2Proof/Machine/Opal.lean ====
section
/-! DEFINITION. Opal: the start of an instance (R436-R438), rendezvous (R450, R451), completion and status (R457, R458), aborts (R460). -/

namespace Sys2Proof.Machine

/-! ## Opal's reads and writes (R438, R451, R457) -/

/-- Read `n` lines for the stream, as they stood `b` stores ago (R358). -/
def State.opalRead (s : State) (T : Team) (b : Nat × Nat) (a : DWord) : Nat → State × (List Byte ⊕ Option Trap)
  | 0 => (s, .inl [])
  | n + 1 =>
    match s.streamRead T false b a with
    | (s1, .inl bs) =>
      (match State.opalRead s1 T b (a + 128) n with
       | (s2, .inl r) => (s2, .inl (bs ++ r))
       | x => x)
    | x => x

/-- The end of a write: done, it must wait for a scratch line, or its fault. -/
inductive OpRes where
  | ok
  | wait
  | bad (f : Trap)
  deriving DecidableEq, Repr

/-- Replace `n` bytes of one line; a whole line is written whole (R163, R357). -/
def State.opalPut (s : State) (t : Nat) (T : Team) (a : DWord) (n : Nat) (f : List Byte → List Byte) : State × OpRes :=
  match s.resolve T none a n with
  | .bad => (s, .bad (trapAt Code.aperture 0 a))
  | .scr off => if T.lineAbsent (off / 128) then (s, .wait) else (s.modTeam t fun T => T.sstore off (f (T.sbytes off n)), .ok)
  | .mem _ va =>
    match s.judgeStore T.ctx T.cluster false va (n == 128) with
    | (s1, .ok pa _) => (if n = 128 then s1.putLine pa (f (s1.bytes pa n)) else s1.store pa (f (s1.bytes pa n)), .ok)
    | (s1, .nonres) => (s1, .bad (trapAt Code.storeNonres 0 a))
    | (s1, .bad k q) => (s1, .bad (trapAt k q a))

/-- Write lines one after another; each is one event (R451). -/
def State.opalLines (s : State) (t : Nat) (T : Team) (a : DWord) : List (List Byte) → State × OpRes
  | [] => (s, .ok)
  | bs :: r =>
    match s.opalPut t T a 128 fun _ => bs with
    | (s1, .ok) => State.opalLines s1 t T (a + 128) r
    | x => x

/-- Write a multiple of 128 bytes; nothing is written while a line of it is absent. -/
def State.opalWrite (s : State) (t : Nat) (T : Team) (a : DWord) (bs : List Byte) : State × OpRes :=
  let off := a.toNat % 2 ^ 56
  if a.toNat / 2 ^ 56 = 2 ∧ (span (off / 128) (bs.length / 128)).any T.lineAbsent then (s, .wait)
  else s.opalLines t T a (bytesIn 128 bs.length bs)

/-- An address in the global or scratch aperture, aligned (R438). -/
def opalAddr (a : DWord) (al : Nat) : Bool := (a.toNat / 2 ^ 56 == 0 || a.toNat / 2 ^ 56 == 2) && a.toNat % al == 0

/-! ## Outcomes and status (R457, R460) -/

/-- Keep the outcome of a sequence number, of the last 16 (R460). -/
def State.keepEnd (s : State) (ctx : CtxId) (g : BitVec 8) (seq : BitVec 16) (o : Option CollEnd) : State :=
  let k := groupKey ctx g
  let old := (Map.get [] s.opal.outcomes k).filter fun e => e.1 != seq
  { s with opal := { s.opal with outcomes := Map.set [] s.opal.outcomes k (((seq, o) :: old).take 16) } }

/-- The kept outcome. -/
def State.endOf (s : State) (ctx : CtxId) (g : BitVec 8) (seq : BitVec 16) : Option (Option CollEnd) :=
  (List.find? (fun (e : BitVec 16 × Option CollEnd) => e.1 == seq) (Map.get [] s.opal.outcomes (groupKey ctx g))).map Prod.snd

/-- The status word (Table 19.8) above its low 32 bits: FLAGS and SEQ. -/
def collStatus (low : Nat) (f : FlagSet) (seq : BitVec 16) : DWord :=
  let b := fun i => if f.getLsbD i then 1 else 0
  BitVec.ofNat 64 (low + (b 0 + 2 * b 2 + 4 * b 3 + 8 * b 4) * 2 ^ 32 + seq.toNat * 2 ^ 48)

/-- The low status word of an abort. -/
def CollEnd.low (o : CollEnd) : Nat :=
  2 + o.cause.toNat * 4 + o.code.toNat * 256 + (if o.norank then 2 ^ 26 else o.rank % 1024 * 2 ^ 16)

/-- The group and slot of a collective command. -/
def EngCmd.coll? (c : EngCmd) : Option (Nat × BitVec 8) := match c with | .coll _ k g _ => some (k, g) | _ => none

/-- Change an instance. -/
def State.modRun (s : State) (t i : Nat) (f : CollRun → CollRun) : State := s.modEng t i fun e => { e with run := e.run.map f }

/-- The unit number of a step's ready-to-receive among an entry's transactions. -/
def rtrUnit (k g : Nat) : Nat := g * 1024 + k
/-- The unit number of a step's transfer. -/
def sendUnit (k g : Nat) : Nat := 2 ^ 39 + g * 1024 + k
/-- The unit number of a window line of a tile. -/
def rdstUnit (k l : Nat) : Nat := 2 ^ 40 + k * 8192 + l

/-- An entry's transactions whose unit passes a test. -/
def State.engTxs (s : State) (t i : Nat) (f : Nat → Bool) : Map Tx :=
  s.txs.filter fun x => x.2.team == t && (match x.2.owner with | .engine j u _ => j == i && f u | _ => false)

/-- Drop the rendezvous of an entry; a window write that has been sent stays outstanding. -/
def State.dropRendezvous (s : State) (t i : Nat) : State := s.endTxs ((s.engTxs t i fun u => decide (u < 2 ^ 40)).map Prod.fst)

/-- The address of the tile at C (Table 20.2). -/
def Eng.tileAt (e : Eng) : DWord :=
  match e.run.bind fun r => r.tiles[e.cpos]? with | some x => x.extra.1 | none => 0

/-- An instance stops with an abort: its status word unless the status area failed, its outcome and its stream fault (R457, R460). A word
whose scratch line is absent is owed; of a saved team the slot is written again. -/
def State.collStop (s : State) (t i : Nat) (o : CollEnd) (f : Trap) (quiet : Bool) : State :=
  match s.team? t with
  | none => s
  | some T =>
    match Map.find? T.eng i with
    | none => s
    | some e =>
      match e.run, e.cmd.coll? with
      | some r, some (_, g) =>
        let w := collStatus o.low e.flags r.seq
        let s1 :=
          if quiet || !opalAddr r.stat 128 then s
          else
            match s.opalPut t T (r.stat + 128) 8 fun _ => leBytes 8 w.toNat with
            | (s1, .wait) => s1.modRun t i fun r => { r with owed := some w }
            | (s1, _) => s1
        let s2 := (s1.dropRendezvous t i).keepEnd T.ctx g r.seq (some o)
        (s2.stopEng t i { f with code := o.code, cause := if o.code = Code.collAbort ∨ o.code = Code.collMismatch then o.cause.zeroExtend 4 else f.cause,
                                 addr := e.tileAt, info := BitVec.ofNat 32 o.low }).resave t
      | _, _ => s

/-- What the other ranks are told of a cause (R460). -/
def CollEnd.others (o : CollEnd) : CollEnd :=
  match o.cause.toNat with
  | 1 => { o with code := Code.collAbort }
  | 2 => { o with code := Code.collMismatch }
  | 5 => { o with code := Code.collAbort }
  | _ => { o with cause := 4, code := Code.collAbort }

/-- An abort goes to a rank (R460): to this K9 itself it arrives here (R108), a rank of another pod is reached through its endpoint (R436), any
other by a cell of class COMP (R110), which has no buffer's address to be spread by (log entry 97). -/
def State.postAbort (s : State) (k : GRank) (g : BitVec 8) (seq : BitVec 16) (p : CollEnd) : State :=
  let n := Note.collAbort k.ctx g seq p.cause p.code p.rank p.norank
  if k.xp then
    (match s.endpoint k.podn k.aid with | some e => if s.portsOpen then s.send (.uetNote e.addr e.ports k.podn k.aid n) else s | none => s)
  else if k.aid = s.cfg.aid then { s with agenda := s.agenda ++ [.event (.collAbort ⟨k.ctx, none⟩ g seq p.cause p.code p.rank p.norank)] }
  else s.toPeer k.aid 0 0 (.note n)

/-- Send abort to every rank of some numbered entries but this one. -/
def State.tellRanks (s : State) (g : BitVec 8) (seq : BitVec 16) (ranks : List (Nat × GRank)) (me : Option Nat) (o : CollEnd) : State :=
  ranks.foldl (fun s k => if me = some k.1 then s else s.postAbort k.2 g seq o.others) s

/-- Send abort to every rank but this one. -/
def State.collTell (s : State) (g : BitVec 8) (seq : BitVec 16) (ranks : List DWord) (me : Option Nat) (o : CollEnd) : State :=
  s.tellRanks g seq ((span 0 ranks.length).zip (ranks.map fun k => gRankOf k.toNat)) me o

/-- What this rank tells of a cause: with NORANK where it has no position (R460). -/
def CollRun.ending (r : CollRun) (cause : BitVec 3) (code : BitVec 8) : CollEnd :=
  if r.me < r.ranks.length then ⟨cause, code, r.me, false⟩ else ⟨cause, code, 0, true⟩

/-- AN ABORT FOUND AT THIS RANK (R460). -/
def State.collFailQ (s : State) (t i : Nat) (cause : BitVec 3) (f : Trap) (origin : Option Nat) (quiet : Bool) : State :=
  match (s.team? t).bind fun T => Map.find? T.eng i with
  | none => s
  | some e =>
    match e.run, e.cmd.coll? with
    | some r, some (_, g) =>
      let o := match origin with | some x => ⟨cause, f.code, x, false⟩ | none => r.ending cause f.code
      (s.collTell g r.seq r.ranks (some r.me) o).collStop t i o f quiet
    | _, _ => s

/-- The same, with the status word. -/
def State.collFail (s : State) (t i : Nat) (cause : BitVec 3) (f : Trap) (origin : Option Nat) : State := s.collFailQ t i cause f origin false

/-! ## The start of the stream (R436-R438, R443) -/

/-- Table 19.4 and Table 19.5 for an entry's four doublewords. -/
def collEntryOk (alg : Nat) (e : List Nat) : Bool :=
  let c := e.getD 0 0
  let op := field c 0 4
  let bf := flag c 4
  let cmp := flag c 5
  let size := field c 32 14
  let ldim := field c 16 12
  decide (op ≤ 5 ∧ field c 7 9 = 0 ∧ field c 28 4 = 0 ∧ c / 2 ^ 46 = 0 ∧ e.getD 3 0 = 0 ∧ 1 ≤ size ∧ size ≤ 8192) &&
    (!bf || op == 3 || op == 4) && (!cmp || decide (op ≤ 2)) && ((op == 5) == (ldim != 0)) &&
    opalAddr (BitVec.ofNat 64 (e.getD 1 0)) 128 && (!flag c 6 || e.getD 2 0 / 2 ^ 16 % 128 == 0) &&
    (if op ≤ 2 then alg != 0 && size == (if cmp then 9 else 8) else true) &&
    (if op = 5 then size == (8 + 4 * ldim + 127) / 128 else true)

/-- A tile as its entry gives it. -/
def collTileOf (e : List Nat) : CollTile :=
  ⟨BitVec.ofNat 64 (e.getD 0 0), (BitVec.ofNat 64 (e.getD 1 0), BitVec.ofNat 64 (e.getD 2 0)), 0, [], false, [], false, false, false⟩

/-- The largest transfer of an instance. -/
def CollRun.most (r : CollRun) : Nat := r.tiles.foldl (fun m t => max m t.transfer) 0

/-- R438 for the header, whose bytes are `hd`, and the entries. -/
def collLegal (hd : List Byte) (es : List (List Nat)) (n : Nat) (r : CollRun) : Bool :=
  let h := r.hdr
  let nt := hdrTiles h
  decide (h.toNat / 2 ^ 16 = 0 ∧ hdrKind h ≠ 3 ∧ hdrAlg h ≠ 3 ∧ 1 ≤ nt ∧ nt ≤ 1024) && (hd.drop 32).all (· == 0) &&
    es.all (collEntryOk (hdrAlg h)) && (hdrAlg h != 1 || (2 ^ Nat.log2 n == n && nt % n == 0)) &&
    !(hdrKind h == 2 && hdrAlg h == 2) && r.stagesz % 128 == 0 && decide (2 * r.most ≤ r.stagesz) &&
    opalAddr (BitVec.ofNat 64 r.stage) 128 && opalAddr r.stat 128 && (!flag h.toNat 4 || opalAddr (BitVec.ofNat 64 (recAt hd 24 8)) 2)

/-- The block as read: header bytes and entries, or why not, with the header bytes as far as they could be read. -/
abbrev CollBlk := (List Byte × List (List Nat)) ⊕ (Option Trap × List Byte)

/-- Read the block (R437). -/
def State.collBlock (s : State) (T : Team) (b : Nat × Nat) (a : DWord) : State × CollBlk :=
  match s.opalRead T b a 1 with
  | (s1, .inr x) => (s1, .inr (x, []))
  | (s1, .inl hd) =>
    let nt := field (recAt hd 0 4) 5 11
    let n := if nt ≤ 1024 then nt else 0
    match s1.opalRead T b (a + 128) ((32 * n + 127) / 128) with
    | (s2, .inr x) => (s2, .inr (x, hd))
    | (s2, .inl bs) => (s2, .inl (hd, (bytesIn 32 n bs).map fun x => dwordsOf x 4))

/-- The permutation array (R438), read line by line. -/
def State.collPerm (s : State) (T : Team) (b : Nat × Nat) (h : Word) (a : DWord) (n : Nat) : State × (List Nat ⊕ Option Trap) :=
  if !flag h.toNat 4 then (s, .inl (span 0 n))
  else
    let off := a.toNat % 128
    match s.opalRead T b (a - BitVec.ofNat 64 off) ((off + 2 * n + 127) / 128) with
    | (s1, .inl bs) => (s1, .inl ((bytesIn 2 n (bs.drop off)).map leNat))
    | (s1, .inr x) => (s1, .inr x)

/-- The one entry of this K9 and context among some numbered ones (R436). -/
def State.ownAmong (s : State) (ctx : CtxId) (ranks : List (Nat × GRank)) : Option Nat :=
  match ranks.filter fun k => k.2.aid == s.cfg.aid && k.2.ctx == ctx && !k.2.xp with
  | [k] => some k.1
  | _ => none

/-- The one entry of this K9 and context among the ranks (R436). -/
def State.ownRank (s : State) (ctx : CtxId) (ranks : List GRank) : Option Nat := s.ownAmong ctx ((span 0 ranks.length).zip ranks)

/-- A rank entry's 64 bits. -/
def GRank.bits (k : GRank) : DWord :=
  BitVec.ofNat 64 (k.aid.toNat + k.ctx.toNat * 2 ^ 16 + (if k.xp then 2 ^ 31 else 0) + k.podn.toNat * 2 ^ 32)

/-- A ready bit at or above NT is set (R443). -/
def Team.readyAbove (T : Team) (k nt : Nat) : Bool := (Map.get [] T.ready k).any fun b => decide (nt ≤ b)

/-- The instance as its block and ranks give it. -/
def collRunOf (seq : BitVec 16) (blk : CollBlk) (ranks : List GRank) : CollRun :=
  let r0 : CollRun := { CollRun.fresh seq with ranks := ranks.map GRank.bits }
  let with' := fun (hd : List Byte) (es : List (List Nat)) =>
    if hd.isEmpty then r0 else
      { r0 with hdr := BitVec.ofNat 32 (recAt hd 0 4), stagesz := recAt hd 4 4, stage := recAt hd 8 8,
                stat := BitVec.ofNat 64 (recAt hd 16 8), tiles := es.map collTileOf }
  match blk with
  | .inl (hd, es) => with' hd es
  | .inr (_, hd) => with' hd []

/-- The stream runs with the instance as it is known. -/
def State.putRun (s : State) (t i : Nat) (r : CollRun) : State := s.modEng t i fun e => { e with st := .running, run := some r }

/-- Judge the instance that has been read: the block, whether the descriptor obeys R436, its ranks (R438, R443, R460). -/
def State.collJudge (s : State) (t : Nat) (T : Team) (b : Nat × Nat) (i k : Nat) (g : BitVec 8) (seq : BitVec 16)
    (blk : CollBlk) (whole : Bool) (ranks : List GRank) : State :=
  let r1 := collRunOf seq blk ranks
  match blk, s.ownRank T.ctx ranks with
  | .inr (some f, _), none =>
    let o : CollEnd := ⟨3, f.code, 0, true⟩
    ((s.putRun t i r1).collTell g seq r1.ranks none o).collStop t i o f false
  | .inr (none, _), _ => s
  | .inl _, none =>
    let o : CollEnd := ⟨1, Code.collAbort, 0, true⟩
    ((s.putRun t i r1).collTell g seq r1.ranks none o).collStop t i o { code := Code.collAbort } false
  | .inr (some f, _), some me =>
    (match s.endOf T.ctx g seq with
     | some (some o) => (s.putRun t i { r1 with me := me }).collStop t i o { code := o.code } false
     | _ => (s.putRun t i { r1 with me := me }).collFail t i 3 f none)
  | .inl (hd, es), some me =>
    let r2 := { r1 with me := me }
    let n := ranks.length
    let desc := fun (s : State) => (s.putRun t i r2).collFail t i 1 { code := Code.collAbort } none
    match s.endOf T.ctx g seq with
    | some (some o) => (s.putRun t i r2).collStop t i o { code := o.code } false
    | _ =>
      if !whole || !collLegal hd es n r2 then desc s
      else
        match s.collPerm T b r2.hdr (BitVec.ofNat 64 (recAt hd 24 8)) n with
        | (s1, .inr none) => s1
        | (s1, .inr (some f)) => (s1.putRun t i r2).collFail t i 3 f none
        | (s1, .inl pm) =>
          if !pm.all (fun x => decide (x < n)) || !noRepeats pm then desc s1
          else if T.readyAbove k (hdrTiles r2.hdr) then (s1.putRun t i r2).collFail t i 3 { code := Code.indexRange } none
          else s1.putRun t i { r2 with perm := pm, started := true }

/-- The rank entries that can be read of a descriptor which cannot be read whole, with their numbers (R460). -/
def State.ranksFound (s : State) (ctx : CtxId) (cl : Option Nat) (g b : Nat) : State × List (Nat × GRank) :=
  match Map.find? s.ctxs ctx.toNat with
  | none => (s, [])
  | some c =>
    let base := c.gdbase + 16384 * g
    match s.readCtx ctx cl 2 base 64 b with
    | (s1, .ok hd) =>
      (span 0 (min (field (leNat (hd.take 4)) 0 11) 1024)).foldl (fun r k =>
        match r.1.readCtx ctx cl 2 (base + 64 + 8 * k) 8 b with
        | (s2, .ok bs) => (s2, r.2 ++ [(k, gRankOf (leNat bs))])
        | (s2, _) => (s2, r.2)) (s1, [])
    | (s1, _) => (s1, [])

/-- The descriptor cannot be read: cause LOCAL, after a fault of the block; the ranks that can be read are told (R460). -/
def State.collUngrouped (s : State) (t : Nat) (T : Team) (b i : Nat) (g : BitVec 8) (seq : BitVec 16) (blk : CollBlk) (f : Trap) : State :=
  let stop := fun (f : Trap) =>
    let r := s.ranksFound T.ctx T.cluster g.toNat b
    let me := r.1.ownAmong T.ctx r.2
    let o : CollEnd := ⟨3, f.code, me.getD 0, me.isNone⟩
    (((r.1.putRun t i (collRunOf seq blk [])).tellRanks g seq r.2 me o).collStop t i o f false)
  match blk with
  | .inr (none, _) => s
  | .inr (some b, _) => stop b
  | .inl _ => stop f

/-- The stream of a queued instance begins (R437): a block outside the apertures or misaligned is a breach of R438. -/
def State.collBegin (s : State) (t : Nat) (T : Team) (e : Eng) (i k : Nat) (g : BitVec 8) (seq : BitVec 16) (par : List Word) : State :=
  let a : DWord := pair (par.getD 0 0) (par.getD 1 0)
  let old := s.behind T e
  let b := if opalAddr a 128 then s.collBlock T old a else (s, .inl ([], []))
  match b.1.readGroup T.ctx T.cluster g.toNat old.1 with
  | (s1, .ok _ ranks) => s1.collJudge t T old i k g seq b.2 true ranks
  | (s1, .broken ranks) => s1.collJudge t T old i k g seq b.2 false ranks
  | (s1, .nonres) => s1.collUngrouped t T old.1 i g seq b.2 { code := Code.storeNonres }
  | (s1, .bad c q) => s1.collUngrouped t T old.1 i g seq b.2 { code := c, cause := q }

/-- An instance whose block has not been read, as its block and its descriptor stand: for the abort that ends it (R460). -/
def State.collKnown (s : State) (t i : Nat) : State :=
  match s.team? t with
  | none => s
  | some T =>
    match Map.find? T.eng i with
    | none => s
    | some e =>
      match e.run, e.cmd with
      | some r, .coll _ _ g par =>
        if !r.ranks.isEmpty then s
        else
          let a : DWord := pair (par.getD 0 0) (par.getD 1 0)
          let b := if opalAddr a 128 then s.collBlock T (0, 0) a else (s, .inl ([], []))
          let known := fun (s : State) (ranks : List GRank) => s.modEng t i fun e =>
            { e with run := some { collRunOf r.seq b.2 ranks with me := (s.ownRank T.ctx ranks).getD ranks.length } }
          (match b.1.readGroup T.ctx T.cluster g.toNat with
           | (s1, .ok _ ranks) => known s1 ranks
           | (s1, .broken ranks) => known s1 ranks
           | (s1, _) => s1)
      | _, _ => s

/-! ## Steps (R450, R451) -/

/-- An instance that goes on: its team, entry, run, slot and group. -/
structure CollView where
  T : Team
  e : Eng
  r : CollRun
  slot : Nat
  grp : BitVec 8
  deriving DecidableEq, Repr

/-- The instance in an engine entry, once its block is read and while it runs. -/
def State.coll? (s : State) (t i : Nat) : Option CollView :=
  match s.team? t with
  | none => none
  | some T =>
    match Map.find? T.eng i with
    | none => none
    | some e =>
      match e.run, e.cmd.coll? with
      | some r, some (k, g) => if r.started && e.st = .running then some ⟨T, e, r, k, g⟩ else none
      | _, _ => none

/-- This rank's position. -/
def CollRun.pos (r : CollRun) : Nat := r.perm.findIdx (· == r.me)
/-- The entry of the rank at a position. -/
def CollRun.at (r : CollRun) (p : Nat) : GRank := gRankOf (r.ranks.getD (r.perm.getD p 0) 0).toNat
/-- A tile. -/
def CollRun.tile (r : CollRun) (k : Nat) : CollTile := r.tiles.getD k ⟨0, (0, 0), 0, [], false, [], false, false, false⟩
/-- This rank's steps of a tile. -/
def CollRun.mine (r : CollRun) (k : Nat) : List (Nat × CollStep) := mySteps r.hdr r.ranks.length k r.pos
/-- Change a tile. -/
def CollRun.modTile (r : CollRun) (k : Nat) (f : CollTile → CollTile) : CollRun := { r with tiles := r.tiles.modify k f }

/-- An XP rank can be reached (R436, R460): the endpoint table has a valid entry. -/
def State.reachable (s : State) (k : GRank) : Bool := !k.xp || s.endps.any fun e => e.2.valid && e.2.podn == k.podn && e.2.aid == k.aid

/-- A staging slot's address. -/
def CollRun.stageAt (r : CollRun) (slot : Nat) : DWord := BitVec.ofNat 64 (r.stage + slot * r.most)

/-- A step of this rank in which it receives. -/
def CollRun.recvs (r : CollRun) (x : Nat × CollStep) : Bool := x.2.dst == r.pos

/-- The steps of a tile at which this rank still receives. -/
def CollRun.toCome (r : CollRun) (k : Nat) : List (Nat × CollStep) := ((r.mine k).drop (r.tile k).step).filter r.recvs

/-- The staging slots that a tile takes at its first ready-to-receive (R450): one, and one more beside a BF16 SUM partial; none while there is
no room. -/
def CollRun.takeSlots (r : CollRun) (c k : Nat) : Option (List Nat) :=
  let x := r.tile k
  let used := r.tiles.flatMap fun y => y.slots
  let n := r.stagesz / r.most
  if !x.slots.isEmpty then some x.slots
  else
    match takeFree c used n with
    | none => none
    | some a =>
      if x.bsum && decide (2 ≤ (r.toCome k).length) then
        (match takeFree (c + 1) (a :: used) n with | some b => some [a, b] | none => none)
      else some [a]

/-- A tile's value as Opal finds it: its bytes with the flags of reading it, a line that must be waited for, or an abort with its cause. -/
inductive TileRes where
  | ok (bs : List Byte) (f : FlagSet)
  | wait
  | bad (cause : BitVec 3) (f : Trap)
  deriving DecidableEq, Repr

/-- Read a value as it is stored at an address (R452): MODE 3 of a compressed tile is LOCAL, any other breach of its header is DESC (R460). -/
def State.readTile (s : State) (T : Team) (x : CollTile) (a : DWord) (n : Nat) : State × TileRes :=
  if x.cmp then
    match s.opalRead T (0, 0) a 1 with
    | (s1, .inr none) => (s1, .wait)
    | (s1, .inr (some f)) => (s1, .bad 3 f)
    | (s1, .inl hd) =>
      match (if recAt hd 0 1 % 4 = 2 then s1.opalRead T (0, 0) (a + 128) 8 else (s1, .inl [])) with
      | (s2, .inr none) => (s2, .wait)
      | (s2, .inr (some f)) => (s2, .bad 3 f)
      | (s2, .inl px) =>
        match unpackTile x.op (hd ++ px) with
        | some v => (s2, if packedOk hd then .ok v 0 else .bad 1 { code := Code.collAbort })
        | none => (s2, .bad 3 { code := Code.collAbort })
  else
    match s.opalRead T (0, 0) a (n / 128) with
    | (s1, .inl bs) => (s1, .ok bs 0)
    | (s1, .inr none) => (s1, .wait)
    | (s1, .inr (some f)) => (s1, .bad 3 f)

/-- The value of a tile at this rank: free because the program stored to it (R459), on its way out, a partial in staging, or read from LADDR,
a BF16 SUM contribution widened (R454). -/
def State.collGet (s : State) (T : Team) (r : CollRun) (x : CollTile) : State × TileRes :=
  if x.spoiled then ({ s with freeCtr := s.freeCtr + x.valueBytes }, .ok ((span s.freeCtr x.valueBytes).map Config.freeByte) 0)
  else if !x.val.isEmpty then (s, .ok x.val 0)
  else if x.part then s.readTile T x (r.stageAt (x.slots.headD 0)) x.transfer
  else
    match s.readTile T x x.extra.1 x.bytes with
    | (s1, .ok bs f) => (s1, if x.bsum then .ok (widen bs).1 (widen bs).2 else .ok bs f)
    | q => q

/-- Window writes of a tile's final value are awaited (R458). -/
def State.rdstOpen (s : State) (t i k : Nat) : Bool :=
  (s.engTxs t i fun u => decide (2 ^ 40 ≤ u) && (u - 2 ^ 40) / 8192 == k).any fun x => !x.2.ahead

/-- A tile is complete at this rank: its staging is free. -/
def Eng.tileDone (e : Eng) (k : Nat) : Eng :=
  { (e.land k) with run := e.run.map fun r => r.modTile k fun x => { x with done := true, val := [], slots := [], part := false } }

/-- Set a tile's completion bit (R457). -/
def State.collBit (s : State) (t i k : Nat) (v : CollView) : State × OpRes :=
  match s.opalPut t v.T (v.r.stat + BitVec.ofNat 64 (k / 8)) 1 fun b => [b.headD 0 ||| BitVec.ofNat 8 (2 ^ (k % 8))] with
  | (s1, .ok) => (s1.modEng t i fun e => e.tileDone k, .ok)
  | x => x

/-- Set the bit of a tile that has nothing left to write; a fault of the bitmap leaves the status area alone (R457). -/
def State.collMark (s : State) (t i k : Nat) (v : CollView) : State :=
  match s.collBit t i k v with
  | (s1, .bad f) => s1.collFailQ t i 3 f none true
  | (s1, _) => s1

/-- Write the final value through the window, one access for each line and rank (R65, R451). -/
def State.collRdst (s : State) (t i k : Nat) (v : CollView) (win : BitVec 16) (off : Nat) : Nat → List (List Byte) → State
  | _, [] => s
  | l, bs :: rest =>
    let rel := match v.e.cmd.args? with | some a => a.relFar | none => false
    let o := TxOwner.engine i (rdstUnit k l) v.e.order
    match s.winCheck v.T ⟨win, off + 128 * l, 128, 1, [1, 2, 3], 128⟩ with
    | (s1, .bad f) => s1.collFail t i 3 f none
    | (s1, .ok (.many ranks cls)) =>
      State.collRdst (s1.copyRanks t o win bs (off + 128 * l) cls rel ranks) t i k v win off (l + 1) rest
    | (s1, .ok (.one aid dest cls _ _)) =>
      State.collRdst ((s1.rrcWrite v.T.ctx win (off + 128 * l) 128).copyRanks t o win bs (off + 128 * l) cls rel [(aid, dest)])
        t i k v win off (l + 1) rest

/-- Every step of a tile is done at this rank: its final value, then its bit (R449, R451, R457). The rounded value of a BF16 SUM tile and its
bit are written together: without its bit the tile holds its original contents (R461). -/
def State.collTileEnd (s : State) (t i k : Nat) (v : CollView) : State :=
  let x := v.r.tile k
  if !resultRank v.r.hdr v.r.ranks.length k v.r.pos then s.collMark t i k v
  else if !x.rdst && !x.bsum && !x.spoiled && v.r.ranks.length != 1 then s.collMark t i k v
  else if x.sent then s.collMark t i k v
  else
    match s.collGet v.T v.r x with
    | (s1, .wait) => s1
    | (s1, .bad c f) => s1.collFail t i c f none
    | (s1, .ok val fl) =>
      let d := x.final val
      let s2 := s1.modEng t i fun e => { (e.startUnit k) with flags := e.flags ||| d.2 ||| fl }
      if x.rdst then
        let s3 := (s2.modRun t i fun r => r.modTile k fun x => { x with sent := true }).collRdst t i k v (x.extra.2.extractLsb' 0 16) (x.extra.2.toNat / 2 ^ 16) 0 (bytesIn 128 d.1.length d.1)
        if (s3.coll? t i).isNone || s3.rdstOpen t i k then s3 else s3.collMark t i k v
      else
        match s2.opalWrite t v.T x.extra.1 d.1 with
        | (_, .wait) => s1
        | (s3, .bad f) => (if x.bsum then s2 else s3).collFail t i 3 f none
        | (s3, .ok) =>
          match s3.collBit t i k v with
          | (s4, .ok) => s4
          | (_, .wait) => s1
          | (s4, .bad f) => (if x.bsum then s2 else s4).collFailQ t i 3 f none true

/-- Opal's message about a step: the addressed rank, the step, the control words of R441, the staging address. -/
def State.collMsg (s : State) (v : CollView) (peer : GRank) (k g : Nat) (a : DWord) : CollMsg :=
  ⟨peer.ctx, v.grp, v.r.seq, k, g, v.r.me, v.r.hdr, (v.r.tile k).ctl, a, s.cfg.aid, peer.xp, 0⟩

/-- One of Opal's own transactions (R110, R450): class COMP, to the staging address, or to another pod. -/
def State.collTx (s : State) (t i unit : Nat) (v : CollView) (peer : GRank) (a : DWord) (op : TxOp) : State :=
  s.newTx { mkTx s t (.engine i unit v.e.order) 0 peer.aid (.stage peer.ctx a.toNat v.grp v.r.seq) op 0 0 0 false false none ⟨0, 0⟩ with
    pod := if peer.xp then some peer.podn else none }

/-- Ask for a step's value: staging is taken and ready-to-receive sent (R450 step 1). -/
def State.collAsk (s : State) (t i k g : Nat) (st : CollStep) (v : CollView) : State :=
  let x := v.r.tile k
  let peer := v.r.at st.src
  if v.r.asked.any fun q => q.1 == k && q.2.1 == g then s
  else
    match v.r.takeSlots (Config.placeChoice 2 s.txCtr) k with
    | none => s
    | some slots =>
      if !s.reachable peer then s.collFail t i 3 { code := Code.collAbort } none
      else
        let slot := if x.part then slots.getD 1 0 else slots.headD 0
        let a := v.r.stageAt slot
        (s.collTx t i (rtrUnit k g) v peer a (.rtr (s.collMsg v peer k g a))).modEng t i fun e =>
          { (e.startUnit k) with run := e.run.map fun r => { (r.modTile k fun x => { x with slots := slots }) with asked := r.asked ++ [(k, g, slot)] } }

/-- Send a step's value (R450 steps 2 and 3), in the form in which it travels. -/
def State.collSend (s : State) (t i k g : Nat) (st : CollStep) (a : DWord) (v : CollView) : State :=
  let x := v.r.tile k
  let peer := v.r.at st.dst
  if (s.engTxs t i fun u => u == sendUnit k g).any fun x => !x.2.ahead then s
  else if !s.reachable peer then s.collFail t i 3 { code := Code.collAbort } none
  else
    match s.collGet v.T v.r x with
    | (s1, .wait) => s1
    | (s1, .bad c f) => s1.collFail t i c f none
    | (s1, .ok val fl) =>
      (s1.collTx t i (sendUnit k g) v peer a (.done (s.collMsg v peer k g a) (x.stored val))).modEng t i fun e =>
        { (e.startUnit k) with flags := e.flags ||| fl }

/-- Advance one tile by what this rank can do alone; nothing starts while the team is being saved (R450, R462). -/
def State.collTileGo (s : State) (t i k : Nat) : State :=
  match s.coll? t i with
  | none => s
  | some v =>
    let x := v.r.tile k
    if !v.T.working || x.done || !(Map.get [] v.T.ready v.slot).contains k || s.rdstOpen t i k then s
    else
      match (v.r.mine k)[x.step]? with
      | none => s.collTileEnd t i k v
      | some (g, st) =>
        if st.dst = v.r.pos then s.collAsk t i k g st v
        else
          match List.find? (fun (q : Nat × Nat × DWord) => q.1 == k && q.2.1 == g) v.r.sends with
          | some q => s.collSend t i k g st q.2.2 v
          | none => s

/-- The stores that came before the block was read, now that the tiles are known (R459). -/
def State.spoilEarly (s : State) (t i : Nat) (wrote : List ScrOrMem) : State :=
  match s.coll? t i with
  | none => s
  | some v => s.modRun t i fun r => wrote.foldl (fun r x => r.spoilTiles x.ready (if x.scr then scrHit x.addr x.bytes else s.maps v.T.ctx x.addr x.bytes)) r

/-- Advance every tile of an instance; a ready bit at or above NT, or an armed entry's failure, aborts it (R443, R444). -/
def State.collGo (s : State) (t i : Nat) : State :=
  match s.coll? t i with
  | none => s
  | some v =>
    if v.r.bad || v.T.readyAbove v.slot v.r.tiles.length then s.collFail t i 3 { code := Code.indexRange } none
    else (span 0 v.r.tiles.length).foldl (fun s k => s.collTileGo t i k) s

/-! ## The events -/

/-- COLL_START (R437, R438, R443): an instance that has read its block goes on. -/
def execCollStart (t i : Nat) (s : State) : Res :=
  match s.team? t with
  | none => .next s
  | some T =>
    match Map.find? T.eng i with
    | none => .next s
    | some e =>
      match e.cmd, e.run with
      | .coll _ k g par, some r =>
        if !T.working || e.st.isFaulted || !e.st.inQueue || s.acqHeld t e then .next s
        else if r.started then .next (s.collGo t i)
        else .next (((s.collBegin t T e i k g r.seq par).spoilEarly t i r.wrote).collGo t i)
      | _, _ => .next s

/-- The open instance of a sequence number in a context of this K9: team, entry and its engine. -/
def State.findColl (s : State) (ctx : CtxId) (g : BitVec 8) (seq : BitVec 16) : Option (Nat × Nat × Eng) :=
  s.teams.findSome? fun T =>
    if T.2.ctx = ctx then
      (List.find? (fun (e : Nat × Eng) =>
        (match e.2.cmd.coll?, e.2.run with | some (_, h), some r => h == g && r.seq == seq | _, _ => false) && e.2.st.inQueue && !e.2.st.isFaulted)
        T.2.eng).map fun e => (T.1, e.1, e.2)
    else none

/-- What a rank answers about a sequence number (R441, R450, R460): it takes part or has completed; abort, as it kept it, or in a context that is
not ACTIVE; or that the asker waits, while it has not reached the number, or is saved. -/
def State.collState (s : State) (ctx : CtxId) (g : BitVec 8) (seq : BitVec 16) : TxReply :=
  if (Map.find? s.ctxs ctx.toNat).isNone then .fault Code.collAbort 4
  else
    match s.endOf ctx g seq with
    | some (some o) => let p := o.others; .aborted p.cause p.code p.rank p.norank
    | some none => .ack
    | none =>
      match s.findColl ctx g seq with
      | none => .wait
      | some (t, _, e) => if e.run.any CollRun.started && !(s.team? t).any (fun T => decide (T.place = .saved)) then .ack else .wait

/-- The team's engines take what comes in for them: it is resident, a gang member's gang is open (R371, R462). -/
def Team.takesIn (T : Team) : Bool := T.core?.isSome && !T.killed && (T.phase == .running || T.phase == .saving)

/-- A ready-to-receive arrives (R441, R450, R460): the answer is `wait` while this rank has not started or is saved; control words that differ
abort the collective; an aborted one, or one whose context is not ACTIVE, is answered by abort. -/
def State.rtrArrive (s : State) (m : CollMsg) : State × TxReply :=
  if (Map.find? s.ctxs m.ctx.toNat).isNone then (s, .fault Code.collAbort 4)
  else
    match s.endOf m.ctx m.grp m.seq with
    | some (some o) => let p := o.others; (s, .aborted p.cause p.code p.rank p.norank)
    | some none => (s, .ack)
    | none =>
      match s.findColl m.ctx m.grp m.seq with
      | none => (s, .wait)
      | some (t, i, _) =>
        match s.coll? t i with
        | none => (s, .wait)
        | some v =>
          if !v.T.takesIn then (s, .wait)
          else if m.hdr ≠ v.r.hdr ∨ m.ctl ≠ (v.r.tile m.tile).ctl then (s.collFail t i 2 { code := Code.collMismatch } none, .ack)
          else
            ((s.modRun t i fun r =>
              { r with sends := if r.sends.any (fun q => q.1 == m.tile && q.2.1 == m.step) then r.sends else r.sends ++ [(m.tile, m.step, m.stage)] }).collTileGo
                t i m.tile, .ack)

/-- A rank's entry in a group, as the instance of a sequence number has it, or else as its descriptor stands (R436). -/
def State.rankEntry (s : State) (ctx : CtxId) (g : BitVec 8) (seq : BitVec 16) (rank : Nat) : State × Option GRank :=
  match ((s.findColl ctx g seq).bind fun e => e.2.2.run).bind fun r => r.ranks[rank]? with
  | some k => (s, some (gRankOf k.toNat))
  | none =>
    match s.readGroup ctx none g.toNat with
    | (s1, .ok _ ranks) => (s1, ranks[rank]?)
    | (s1, _) => (s1, none)

/-- An answer to a rank of another pod leaves for the address that the endpoint table gives it; where no entry matches, this rank's instance
aborts with cause LOCAL (R115, R436, R511). -/
def State.answerFar (s : State) (ctx : CtxId) (g : BitVec 8) (seq : BitVec 16) (rank : Nat) (r : TxReply) : State :=
  match s.rankEntry ctx g seq rank with
  | (s1, none) => s1
  | (s1, some k) =>
    match s1.endpoint k.podn k.aid, s1.findColl ctx g seq with
    | some e, _ => if s1.portsOpen then s1.send (.uetReply e.addr e.ports k.podn k.aid r) else s1
    | none, some (t, i, e) => if e.run.any CollRun.started then s1.collFail t i 3 { code := Code.collAbort } none else s1
    | none, none => s1

/-- Keep a step's value (R451): a BF16 SUM partial in staging, a final value that leaves through a window apart, else at LADDR. -/
def State.collKeep (s : State) (t i k slot : Nat) (v : CollView) (val : List Byte) (last : Bool) : State × OpRes :=
  let x := v.r.tile k
  if x.bsum then
    let p := if x.part then x.slots.headD 0 else slot
    match s.opalWrite t v.T (v.r.stageAt p) val with
    | (s1, .ok) => (s1.modRun t i fun r => r.modTile k fun x => { x with slots := p :: x.slots.filter (· ≠ p), part := true }, .ok)
    | q => q
  else if last && x.rdst && resultRank v.r.hdr v.r.ranks.length k v.r.pos then
    (s.modRun t i fun r => r.modTile k fun x => { x with val := val }, .ok)
  else s.opalWrite t v.T x.extra.1 (x.stored val)

/-- The end of a step at the receiver: the staging slots that the tile needs no more are free. -/
def CollRun.stepDone (r : CollRun) (k g : Nat) : CollRun :=
  let r1 := r.modTile k fun x => { x with step := x.step + 1 }
  let more := !(r1.toCome k).isEmpty
  { (r1.modTile k fun x => { x with slots := if x.part then (if more then x.slots else x.slots.take 1) else [] }) with
    asked := r1.asked.filter (fun q => !(q.1 == k && q.2.1 == g)), coming := r1.coming.filter (· != (k, g)) }

/-- A step at the receiver: staging holds the transfer, the value is combined or replaced (R450 step 4, R451). While a line of it is absent
the transfer waits. -/
def State.collTake (s : State) (t i k g slot : Nat) (mode : CollMode) (last : Bool) (v : CollView) (data : List Byte) : State × TxReply :=
  let x := v.r.tile k
  let a := v.r.stageAt slot
  match (if data.isEmpty then (s, OpRes.ok) else s.opalWrite t v.T a (padTo (128 * ((data.length + 127) / 128)) data)) with
  | (_, .wait) => (s, .wait)
  | (s1, .bad f) => (s1.collFail t i 3 f none, .ack)
  | (s1, .ok) =>
    let T1 := (s1.team? t).getD v.T
    match s1.readTile T1 x a x.transfer with
    | (_, .wait) => (s, .wait)
    | (s2, .bad c f) => (s2.collFail t i c f none, .ack)
    | (s2, .ok val _) =>
      match s2.collGet T1 v.r x with
      | (_, .wait) => (s, .wait)
      | (s3, .bad c f) => (s3.collFail t i c f none, .ack)
      | (s3, .ok own fo) =>
        let w : List Byte × FlagSet := match mode with
          | .left => x.combine val own own
          | .right => x.combine own val own
          | .copy => (x.replace val own, 0)
        match s3.collKeep t i k slot { v with T := T1 } w.1 last with
        | (_, .wait) => (s, .wait)
        | (s4, .bad f) => (s4.collFail t i 3 f none, .ack)
        | (s4, .ok) =>
          let fl : FlagSet := if mode = .copy then 0 else w.2 ||| fo
          let s5 := s4.endTxs ((s4.engTxs t i fun u => u == rtrUnit k g).map Prod.fst)
          ((s5.modEng t i fun e => { e with flags := e.flags ||| fl, run := e.run.map fun r => r.stepDone k g }).collGo t i, .ack)

/-- A transfer's signal done arrives (R450, R451): `wait` while this rank is saved; one that was not asked for changes nothing. -/
def State.transferArrive (s : State) (m : CollMsg) (data : List Byte) : State × TxReply :=
  match s.findColl m.ctx m.grp m.seq with
  | none => (s, .ack)
  | some (t, i, _) =>
    match s.coll? t i with
    | none => (s, .ack)
    | some v =>
      if !v.T.takesIn then (s, .wait)
      else
        match List.find? (fun (q : Nat × Nat × Nat) => q.1 == m.tile && q.2.1 == m.step) v.r.asked, (v.r.mine m.tile)[(v.r.tile m.tile).step]? with
        | some (k, g, slot), some (g', st) =>
          if g = g' ∧ st.dst = v.r.pos then
            let last := !((v.r.mine k).drop ((v.r.tile k).step + 1)).any v.r.recvs
            s.collTake t i k g slot st.mode last v data
          else (s, .ack)
        | _, _ => (s, .ack)

/-- The instance that a cell of a transfer is for, and the step (tile, step) whose staging holds its address: only one team of a context takes
part in it (R440). -/
def State.findStage (s : State) (ctx : CtxId) (a : Nat) (g : BitVec 8) (seq : BitVec 16) : Option (Nat × Nat × CollView × (Nat × Nat)) :=
  (s.findColl ctx g seq).bind fun e => (s.coll? e.1 e.2.1).bind fun v =>
    (v.r.asked.find? fun q => decide ((v.r.stageAt q.2.2).toNat ≤ a ∧ a < (v.r.stageAt q.2.2).toNat + v.r.most)).map fun q => (e.1, e.2.1, v, (q.1, q.2.1))

/-- A step's transfer is arriving (R462). -/
def CollRun.comes (r : CollRun) (q : Nat × Nat) : CollRun := { r with coming := if r.coming.contains q then r.coming else r.coming ++ [q] }

/-- A cell of a transfer arrives for the staging of a rank (R450): it waits while the rank is saved or its line is absent; a fault of staging is
the rank's own (R460). -/
def State.stageArrive (s : State) (ctx : CtxId) (a : Nat) (g : BitVec 8) (seq : BitVec 16) (data : List Byte) : State × TxReply :=
  match s.findStage ctx a g seq with
  | none => (s, .ack)
  | some (t, i, v, q) =>
    if !v.T.takesIn then (s, .wait)
    else
      match s.opalWrite t v.T (BitVec.ofNat 64 a) data with
      | (_, .wait) => (s, .wait)
      | (s1, .bad f) => (s1.collFail t i 3 f none, .ack)
      | (s1, .ok) => (s1.modRun t i fun r => r.comes q, .ack)

/-- An abort arrives (R460): an instance that has not started, or comes later, finds the outcome at its start. -/
def State.abortArrive (s : State) (ctx : CtxId) (g : BitVec 8) (seq : BitVec 16) (o : CollEnd) : State :=
  if (s.endOf ctx g seq).isSome then s
  else
    match s.findColl ctx g seq with
    | some (t, i, e) =>
      (match e.run with
       | some r => if r.started then s.collStop t i o { code := o.code } false else s.keepEnd ctx g seq (some o)
       | none => s)
    | none => s.keepEnd ctx g seq (some o)

/-- The status word of an aborted instance is written once its line has come (R457, R460). -/
def State.collOwed (s : State) (t i : Nat) : State :=
  match s.team? t with
  | none => s
  | some T =>
    match (Map.find? T.eng i).bind fun e => e.run with
    | some r =>
      (match r.owed with
       | some w =>
         (match s.opalPut t T (r.stat + 128) 8 fun _ => leBytes 8 w.toNat with
          | (_, .wait) => s
          | (s1, _) => (s1.modRun t i fun r => { r with owed := none }).resave t)
       | none => s)
    | none => s

/-- COLL_COMPLETE (R458, R456); of an aborted instance, the status word that it owes. -/
def execCollComplete (t i : Nat) (s : State) : Res :=
  match s.coll? t i with
  | none => .next (s.collOwed t i)
  | some v =>
    if !v.T.working || !v.r.tiles.all CollTile.done then .next s
    else
      match s.opalPut t v.T (v.r.stat + 128) 8 fun _ => leBytes 8 (collStatus 1 v.e.flags v.r.seq).toNat with
      | (s1, .wait) => .next s1
      | (s1, .bad f) => .next (s1.collFailQ t i 3 f none true)
      | (s1, .ok) =>
        let s2 := s1.arithEng t i 4 v.e.flags ((v.e.flags &&& v.T.xmask).zeroExtend 32)
        let s3 := match v.e.cmd.args? with | some a => s2.arriveCmd t a | none => s2
        let s4 := (s3.modTeam t fun T => { T with ready := Map.set [] T.ready v.slot [] }).dropEng t i
        .next ((s4.keepEnd v.T.ctx v.grp v.r.seq none).drainWaiting)

/-- The open collectives of a team end with a cause that its rank does not write: the other ranks are told, and the outcome is kept (R460, R462). -/
def State.collEnd (s : State) (t : Nat) (cause : BitVec 3) : State :=
  match s.team? t with
  | none => s
  | some T0 =>
    let s1 := T0.eng.foldl (fun s e => if e.2.st.isFaulted then s else s.collKnown t e.1) s
    match s1.team? t with
    | none => s1
    | some T =>
      T.eng.foldl (fun s e =>
        match e.2.run, e.2.cmd.coll? with
        | some r, some (_, g) =>
          if e.2.st.isFaulted then s
          else
            let o := r.ending cause Code.collAbort
            (s.collTell g r.seq r.ranks (some r.me) o).keepEnd T.ctx g r.seq (some o)
        | _, _ => s) s1

/-- A killed member's instances abort at the other ranks with cause PEER (R462). -/
def State.collKill (s : State) (t : Nat) : State := s.collEnd t 4

/-- An aborted instance leaves its slot (R460, R473): the ready map is cleared and nothing arrives. -/
def State.collFree (s : State) (t i k : Nat) : State :=
  ((s.modTeam t fun T => { T with ready := Map.set [] T.ready k [] }).dropEng t i).drainWaiting

/-- The rank that a transaction of an instance goes to (R460). -/
def CollView.peerOf (v : CollView) (u : Nat) : Nat :=
  let w := u % 2 ^ 39
  match List.find? (fun (y : Nat × CollStep) => y.1 == w / 1024) (v.r.mine (w % 1024)) with
  | some y => v.r.perm.getD (if u < 2 ^ 39 then y.2.src else y.2.dst) 0
  | none => 0

/-- A step's transfer is over for its sender. -/
def State.stepSent (s : State) (t i u : Nat) : State :=
  let k := u % 2 ^ 39 % 1024
  let g := u % 2 ^ 39 / 1024
  (s.modRun t i fun r =>
    { (r.modTile k fun x => { x with step := x.step + 1 }) with sends := r.sends.filter fun q => !(q.1 == k && q.2.1 == g) }).collGo t i

/-- Completion awaits a command's transfers to other pods: it has REL at SYS (R356, R360). -/
def EngCmd.relSys (c : EngCmd) : Bool := c.args?.any fun a => a.rel && a.scope == 3

/-- A collective without REL at SYS goes on when a transfer to another pod has been issued (R360); the answer will be no fault (log entry 10). -/
def State.sentAhead (s : State) (id : Nat) : State :=
  match Map.find? s.txs id with
  | none => s
  | some x =>
    match x.owner, x.op with
    | .engine i u o, .done _ _ =>
      (match s.coll? x.team i with
       | some v =>
         if x.pod.isSome && !x.ahead && x.answer.isNone && v.e.order == o && !v.e.cmd.relSys then
           (s.modTx id fun y => { y with ahead := true }).stepSent x.team i u
         else s
       | none => s)
    | _, _ => s

/-- A transfer's cells have all been performed in staging: its signal done is sent (R450 step 3). -/
def State.sendDone (s : State) (id : Nat) (x : Tx) (m : CollMsg) : State :=
  s.putTx id { x with op := .done m [], split := false, station := none, sentAt := s.clock, answer := none, told := false }

/-- An answer to one of Opal's own transactions: a ready-to-receive is held by the sender, a transfer is done and its step ends, a window write
is performed; a rank that answers abort is cause PEER, or what it found (R441, R450, R458, R460). -/
def State.collAnswered (s : State) (id : Nat) (x : Tx) (i u : Nat) (a : TxReply) : State :=
  match s.coll? x.team i with
  | none => s.endTx id
  | some v =>
    match a with
    | .fault k q =>
      if 2 ^ 40 ≤ u then (s.endTx id).collFail x.team i 3 (x.trap k q) none
      else (s.endTx id).collFail x.team i 4 { code := Code.collAbort } (some (v.peerOf u))
    | .aborted c k rank nr => (s.endTx id).collStop x.team i ⟨c, k, rank, nr⟩ { code := k } false
    | _ =>
      if 2 ^ 40 ≤ u then
        let s1 := s.endTx id
        if x.ahead || s1.rdstOpen x.team i ((u - 2 ^ 40) / 8192) then s1 else s1.collGo x.team i
      else if u < 2 ^ 39 then s.endTx id
      else if x.split then (match x.op with | .done m _ => s.sendDone id x m | _ => s.endTx id)
      else if x.ahead then s.endTx id
      else (s.endTx id).stepSent x.team i u

/-- No answer for 100 µs (R107, R460): a peer's silence is cause PEER, a window write's the fault WINDOW_KEY. -/
def State.collSilent (s : State) (id : Nat) (x : Tx) (i u : Nat) : State :=
  match s.coll? x.team i with
  | none => s.endTx id
  | some v =>
    if u < 2 ^ 40 then (s.endTx id).collFail x.team i 4 { code := Code.collAbort } (some (v.peerOf u))
    else (s.endTx id).collFail x.team i 3 (x.trap Code.windowKey 1) none

end Sys2Proof.Machine
end

