-- ==== Sys2Proof/Machine/Retire.lean ====
section
/-! DEFINITION. Retirement: teams, grids, private blocks (R57, R131, R144, R482-R487), and the freeing of a core's resources. -/

namespace Sys2Proof.Machine

/-! ## Responses of the management port (R507, R508) -/

/-- A gang's record on this K9. -/
def State.gangOfNo (s : State) (no : Word) : Option (Nat × Grid) :=
  List.find? (fun (g : Nat × Grid) => g.2.no == no && g.2.desc.gang) s.grids

/-- Every member of a gang is saved, as this K9 knows. -/
def State.gangSaved (s : State) (no : Word) : Bool := match s.gangOfNo no with | some g => g.2.allSaved | none => true

/-- The frame of a response (Table 24.4). -/
def MgmtAns.frame (a : MgmtAns) : List Byte :=
  leBytes 2 0x4D52 ++ leBytes 2 a.op.toNat ++ leBytes 4 a.payload.length ++ leBytes 4 a.tag.toNat ++ leBytes 2 a.status.toNat ++ leBytes 2 0 ++ a.payload

/-- A response waits for nothing more. -/
def MgmtAns.due (a : MgmtAns) (saved : Word → Bool) : Bool := a.wait.isEmpty && a.gang.all saved && a.reading.isNone

/-- Responses that are due leave, each behind the earlier ones of its connection (R508). -/
def sendDue (saved : Word → Bool) : List MgmtAns → List Nat → List Out × List MgmtAns
  | [], _ => ([], [])
  | a :: r, held =>
    if a.due saved && !held.contains a.conn then let q := sendDue saved r held; (.mgmt a.conn a.frame :: q.1, q.2)
    else let q := sendDue saved r (a.conn :: held); (q.1, a :: q.2)

/-- Send the responses that are due. -/
def State.flushMgmt (s : State) : State :=
  let q := sendDue s.gangSaved s.mgmt.answers []
  { s with out := s.out ++ q.1, mgmt := { s.mgmt with answers := q.2 } }

/-- The MSAVE requests that wait for a team wait for it no longer; a status other than 0 is theirs, and ends their wait (R507). -/
def State.answerSaves (s : State) (t : Nat) (status : BitVec 16) : State :=
  State.flushMgmt { s with mgmt := { s.mgmt with answers := s.mgmt.answers.map (fun a =>
    if !a.wait.contains t then a
    else if status = 0 then { a with wait := a.wait.filter (· ≠ t) }
    else { a with wait := [], gang := none, status := status }) } }

/-! ## Leaving a core (R131) -/

/-- Take every thread of a team out of its core's waves, former and spill memory. -/
def State.clearCore (s : State) (t : Nat) (T : Team) : State :=
  match T.core? with
  | none => s
  | some c =>
    let parts := (Map.get [] s.cores c).map fun p =>
      (p.1, { p.2 with waves := p.2.waves.filter (fun w => w.2.team != t), former := p.2.former.filter (fun g => g.team != t),
                       spilled := p.2.spilled.filter (fun g => g.team != t) })
    ({ s with cores := Map.set [] s.cores c parts } : State).unspillCore c

/-- Resources of this K9 have been freed: claims, fired commands and refused gangs are told (R139, R392, R424, R431, R432), but for the gang `but`
whose own reservation has ended. -/
def State.freedBut (s : State) (c : Option Nat) (but : Option Word) : State :=
  let s0 := s.reconsider c
  let s1 := (match c with | some k => s0.grantAclaims k 16 | none => s0).drainWaiting
  (s1.refused.filter fun r => some r.req.grid != but).foldl (fun s r =>
    let key := ((List.find? (fun (g : Nat × Grid) => g.2.no == r.req.grid) s.grids).map Prod.fst).getD 0
    s.post r.req.coord (.gangFreed r.req.coord r.req.grid r.req.member) (.gangRetry ⟨key, some s.cfg.aid⟩)) s1

/-- The same, for every gang. -/
def State.freed (s : State) (c : Option Nat) : State := s.freedBut c none

/-! ## Teams (R482, R483, R144) -/

/-- The conditions of Table 21.1 for a team, resident or saved; a killed team waits for the transactions that it has sent (R372). -/
def State.teamOver (s : State) (t : Nat) (T : Team) : Bool :=
  !(s.txs.any fun x => x.2.team == t) && (T.killed || (T.phase == .running && T.threads.all (fun e => !e.2.live) && T.steer.st == .done &&
    T.eng.all (fun e => match e.2.st with | .armed _ => true | _ => false)))

/-- Every other member of a gang is DETACHED, DONE or RETIRED, or the gang is broken (R144, R146). -/
def State.gangLets (s : State) (T : Team) (g : GangMem) : Bool :=
  g.broken ||
    match Map.find? s.grids T.grid with
    | some G => (span 0 g.size).all fun m => m == g.rank || Map.get 0 G.members m != 0
    | none => true

/-- THE RETIREMENT OF A TEAM (R483): its holdings and save slot are free, its block is cleared before it is. -/
def State.retireTeam (s : State) (t : Nat) (T : Team) : State :=
  let s1 := (s.clearCore t T).unbindBoxes t
  let s2 := { s1 with
    teams := Map.erase s1.teams t,
    txs := s1.txs.filter (fun x => x.2.team != t),
    resvs := s1.resvs.filter (fun r => r.team != t),
    ctxs := (match T.pblk with
      | some k => Map.modify s1.ctxs T.ctx.toNat fun c => { c with clearing := c.clearing ++ [(k, privBlock T.priv)] }
      | none => s1.ctxs),
    grids := s1.grids.map (fun (g : Nat × Grid) => if g.2.parentTeam = some t then (g.1, { g.2 with parentTeam := none }) else g) }
  let s3 := s2.modGrid T.grid fun G => { G with live := G.live - 1, killedTeam := G.killedTeam || T.killed }
  s3.freed T.core?

/-- TEAM_RETIRE (R482, R483): a gang member first becomes DONE, and its brokers are told (R144). -/
def execTeamRetire (t : Nat) (s : State) : Res :=
  match s.team? t with
  | none => .next s
  | some T =>
    if !s.teamOver t T then .next s
    else if T.killed then .next (s.retireTeam t T)
    else
      match T.gang with
      | none => .next (s.retireTeam t T)
      | some g =>
        let s1 := if g.state = .done then s
          else ((s.setTeam t { T with gang := some { g with state := .done } }).modGrid T.grid fun G =>
            { G with members := Map.put G.members g.rank 2 }).toGang T.grid (.gangDetach T.gridNo g.rank true)
        .next (if s1.gangLets T g then s1.retireTeam t T else s1)

/-! ## Grids (R484-R487) -/

/-! ### What brokers tell each other of a gang's grid beside the reports of R140, as numbers that no member has (log entry 24) -/

/-- The K9 of an AID has no part in the grid any more: its members and their child grids have retired (R484). -/
def overMark (a : Aid) : Nat := 64 + 4096 * a.toNat
/-- The grid has been killed (R473). -/
def killMark : Nat := 65
/-- The child grid `no` of member `m`, launched where the member was before it moved, has retired (R484). -/
def childMark (m : Nat) (no : Word) : Nat := 128 + m % 64 + 4096 * no.toNat

/-- The members on the K9 of an AID have completed step 4 of their save (R497). -/
def drainMark (a : Aid) : Nat := 66 + 4096 * a.toNat
/-- Every member of the gang has: the slots are written (R497). -/
def goMark : Nat := 67
/-- The members on the K9 of an AID are saved (R507). -/
def savedMark (a : Aid) : Nat := 68 + 4096 * a.toNat
/-- Every member of the gang is saved (R507). -/
def allSavedMark : Nat := 69

/-- Tell the coordinator of a gang's record. -/
def State.tellCoord (s : State) (g : Grid) (mark : Nat) : State :=
  s.post g.coord (.gangStaged g.coord g.no mark) (.gangStagedReport g.no mark)

/-- Every team of a grid that this K9 waits for has retired, with every child grid: for a gang, as the brokers tell (R144, R482, R484). -/
def State.gridOver (s : State) (k : Nat) (g : Grid) : Bool :=
  g.live == 0 && !(s.grids.any fun c => c.2.parentGrid == some k) &&
    (if g.coord ≠ s.cfg.aid then !(s.resvs.any fun r => r.grid == g.no && r.coord == g.coord) && (g.gang == .opened || g.killedTeam)
     else if g.desc.gang then ((span 0 g.desc.nteam).all fun m => decide (2 ≤ Map.get 0 g.members m)) && g.owing.isEmpty
     else !g.unplaced)

/-- Those to whom a grid belonged hear of its retirement (R484): the team that launched it, here or moved away; the coordinator of a gang whose part
here is over. -/
def State.gridGone (s : State) (k : Nat) (g : Grid) : State :=
  let s1 := match g.parentTeam with
    | some t => (s.modTeam t fun T => { T with children := T.children.filter (fun c => c != k) }).resave t
    | none => s
  let s2 := match g.parentAway with
    | some (no, m) =>
      (match List.find? (fun (e : Nat × Grid) => e.2.no == no && e.2.desc.gang) s1.grids with
       | some e => s1.tellCoord e.2 (childMark m g.no)
       | none => s1)
    | none => s1
  if g.coord == s.cfg.aid then s2 else s2.tellCoord g (overMark s.cfg.aid)

/-- GRID_RETIRE (R484-R487): the counter, the notice, the number, the parent's WAITCH, the next SERIAL record. -/
def execGridRetire (k : Nat) (s : State) : Res :=
  match Map.find? s.grids k with
  | none => .next s
  | some g =>
    if !s.gridOver k g then .next s
    else
      let own := g.coord == s.cfg.aid
      let s1 := if g.killedTeam || !own || g.desc.ccnt == 0 then s else (s.addCounter g.ctx g.desc.ccnt 1).rereadCtx g.ctx
      let s2 := if g.killedTeam || !own then s1 else s1.notice g.notify 0 1
      let s3 := { s2 with grids := Map.erase s2.grids k }
      let s4 := s3.gridGone k g
      .next (((s4.grids.filter fun e => e.2.serialOn == some k).foldl (fun s e => s.testEligible e.1) s4).flushMgmt)

/-! ## Private blocks (R57) -/

/-- PRIVATE_BLOCK_CLEARED (R57). -/
def execPrivateBlockCleared (ctx : CtxId) (k : Nat) (s : State) : Res :=
  match Map.find? s.ctxs ctx.toNat with
  | none => .next s
  | some c =>
    match List.find? (fun (x : Nat × Nat) => x.1 == k) c.clearing with
    | none => .next s
    | some x =>
      let s1 := s.clearBlock c ctx k x.2
      .next { s1 with ctxs := Map.modify s1.ctxs ctx.toNat fun c => { c with clearing := c.clearing.filter (fun y => decide (y ≠ x)) } }

end Sys2Proof.Machine
end

