-- ==== Sys2Proof/Machine/Place.lean ====
section
/-! DEFINITION. The placement units: ranks, fit, placing, passing over, pre-emption (R93-R96, R119-R136), saving and resuming (R475-R478). -/

namespace Sys2Proof.Machine

/-! ## Fitting a core (R119, R120, R123, R124, R130) -/

/-- What a team needs: for each role its register count and the thread ids of its contexts, contexts held free by partition, reserve,
scratch lines, tiles. -/
structure Demand where
  roles : List (Nat × List Nat × List Nat)
  reserve : Nat
  slines : Nat
  tiles : Nat
  deriving DecidableEq, Repr

/-- The home partition of a thread in a team slot (R124). -/
def homePart (tid slot : Nat) : Nat := (tid / 32 + slot) % 4

/-- Contexts and registers that a demand needs in partition `p`, in slot `k`. -/
def Demand.inPart (d : Demand) (k p : Nat) : Nat × Nat :=
  d.roles.foldl (fun a r =>
    let n := (r.2.1.filter fun t => homePart t k == p).length + (r.2.2.filter (· == p)).length
    (a.1 + n, a.2 + n * r.1)) (0, 0)

/-- Registers of a demand. -/
def Demand.regs (d : Demand) : Nat := (d.roles.map fun r => r.1 * (r.2.1.length + r.2.2.length)).sum

/-- Each role with its first thread id (R39). -/
def withFirst : Nat → List (Nat × Nat × Nat) → List (Nat × Nat × Nat × Nat)
  | _, [] => []
  | f, r :: rest => (f, r) :: withFirst (f + r.1) rest

/-- The demand of a fresh team. -/
def Desc.demand (d : Desc) : Demand :=
  ⟨(withFirst 0 d.roles).map (fun r => (r.2.2.1, span r.1 r.2.1, [])), 32 * d.rres, d.slines, d.acc⟩

/-- The demand of a saved team (R131). A context that it holds free is taken in the partition in which it lay, whatever slot the team takes: the spec
gives the number of them only (log entry 23). -/
def Team.demand (T : Team) : Demand :=
  ⟨(span 0 T.roles.length).map (fun k => ((T.role k).nreg, T.liveOf k, (T.role k).held)), T.reserve, T.slines, T.tiles.length⟩

/-- A place on a core. -/
structure Fit where
  core : Nat
  slot : Nat
  sbase : Nat
  tiles : List Nat
  deriving DecidableEq, Repr

/-- The lowest-addressed run of `n` free lines among used runs (R120): it starts at 0 or where a used run ends. -/
def freeRun (used : List (Nat × Nat)) (n : Nat) : Option Nat :=
  (sortBy id (0 :: used.map fun u => u.1 + u.2)).find? fun b =>
    decide (b + n ≤ Config.scratchLines) && used.all fun u => decide (b + n ≤ u.1 ∨ u.1 + u.2 ≤ b)

/-- The slot of a resident team. -/
def Team.slot? (T : Team) : Option Nat := match T.place with | .resident _ k => some k | .saved => none

/-- How a demand fits a core, if it does. -/
def State.fitCore (s : State) (c : Nat) (d : Demand) : Option Fit :=
  let ts := s.teamsOn c
  match lowestFree (ts.filterMap fun e => e.2.slot?) 0 Config.teamSlots,
    freeRun ((ts.filter fun e => e.2.slines != 0).map fun e => (e.2.sbase, e.2.slines)) d.slines with
  | some k, some b =>
    let free := s.freeTiles c
    if (span 0 4).all (fun p => decide (((d.inPart k p).1 : Int) ≤ s.partCtx c p ∧ ((d.inPart k p).2 : Int) ≤ s.partFree c p)) &&
        decide (0 ≤ s.corePool c - d.regs - d.reserve) && decide (d.tiles ≤ free.length) then
      some ⟨c, k, b, free.take d.tiles⟩
    else none
  | _, _ => none

/-- The core that a die gives a demand (R123): fewest resident teams, then the lowest number. -/
def State.fitDie (s : State) (e : Nat) (d : Demand) : Option Fit :=
  (span (64 * e) 64).foldl (fun best c =>
    match s.fitCore c d, best with
    | some f, none => some f
    | some f, some b => if (s.teamsOn c).length < (s.teamsOn b.core).length then some f else some b
    | none, b => b) none

/-! ## Ranks (R93, R121) -/

/-- A team that waits for a place, with its rank. -/
structure Wait where
  cand : Cand
  prio : Nat
  accepted : Nat
  index : Nat
  demand : Demand
  deriving DecidableEq, Repr

/-- Ranked ahead of another. -/
def Wait.ahead (a b : Wait) : Bool :=
  decide (b.prio < a.prio) || (a.prio == b.prio && (decide (a.accepted < b.accepted) || (a.accepted == b.accepted && decide (a.index < b.index))))

/-- A team saved in WAITCH whose WAITCH is not yet satisfied (R96, R319). -/
def State.inWaitch (s : State) (T : Team) : Bool :=
  T.inWaitch && (match T.steer.st with | .blocked (.waitch one) => s.childLive T one | _ => false)

/-- A saved team may be resumed by a placement unit: it is no gang member and not held; saved in WAITCH, its wait is over (R96, R507). -/
def State.mayResume (s : State) (T : Team) : Bool :=
  decide (T.place = .saved) && !T.killed && T.gang.isNone && !T.mheld && !s.inWaitch T

/-- The teams that wait on a die as their home die, in the order of R93. -/
def State.waiting (s : State) (e : Nat) : List Wait :=
  let fresh := s.grids.filterMap fun g =>
    let i := g.2.next.getD e g.2.desc.nteam
    if g.2.eligible && !g.2.desc.gang && decide (i < g.2.desc.nteam) then
      some (⟨.fresh g.1 i, g.2.prio, g.2.accepted, i, g.2.desc.demand⟩ : Wait) else none
  let saved := s.teams.filterMap fun t =>
    let d0 := match Map.find? s.grids t.2.grid with | some g => g.d0 | none => 0
    if s.mayResume t.2 && (d0 + t.2.index) % 4 == e then some (⟨.saved t.1, t.2.prio, t.2.accepted, t.2.index, (s.readSlot t.2).demand⟩ : Wait) else none
  sortBy (fun (w : Wait) => 15 - w.prio) (sortBy Wait.accepted (sortBy Wait.index (fresh ++ saved)))

/-! ## Private blocks and save slots (R56, R475) -/

/-- The byte ranges of a context's arena that are in use or being cleared. -/
def State.usedBlocks (s : State) (ctx : CtxId) (c : Ctx) : List (Nat × Nat) :=
  (s.teams.filterMap fun e => if e.2.ctx = ctx then e.2.pblk.map fun k => (k * privBlock e.2.priv, privBlock e.2.priv) else none) ++
    c.clearing.map fun x => (x.1 * x.2, x.2)

/-- A free block of a context for PRIV, the free choice where it is one (log entry 2); a team with PRIV 0 needs none. -/
def State.takeBlock (s : State) (ctx : CtxId) (priv : Nat) : Option (Option Nat) :=
  if priv = 0 then some none
  else
    match Map.find? s.ctxs ctx.toNat with
    | none => none
    | some c =>
      let B := privBlock priv
      let used := s.usedBlocks ctx c
      let n := c.pvsize * 2 ^ 30 / B
      -- of used.length + 1 blocks past every used range's end one is free; the search stops there
      let top := used.foldl (fun m u => max m (u.1 + u.2)) 0 / B + 2
      let free := fun k => decide (k < n) && used.all fun u => decide (k * B + B ≤ u.1 ∨ u.1 + u.2 ≤ k * B)
      let c := Config.placeChoice 0 s.teamCtr % n
      if free c then some (some c) else ((span 0 (min n top)).find? free).map some

/-- A free save slot, by free choice (log entry 2). -/
def State.takeSlot (s : State) : Option Nat :=
  takeFree (Config.placeChoice 1 s.teamCtr) (s.teams.filterMap fun e => e.2.sslot) s.cfg.saven

/-! ## A fresh team (Table 2.8, Table 6.2) -/

/-- A thread at its first instruction. -/
def Thread.first (role part entry nreg priv now : Nat) : Thread :=
  { role := role, part := part, st := .former, pos := ⟨entry, 0⟩, nextPos := ⟨entry, 0⟩, g := false,
    v := if nreg = 128 then Map.set 0 [] 127 (BitVec.ofNat 32 (priv * 256)) else [], p := 0, x := [], link := [], depth := 0,
    sticky := 0, reported := 0, late := [], dpos := 0, nxt := [], stamp := now / Config.ticksPerAclk * 1024, fenced := false }

/-- The steering thread at its first instruction. -/
def Steer.first (d : Desc) : Steer :=
  let ws := [BitVec.ofNat 32 d.args.toNat, BitVec.ofNat 32 (d.args.toNat / 2 ^ 32), BitVec.ofNat 32 d.kimg, BitVec.ofNat 32 (d.kimg / 2 ^ 32),
    BitVec.ofNat 32 d.nteam, 0, 0, 0] ++ d.iargs
  { st := .running, pos := ⟨d.sentry, 0⟩, nextPos := ⟨d.sentry, 0⟩, g := false, clause := none,
    s := ((span 0 ws.length).zip ws).foldl (fun m e => Map.set 0 m e.1 e.2) [], c := 0, link := [], armt := none, blatch := none, late := [],
    left := (0, 0), fences := [] }

/-- A team of a grid as it is placed (R46). -/
def Grid.team (g : Grid) (key idx : Nat) (ctx : CtxId) (f : Fit) (gang : Option GangMem) (pblk sslot : Option Nat) (now : Nat) : Team :=
  let d := g.desc
  let rs := withFirst 0 d.roles
  { ctx := ctx, grid := key, gridNo := g.no, index := idx, prio := g.prio, accepted := g.accepted, depth := g.depth, img := g.img,
    place := .resident f.core f.slot, phase := .staging, placedAt := now,
    roles := rs.map (fun r => ⟨r.2.2.1, r.1, r.2.1, r.2.2.2, [], ⟨[], 0, 0, false⟩, [], [], 0⟩),
    threads := ((span 0 rs.length).zip rs).flatMap (fun r => (span r.2.1 r.2.2.1).map fun t =>
      (t, Thread.first r.1 (homePart t f.slot) r.2.2.2.2 r.2.2.2.1 d.priv now)),
    steer := Steer.first d, q := [], scratch := [], sold := [], sseq := 0, slines := d.slines, sbase := f.sbase, absent := [], tiles := f.tiles.map Tile.fresh,
    feeds := ((span 0 d.feeds.length).zip d.feeds).map (fun e => (e.1, ⟨e.2.1, e.2.2, 0, 0, []⟩)),
    bars := ((span 0 d.bars.length).zip d.bars).foldl (fun m e => Map.set ⟨0, 0, false, [], (0, 0)⟩ m e.1 ⟨e.2, 0, false, [], (0, 0)⟩) [],
    joins := [], reserve := 32 * d.rres, xmask := d.xmask, priv := d.priv, lspill := d.lspill, eng := [], ready := [], dead := false,
    arith := false, killed := false, children := [], away := [], gang := gang, pblk := pblk, sslot := sslot, stuckSince := none, waitchSince := none,
    mheld := false, inWaitch := false, lateCtr := 0 }

/-- Enter one staging stream; its lines are absent until they land (R43, R134). -/
def State.stageIn (s : State) (t : Nat) (i : Nat) (r : Nat × Nat × Nat × Nat × Nat) : State :=
  match s.team? t with
  | none => s
  | some T =>
    let cmd : EngCmd := .stage i (r.2.1 == 2) (r.1 + T.index * r.2.2.2.2 * 128) r.2.2.2.1 r.2.2.1
    let T1 := (span r.2.2.2.1 r.2.2.1).foldl (fun T l => T.owe l) T
    (s.addEng t T1 cmd (if s.engRoom T cmd then .queued else .waiting) none).1

/-- Steps 3, 4 of Table 6.2: walk the pages of a team's regions, in its context, and wake their bank sets (R133, R157). -/
def State.wakeRegions (s : State) (t : Nat) : State :=
  match s.team? t with
  | none => s
  | some T =>
    (s.regionSets T).foldl (fun s k => s.modBank k fun b => { b with waking := b.waking || b.state == 1 || b.state == 2 })
      (s.touchAll (some T.ctx) ((s.regionWalks T).flatMap Prod.fst))

/-- Steps 3 to 6 of Table 6.2 for a fresh team: BEFORE regions are copied first, then STREAM regions. -/
def State.bringUp (s : State) (t : Nat) (d : Desc) : State :=
  let rs := (span 0 d.regions.length).zip d.regions
  let s1 := (rs.filter fun r => r.2.2.1 == 2).foldl (fun s r => s.stageIn t r.1 r.2) (s.wakeRegions t)
  let s2 := (rs.filter fun r => r.2.2.1 == 1).foldl (fun s r => s.stageIn t r.1 r.2) s1
  s2.afterStage t

/-- Steps 1 and 2 for a fresh team or gang member: none while no block or save slot is free. -/
def State.reserve (s : State) (key idx : Nat) (g : Grid) (ctx : CtxId) (f : Fit) (gang : Option GangMem) : Option State :=
  match s.takeBlock ctx g.desc.priv, s.takeSlot with
  | some blk, some j =>
    some ({ s with teams := Map.put s.teams s.teamCtr (g.team key idx ctx f gang blk (some j) s.clock), teamCtr := s.teamCtr + 1 }.modGrid key
      fun g => { g with live := g.live + 1 })
  | _, _ => none

/-! ## Saving (R476) -/

/-- Begin to save a team: nothing of it issues from now on, and its stores take their places. -/
def State.startSave (s : State) (t : Nat) : State :=
  (s.performTeam t).modTeam t fun T =>
    if T.core?.isSome && T.phase != .saving && !s.uncommitted t && !T.killed then { T with phase := .saving } else T

/-- A COPY unit whose window access has been answered can land now. -/
def Team.canLand (T : Team) (i u order : Nat) : Bool :=
  match Map.find? T.eng i with
  | some e =>
    (match e.cmd with
     | .copy _ _ dk _ df par => e.order == order && e.wants u (if copyRowOk par then copyUnits par else 1) && T.copyOpen e dk df par u
     | .coll _ _ _ _ => e.st.inQueue && !e.st.isFaulted
     | _ => false)
  | none => false

/-- A command whose last unit is done is about to complete (R345, R384). -/
def Eng.ended (e : Eng) : Bool :=
  e.st.inQueue && !e.st.isFaulted &&
    match e.cmd with
    | .copy _ _ _ _ _ par => copyRowOk par && decide (copyUnits par ≤ e.cpos)
    | c => c.isCube && decide (c.steps ≤ e.cpos)

/-- The team still has something in flight: a window access that is not performed, a unit that is to land, a command that is to complete, a
transfer that is arriving. Opal's ready-to-receives belong to steps that have not started and are not waited for (R370, R462, R476). -/
def State.drainOpen (s : State) (t : Nat) : Bool :=
  match s.team? t with
  | none => false
  | some T =>
    T.eng.any (fun e => e.2.ended || (e.2.st == .running && e.2.run.any fun r => !r.coming.isEmpty)) ||
      s.txs.any fun x => x.2.team == t &&
        match x.2.owner, x.2.op with
        | .engine _ _ _, .rtr _ => false
        | .engine i u o, _ => x.2.answer.isNone || T.canLand i u o
        | .piece _ _, _ => false
        | _, _ => x.2.answer.isNone

/-- Steps 1 to 4 of a team's save are over (R370, R476). -/
def State.saveDrained (s : State) (t : Nat) (T : Team) : Bool := T.phase == .saving && T.core?.isSome && !s.drainOpen t && T.lateHere

/-! ### The saves of a gang's members go together (R478, R497) -/

/-- A member takes part in the rounds (R141, R144): it has neither broken the gang nor retired. -/
def Grid.wants (g : Grid) (m : Nat) : Bool :=
  match Map.get 0 g.members m with
  | 3 => false
  | 2 => (span 0 g.desc.nteam).any fun k => Map.get 0 g.members k == 0
  | _ => true

/-- Every member that is resident here has completed step 4 of its save. -/
def State.drainedHere (s : State) (no : Word) : Bool :=
  s.teams.all fun e => !(e.2.gang.isSome && e.2.gridNo == no && !e.2.killed && e.2.core?.isSome && !s.uncommitted e.1) || s.saveDrained e.1 e.2

/-- The K9s of the members that are saved with the gang. -/
def Grid.savers (g : Grid) : List Aid := ((g.holders.filter fun p => g.wants p.1).map Prod.snd).eraseDups

/-- Tell every K9 of a gang that the slots are written now, once all its members have completed step 4 (R497). -/
def State.saveGo (s : State) (k : Nat) : State :=
  match Map.find? s.grids k with
  | none => s
  | some g =>
    let saving := g.coord == s.cfg.aid && g.begun && !g.saveGo && (match g.gang with | .opened => false | .committed _ _ => false | _ => true)
    if saving && g.savers.all g.drained.contains then
      g.savers.foldl (fun s a => if a = s.cfg.aid then s else s.toBroker a (.gangStaged a g.no goMark)) (s.modGrid k fun g => { g with saveGo := true })
    else s

/-- Tell every K9 of a gang that all its members are saved, once they are (R507): responses that wait for it leave. -/
def State.allSaved (s : State) (k : Nat) : State :=
  match Map.find? s.grids k with
  | none => s
  | some g =>
    if g.coord == s.cfg.aid && g.saveGo && !g.allSaved && g.savers.all g.savedAt.contains then
      (g.savers.foldl (fun s a => if a = s.cfg.aid then s else s.toBroker a (.gangStaged a g.no allSavedMark))
        (s.modGrid k fun g => { g with allSaved := true })).flushMgmt
    else s

/-- No member of a gang is resident here. -/
def State.savedHere (s : State) (no : Word) : Bool :=
  s.teams.all fun e => !(e.2.gang.isSome && e.2.gridNo == no && !e.2.killed && e.2.core?.isSome && !s.uncommitted e.1)

/-- What has been completed here of a gang's save, of its two parts, is told to the coordinator, once. -/
def State.tellSave (s : State) (no : Word) : State :=
  match s.gangOfNo no with
  | none => s
  | some (k, g) =>
    let tell := fun (s : State) (m : Nat) => if g.coord = s.cfg.aid then s else s.tellCoord g m
    let s1 := if g.drained.contains s.cfg.aid || !s.drainedHere no then s
      else tell (s.modGrid k fun g => { g with drained := g.drained ++ [s.cfg.aid] }) (drainMark s.cfg.aid)
    if g.savedAt.contains s.cfg.aid || !g.saveGo || !s.savedHere no then s1
    else tell (s1.modGrid k fun g => { g with savedAt := g.savedAt ++ [s.cfg.aid] }) (savedMark s.cfg.aid)

/-- A gang's save goes on. -/
def State.saveStep (s : State) (no : Word) : State :=
  match (s.tellSave no).gangOfNo no with
  | some (k, _) => (((s.tellSave no).saveGo k).tellSave no).allSaved k
  | none => s

/-- This K9's part in the saving of a gang: every member here, and the coordinator's rounds begin again (R141, R478). The reservation of a member
that is resident but not yet open ends with its save. -/
def State.saveGang (s : State) (no : Word) : State :=
  let s1 := (s.teams.filter fun e => e.2.gang.isSome && e.2.gridNo == no).foldl (fun s e => s.startSave e.1) s
  State.saveStep { s1 with
    resvs := s1.resvs.filter fun r => !(r.grid == no && r.committed),
    grids := s1.grids.map (fun (g : Nat × Grid) =>
      if g.2.no = no ∧ g.2.coord = s1.cfg.aid then
        match g.2.gang with
        | .opened => (g.1, { g.2 with gang := .idle, ranks := [] })
        | .committed _ _ => (g.1, { g.2 with gang := .idle, ranks := [], begun := true, holders := g.2.peers })
        | _ => g
      else g) } no

/-- Begin to save a team, or its whole gang (R95, R478). -/
def State.startSaves (s : State) (t : Nat) : State :=
  match s.team? t with
  | none => s
  | some T =>
    if T.gang.isNone then s.startSave t
    else (s.saveGang T.gridNo).toGang T.grid (.gangSave T.gridNo)

/-- What is left of the team's window accesses when it is saved goes, but Opal's ready-to-receives: its units are performed again (R468). -/
def State.dropUnits (s : State) (t : Nat) : State :=
  s.endTxs ((s.txs.filter fun x => x.2.team == t && (match x.2.op with | .rtr _ => false | _ => true)).map Prod.fst)

/-- A team as it is saved: READY threads rest at their positions, deadlines become remainders, the tiles' places are given back (R229, R476). -/
def Team.atRest (T : Team) (now : Nat) : Team :=
  { T with place := .saved, phase := .running, stuckSince := none,
           threads := T.threads.map (fun e =>
             let th := e.2.landAll
             (e.1, if th.atLarge then { th with st := .former, nextPos := th.pos } else th)),
           steer := { T.steer.landAll with clause := none, st := if T.steer.st = .blocked .late then .running else T.steer.st },
           joins := T.joins.map (fun e => (e.1, { e.2 with deadline := e.2.deadline.map (· - now / Config.ticksPerAclk * Config.ticksPerAclk) })) }

/-- Step 5 of a team's save may begin: for a gang member, every member has completed step 4 (R497). -/
def State.mayWrite (s : State) (T : Team) : Bool :=
  T.gang.isNone || match Map.find? s.grids T.grid with | some g => g.saveGo | none => true

/-- Steps 5 and 6 of a team's save (R370, R476): the slot is written, the resources return; an MSAVE that waited for it is answered (R507). -/
def State.saveNow (s : State) (t : Nat) (T : Team) : State :=
  let T1 := T.atRest s.clock
  let s1 := (((s.dropUnits t).clearCore t T).setTeam t T1).writeSlot T1
  let s2 := (s1.answerSaves t 0).freed T.core?
  if T.gang.isSome then s2.saveStep T.gridNo else s2

/-- SAVE_COMPLETE (R370, R476, R497). -/
def execSaveComplete (t : Nat) (s : State) : Res :=
  match s.team? t with
  | none => .next s
  | some T =>
    if !s.saveDrained t T then .next s
    else
      let s1 := if T.gang.isSome then s.saveStep T.gridNo else s
      .next (if s1.mayWrite T then s1.saveNow t T else s1)

/-! ## Resuming (R136, R477) -/

/-- Release the threads parked on objects whose condition holds. -/
def State.recheckParks (s : State) (t : Nat) : State :=
  match s.team? t with
  | none => s
  | some T =>
    let s1 := (span 0 T.slines).foldl (fun s l => if T.lineAbsent l then s else s.releaseLine t l) s
    let s2 := (span 0 T.roles.length).foldl (fun s k => (span 0 8).foldl (fun s n => s.testRed t k n) (s.serveQueue t k)) s1
    let s3 := (span 0 32).foldl (fun s k => (T.passed k).foldl (fun s tid => s.release t tid id) s) s2
    let s5 := T.feeds.foldl (fun s f => s.serveRecvs t f.1 1024) s3
    let s6 := s5.credits.foldl (fun s c => s.serveSend c.target c.ctx c.box) s5
    s6.reconsiderFor t

/-- The threads' age stamps at a resumption: they count as created now, in the order that they had (R210). -/
def Team.restamp (T : Team) (now : Nat) : Map Thread :=
  let old := ((sortBy id (T.threads.map fun e => e.2.stamp))).eraseDups
  T.threads.map fun e => (e.1, { e.2 with stamp := now / Config.ticksPerAclk * 1024 + old.findIdx (· == e.2.stamp) })

/-- The saved team at its new place (R124, R131, R136). -/
def Team.resumeAt (T : Team) (f : Fit) (now : Nat) : Team :=
  { T with place := .resident f.core f.slot, sbase := f.sbase, placedAt := now, inWaitch := false,
           phase := if T.beforeDone then .running else .staging,
           tiles := (T.tiles.zip f.tiles).map (fun e => { e.1 with phys := e.2 }),
           threads := (T.restamp now).map (fun e => (e.1, { e.2 with part := homePart e.1 f.slot })),
           joins := T.joins.map (fun e => (e.1, { e.2 with deadline := e.2.deadline.map (· + now / Config.ticksPerAclk * Config.ticksPerAclk) })) }

/-! ### Parties that park again on their objects (R477)

A party that State holds parked is parked still; one of which only its slot says so performs its waiting instruction again, but for what that had
done before it waited: the arrival of BARW.arv and SBARW.arv (R417, R418). -/

/-- The threads that their slot has PARKED and State does not. -/
def State.slotParked (s : State) (T : Team) : List Nat :=
  match T.sslot with
  | some j =>
    if s.slotReadable j then
      let m := s.slotMap j
      (T.threads.filter fun e => e.2.atLarge && Memory.get m (0x20000 + 256 * e.1) &&& 3 == 2).map Prod.fst
    else []
  | none => []

/-- The waiting part of a lane instruction that parks its thread. -/
def execParked (t tid : Nat) (i : Instr) (s : State) : Option Res :=
  match i with
  | .join a p j => some (execJoin a p j s)
  | .dqpop d p => some (execDqpop d p s)
  | .barw k arv p => some (if arv then .next (s.laneToken t tid k.toNat (((s.team? t).map fun T => (T.bar k.toNat).ph).getD false)) else execBarw k arv p s)
  | .rclaim p b => some (execRclaim p b s)
  | .rrel p b pool => some (execRrel p b pool s)
  | .redq n op a h => some (execRedq n op a h s)
  | .rwrecv d f la => some (execRwrecv d f la s)
  | .rwsend m => some (execRwsend m s)
  | .rayq d a la b p any => some (execRayq d a la b p any s)
  | .ld m => some (execLd m s)
  | .st m => some (execSt m s)
  | .lds m => some (execLds m s)
  | .sts m => some (execSts m s)
  | .atom m => some (execAtom m s)
  | .atomf m => some (execAtomf m s)
  | .atomx m => some (execAtomx m s)
  | _ => none

/-- A query, which counts for the shadows when it is done (R186). -/
def isQuery (i : Instr) : Bool := match i with | .rayq _ _ _ _ _ _ => true | _ => false

/-- A thread parks again, or goes on at once: it had counted for the shadows as it parked, but for a query (R187). -/
def State.parkAgain (s : State) (t tid : Nat) : State :=
  s.onThread t tid fun T th =>
    let back := s.unpark t T tid { th with nextPos := th.pos }
    match s.fetchClause T .lane th.pos.h with
    | (s1, .inl cl) =>
      (match cl.slots[th.pos.k]? with
       | none => back
       | some x =>
         let i := x.instr .lane
         match execParked t tid i { s1.setThread t T tid { th with st := .wave, nextPos := cl.after th.pos.k } with cur := some (.lane t tid) } with
         | some (.next s2) =>
           State.onThread { s2 with cur := none } t tid fun T1 th1 =>
             if th1.st ≠ .wave then { s2 with cur := none }
             else
               let down := if isQuery i && !s2.accessHolds t tid then th1.countDown ((th.late.map Late.id).contains ·) else th1
               State.unpark { s2 with cur := none } t T1 tid down
         | _ => back)
    | (_, .inr _) => back

/-- The steering thread of a team whose slot has it BLOCKED in SBARW.arv waits for the phase that stands. -/
def State.steerAgain (s : State) (t : Nat) : State :=
  match s.team? t with
  | none => s
  | some T =>
    match T.sslot with
    | none => s
    | some j =>
      if s.slotReadable j && field (s.val (s.slotBase j + 0x200) 4) 13 2 == 1 && T.steer.st == .running then
        match s.fetchClause T .steer T.steer.pos.h with
        | (s1, .inl cl) =>
          (match (cl.slots[T.steer.pos.k]?).map (Slot.instr .steer) with
           | some (.sbarw k true _) => s1.steerToken t k.toNat (T.bar k.toNat).ph (cl.after T.steer.pos.k)
           | _ => s)
        | _ => s
      else s

/-- The lines of a slot are read. -/
def State.touchSlot (s : State) (T : Team) : State := match T.sslot with | some j => s.touch none (s.slotBase j) | none => s

/-- A team that has been placed goes on (R136, R371): its threads run once its BEFORE lines are present. -/
def State.goOn (s : State) (t : Nat) : State :=
  match s.team? t with
  | none => s
  | some T =>
    let s1 := (s.touchSlot T).setTeam t (s.acquireAll T)
    let again := s.slotParked T
    (if T.phase = .running then again.foldl (fun s i => s.parkAgain t i) ((s1.enterAll t again).steerAgain t) else s1).recheckParks t

/-- A saved team is placed and goes on, as its slot has it (R136, R477). -/
def State.resume (s : State) (t : Nat) (T : Team) (f : Fit) : State :=
  ((((s.touchSlot T).setTeam t ((s.readSlot T).resumeAt f s.clock)).wakeRegions t).goOn t).grantAclaims f.core 16

/-! ## The placement unit's turn (R94, R122, R132) -/

/-- A die's record. -/
def State.die (s : State) (e : Nat) : Die := Map.get ⟨[], []⟩ s.dies e
/-- Write a die's record. -/
def State.setDie (s : State) (e : Nat) (d : Die) : State := { s with dies := Map.set ⟨[], []⟩ s.dies e d }

/-- Another die takes a team if it fits there and no team ranked ahead of it waits there (R122). -/
def State.offer (s : State) (w : Wait) (e : Nat) : Option Fit :=
  if (s.waiting e).any fun x => x.ahead w then none else s.fitDie e w.demand

/-- The place of a waiting team: on its home die, or, for the first of its rank, on the first other die that takes it. -/
def State.choose (s : State) (e : Nat) (w : Wait) (head : Bool) : Option Fit :=
  match s.fitDie e w.demand with
  | some f => some f
  | none => if head then [1, 2, 3].findSome? fun i => s.offer w ((e + i) % 4) else none

/-- Place a waiting team; none while its block or slot is not free. -/
def State.placeAt (s : State) (e : Nat) (w : Wait) (f : Fit) : Option State :=
  let settle := fun (s : State) =>
    let d := s.die e
    s.setDie e ⟨d.waits.filter fun x => decide (x.1 ≠ w.cand), d.blocked.filter fun x => decide (x ≠ w.cand)⟩
  match w.cand with
  | .fresh k i =>
    (match Map.find? s.grids k with
     | none => none
     | some g =>
       (s.reserve k i g g.ctx f none).map fun s1 =>
         settle ((s1.modGrid k fun g => { g with next := g.next.modify e (· + 4) }).bringUp s.teamCtr g.desc))
  | .saved t => (s.team? t).map fun T => settle (s.resume t T f)

/-- The placement unit goes down its rank: the first team that can be placed is; the head that fits nowhere is noted; a blocked unit stops
behind a team that it has passed over (R94). -/
def State.placeFrom (s : State) (e : Nat) : Bool → List Wait → State
  | _, [] => s
  | head, w :: rest =>
    let d := s.die e
    match s.choose e w head with
    | some f =>
      (match s.placeAt e w f with
       | some s1 => s1
       | none => if d.blocked.contains w.cand then s else State.placeFrom s e false rest)
    | none =>
      let s1 := if head && !(d.waits.any fun x => x.1 == w.cand) then s.setDie e { d with waits := d.waits ++ [(w.cand, s.clock)] } else s
      if d.blocked.contains w.cand then s1 else State.placeFrom s1 e false rest

/-- TEAM_PLACE (R93, R94, R121-R123, R132). -/
def execTeamPlace (die : BitVec 2) (s : State) : Res := .next (s.placeFrom die.toNat true (s.waiting die.toNat))

/-- TEAM_RESUME (R136, R477): the placement unit of the team's home die takes it, if it is the next that the unit can place. -/
def execTeamResume (t : Nat) (s : State) : Res :=
  match s.team? t with
  | none => .next s
  | some T =>
    let e := ((match Map.find? s.grids T.grid with | some g => g.d0 | none => 0) + T.index) % 4
    let s1 := s.placeFrom e true (s.waiting e)
    .next (if s.mayResume T && ((s1.team? t).map fun T => T.core?.isSome) == some true then s1 else s)

/-- PASSOVER_TIMEOUT (R94): a team that waits since it fitted nowhere 100 µs ago stops every team ranked below it. -/
def execPassoverTimeout (die : BitVec 2) (s : State) : Res :=
  let d := s.die die.toNat
  let late := ((s.waiting die.toNat).map Wait.cand).filter fun c =>
    !d.blocked.contains c && d.waits.any fun x => x.1 == c && decide (x.2 + usTicks 100 ≤ s.clock)
  .next (s.setDie die.toNat { d with blocked := d.blocked ++ late })

end Sys2Proof.Machine
end

