-- ==== Sys2Proof/Machine/Kill.lean ====
section
/-! DEFINITION. The fault commands (R473): restarts, discards and kills, with what a kill does to a team and to its gang (R146, R372, R474). -/

namespace Sys2Proof.Machine

/-- A fault command completes with a status (Table 20.4): 0 OK, 1 BAD_STATE, 3 BAD_OP. -/
def State.fltDone (s : State) (last : BitVec 8) : State := { s with ctl := { s.ctl with fltstat := ⟨s.ctl.fltstat.seq + 1, last⟩ } }

/-- The team that a fault command names, in a grid. -/
def State.fltTeam (s : State) (x : FltTarget) (grid : Word) : Option (Nat × Team) :=
  List.find? (fun (e : Nat × Team) => e.2.ctx == x.ctx && e.2.gridNo == grid && e.2.index == x.team.toNat && !e.2.killed) s.teams

/-- A command on the team that it names, as its save area has it if it is saved (R473); one that finds none completes with BAD_STATE. -/
def State.fltOn (s : State) (x : FltTarget) (grid : Word) (f : State → Nat → Team → Option State) : State :=
  match s.fltTeam x grid with
  | none => s.fltDone 1
  | some (t, _) =>
    let s1 := s.fromSlot t
    match (s1.team? t).bind fun T => f s1 t T with
    | some s2 => s2
    | none => s.fltDone 1

/-! ## Accesses of a killed or discarded party (R372) -/

/-- A transaction has not left this K9. -/
def State.unsent (s : State) (e : Nat × Tx) : Bool :=
  !e.2.split && e.2.pod.isNone && (e.2.target == s.cfg.aid || s.cells.any fun c => c.item == .tx e.1)

/-- Whose a transaction is: a piece is its whole's. -/
def State.ofWhole (s : State) (mine : Tx → Bool) (x : Tx) : Bool :=
  match x.owner with
  | .piece p _ => (match Map.find? s.txs p with | some y => mine y | none => false)
  | _ => mine x

/-- Accesses that have been answered, or have not left, go: they are not performed any more. A record that goes gives its slot back (R411). -/
def State.dropUnsent (s : State) (mine : Tx → Bool) : State :=
  let gone := (s.txs.filter fun e => s.ofWhole mine e.2 && (e.2.answer.isSome || s.unsent e))
  let ids := gone.map Prod.fst
  let left := s.txs.filter fun e => !ids.contains e.1
  let left := left.filter fun e => !(mine e.2 && e.2.split) || left.any fun y => match y.2.owner with | .piece p _ => p == e.1 | _ => false
  gone.foldl (fun s e => match e.2.op, e.2.dest with | .record _, .box c _ b _ => s.uncredit e.2.target c b | _, _ => s)
    { s with txs := left, cells := s.cells.filter fun c => match c.item with | .tx id => !ids.contains id | _ => true }

/-- The transactions of a lane thread. -/
def Tx.ofLane (t tid : Nat) (x : Tx) : Bool := x.team == t && x.owner.lane? == some tid
/-- The transactions of an engine entry. -/
def Tx.ofEng (t i : Nat) (x : Tx) : Bool := x.team == t && (match x.owner with | .engine j _ _ => j == i | _ => false)

/-- Accesses that have been sent for a killed party and are not answered (R372). -/
def State.killOpen (s : State) (ts : List Nat) (tid : Option Nat) : Bool :=
  s.txs.any fun e => match tid with
    | some i => ts.any fun t => e.2.ofLane t i
    | none => ts.contains e.2.team

/-- A kill completes, with its records, once nothing of its parties is under way (R372, R473). -/
def State.endKill (s : State) (ts : List Nat) (tid : Option Nat) (recs : List FaultRec) : State :=
  if s.killOpen ts tid then { s with ctl := { s.ctl with jobs := .kill ts tid recs :: s.ctl.jobs } }
  else (recs.foldl (fun s r => s.report r) s).fltDone 0

/-! ## RESTART (R466, R468, R473) -/

/-- Restart a faulted engine entry at its committed position: the units that have not landed are performed again (R468); an aborted COLL ends
instead (R460), and an armed tile entry makes its checks again (R444). -/
def State.restartEng (s : State) (t i : Nat) (e : Eng) : State :=
  match e.cmd with
  | .coll _ k _ _ => s.collFree t i k
  | .tile _ _ _ => s.fire t i
  | _ =>
    (s.endTxs ((s.txs.filter fun x => x.2.ofEng t i && !x.2.ahead).map Prod.fst)).modEng t i fun e =>
      { e with st := .queued, spos := e.landed.foldl (fun m u => max m (u + 1)) e.cpos }

/-- The restart that a target names: none when it is not stopped. -/
def State.restartAt (s : State) (t : Nat) (T : Team) (x : FltTarget) : Option State :=
  match x.src.toNat with
  | 0 =>
    (match T.thread? x.id.toNat with
     | some th => (match th.st with | .stopped r => some (s.restartLane t T x.id.toNat th r) | _ => none)
     | none => none)
  | 1 => (match T.steer.st with | .stopped r => some (s.restartSteer t T r) | _ => none)
  | _ =>
    match Map.find? T.eng x.id.toNat with
    | some e => if e.st.isFaulted && e.cmd.src == x.src then some (s.restartEng t x.id.toNat e) else none
    | none => none

/-- RESTART. -/
def State.restartRun (s : State) (x : FltTarget) (grid : Word) : State :=
  s.fltOn x grid fun s t T => (s.restartAt t T x).map fun s1 => (s1.resave t).fltDone 0

/-! ## DISCARD (R473, R347) -/

/-- A faulted command ends at its committed position with no further effect. -/
def State.discardEng (s : State) (t i : Nat) (e : Eng) : State :=
  match e.cmd with
  | .coll _ k _ _ => s.collFree t i k
  | _ => ((((s.payRest t e).dropUnsent (Tx.ofEng t i)).dropEng t i).drainWaiting).afterStage t

/-- DISCARD. -/
def State.discardRun (s : State) (x : FltTarget) (grid : Word) : State :=
  s.fltOn x grid fun s t T =>
    (Map.find? T.eng x.id.toNat).bind fun e =>
      if e.st.isFaulted && e.cmd.src == x.src then some (((s.discardEng t x.id.toNat e).resave t).fltDone 0) else none

/-! ## Kills (R372, R474) -/

/-- The record of a kill (R473): INFO holds the grid number. -/
def killRec (src cause : BitVec 4) (id : BitVec 10) (p : Pos) (grid : Word) (ctx : CtxId) (team : BitVec 24) : FaultRec :=
  ⟨Code.kill, src, cause, id, p.h, p.k, 0, grid, 0, 0, ctx, team⟩

/-- The accesses of a killed lane thread that have not left are not performed (R372). -/
def State.dropLane (s : State) (t tid : Nat) : State :=
  ({ s with pending := s.pending.filter fun p => !(p.team == t && p.tid == tid) } : State).dropUnsent (Tx.ofLane t tid)

/-- KILLTHREAD: the end of EXIT without its ARITH report. -/
def State.killthreadRun (s : State) (x : FltTarget) (grid : Word) : State :=
  let tid := x.id.toNat
  s.fltOn x grid fun s t T =>
    (T.thread? tid).bind fun th =>
      if x.src ≠ 0 ∨ !th.live then none
      else some ((((s.dropLane t tid).endThread t tid).resave t).endKill [t] (some tid) [killRec 0 1 x.id th.pos T.gridNo T.ctx x.team])

/-- This K9 records that a member has broken its gang (R146), also in the slots of its saved members; a grid with a killed team tells nobody of its
end (R487); the saves of the others go on (R478). -/
def State.recordBreak (s : State) (no : Word) (m : Nat) : State :=
  let s1 : State := { s with
    teams := s.teams.map (fun (e : Nat × Team) =>
      if e.2.gridNo = no then (e.1, { e.2 with gang := e.2.gang.map fun (g : GangMem) => { g with broken := true } }) else e),
    grids := s.grids.map (fun (e : Nat × Grid) =>
      if e.2.no = no ∧ e.2.desc.gang then (e.1, { e.2 with members := Map.put e.2.members m 3, killedTeam := true }) else e),
    refused := s.refused.filter (fun (r : Refused) => !(r.req.grid == no && r.req.member == m)) }
  ((s1.teams.filter fun e => e.2.gridNo == no && e.2.gang.isSome).foldl (fun s e => s.resave e.1) s1).saveStep no

/-- A gang breaks at a member: every broker is told (R146). -/
def State.breakGang (s : State) (no : Word) (m : Nat) : State :=
  match s.gangOfNo no with
  | some (k, _) => (s.recordBreak no m).toGang k (.gangBroken no m)
  | none => s.recordBreak no m

/-- THE KILL OF A TEAM (R474): its parties end with no report, its commands are discarded, its boxes are unbound, its collectives abort
elsewhere, its gang breaks; what it has sent is waited for (R372), and TEAM_RETIRE then retires it. -/
def State.killTeam (s : State) (t : Nat) : State :=
  match s.team? t with
  | none => s
  | some T =>
    if T.killed then s
    else
      let s1 := ((((s.collKill t).clearCore t T).unbindBoxes t).answerSaves t 4).modTeam t fun T =>
        { T with
          killed := true, phase := .running, eng := [], ready := [], joins := [],
          threads := T.threads.map (fun (e : Nat × Thread) => (e.1, { e.2 with st := .exited, late := [] })),
          roles := T.roles.map (fun (r : Role) => { r with claim := [], red := [] }),
          steer := { T.steer with st := .done, armt := none, blatch := none, late := [] } }
      let s2 := ({ s1 with pending := s1.pending.filter (fun p => p.team != t),
                           resvs := s1.resvs.filter (fun (r : Resv) => r.team != t) } : State).dropUnsent fun x => x.team == t
      -- its pending ACLAIM is gone: another may be the oldest now (R391, R432)
      let s3 := match T.core? with | some c => s2.grantAclaims c 16 | none => s2
      match T.gang with
      | none => s3
      | some g => s3.breakGang T.gridNo g.rank

/-- KILLTEAM. -/
def State.killteamRun (s : State) (x : FltTarget) (grid : Word) : State :=
  match s.fltTeam x grid with
  | none => s.fltDone 1
  | some (t, T) => (s.killTeam t).endKill [t] none [killRec 5 2 0 ⟨0, 0⟩ T.gridNo T.ctx x.team]

/-- The descendants of a grid, itself first; `fuel` bounds the depth (R82). -/
def State.descendants (s : State) (k : Nat) : Nat → List Nat
  | 0 => [k]
  | fuel + 1 => k :: (s.grids.filter fun c => c.2.parentGrid == some k).flatMap fun c => State.descendants s c.1 fuel

/-- The other K9s of a gang hear that its grid is killed: from its coordinator, or by way of it (R473, log entry 24). -/
def State.tellKill (s : State) (k : Nat) : State :=
  match Map.find? s.grids k with
  | some g =>
    if !g.desc.gang then s
    else if g.coord = s.cfg.aid then g.owing.foldl (fun s a => s.toBroker a (.gangStaged a g.no killMark)) s
    else s.tellCoord g killMark
  | none => s

/-- Kill one grid: its teams, and those that were to be placed; the members of a gang end on every K9 (R146, R473). -/
def State.killGrid (s : State) (k : Nat) : State :=
  match Map.find? s.grids k with
  | none => s
  | some g =>
    let s1 := (s.teams.filter fun e => e.2.grid == k).foldl (fun s e => s.killTeam e.1) s
    let s2 := s1.modGrid k fun g => { g with killedTeam := true, eligible := true, next := g.next.map fun _ => g.desc.nteam }
    if g.desc.gang then
      let s3 := (span 0 g.desc.nteam).foldl (fun s m =>
        if (Map.find? s.grids k).any (fun g => Map.get 0 g.members m == 3) then s else s.breakGang g.no m) s2
      if g.coord = s.cfg.aid then
        g.peers.foldl (fun s p => s.post p.2 (.gangRelease p.2 g.no p.1) (.gangRelease g.no p.1)) s3
      else s3
    else s2

/-- KILLGRID: one record for the named grid and one for each descendant. -/
def State.killgridRun (s : State) (x : FltTarget) (grid : Word) : State :=
  match List.find? (fun (g : Nat × Grid) => g.2.ctx == x.ctx && g.2.no == grid) s.grids with
  | none => s.fltDone 1
  | some (k, _) =>
    let ks := s.descendants k 11
    let gs := ks.filterMap fun c => Map.find? s.grids c
    (ks.foldl (fun s c => (s.tellKill c).killGrid c) s).endKill ((s.teams.filter fun e => ks.contains e.2.grid).map Prod.fst) none
      (gs.map fun g => killRec 5 3 0 ⟨0, 0⟩ g.no g.ctx 0)

/-- A gang's grid has been killed elsewhere: what belongs to it here goes, with one record for each child grid and its descendants (R473). A
coordinator passes it on. -/
def State.killedAway (s : State) (k : Nat) : State :=
  match Map.find? s.grids k with
  | none => s
  | some g0 =>
    let below := (s.descendants k 11).drop 1
    let recs := (below.filterMap fun c => Map.find? s.grids c).map fun g => killRec 5 3 0 ⟨0, 0⟩ g.no g.ctx 0
    let s1 := below.foldl (fun s c => (s.tellKill c).killGrid c) ((if g0.coord = s.cfg.aid then s.tellKill k else s).killGrid k)
    recs.foldl (fun s r => s.report r) s1

/-! ## The commands in the order written (R473) -/

/-- Execute a fault command on the grid that it addresses (Table 20.4). -/
def State.runFlt (s : State) (op : Nat) (x : FltTarget) (grid : Word) : State :=
  match op with
  | 1 => s.restartRun x grid
  | 2 => s.discardRun x grid
  | 3 => s.killthreadRun x grid
  | 4 => s.killteamRun x grid
  | 5 => s.killgridRun x grid
  | _ => s.fltDone 3

/-- A fault command is written: it is executed behind the earlier ones. -/
def State.fltCmd (s : State) (op : Nat) (x : FltTarget) : State :=
  if s.ctl.jobs.isEmpty then s.runFlt op x s.ctl.fltgrid
  else { s with ctl := { s.ctl with jobs := s.ctl.jobs ++ [.queued op x s.ctl.fltgrid] } }

/-- The fault commands go on: a kill whose accesses have been answered completes, and the next command is executed; `fuel` bounds them. -/
def State.fltGo (s : State) : Nat → State
  | 0 => s
  | fuel + 1 =>
    match s.ctl.jobs with
    | [] => s
    | j :: rest =>
      let s0 := { s with ctl := { s.ctl with jobs := [] } }
      let s1 := match j with
        | .kill ts tid recs => s0.endKill ts tid recs
        | .queued op x grid => s0.runFlt op x grid
      let s2 := { s1 with ctl := { s1.ctl with jobs := s1.ctl.jobs ++ rest } }
      if s1.ctl.jobs.isEmpty then s2.fltGo fuel else s2

/-- RESTART (R473). -/
def execRestart (x : FltTarget) (s : State) : Res := .next (s.fltCmd 1 x)
/-- DISCARD (R473). -/
def execDiscard (x : FltTarget) (s : State) : Res := .next (s.fltCmd 2 x)
/-- KILLTHREAD (R473). -/
def execKillthread (x : FltTarget) (s : State) : Res := .next (s.fltCmd 3 x)
/-- KILLTEAM (R473). -/
def execKillteam (x : FltTarget) (s : State) : Res := .next (s.fltCmd 4 x)
/-- KILLGRID (R473): a gang's members on every K9. -/
def execKillgrid (x : FltTarget) (s : State) : Res := .next (s.fltCmd 5 x)

end Sys2Proof.Machine
end

