-- ==== Sys2Proof/Machine/Gang.lean ====
section
/-! DEFINITION. The gang brokers (R137-R141, R144-R147, R478): rounds, reservations, commit and open, breaks. A message of this K9 to itself
arrives as its event (`State.post`). -/

namespace Sys2Proof

/-- The record of a gang that another K9 coordinates, as this K9 keeps it. -/
def GangReq.record (r : GangReq) (d : Machine.Desc) (i : Machine.Image) (now : Nat) : Machine.Grid :=
  { ctx := r.ctx, no := r.grid, desc := d, raw := r.desc, img := i, parentTeam := none, parentGrid := none, depth := r.depth, pcap := r.pcap,
    prio := r.prio, accepted := 0, d0 := 0, queue := none, serialOn := none, tfire := none, met := [], eligible := true, notify := none,
    next := [d.nteam, d.nteam, d.nteam, d.nteam], live := 0, killedTeam := false, gang := .idle, reread := now,
    born := BitVec.ofNat 64 r.accepted, coord := r.coord, members := [], begun := false, peers := [], ranks := r.ranks,
    holders := [], failing := none, owing := [], parentAway := none, drained := [], saveGo := false, savedAt := [], allSaved := false }

end Sys2Proof

namespace Sys2Proof.Machine

/-! ## The coordinator (R137, R139, R140) -/

/-- The gang that this K9 coordinates under a number. -/
def State.ownGang (s : State) (no : Word) : Option (Nat × Grid) :=
  List.find? (fun (g : Nat × Grid) => g.2.no == no && g.2.desc.gang && g.2.coord == s.cfg.aid) s.grids

/-- The request for a member, at the K9 and in the context of its rank (R49). -/
def Grid.request (g : Grid) (m : Nat) (k : GRank) (coord : Aid) (now : Nat) : GangReq :=
  { coord := coord, grid := g.no, member := m, size := g.desc.nteam, resume := g.begun, ctx := k.ctx, prio := g.prio, pcap := g.pcap,
    depth := g.depth, accepted := g.born.toNat, desc := g.raw, ranks := g.ranks, home := k.aid, slot := [],
    children := [], opens := [], failing := match g.failing with | some t => now - t | none => 0 }

/-- A round cannot succeed, or has not: its time counts for R139. -/
def Grid.failed (g : Grid) (now : Nat) : Grid := { g with gang := .failed now, failing := g.failing.or (some now) }

/-- The gang's ranks: read when its placement or its resumption begins, and kept for its further rounds (R49, R141). -/
def State.roundRanks (s : State) (g : Grid) : State × Option (List DWord) :=
  if !g.ranks.isEmpty then (s, some g.ranks)
  else
    match s.readGroup g.ctx none g.desc.ggrp with
    | (s1, .ok _ ranks) => (s1, some (ranks.map GRank.bits))
    | (s1, _) => (s1, none)

/-- Begin a round; one that cannot be sent has failed. A saved member's request goes by way of the K9 that holds its slot (R478). -/
def State.startRound (s : State) (k : Nat) (g : Grid) : State :=
  match s.roundRanks g with
  | (s1, some ranks) =>
    let ms := ((span 0 g.desc.nteam).filter g.wants).filterMap fun m => (ranks[m % ranks.length]?).map fun r => (m, gRankOf r.toNat)
    let s2 := s1.modGrid k fun g => { g with gang := .round s.clock [], peers := ms.map (fun e => (e.1, e.2.aid)), ranks := ranks }
    ms.foldl (fun s e =>
      let r := { g with ranks := ranks }.request e.1 e.2 s.cfg.aid s.clock
      let at0 := if g.begun then (Map.find? g.holders e.1).getD e.2.aid else e.2.aid
      s.post at0 (.gangRequest at0 r) (.gangReservationRequest r)) s2
  | (s1, none) => s1.modGrid k fun g => { g.failed s.clock with peers := [] }

/-- GANG_ROUND (R137): an eligible gang that holds no reservation. -/
def execGangRound (k : Nat) (s : State) : Res :=
  match Map.find? s.grids k with
  | none => .next s
  | some g =>
    if g.desc.gang && g.eligible && g.coord == s.cfg.aid && g.gang == .idle && (span 0 g.desc.nteam).any g.wants then
      .next (s.startRound k g)
    else .next s

/-- A round fails: release goes to every member's broker (R137 step 4). -/
def State.failRound (s : State) (k : Nat) (g : Grid) : State :=
  g.peers.foldl (fun s p => s.post p.2 (.gangRelease p.2 g.no p.1) (.gangRelease g.no p.1))
    (s.modGrid k fun g => g.failed s.clock)

/-- The K9s of a round, each once. -/
def Grid.brokers (g : Grid) : List Aid := (g.peers.map Prod.snd).eraseDups

/-- The same with the K9s that hold members' slots (R478). -/
def Grid.allBrokers (g : Grid) : List Aid := ((g.peers ++ g.holders).map Prod.snd).eraseDups

/-- GANG_RESERVATION_ANSWER (R137 steps 3, 4). -/
def execGangReservationAnswer (no : Word) (m : Nat) (granted : Bool) (s : State) : Res :=
  match s.ownGang no with
  | none => .next s
  | some (k, g) =>
    match g.gang with
    | .round since got =>
      if !granted || decide (since + usTicks 50 < s.clock) then .next (s.failRound k g)
      else
        let got := if got.contains m then got else got ++ [m]
        if g.peers.all fun p => got.contains p.1 then
          .next (g.brokers.foldl (fun s a => s.post a (.gangCommit a no) (.gangCommit no))
            (s.modGrid k fun g => { g with gang := .committed s.clock [], failing := none, drained := [], saveGo := false, savedAt := [], allSaved := false,
                                            owing := (g.owing ++ (g.brokers.filter (fun a => a != s.cfg.aid))).eraseDups }))
        else .next (s.modGrid k fun g => { g with gang := .round since got })
    | _ => .next s

/-- GANG_ROUND_TIMEOUT (R137): 50 µs. -/
def execGangRoundTimeout (k : Nat) (s : State) : Res :=
  match Map.find? s.grids k with
  | none => .next s
  | some g =>
    match g.gang with
    | .round since _ => if since + usTicks 50 ≤ s.clock then .next (s.failRound k g) else .next s
    | _ => .next s

/-- GANG_RETRY (R139): a member's K9 reports that resources have been freed on it, or 100 µs are over. -/
def execGangRetry (r : RetryCause) (s : State) : Res :=
  match Map.find? s.grids r.grid with
  | none => .next s
  | some g =>
    match g.gang with
    | .failed since =>
      let due := match r.freed with
        | some a => g.peers.any fun p => p.2 == a
        | none => decide (since + usTicks 100 ≤ s.clock)
      if due then .next (s.startRound r.grid g) else .next s
    | _ => .next s

/-- When every member that is left has been brought up, open goes to every broker (R140). -/
def State.tryOpen (s : State) (k : Nat) : State :=
  match Map.find? s.grids k with
  | none => s
  | some g =>
    match g.gang with
    | .committed _ staged =>
      if g.peers.all fun p => staged.contains p.1 || Map.get 0 g.members p.1 == 3 then
        g.allBrokers.foldl (fun s a => s.post a (.gangOpen a g.no) (.gangOpen g.no))
          (s.modGrid k fun g => { g with gang := .opened, begun := true, holders := g.peers })
      else s
    | _ => s

/-- A child grid of a member that has moved has retired where it was launched (R484): the coordinator passes it on to the member's K9. -/
def State.childOver (s : State) (g : Grid) (m : Nat) (child : Word) : State :=
  let s1 := match s.gangTeam g.no m with
    | some (t, _) => (s.modTeam t fun T => { T with away := T.away.filter fun n => n != child }).resave t
    | none => s
  match (if g.coord = s.cfg.aid then Map.find? g.peers m else none) with
  | some a => if a = s.cfg.aid then s1 else s1.toBroker a (.gangStaged a g.no (childMark m child))
  | none => s1

/-- What a broker tells beside the reports of R140 (log entry 24). -/
def State.brokerMark (s : State) (no : Word) (x : Nat) : State :=
  match s.gangOfNo no with
  | none => s
  | some (k, g) =>
    let a : Aid := BitVec.ofNat 10 (x / 4096)
    let own := g.coord == s.cfg.aid
    match x % 4096 with
    | 64 => if own then s.modGrid k fun g => { g with owing := g.owing.filter fun b => b != a } else s
    | 65 => s.killedAway k
    | 66 => if own then (s.modGrid k fun g => { g with drained := g.drained ++ [a] }).saveStep no else s
    | 67 => if own then s else (s.modGrid k fun g => { g with saveGo := true }).saveStep no
    | 68 => if own then (s.modGrid k fun g => { g with savedAt := g.savedAt ++ [a] }).saveStep no else s
    | 69 => if own then s else (s.modGrid k fun g => { g with allSaved := true }).flushMgmt
    | c => if 128 ≤ c ∧ c < 192 then s.childOver g (c - 128) (BitVec.ofNat 32 (x / 4096)) else s

/-- GANG_STAGED_REPORT (R140); a number that no member has is a broker's mark. -/
def execGangStagedReport (no : Word) (m : Nat) (s : State) : Res :=
  if 64 ≤ m % 4096 then .next (s.brokerMark no m)
  else
    match s.ownGang no with
    | none => .next s
    | some (k, g) =>
      match g.gang with
      | .committed since staged => .next ((s.modGrid k fun g => { g with gang := .committed since (staged ++ [m]) }).tryOpen k)
      | _ => .next s

/-! ## A member's broker (R137, R138, R140) -/

/-- A gang ranked ahead of another (R138): priority, acceptance, coordinator. -/
def gangAhead (p a : Nat) (c : Aid) (p' a' : Nat) (c' : Aid) : Bool :=
  decide (p' < p) || (p == p' && (decide (a < a') || (a == a' && decide (c < c'))))

/-- The die order in which a broker looks for a place. -/
def memberDies (m : Nat) : List Nat := (span 0 4).map fun i => (m + i) % 4

/-- A place for a demand on this K9. -/
def State.fitHere (s : State) (m : Nat) (d : Demand) : Option Fit := (memberDies m).findSome? fun e => s.fitDie e d

/-- A reservation is no longer held: a member that was saved here is saved again, any other goes (R137 step 4). -/
def State.dropResv (s : State) (r : Resv) : State :=
  let s1 := { s with resvs := s.resvs.filter (fun (x : Resv) => x != r) }
  match s1.team? r.team with
  | none => s1
  | some T =>
    if r.resumed then (s1.setTeam r.team { T with place := .saved, phase := .running }).answerSaves r.team 0
    else
      let s2 := ({ s1 with teams := Map.erase s1.teams r.team }).modGrid T.grid fun g => { g with live := g.live - 1 }
      { s2 with grids := s2.grids.filter (fun (g : Nat × Grid) =>
          !(g.1 == T.grid && g.2.coord != s.cfg.aid && g.2.live == 0 && !g.2.begun)) }

/-- Undo a reservation: what it held is free, for others than its own gang (R139). -/
def State.undoResv (s : State) (r : Resv) : State := (s.dropResv r).freedBut ((s.team? r.team).bind Team.core?) (some r.grid)

/-- A gang's record on this K9, with the ranks of the request; the first request of a gang of another K9 makes it, if its descriptor is good in
the member's context. Each member's region table, image and declarations are those of its own context (R49). -/
def State.gangRecord (s : State) (r : GangReq) : Option (State × Nat × Grid) :=
  match s.gangOfNo r.grid with
  | some g =>
    let s0 := s.modGrid g.1 (fun g => { g with ranks := r.ranks })
    if g.2.ctx = r.ctx then some (s0, g.1, { g.2 with ranks := r.ranks })
    else
      (match s0.judgeDesc r.ctx r.desc with
       | (_, .refused _) => none
       | (s1, .ok d i) => some (s1, g.1, { g.2 with ranks := r.ranks, desc := d, img := i }))
  | none =>
    match s.judgeDesc r.ctx r.desc with
    | (_, .refused _) => none
    | (s1, .ok d i) =>
      let g := r.record d i s.clock
      some ({ s1 with grids := Map.put s1.grids s1.gridCtr g, gridCtr := s1.gridCtr + 1 }, s1.gridCtr, g)

/-- A saved member takes its new place without going on yet (R141). -/
def Team.holdAt (T : Team) (f : Fit) : Team :=
  { T with place := .resident f.core f.slot, sbase := f.sbase, phase := .gangWait,
           tiles := (T.tiles.zip f.tiles).map (fun e => { e.1 with phys := e.2 }),
           threads := T.threads.map (fun e => (e.1, { e.2 with part := homePart e.1 f.slot })) }

/-! ### A member whose slot is brought here (R141, R478, R479) -/

/-- The saved member that a request brings back. -/
def State.savedMember (s : State) (r : GangReq) : Option (Nat × Team) :=
  List.find? (fun (e : Nat × Team) => decide (e.2.place = .saved) && !e.2.killed && e.2.gridNo == r.grid && e.2.gang.isSome && e.2.rank == r.member) s.teams

/-- The slot from which a member is brought: one of another K9, or one of this K9 whose member now belongs to another context. -/
def State.slotBrought (s : State) (r : GangReq) : Option (Map Byte) :=
  match s.savedMember r with
  | some e => if e.2.ctx = r.ctx ∨ e.2.mheld then none else (e.2.sslot.filter s.slotReadable).map s.slotMap
  | none => if r.slot.isEmpty then none else some (r.slot.foldl (fun m e => Memory.set m (e.1 % slotBytes) e.2) [])

/-- The instance from which a role's threads count on: the smallest counter, modulo 256 (R428). -/
def nxtBase (xs : List Nat) : Nat := (xs.find? fun a => xs.all fun x => decide ((x + 256 - a) % 256 ≤ 4)).getD 0

/-- The threads of a slot, at their first instructions. -/
def slotThreads (d : Desc) (slot now : Nat) (m : Map Byte) : Map Thread :=
  (span 0 1024).filterMap fun t =>
    let w := Memory.val m (0x20000 + 256 * t) 4
    let k := field w 2 2
    match d.roles[k]? with
    | some r => if field w 0 2 = 0 then none else some (t, Thread.first k (homePart t slot) r.2.2 r.2.1 d.priv now)
    | none => none

/-- The engine entries of a slot, before their fields are read: a staging stream has its region's. -/
def slotEngs (d : Desc) (index : Nat) (m : Map Byte) : Map Eng :=
  (span 0 512).filterMap fun i =>
    let at0 := 0x10000 + 128 * i
    match field (Memory.val m at0 1) 0 3 with
    | 0 => none
    | 5 => some (i, Eng.fresh (.tile 0 0 0) .queued none 0)
    | 6 =>
      let k := Memory.val m (at0 + 0x10) 4
      (d.regions[k]?).map fun r => (i, Eng.fresh (.stage k (r.2.1 == 2) (r.1 + index * r.2.2.2.2 * 128) r.2.2.2.1 r.2.2.1) .queued none 0)
    | _ => some (i, Eng.fresh (.coll ⟨0, 0, 0, false, false, false⟩ 0 0 []) .queued (if field (Memory.val m at0 1) 3 3 = 2 then some 0 else none) 0)

/-- Units of a stream between C and S whose line is present have landed (R468); a line that is absent is owed by the streams that cover it. -/
def Team.landedIn (T : Team) : Team :=
  let T1 := { T with eng := T.eng.map fun (e : Nat × Eng) => (e.1,
    if e.2.st.inQueue then
      { e.2 with landed := (span e.2.cpos (e.2.spos - e.2.cpos)).filter fun u => match e.2.cmd.unitLine T u with | some l => !T.lineAbsent l | none => false }
    else e.2) }
  let owed := fun (l : Nat) => (T1.eng.map fun (e : Nat × Eng) =>
    if e.2.st.inQueue then ((span e.2.cpos (e.2.cmd.units - e.2.cpos)).filter fun u => !e.2.landed.contains u && e.2.cmd.unitLine T1 u == some l).length
    else 0).sum
  { T1 with absent := T1.absent.map fun e => (e.1, max 1 (owed e.1)) }

/-- A member as a slot holds it, for a place: its instances count on from the smallest counter. -/
def Grid.brought (g : Grid) (key : Nat) (r : GangReq) (f : Fit) (pblk sslot : Option Nat) (m : Map Byte) (now : Nat) : Team :=
  let d := g.desc
  let T0 := g.team key r.member r.ctx f (some ⟨r.member, r.size, .attached, false⟩) pblk sslot now
  let gs := Memory.val m 0xC 4
  let T1 := { T0 with threads := slotThreads d f.slot now m, eng := slotEngs d r.member m,
                      tiles := (span 0 (field (Memory.val m 0x2C 4) 14 5)).map Tile.fresh,
                      gang := some ⟨r.member, r.size, (match field gs 14 2 with | 0 => .attached | 1 => .detached | _ => .done), flag gs 16⟩ }
  let base := fun k n => nxtBase ((T1.liveOf k).map fun t => Memory.val m (0x20000 + 256 * t + 0x30 + n) 1)
  let T2 := { T1 with
    roles := ((span 0 T1.roles.length).zip T1.roles).map (fun (e : Nat × Role) => { e.2 with red := (span 0 8).foldl (fun q n => Map.set (0, []) q n (base e.1 n, [])) [] }),
    threads := T1.threads.map fun (e : Nat × Thread) => (e.1, { e.2 with nxt := (span 0 8).foldl (fun q n =>
      let a := base e.2.role n
      Map.set 0 q n (a + (Memory.val m (0x20000 + 256 * e.1 + 0x30 + n) 1 + 256 - a) % 256)) [] }) }
  -- its context is that of its rank (R141), its children are where it was
  { (T2.ofSlot m).landedIn with place := .resident f.core f.slot, phase := .gangWait, ctx := r.ctx, children := [], away := r.children }

/-- The demand of a member that is to be brought. -/
def Grid.broughtDemand (g : Grid) (r : GangReq) (m : Map Byte) : Demand := (g.brought 0 r ⟨0, 0, 0, []⟩ none none m 0).demand

/-- A saved member stays saved: it is held (R507), or it was saved in a WAITCH that is not yet satisfied (R96). -/
def State.staysSaved (s : State) (r : GangReq) : Bool := r.resume && (s.savedMember r).any fun e => e.2.mheld || s.inWaitch e.2

/-- What a request needs on this K9: none where the member cannot be brought up here. -/
def State.needs (s : State) (r : GangReq) : Option Demand :=
  if !r.resume then some (descOf r.desc).demand
  else if s.staysSaved r then none
  else
    match s.slotBrought r with
    | some m => (s.gangRecord r).map fun g => g.2.2.broughtDemand r m
    | none =>
      match s.savedMember r with
      | some e => if e.2.ctx ≠ r.ctx then none else some (s.readSlot e.2).demand
      | none => none

/-- The bytes of a member's old slot are written to its new one, whole lines (R163, R478). -/
def State.fillSlot (s : State) (j : Nat) (m : Map Byte) : State :=
  let base := s.slotBase j
  if !s.setWritable base then s
  else
    ({ s with mem := Memory.shifted (Memory.clear s.mem base slotBytes) m 0 base,
              poison := s.poison.filter fun l => decide (l < base / 128 ∨ (base + slotBytes) / 128 ≤ l) } : State).seen base slotBytes |>.touch none base

/-- The open collectives of a team: entry, sequence number, rank, or 1024 while the block has not been read. -/
def Team.openColls (T : Team) : List (Nat × Nat × Nat) :=
  T.eng.filterMap fun e => match e.2.run with
    | some r => if e.2.cmd.isColl && e.2.st.inQueue && !e.2.st.isFaulted then some (e.1, r.seq.toNat, if r.ranks.isEmpty then 1024 else r.me) else none
    | none => none

/-- What a brought member has beside its slot's bytes: its open collectives; brought from this K9's own slot, its children are its own. -/
def State.carry (s : State) (r : GangReq) (T : Team) : Team :=
  let old := s.savedMember r
  let opens := match old with | some e => e.2.openColls | none => r.opens
  let T1 := { T with eng := T.eng.map fun (e : Nat × Eng) => (e.1,
    match List.find? (fun (o : Nat × Nat × Nat) => o.1 == e.1) opens with
    | some o => { e.2 with run := some { CollRun.fresh (BitVec.ofNat 16 o.2.1) with me := o.2.2 } }
    | none => e.2) }
  match old with
  | some e => { T1 with children := e.2.children, away := e.2.away }
  | none => T1

/-- Steps 1 and 2 for a member at a place: none while a block or a save slot is missing. -/
def State.reserveMember (s : State) (r : GangReq) (f : Fit) : Option State :=
  let held := fun (s : State) (t : Nat) (resumed brought : Bool) (d : Desc) =>
    { s with resvs := s.resvs ++ [(⟨r.grid, r.coord, r.member, t, r.prio, r.accepted, resumed, brought, false, d⟩ : Resv)],
             refused := s.refused.filter (fun (x : Refused) => !(x.req.grid == r.grid && x.req.member == r.member)) }
  match (if r.resume then some (s.slotBrought r) else none) with
  | some none => (s.gangRecord r).bind fun g => (g.1.savedMember r).map fun e => held ((g.1.touchSlot e.2).setTeam e.1 ((g.1.readSlot e.2).holdAt f)) e.1 true false g.2.2.desc
  | some (some m) =>
    (match s.gangRecord r with
     | none => none
     | some (s1, k, g) =>
       match s1.takeBlock r.ctx g.desc.priv, s1.takeSlot with
       | some blk, some j =>
         let T := s1.carry r (s1.behindTraps (g.brought k r f blk (some j) m s.clock))
         let top := T.eng.foldl (fun n e => max n (e.2.order + 1)) s1.orderCtr
         let s2 := ({ s1 with teams := Map.put s1.teams s1.teamCtr T, teamCtr := s1.teamCtr + 1, orderCtr := top }).modGrid k fun g =>
           { g with live := g.live + 1 }
         some (held (s2.fillSlot j m) s1.teamCtr false true g.desc)
       | _, _ => none)
  | none =>
    match s.gangRecord r with
    | none => none
    | some (s1, k, g) =>
      (s1.reserve k r.member g r.ctx f (some ⟨r.member, r.size, .attached, false⟩)).map fun s2 =>
        held (s2.modTeam s1.teamCtr fun T => { T with phase := .gangWait }) s1.teamCtr false false g.desc

/-- The reservations ranked below a request that are not committed, the lowest first (R138). -/
def State.below (s : State) (r : GangReq) : List Resv :=
  let l := s.resvs.filter fun (x : Resv) => !x.committed && gangAhead r.prio r.accepted r.coord x.prio x.accepted x.coord
  l.foldr (fun x acc => (acc.filter fun y => gangAhead x.prio x.accepted x.coord y.prio y.accepted y.coord) ++ x ::
    acc.filter fun y => !gangAhead x.prio x.accepted x.coord y.prio y.accepted y.coord) []

/-- Reserve a place for a member, with its block and its slot. -/
def State.tryReserve (s : State) (r : GangReq) : Option State :=
  (s.needs r).bind fun d => (s.fitHere r.member d).bind fun f => s.reserveMember r f

/-- Of the reservations `l`, those that must go for the member to be reserved: each in turn is spared if the rest is enough. -/
def State.mustGo (s : State) (r : GangReq) : List Resv → List Resv → List Resv
  | kept, [] => kept
  | kept, x :: rest =>
    if ((kept ++ rest).foldl (fun s y => s.dropResv y) s |>.tryReserve r).isSome then State.mustGo s r kept rest
    else State.mustGo s r (kept ++ [x]) rest

/-- The coordinator of a reservation that has been undone hears of a refusal (R138). -/
def State.tellUndone (s : State) (x : Resv) : State :=
  s.post x.coord (.gangAnswer x.coord x.grid x.member false) (.gangReservationAnswer x.grid x.member false)

/-- Undo the lower reservations without whose end the member cannot be reserved (R138): the member takes its place before anything else is
given what they held. -/
def State.makeRoom (s : State) (r : GangReq) : Option State :=
  match s.tryReserve r with
  | some s1 => some s1
  | none =>
    let low := s.below r
    if ((low.foldl (fun s y => s.dropResv y) s).tryReserve r).isNone then none
    else
      -- the highest of them is spared first
      let gone := s.mustGo r [] low.reverse
      ((gone.foldl (fun s x => s.dropResv x) s).tryReserve r).map fun s1 =>
        gone.foldl (fun s1 x => (s1.tellUndone x).freedBut ((s.team? x.team).bind Team.core?) (some x.grid)) s1

/-- The broker's judgement of a request (R137 step 2, R138): the context is ACTIVE, the member can be brought up, and it fits. -/
def State.grantMember (s : State) (r : GangReq) : Option State :=
  if (Map.find? s.ctxs r.ctx.toNat).isNone then none
  else if s.resvs.any fun (x : Resv) => x.grid == r.grid && x.member == r.member then some s
  else s.makeRoom r

/-- A request for a member that is to be brought up on another K9: it goes there with the slot that this K9 holds, the numbers of the member's
child grids and its open collectives (R478, R484); a child grid that retires from now on tells the coordinator. -/
def State.forward (s : State) (r : GangReq) : State :=
  match if s.staysSaved r then none else s.savedMember r with
  | some e =>
    (match e.2.sslot.filter s.slotReadable with
     | some j =>
       let nos := (e.2.children.filterMap fun c => Map.find? s.grids c).map Grid.no
       ({ (s.touchSlot e.2) with grids := s.grids.map fun (g : Nat × Grid) =>
           if g.2.parentTeam = some e.1 then (g.1, { g.2 with parentAway := some (r.grid, r.member) }) else g } : State).toBroker r.home
         (.gangRequest r.home { r with slot := s.slotMap j, children := nos ++ e.2.away, opens := e.2.openColls })
     | none => s.post r.coord (.gangAnswer r.coord r.grid r.member false) (.gangReservationAnswer r.grid r.member false))
  | none => s.post r.coord (.gangAnswer r.coord r.grid r.member false) (.gangReservationAnswer r.grid r.member false)

/-- GANG_RESERVATION_REQUEST (R137, R138, R139): answered at once. -/
def execGangReservationRequest (r : GangReq) (s : State) : Res :=
  let answer := fun (s : State) (ok : Bool) => s.post r.coord (.gangAnswer r.coord r.grid r.member ok) (.gangReservationAnswer r.grid r.member ok)
  if r.home ≠ s.cfg.aid then .next (s.forward r)
  else
    match s.grantMember r with
    | some s1 => .next (answer s1 true)
    | none =>
      let known := s.refused.any fun (x : Refused) => x.req.grid == r.grid && x.req.member == r.member
      .next (answer (if known || s.staysSaved r then s else { s with refused := s.refused ++ [(⟨r, s.clock - r.failing⟩ : Refused)] }) false)

/-- GANG_RELEASE (R137 step 4). -/
def execGangRelease (no : Word) (m : Nat) (s : State) : Res :=
  match s.resvs.find? fun (x : Resv) => x.grid == no && x.member == m with
  | some r => .next (s.undoResv r)
  | none => .next s

/-- Bring a committed member up: a fresh one is staged; a saved one goes on with the streams that it had (R136, R140, R141). -/
def State.bringMember (s : State) (r : Resv) : State :=
  match s.team? r.team with
  | none => s
  | some T =>
    if r.resumed || r.brought then
      ((s.wakeRegions r.team).modTeam r.team fun T => { T with phase := .staging }).afterStage r.team
    else
      match Map.find? s.grids T.grid with
      | none => s
      | some _ => (s.modTeam r.team fun T => { T with phase := .staging }).bringUp r.team r.desc

/-- GANG_COMMIT (R140, R141). -/
def execGangCommit (no : Word) (s : State) : Res :=
  let mine := s.resvs.filter fun (x : Resv) => x.grid == no
  .next (mine.foldl (fun s r => s.bringMember r)
    { s with grids := s.grids.map (fun (g : Nat × Grid) => if g.2.no = no ∧ g.2.desc.gang then (g.1, { g.2 with drained := [], saveGo := false, savedAt := [], allSaved := false }) else g),
             resvs := s.resvs.map fun (x : Resv) => if x.grid = no then { x with committed := true } else x })

/-- A collective that was open when its member was brought here aborts with cause MOVED: its status word and its record are this K9's; the other
ranks hear of it from the K9 that the member left (R460, R479). -/
def State.collMoved (s : State) (t : Nat) (o : Nat × Nat × Nat) : State :=
  let s1 := (s.collKnown t o.1).modRun t o.1 fun r => { r with me := if o.2.2 < r.ranks.length then o.2.2 else r.me }
  match ((s1.team? t).bind fun T => Map.find? T.eng o.1).bind Eng.run with
  | some r => s1.collStop t o.1 (r.ending 5 Code.collAbort) { code := Code.collAbort } false
  | none => s1

/-- A saved member goes on at the place that it holds (R141); one that was brought here ends its collectives first. -/
def State.resumeHere (s : State) (t : Nat) (T : Team) (brought : Bool) : State :=
  match T.place with
  | .resident c k =>
    let s1 := s.setTeam t (T.resumeAt ⟨c, k, T.sbase, T.tiles.map Tile.phys⟩ s.clock)
    (((if brought then T.openColls.foldl (fun s o => s.collMoved t o) s1 else s1).goOn t)).grantAclaims c 16
  | .saved => s

/-- The child grids of a member that has moved: here, in another context, they are its own still; elsewhere, their end is told (R484). -/
def State.childrenMoved (s : State) (t : Nat) (T : Team) : State :=
  let new := s.teams.filter fun e => e.1 != t && e.2.gang.isSome && e.2.gridNo == T.gridNo && e.2.rank == T.rank && !e.2.killed
  { s with grids := s.grids.map fun (g : Nat × Grid) =>
      if g.2.parentTeam = some t then
        (g.1, match new with
          | e :: _ => { g.2 with parentTeam := some e.1, parentAway := none }
          | [] => { g.2 with parentTeam := none, parentAway := some (T.gridNo, T.rank) })
      else g }

/-- A member that has been brought up elsewhere leaves this K9: its open collectives abort at the other ranks with cause MOVED, its slot and block
are free (R460, R478). -/
def State.dropMoved (s : State) (no : Word) : State :=
  (s.teams.filter fun e => e.2.gang.isSome && e.2.gridNo == no && decide (e.2.place = .saved) && !e.2.killed).foldl (fun s e =>
    let s1 := (s.collEnd e.1 5).childrenMoved e.1 e.2
    match s1.team? e.1 with
    | some T => s1.retireTeam e.1 T
    | none => s1) s

/-- GANG_OPEN (R140, R141): step 7 for every member here; a member that has moved away is no longer held. -/
def execGangOpen (no : Word) (s : State) : Res :=
  let mine := s.resvs.filter fun (x : Resv) => x.grid == no
  let s1 := { s with resvs := s.resvs.filter (fun (x : Resv) => x.grid != no),
                     grids := s.grids.map (fun (g : Nat × Grid) =>
                       if g.2.no = no ∧ g.2.coord ≠ s.cfg.aid then (g.1, { g.2 with gang := .opened, begun := true }) else g) }
  let s2 := mine.foldl (fun s r =>
    match s.team? r.team with
    | none => s
    | some T =>
      if T.phase ≠ .gangWait ∨ T.killed then s
      else if r.resumed || r.brought then s.resumeHere r.team T r.brought
      else s.startTeam r.team) (s1.dropMoved no)
  -- an MSAVE that came before the gang was open takes effect now (R507)
  .next (mine.foldl (fun s r => if (s.team? r.team).any (fun T => T.mheld) then s.startSaves r.team else s) s2)

/-! ## Breaks, detachment, saves (R144-R147, R478) -/

/-- A member of this K9 that is broken from outside is killed (R140, R146). -/
def State.breakMember (s : State) (no : Word) (m : Nat) : State :=
  match s.gangTeam no m with
  | some (t, _) => s.killTeam t
  | none => s

/-- GANG_BRINGUP_TIMEOUT (R140): 100 µs after commit. -/
def execGangBringupTimeout (k m : Nat) (s : State) : Res :=
  match Map.find? s.grids k with
  | none => .next s
  | some g =>
    match g.gang with
    | .committed since staged =>
      if decide (since + usTicks 100 ≤ s.clock) && (g.peers.any fun p => p.1 == m) && !staged.contains m && Map.get 0 g.members m != 3 then
        .next (((s.breakGang g.no m).breakMember g.no m).tryOpen k)
      else .next s
    | _ => .next s

/-- DETACH_NOTICE (R144, R145); a save may wait for it no longer (R497). -/
def execDetachNotice (no : Word) (m : Nat) (done : Bool) (s : State) : Res :=
  .next <| State.saveStep (no := no) { s with grids := s.grids.map (fun (g : Nat × Grid) =>
    if g.2.no = no ∧ g.2.desc.gang then (g.1, { g.2 with members := Map.put g.2.members m (max (Map.get 0 g.2.members m) (if done then 2 else 1)) })
    else g) }

/-- GANG_BREAK (R146). -/
def execGangBreak (no : Word) (m : Nat) (s : State) : Res :=
  let s1 := (s.recordBreak no m).breakMember no m
  .next (match s1.ownGang no with | some (k, _) => s1.tryOpen k | none => s1)

/-- BROKER_SILENCE_TIMEOUT (R146): the member's K9 has not answered for 100 µs. -/
def execBrokerSilenceTimeout (no : Word) (m : Nat) (s : State) : Res :=
  if s.grids.any fun (g : Nat × Grid) => g.2.no == no && g.2.desc.gang && Map.get 0 g.2.members m != 3 then
    let s1 := s.breakGang no m
    .next (match s1.ownGang no with
      | some (k, _) => s1.tryOpen k
      -- a silent coordinator tells nothing more of a save (R478, R497)
      | none => (match s1.gangOfNo no with
        | some (k, g) => if (g.ranks[m % g.ranks.length]?).any (fun r => (gRankOf r.toNat).aid == g.coord) then
            (s1.modGrid k fun g => { g with saveGo := true, allSaved := true }).flushMgmt else s1
        | none => s1))
  else .next s

/-- GANG_SAVE_REQUEST (R478). -/
def execGangSaveRequest (no : Word) (s : State) : Res := .next (s.saveGang no)

end Sys2Proof.Machine
end

