-- ==== Sys2Proof/Machine/Preempt.lean ====
section
/-! DEFINITION. Pre-emption by the placement units (R95, R96, R139). -/

namespace Sys2Proof.Machine

/-- The teams of a die that a team of priority P may displace, in the order of R95. -/
def State.victims (s : State) (e P : Nat) : List Nat :=
  let ts := s.teams.filter fun t =>
    (match t.2.core? with | some c => c / 64 == e | none => false) && decide (t.2.prio < P) && !t.2.killed && t.2.phase != .saving &&
      !s.uncommitted t.1
  (sortBy (fun (t : Nat × Team) => t.2.prio) (sortBy (fun (t : Nat × Team) => s.clock - t.2.placedAt) ts)).map Prod.fst

/-- Some teams, with the other members of their gangs (R95, R478). -/
def State.withGangs (s : State) (ts : List Nat) : List Nat :=
  (s.teams.filter fun e => ts.contains e.1 ||
    (e.2.gang.isSome && s.teams.any fun x => ts.contains x.1 && x.2.gang.isSome && x.2.gridNo == e.2.gridNo)).map Prod.fst

/-- The state without some teams. -/
def State.without (s : State) (ts : List Nat) : State := { s with teams := s.teams.filter fun e => !ts.contains e.1 }

/-- The teams that are being saved. -/
def State.leaving (s : State) : List Nat := (s.teams.filter fun e => e.2.phase == .saving && e.2.core?.isSome).map Prod.fst

/-- A demand would fit a die once some teams, with their gangs, and those that are leaving have left. -/
def State.fitsWithout (s : State) (e : Nat) (d : Demand) (ts : List Nat) : Bool :=
  ((s.without (s.leaving ++ s.withGangs ts)).fitDie e d).isSome

/-- The victims to pre-empt, in the order of R95, until the demand fits; all of them where it does not fit even then (log entry 21). -/
def State.enough (s : State) (e : Nat) (d : Demand) (vs : List Nat) : List Nat :=
  match (span 0 (vs.length + 1)).find? fun n => s.fitsWithout e d (vs.take n) with
  | some n => vs.take n
  | none => vs

/-- Pre-empt for a team of priority P on a die. -/
def State.preempt (s : State) (e P : Nat) (d : Demand) : State := (s.enough e d (s.victims e P)).foldl (fun s t => s.startSaves t) s

/-- A team waits on a die since it fitted nowhere 20 µs ago (R95). -/
def State.longWait (s : State) (e : Nat) (c : Cand) : Bool :=
  (s.die e).waits.any fun x => x.1 == c && decide (x.2 + usTicks 20 ≤ s.clock)

/-- The grid of a waiting team. -/
def State.candGrid (s : State) (c : Cand) : Option Nat :=
  match c with | .fresh k _ => some k | .saved t => (s.team? t).map Team.grid

/-- The members that this K9 has refused since their gang's rounds have failed for 20 µs, with what they need (R139). -/
def State.longRefused (s : State) : List (GangReq × Demand) :=
  (s.refused.filter fun r => decide (r.since + usTicks 20 ≤ s.clock) && (Map.find? s.ctxs r.req.ctx.toNat).isSome).filterMap fun r =>
    (s.needs r.req).map fun d => (r.req, d)

/-- PREEMPT_TIMEOUT (R95, R139): 20 µs; for each team that waits so long, and for each member of a gang whose rounds have failed so long and whom
this K9 refused. -/
def execPreemptTimeout (die : BitVec 2) (s : State) : Res :=
  let e := die.toNat
  let s1 := ((s.waiting e).filter fun w => s.longWait e w.cand).foldl (fun s w => s.preempt e w.prio w.demand) s
  .next (s.longRefused.foldl (fun s r => s.preempt e r.1.prio r.2) s1)

/-- A grid descends from a team. -/
def State.descends (s : State) (t : Nat) (k : Nat) : Nat → Bool
  | 0 => false
  | fuel + 1 =>
    match Map.find? s.grids k with
    | none => false
    | some g => g.parentTeam == some t || (match g.parentGrid with | some p => State.descends s t p fuel | none => false)

/-- The pending teams of a die that have fitted nowhere for 20 µs, of its own and of gangs: their grids and what they need (R96). -/
def State.longPending (s : State) (e : Nat) : List (Nat × Demand) :=
  ((s.waiting e).filter fun w => s.longWait e w.cand).filterMap (fun w => (s.candGrid w.cand).map fun k => (k, w.demand)) ++
    s.longRefused.filterMap fun r => (s.gangOfNo r.1.grid).map fun g => (g.1, r.2)

/-- The team may be saved for a pending team of one of its descendant grids: its own save, with that of its gang, makes the room (R96). -/
def State.waitchSave (s : State) (e : Nat) (w : Nat × Demand) (t : Nat × Team) : Bool :=
  (match t.2.core? with | some c => c / 64 == e | none => false) && (match t.2.steer.st with | .blocked (.waitch _) => true | _ => false) &&
    t.2.phase == .running && !t.2.killed && s.descends t.1 w.1 11 && !s.fitsWithout e w.2 [] && s.fitsWithout e w.2 [t.1]

/-- WAITCH_SAVE_TIMEOUT (R96): a team blocked in WAITCH is saved when that makes room for a descendant that has fitted nowhere for 20 µs. -/
def execWaitchSaveTimeout (die : BitVec 2) (s : State) : Res :=
  let e := die.toNat
  match (s.longPending e).findSome? fun w => List.find? (fun t => s.waitchSave e w t) s.teams with
  | some t => .next ((s.startSaves t.1).modTeam t.1 fun T => { T with inWaitch := true })
  | none => .next s

end Sys2Proof.Machine
end

