-- ==== Sys2Proof/Machine/Pod.lean ====
section
/-! DEFINITION. The pod: stations and slot frames (R103-R113), answers to window accesses (R107, R336), inbound transactions (R104, R361),
device time (R116-R118). -/

namespace Sys2Proof.Machine

/-! ## Stations (R103, R105, R106) -/

/-- Station `i` reaches a peer: it is up and its switch reports the peer (R105). -/
def State.reach (s : State) (i : Nat) (peer : Aid) : Bool := s.pod.up.getLsbD i && (Map.get [] s.pod.reach i).contains peer.toNat

/-- The station of an address and a peer: the home station, or the next that reaches the peer (R105). -/
def State.station (s : State) (a : Nat) (peer : Aid) : Option Nat :=
  ((span 0 16).map fun i => (a / 128 + peer.toNat + i) % 16).find? fun i => s.reach i peer

/-- Unacknowledged transactions of a station to peers that it no longer reaches are sent again (R106). -/
def State.reroute (s : State) (i : Nat) : State :=
  (s.txs.filter fun x => x.2.station == some i && x.2.answer.isNone && !s.reach i x.2.target).foldl
    (fun s x => s.putTx x.1 { x.2 with station := none }) s

/-- Change the pod registers. -/
def State.modPod (s : State) (f : Pod → Pod) : State := { s with pod := f s.pod }

/-- STATION_TRAIN (R103, R116): the station reports this K9's AID and keeps the link delay that it measured; a duplicate AID keeps it down. -/
def execStationTrain (i : BitVec 4) (t : Training) (s : State) : Res :=
  if !s.portsOpen then .next s
  else .next (((s.modPod fun p =>
    { p with up := setBit p.up i.toNat (!t.dup), dup := setBit p.dup i.toNat t.dup, delay := Map.set 0 p.delay i.toNat t.delay }).send
      (.aidReport i.toNat s.cfg.aid)).reroute i.toNat)

/-- STATION_DOWN (R106). -/
def execStationDown (i : BitVec 4) (s : State) : Res :=
  .next ((s.modPod fun p => { p with up := setBit p.up i.toNat false }).reroute i.toNat)

/-- STATION_UP (R106): a station that R103 keeps down stays down. -/
def execStationUp (i : BitVec 4) (s : State) : Res :=
  if !s.portsOpen || s.pod.dup.getLsbD i.toNat then .next s
  else .next (s.modPod fun p => { p with up := setBit p.up i.toNat true })

/-- REACH_REPORT (R105). -/
def execReachReport (i : BitVec 4) (aids : List Nat) (s : State) : Res :=
  .next ((s.modPod fun p => { p with reach := Map.set [] p.reach i.toNat aids }).reroute i.toNat)

/-! ## Slot frames (R109-R112) -/

/-- The start of the first frame that begins at least 96 ns after a device time (R112). -/
def frameAfter (t : Nat) : Nat := (t + 96 + 95) / 96 * 96

/-- The slot map in force at a device time. -/
def Pod.mapAt (p : Pod) (now : Nat) : List DWord :=
  p.slotPending.foldl (fun m w => if w.1 ≤ now then w.2 else m) p.inForce

/-- Slot maps whose frame has begun come into force. -/
def Pod.settle (p : Pod) (now : Nat) : Pod :=
  { p with inForce := p.mapAt now, slotPending := p.slotPending.filter fun w => decide (now < w.1) }

/-- SLOTMAP_WRITE (R112): reserved bits stay zero. -/
def execSlotmapWrite (k : BitVec 2) (v : DWord) (s : State) : Res :=
  .next (s.modPod fun p =>
    let m := p.slotmap.set k.toNat (v &&& 0x7777777777777777)
    let q := p.settle s.dtime.toNat
    { q with slotmap := m, slotPending := q.slotPending ++ [(frameAfter s.dtime.toNat, m)] })

/-- The number of the slot at a device time, counted from time zero: 64 slots of 1.5 ns in 96 ns (R109). -/
def slotAt (t : Nat) : Nat := t * 2 / 3

/-- The entry of slot `j` of a frame: its class if it is reserved (Table 5.2). -/
def slotEntry (m : List DWord) (j : Nat) : Option Nat :=
  let n := (m.getD (j / 16) 0).toNat / 16 ^ (j % 16) % 16
  if n % 2 = 1 then some (n / 2 % 4) else none

/-- The station on which a cell can leave now (R105, R106): of a reply that of its request; of a message the first from its home station on that
reaches the peer; of a request the one that its address and peer
name, once it stands behind no access that it must follow and every earlier one to its line is outstanding on the same station. -/
def State.cellStation (s : State) (c : Cell) : Option Nat :=
  match c.item with
  | .reply _ => if s.reach c.home c.peer then some c.home else none
  | .message _ => ((span 0 16).map fun i => (c.home + i) % 16).find? fun i => s.reach i c.peer
  | .tx id =>
    match Map.find? s.txs id with
    | none => none
    | some x =>
      let i := s.station x.dest.addr x.target
      if s.txBehind id x then none
      else if s.txs.all fun y => decide (id ≤ y.1) || y.2.answer.isSome || y.2.split || y.2.pod.isSome || y.2.target != x.target ||
          decide (y.2.dest.addr / 128 ≠ x.dest.addr / 128) || y.2.station == i then i
      else none

/-- The cells in the order in which they became ready, those that must wait last (R111). -/
def State.settleCells (s : State) : State :=
  let now := (s.cells.filter fun c => match c.item with | .tx id => (Map.find? s.txs id).isSome | .reply _ => true | .message _ => true).map fun c =>
    (c, (s.cellStation c).isSome)
  { s with cells := ((now.filter fun e => e.1.ready && e.2).map Prod.fst) ++ ((now.filter fun e => !e.1.ready && e.2).map fun e => { e.1 with ready := true }) ++
      (now.filter fun e => !e.2).map fun e => { e.1 with ready := false } }

/-- The oldest ready cell of a class on a station. -/
def State.readyCell (s : State) (i cls : Nat) : Option Cell :=
  s.cells.find? fun c => c.ready && c.cls == cls && s.cellStation c == some i

/-- The cell that a slot carries, with whether the slot was unreserved (R111); the first round robin starts with class 0 (log entry 82). -/
def State.slotCell (s : State) (i slot : Nat) : Option (Cell × Bool) :=
  let last := Map.get 3 s.pod.lastClass i
  let free := ((span 1 4).findSome? fun d => s.readyCell i ((last + d) % 4)).map fun x => (x, true)
  match slotEntry (s.pod.mapAt s.dtime.toNat) (slot % 64) with
  | some c => (match s.readyCell i c with | some x => some (x, false) | none => free)
  | none => free

/-- A cell leaves on a station. -/
def State.sendCell (s : State) (i : Nat) (c : Cell) : State :=
  let s1 := { s with cells := s.cells.erase c }
  match c.item with
  | .reply r => s1.send (.txReply i c.cls c.peer r)
  | .message m => s1.send (.message i c.cls c.peer m)
  | .tx id =>
    match Map.find? s.txs id with
    | some x => (s1.modTx id fun y => { y with station := some i }).send (.cell i c.cls c.peer id x.dest x.op)
    | none => s1

/-- SLOT_TRANSMIT (R109-R111): one cell in a slot. -/
def execSlotTransmit (i : BitVec 4) (s : State) : Res :=
  let k := i.toNat
  let slot := slotAt s.dtime.toNat
  if !s.portsOpen || !s.pod.up.getLsbD k || Map.get 0 s.pod.lastSlot k == slot + 1 then .next s
  else
    let s0 := s.settleCells
    match s0.slotCell k slot with
    | none => .next s
    | some (c, unres) =>
      .next ((s0.sendCell k c).modPod fun p =>
        { p with lastSlot := Map.set 0 p.lastSlot k (slot + 1), lastClass := if unres then Map.set 3 p.lastClass k c.cls else p.lastClass })

/-! ## Answers (R107, R336, R337, R349, R402, R410) -/

/-- The bytes of an access out of an answer: a line of the remote-read cache holds more, and so may a request. -/
def Tx.slice (x : Tx) (bs : List Byte) : List Byte :=
  match x.fill, x.op with
  | some _, _ => (bs.drop (x.lo % 2048)).take x.len
  | none, .load _ _ => (bs.drop x.skip).take x.len
  | none, _ => bs

/-- An answer as the access takes it. -/
def Tx.part (x : Tx) (r : TxReply) : TxReply := match r with | .data bs => .data (x.slice bs) | a => a

/-- A line's answer enters the remote-read cache (R349), unless the line has been dropped since (R350). -/
def State.fillLine (s : State) (x : Tx) (bs : List Byte) : State :=
  match x.fill, s.team? x.team with
  | some w, some T => if x.stale then s else s.rrcFill T.ctx x.handle w x.lo bs
  | _, _ => s

/-- The destination of the access itself, when a cache line was asked for. -/
def TxDest.unline (d : TxDest) (off : Nat) : TxDest := match d with | .ctx c k a => .ctx c k (a + off % 2048) | x => x

/-- An answer to the request of a cache line that brings no line: the page has RRC clear (R349). -/
def TxReply.noLine (r : TxReply) : Bool := match r with | .data [] => true | _ => false

/-- No line comes: the access is sent as a plain load (R349). -/
def State.askPlain (s : State) (id : Nat) (x : Tx) : State :=
  (s.endTx id).launchTx id { x with fill := none, op := .load x.len false, dest := TxDest.unline x.dest x.lo, station := none, sentAt := s.clock, answer := none }

/-- A ray query goes on with a record that has come; while a line that it needs is absent, or its thread cannot take a fault, the answer
is kept (R402, R405, R407). -/
def State.rayAnswered (s : State) (id : Nat) (x : Tx) (tid late : Nat) (run : RayRun) (r : TxReply) : State :=
  match s.team? x.team with
  | none => s.endTx id
  | some T =>
    match T.thread? tid with
    | none => s.endTx id
    | some th =>
      let finish := fun (s : State) (p : Bool) (ws : List Word) (nr : Bool) =>
        ((s.endTx id).modThread x.team tid fun th => th.due late (run.vals ws) (run.preds p nr) 0).accessDone x tid
      if !th.live then s.endTx id
      else
        match r with
        | .nonres => finish s rayMiss.1 rayMiss.2 true
        | .fault k q => if th.atLarge && !x.ahead then s.txFault x.team T tid th id x k q else s
        | .data bs =>
          let run1 := { run with known := run.known ++ [(x.handle.toNat, x.lo, bs)] }
          match s.rayQuery T run1 with
          | (s1, .done p ws nr) => finish s1 p ws nr
          | (s1, .stop .nonres) => finish s1 rayMiss.1 rayMiss.2 true
          | (_, .stop (.absent _)) => s
          | (s1, .stop (.need h off len aid dest cls rrc wver)) =>
            let s2 := (s1.endTx id).sendRay x.team (.ray tid late run1) h off len aid dest cls rrc wver x.pos
            if x.ahead then s2.modTx s1.txCtr (fun y => { y with ahead := true }) else s2
          | (s1, .stop (.fault f)) => if th.atLarge && !x.ahead then s1.stopAccess x.team T tid th id x f else s
        | _ => s.endTx id

/-- Give an answer, kept in its transaction, to whoever waits for it; one that nobody waits for ends its transaction. -/
def State.deliver (s : State) (id : Nat) (x : Tx) (r : TxReply) : State :=
  if x.fill.isSome && TxReply.noLine r then s.askPlain id x
  else
    let r1 := x.part r
    let s1 := match r with | .data bs => s.fillLine x bs | _ => s
    match x.owner with
    | .load tid _ _ _ => s1.answerLane id x r1 tid
    | .store tid => s1.answerLane id x r1 tid
    | .atomic tid _ _ _ => s1.answerLane id x r1 tid
    | .mcst tid _ _ => s1.answerLane id x r1 tid
    | .record tid => s1.answerLane id x r1 tid
    | .ray tid late run => s1.rayAnswered id x tid late run r1
    | .probe late d =>
      let v : Word := match r1 with | .fault k _ => k.zeroExtend 32 | _ => 0
      (s1.endTx id).modTeam x.team fun T => { T with steer := T.steer.due late [(d, v)] }
    | .grant late d box sender n =>
      (s1.endTx id).grantAnswered x.team late d box sender n (match r1 with | .ack => 0 | .fault k q => if k = Code.windowKey ∧ q = 1 then 2 else 1 | _ => 1)
    | .engine i u _ =>
      (match s1.ownerEng x with
       | none => s1.endTx id
       | some e =>
         if e.cmd.isColl then s1.collAnswered id x i u r1
         else if x.ahead then s1.endTx id
         else s1.modTx id fun y => { y with answer := some r1, fill := none })
    | .piece _ _ => s1

/-- An answer arrives: it is kept, then given. -/
def State.answerWhole (s : State) (id : Nat) (x : Tx) (r : TxReply) : State :=
  let x1 := { x with answer := some r }
  (s.modTx id fun _ => x1).deliver id x1 r

/-- The pieces of a transaction, in order. -/
def State.piecesOf (s : State) (p : Nat) : List Tx :=
  (s.txs.filter fun y => match y.2.owner with | .piece q _ => q == p | _ => false).map Prod.snd

/-- The answer of a transaction from those of its pieces: no line where a page has RRC clear, else a fault of the first that has one, else
non-resident, else the bytes (R107, R114, R349). -/
def joinReplies (rs : List TxReply) : TxReply :=
  if rs.contains (.data []) then .data []
  else
    match rs.find? fun r => match r with | .fault _ _ => true | .aborted _ _ _ _ => true | _ => false with
    | some r => r
    | none =>
      if rs.contains .nonres then .nonres
      else if rs.all fun r => match r with | .data _ => true | _ => false then .data (rs.flatMap fun r => match r with | .data bs => bs | _ => [])
      else .ack

/-- An answer arrives; with that of its last piece a transaction is answered. -/
def State.answer (s : State) (id : Nat) (x : Tx) (r : TxReply) : State :=
  match x.owner with
  | .piece p _ =>
    let s1 := s.modTx id fun y => { y with answer := some (y.part r) }
    (match Map.find? s1.txs p with
     | none => s1.endTx id
     | some y => if (s1.piecesOf p).any fun z => z.answer.isNone then s1 else s1.answerWhole p y (joinReplies ((s1.piecesOf p).filterMap Tx.answer)))
  | _ => s.answerWhole id x r

/-- A transaction may be answered now: it was sent, or it is for this K9 itself; no earlier one stands before it (R108, R362). -/
def State.answerable (s : State) (id : Nat) (x : Tx) : Bool :=
  x.answer.isNone && !x.split && !s.txBehind id x && (x.own s.cfg.aid || (s.portsOpen && (x.pod.isSome || x.station.isSome)))

/-- A kept answer that its thread could not take yet is given again. -/
def State.redeliver (s : State) (id : Nat) : State :=
  match Map.find? s.txs id with
  | some x => (match x.answer, x.owner with
      | _, .engine _ _ _ => s
      | some r, _ => s.deliver id x r
      | none, _ => s)
  | none => s

/-- A request as its target performs it: an access (R361), a message of Opal's (R450), a grant (R410); none while it must wait in its receive
queue; of this K9's own the stores that it stands behind (R358). -/
def State.arrive (s : State) (x : InTx) (b : Nat × Nat := (0, 0)) : State × Option TxReply :=
  match x.op, x.dest with
  | .rtr m, _ => let r := s.rtrArrive m; (r.1, some r.2)
  | .done m d, _ => let r := s.transferArrive m d; (r.1, some r.2)
  | .store d, .stage c a g q => let r := s.stageArrive c a g q d; (r.1, some r.2)
  | .query g q, .stage c _ _ _ => (s, some (s.collState c g q))
  | .note (.slotBack c b), _ => ((s.uncredit x.sender c b).serveSend x.sender c b, some .ack)
  | .note (.boxClosed c b), _ => if s.recordAhead x.sender c b then (s, none) else (s.closeBox x.sender c b, some .ack)
  | .note (.collAbort c g q cause code rank nr), _ => (s.abortArrive c g q ⟨cause, code, rank, nr⟩, some .ack)
  | .grant n, .box c _ b _ =>
    (match s.addCredit x.sender c b n with
     | some s1 => (s1, some .ack)
     | none => (s, some (.fault Code.slotGrant 0)))
  | _, .stage _ _ _ _ => (s, some (.fault Code.windowKey 0))
  | _, _ => s.inbound x b

/-- The answer comes to a transaction whose thread has gone on ahead of it, and is one that would stop the thread (log entry 10). -/
def Tx.belies (x : Tx) (r : TxReply) : Bool := x.ahead && (match r with | .fault _ _ => true | _ => false)

/-- The target's party is not there: the request is sent again, with no limit of time (R411, R450); one to another pod that no entry of the
endpoint table reaches any more aborts its instance with cause LOCAL (R511). -/
def State.sendAgain (s : State) (id : Nat) (x : Tx) : State :=
  match x.owner, x.pod.map fun p => s.endpoint p x.target with
  | .engine i _ _, some none => (s.endTx id).collFail x.team i 3 { code := Code.collAbort } none
  | _, _ => s.putTx id { x with told := true, station := none }

/-- WINDOW_REPLY (R336): an access to this K9 itself is performed here (R108); an answer that has come and could not be taken is given
again. -/
def execWindowReply (id : Nat) (r : TxReply) (s : State) : Res :=
  match Map.find? s.txs id with
  | none => .next s
  | some x =>
    if x.answer.isSome then .next (s.redeliver id)
    else if !s.answerable id x then .next s
    else if x.own s.cfg.aid then
      match s.arrive (s.ownTx x) (s.ownBehind id x) with
      | (s1, some .wait) => .next (s1.modTx id fun y => { y with told := true })
      | (s1, some a) => if x.belies a then .next s else .next (s1.answer id x a)
      | (s1, none) => .next s1
    else if r = .wait then .next (s.sendAgain id x)
    else if x.belies r then .next s
    else .next (s.answer id x r)

/-- WINDOW_TIMEOUT (R107): 100 µs without an answer; a request whose target waits is not timed (R411, R450). -/
def execWindowTimeout (id : Nat) (s : State) : Res :=
  match Map.find? s.txs id with
  | none => .next s
  | some x =>
    if x.answer.isSome || x.split || x.told || x.ahead || decide (s.clock < x.sentAt + usTicks 100) then .next s
    else
      let w := s.wholeOf id x
      match w.2.owner, (s.ownerEng w.2).map fun e => e.cmd.isColl with
      | .engine i u _, some true => .next (s.collSilent w.1 w.2 i u)
      | _, _ => .next (s.answer id x (.fault Code.windowKey 1))

/-! ## Inbound transactions (R104, R114, R361) -/

/-- The device's format (R104, R114): 1 to 128 bytes, naturally aligned, in one line; a record is 64 bytes (R408); a signal done may bring no
bytes, and the other messages between devices are one cell. -/
def InTx.formatOk (x : InTx) : Bool :=
  let n := x.op.len
  let whole := decide (n ∈ [1, 2, 4, 8, 16, 32, 64, 128]) && decide (x.dest.addr % n = 0)
  match x.op with
  | .load _ _ => whole
  | .store _ => whole
  | .atomic _ _ _ _ _ => whole
  | .probe => whole
  | .record d => d.length == 64
  | .done _ d => d.isEmpty || whole
  | .rtr _ => true
  | .grant _ => true
  | .query _ _ => true
  | .note _ => true

/-- The number of a station's receive queue of a class (R113). -/
def queueAt (i cls : Nat) : Nat := 4 * i + cls

/-- The oldest cell of a receive queue leaves it for memory or scratchpad, and its reply goes out on the same station in its class (R105, R110,
R113, R361). -/
def State.receive (s : State) (q : Nat) : State :=
  match Map.get [] s.rxq q with
  | [] => s
  | x :: rest =>
    match s.arrive x with
    | (s1, some r) =>
      { s1 with rxq := Map.set [] s1.rxq q rest,
                cells := s1.cells ++ (if x.op.isNote then [] else [⟨.reply r, q % 4, x.sender, q / 4, false⟩]) }
    | (_, none) => s

/-- A cell comes in on a station (R103, R104, R113): it enters the station's queue of its class, and is performed when it is the oldest and can
be; a full queue of 256 takes none. -/
def State.takeCell (s : State) (x : InCell) : State :=
  let q := Machine.queueAt x.station.toNat x.cls.toNat
  let l := Map.get [] s.rxq q
  if !s.portsOpen || !s.pod.up.getLsbD x.station.toNat then s
  else if !InTx.formatOk x.tx then s.modPod fun p => { p with drop := if p.drop = 0xFFFFFFFF then p.drop else p.drop + 1 }
  else if 256 ≤ l.length then s
  else
    let s1 := { s with rxq := Map.set [] s.rxq q (l ++ [x.tx]) }
    if l.isEmpty then s1.receive q else s1

/-- INBOUND_TRANSACTION (R104, R113). -/
def execInboundTransaction (x : InCell) (s : State) : Res := .next (s.takeCell x)

/-- A message about a box comes in, in class RWR (R110). -/
def State.takeRwr (s : State) (src : RecordSource) (ctx : CtxId) (key : Word) (box : Nat) (op : TxOp) : State :=
  s.takeCell ⟨src.station, 1, src.sender, 0, .box ctx key box (64 * box), op⟩

/-- GRANT_MESSAGE (R410): the sender's K9 takes the grant, or refuses it, and answers. -/
def execGrantMessage (src : RecordSource) (ctx : CtxId) (box : BitVec 8) (n : Nat) (s : State) : Res :=
  .next (s.takeRwr src ctx 0 box.toNat (.grant n))

/-- RECORD_LAND (R411, R68). -/
def execRecordLand (src : RecordSource) (ctx : CtxId) (key : Word) (box : BitVec 8) (data : List Byte) (s : State) : Res :=
  .next (s.takeRwr src ctx key box.toNat (.record data))

/-- SLOT_RETURN (R412). -/
def execSlotReturn (src : RecordSource) (ctx : CtxId) (box : BitVec 8) (s : State) : Res :=
  .next (s.takeRwr src ctx 0 box.toNat (.note (.slotBack ctx box.toNat)))

/-- CLOSE_NOTICE (R411). -/
def execCloseNotice (src : RecordSource) (ctx : CtxId) (box : BitVec 8) (s : State) : Res :=
  .next (s.takeRwr src ctx 0 box.toNat (.note (.boxClosed ctx box.toNat)))

/-- A message of Opal's comes in, in class COMP (R110). -/
def State.takeComp (s : State) (src : RecordSource) (ctx : CtxId) (a : Nat) (g : BitVec 8) (seq : BitVec 16) (op : TxOp) : State :=
  s.takeCell ⟨src.station, 0, src.sender, 0, .stage ctx a g seq, op⟩

/-- READY_TO_RECEIVE (R441, R450): from another pod it comes by the Ultra Ethernet Transport, and so does its answer (R115). -/
def execReadyToReceive (m : CollMsg) (s : State) : Res :=
  if m.xp then .next (if s.portsOpen then let r := s.rtrArrive m; r.1.answerFar m.ctx m.grp m.seq m.rank r.2 else s)
  else .next (s.takeComp ⟨m.station, m.sender⟩ m.ctx m.stage.toNat m.grp m.seq (.rtr m))

/-- TRANSFER_DONE (R450, R451). -/
def execTransferDone (m : CollMsg) (data : List Byte) (s : State) : Res :=
  if m.xp then .next (if s.portsOpen then let r := s.transferArrive m data; r.1.answerFar m.ctx m.grp m.seq m.rank r.2 else s)
  else .next (s.takeComp ⟨m.station, m.sender⟩ m.ctx m.stage.toNat m.grp m.seq (.done m data))

/-- COLL_QUERY (R441, R460). -/
def execCollQuery (ctx : CtxId) (g : BitVec 8) (seq : BitVec 16) (asker : CollAsker) (s : State) : Res :=
  match asker.via with
  | some src => .next (s.takeComp src ctx 0 g seq (.query g seq))
  | none => .next (if s.portsOpen then s.answerFar ctx g seq asker.rank (s.collState ctx g seq) else s)

/-- COLL_ABORT (R460). -/
def execCollAbort (at0 : AbortAt) (g : BitVec 8) (seq : BitVec 16) (cause : BitVec 3) (code : BitVec 8) (rank : Nat) (norank : Bool)
    (s : State) : Res :=
  match at0.via with
  | some src => .next (s.takeComp src at0.ctx 0 g seq (.note (.collAbort at0.ctx g seq cause code rank norank)))
  | none => .next (s.abortArrive at0.ctx g seq ⟨cause, code, rank, norank⟩)

/-! ## Device time (R116-R118) -/

/-- Two counts within a bound of each other. -/
def within (a b : DWord) (n : Nat) : Bool := decide (a.toNat ≤ b.toNat + n ∧ b.toNat ≤ a.toNat + n)

/-- Acquisition (R116, R117): the count is brought to the median. -/
def State.acquire (s : State) (m : DWord) : State :=
  if s.dtime.ult m then
    { s with dtime := m, pod := { s.pod with acquired := true, goodRun := 0, lastMedian := some m, steps := s.pod.steps + 1 } }
  else s.modPod fun p => { p with acquired := true, goodRun := 0, lastMedian := some m, hold := if m.ult s.dtime then some m else none }

/-- After acquisition (R116, R117): lock after four good periods; the count is slewed by one ns, at most once in 5 µs. -/
def State.track (s : State) (m : DWord) : State :=
  let run := if within m s.dtime 20 then s.pod.goodRun + 1 else 0
  let due := decide (s.pod.slewAt + usTicks 5 ≤ s.clock) && s.pod.hold.isNone && m != s.dtime
  let s1 := s.modPod fun p => { p with lastMedian := some m, goodRun := run, lock := p.lock || decide (4 ≤ run) }
  if !due then s1
  else if s.dtime.ult m then { s1 with dtime := s1.dtime + 1, pod := { s1.pod with slewAt := s.clock } }
  else s1.modPod fun p => { p with slewAt := s.clock, hold := some (s.dtime - 1) }

/-- The median of some counts; of an even number the mean of the middle two (log entry 83). -/
def medianOf (xs : List Nat) : Option Nat :=
  let l := sortBy id xs
  match l[(l.length - 1) / 2]?, l[l.length / 2]? with
  | some a, some b => some ((a + b) / 2)
  | _, _ => none

/-- A period's median: over the stations that are up, each beacon corrected for the link delay measured at training (R116). -/
def Pod.median (p : Pod) (beacons : List (Nat × DWord)) : Option DWord :=
  (medianOf ((beacons.filter fun b => p.up.getLsbD b.1).map fun b => (b.2 + BitVec.ofNat 64 (Map.get 0 p.delay b.1)).toNat)).map (BitVec.ofNat 64)

/-- A period has passed with no beacon since the last one: the periods are not consecutive (R116). -/
def State.missedBeacon (s : State) : Bool := decide (s.pod.lastBeacon + nsTicks 1500 < s.clock)

/-- TIME_BEACON (R116, R117): the beacons of a period by station, and whether the switches are locked to IEEE 1588. -/
def execTimeBeacon (beacons : List (Nat × DWord)) (xpod : Bool) (s : State) : Res :=
  match (if s.portsOpen then s.pod.median beacons else none) with
  | none => .next s
  | some m =>
    let s0 := if s.missedBeacon then s.modPod fun p => { p with goodRun := 0, lastMedian := none } else s
    let s1 := s0.modPod fun p => { p with xpod := xpod, lastBeacon := s.clock, offs := (s.dtime - m).truncate 32 }
    if s.pod.acquired then .next (s1.track m)
    else
      let good := match s0.pod.lastMedian with | some l => l.ult m && within (m - l) 1000 20 | none => false
      let run := if good then s0.pod.goodRun + 1 else 0
      if run = 4 then .next (s1.acquire m) else .next (s1.modPod fun p => { p with lastMedian := some m, goodRun := run })

/-- BEACON_LOSS (R118): 10 µs without a beacon. -/
def execBeaconLoss (s : State) : Res :=
  if s.pod.lastBeacon + usTicks 10 ≤ s.clock then .next (s.modPod fun p => { p with lock := false, goodRun := 0 }) else .next s

end Sys2Proof.Machine
end

