-- ==== Sys2Proof/Machine/Fetch.lean ====
section
/-! DEFINITION. What is no instruction (R192-R194): the party that meets it stops, and the latches that its word consumes. -/

namespace Sys2Proof.Machine

/-- The latches that the word under the steering thread consumes, its guard not skipping it: an engine command both, a LAUNCH the arm latch (R91,
R421). -/
def Steer.useLatches (st : Steer) : Steer :=
  match st.clause.bind fun c => (c.slots[st.pos.k]?).map fun x => (c, x) with
  | some (c, .word w e) =>
    if c.gen && (Slot.word w e).guarded .steer && !st.g then st
    else if [0x30, 0x31, 0x32, 0x38].contains (Dec.op w).toNat then st.unlatched
    else if (Dec.op w).toNat = 0x40 then { st with armt := none }
    else st
  | _ => st

/-- RESERVED_ENCODING (R192-R194): the party stops with the code. -/
def execReservedEncoding (code : BitVec 8) (s : State) : Res :=
  match s.cur with
  | some (.steer _) => s.steer fun t T st => .next (s.stopSteer t { T with steer := st.useLatches } { code := code })
  | _ => s.lane fun t T tid th => .next (s.stopLane t T tid th { code := code })

end Sys2Proof.Machine
end

