-- ==== Sys2Proof/Machine/Sched.lean ====
section
/-! DEFINITION. The scheduler's events (R209-R211, R222, R223), late results (R185), join timeouts (R226), failing claims (R433, R434) and
the polls of CWAIT (R426). -/

namespace Sys2Proof.Machine

/-! ## Late results (R185, R186, R299) -/

/-- A register that a wave holds in its operand latch is written: its entry is cleared (R215). -/
def Part.unlatch (x : Part) (t tid : Nat) (regs : List Nat) : Part :=
  { x with waves := x.waves.map fun w =>
      (w.1, if w.2.team = t ∧ tid ∈ w.2.tids then { w.2 with latch := w.2.latch.filter fun e => !regs.contains e.1 } else w.2) }

/-- LATE_RESULT_WRITE (R185): the values that are due are written. -/
def execLateResultWrite (p : Party) (id : Nat) (s : State) : Res :=
  match p with
  | .steer t => .next (s.modTeam t fun T => { T with steer := T.steer.landLate id })
  | .lane t tid =>
    let s1 := s.modThread t tid fun th => th.landLate id
    match s.team? t with
    | none => .next s1
    | some T =>
      match T.core?, T.thread? tid with
      | some c, some th =>
        let regs := (th.late.filter fun l => l.id == id && l.st == .due).flatMap fun l => l.regs.map Prod.fst
        .next (s1.setPart c th.part ((s1.part c th.part).unlatch t tid regs))
      | _, _ => .next s1

/-- A thread waits behind the shadow of an outstanding result (R186). -/
def Thread.waitsLate (th : Thread) : Bool := th.late.any fun l => l.shadow == 0 && l.st != .done

/-- Results still outstanding (R173). -/
def Thread.outstanding (th : Thread) : Nat := (th.late.filter fun l => l.st != .done).length

/-! ## Waves (R204, R209-R211) -/

/-- The age of a wave: the least entry timestamp of its threads (R210). -/
def State.waveAge (s : State) (w : Wave) : Nat :=
  match s.team? w.team with
  | some T => ((w.tids.filterMap fun i => (T.thread? i).map Thread.stamp).min?).getD 0
  | none => 0

/-- 1,024 and 4,096 aclk in ticks (R211). -/
def aclkTicks (n : Nat) : Nat := n * Config.ticksPerAclk

/-- An active wave that has been ready for 1,024 aclk without issuing: it counts as the oldest (R211). -/
def State.starved (s : State) (w : Wave) : Bool := w.active && decide (w.readySince + aclkTicks 1024 ≤ s.clock)

/-- The waves of a partition by age, the oldest first; ties by lower slot (R210, R211). -/
def State.wavesByAge (s : State) (x : Part) : Map Wave :=
  let ws := sortBy (fun (w : Nat × Wave) => s.waveAge w.2) x.waves
  (ws.filter fun w => s.starved w.2) ++ ws.filter fun w => !s.starved w.2

/-- The clause at which a wave stands: fetched at its entry, kept while the wave is inside it (R34, R174). -/
def State.waveClause (s : State) (T : Team) (w : Wave) : State × (Clause ⊕ Trap) :=
  match w.clause with
  | some cl => (s, .inl cl)
  | none => s.fetchClause T .lane w.pos.h

/-- The instruction at slot `k` of a clause waits on an outstanding result of a thread: WAITLL at the clause's start, a shadow that has run
out, or an instruction that waits for all of them (R173, R186, R205). -/
def Thread.waitsResult (th : Thread) (cl : Clause) (k : Nat) : Bool :=
  (k == 0 && cl.waitll != 15 && decide (cl.waitll < th.outstanding)) || th.waitsLate ||
    (match cl.slots[k]? with
     | some x =>
       (match x.instr .lane with
        | .rrel _ _ _ => decide (0 < th.outstanding)
        | .stat _ _ => decide (0 < th.outstanding)
        | _ => false)
     | none => false)

/-- The wave's next instruction waits on a long-latency result (R209). -/
def State.waveWaits (s : State) (w : Wave) : Bool :=
  match s.team? w.team with
  | some T =>
    w.tids.any fun i =>
      match T.thread? i with
      | some th => (match (s.waveClause T w).2 with | .inl cl => th.waitsResult cl w.pos.k | .inr _ => false)
      | none => false
  | none => false

/-- Exchange an active and a pending wave. -/
def Part.swap (x : Part) (a b : Nat) : Part :=
  { x with waves := (Map.modify x.waves a fun w => { w with active := false, yielded := false }) |> fun m => Map.modify m b fun w => { w with active := true } }

/-- WAVE_SWAP (R209): the youngest active wave that waits on a result, or that has yielded, against the oldest ready pending wave. -/
def execWaveSwap (core : BitVec 8) (part : BitVec 2) (s : State) : Res :=
  let x := s.part core.toNat part.toNat
  let ws := s.wavesByAge x
  let ready := List.find? (fun (w : Nat × Wave) => !w.2.active && !s.waveWaits w.2) ws
  let out := List.find? (fun (w : Nat × Wave) => w.2.active && (s.waveWaits w.2 || w.2.yielded)) ws.reverse
  match ready, out with
  | some b, some a => .next (s.setPart core.toNat part.toNat (x.swap a.1 b.1))
  | some b, none =>
    if (x.waves.filter fun w => w.2.active).length < Config.activeWaves then
      .next (s.setPart core.toNat part.toNat { x with waves := Map.modify x.waves b.1 fun w => { w with active := true } })
    else .next s
  | _, _ => .next s

/-- STARVATION_PROMOTE (R211): a pending wave that has been ready for 1,024 aclk takes the place of the youngest active wave; an active one
of that age is the oldest of its partition (`State.wavesByAge`). -/
def execStarvationPromote (core : BitVec 8) (part : BitVec 2) (s : State) : Res :=
  let x := s.part core.toNat part.toNat
  let ws := s.wavesByAge x
  let stuck := List.find? (fun (w : Nat × Wave) => !w.2.active && !s.waveWaits w.2 && decide (w.2.readySince + aclkTicks 1024 ≤ s.clock)) ws
  let out := List.find? (fun (w : Nat × Wave) => w.2.active) ws.reverse
  match stuck, out with
  | some b, some a => .next (s.setPart core.toNat part.toNat (x.swap a.1 b.1))
  | _, _ => .next s

/-- The order in which a partition's active waves are tried: those ready for 1,024 aclk, then by age (R210, R211). -/
def State.issueOrder (s : State) (c p : Nat) : List Nat :=
  ((s.wavesByAge (s.part c p)).filter fun w => w.2.active).map Prod.fst

/-! ## The wave former (R211, R222, R223, R127) -/

/-- Threads of a team in a partition. -/
def Team.inPart (T : Team) (p : Nat) : Bool := T.threads.any fun e => e.2.live && e.2.part == p

/-- The slots that other teams of the core still have reserved for them in a partition: each resident team with a thread there and no
wave there (R127). -/
def State.slotsOwed (s : State) (c p t : Nat) : Nat :=
  let x := s.part c p
  ((s.teamsOn c).filter fun e => e.1 != t && e.2.inPart p && !(x.waves.any fun w => w.2.team == e.1)).length

/-- A free slot that a group of a team may use. -/
def State.slotFor (s : State) (c p t : Nat) : Option Nat :=
  let x := s.part c p
  let own := !(x.waves.any fun w => w.2.team == t)
  if own || decide (s.slotsOwed c p t < Config.waveSlots - x.waves.length) then lowestFree (x.waves.map Prod.fst) 0 Config.waveSlots else none

/-- A group may be emitted: it is full, released by a join, or 64 aclk past its last arrival (R222); a team that is being saved emits none (R476). -/
def State.ripeGroup (s : State) (g : Group) : Bool :=
  (g.joined || decide (32 ≤ g.tids.length) || decide (g.last + aclkTicks 64 ≤ s.clock)) &&
    (match s.team? g.team with | some T => T.phase == .running && !T.killed | none => false)

/-- Threads enter a wave. -/
def Team.toWave (T : Team) (tids : List Nat) : Team := tids.foldl (fun T i => T.modThread i fun th => { th with st := .wave }) T

/-- The `i`-th group of a former becomes the wave of slot `k`; a spilled group may come back in its stead (R222, R223). -/
def State.emitAt (s : State) (c p i k : Nat) : State :=
  let x := s.part c p
  match x.former[i]? with
  | none => s
  | some g =>
    let w : Wave := ⟨g.team, g.tids, g.pos, none, decide ((x.waves.filter fun w => w.2.active).length < Config.activeWaves), false, s.clock, s.clock, []⟩
    ((s.setPart c p { x with waves := Map.put x.waves k w, former := x.former.eraseIdx i }).modTeam g.team fun T => T.toWave g.tids).unspill c p

/-- THE EMISSION of the `i`-th group of a former as a wave (R222). -/
def State.emit (s : State) (c p i : Nat) : State :=
  match (s.part c p).former[i]? with
  | none => s
  | some g => match s.slotFor c p g.team with | none => s | some k => s.emitAt c p i k

/-- The first group that may be emitted and has a slot. -/
def State.emitNext (s : State) (c p : Nat) : Option Nat :=
  let x := s.part c p
  (span 0 x.former.length).find? fun i =>
    match x.former[i]? with | some g => s.ripeGroup g && (s.slotFor c p g.team).isSome | none => false

/-- FORMER_EMIT_TIMEOUT (R222). -/
def execFormerEmitTimeout (core : BitVec 8) (part : BitVec 2) (s : State) : Res :=
  match s.emitNext core.toNat part.toNat with
  | some i => .next (s.emit core.toNat part.toNat i)
  | none => .next s

/-- The wave slots that a group of a team may take from their waves: those of its own team, and of another team all but the one that is reserved
for it, which it has held longest (R127, R211). -/
def State.mayTake (s : State) (c p t : Nat) : Map Wave :=
  let ws := (s.part c p).waves
  ws.filter fun w => w.2.team == t ||
    ws.any fun o => o.2.team == w.2.team && (decide (o.2.heldSince < w.2.heldSince) || (o.2.heldSince == w.2.heldSince && decide (o.1 < w.1)))

/-- The threads of a wave that has given up its slot at a clause boundary return to the former (R211). -/
def State.requeue (s : State) (p : Nat) (w : Wave) : State :=
  match s.team? w.team with
  | none => s
  | some T =>
    let T1 := w.tids.foldl (fun T i => T.modThread i fun th => th.enterFormer th.pos) T
    (s.setTeam w.team T1).formerAdd T1 w.team w.tids w.pos p false

/-- The wave slot that the `i`-th group of a former takes from its wave: the group may be emitted and finds no slot, and of the slots that it may
use that one has been held longest, for 4,096 aclk or more, its wave at a clause boundary (R211). -/
def State.reclaimFor (s : State) (c p i : Nat) : Option (Nat × Wave) :=
  ((s.part c p).former[i]?).bind fun g =>
    if s.ripeGroup g && (s.slotFor c p g.team).isNone then
      ((sortBy (fun (w : Nat × Wave) => w.2.heldSince) (s.mayTake c p g.team)).head?).filter fun w =>
        decide (w.2.heldSince + aclkTicks 4096 ≤ s.clock ∧ w.2.pos.k = 0)
    else none

/-- SLOT_RECLAIM (R211): the first group that can take a slot takes it. -/
def execSlotReclaim (core : BitVec 8) (part : BitVec 2) (s : State) : Res :=
  let c := core.toNat
  let p := part.toNat
  let x := s.part c p
  match (span 0 x.former.length).findSome? fun i => (s.reclaimFor c p i).map fun w => (i, w) with
  | none => .next s
  | some (i, k, w) => .next (((s.setPart c p { x with waves := Map.erase x.waves k }).emitAt c p i k).requeue p w)

/-! ## Joins (R226, R227) -/

/-- JOIN_TIMEOUT (R226): the tests of a slot, which the device makes at the end of each aclk (`State.endJoins`). -/
def execJoinTimeout (t : Nat) (j : BitVec 4) (s : State) : Res :=
  match s.team? t with
  | none => .next s
  | some T => if T.core?.isSome && T.phase == .running then .next (s.testJoin t j.toNat) else .next s

/-- The end of an aclk: every armed slot of a resident, running team is tested, after all that the aclk has done (R226, R227). -/
def State.endJoins (s : State) : State :=
  s.teams.foldl (fun s e =>
    if e.2.core?.isSome && e.2.phase == .running then (e.2.joins.map Prod.fst).foldl (fun s j => s.testJoin e.1 j) s else s) s

/-! ## Claims that fail (R433, R434) -/

/-- A lane thread's wait that counts as stuck (R433). -/
def Team.laneStuck (T : Team) (th : Thread) : Bool :=
  match th.st with
  | .parked (.claim _) => true
  | .parked (.barrier _ _) => true
  | .parked (.redq _ _ _) => true
  | .parked (.queue _ _) => !(T.role th.role).dq.closed
  | .parked (.join j _) => (T.join j).deadline.isNone
  | _ => false

/-- The steering thread's part of R433. -/
def Team.steerStuck (T : Team) : Bool :=
  match T.steer.st with
  | .done => true
  | .blocked (.aclaim _ _ _ _) => true
  | .blocked (.sbarw k token _) => (T.bar k).ph == token
  | .blocked (.qrd q seq) => decide (2 ^ 15 ≤ ((Map.get (0, 0) T.q q).2 - seq).toNat)
  | .blocked (.dqpush k) => decide (32 ≤ (T.role k).dq.tail - (T.role k).dq.head)
  | _ => false

/-- A team is stuck (R433); a faulted command keeps it from that (log entry 86). -/
def Team.stuck (T : Team) : Bool :=
  T.core?.isSome && T.phase == .running && !T.killed && (T.threads.filter fun e => e.2.live).all (fun e => T.laneStuck e.2) && T.steerStuck &&
    T.eng.all fun e => match e.2.st with | .armed _ => true | _ => false

/-- The team's ACLAIM is pending. -/
def Team.aclaims (T : Team) : Bool := match T.steer.st with | .blocked (.aclaim _ _ _ _) => true | _ => false

/-- The team has a pending claim. -/
def Team.claims (T : Team) : Bool := T.aclaims || T.roles.any fun r => !r.claim.isEmpty

/-- A pending ACLAIM fails: its register takes all ones and the thread goes on behind it (R391, R433). -/
def Steer.failAclaim (st : Steer) : Steer :=
  match st.st with
  | .blocked (.aclaim _ d _ next) => (st.setReg d 0xFFFFFFFF).goOn next
  | _ => st

/-- The report of claims that fail (Table 20.1): a record of the team. -/
def State.reportDead (s : State) (t : Nat) : State :=
  match s.team? t with
  | some T => s.report (T.engRec 5 0 { code := Code.claimDeadlock })
  | none => s

/-- Every pending claim of a team fails at one event, CLAIM_DEADLOCK is set and reported (R433). -/
def State.failClaims (s : State) (t : Nat) : State :=
  match s.team? t with
  | none => s
  | some T =>
    let s1 := ((span 0 T.roles.length).filter fun k => !(T.role k).claim.isEmpty).foldl (fun s k => s.endClaim t k false) s
    let s2 := (s1.modTeam t fun T => { T with steer := T.steer.failAclaim, dead := true, stuckSince := none }).reportDead t
    -- another team's ACLAIM may be the oldest now (R391, R432)
    match T.core? with | some c => s2.grantAclaims c 16 | none => s2

/-- CLAIM_DEADLOCK (R433): the first look at a stuck team notes the time, a look 10 µs later fails its claims. -/
def execClaimDeadlock (t : Nat) (s : State) : Res :=
  match s.team? t with
  | none => .next s
  | some T =>
    if !T.stuck || !T.claims then .next (s.modTeam t fun T => { T with stuckSince := none })
    else if (span 0 T.roles.length).any (fun k => (s.claimStep t k).isSome) then .next (s.reconsiderFor t)
    else if T.aclaims && s.aclaimFits (T.core?.getD 0) then .next ((s.modTeam t fun T => { T with stuckSince := none }).grantAclaims (T.core?.getD 0) 16)
    else
      match T.stuckSince with
      | none => .next (s.modTeam t fun T => { T with stuckSince := some s.clock })
      | some x => if x + usTicks 10 ≤ s.clock then .next (s.failClaims t) else .next s

/-- The teams of a core that hold a tile; one that is being saved gives them back (R434). -/
def State.tileHolders (s : State) (c : Nat) : Map Team := (s.teamsOn c).filter fun e => !e.2.tiles.isEmpty

/-- TILE_DEADLOCK (R434): no pending ACLAIM can be granted and every team that holds a tile waits in ACLAIM; the one placed last fails, and the
others are considered again. -/
def execTileDeadlock (core : BitVec 8) (s : State) : Res :=
  let hs := s.tileHolders core.toNat
  if hs.isEmpty || !hs.all (fun e => e.2.aclaims && e.2.phase == .running && !e.2.killed) || s.aclaimFits core.toNat then .next s
  else
    match (sortBy (fun (e : Nat × Team) => e.2.placedAt) hs).getLast? with
    | some e =>
      .next (((s.modTeam e.1 fun T => { T with steer := T.steer.failAclaim, dead := true, stuckSince := none }).reportDead e.1).grantAclaims core.toNat 16)
    | none => .next s

/-! ## CWAIT (R426) -/

/-- CWAIT_POLL (R426): a blocked CWAIT reads its word again, also while its team is HELD: it has been issued (R467). -/
def execCwaitPoll (t : Nat) (s : State) : Res := .next (s.pollCwait t)

end Sys2Proof.Machine
end

