-- ==== Sys2Proof/Machine/Latch.lean ====
section
/-! DEFINITION. The operand latch of a wave (R215): which registers an instruction reads, holds and writes at its issue. The latch changes time
only. -/

namespace Sys2Proof.Machine

/-- What an instruction does with registers at its issue: those that it names as sources, those of them that HA or HB holds, those that it writes. -/
structure RegUse where
  reads : List Nat
  holds : List Nat
  writes : List Nat
  deriving DecidableEq, Repr

/-- A register named by HA or HB. -/
def heldIf (h : Bool) (r : Reg) : List Nat := if h then [r.toNat] else []

/-- The register held by HB. -/
def srcHeld (b : Src) : List Nat := match b with | .reg r h => heldIf h r | .imm _ => []
/-- The register held by HB of a floating-point second operand. -/
def fsrcHeld (b : FSrc) : List Nat := match b with | .reg r h => heldIf h r | .xreg _ => [] | .imm _ => []

end Sys2Proof.Machine

namespace Sys2Proof

open Machine

/-- R format; `dsrc`: D is a source too. -/
def R3.use (o : R3) (dsrc : Bool) : RegUse :=
  ⟨o.a.toNat :: srcRegs o.b ++ (if dsrc then [o.d.toNat] else []), heldIf o.ha o.a ++ srcHeld o.b, [o.d.toNat]⟩
/-- R format with D and A only. -/
def R2.use (o : R2) (dsrc : Bool) : RegUse := ⟨o.a.toNat :: (if dsrc then [o.d.toNat] else []), heldIf o.ha o.a, [o.d.toNat]⟩
/-- Floating-point R format. -/
def F3.use (o : F3) (dsrc : Bool) : RegUse :=
  ⟨o.a.toNat :: fsrcRegs o.b ++ (if dsrc then [o.d.toNat] else []), heldIf o.ha o.a ++ fsrcHeld o.b, [o.d.toNat]⟩
/-- Q format: its result comes later. -/
def Q2.use (o : Q2) : RegUse := ⟨[o.a.toNat], [], []⟩

end Sys2Proof

namespace Sys2Proof.Machine

/-- Registers named, none held. -/
def RegUse.plain (reads writes : List Nat) : RegUse := ⟨reads, [], writes⟩

/-- The registers that ATOM and ATW read: the control word and the operands (R332). -/
def atomReads (z : Size) (d : Nat) : List Nat := if Size.wide z then d :: span (d + 2) 4 else span d 3

/-- What a lane instruction does with registers at its issue; late results clear their entries as they are written (LATE_RESULT_WRITE). -/
def regsOf (i : Instr) : RegUse :=
  match i with
  | .iadd o => o.use false | .isub o _ => o.use false | .imul o => o.use false | .imulh o _ => o.use false | .imad o => o.use true
  | .imin o _ => o.use false | .imax o _ => o.use false | .iabs o => o.use false
  | .and o => o.use false | .or o => o.use false | .xor o => o.use false | .andn o => o.use false
  | .shl o => o.use false | .shr o => o.use false | .sar o => o.use false | .rol o => o.use false
  | .bfx o => o.use false | .bfi o => o.use true | .popc o => o.use false | .clz o => o.use false | .brev o => o.use false
  | .icmp _ _ o => ⟨o.a.toNat :: srcRegs o.b, heldIf o.ha o.a ++ srcHeld o.b, []⟩
  | .isel o w _ _ => o.use w.isNone
  | .mov d b => ⟨srcRegs b, srcHeld b, [d.toNat]⟩
  | .movs d _ => .plain [] [d.toNat]
  | .iadd64 o =>
    ⟨[o.a.toNat, o.a.toNat + 1] ++ srcPairRegs o.b, (heldIf o.ha o.a ++ srcHeld o.b).flatMap (fun r => [r, r + 1]), [o.d.toNat, o.d.toNat + 1]⟩
  | .imulw o _ => { o.use false with writes := [o.d.toNat, o.d.toNat + 1] }
  | .pmovGet d => .plain [] [d.toNat]
  | .pmovPut a h => ⟨[a.toNat], heldIf h a, []⟩
  | .setx _ (.reg a h) => ⟨[a.toNat], heldIf h a, []⟩
  | .movx d _ b => ⟨srcRegs b, srcHeld b, [d.toNat]⟩
  | .stx d _ b => ⟨d.toNat :: srcRegs b, srcHeld b, []⟩
  | .fadd o _ => o.use false | .fsub o _ => o.use false | .fmul o _ => o.use false | .ffma o _ => o.use true
  | .fmin o _ => o.use false | .fmax o _ => o.use false
  | .fcmp _ _ o => ⟨o.a.toNat :: fsrcRegs o.b, heldIf o.ha o.a ++ fsrcHeld o.b, []⟩
  | .hcmp2 _ _ o _ => ⟨o.a.toNat :: fsrcRegs o.b, heldIf o.ha o.a ++ fsrcHeld o.b, []⟩
  | .fclass o => o.use false | .frnd o _ => o.use false | .f2i o _ _ => o.use false | .i2f o _ _ => o.use false
  | .fcvt o _ _ hi => o.use hi
  | .hadd2 o _ _ _ => o.use false | .hmul2 o _ _ _ => o.use false | .hfma2 o _ _ _ => o.use true | .hminmax2 o _ _ _ => o.use false
  | .fscale o _ => o.use false | .fexp o _ => o.use false | .fsgn o _ => o.use false
  | .rcp o => o.use | .rsq o => o.use | .sqrt o => o.use | .ex2 o => o.use | .lg2 o => o.use | .sinpi o => o.use | .cospi o => o.use
  | .fdiv o b h => ⟨[o.a.toNat, b.toNat], heldIf h b, []⟩
  | .f8pk o _ _ _ => o.use true | .f4pk o _ _ _ => o.use true | .f8up o _ _ => o.use false | .f4up o _ => o.use false
  | .bmax o => o.use false
  | .qdot8 o => ⟨[o.a.toNat, o.b.toNat, o.s.toNat, o.d.toNat], heldIf o.ha o.a, [o.d.toNat]⟩
  | .qdot4 o => ⟨[o.a.toNat, o.b.toNat, o.s.toNat, o.d.toNat], heldIf o.ha o.a, [o.d.toNat]⟩
  | .dxexp o _ _ => o.use false
  | .dxdec o _ _ r _ => { o.use false with reads := [o.a.toNat, r.toNat] }
  | .ld m => .plain (mRegs m) []
  | .lds m => .plain [m.a.toNat] []
  | .st m => .plain (mRegs m ++ span m.d.toNat m.sz.regs) []
  | .sts m => .plain (m.a.toNat :: span m.d.toNat m.sz.regs) []
  | .atom m => .plain (mRegs m ++ atomReads m.sz m.d.toNat) []
  | .atomf m => .plain (mRegs m ++ [m.d.toNat]) []
  | .atomx m => .plain (mRegs m ++ [m.d.toNat, m.d.toNat + 1]) []
  | .rreq m => .plain (mRegs m) []
  | .pref m => .plain (mRegs m) []
  | .ldw m => .plain [m.a.toNat, m.a.toNat + 1] []
  | .stw m => .plain ([m.a.toNat, m.a.toNat + 1] ++ span m.d.toNat m.sz.regs) []
  | .atw m => .plain ([m.a.toNat, m.a.toNat + 1] ++ atomReads m.sz m.d.toNat) []
  | .mcst m => .plain ([m.a.toNat, m.a.toNat + 1] ++ span m.d.toNat m.sz.regs) []
  | .rwsend m => .plain ([m.a.toNat, m.a.toNat + 1] ++ span m.d.toNat 16) []
  | .fadv _ _ b => ⟨srcRegs b, srcHeld b, []⟩
  | .fcnt d _ _ => .plain [] [d.toNat]
  | .calli a _ => .plain [a.toNat] []
  | .join a _ _ => .plain [a.toNat] []
  | .spawn a _ _ => .plain (span a.toNat 9) [a.toNat]
  | .redq _ _ a h => ⟨[a.toNat], heldIf h a, []⟩
  | .dqpop d _ => .plain [] [d.toNat]
  | .rclaim _ b => ⟨srcRegs b, srcHeld b, []⟩
  | .rrel _ b _ => ⟨srcRegs b, srcHeld b, []⟩
  | .trdy a h b => ⟨a.toNat :: srcRegs b, heldIf h a ++ srcHeld b, []⟩
  | .rayq _ a _ b _ _ => .plain (span a.toNat 8 ++ [b.toNat, b.toNat + 1]) []
  | .srd d x => .plain [] (if x = .dtime then [d.toNat, d.toNat + 1] else [d.toNat])
  | .stat d _ => .plain [] [d.toNat]
  | _ => .plain [] []

/-- The register that MOVX or STX reaches in a thread (R263). -/
def Thread.reached (th : Thread) (i : Instr) : Option Nat :=
  match i with
  | .movx _ n b => some ((th.index n.toNat).1 + (srcVal b th).toNat)
  | .stx _ n b => some ((th.index n.toNat).1 + (srcVal b th).toNat)
  | _ => none

/-- The operand latch after an instruction that threads of the wave performed (R215): a source that it holds serves the next two that name it,
also through an index register; a fourth entry evicts the oldest; a register written is held no more. -/
def latchAfter (m : List (Nat × Nat)) (i : Instr) (reached : List Nat) : List (Nat × Nat) :=
  let u := regsOf i
  let reads := u.reads ++ (match i with | .movx _ _ _ => reached | _ => [])
  let writes := u.writes ++ (match i with | .stx _ _ _ => reached | _ => [])
  let used := (m.map fun e => if reads.contains e.1 then (e.1, e.2 - 1) else e).filter fun e => e.2 != 0
  let all := used.filter (fun e => !u.holds.contains e.1) ++ u.holds.eraseDups.map fun r => (r, 2)
  (all.drop (all.length - 3)).filter fun e => !writes.contains e.1

end Sys2Proof.Machine
end

