-- ==== Sys2Proof/Machine/Host.lean ====
section
/-! DEFINITION. The host's side of the device (4.8): RDMA on the connections (R98-R100, R115), the device control page (Table 4.9), the team
status query (R101), the tail notices of the two rings (R331, R472). -/

namespace Sys2Proof.Machine

/-! ## Connections and regions (R98-R100) -/

/-- The open connection that a queue pair number names; entry 0 is never valid (R98). -/
def State.conn? (s : State) (n : Nat) : Option Conn :=
  if n = 0 then none else (Map.find? s.conns n).bind fun c => if c.valid then some c else none

/-- A region that a request addresses. -/
inductive Region where | memory | control
  deriving DecidableEq, Repr

/-- The region that a key names on a connection: none is a remote-access error (R99, R100). -/
def Conn.region (c : Conn) (key : Word) : Option Region :=
  if c.dmr && c.dcs && c.dmrkey == c.dcskey then none
  else if c.dmr && key == c.dmrkey then some .memory
  else if c.dcs && key == c.dcskey then some .control
  else none

/-! ## The device memory region (R99) -/

/-- The first line's part of a range: its bytes up to the line's end. -/
def lineRest (a : Nat) : Nat := 128 - a % 128

/-- Write a part of one line, or refuse it: a whole line clears poison (R99, R163); it is a store to what lies there (R459). -/
def State.writePart (s : State) (a : Nat) (bs : List Byte) : State × Bool :=
  let full := decide (bs.length = 128)
  match (s.touch none a).atLine a false full with
  | .ok _ _ => ((if full then (s.touch none a).putLine a bs else (s.touch none a).store a bs).spoilMem a bs.length, true)
  | _ => (s.touch none a, false)

/-- Write a range line by line; the lines before a refused one are written (R99). `fuel` is a bound on the lines. -/
def State.writeLines (s : State) (a : Nat) (bs : List Byte) : Nat → State × Bool
  | 0 => (s, true)
  | fuel + 1 =>
    if bs.isEmpty then (s, true)
    else
      match s.writePart a (bs.take (lineRest a)) with
      | (s1, true) => State.writeLines s1 (a + lineRest a) (bs.drop (lineRest a)) fuel
      | (s1, false) => (s1, false)

/-- The lines of a range. -/
def linesOf (a n : Nat) : List Nat := if n = 0 then [] else (span (a / 128) ((a + n - 1) / 128 + 1 - a / 128)).map (128 * ·)

/-- Read a range of device memory: none where a line of it cannot be read (R99, R510). -/
def State.readPhys (s : State) (a n : Nat) : State × Option (List Byte) :=
  let s1 := s.touchAll none (linesOf a n)
  if (linesOf a n).all fun l => s.lineOpen l then (s1, some (s.bytes a n)) else (s1, none)

/-! ## Team status query (R101) -/

/-- The team of a grid by its index, resident or saved. -/
def State.named (s : State) (ctx : CtxId) (grid : Word) (index : Nat) : Option (Nat × Team) :=
  List.find? (fun (e : Nat × Team) => e.2.ctx == ctx && e.2.gridNo == grid && e.2.index == index) s.teams

/-- The value of TSQVAL for a team (Table 4.10). -/
def Team.tsq (T : Team) : DWord :=
  T.stat.zeroExtend 64 ||| 0x100 ||| (match T.place with | .saved => 0x200 | .resident _ _ => 0)

/-- A write of TSQ (R101). -/
def State.sample (s : State) (v : DWord) : State :=
  let val := match s.named (v.extractLsb' 0 12) s.ctl.tsqgrid (v.extractLsb' 32 24).toNat with
    | some e => e.2.tsq
    | none => 0
  { s with ctl := { s.ctl with tsqval := val } }

/-- TSQ (R101). -/
def execTsq (v : DWord) (s : State) : Res := .next (s.sample v)

/-! ## Writes of the control page (Table 4.9) -/

/-- The next state of a meaning that always has one. -/
def Res.state (r : Res) (s : State) : State := match r with | .next t => t | _ => s

/-- CTXCMD (Table 3.2). -/
def State.ctxCommand (s : State) (v : DWord) : State :=
  let c : CtxId := v.extractLsb' 0 12
  match (v.extractLsb' 12 4).toNat with
  | 1 => Res.state (execActivate c s) s
  | 2 => Res.state (execDestroy c s) s
  | 3 => Res.state (execInvalPage c s) s
  | 4 => Res.state (execInvalAll c s) s
  | _ => s.ctxDone 3

/-- QCMD (Table 4.2). -/
def State.queueCommand (s : State) (v : DWord) : State :=
  let q : BitVec 14 := v.extractLsb' 0 14
  match (v.extractLsb' 14 2).toNat with
  | 1 => Res.state (execBind q s) s
  | 2 => Res.state (execUnbind q s) s
  | _ => s.queueDone 3

/-- BANKCMD (Table 7.3). -/
def State.bankCommand (s : State) (v : DWord) : State :=
  let k : BitVec 9 := v.extractLsb' 0 9
  match (v.extractLsb' 9 3).toNat with
  | 1 => Res.state (execBankOn k s) s
  | 2 => Res.state (execBankOff k s) s
  | 3 => Res.state (execBankInuse k s) s
  | 4 => Res.state (execBankNotuse k s) s
  | 5 => Res.state (execBankPres k s) s
  | 6 => Res.state (execBankNopres k s) s
  | op => s.bankIssue k.toNat op

/-- The party that FLTCMD names (Table 20.4). -/
def fltTarget (v : DWord) : FltTarget := ⟨v.extractLsb' 0 12, v.extractLsb' 16 4, v.extractLsb' 20 10, v.extractLsb' 32 24⟩

/-- FLTCMD (Table 20.4). -/
def State.fltCommand (s : State) (v : DWord) : State := s.fltCmd (v.extractLsb' 12 4).toNat (fltTarget v)

/-- A ring register at its offset from the ring's first: BASE, HEAD, NOTE, NADDR; TAIL takes no write. -/
def Ring.write (r : Ring) (base head note naddr off : Nat) (v : DWord) : Ring :=
  if off = base then { r with base := (v.extractLsb' 0 39).toNat, log := (v.extractLsb' 39 5).toNat }
  else if off = head then { r with head := (v.extractLsb' 0 32).toNat }
  else if off = note then { r with nqp := (v.extractLsb' 0 24).toNat }
  else if off = naddr then { r with naddr := v }
  else r

/-- A rail is over its cap; a cap above the rating acts as the rating (Table 24.3). -/
def Rail.over (r : Rail) (k : Nat) : Bool := decide (min r.cap.toNat (Config.railRating k) < r.meas.toNat)

/-- LIM of every rail as it is now: over its cap, the package over 4.8 kW, or the die at 105 °C (R504, R505). -/
def Mgmt.limit (m : Mgmt) : Mgmt :=
  let all := m.hot || decide (4800 < (m.rails.map fun r => r.meas.toNat).sum)
  { m with rails := ((span 0 m.rails.length).zip m.rails).map fun e => { e.2 with lim := all || e.2.over e.1 } }

/-- A register of the control page with no behaviour of its own takes its value; reserved fields stay zero (R10). -/
def State.regPlain (s : State) (off : Nat) (v : DWord) : State :=
  if off = 0 then { s with ctl := { s.ctl with ctxarg := v &&& 0x03FFFFFFFFFFFFFF } }
  else if 0x100 ≤ off ∧ off < 0x128 then { s with rrq := s.rrq.write 0x100 0x108 0x118 0x120 off v }
  else if 0x140 ≤ off ∧ off < 0x170 then { s with flt := s.flt.write 0x140 0x148 0x160 0x168 off v }
  else if off = 0x178 then { s with ctl := { s.ctl with fltgrid := v.extractLsb' 0 32 } }
  else if off = 0x1C8 then { s with ctl := { s.ctl with tsqgrid := v.extractLsb' 0 32 } }
  else if 0x200 ≤ off ∧ off < 0x220 then
    { s with mgmt := { s.mgmt with rails := s.mgmt.rails.modify ((off - 0x200) / 8) (fun r => { r with cap := v.extractLsb' 0 16 }) }.limit }
  else s

/-- One write of one register of the control space (R100): an offset that names none ignores it. -/
def State.regWrite (s : State) (off : Nat) (v : DWord) : State :=
  if off = 0x08 then s.ctxCommand v
  else if off = 0x20 then s.queueCommand v
  else if off = 0x40 then s.bankCommand v
  else if 0xA0 ≤ off ∧ off < 0xC0 then Res.state (execSlotmapWrite (BitVec.ofNat 2 ((off - 0xA0) / 8)) v s) s
  else if off = 0x170 then s.fltCommand v
  else if off = 0x1C0 then s.sample v
  else if s.cfg.dbbase ≤ off ∧ off < s.cfg.dbbase + 0x4000000 then
    if (off - s.cfg.dbbase) % 4096 = 0 then s.ringBell (BitVec.ofNat 14 ((off - s.cfg.dbbase) / 4096)) v else s
  else s.regPlain off v

/-- The whole registers of a write, in rising order; a part that covers a register only in part is ignored (R100). -/
def State.regWrites (s : State) (a : Nat) (bs : List Byte) : Nat → State
  | 0 => s
  | fuel + 1 =>
    if bs.length < 8 then s
    else State.regWrites (s.regWrite a (BitVec.ofNat 64 (leNat (bs.take 8)))) (a + 8) (bs.drop 8) fuel

/-- A write of the control space: bytes before the first aligned offset cover no whole register. -/
def State.controlWrite (s : State) (a : Nat) (bs : List Byte) : State :=
  let a0 := (a + 7) / 8 * 8
  s.regWrites a0 (bs.drop (a0 - a)) bs.length

/-! ## Reads of the control page -/

/-- SEQ and LAST of a status register. -/
def CmdStat.value (c : CmdStat) : Nat := c.seq.toNat + 2 ^ 16 * c.last.toNat

/-- A bank map entry (Table 7.2). -/
def Bank.map (b : Bank) : Nat :=
  b.state % 8 + (if b.inuse then 8 else 0) + (if b.pres then 16 else 0) + (if b.clr then 32 else 0) + (if b.patrol then 64 else 0)

/-- An error summary (Table 7.6). -/
def Bank.summary (b : Bank) : Nat :=
  b.cecnt % 2 ^ 32 + 2 ^ 32 * (b.uecnt % 2 ^ 16) + 2 ^ 48 * (b.remaps % 2 ^ 8) + 2 ^ 56 * (b.spare % 2 ^ 8) + 2 ^ 64 * b.lastrow.toNat +
    (if b.rlost then 2 ^ 96 else 0)

/-- A ring's registers as they read; `lost` is FLTLOST where the ring has it. -/
def Ring.read (r : Ring) (base head tail note naddr off : Nat) : Nat :=
  if off = base then r.base % 2 ^ 39 + 2 ^ 39 * (r.log % 32)
  else if off = head then r.head else if off = tail then r.tail else if off = note then r.nqp
  else if off = naddr then r.naddr.toNat else 0

/-- The value of the register at an offset of the control page, a multiple of 8 (Tables 3.2, 4.2, 4.9, 4.10, 5.2, 7.3, 14.3, 20.4, 24.3). -/
def State.regRead (s : State) (off : Nat) : Nat :=
  if off = 0 then s.ctl.ctxarg.toNat
  else if off = 0x10 then s.ctl.ctxstat.value
  else if off = 0x28 then s.ctl.qstat.value
  else if off = 0x48 then s.ctl.bankstat.value
  else if off = 0x80 then s.cfg.aid.toNat
  else if off = 0x88 then s.pod.up.toNat + 2 ^ 16 * s.pod.dup.toNat + 2 ^ 32 * s.pod.drop.toNat
  else if off = 0x90 then
    (if s.pod.lock then 1 else 0) + (if s.pod.xpod then 2 else 0) + 2 ^ 16 * s.pod.steps.toNat + 2 ^ 32 * s.pod.offs.toNat
  else if 0xA0 ≤ off ∧ off < 0xC0 then (s.pod.slotmap.getD ((off - 0xA0) / 8) 0).toNat
  else if 0x100 ≤ off ∧ off < 0x128 then s.rrq.read 0x100 0x108 0x110 0x118 0x120 off
  else if off = 0x158 then s.flt.lost
  else if 0x140 ≤ off ∧ off < 0x170 then s.flt.read 0x140 0x148 0x150 0x160 0x168 off
  else if off = 0x178 then s.ctl.fltgrid.toNat
  else if off = 0x180 then s.ctl.fltstat.value
  else if off = 0x1C8 then s.ctl.tsqgrid.toNat
  else if off = 0x1D0 then s.ctl.tsqval.toNat
  else if 0x200 ≤ off ∧ off < 0x220 then
    (match s.mgmt.rails[(off - 0x200) / 8]? with
     | some r => r.cap.toNat + 2 ^ 16 * r.meas.toNat + (if r.lim then 2 ^ 32 else 0)
     | none => 0)
  else if 0x10000 ≤ off ∧ off < 0x18000 then
    (let p := s.phase (BitVec.ofNat 12 ((off - 0x10000) / 8)); p.ph % 4 + 2 ^ 16 * (p.lead % 2 ^ 16))
  else 0

/-- The byte at an offset of the control space: each register is read at one moment (R100). -/
def State.ctlByte (s : State) (off : Nat) : Byte :=
  if 0x20000 ≤ off ∧ off < 0x20200 then BitVec.ofNat 8 (s.bank (off - 0x20000)).map
  else if 0x21000 ≤ off ∧ off < 0x23000 then BitVec.ofNat 8 ((s.bank ((off - 0x21000) / 16)).summary / 2 ^ (8 * (off % 16)))
  else BitVec.ofNat 8 (s.regRead (off / 8 * 8) / 2 ^ (8 * (off % 8)))

/-- A range of the control space. -/
def State.ctlBytes (s : State) (a n : Nat) : List Byte := (span a n).map s.ctlByte

/-! ## Requests served line by line (R368, log entry 88) -/

/-- A request that may address device memory and has lines there is served line by line; any other as it comes. -/
def State.spreadRdma (s : State) (conn : BitVec 16) (key : Word) (addr n : Nat) (data : Option (List Byte)) (whole : Res) : State :=
  match (if s.portsOpen then s.conn? conn.toNat else none) with
  | some c =>
    if c.region key = some .memory ∧ (data.isNone ∨ c.dmrw) ∧ 0 < n ∧ addr + n ≤ 2 ^ 39 then
      { s with lineJobs := s.lineJobs ++ [⟨.inl conn.toNat, data.isSome, addr, data.getD [], n⟩] }
    else Res.state whole s
  | none => Res.state whole s

/-- The answer of a request that was served line by line; a management response takes its place among its connection's (R508). -/
def State.lineAnswer (s : State) (j : LineJob) (ok : Bool) (bs : List Byte) : State :=
  match j.who with
  | .inl conn => s.send (.rdmaReply conn ok bs)
  | .inr n =>
    match s.mgmt.answers.findIdx? fun (a : MgmtAns) => a.reading == some n with
    | none => s
    | some i =>
      let m := s.mgmt.answers.modify i fun a => { a with reading := none, status := if ok then 0 else 4, payload := bs }
      ({ s with mgmt := { s.mgmt with answers := m } }).flushMgmt

/-- The next line of the `k`-th request that is served so: none where ports carry no traffic. -/
def State.line (s : State) (k : Nat) : State :=
  match s.lineJobs[k]? with
  | none => s
  | some j =>
    if (match j.who with | .inl _ => !s.portsOpen | .inr _ => false) then s
    else
      let n := min (lineRest j.addr) j.left
      let drop := fun (s : State) => { s with lineJobs := s.lineJobs.eraseIdx k }
      let keep := fun (s : State) (j : LineJob) => { s with lineJobs := s.lineJobs.set k j }
      if j.write then
        match s.writePart j.addr (j.data.take n) with
        | (s1, true) =>
          if j.left = n then (drop s1).lineAnswer j true []
          else keep s1 { j with addr := j.addr + n, data := j.data.drop n, left := j.left - n }
        | (s1, false) => (drop s1).lineAnswer j false []
      else
        match s.readPhys j.addr n with
        | (s1, some bs) =>
          if j.left = n then (drop s1).lineAnswer j true (j.data ++ bs)
          else keep s1 { j with addr := j.addr + n, data := j.data ++ bs, left := j.left - n }
        | (s1, none) => (drop s1).lineAnswer j false []

/-- Lines that the writes of a connection still have to write. -/
def State.linesLeft (s : State) (conn : Nat) : Nat :=
  ((s.lineJobs.filter fun j => j.write && j.who == .inl conn).map fun j => j.left / 128 + 2).sum

/-- Every write that came before on a connection is performed now: a doorbell, or another register, is written behind the data (R81). -/
def State.linesOut (s : State) (conn : Nat) : Nat → State
  | 0 => s
  | fuel + 1 =>
    match s.lineJobs.findIdx? fun j => j.write && j.who == .inl conn with
    | none => s
    | some k => State.linesOut (s.line k) conn fuel

/-- Every write that came before on a connection has been performed (R81). -/
def State.linesDone (s : State) (conn : Nat) : State := s.linesOut conn (s.linesLeft conn)

/-- DOORBELL (R78, R81, R86). -/
def execDoorbell (q : DoorbellAt) (v : DWord) (s : State) : Res :=
  if s.portsOpen then .next ((s.linesDone q.conn.toNat).ringBell q.queue v) else .next s

/-! ## RDMA requests -/

/-- RDMA_WRITE (R99, R100). -/
def execRdmaWrite (conn : BitVec 16) (key : Word) (addr : Nat) (data : List Byte) (s : State) : Res :=
  if !s.portsOpen then .next s
  else
    let n := conn.toNat
    match s.conn? n with
    | none => .next s
    | some c =>
      match c.region key with
      | some .memory =>
        if !c.dmrw || decide (2 ^ 39 < addr + data.length) then .next (s.send (.rdmaReply n false []))
        else
          let r := s.writeLines addr data (data.length + 1)
          .next (r.1.send (.rdmaReply n r.2 []))
      | some .control =>
        if 2 ^ 32 < addr + data.length then .next (s.send (.rdmaReply n false []))
        else .next (((s.linesDone n).controlWrite addr data).send (.rdmaReply n true []))
      | none => .next (s.send (.rdmaReply n false []))

/-- RDMA_READ (R99, R100). -/
def execRdmaRead (conn : BitVec 16) (key : Word) (addr len : Nat) (s : State) : Res :=
  if !s.portsOpen then .next s
  else
    let n := conn.toNat
    match s.conn? n with
    | none => .next s
    | some c =>
      match c.region key with
      | some .memory =>
        if 2 ^ 39 < addr + len then .next (s.send (.rdmaReply n false []))
        else
          match s.readPhys addr len with
          | (s1, some bs) => .next (s1.send (.rdmaReply n true bs))
          | (s1, none) => .next (s1.send (.rdmaReply n false []))
      | some .control =>
        if 2 ^ 32 < addr + len then .next (s.send (.rdmaReply n false []))
        else .next (s.send (.rdmaReply n true (s.ctlBytes addr len)))
      | none => .next (s.send (.rdmaReply n false []))

/-- UNSUPPORTED_RDMA_REQUEST (R115): the transport's remote-operation error. -/
def execUnsupportedRdmaRequest (conn : BitVec 16) (s : State) : Res :=
  if s.portsOpen && (s.conn? conn.toNat).isSome then .next (s.send (.rdmaRefused conn.toNat)) else .next s

/-- REGISTER_WRITE (R100): an RDMA WRITE of one register of the control space. -/
def execRegisterWrite (conn : BitVec 16) (key : Word) (off : Word) (v : DWord) (s : State) : Res :=
  if !s.portsOpen then .next s
  else
    match s.conn? conn.toNat with
    | none => .next s
    | some c =>
      if c.region key = some .control then
        if 2 ^ 32 < off.toNat + 8 then .next (s.send (.rdmaReply conn.toNat false []))
        else .next (((s.linesDone conn.toNat).controlWrite off.toNat (leBytes 8 v.toNat)).send (.rdmaReply conn.toNat true []))
      else .next (s.send (.rdmaReply conn.toNat false []))

/-! ## Tail notices (R331, R472) -/

/-- A tail notice is due: records have been written since the last one, and a µs has passed. -/
def Ring.due (r : Ring) (now : Nat) : Bool :=
  decide (r.tail ≠ r.notified) && (match r.noteAt with | some t => decide (t + usTicks 1 ≤ now) | none => true)

/-- The ring after its notice. -/
def Ring.noted (r : Ring) (now : Nat) : Ring := { r with notified := r.tail, noteAt := some now }

/-- RRQ_TAIL_NOTICE (R331): the tail as an 8-byte RDMA write, at most once in a µs. -/
def execRrqTailNotice (s : State) : Res :=
  if s.portsOpen && s.rrq.due s.clock then
    .next { s.sendRdma s.rrq.nqp s.rrq.naddr (leBytes 8 s.rrq.tail) with rrq := s.rrq.noted s.clock }
  else .next s

/-- FLT_TAIL_NOTICE (R472). -/
def execFltTailNotice (s : State) : Res :=
  if s.portsOpen && s.flt.due s.clock then
    .next { s.sendRdma s.flt.nqp s.flt.naddr (leBytes 8 s.flt.tail) with flt := s.flt.noted s.clock }
  else .next s

end Sys2Proof.Machine
end

