-- ==== Sys2Proof/Machine/LaneInt.lean ====
section
/-! DEFINITION. Lane instructions 0x00-0x1F: integer, predicate and index (11.1-11.6). -/

namespace Sys2Proof.Machine

/-- IADD (Table 11.1). -/
def execIadd (o : R3) (s : State) : Res := s.int3 o fun a b _ => a + b
/-- ISUB; with .rev b - a (Table 11.1). -/
def execIsub (o : R3) (rev : Bool) (s : State) : Res := s.int3 o fun a b _ => if rev then b - a else a - b
/-- IMUL (Table 11.1). -/
def execImul (o : R3) (s : State) : Res := s.int3 o fun a b _ => a * b
/-- IMULH (Table 11.1). -/
def execImulh (o : R3) (u : Bool) (s : State) : Res := s.int3 o fun a b _ => if u then Alu.mulhu a b else Alu.mulhs a b
/-- IMAD (Table 11.1). -/
def execImad (o : R3) (s : State) : Res := s.int3 o fun a b d => a * b + d
/-- IMIN (Table 11.1). -/
def execImin (o : R3) (u : Bool) (s : State) : Res := s.int3 o fun a b _ => Alu.min u a b
/-- IMAX (Table 11.1). -/
def execImax (o : R3) (u : Bool) (s : State) : Res := s.int3 o fun a b _ => Alu.max u a b
/-- IABS (Table 11.1). -/
def execIabs (o : R2) (s : State) : Res := s.int2 o Alu.abs
/-- AND (Table 11.1). -/
def execAnd (o : R3) (s : State) : Res := s.int3 o fun a b _ => a &&& b
/-- OR (Table 11.1). -/
def execOr (o : R3) (s : State) : Res := s.int3 o fun a b _ => a ||| b
/-- XOR (Table 11.1). -/
def execXor (o : R3) (s : State) : Res := s.int3 o fun a b _ => a ^^^ b
/-- ANDN (Table 11.1). -/
def execAndn (o : R3) (s : State) : Res := s.int3 o fun a b _ => a &&& ~~~b
/-- SHL (Table 11.1). -/
def execShl (o : R3) (s : State) : Res := s.int3 o fun a b _ => Alu.shl a b
/-- SHR (Table 11.1). -/
def execShr (o : R3) (s : State) : Res := s.int3 o fun a b _ => Alu.shr a b
/-- SAR (Table 11.1). -/
def execSar (o : R3) (s : State) : Res := s.int3 o fun a b _ => Alu.sar a b
/-- ROL (Table 11.1). -/
def execRol (o : R3) (s : State) : Res := s.int3 o fun a b _ => Alu.rol a b
/-- BFX (R252). -/
def execBfx (o : R3) (s : State) : Res := s.int3 o fun a b _ => Alu.bfx a b
/-- BFI (R252). -/
def execBfi (o : R3) (s : State) : Res := s.int3 o fun a b d => Alu.bfi a b d
/-- POPC (R253). -/
def execPopc (o : R2) (s : State) : Res := s.int2 o Alu.popc
/-- CLZ (R253). -/
def execClz (o : R2) (s : State) : Res := s.int2 o Alu.clz
/-- BREV (R253). -/
def execBrev (o : R2) (s : State) : Res := s.int2 o Alu.brev

/-- ICMP (R254). -/
def execIcmp (c : ICond) (p : Pred) (o : RAB) (s : State) : Res :=
  s.laneEff (o.a.toNat :: srcRegs o.b) [p.toNat] fun th =>
    th.setPred p.toNat (Alu.icmp c (th.reg o.a.toNat) (srcVal o.b th))

/-- ISEL (R255): the register form keeps v[D] where the selector is false. -/
def execIsel (o : R2) (w : Option Word) (p : Pred) (n : Bool) (s : State) : Res :=
  s.laneEff [o.d.toNat, o.a.toNat] [p.toNat] fun th =>
    let g := th.pred p.toNat != n
    th.setReg o.d.toNat (if g then th.reg o.a.toNat else w.getD (th.reg o.d.toNat))

/-- MOV (R258). -/
def execMov (d : Reg) (b : Src) (s : State) : Res :=
  s.laneEff (d.toNat :: srcRegs b) [] fun th => th.setReg d.toNat (srcVal b th)

/-- MOVS (R259): the s-register as it stands at this point of the single order. -/
def execMovs (d : Reg) (n : SReg) (s : State) : Res :=
  s.laneRun [d.toNat] [] fun t T tid th => .next (s.setThread t T tid (th.setReg d.toNat (T.steer.reg n.toNat)))

/-- IADD64 (R260). -/
def execIadd64 (o : R3) (s : State) : Res :=
  s.laneEff ([o.d.toNat, o.d.toNat + 1, o.a.toNat, o.a.toNat + 1] ++ srcPairRegs o.b) [] fun th =>
    th.setPair o.d.toNat (th.pairAt o.a.toNat + srcPair o.b th)

/-- IMULW (R261). -/
def execImulw (o : R3) (sg : Bool) (s : State) : Res :=
  s.laneEff ([o.d.toNat, o.d.toNat + 1, o.a.toNat] ++ srcRegs o.b) [] fun th =>
    let a := th.reg o.a.toNat
    let b := srcVal o.b th
    th.setPair o.d.toNat (if sg then a.signExtend 64 * b.signExtend 64 else a.zeroExtend 64 * b.zeroExtend 64)

/-- PLOP (R256). -/
def execPlop (op : PlopOp) (d a b : Pred) (s : State) : Res :=
  s.laneEff [] [d.toNat, a.toNat, b.toNat] fun th =>
    th.setPred d.toNat (Alu.plop op (th.pred a.toNat) (th.pred b.toNat))

/-- All sixteen predicates, which a PMOV names. -/
def allPreds : List Nat := span 0 16

/-- PMOV.get (R257). -/
def execPmovGet (d : Reg) (s : State) : Res :=
  s.laneEff [d.toNat] allPreds fun th => th.setReg d.toNat (th.p.zeroExtend 32)
/-- PMOV.put (R257). -/
def execPmovPut (a : Reg) (_ha : Bool) (s : State) : Res :=
  s.laneEff [a.toNat] allPreds fun th => { th with p := (th.reg a.toNat).extractLsb' 0 16 }
/-- PMOV.set (R257): p[i] takes ext[i] where ext[16 + i] is set; only those predicates are named. -/
def execPmovSet (w : Word) (s : State) : Res :=
  let m : BitVec 16 := w.extractLsb' 16 16
  s.laneEff [] (allPreds.filter m.getLsbD) fun th =>
    { th with p := (th.p &&& ~~~m) ||| (w.extractLsb' 0 16 &&& m) }

/-- SETX (R262): no window is checked here. -/
def execSetx (n : BitVec 2) (v : SetxSrc) (s : State) : Res :=
  match v with
  | .reg a _ => s.laneEff [a.toNat] [] fun th =>
      { th with x := Map.set 0 th.x n.toNat ((th.reg a.toNat).extractLsb' 0 14) }
  | .imm b l => s.laneEff [] [] fun th => { th with x := Map.set 0 th.x n.toNat (l ++ b) }

/-- An indexed access (R217, R263): D and B in range, then INDEX_RANGE, then REG_RANGE of the register reached, then LOOKAHEAD
over all of them. -/
def State.indexed (s : State) (d : Reg) (n : BitVec 2) (b : Src) (k : Thread → Nat → Thread) : Res :=
  s.lane fun t T tid th =>
    let regs := d.toNat :: srcRegs b
    let rc := T.regCount th
    let i := (srcVal b th).toNat
    let x := th.index n.toNat
    if regs.any (fun r => decide (rc ≤ r)) then .next (s.stopLane t T tid th { code := Code.regRange })
    else if x.2 ≤ i then .next (s.stopLane t T tid th { code := Code.indexRange })
    else if rc ≤ x.1 + i then .next (s.stopLane t T tid th { code := Code.regRange })
    else if th.shadowed ((x.1 + i) :: regs) [] then .next (s.stopLane t T tid th { code := Code.lookahead })
    else .next (s.setThread t T tid (k th (x.1 + i)))

/-- MOVX (R263). -/
def execMovx (d : Reg) (n : BitVec 2) (b : Src) (s : State) : Res :=
  s.indexed d n b fun th r => th.setReg d.toNat (th.reg r)
/-- STX (R263). -/
def execStx (d : Reg) (n : BitVec 2) (b : Src) (s : State) : Res :=
  s.indexed d n b fun th r => th.setReg r (th.reg d.toNat)

end Sys2Proof.Machine
end

