-- ==== Sys2Proof/Machine/Shake.lean ====
section
/-! DEFINITION. SHAKE256 with 64-byte outputs (R506), as FIPS 202 states it, the standard that R506 names: the sponge of Keccak-f[1600] with a rate
of 136 bytes. The state is a list of 25 lanes of 64 bits, lane x + 5y at (x, y). -/

namespace Sys2Proof.Machine

/-- Numbers below 2^64. -/
def lane64 : Nat := 2 ^ 64

/-- The rotation of a 64-bit lane to the left. -/
def rotLane (v r : Nat) : Nat := (v <<< r) % lane64 ||| v >>> (64 - r)

/-- The rotation offsets of the step rho, by lane. -/
def rhoOffsets : List Nat := [0, 1, 62, 28, 27, 36, 44, 6, 55, 20, 3, 10, 43, 25, 39, 41, 45, 15, 21, 8, 18, 2, 61, 56, 14]

/-- The round constants of the step iota. -/
def roundConstants : List Nat :=
  [0x0000000000000001, 0x0000000000008082, 0x800000000000808A, 0x8000000080008000, 0x000000000000808B, 0x0000000080000001,
   0x8000000080008081, 0x8000000000008009, 0x000000000000008A, 0x0000000000000088, 0x0000000080008009, 0x000000008000000A] ++
  [0x000000008000808B, 0x800000000000008B, 0x8000000000008089, 0x8000000000008003, 0x8000000000008002, 0x8000000000000080,
   0x000000000000800A, 0x800000008000000A, 0x8000000080008081, 0x8000000000008080, 0x0000000080000001, 0x8000000080008008]

/-- The five parities of the columns. -/
def columnParities (a : List Nat) : List Nat :=
  (span 0 5).map fun x => a.getD x 0 ^^^ a.getD (x + 5) 0 ^^^ a.getD (x + 10) 0 ^^^ a.getD (x + 15) 0 ^^^ a.getD (x + 20) 0

/-- The step theta. -/
def keccakTheta (a : List Nat) : List Nat :=
  let c := columnParities a
  (span 0 25).map fun i => a.getD i 0 ^^^ c.getD ((i + 4) % 5) 0 ^^^ rotLane (c.getD ((i + 1) % 5) 0) 1

/-- The steps rho and pi: the lane at (x, y) comes from (x + 3y, x). -/
def keccakRhoPi (a : List Nat) : List Nat :=
  (span 0 25).map fun i =>
    let j := (i % 5 + 3 * (i / 5)) % 5 + 5 * (i % 5)
    rotLane (a.getD j 0) (rhoOffsets.getD j 0)

/-- The steps chi and iota. -/
def keccakChiIota (rc : Nat) (b : List Nat) : List Nat :=
  (span 0 25).map fun i =>
    let y := i / 5 * 5
    let v := b.getD i 0 ^^^ ((b.getD ((i + 1) % 5 + y) 0 ^^^ (lane64 - 1)) &&& b.getD ((i + 2) % 5 + y) 0)
    if i = 0 then v ^^^ rc else v

/-- Keccak-f[1600]: 24 rounds. -/
def keccakF (a : List Nat) : List Nat := roundConstants.foldl (fun a rc => keccakChiIota rc (keccakRhoPi (keccakTheta a))) a

/-- Absorb one block of 136 bytes. -/
def absorbBlock (a : List Nat) (block : List Byte) : List Nat :=
  keccakF ((span 0 25).map fun i => a.getD i 0 ^^^ leNat ((block.drop (8 * i)).take 8))

/-- The message with its padding: the bits of SHAKE and the two ends of the pad, to whole blocks. -/
def shakePad (bs : List Byte) : List Byte :=
  let n := 136 - bs.length % 136
  bs ++ (if n = 1 then [0x9F] else 0x1F :: List.replicate (n - 2) 0 ++ [0x80])

/-- Absorb some blocks. -/
def absorbAll (a : List Nat) (bs : List Byte) : Nat → List Nat
  | 0 => a
  | n + 1 => absorbAll (absorbBlock a (bs.take 136)) (bs.drop 136) n

/-- SHAKE256 of some bytes, 64 bytes of output. -/
def shake256 (bs : List Byte) : List Byte :=
  let p := shakePad bs
  ((absorbAll (List.replicate 25 0) p (p.length / 136)).take 8).flatMap fun v => (span 0 8).map fun i => BitVec.ofNat 8 (v >>> (8 * i))

end Sys2Proof.Machine
end

