-- ==== Sys2Proof/Machine/Mgmt.lean ====
section
/-! DEFINITION. The management controller (chapter 24): starts and what they leave (R499-R503), power and heat (R504, R505), attestation (R506),
saves on request (R507) and the management port's requests (R508-R511). -/

namespace Sys2Proof.Machine

/-! ## The configuration record (R500, Table 24.1) -/

/-- A flash object: as it was last sealed, or as the device was delivered. -/
def Mgmt.object (m : Mgmt) (k : Nat) : List Byte := (Map.find? m.flash k).getD (Config.factoryObject k)
/-- A flash object as it stood at the last start. -/
def Mgmt.measure (m : Mgmt) (k : Nat) : List Byte := (Map.find? m.measured k).getD (Config.factoryObject k)

/-- The regions that may not overlap: context table, queue table, save slots, remote-read cache. -/
def recordRegions (r : List Byte) : List (Nat × Nat) :=
  let rrc := (fld r 0x28 8, fld r 0x28 8 + fld r 0x30 8 * 2 ^ 30)
  [(fld r 0x10 8, fld r 0x10 8 + 2 ^ 19), (fld r 0x18 8, fld r 0x18 8 + 2 ^ 20),
   (fld r 0x38 8, fld r 0x38 8 + fld r 0x40 4 * 2 ^ 22)] ++ (if rrc.1 = rrc.2 then [] else [rrc])

/-- The fields obey Table 24.1. -/
def recordFieldsOk (r : List Byte) : Bool :=
  let db := fld r 0x20 8
  decide (r.length = 0x7560 ∧ fld r 0 4 = 0x4F5A4352 ∧ fld r 4 4 = 1 ∧ fld r 8 4 < 2 ^ 10 ∧ fld r 0x0C 4 ≤ 168 ∧ fld r 0x10 8 < 2 ^ 39 ∧
    fld r 0x10 8 % 4096 = 0 ∧ fld r 0x18 8 < 2 ^ 39 ∧ fld r 0x18 8 % 4096 = 0 ∧ db % 0x4000000 = 0 ∧ 0x4000000 ≤ db ∧ db ≤ 0xFC000000 ∧
    fld r 0x28 8 < 2 ^ 39 ∧ fld r 0x28 8 % 2 ^ 30 = 0 ∧ fld r 0x30 8 ≤ 32 ∧ fld r 0x38 8 < 2 ^ 39 ∧ fld r 0x38 8 % 2 ^ 22 = 0 ∧
    1 ≤ fld r 0x40 4 ∧ fld r 0x40 4 ≤ 65535 ∧ fld r 0x44 60 = 0 ∧ fld r 0xC0 64 = 0) && disjoint (recordRegions r)

/-- The owner keys in flash: up to four (R499). -/
def Mgmt.ownerKeys (m : Mgmt) : List (List Byte) := (Config.ownerKeys (m.object 1)).take 4

/-- A record is signed with one of the owner keys in flash (R499). -/
def Mgmt.ownerSigned (m : Mgmt) (r : List Byte) : Bool := m.ownerKeys.any fun k => Config.slhVerifies k r

/-- A record is accepted: an owner key verifies it and its fields are right (R500). -/
def Mgmt.recordGood (m : Mgmt) (r : List Byte) : Bool := m.ownerSigned r && recordFieldsOk r

/-- The configuration that a record gives. -/
def cfgOf (r : List Byte) : Cfg where
  aid := BitVec.ofNat 10 (fld r 8 4)
  patrol := fld r 0x0C 4
  ctxtab := fld r 0x10 8
  qtab := fld r 0x18 8
  dbbase := fld r 0x20 8
  rrcbase := fld r 0x28 8
  rrcsize := fld r 0x30 8
  savebase := fld r 0x38 8
  saven := fld r 0x40 4
  hosts := (span 0 4).map fun i => BitVec.ofNat 128 (fld r (0x80 + 16 * i) 16)

/-- Step 1 of a start: firmware and owner key record are verified against the Ozolmaris key. As the device was delivered, they carry its signature
(R499). -/
def Mgmt.verified (m : Mgmt) : Bool :=
  [0, 1].all fun k => match Map.find? m.flash k with | none => true | some bs => Config.slhVerifies Config.romKey bs

/-- Step 2 of a start: the configuration that the record in flash gives, none if it is refused (R500). The delivered record, whose configuration is in
force until one is sealed, was signed with an owner key of the delivered owner key record; another owner key record must hold its key too. -/
def State.startCfg (s : State) : Option Cfg :=
  match Map.find? s.mgmt.flash 2 with
  | none => if (Map.find? s.mgmt.flash 1).isNone || s.mgmt.ownerSigned (s.mgmt.object 2) then some s.cfg else none
  | some r => if s.mgmt.recordGood r then some (cfgOf r) else none

/-! ## Starts (R501-R503, Table 24.2) -/

/-- A set keeps its contents across a warm start: PRES, and neither OFF nor LOST. -/
def Bank.kept (b : Bank) : Bool := b.pres && b.state != 0 && b.state != 4 && !b.rlost

/-- A set after a warm start (R503): error summary, row history and remap table are kept. One whose table was lost while it was OFF or clearing is
LOST (R166). -/
def Bank.warm (b : Bank) (now : Nat) : Bank :=
  let lost := b.state == 4 || b.rlost
  let keep := lost || b.pres
  { b with state := if lost then 4 else if b.pres then 1 else 2, inuse := keep && b.inuse, pres := keep && b.pres, clr := false,
           patrol := false, waking := false, offAfter := none, cmds := [], queue := [], lastAccess := now, granules := [], runs := [], counts := [], lowToggle := false }

/-- The rails at reset (Table 24.3). -/
def railsReset : List Rail := List.replicate 4 ⟨0xFFFF, 0, false⟩

/-- A set after a cold start (R501, R503): its remap table is rebuilt from the copies, every field takes its reset value (log entry 99). -/
def Bank.cold (b : Bank) : Bank := { Bank.reset with remap := b.remap }

/-- Channels of the package: one for each bank set (R22). -/
def channels : Nat := Config.sets

/-- The start that trained a channel last. -/
def Mgmt.trainedAt (m : Mgmt) (ch : Nat) : Nat := Map.get m.trained m.retrained ch

/-- Step 3 of a start, the `n`-th since manufacture: a cold one trains every channel; a warm one reloads the saved values and retrains the channels
whose values fail their check. -/
def Mgmt.train (m : Mgmt) (warm : Bool) (n : Nat) : Mgmt :=
  if warm then
    { m with retrained := ((span 0 channels).filter fun ch => Config.trainingFails ch (m.trainedAt ch) n).foldl (fun r ch => Map.put r ch n) m.retrained }
  else { m with trained := n, retrained := [] }

/-- The controller's records after a start; connections that were opened while a requested start was in progress stay open. -/
def Mgmt.afterStart (m : Mgmt) (warm : Bool) : Mgmt :=
  { m.train warm (m.starts + 1) with
      accepted := true, measured := m.flash, staged := [], lastStart := if warm then 2 else 1, starts := m.starts + 1,
      conns := if m.starting.isSome then m.conns else [], starting := none, trip := warm && m.trip, rails := railsReset, answers := [] }.limit

/-- Steps 3 to 7 of a start: every register takes its reset value, no work is left; a warm start keeps what R503 says. -/
def State.restarted (s : State) (warm : Bool) (c : Cfg) : State :=
  let keep := fun (pa : Nat) => warm && (s.bank (setOf pa)).kept
  { State.reset with
    clock := s.clock, agenda := s.agenda, freeCtr := s.freeCtr, txCtr := s.txCtr, out := s.out, cfg := c, mgmt := s.mgmt.afterStart warm,
    mem := s.mem.filter (fun x => keep x.1), poison := s.poison.filter (fun l => keep (l * Config.lineBytes)),
    banks := (s.banks.map fun e => (e.1, if warm then e.2.warm s.clock else e.2.cold)).filter (fun e => decide (e.2 ≠ Bank.reset)) }

/-- A start (R501): a refused record stops it after step 2 (R500), and an object that fails step 1 stops it so too (log entry 100); the connection
table and the endpoint table are cleared at every start (R98, R511). -/
def State.perform (s : State) (warm : Bool) : State :=
  match (if s.mgmt.verified then s.startCfg else none) with
  | some c => s.restarted warm c
  | none =>
    let m := { s.mgmt with accepted := false, measured := s.mgmt.flash, staged := [], lastStart := if warm then 2 else 1, starts := s.mgmt.starts + 1,
                           conns := if s.mgmt.starting.isSome then s.mgmt.conns else [], starting := none, answers := [] }
    { s with conns := [], endps := [], lineJobs := [], mgmt := m }

/-- A start that is in progress ends. -/
def State.finishStart (s : State) : State :=
  match s.mgmt.starting with
  | some warm => s.perform warm
  | none => s

/-- COLD_START (R501): power-on. -/
def execColdStart (s : State) : Res := .next (s.perform false)

/-! ## Power and heat (R504, R505): time only, but for the trip -/

/-- Change the controller's records. -/
def State.modMgmt (s : State) (f : Mgmt → Mgmt) : State := { s with mgmt := f s.mgmt }

/-- POWER_CAP_LIMIT (R504): the mean of a rail over its last 1 ms window. -/
def execPowerCapLimit (k : BitVec 2) (watts : BitVec 16) (s : State) : Res :=
  .next (s.modMgmt fun m => { m with rails := m.rails.modify k.toNat (fun r => { r with meas := watts }) }.limit)

/-- THERMAL_LIMIT (R505): a die temperature; from 105 °C every rail is limited. -/
def execThermalLimit (celsius : Nat) (s : State) : Res := .next (s.modMgmt fun m => { m with hot := decide (105 ≤ celsius) }.limit)

/-- The code under which the controller's log holds a thermal trip: no fault code, since Table 20.1 has none for it. -/
def tripCode : BitVec 8 := 0

/-- THERMAL_TRIP (R505): at 115 °C all issue and all port traffic stop, and the trip is logged. -/
def execThermalTrip (celsius : Nat) (s : State) : Res :=
  if 115 ≤ celsius then .next (s.modMgmt fun m => { m with trip := true, log := m.log ++ [(tripCode, celsius)] }) else .next s

/-! ## Serving requests (R508, R509) -/

/-- The peer of an open connection. -/
def State.peerOf (s : State) (conn : Nat) : Option (BitVec 128) := Map.find? s.mgmt.conns conn

/-- A connection ends: responses that are still owed on it are not given. -/
def State.endConn (s : State) (conn : Nat) : State :=
  let gone := (s.mgmt.answers.filter fun (a : MgmtAns) => a.conn == conn).filterMap MgmtAns.reading
  ({ s with lineJobs := s.lineJobs.filter fun j => match j.who with | .inl _ => true | .inr n => !gone.contains n } : State).modMgmt fun m =>
    { m with conns := Map.erase m.conns conn, answers := m.answers.filter fun a => a.conn != conn }

/-- Answer a request: behind the earlier ones of its connection (R508). -/
def State.reply (s : State) (op : BitVec 16) (r : MgmtReq) (status : BitVec 16) (payload : List Byte) : State :=
  (s.modMgmt fun m => { m with answers := m.answers ++ [⟨r.conn, r.tag, op, [], none, none, status, payload⟩] }).flushMgmt

/-- A request comes on a connection that is open. -/
def State.onConn (s : State) (r : MgmtReq) (f : State → Res) : Res := if (s.peerOf r.conn).isSome then f s else .next s

/-- Serve a request of any peer: BUSY while a start is in progress, BAD_ARG where the payload breaks Table 24.5. -/
def State.serveAny (s : State) (op : BitVec 16) (r : MgmtReq) (ok : Bool) (f : State → Res) : Res :=
  s.onConn r fun s =>
    if s.mgmt.starting.isSome then .next (s.reply op r 5 [])
    else if !ok then .next (s.reply op r 2 [])
    else f s

/-- A connection of a peer from which listed requests are served (R509). -/
def State.listed (s : State) (conn : Nat) : Bool :=
  s.mgmt.accepted && (s.peerOf conn).any fun p => p != 0 && s.cfg.hosts.contains p

/-- Serve a request of a listed peer. -/
def State.serveListed (s : State) (op : BitVec 16) (r : MgmtReq) (ok : Bool) (f : State → Res) : Res :=
  s.onConn r fun s =>
    if s.mgmt.starting.isSome then .next (s.reply op r 5 [])
    else if !s.listed r.conn then .next (s.reply op r 3 [])
    else if !ok then .next (s.reply op r 2 [])
    else f s

/-- A request with an OP that Table 24.5 does not have (R508). -/
def State.badOp (s : State) (op : BitVec 16) (r : MgmtReq) : Res :=
  s.onConn r fun s => .next (s.reply op r (if s.mgmt.starting.isSome then 5 else 1) [])

/-- The payload's length and the zero of its reserved bits. -/
def MgmtReq.shape (r : MgmtReq) (n : Nat) (zero : Bool) : Bool := decide (r.payload.length = n) && zero

/-! ## STATUS, QUOTE, the flash (R506, R510) -/

/-- The payload of STATUS (Table 24.5). -/
def State.statusBytes (s : State) : List Byte :=
  let m := s.mgmt
  leBytes 8 ((if m.accepted then 1 else 0) + (if m.trip then 2 else 0) + (if s.pod.lock then 4 else 0) + 2 ^ 8 * m.lastStart +
    2 ^ 16 * s.cfg.aid.toNat + 2 ^ 32 * (m.starts % 2 ^ 32)) ++ leBytes 8 s.dtime.toNat

/-- STATUS (R508, R509): served during a start too. -/
def execStatus (r : MgmtReq) (s : State) : Res :=
  s.onConn r fun s => if MgmtReq.shape r 0 true then .next (s.reply 1 r 0 s.statusBytes) else .next (s.reply 1 r 2 [])

/-- Exactly `n` bytes. -/
def exactly (n : Nat) (bs : List Byte) : List Byte := padTo n (bs.take n)

/-- The 232 bytes of a quote that its signature covers (Table 24.5). -/
def State.quoteHead (s : State) (nonce : List Byte) : List Byte :=
  ((span 0 3).flatMap fun k => shake256 (s.mgmt.measure k)) ++ leBytes 2 s.cfg.aid.toNat ++ leBytes 2 0 ++
    leBytes 4 s.mgmt.starts ++ nonce

/-- QUOTE (R506). -/
def execQuote (r : MgmtReq) (s : State) : Res :=
  s.serveAny 2 r (MgmtReq.shape r 32 true) fun s =>
    let h := s.quoteHead r.payload
    .next (s.reply 2 r 0 (h ++ exactly 29792 (Config.slhSign h)))

/-- The object and the word that follow it in a flash request; whether the object is one of the three. -/
def MgmtReq.flash (r : MgmtReq) : Nat × Nat × Bool := (fld r.payload 0 1, fld r.payload 4 4, decide (fld r.payload 0 4 ≤ 2))

/-- A staged object with at least `n` bytes: what no FLASHWR wrote is open. -/
def stagedTo (k n : Nat) (bs : List Byte) : List Byte := bs ++ (span bs.length (n - bs.length)).map (Config.stagedByte k)

/-- Bytes written into a list at an offset. -/
def overwrite (bs : List Byte) (off : Nat) (data : List Byte) : List Byte := bs.take off ++ data ++ bs.drop (off + data.length)

/-- FLASHWR (R510). -/
def execFlashwr (r : MgmtReq) (s : State) : Res :=
  let q := MgmtReq.flash r
  s.serveAny 3 r (decide (8 ≤ r.payload.length ∧ r.payload.length ≤ 65536) && q.2.2) fun s =>
    let data := r.payload.drop 8
    let old := stagedTo q.1 (q.2.1 + data.length) ((Map.find? s.mgmt.staged q.1).getD [])
    .next ((s.modMgmt fun m => { m with staged := Map.put m.staged q.1 (overwrite old q.2.1 data) }).reply 3 r 0 [])

/-- The check of FLASHSEAL: firmware and owner key record against the Ozolmaris key, the configuration record against the owner keys in flash. -/
def Mgmt.sealOk (m : Mgmt) (k : Nat) (bs : List Byte) : Bool :=
  if k = 2 then m.ownerSigned bs else Config.slhVerifies Config.romKey bs

/-- FLASHSEAL (R510): a copy that passes replaces the flash copy in one step. -/
def execFlashseal (r : MgmtReq) (s : State) : Res :=
  let q := MgmtReq.flash r
  s.serveAny 4 r (MgmtReq.shape r 8 q.2.2) fun s =>
    match Map.find? s.mgmt.staged q.1 with
    | none => .next (s.reply 4 r 2 [])
    | some bs =>
      let obj := (stagedTo q.1 q.2.1 bs).take q.2.1
      if s.mgmt.sealOk q.1 obj then .next ((s.modMgmt fun m => { m with flash := Map.put m.flash q.1 obj }).reply 4 r 0 [])
      else .next (s.reply 4 r 2 [])

/-! ## START (R501, R510) -/

/-- Every response still owed is given now, those that waited for a save or for lines of memory with BUSY (log entry 31). -/
def State.answerAll (s : State) : State :=
  let now := fun (a : MgmtAns) => if a.due s.gangSaved then a else { a with wait := [], gang := none, reading := none, status := 5 }
  (({ s with lineJobs := s.lineJobs.filter (fun j => j.who.isLeft) } : State).modMgmt fun m => { m with answers := m.answers.map now }).flushMgmt

/-- START (R510): it answers, closes every management connection and begins the start. -/
def execStart (r : MgmtReq) (s : State) : Res :=
  let n := fld r.payload 0 8
  s.serveListed 5 r (MgmtReq.shape r 8 (decide (n < 2))) fun s =>
    let s1 := s.answerAll.reply 5 r 0 []
    .next ((s.mgmt.conns.foldl (fun s c => s.send (.tcpEnd c.1)) s1).modMgmt fun m => { m with conns := [], starting := some (n == 1) })

/-! ## READ (R507, R510, Table 24.6) -/

/-- A remote-read cache tag: `none` is an entry that is not valid. -/
def rrcTag (l : Option RrcLine) : List Byte :=
  match l with
  | some l => leBytes 8 (l.ctx.toNat + 2 ^ 12 * l.handle.toNat + 2 ^ 28 * (l.wver % 256) + 2 ^ 36) ++ leBytes 8 l.off
  | none => leBytes 16 0

/-- An entry of a set's row error history. -/
def rowEntry (r : Option (Nat × Nat × Nat)) : List Byte :=
  match r with
  | some (row, ce, ue) => leBytes 8 (row % 2 ^ 32 + 2 ^ 32 * min ce 255 + 2 ^ 40 * min ue 255)
  | none => leBytes 8 0

/-- A connection table entry (Table 4.8). -/
def Conn.bytes (c : Conn) : List Byte :=
  leBytes 4 ((if c.valid then 1 else 0) + 2 * c.port.toNat + (if c.dmr then 16 else 0) + (if c.dmrw then 32 else 0) + (if c.dcs then 64 else 0)) ++
    leBytes 4 c.rqpn.toNat ++ leBytes 4 c.spsn.toNat ++ leBytes 4 c.rpsn.toNat ++ leBytes 16 c.rgid.toNat ++ leBytes 8 c.rmac.toNat ++
    leBytes 4 c.dmrkey.toNat ++ leBytes 4 c.dcskey.toNat ++ leBytes 4 c.hostkey.toNat ++ leBytes 12 0

/-- An endpoint table entry (Table 24.7). -/
def Endp.bytes (e : Endp) : List Byte :=
  leBytes 8 (e.podn.toNat + 2 ^ 32 * e.aid.toNat + (if e.valid then 2 ^ 63 else 0)) ++ leBytes 16 e.addr.toNat ++ leBytes 1 e.ports.toNat ++ leBytes 7 0

/-- `n` bytes from `a` of a table whose entries have `size` bytes. -/
def tableBytes (size : Nat) (entry : Nat → List Byte) (a n : Nat) : List Byte :=
  if n = 0 then [] else
    (((span (a / size) ((a + n - 1) / size + 1 - a / size)).flatMap entry).drop (a % size)).take n

/-- The contents of a READ space other than device memory (Table 24.6). -/
def State.spaceBytes (s : State) (space a n : Nat) : List Byte :=
  match space with
  | 1 => s.ctlBytes a n
  | 2 => tableBytes 16 (fun i => rrcTag s.rrc[i]?) a n
  | 3 => tableBytes 8 (fun i => rowEntry (s.bank (i / 64)).rows[i % 64]?) a n
  | 4 => tableBytes 64 (fun i => match Map.find? s.conns i with | some c => c.bytes | none => leBytes 64 0) a n
  | _ => tableBytes 32 (fun i => match Map.find? s.endps i with | some e => e.bytes | none => leBytes 32 0) a n

/-- The end of a READ space (Table 24.6). -/
def State.spaceEnd (s : State) (space : Nat) : Nat :=
  match space with
  | 0 => 2 ^ 39 | 1 => 2 ^ 20 | 2 => 16 * (s.cfg.rrcsize * 2 ^ 19) | 3 => 262144 | 4 => 4194304 | 5 => 131072 | _ => 0

/-- READ (R507, R510). -/
def execRead (r : MgmtReq) (s : State) : Res :=
  let space := fld r.payload 0 1
  let n := fld r.payload 4 4
  let a := fld r.payload 8 8
  s.serveListed 6 r (MgmtReq.shape r 16 (decide (fld r.payload 1 3 = 0 ∧ 1 ≤ n ∧ n ≤ 65536))) fun s =>
    if s.spaceEnd space < a + n ∨ (space ≠ 0 ∧ (a % 8 ≠ 0 ∨ n % 8 ≠ 0)) then .next (s.reply 6 r 2 [])
    else if space = 0 then
      match s.readPhys a n with
      | (s1, some bs) => .next (s1.reply 6 r 0 bs)
      | (s1, none) => .next (s1.reply 6 r 4 [])
    else .next (s.reply 6 r 0 (s.spaceBytes space a n))

/-- A number that no READ in progress has. -/
def State.readNumber (s : State) : Nat := s.lineJobs.foldl (fun n j => match j.who with | .inr k => max n (k + 1) | .inl _ => n) 0

/-- READ of device memory, served line by line (R507). -/
def State.spreadRead (s : State) (r : MgmtReq) : State :=
  let n := fld r.payload 4 4
  let a := fld r.payload 8 8
  if s.mgmt.starting.isNone ∧ s.listed r.conn ∧ MgmtReq.shape r 16 (decide (fld r.payload 0 4 = 0 ∧ 1 ≤ n ∧ n ≤ 65536)) ∧ a + n ≤ 2 ^ 39 then
    { s.modMgmt (fun m => { m with answers := m.answers ++ [⟨r.conn, r.tag, 6, [], none, some s.readNumber, 0, []⟩] }) with
      lineJobs := s.lineJobs ++ [⟨.inr s.readNumber, false, a, [], n⟩] }
  else Res.state (execRead r s) s

/-- A request for device memory whose lines take places of their own (R368, R507). -/
def State.spread (s : State) (i : Instr) : State :=
  match i with
  | .rdmaWrite conn key addr data => s.spreadRdma conn key addr data.length (some data) (execRdmaWrite conn key addr data s)
  | .rdmaRead conn key addr n => s.spreadRdma conn key addr n none (execRdmaRead conn key addr n s)
  | .read r => s.spreadRead r
  | .tcpConnection (.frame conn magic op tag payload) => if magic = 0x4D51 ∧ op = 6 then s.spreadRead ⟨conn, tag, payload⟩ else s
  | _ => s

/-! ## CONNSET, EPSET (R510, R511) -/

/-- The connection table entry of 64 bytes; reserved fields read as zero (R10). -/
def connOf (bs : List Byte) : Conn where
  valid := flag (fld bs 0 4) 0
  port := BitVec.ofNat 3 (field (fld bs 0 4) 1 3)
  dmr := flag (fld bs 0 4) 4
  dmrw := flag (fld bs 0 4) 5
  dcs := flag (fld bs 0 4) 6
  rqpn := BitVec.ofNat 24 (fld bs 4 4)
  spsn := BitVec.ofNat 24 (fld bs 8 4)
  rpsn := BitVec.ofNat 24 (fld bs 0x0C 4)
  rgid := BitVec.ofNat 128 (fld bs 0x10 16)
  rmac := BitVec.ofNat 48 (fld bs 0x20 8)
  dmrkey := BitVec.ofNat 32 (fld bs 0x28 4)
  dcskey := BitVec.ofNat 32 (fld bs 0x2C 4)
  hostkey := BitVec.ofNat 32 (fld bs 0x30 4)

/-- The endpoint table entry of 32 bytes. -/
def endpOf (bs : List Byte) : Endp where
  podn := BitVec.ofNat 32 (fld bs 0 4)
  aid := BitVec.ofNat 10 (fld bs 4 4)
  valid := flag (fld bs 4 4) 31
  addr := BitVec.ofNat 128 (fld bs 8 16)
  ports := BitVec.ofNat 8 (fld bs 0x18 1)

/-- A notice that is pending on a connection is not sent (R510). -/
def Ring.unpend (r : Ring) (conn : Nat) : Ring := if r.nqp = conn then { r with notified := r.tail } else r

/-- The connection that an entry describes ends: its requests in progress are abandoned, its pending notices are not sent (R510). -/
def State.endConnection (s : State) (n : Nat) : State :=
  if (s.conn? n).isSome then
    { s with lineJobs := s.lineJobs.filter (fun j => j.who != Sum.inl n), rrq := s.rrq.unpend n, flt := s.flt.unpend n }
  else s

/-- CONNSET (R98, R510): one entry, whole. -/
def execConnset (r : MgmtReq) (s : State) : Res :=
  let n := fld r.payload 0 8
  s.serveListed 7 r (MgmtReq.shape r 72 (decide (1 ≤ n ∧ n ≤ 65535))) fun s =>
    let s1 := s.endConnection n
    .next ({ s1 with conns := Map.put s1.conns n (connOf (r.payload.drop 8)) }.reply 7 r 0 [])

/-- EPSET (R511): one entry, whole. -/
def execEpset (r : MgmtReq) (s : State) : Res :=
  let n := fld r.payload 0 8
  s.serveListed 8 r (MgmtReq.shape r 40 (decide (n ≤ 4095))) fun s =>
    .next ({ s with endps := Map.put s.endps n (endpOf (r.payload.drop 8)) }.reply 8 r 0 [])

/-! ## MSAVE, MRESUME (R507) -/

/-- The reserved bits of a team's name are zero. -/
def MgmtReq.teamOk (r : MgmtReq) : Bool := decide (fld r.payload 0 4 < 2 ^ 12 ∧ fld r.payload 8 8 < 2 ^ 24)

/-- The team that a request names; a killed team exists no more (R474), a member that is only reserved here not yet (R137). -/
def State.mgmtTeam (s : State) (r : MgmtReq) : Option (Nat × Team) :=
  (s.named (BitVec.ofNat 12 (fld r.payload 0 4)) (BitVec.ofNat 32 (fld r.payload 4 4)) (fld r.payload 8 8)).bind fun e =>
    if e.2.killed || s.resvs.any (fun (x : Resv) => x.team == e.1 && !x.committed && !x.resumed) then none else some e

/-- A team, or the members of its gang on this K9. -/
def State.withGang (s : State) (t : Nat) (T : Team) : List Nat :=
  if T.gang.isNone then [t] else (s.teams.filter fun e => e.2.gang.isSome && e.2.gridNo == T.gridNo && !e.2.killed).map Prod.fst

/-- MSAVE (R507): the response waits until the team is saved, and every member of its gang, here and elsewhere. -/
def execMsave (r : MgmtReq) (s : State) : Res :=
  s.serveListed 9 r (MgmtReq.shape r 16 (MgmtReq.teamOk r)) fun s =>
    match s.mgmtTeam r with
    | none => .next (s.reply 9 r 4 [])
    | some (t, T) =>
      let s1 := (s.withGang t T).foldl (fun s k => s.modTeam k fun U => { U with mheld := true }) s
      let s2 := if T.core?.isSome then s1.startSaves t else s1
      .next (s2.modMgmt fun m =>
        { m with answers := m.answers ++ [⟨r.conn, r.tag, 9, if T.core?.isSome then [t] else [], if T.gang.isSome then some T.gridNo else none, none, 0, []⟩] }).flushMgmt

/-- MRESUME (R507): the team goes back to the rank of R93. -/
def execMresume (r : MgmtReq) (s : State) : Res :=
  s.serveListed 10 r (MgmtReq.shape r 16 (MgmtReq.teamOk r)) fun s =>
    match s.mgmtTeam r with
    | none => .next (s.reply 10 r 4 [])
    | some (t, T) =>
      if !T.mheld then .next (s.reply 10 r 4 [])
      else .next ((((s.withGang t T).foldl (fun s k => s.modTeam k fun U => { U with mheld := false }) s).freed none).reply 10 r 0 [])

/-! ## What TCP brings (R508) -/

/-- A connection is opened: the lowest number that is free, where fewer than four are open; a fifth is refused. -/
def State.openConn (s : State) (peer : BitVec 128) : State :=
  match (span 0 4).find? fun n => (s.peerOf n).isNone with
  | some n => (s.modMgmt fun m => { m with conns := Map.put m.conns n peer }).send (.tcp (some n))
  | none => s.send (.tcp none)

/-- A request frame by its OP (Table 24.5). -/
def State.serveFrame (s : State) (op : BitVec 16) (r : MgmtReq) : Res :=
  match op.toNat with
  | 1 => execStatus r s
  | 2 => execQuote r s
  | 3 => execFlashwr r s
  | 4 => execFlashseal r s
  | 5 => execStart r s
  | 6 => execRead r s
  | 7 => execConnset r s
  | 8 => execEpset r s
  | 9 => execMsave r s
  | 10 => execMresume r s
  | _ => s.badOp op r

/-- TCP_CONNECTION (R508): a connection is opened or refused, or ends; a frame whose MAGIC is wrong ends it. -/
def execTcpConnection (e : TcpEvent) (s : State) : Res :=
  match e with
  | .opened peer => .next (s.openConn peer)
  | .closed conn => .next (s.endConn conn)
  | .frame conn magic op tag payload =>
    if (s.peerOf conn).isNone then .next s
    else if magic ≠ 0x4D51 then .next ((s.endConn conn).send (.tcpEnd conn))
    else s.serveFrame op ⟨conn, tag, payload⟩

end Sys2Proof.Machine
end

