-- ==== Sys2Proof/Machine/SteerInt.lean ====
section
/-! DEFINITION. Steering instructions 0x00-0x15: scalar arithmetic, compare, select and division (13.2). -/

namespace Sys2Proof.Machine

/-- SADD (Table 13.2). -/
def execSadd (o : S3) (s : State) : Res := s.sint3 o fun a b => a + b
/-- SSUB; with .rev b - a. -/
def execSsub (o : S3) (rev : Bool) (s : State) : Res := s.sint3 o fun a b => if rev then b - a else a - b
/-- SMUL. -/
def execSmul (o : S3) (s : State) : Res := s.sint3 o fun a b => a * b
/-- SMULH. -/
def execSmulh (o : S3) (u : Bool) (s : State) : Res := s.sint3 o fun a b => if u then Alu.mulhu a b else Alu.mulhs a b
/-- SMIN. -/
def execSmin (o : S3) (u : Bool) (s : State) : Res := s.sint3 o fun a b => Alu.min u a b
/-- SMAX. -/
def execSmax (o : S3) (u : Bool) (s : State) : Res := s.sint3 o fun a b => Alu.max u a b
/-- SAND. -/
def execSand (o : S3) (s : State) : Res := s.sint3 o fun a b => a &&& b
/-- SOR. -/
def execSor (o : S3) (s : State) : Res := s.sint3 o fun a b => a ||| b
/-- SXOR. -/
def execSxor (o : S3) (s : State) : Res := s.sint3 o fun a b => a ^^^ b
/-- SSHL. -/
def execSshl (o : S3) (s : State) : Res := s.sint3 o fun a b => Alu.shl a b
/-- SSHR. -/
def execSshr (o : S3) (s : State) : Res := s.sint3 o fun a b => Alu.shr a b
/-- SSAR. -/
def execSsar (o : S3) (s : State) : Res := s.sint3 o fun a b => Alu.sar a b
/-- SBFX. -/
def execSbfx (o : S3) (s : State) : Res := s.sint3 o fun a b => Alu.bfx a b
/-- SPOPC. -/
def execSpopc (o : S2) (s : State) : Res := s.sint2 o Alu.popc
/-- SCLZ. -/
def execSclz (o : S2) (s : State) : Res := s.sint2 o Alu.clz

/-- SCMP (R303). -/
def execScmp (c : ICond) (p : Cond) (a : SReg) (b : SSrc) (s : State) : Res :=
  s.steerEff (a.toNat :: ssrcRegs b) fun st => st.setCond p.toNat (Alu.icmp c (st.reg a.toNat) (ssrcVal b st))

/-- SSEL (R303). -/
def execSsel (o : S3) (c : Cond) (n : Bool) (s : State) : Res :=
  s.steerEff ([o.d.toNat, o.a.toNat] ++ ssrcRegs o.b) fun st =>
    st.setReg o.d.toNat (if st.cond c.toNat != n then st.reg o.a.toNat else ssrcVal o.b st)

/-- SMOV (Table 13.2). -/
def execSmov (d : SReg) (b : SSrc) (s : State) : Res :=
  s.steerEff (d.toNat :: ssrcRegs b) fun st => st.setReg d.toNat (ssrcVal b st)

/-- SADD64 (R304). -/
def execSadd64 (o : S3) (s : State) : Res :=
  s.steerEff ([o.d.toNat, o.d.toNat + 1, o.a.toNat, o.a.toNat + 1] ++ ssrcPairRegs o.b) fun st =>
    st.setPair o.d.toNat (st.pairAt o.a.toNat + ssrcPair o.b st)

/-- CLOP (R303). -/
def execClop (op : PlopOp) (d a b : Cond) (s : State) : Res :=
  s.steerEff [] fun st => st.setCond d.toNat (Alu.plop op (st.cond a.toNat) (st.cond b.toNat))

/-- A division: a late result (R299, R305). -/
def State.sdivide (s : State) (o : S3) (f : Word → Word → Word) : Res :=
  s.steerRun ([o.d.toNat, o.a.toNat] ++ ssrcRegs o.b) fun t T st =>
    .next (s.lateSteer t T [o.d.toNat] [(o.d.toNat, f (st.reg o.a.toNat) (ssrcVal o.b st))] .due)

/-- SDIV (R305). -/
def execSdiv (o : S3) (u : Bool) (s : State) : Res := s.sdivide o (Alu.sdiv u)
/-- SREM (R305). -/
def execSrem (o : S3) (u : Bool) (s : State) : Res := s.sdivide o (Alu.srem u)

end Sys2Proof.Machine
end

