-- ==== Sys2Proof/Machine/Dispatch.lean ====
section
/-! DEFINITION. The dispatch: one arm per constructor of Instr. -/

namespace Sys2Proof.Machine

/-- What performing an instruction, or an event, does to the state. -/
def exec (i : Instr) (s : State) : Host.Outcome State Fault Refusal :=
  match i with
  | .iadd o => Sys2Proof.Machine.execIadd o s
  | .isub o rev => Sys2Proof.Machine.execIsub o rev s
  | .imul o => Sys2Proof.Machine.execImul o s
  | .imulh o u => Sys2Proof.Machine.execImulh o u s
  | .imad o => Sys2Proof.Machine.execImad o s
  | .imin o u => Sys2Proof.Machine.execImin o u s
  | .imax o u => Sys2Proof.Machine.execImax o u s
  | .iabs o => Sys2Proof.Machine.execIabs o s
  | .and o => Sys2Proof.Machine.execAnd o s
  | .or o => Sys2Proof.Machine.execOr o s
  | .xor o => Sys2Proof.Machine.execXor o s
  | .andn o => Sys2Proof.Machine.execAndn o s
  | .shl o => Sys2Proof.Machine.execShl o s
  | .shr o => Sys2Proof.Machine.execShr o s
  | .sar o => Sys2Proof.Machine.execSar o s
  | .rol o => Sys2Proof.Machine.execRol o s
  | .bfx o => Sys2Proof.Machine.execBfx o s
  | .bfi o => Sys2Proof.Machine.execBfi o s
  | .popc o => Sys2Proof.Machine.execPopc o s
  | .clz o => Sys2Proof.Machine.execClz o s
  | .brev o => Sys2Proof.Machine.execBrev o s
  | .icmp c p o => Sys2Proof.Machine.execIcmp c p o s
  | .isel o w p n => Sys2Proof.Machine.execIsel o w p n s
  | .mov d b => Sys2Proof.Machine.execMov d b s
  | .movs d n => Sys2Proof.Machine.execMovs d n s
  | .iadd64 o => Sys2Proof.Machine.execIadd64 o s
  | .imulw o sg => Sys2Proof.Machine.execImulw o sg s
  | .plop op d a b => Sys2Proof.Machine.execPlop op d a b s
  | .pmovGet d => Sys2Proof.Machine.execPmovGet d s
  | .pmovPut a ha => Sys2Proof.Machine.execPmovPut a ha s
  | .pmovSet w => Sys2Proof.Machine.execPmovSet w s
  | .setx n v => Sys2Proof.Machine.execSetx n v s
  | .movx d n b => Sys2Proof.Machine.execMovx d n b s
  | .stx d n b => Sys2Proof.Machine.execStx d n b s
  | .fadd o rm => Sys2Proof.Machine.execFadd o rm s
  | .fsub o rm => Sys2Proof.Machine.execFsub o rm s
  | .fmul o rm => Sys2Proof.Machine.execFmul o rm s
  | .ffma o rm => Sys2Proof.Machine.execFfma o rm s
  | .fmin o prop => Sys2Proof.Machine.execFmin o prop s
  | .fmax o prop => Sys2Proof.Machine.execFmax o prop s
  | .fcmp c p o => Sys2Proof.Machine.execFcmp c p o s
  | .fclass o => Sys2Proof.Machine.execFclass o s
  | .frnd o rm => Sys2Proof.Machine.execFrnd o rm s
  | .f2i o rm u => Sys2Proof.Machine.execF2i o rm u s
  | .i2f o rm u => Sys2Proof.Machine.execI2f o rm u s
  | .fcvt o rm dir hi => Sys2Proof.Machine.execFcvt o rm dir hi s
  | .hadd2 o rm bf nb => Sys2Proof.Machine.execHadd2 o rm bf nb s
  | .hmul2 o rm bf nb => Sys2Proof.Machine.execHmul2 o rm bf nb s
  | .hfma2 o rm bf nb => Sys2Proof.Machine.execHfma2 o rm bf nb s
  | .hminmax2 o bf mx prop => Sys2Proof.Machine.execHminmax2 o bf mx prop s
  | .hcmp2 c p o bf => Sys2Proof.Machine.execHcmp2 c p o bf s
  | .fscale o rm => Sys2Proof.Machine.execFscale o rm s
  | .fexp o m => Sys2Proof.Machine.execFexp o m s
  | .fsgn o op => Sys2Proof.Machine.execFsgn o op s
  | .rcp o => Sys2Proof.Machine.execRcp o s
  | .rsq o => Sys2Proof.Machine.execRsq o s
  | .sqrt o => Sys2Proof.Machine.execSqrt o s
  | .fdiv o b hb => Sys2Proof.Machine.execFdiv o b hb s
  | .ex2 o => Sys2Proof.Machine.execEx2 o s
  | .lg2 o => Sys2Proof.Machine.execLg2 o s
  | .sinpi o => Sys2Proof.Machine.execSinpi o s
  | .cospi o => Sys2Proof.Machine.execCospi o s
  | .f8pk o kind rm pos => Sys2Proof.Machine.execF8pk o kind rm pos s
  | .f8up o byte e5m2 => Sys2Proof.Machine.execF8up o byte e5m2 s
  | .f4pk o kind rz pos => Sys2Proof.Machine.execF4pk o kind rz pos s
  | .f4up o nib => Sys2Proof.Machine.execF4up o nib s
  | .bmax o => Sys2Proof.Machine.execBmax o s
  | .qdot8 o => Sys2Proof.Machine.execQdot8 o s
  | .qdot4 o => Sys2Proof.Machine.execQdot4 o s
  | .dxexp o kind delta => Sys2Proof.Machine.execDxexp o kind delta s
  | .dxdec o four sel ix sa => Sys2Proof.Machine.execDxdec o four sel ix sa s
  | .ld m => Sys2Proof.Machine.execLd m s
  | .st m => Sys2Proof.Machine.execSt m s
  | .lds m => Sys2Proof.Machine.execLds m s
  | .sts m => Sys2Proof.Machine.execSts m s
  | .atom m => Sys2Proof.Machine.execAtom m s
  | .atomf m => Sys2Proof.Machine.execAtomf m s
  | .atomx m => Sys2Proof.Machine.execAtomx m s
  | .ldw m => Sys2Proof.Machine.execLdw m s
  | .stw m => Sys2Proof.Machine.execStw m s
  | .atw m => Sys2Proof.Machine.execAtw m s
  | .mcst m => Sys2Proof.Machine.execMcst m s
  | .rreq m => Sys2Proof.Machine.execRreq m s
  | .pref m => Sys2Proof.Machine.execPref m s
  | .fence sc => Sys2Proof.Machine.execFence sc s
  | .fadv f cons b => Sys2Proof.Machine.execFadv f cons b s
  | .fcnt d f sel => Sys2Proof.Machine.execFcnt d f sel s
  | .br p n j tgt => Sys2Proof.Machine.execBr p n j tgt s
  | .jmp tgt => Sys2Proof.Machine.execJmp tgt s
  | .call tgt => Sys2Proof.Machine.execCall tgt s
  | .calli a j => Sys2Proof.Machine.execCalli a j s
  | .ret j => Sys2Proof.Machine.execRet j s
  | .join a p j => Sys2Proof.Machine.execJoin a p j s
  | .exit => Sys2Proof.Machine.execExit s
  | .spawn a p tgt => Sys2Proof.Machine.execSpawn a p tgt s
  | .redq n op a ha => Sys2Proof.Machine.execRedq n op a ha s
  | .dqpop d p => Sys2Proof.Machine.execDqpop d p s
  | .bara k p => Sys2Proof.Machine.execBara k p s
  | .barw k arv p => Sys2Proof.Machine.execBarw k arv p s
  | .rclaim p b => Sys2Proof.Machine.execRclaim p b s
  | .rrel p b pool => Sys2Proof.Machine.execRrel p b pool s
  | .trdy a ha b => Sys2Proof.Machine.execTrdy a ha b s
  | .rayq d a la b p any => Sys2Proof.Machine.execRayq d a la b p any s
  | .rwsend m => Sys2Proof.Machine.execRwsend m s
  | .rwrecv d f la => Sys2Proof.Machine.execRwrecv d f la s
  | .rwrecvNb d f la p => Sys2Proof.Machine.execRwrecvNb d f la p s
  | .trap code => Sys2Proof.Machine.execTrap code s
  | .brkpt => Sys2Proof.Machine.execBrkpt s
  | .srd d sel => Sys2Proof.Machine.execSrd d sel s
  | .nop => Sys2Proof.Machine.execNop s
  | .yield => Sys2Proof.Machine.execYield s
  | .stat d clr => Sys2Proof.Machine.execStat d clr s
  | .sadd o => Sys2Proof.Machine.execSadd o s
  | .ssub o rev => Sys2Proof.Machine.execSsub o rev s
  | .smul o => Sys2Proof.Machine.execSmul o s
  | .smulh o u => Sys2Proof.Machine.execSmulh o u s
  | .smin o u => Sys2Proof.Machine.execSmin o u s
  | .smax o u => Sys2Proof.Machine.execSmax o u s
  | .sand o => Sys2Proof.Machine.execSand o s
  | .sor o => Sys2Proof.Machine.execSor o s
  | .sxor o => Sys2Proof.Machine.execSxor o s
  | .sshl o => Sys2Proof.Machine.execSshl o s
  | .sshr o => Sys2Proof.Machine.execSshr o s
  | .ssar o => Sys2Proof.Machine.execSsar o s
  | .sbfx o => Sys2Proof.Machine.execSbfx o s
  | .spopc o => Sys2Proof.Machine.execSpopc o s
  | .sclz o => Sys2Proof.Machine.execSclz o s
  | .scmp c p a b => Sys2Proof.Machine.execScmp c p a b s
  | .ssel o c n => Sys2Proof.Machine.execSsel o c n s
  | .smov d b => Sys2Proof.Machine.execSmov d b s
  | .sadd64 o => Sys2Proof.Machine.execSadd64 o s
  | .clop op d a b => Sys2Proof.Machine.execClop op d a b s
  | .sdiv o u => Sys2Proof.Machine.execSdiv o u s
  | .srem o u => Sys2Proof.Machine.execSrem o u s
  | .sbr c n tgt => Sys2Proof.Machine.execSbr c n tgt s
  | .sjmp tgt => Sys2Proof.Machine.execSjmp tgt s
  | .scall tgt => Sys2Proof.Machine.execScall tgt s
  | .sret => Sys2Proof.Machine.execSret s
  | .sdone => Sys2Proof.Machine.execSdone s
  | .sloop d tgt => Sys2Proof.Machine.execSloop d tgt s
  | .dqpush role b => Sys2Proof.Machine.execDqpush role b s
  | .qrd d q b => Sys2Proof.Machine.execQrd d q b s
  | .sld d a sz sg hint off => Sys2Proof.Machine.execSld d a sz sg hint off s
  | .sst d a sz hint off => Sys2Proof.Machine.execSst d a sz hint off s
  | .satom d a b op wide unsigned => Sys2Proof.Machine.execSatom d a b op wide unsigned s
  | .sfence sc eng => Sys2Proof.Machine.execSfence sc eng s
  | .srds d sel => Sys2Proof.Machine.execSrds d sel s
  | .copy e sk dk sf df => Sys2Proof.Machine.execCopy e sk dk sf df s
  | .cube e mode init fa fb fc t => Sys2Proof.Machine.execCube e mode init fa fb fc t s
  | .cdrain e fmt clr df t delta => Sys2Proof.Machine.execCdrain e fmt clr df t delta s
  | .aclaim d b => Sys2Proof.Machine.execAclaim d b s
  | .arel b => Sys2Proof.Machine.execArel b s
  | .finit f a => Sys2Proof.Machine.execFinit f a s
  | .bari k rst b => Sys2Proof.Machine.execBari k rst b s
  | .bararm k => Sys2Proof.Machine.execBararm k s
  | .bararmTile pb k => Sys2Proof.Machine.execBararmTile pb k s
  | .coll e slot grp => Sys2Proof.Machine.execColl e slot grp s
  | .rwgrant d a b f => Sys2Proof.Machine.execRwgrant d a b f s
  | .sbara k c => Sys2Proof.Machine.execSbara k c s
  | .sbarw k arv c => Sys2Proof.Machine.execSbarw k arv c s
  | .cwait a b => Sys2Proof.Machine.execCwait a b s
  | .attime pb dt => Sys2Proof.Machine.execAttime pb dt s
  | .launch d a => Sys2Proof.Machine.execLaunch d a s
  | .waitch one => Sys2Proof.Machine.execWaitch one s
  | .bwp b => Sys2Proof.Machine.execBwp b s
  | .gdetach => Sys2Proof.Machine.execGdetach s
  | .rrinv h => Sys2Proof.Machine.execRrinv h s
  | .wprobe d h => Sys2Proof.Machine.execWprobe d h s
  | .strap code => Sys2Proof.Machine.execStrap code s
  | .sbrk => Sys2Proof.Machine.execSbrk s
  | .snop => Sys2Proof.Machine.execSnop s
  | .syld => Sys2Proof.Machine.execSyld s
  | .lateResultWrite p id => Sys2Proof.Machine.execLateResultWrite p id s
  | .nopRecord q => Sys2Proof.Machine.execNopRecord q s
  | .launchRecord q => Sys2Proof.Machine.execLaunchRecord q s
  | .signalRecord q => Sys2Proof.Machine.execSignalRecord q s
  | .waitRereadTimer grid => Sys2Proof.Machine.execWaitRereadTimer grid s
  | .tfireReached grid => Sys2Proof.Machine.execTfireReached grid s
  | .attimeFire team idx => Sys2Proof.Machine.execAttimeFire team idx s
  | .teamPlace die => Sys2Proof.Machine.execTeamPlace die s
  | .passoverTimeout die => Sys2Proof.Machine.execPassoverTimeout die s
  | .preemptTimeout die => Sys2Proof.Machine.execPreemptTimeout die s
  | .waitchSaveTimeout die => Sys2Proof.Machine.execWaitchSaveTimeout die s
  | .stageLineLand team idx unit => Sys2Proof.Machine.execStageLineLand team idx unit s
  | .saveComplete team => Sys2Proof.Machine.execSaveComplete team s
  | .teamResume team => Sys2Proof.Machine.execTeamResume team s
  | .gangRound grid => Sys2Proof.Machine.execGangRound grid s
  | .gangReservationRequest r => Sys2Proof.Machine.execGangReservationRequest r s
  | .gangRoundTimeout grid => Sys2Proof.Machine.execGangRoundTimeout grid s
  | .gangRelease grid member => Sys2Proof.Machine.execGangRelease grid member s
  | .gangCommit grid => Sys2Proof.Machine.execGangCommit grid s
  | .gangStagedReport grid member => Sys2Proof.Machine.execGangStagedReport grid member s
  | .gangOpen grid => Sys2Proof.Machine.execGangOpen grid s
  | .gangBringupTimeout grid member => Sys2Proof.Machine.execGangBringupTimeout grid member s
  | .gangRetry r => Sys2Proof.Machine.execGangRetry r s
  | .detachNotice grid member done => Sys2Proof.Machine.execDetachNotice grid member done s
  | .gangBreak grid member => Sys2Proof.Machine.execGangBreak grid member s
  | .brokerSilenceTimeout grid member => Sys2Proof.Machine.execBrokerSilenceTimeout grid member s
  | .phaseInForce ctx => Sys2Proof.Machine.execPhaseInForce ctx s
  | .memoryLineAccess set => Sys2Proof.Machine.execMemoryLineAccess set s
  | .actIdleTimeout set => Sys2Proof.Machine.execActIdleTimeout set s
  | .retEntryTimeout set => Sys2Proof.Machine.execRetEntryTimeout set s
  | .wakeComplete set => Sys2Proof.Machine.execWakeComplete set s
  | .clearingEnd set => Sys2Proof.Machine.execClearingEnd set s
  | .patrolIntervalStart => Sys2Proof.Machine.execPatrolIntervalStart s
  | .patrolRead set granule corrected bad => Sys2Proof.Machine.execPatrolRead set granule corrected bad s
  | .windowTimeout id => Sys2Proof.Machine.execWindowTimeout id s
  | .slotTransmit unit => Sys2Proof.Machine.execSlotTransmit unit s
  | .beaconLoss => Sys2Proof.Machine.execBeaconLoss s
  | .rrqTailNotice => Sys2Proof.Machine.execRrqTailNotice s
  | .fltTailNotice => Sys2Proof.Machine.execFltTailNotice s
  | .waveSwap core part => Sys2Proof.Machine.execWaveSwap core part s
  | .starvationPromote core part => Sys2Proof.Machine.execStarvationPromote core part s
  | .slotReclaim core part => Sys2Proof.Machine.execSlotReclaim core part s
  | .formerEmitTimeout core part => Sys2Proof.Machine.execFormerEmitTimeout core part s
  | .joinTimeout team j => Sys2Proof.Machine.execJoinTimeout team j s
  | .claimDeadlock team => Sys2Proof.Machine.execClaimDeadlock team s
  | .tileDeadlock core => Sys2Proof.Machine.execTileDeadlock core s
  | .cwaitPoll team => Sys2Proof.Machine.execCwaitPoll team s
  | .firedCommandEnqueue team idx => Sys2Proof.Machine.execFiredCommandEnqueue team idx s
  | .copyLineLand team idx unit => Sys2Proof.Machine.execCopyLineLand team idx unit s
  | .copyComplete team idx => Sys2Proof.Machine.execCopyComplete team idx s
  | .cubePass core => Sys2Proof.Machine.execCubePass core s
  | .cdrainStep core => Sys2Proof.Machine.execCdrainStep core s
  | .cubeComplete team idx => Sys2Proof.Machine.execCubeComplete team idx s
  | .collStart team idx => Sys2Proof.Machine.execCollStart team idx s
  | .readyToReceive m => Sys2Proof.Machine.execReadyToReceive m s
  | .transferDone m data => Sys2Proof.Machine.execTransferDone m data s
  | .collQuery ctx grp seq asker => Sys2Proof.Machine.execCollQuery ctx grp seq asker s
  | .collAbort at0 grp seq cause code rank norank => Sys2Proof.Machine.execCollAbort at0 grp seq cause code rank norank s
  | .collComplete team idx => Sys2Proof.Machine.execCollComplete team idx s
  | .teamRetire team => Sys2Proof.Machine.execTeamRetire team s
  | .gridRetire grid => Sys2Proof.Machine.execGridRetire grid s
  | .privateBlockCleared ctx k => Sys2Proof.Machine.execPrivateBlockCleared ctx k s
  | .coldStart => Sys2Proof.Machine.execColdStart s
  | .reservedEncoding code => Sys2Proof.Machine.execReservedEncoding code s
  | .windowReply id r => Sys2Proof.Machine.execWindowReply id r s
  | .gangReservationAnswer grid member granted => Sys2Proof.Machine.execGangReservationAnswer grid member granted s
  | .gangSaveRequest grid => Sys2Proof.Machine.execGangSaveRequest grid s
  | .activate ctx => Sys2Proof.Machine.execActivate ctx s
  | .destroy ctx => Sys2Proof.Machine.execDestroy ctx s
  | .invalPage ctx => Sys2Proof.Machine.execInvalPage ctx s
  | .invalAll ctx => Sys2Proof.Machine.execInvalAll ctx s
  | .bind q => Sys2Proof.Machine.execBind q s
  | .unbind q => Sys2Proof.Machine.execUnbind q s
  | .doorbell q v => Sys2Proof.Machine.execDoorbell q v s
  | .bankOn set => Sys2Proof.Machine.execBankOn set s
  | .bankOff set => Sys2Proof.Machine.execBankOff set s
  | .bankInuse set => Sys2Proof.Machine.execBankInuse set s
  | .bankNotuse set => Sys2Proof.Machine.execBankNotuse set s
  | .bankPres set => Sys2Proof.Machine.execBankPres set s
  | .bankNopres set => Sys2Proof.Machine.execBankNopres set s
  | .remapLost set => Sys2Proof.Machine.execRemapLost set s
  | .busCodingChoice set low => Sys2Proof.Machine.execBusCodingChoice set low s
  | .stationTrain unit t => Sys2Proof.Machine.execStationTrain unit t s
  | .stationDown unit => Sys2Proof.Machine.execStationDown unit s
  | .stationUp unit => Sys2Proof.Machine.execStationUp unit s
  | .reachReport unit aids => Sys2Proof.Machine.execReachReport unit aids s
  | .slotmapWrite k v => Sys2Proof.Machine.execSlotmapWrite k v s
  | .inboundTransaction x => Sys2Proof.Machine.execInboundTransaction x s
  | .timeBeacon beacons xpod => Sys2Proof.Machine.execTimeBeacon beacons xpod s
  | .rdmaWrite conn key addr data => Sys2Proof.Machine.execRdmaWrite conn key addr data s
  | .rdmaRead conn key addr len => Sys2Proof.Machine.execRdmaRead conn key addr len s
  | .unsupportedRdmaRequest conn => Sys2Proof.Machine.execUnsupportedRdmaRequest conn s
  | .registerWrite conn key off v => Sys2Proof.Machine.execRegisterWrite conn key off v s
  | .tsq v => Sys2Proof.Machine.execTsq v s
  | .restart t => Sys2Proof.Machine.execRestart t s
  | .discard t => Sys2Proof.Machine.execDiscard t s
  | .killthread t => Sys2Proof.Machine.execKillthread t s
  | .killteam t => Sys2Proof.Machine.execKillteam t s
  | .killgrid t => Sys2Proof.Machine.execKillgrid t s
  | .grantMessage src ctx box n => Sys2Proof.Machine.execGrantMessage src ctx box n s
  | .recordLand src ctx key box data => Sys2Proof.Machine.execRecordLand src ctx key box data s
  | .slotReturn src ctx box => Sys2Proof.Machine.execSlotReturn src ctx box s
  | .closeNotice src ctx box => Sys2Proof.Machine.execCloseNotice src ctx box s
  | .status r => Sys2Proof.Machine.execStatus r s
  | .quote r => Sys2Proof.Machine.execQuote r s
  | .flashwr r => Sys2Proof.Machine.execFlashwr r s
  | .flashseal r => Sys2Proof.Machine.execFlashseal r s
  | .start r => Sys2Proof.Machine.execStart r s
  | .read r => Sys2Proof.Machine.execRead r s
  | .connset r => Sys2Proof.Machine.execConnset r s
  | .epset r => Sys2Proof.Machine.execEpset r s
  | .msave r => Sys2Proof.Machine.execMsave r s
  | .mresume r => Sys2Proof.Machine.execMresume r s
  | .powerCapLimit k watts => Sys2Proof.Machine.execPowerCapLimit k watts s
  | .thermalLimit celsius => Sys2Proof.Machine.execThermalLimit celsius s
  | .thermalTrip celsius => Sys2Proof.Machine.execThermalTrip celsius s
  | .tcpConnection e => Sys2Proof.Machine.execTcpConnection e s

end Sys2Proof.Machine
end

