-- ==== Sys2Proof/Machine/Turn.lean ====
section
/-! DEFINITION. What one turn of the agenda does: the issue of an instruction to a wave (R171-R174, R186, R205, R221, R225) or to a steering
thread (R212), an event, what the rules leave open to time (R358, R362, R363), the passing of time; and the turns that the device plans for itself
when its agenda is empty (log entry 1). -/

namespace Sys2Proof

/-- The join slot in which a control instruction records its divergence (R225). -/
def Machine.Instr.jrec (i : Instr) : Option Nat :=
  match i with
  | .br _ _ j _ => j.map BitVec.toNat
  | .calli _ j => j.map BitVec.toNat
  | .ret j => j.map BitVec.toNat
  | _ => none

/-- Memory accesses that an earlier access with ACQ, or a fence, holds back (R339, R362). -/
def Machine.Instr.accesses (i : Instr) : Bool :=
  match i with
  | .ld _ => true | .st _ => true | .lds _ => true | .sts _ => true | .atom _ => true | .atomf _ => true | .atomx _ => true
  | .ldw _ => true | .stw _ => true | .atw _ => true | .mcst _ => true | .rreq _ => true | .pref _ => true
  | .rayq _ _ _ _ _ _ => true | .rwsend _ => true | _ => false

/-- An instruction whose place in the single order is its own later event, or that has none: a local store before it may take its place after it
(R351, R363). -/
def Machine.Instr.quiet (i : Instr) : Bool :=
  match i with
  | .ldw _ => true | .pref _ => true | .rayq _ _ _ _ _ _ => true
  | .stw m => !m.rel | .atw m => !m.rel | .mcst m => !m.rel | .rwsend m => !m.rel
  | .br _ _ _ _ => true | .jmp _ => true | .call _ => true | .calli _ _ => true | .ret _ => true | .nop => true | .yield => true
  | .srd _ _ => true | .stat _ _ => true
  | .iadd _ => true | .isub _ _ => true | .imul _ => true | .imulh _ _ => true | .imad _ => true | .imin _ _ => true | .imax _ _ => true
  | .iabs _ => true | .and _ => true | .or _ => true | .xor _ => true | .andn _ => true | .shl _ => true | .shr _ => true | .sar _ => true
  | .rol _ => true | .bfx _ => true | .bfi _ => true | .popc _ => true | .clz _ => true | .brev _ => true | .icmp _ _ _ => true
  | .isel _ _ _ _ => true | .mov _ _ => true | .iadd64 _ => true | .imulw _ _ => true | .plop _ _ _ _ => true | .pmovGet _ => true
  | .pmovPut _ _ => true | .pmovSet _ => true | .setx _ _ => true | .movx _ _ _ => true | .stx _ _ _ => true
  | .fadd _ _ => true | .fsub _ _ => true | .fmul _ _ => true | .ffma _ _ => true | .fmin _ _ => true | .fmax _ _ => true | .fcmp _ _ _ => true
  | .fclass _ => true | .frnd _ _ => true | .f2i _ _ _ => true | .i2f _ _ _ => true | .fcvt _ _ _ _ => true | .hadd2 _ _ _ _ => true
  | .hmul2 _ _ _ _ => true | .hfma2 _ _ _ _ => true | .hminmax2 _ _ _ _ => true | .hcmp2 _ _ _ _ => true | .fscale _ _ => true
  | .fexp _ _ => true | .fsgn _ _ => true | .rcp _ => true | .rsq _ => true | .sqrt _ => true | .fdiv _ _ _ => true | .ex2 _ => true
  | .lg2 _ => true | .sinpi _ => true | .cospi _ => true | .f8pk _ _ _ _ => true | .f8up _ _ _ => true | .f4pk _ _ _ _ => true
  | .f4up _ _ => true | .bmax _ => true | .qdot8 _ => true | .qdot4 _ => true | .dxexp _ _ _ => true | .dxdec _ _ _ _ _ => true
  | _ => false

/-- An access of the steering thread or a command of its engines: what an SFENCE before it holds back (R316). -/
def Machine.Instr.fenced (i : Instr) : Bool :=
  match i with
  | .sld _ _ _ _ _ _ => true | .sst _ _ _ _ _ => true | .satom _ _ _ _ _ _ => true | .cwait _ _ => true | .launch _ _ => true | .wprobe _ _ => true
  | .copy _ _ _ _ _ => true | .cube _ _ _ _ _ _ _ => true | .cdrain _ _ _ _ _ _ => true | .coll _ _ _ => true
  | _ => false

/-- A memory instruction: the device does not state the order of the threads of a wave that perform it (R353). -/
def Machine.Instr.unordered (i : Instr) : Bool :=
  Machine.Instr.accesses i || (match i with | .fadv _ _ _ => true | .fcnt _ _ _ => true | _ => false)

end Sys2Proof

namespace Sys2Proof.Machine

/-! ## Issue to a wave -/

/-- The team may issue: the device runs, the team is resident and running, no command of it is faulted (R467, R476, R500, R505). -/
def State.mayIssue (s : State) (T : Team) : Bool :=
  s.portsOpen && T.core?.isSome && T.phase == .running && !T.killed && !T.isHeld

/-- The link stack of a thread goes to memory at this instruction (R266). -/
def Thread.spills (th : Thread) (i : Instr) : Bool :=
  match i with
  | .call _ => decide (4 ≤ th.link.length)
  | .calli _ _ => decide (4 ≤ th.link.length)
  | .ret _ => th.link.isEmpty && decide (0 < th.depth)
  | _ => false

/-- An instruction is ready for a thread (R173, R186, R205, R339, R362, R430). -/
def State.threadReady (s : State) (t : Nat) (T : Team) (cl : Clause) (k : Nat) (i : Instr) (tid : Nat) : Bool :=
  match T.thread? tid with
  | none => true
  | some th =>
    !th.waitsResult cl k && !s.accessHolds t tid && !((Instr.accesses i || th.spills i) && s.memBlocked t tid th)

/-- The guard value of a thread at slot `k` (R171). -/
def Thread.guard (th : Thread) (cl : Clause) (k : Nat) : Bool := if k = 0 then cl.gen && th.pred cl.gpred.toNat != cl.gneg else th.g

/-- The guard is read at this slot and a shadowed result names it (R186). -/
def Thread.guardLate (th : Thread) (cl : Clause) (k : Nat) : Bool := decide (k = 0) && cl.gen && th.shadowed [] [cl.gpred.toNat]

/-- One instruction more has been executed: the shadows that stood before it count down, and a thread that is still in its wave stands at its
next position (R186). A precise stop is no execution; an instruction that may still meet a precise fault (`pending`) counts when it is done. -/
def Thread.counted (th : Thread) (before : List Nat) (pending : Bool) : Thread :=
  let down := if pending then th else th.countDown before.contains
  match th.st with
  | .stopped r => if stopsAfter r.code then down else th
  | .wave => { down with pos := down.nextPos }
  | .parked (.send _ _ _ _ _ _) => th
  | .parked (.line _ (.ray _ _)) => th
  | _ => down

/-- A fault of the checks that come before LOOKAHEAD (R193): a decoding fault, or an operand out of range; what the instruction's own entry
names comes after it (R341, R430, R443). -/
def beforeLookahead (T : Team) (th : Thread) (i : Instr) (code : BitVec 8) : Bool :=
  let out := fun (b : Src) => (srcRegs b).any fun r => decide (T.regCount th ≤ r)
  if code == Code.badDict || code == Code.reservedOp then true
  else if code == Code.regRange then (match i with | .rclaim _ b => out b | .rrel _ b _ => out b | _ => true)
  else if code == Code.indexRange then (match i with | .trdy _ _ _ => false | _ => true)
  else if code == Code.feedRange then (match i with | .fadv f _ _ => decide (T.img.nfeed ≤ f.toNat) | _ => true)
  else false

/-- A thread stopped at one of the checks before LOOKAHEAD. -/
def State.stoppedEarly (s : State) (t tid : Nat) (T : Team) (th : Thread) (i : Instr) : Bool :=
  match (s.team? t).bind fun T => T.thread? tid with
  | some x => (match x.st with | .stopped r => beforeLookahead T th i r.code | _ => false)
  | none => false

/-- Stop a thread at a position (R169, R174). -/
def State.stopAt (s : State) (t tid : Nat) (p : Pos) (f : Trap) : State :=
  s.onThread t tid fun T th => let r := T.laneRec tid p f; (s.setThread t T tid { th with st := .stopped r }).report r

/-- No instruction can be read as one: a decoding fault, which the guard does not skip (R193). -/
def isFault (i : Instr) : Bool := match i with | .reservedEncoding _ => true | _ => false

/-- The local stores of a thread that has held them take their places before an instruction that has one itself (R363). -/
def State.settle (s : State) (t tid : Nat) (th : Thread) (i : Instr) : State :=
  if Instr.quiet i && !th.spills i then s else s.performThread t tid

/-- THE ISSUE OF ONE INSTRUCTION TO ONE LANE THREAD (R171, R174, R186, R193): the thread stands at slot `k` with its guard value and its
next position preset to what follows the slot; `i` is performed unless the guard skips it. -/
def State.issueThread (s : State) (t : Nat) (cl : Clause) (k : Nat) (guarded : Bool) (i : Instr) (tid : Nat) : Res :=
  match s.team? t with
  | none => .next s
  | some T =>
    match T.thread? tid with
    | none => .next s
    | some th =>
      if th.st ≠ .wave then .next s
      else
        let g := th.guard cl k
        let s1 := { s.setThread t T tid { th with g := g, pos := ⟨cl.h, k⟩, nextPos := cl.after k } with cur := some (.lane t tid) }
        let done := fun (s : State) => Host.Outcome.next { s.modThread t tid (fun x => x.counted (th.late.map Late.id) (s.accessHolds t tid)) with cur := none }
        if cl.gen && guarded && !g && !isFault i then done s1
        else
          match exec i (s1.settle t tid th i) with
          | .next s2 =>
            if th.guardLate cl k && !s2.stoppedEarly t tid T th i then done (s1.stopAt t tid ⟨cl.h, k⟩ { code := Code.lookahead }) else done s2
          | r => r

/-- The issue to several threads, one after another. -/
def State.issueAll (s : State) (t : Nat) (cl : Clause) (k : Nat) (guarded : Bool) (i : Instr) : List Nat → Res
  | [] => .next s
  | tid :: r =>
    match s.issueThread t cl k guarded i tid with
    | .next s1 => State.issueAll s1 t cl k guarded i r
    | o => o

/-- The position of a thread that is still in its wave. -/
def Team.wavePos (T : Team) (tid : Nat) : Option Pos :=
  match T.thread? tid with
  | some th => if th.st = .wave then some th.pos else none
  | none => none

/-- Of two groups of a diverged wave, the one that stays (R221): the larger, then the fall-through, then the lower target. -/
def stays (ft : Pos) (a b : Pos × List Nat) : Pos × List Nat :=
  if a.2.length < b.2.length then b
  else if b.2.length < a.2.length then a
  else if a.1 = ft then a
  else if b.1 = ft then b
  else if b.1.h < a.1.h then b else a

/-- After an instruction: the threads that stand together stay in the wave, every other group leaves it for the former (R221, R225). `latch` is
the operand latch if they are the whole wave. -/
def State.regroup (s : State) (c p k : Nat) (w : Wave) (cl : Clause) (i : Instr) (latch : List (Nat × Nat)) : State :=
  match s.team? w.team with
  | none => s.setPart c p { s.part c p with waves := Map.erase (s.part c p).waves k }
  | some T =>
    let here := w.tids.filterMap fun tid => (T.wavePos tid).map fun q => (tid, q)
    let qs := (here.map Prod.snd).eraseDups
    let groups := qs.map fun q => (q, (here.filter fun e => e.2 == q).map Prod.fst)
    match groups with
    | [] => s.setPart c p { s.part c p with waves := Map.erase (s.part c p).waves k }
    | g0 :: gs =>
      let stay := gs.foldl (stays (cl.after w.pos.k)) g0
      let leave := groups.filter fun g => g.1 != stay.1
      let T1 := match Instr.jrec i with
        | some j => if leave.isEmpty then T else
            T.setJoin j { T.join j with mask := (T.join j).mask ++ (here.map Prod.fst).filter fun x => !(T.join j).mask.contains x }
        | none => T
      let T2 := leave.foldl (fun T g => g.2.foldl (fun T x => T.modThread x fun th => th.enterFormer g.1) T) T1
      let w1 : Wave :=
        { w with tids := stay.2, pos := stay.1, clause := if stay.1.k = 0 then none else some cl,
                 yielded := (decide (stay.1.k = 0) && cl.yld) || i == .yield, readySince := s.clock,
                 latch := if stay.2.length = w.tids.length then latch else [] }
      let s1 := (s.setTeam w.team T2).setPart c p { s.part c p with waves := Map.put (s.part c p).waves k w1 }
      leave.foldl (fun s g => s.formerAdd T2 w.team g.2 g.1 p false) s1

/-- A wave whose clause cannot be fetched, or has no such slot: every thread stops (R169, R174). -/
def State.stopWave (s : State) (c p k : Nat) (w : Wave) (q : Pos) (f : Trap) : State :=
  let s1 := w.tids.foldl (fun s tid => s.stopAt w.team tid q f) s
  s1.setPart c p { s1.part c p with waves := Map.erase (s1.part c p).waves k }

/-- The threads of a wave in the order in which they perform its instruction: by id (R273, R412), but for a memory instruction in an order left
free (R353, log entry 2). -/
def State.waveOrder (s : State) (i : Instr) (tids : List Nat) : List Nat :=
  if Instr.unordered i then sortBy (Config.threadRank s.freeCtr) (sortBy id tids) else sortBy id tids

/-- The free value of the order is used up. -/
def State.orderUsed (s : State) (i : Instr) : State := if Instr.unordered i then { s with freeCtr := s.freeCtr + 1 } else s

/-- The threads of a wave that perform its instruction, their guard not skipping it (R171). -/
def Team.performing (T : Team) (w : Wave) (cl : Clause) (guarded : Bool) : List Thread :=
  (w.tids.filterMap T.thread?).filter fun th => !(cl.gen && guarded && !th.guard cl w.pos.k)

/-- THE ISSUE OF A WAVE (R204, R205): one instruction, for each of its threads; with `hold` its local stores take their places later (R363). -/
def State.issueWave (s : State) (c p k : Nat) (hold : Bool) : Res :=
  match Map.find? (s.part c p).waves k with
  | none => .next s
  | some w =>
    match s.team? w.team with
    | none => .next s
    | some T =>
      if !w.active || !s.mayIssue T then .next s
      else
        match s.waveClause T w with
        | (s1, .inr f) => .next (s1.stopWave c p k w ⟨w.pos.h, 0⟩ f)
        | (s1, .inl cl) =>
          match cl.slots[w.pos.k]? with
          | none => .next (s1.stopWave c p k w w.pos { code := Code.badClause })
          | some x =>
            let i := x.instr .lane
            if !w.tids.all (s1.threadReady w.team T cl w.pos.k i) then .next s
            else
              let who := T.performing w cl (x.guarded .lane)
              let latch := if who.isEmpty then w.latch else latchAfter w.latch i (who.filterMap fun th => th.reached i)
              match ({ s1.orderUsed i with holding := hold }).issueAll w.team cl w.pos.k (x.guarded .lane) i (s1.waveOrder i w.tids) with
              | .next s2 => .next (({ s2 with holding := false } : State).regroup c p k w cl i latch)
              | r => r

/-! ## Issue to a steering thread (R212, R218) -/

/-- The steering thread tries its instruction again at its turn; a wait that an event elsewhere ends is not tried (R391, R416, R426). -/
def Steer.retries (st : Steer) : Bool :=
  match st.st with
  | .blocked (.cwait _ _ _) => false
  | .blocked (.sbarw _ _ _) => false
  | .blocked (.aclaim _ _ _ _) => false
  | .blocked _ => true
  | _ => false

/-- The steering thread comes to its instruction for the first time: it has not tried it before, or a late result held it (R173, R299). -/
def Steer.fresh (st : Steer) : Bool := match st.st with | .blocked .late => true | .blocked _ => false | _ => true

/-- The clause at which the steering thread stands: a header that is entered is fetched (R34). -/
def State.steerClause (s : State) (T : Team) : State × (Clause ⊕ Trap) :=
  let st := T.steer
  match st.clause with
  | some cl => if cl.h = st.pos.h ∧ (st.pos.k ≠ 0 ∨ st.retries) then (s, .inl cl) else s.fetchClause T .steer st.pos.h
  | none => s.fetchClause T .steer st.pos.h

/-- Stop a steering thread at a position. -/
def State.stopSteerAt (s : State) (t : Nat) (T : Team) (p : Pos) (f : Trap) : State :=
  let r := T.steerRec p f
  (s.setTeam t { T with steer := { T.steer with st := .stopped r } }).report r

/-- The guard value of the steering thread at slot `k` (R171); an instruction tried again keeps it. -/
def Steer.guard (st : Steer) (cl : Clause) (k : Nat) : Bool :=
  if k = 0 ∧ st.fresh then cl.gen && st.cond cl.gpred.toNat != cl.gneg else st.g

/-- THE ISSUE OF A STEERING INSTRUCTION at the position of team `t`'s steering thread; it waits at the clause's start for WAITLL, and with an
access or an engine command for the fences before it (R173, R316). -/
def State.issueSteer (s : State) (t : Nat) (T : Team) (cl : Clause) (x : Slot) : Res :=
  let st := T.steer
  let k := st.pos.k
  let i := x.instr .steer
  let g := st.guard cl k
  let st1 := { st with clause := some cl, g := g, nextPos := cl.after k }
  let T1 := { T with steer := st1 }
  if k = 0 ∧ st.fresh ∧ cl.waitll ≠ 15 ∧ cl.waitll < st.late.length then .next (s.steerWait t { T with steer := { st with clause := some cl } } .late)
  else if cl.gen && x.guarded .steer && !g && !isFault i then .next ((s.setTeam t { T with steer := { st1 with st := .running } }).steerOn t)
  else if Instr.fenced i && st.fences.any (s.fenceOpen t T) then .next (s.steerWait t T1 .fence)
  else
    let T2 := if Instr.fenced i then { T with steer := { st1 with fences := [] } } else T1
    match exec i { s.setTeam t T2 with cur := some (.steer t) } with
    | .next s1 => .next { s1.steerOn t with cur := none }
    | r => r

/-- The steering unit has served a thread: it has issued its instruction, though that may now wait on an object of Table 9.5; a thread whose
instruction is not ready has not been served. -/
def Team.served (T : Team) (before : Steer) : Bool :=
  match T.steer.st with
  | .blocked b =>
    before.st == .running && (match b with
      | .sbarw _ _ _ => true | .cwait _ _ _ => true | .aclaim _ _ _ _ => true | .dqpush _ => true | .qrd _ _ => true | .waitch _ => true | _ => false)
  | _ => true

/-- The turn of a team slot's steering thread, in an aclk in which the unit has served none yet (R212). -/
def State.steerTurn (s : State) (c k : Nat) : Res :=
  match List.find? (fun (e : Nat × Team) => e.2.place == .resident c k) s.teams with
  | none => .next s
  | some (t, T) =>
    if (Map.get (0, 0) s.steerPtr c).2 = s.clock + 1 || !s.mayIssue T || !(T.steer.st == .running || T.steer.retries) then .next s
    else
      let serve := fun (s : State) => { s with steerPtr := Map.set (0, 0) s.steerPtr c ((k + 1) % Config.teamSlots, s.clock + 1) }
      match s.steerClause T with
      | (s1, .inr f) => .next (serve (s1.stopSteerAt t T ⟨T.steer.pos.h, 0⟩ f))
      | (s1, .inl cl) =>
        match cl.slots[T.steer.pos.k]? with
        | none => .next (serve (s1.stopSteerAt t T T.steer.pos { code := Code.badClause }))
        | some x =>
          match s1.issueSteer t T cl x with
          | .next s2 => .next (if (s2.team? t).any fun U => U.served T.steer then serve s2 else s2)
          | r => r

/-! ## Time (R6, R116, R117) -/

/-- Device time after `ns` nanoseconds: while the count holds still, the reference behind it runs on until it meets the count (R117). -/
def State.timePasses (s : State) (ns : Nat) : State :=
  match s.pod.hold with
  | none => { s with dtime := s.dtime + BitVec.ofNat 64 ns }
  | some r =>
    let r1 := r + BitVec.ofNat 64 ns
    if s.dtime.ule r1 then { s with dtime := r1, pod := { s.pod with hold := none } } else { s with pod := { s.pod with hold := some r1 } }

/-- The next instruction of a wave is ready for all its threads (R205). -/
def State.waveReady (s : State) (w : Wave) : Bool :=
  match s.team? w.team with
  | none => false
  | some T =>
    s.mayIssue T &&
      (match (s.waveClause T w).2 with
       | .inr _ => true
       | .inl cl =>
         (match cl.slots[w.pos.k]? with
          | none => true
          | some x => w.tids.all (s.threadReady w.team T cl w.pos.k (x.instr .lane))))

/-- A wave that is not ready now counts as ready from a later moment on (R211). -/
def State.noteReady (s : State) : State :=
  { s with cores := s.cores.map fun c => (c.1, c.2.map fun p => (p.1, { p.2 with
      waves := p.2.waves.map fun w => (w.1, if s.waveReady w.2 then w.2 else { w.2 with readySince := s.clock }) })) }

/-- The aclks that end in the next `n` ticks and at whose end a slot may complete or time out: the present one, and those of the deadlines (R226). -/
def State.joinEnds (s : State) (n : Nat) : List Nat :=
  let a := s.clock / Config.ticksPerAclk
  let z := (s.clock + n) / Config.ticksPerAclk
  let ds := (s.teams.flatMap fun e => e.2.joins.filterMap fun j => j.2.deadline).map (· / Config.ticksPerAclk)
  if a < z then a :: (sortBy id (ds.filter fun d => decide (a < d ∧ d < z))).eraseDups else []

/-- Time passes: at the end of each aclk the joins are tested (R226, R227), a start in progress ends (log entry 1), the cells that have become ready
line up (R111), and fault commands go on (R372). -/
def State.elapse (s : State) (n : Nat) : State :=
  let ns := (s.clock + n) / Config.ticksPerNs - s.clock / Config.ticksPerNs
  let s1 := ((s.joinEnds n).foldl (fun s a => State.endJoins { s with clock := max s.clock (a * Config.ticksPerAclk) }) s).noteReady
  let s2 := (({ s1 with clock := s.clock + n }).timePasses ns).finishStart
  s2.settleCells.fltGo (s2.ctl.jobs.length + 1)

/-! ## The device's own plan (log entry 1) -/

/-- Late results that are due. -/
def State.planLate (s : State) : List Turn :=
  s.teams.flatMap fun e =>
    (e.2.threads.flatMap fun th => (th.2.late.filter fun l => l.st == .due).map fun l => .event (.lateResultWrite (.lane e.1 th.1) l.id)) ++
      (e.2.steer.late.filter fun l => l.st == .due).map fun l => .event (.lateResultWrite (.steer e.1) l.id)

/-- The time in which the patrol engine reads a granule of 2 MiB at 1 % of a set's rate of 51.2 GB/s (R161). -/
def granuleTicks : Nat := usTicks 4096

/-- What the patrol engine reads at the present time: in each set that it can read, the granule whose turn it is, if it is still unmarked. The engine
goes through the granules of every set again and again, so that what a set still lacks is read while it can be (R161). -/
def State.patrolNow (s : State) : List Turn :=
  let n := s.clock / granuleTicks
  if n = (s.clock - Config.ticksPerAclk) / granuleTicks then []
  else
    ((span 0 Config.sets).filter fun k => let b := s.bank k; !b.clr && b.state != 0 && b.state != 4 && !b.granules.contains (n % 512)).map fun k =>
      .event (.patrolRead (BitVec.ofNat 9 k) (BitVec.ofNat 9 (n % 512)) [] [])

/-- What the controllers of main memory do by themselves. -/
def State.planBanks (s : State) : List Turn :=
  let interval := (if s.cfg.patrol = 0 then 24 else s.cfg.patrol) * 3600 * 1000000000 * Config.ticksPerNs
  (if s.clock / interval ≠ (s.clock - Config.ticksPerAclk) / interval then [.event .patrolIntervalStart] else []) ++
  s.patrolNow ++
  (s.phases.filter fun e => e.2.change.isSome).map (fun e => .event (.phaseInForce (BitVec.ofNat 12 e.1))) ++
  s.banks.flatMap fun e =>
    let k := BitVec.ofNat 9 e.1
    [.event (.clearingEnd k), .event (.wakeComplete k), .event (.memoryLineAccess k), .event (.actIdleTimeout k), .event (.retEntryTimeout k)]

/-- What the placement units, the queues and the grids do. -/
def State.planWork (s : State) : List Turn :=
  (s.queues.flatMap fun e =>
    let q := BitVec.ofNat 14 e.1
    [Turn.event (.nopRecord q), .event (.launchRecord q), .event (.signalRecord q)]) ++
  (s.grids.flatMap fun e =>
    [Turn.event (.waitRereadTimer e.1), .event (.tfireReached e.1), .event (.gangRound e.1), .event (.gangRoundTimeout e.1),
        .event (.gangRetry ⟨e.1, none⟩)] ++
      (e.2.peers.map fun p => Turn.event (.gangBringupTimeout e.1 p.1)) ++ [Turn.event (.gridRetire e.1)]) ++
  (if s.grids.isEmpty then [] else
    [0#2, 1#2, 2#2, 3#2].flatMap fun d => [Turn.event (.teamPlace d), .event (.passoverTimeout d), .event (.preemptTimeout d), .event (.waitchSaveTimeout d)]) ++
  s.ctxs.flatMap fun c => c.2.clearing.map fun b => .event (.privateBlockCleared (BitVec.ofNat 12 c.1) b.1)

/-- What the engines of a team do: each entry's next unit, its completion, its start. -/
def planEng (t : Nat) (e : Nat × Eng) : List Turn :=
  match e.2.st with
  | .held _ => [.event (.attimeFire t e.1)]
  | .waiting => [.event (.firedCommandEnqueue t e.1)]
  | .armed _ => []
  | _ =>
    match e.2.cmd with
    | .copy _ _ _ _ _ _ => [.event (.copyLineLand t e.1 e.2.cpos), .event (.copyComplete t e.1)]
    | .stage _ _ _ _ _ => [.event (.stageLineLand t e.1 e.2.cpos)]
    | .cube _ _ _ _ _ _ _ _ => [.event (.cubeComplete t e.1)]
    | .cdrain _ _ _ _ _ _ _ => [.event (.cubeComplete t e.1)]
    | .coll _ _ _ _ => [.event (.collStart t e.1), .event (.collComplete t e.1)]
    | .tile _ _ _ => []

/-- What ends, and what times out, for the teams. -/
def State.planTeams (s : State) : List Turn :=
  s.teams.flatMap fun e =>
    e.2.eng.flatMap (planEng e.1) ++
      [.event (.cwaitPoll e.1), .event (.claimDeadlock e.1), .event (.saveComplete e.1), .event (.teamRetire e.1)]

/-- The cores that hold a team. -/
def State.busyCores (s : State) : List Nat := (s.teams.filterMap fun e => e.2.core?).eraseDups

/-- What a core does: its cube, its schedulers, one instruction of each active wave, its steering threads in turn (R209-R212). -/
def State.planCore (s : State) (c : Nat) : List Turn :=
  let b := BitVec.ofNat 8 c
  [.event (.cubePass b), .event (.cdrainStep b), .event (.tileDeadlock b)] ++
  ((span 0 4).flatMap fun p =>
    let q := BitVec.ofNat 2 p
    [Turn.event (.formerEmitTimeout b q), .event (.slotReclaim b q), .event (.starvationPromote b q), .event (.waveSwap b q)] ++
      (s.issueOrder c p).map fun k => .issue c p k) ++
  (span 0 Config.teamSlots).map fun i => .steer c (((Map.get (0, 0) s.steerPtr c).1 + i) % Config.teamSlots)

/-- What the pod side and the rings do: accesses to this K9 itself, kept answers, slots, time-outs, notices. -/
def State.planPod (s : State) : List Turn :=
  (s.txs.flatMap fun x =>
    (if x.2.own s.cfg.aid ∨ x.2.answer.isSome then [Turn.event (.windowReply x.1 .ack)] else []) ++ [.event (.windowTimeout x.1)]) ++
  (if s.cells.isEmpty then [] else (span 0 16).map fun i => .event (.slotTransmit (BitVec.ofNat 4 i))) ++
  s.rxq.map (fun q => Turn.receive q.1) ++
  (span 0 s.lineJobs.length).reverse.map Turn.line ++ [.event .rrqTailNotice, .event .fltTailNotice, .event .beaconLoss]

/-- One aclk of the device's own doing: local stores that are still held take their places, then what each unit does. -/
def State.plan (s : State) : List Turn :=
  s.pending.map (fun p => .perform p.team p.tid) ++ s.planLate ++ s.planBanks ++ s.planWork ++ s.planTeams ++ s.busyCores.flatMap s.planCore ++ s.planPod

/-! ## Turns -/

/-- An event that a turn may perform: the end of an aclk makes the tests of the joins itself (R226, R227). -/
def isEvent (i : Instr) : Bool := i.stream == .event && !isFault i && (match i with | .joinTimeout _ _ => false | _ => true)

/-- Held local stores of threads take their places before an event, but for the events of the single order itself, which may come before them
(R351, R363). -/
def State.before (s : State) (i : Instr) : State :=
  match i with
  | .windowReply _ _ => s
  | .inboundTransaction _ => s
  | .slotTransmit _ => s
  | .lateResultWrite _ _ => s
  | .copyLineLand _ _ _ => s
  | .stageLineLand _ _ _ => s
  | .cubePass _ => s
  | .cdrainStep _ => s
  | _ => s.performAll

/-- Perform one turn. An instruction of a stream is no event, and a decoding fault belongs to the party that meets it. -/
def State.turn (s : State) (x : Turn) : Res :=
  match x with
  | .issue c p k => s.issueWave c p k false
  | .hold c p k => s.issueWave c p k true
  | .perform t tid => .next (s.performThread t tid)
  | .ahead id => .next ((s.goAhead id).sentAhead id)
  | .behind a b i =>
    if isEvent i then
      (match exec i { s.before i with view := (a, b) } with
       | .next s1 => .next { s1 with view := (0, 0) }
       | r => r)
    else .next s
  | .receive q => .next (s.receive q)
  | .spread i => .next (s.performAll.spread i)
  | .line k => .next (s.line k)
  | .ecc pa bad => .next (s.findError (pa / Config.lineBytes) bad)
  | .steer c k => s.steerTurn c k
  | .event i => if isEvent i then exec i (s.before i) else .next s
  | .elapse n => .next (s.elapse n)

/-! ## A program's first instruction, for `State.withFetchWord` -/

/-- Where the small image of `State.withFetchWord` lies. -/
def bootPa : Nat := 0x10000

/-- The words of an instruction of a stream: its first, and its second if it has one. -/
def bootWords (st : Stream) (w : Nat) : List Word :=
  let a := BitVec.ofNat 32 w
  if Dec.hasSecond st a then [a, BitVec.ofNat 32 (w / 2 ^ 32)] else [a]

/-- A clause header without guard for a body of `n` words (Table 8.1). -/
def bootHeader (st : Stream) (n : Nat) : Word := BitVec.ofNat 32 (0xA503C000 + n + (if st == .steer then 0x20 else 0))

/-- The stream that reads a word, the lane stream first (log entry 8). -/
def bootStream (nbits w : Nat) : Stream :=
  let v := w % 2 ^ nbits
  let bs := bytesOf (BitVec.ofNat 32 v) ++ bytesOf (BitVec.ofNat 32 (v / 2 ^ 32))
  match decodeBytes .lane bs, decodeBytes .steer bs with
  | .error _, .ok _ => .steer
  | _, _ => .lane

/-- The context of the small image: one bucket at physical 0. -/
def bootCtx : Ctx :=
  { ptbase := 0, nb := 4, pmax := 1, wtbase := 0, nwin := 0, gdbase := 0, ngrp := 0, pvbase := 0, pvsize := 0, cowfl := 0, keys := [0, 0, 0, 0], clearing := [] }

/-- The page table entry of the image's page: V, RES, W; context 0, 64 KiB, page 0. -/
def bootPte : List Byte := leBytes 8 (2 ^ 54 + 2 ^ 55 + 2 ^ 56) ++ leBytes 8 (bootPa / 65536)

/-- The lane thread of the small image. -/
def bootThread : Thread :=
  { role := 0, part := 0, st := .wave, pos := ⟨16, 0⟩, nextPos := ⟨16, 0⟩, g := false, v := [], p := 0, x := [], link := [], depth := 0,
    sticky := 0, reported := 0, late := [], dpos := 0, nxt := [], stamp := 0, fenced := false }

/-- The steering thread of the small image. -/
def bootSteer : Steer :=
  { st := .running, pos := ⟨16, 0⟩, nextPos := ⟨16, 0⟩, g := false, clause := none, s := [], c := 0, link := [], armt := none, blatch := none, late := [],
    left := (0, 0), fences := [] }

/-- The team of the small image: one lane thread of 128 registers on core 0. -/
def bootTeam (n : Nat) : Team :=
  { ctx := 0, grid := 0, gridNo := 0, index := 0, prio := 0, accepted := 0, depth := 0, img := ⟨0, 64, n + 1, 0, 0, 0, 0⟩,
    place := .resident 0 0, phase := .running, placedAt := 0, roles := [⟨128, 0, 1, 16, [], ⟨[], 0, 0, false⟩, [], [], 0⟩],
    threads := [(0, bootThread)], steer := bootSteer, q := [], scratch := [], sold := [], sseq := 0, slines := 0, sbase := 0, absent := [], tiles := [], feeds := [],
    bars := [], joins := [], reserve := 0, xmask := 0, priv := 0, lspill := 0, eng := [], ready := [], dead := false, arith := false,
    killed := false, children := [], away := [], gang := none, pblk := none, sslot := none, stuckSince := none, waitchSince := none, mheld := false,
    inWaitch := false, lateCtr := 0 }

/-- The wave of the small image. -/
def bootWave (t : Nat) : Wave := ⟨t, [0], ⟨16, 0⟩, none, true, false, 0, 0, []⟩

/-- The state with one instruction loaded as a clause of its own, and its turn next. -/
def State.boot (s : State) (nbits w : Nat) : State :=
  let v := w % 2 ^ nbits
  let st := bootStream nbits w
  let ws := bootWords st v
  let code := (bootHeader st ws.length :: ws).flatMap bytesOf
  let m := Memory.store (Memory.store s.mem 0 bootPte) (bootPa + 64) code
  let t := s.teamCtr
  { s with
    mem := m, oldCode := [], poison := s.poison.filter (fun l => decide (setOf (l * 128) ≠ 0)), banks := Map.set Bank.reset s.banks 0 Bank.reset,
    ctxs := Map.put s.ctxs 0 bootCtx, tlbs := [], teams := Map.put s.teams t (bootTeam ws.length), teamCtr := t + 1,
    cores := Map.put s.cores 0 [(0, ⟨[(0, bootWave t)], [], []⟩)], steerPtr := Map.set (0, 0) s.steerPtr 0 (0, 0), mgmt := { s.mgmt with accepted := true, starting := none, trip := false },
    agenda := (if st == .steer then Turn.steer 0 0 else .issue 0 0 0) :: s.agenda }

end Sys2Proof.Machine
end

