-- ==== Sys2Proof/Machine/Step.lean ====
section
/-! DEFINITION. The step: one turn of the agenda (log entry 1). -/

namespace Sys2Proof.Machine

/-- One step: the next turn of the agenda; when the agenda is empty, the device's own plan for one aclk is laid down. -/
def step (s : State) : Host.Outcome State Fault Refusal :=
  match s.agenda with
  | [] => .next { s with agenda := s.plan ++ [.elapse Config.ticksPerAclk] }
  | t :: r => State.turn { s with agenda := r } t

/-- `s` with an instruction loaded where the next step fetches it: a clause of its own, run by one thread of a team (log entry 11). -/
def State.withFetchWord (s : State) (nbits w : Nat) : State := s.boot nbits w

end Sys2Proof.Machine
end

