-- ==== Sys2Proof/Safety.lean ====
section
/-! DEFINITION. The terms in which claims about the machine are made: when a party may perform its instruction, what an instruction leaves
unchanged, what a state must satisfy in every step. -/

namespace Sys2Proof.Machine

/-! ## The numbers that values stand for -/

/-- The exact number of a finite value (R233); 0 for any other. -/
def FVal.rat (v : FVal) : Rat := match v with | .fin n m e => (if n then -1 else 1) * m * (2 : Rat) ^ e | _ => 0

/-- The order of values that are no NaN: the zeros are equal. -/
def FVal.lt (a b : FVal) : Prop :=
  match a, b with
  | .inf n, .inf n' => n = true ∧ n' = false
  | .inf n, .fin _ _ _ => n = true
  | .fin _ _ _, .inf n => n = false
  | .fin _ _ _, .fin _ _ _ => a.rat < b.rat
  | _, _ => False

/-- The integer `r` is the number `v` rounded in a mode (R240): nearest with ties to even, toward zero, up, down. -/
def RoundsTo (rm : RM) (v : Rat) (r : Int) : Prop :=
  match rm with
  | .rn => |(r : Rat) - v| ≤ 1 / 2 ∧ (|(r : Rat) - v| = 1 / 2 → r % 2 = 0)
  | .rz => |(r : Rat)| ≤ |v| ∧ |(r : Rat) - v| < 1
  | .ru => v ≤ r ∧ (r : Rat) < v + 1
  | .rd => (r : Rat) ≤ v ∧ v < r + 1

/-! ## When a party may perform an instruction's own effect -/

/-- The lane thread `th`, thread `tid` of team `t`, performs next: every register that its instruction names is in range (R39), and no result
still in its shadow names one of them or one of its predicates (R186). -/
structure State.LaneReady (s : State) (t : Nat) (T : Team) (tid : Nat) (th : Thread) (regs preds : List Nat) : Prop where
  cur : s.cur = some (.lane t tid)
  team : s.team? t = some T
  thread : T.thread? tid = some th
  range : ∀ r ∈ regs, r < T.regCount th
  clear : th.shadowed regs preds = false

/-- The steering thread of team `t` performs next, and no late result that is outstanding names a register of its instruction (R299). -/
structure State.SteerReady (s : State) (t : Nat) (T : Team) (regs : List Nat) : Prop where
  cur : s.cur = some (.steer t)
  team : s.team? t = some T
  clear : T.steer.late.any (fun l => regs.any l.dregs.contains) = false

/-- Instruction `i`, which names the registers `regs` and the predicates `preds`, completes for every lane thread that is ready, with the
effect `f`. -/
def LaneDoes (i : Instr) (regs preds : List Nat) (f : State → Nat → Team → Nat → Thread → State) : Prop :=
  ∀ s t T tid th, s.LaneReady t T tid th regs preds → exec i s = .next (f s t T tid th)

/-- Instruction `i` completes for every lane thread that is ready, and changes that thread alone, by `g`. -/
def LaneSets (i : Instr) (regs preds : List Nat) (g : Thread → Thread) : Prop :=
  LaneDoes i regs preds fun s t T tid th => s.setThread t T tid (g th)

/-- Instruction `i` completes for every steering thread that is ready, with the effect `f`. -/
def SteerDoes (i : Instr) (regs : List Nat) (f : State → Nat → Team → State) : Prop :=
  ∀ s t T, s.SteerReady t T regs → exec i s = .next (f s t T)

/-- Instruction `i` completes for every steering thread that is ready, and changes that thread alone, by `g`; the thread runs on. -/
def SteerSets (i : Instr) (regs : List Nat) (g : Steer → Steer) : Prop :=
  SteerDoes i regs fun s t T => s.setTeam t { T with steer := g { T.steer with st := .running } }

/-- Instruction `i` stops its thread with REG_RANGE when it names a register that the thread does not have (R39), and otherwise with
LOOKAHEAD when a result still in its shadow names one of its registers or predicates (R186, R193). -/
def LaneStops (i : Instr) (regs preds : List Nat) : Prop :=
  ∀ s t T tid th, s.cur = some (.lane t tid) → s.team? t = some T → T.thread? tid = some th →
    ((∃ r ∈ regs, T.regCount th ≤ r) → exec i s = .next (s.stopLane t T tid th { code := Code.regRange })) ∧
    ((∀ r ∈ regs, r < T.regCount th) → th.shadowed regs preds = true →
      exec i s = .next (s.stopLane t T tid th { code := Code.lookahead }))

/-! ## What an instruction leaves unchanged -/

/-- Every byte of memory reads as before. -/
def SameMemory (s s' : State) : Prop := ∀ a, Memory.get s'.mem a = Memory.get s.mem a

/-- Every byte of memory outside `n` bytes from `lo` reads as before. -/
def SameMemoryBut (s s' : State) (lo n : Nat) : Prop := ∀ a, a < lo ∨ lo + n ≤ a → Memory.get s'.mem a = Memory.get s.mem a

/-- Nothing of the device changes but team `t`: every other team, the memory, every register of the device. -/
structure OnlyTeam (s s' : State) (t : Nat) : Prop where
  rest : s' = { s with teams := s'.teams }
  others : ∀ u, u ≠ t → s'.team? u = s.team? u
  memory : SameMemory s s'

/-- Nothing changes but lane thread `tid` of team `t`: every other team, every other thread of its team, its team's queues, barriers, feeds,
tiles, scratchpad and steering thread, the memory, every register of the device. -/
structure OnlyThread (s s' : State) (t tid : Nat) : Prop where
  team : OnlyTeam s s' t
  threads : ∀ T T', s.team? t = some T → s'.team? t = some T' →
    T' = { T with threads := T'.threads } ∧ ∀ u, u ≠ tid → T'.thread? u = T.thread? u

/-- Of a lane thread, nothing changes but the registers that `regs` names, the predicates that `preds` names and, with `flags`, the sticky
flags: no index register, no link entry, no outstanding result, not where it stands. -/
structure Thread.KeepsBut (th th' : Thread) (regs preds : List Nat) (flags : Bool) : Prop where
  rest : th' = { th with v := th'.v, p := th'.p, sticky := th'.sticky }
  regs : ∀ r, r ∉ regs → th'.reg r = th.reg r
  preds : ∀ p, p ∉ preds → th'.pred p = th.pred p
  flags : flags = false → th'.sticky = th.sticky

/-- Of a steering thread, nothing changes but the registers that `regs` names and the conditions that `conds` names. -/
structure Steer.KeepsBut (st st' : Steer) (regs conds : List Nat) : Prop where
  rest : st' = { st with s := st'.s, c := st'.c, st := .running }
  regs : ∀ r, r ∉ regs → st'.reg r = st.reg r
  conds : ∀ c, c ∉ conds → st'.cond c = st.cond c

/-- Whatever next state instruction `i` answers for a lane thread: the thread has stopped with a fault, or nothing has changed but that thread,
and of it nothing but the registers `regs`, the predicates `preds` and, with `flags`, the sticky flags. -/
def LaneFrame (i : Instr) (regs : Thread → List Nat) (preds : List Nat) (flags : Bool) : Prop :=
  ∀ s s' t T tid th, s.cur = some (.lane t tid) → s.team? t = some T → T.thread? tid = some th → exec i s = .next s' →
    (∃ f, s' = s.stopLane t T tid th f) ∨
    (OnlyThread s s' t tid ∧ ∃ T' th', s'.team? t = some T' ∧ T'.thread? tid = some th' ∧ th.KeepsBut th' (regs th) preds flags)

/-- Whatever next state instruction `i` answers for a steering thread: nothing has changed but its team, of that nothing but the steering
thread, and of that nothing but the registers `regs` and the conditions `conds`; or the instruction waits for a late result, or stops. -/
def SteerFrame (i : Instr) (regs conds : List Nat) : Prop :=
  ∀ s s' t T, s.cur = some (.steer t) → s.team? t = some T → exec i s = .next s' →
    s' = s.steerStall t T ∨ (∃ f, s' = s.stopSteer t T f) ∨
    (OnlyTeam s s' t ∧ ∃ st', s'.team? t = some { T with steer := st' } ∧ T.steer.KeepsBut st' regs conds)

/-! ## Invariants -/

/-- The memory is in its canonical form: equal memories are equal data. -/
def State.Canonical (s : State) : Prop := Memory.wf s.mem = true

/-- A step that keeps a property of states: whatever it answers next has the property. -/
def Keeps (P : State → Prop) : Prop := ∀ s s', P s → step s = .next s' → P s'

end Sys2Proof.Machine
end

