-- ==== Sys2Proof/Certificates/Slice0/Obligations.lean ====
section
/-! DEFINITION. The statements for the provers. -/

open Sys2Proof Sys2Proof.Machine

/-! ## The lane stream: registers, predicates, flags -/

/-- Table 11.1, R252, R253: each integer instruction of three operands completes for every ready thread with the table's result in v[D], and
changes nothing else. -/
def Obligations.LaneIntegerResults : Prop :=
  ∀ (o : R3) (e : R2) (rev u : Bool),
    let three := fun (i : Instr) (f : Word → Word → Word → Word) =>
      LaneSets i ([o.d.toNat, o.a.toNat] ++ srcRegs o.b) [] fun th =>
        th.setReg o.d.toNat (f (th.reg o.a.toNat) (srcVal o.b th) (th.reg o.d.toNat))
    let two := fun (i : Instr) (f : Word → Word) =>
      LaneSets i [e.d.toNat, e.a.toNat] [] fun th => th.setReg e.d.toNat (f (th.reg e.a.toNat))
    three (.iadd o) (fun a b _ => a + b) ∧
    three (.isub o rev) (fun a b _ => if rev then b - a else a - b) ∧
    three (.imul o) (fun a b _ => a * b) ∧
    three (.imulh o u) (fun a b _ => if u then Alu.mulhu a b else Alu.mulhs a b) ∧
    three (.imad o) (fun a b d => a * b + d) ∧
    three (.imin o u) (fun a b _ => Alu.min u a b) ∧
    three (.imax o u) (fun a b _ => Alu.max u a b) ∧
    three (.and o) (fun a b _ => a &&& b) ∧
    three (.or o) (fun a b _ => a ||| b) ∧
    three (.xor o) (fun a b _ => a ^^^ b) ∧
    three (.andn o) (fun a b _ => a &&& ~~~b) ∧
    three (.shl o) (fun a b _ => Alu.shl a b) ∧
    three (.shr o) (fun a b _ => Alu.shr a b) ∧
    three (.sar o) (fun a b _ => Alu.sar a b) ∧
    three (.rol o) (fun a b _ => Alu.rol a b) ∧
    three (.bfx o) (fun a b _ => Alu.bfx a b) ∧
    three (.bfi o) (fun a b d => Alu.bfi a b d) ∧
    two (.iabs e) Alu.abs ∧ two (.popc e) Alu.popc ∧ two (.clz e) Alu.clz ∧ two (.brev e) Alu.brev

/-- Tables 11.1 and 13.3, R253: the integer functions of both streams are arithmetic on the numbers that the words stand for. R252: BFX takes the
field of b[13:8] bits at b[4:0], as far as it exists, and BFI writes it. ROL turns bit i to bit i + b mod 32. R254, R256: the conditions of ICMP
compare signed or unsigned numbers, and PLOP's operations are those of two truth values. -/
def Obligations.IntegerFunctionsAreArithmetic : Prop :=
  (∀ a b : Word,
    (Alu.mulhs a b).toInt = a.toInt * b.toInt / 2 ^ 32 ∧
    (Alu.mulhu a b).toNat = a.toNat * b.toNat / 2 ^ 32 ∧
    ((Alu.min false a b).toInt = min a.toInt b.toInt ∧ (Alu.max false a b).toInt = max a.toInt b.toInt) ∧
    ((Alu.min true a b).toNat = min a.toNat b.toNat ∧ (Alu.max true a b).toNat = max a.toNat b.toNat) ∧
    Alu.abs a = BitVec.ofInt 32 a.toInt.natAbs ∧
    (Alu.shl a b).toNat = (if 32 ≤ b.toNat then 0 else a.toNat * 2 ^ b.toNat % 2 ^ 32) ∧
    (Alu.shr a b).toNat = (if 32 ≤ b.toNat then 0 else a.toNat / 2 ^ b.toNat) ∧
    (Alu.sar a b).toInt = a.toInt / 2 ^ min b.toNat 31 ∧
    (Alu.popc a).toNat = (List.range 32).countP a.getLsbD ∧
    (Alu.clz a).toNat ≤ 32 ∧ a.toNat < 2 ^ (32 - (Alu.clz a).toNat) ∧ (a ≠ 0 → 2 ^ (31 - (Alu.clz a).toNat) ≤ a.toNat) ∧
    (∀ i, i < 32 → (Alu.brev a).getLsbD i = a.getLsbD (31 - i)) ∧
    (∀ i, i < 32 → (Alu.rol a b).getLsbD ((i + b.toNat) % 32) = a.getLsbD i) ∧
    (Alu.icmp .eq a b = decide (a = b) ∧ Alu.icmp .ne a b = decide (a ≠ b) ∧ Alu.icmp .lt a b = decide (a.toInt < b.toInt) ∧
      Alu.icmp .le a b = decide (a.toInt ≤ b.toInt) ∧ Alu.icmp .gt a b = decide (b.toInt < a.toInt) ∧
      Alu.icmp .ge a b = decide (b.toInt ≤ a.toInt) ∧ Alu.icmp .lo a b = decide (a.toNat < b.toNat) ∧
      Alu.icmp .hs a b = decide (b.toNat ≤ a.toNat)) ∧
    (b ≠ 0 → (Alu.sdiv true a b).toNat = a.toNat / b.toNat ∧ (Alu.srem true a b).toNat = a.toNat % b.toNat ∧
      Alu.sdiv false a b = BitVec.ofInt 32 (a.toInt.tdiv b.toInt) ∧ (Alu.srem false a b).toInt = a.toInt.tmod b.toInt) ∧
    (∀ u, Alu.sdiv u a 0 = 0xFFFFFFFF ∧ Alu.srem u a 0 = a)) ∧
  (∀ p q : Bool,
    Alu.plop .and p q = (p && q) ∧ Alu.plop .or p q = (p || q) ∧ Alu.plop .xor p q = (p != q) ∧ Alu.plop .andn p q = (p && !q) ∧
    Alu.plop .orn p q = (p || !q) ∧ Alu.plop .nand p q = !(p && q) ∧ Alu.plop .nor p q = !(p || q) ∧ Alu.plop .xnor p q = (p == q)) ∧
  (∀ (a b d : Word) (i : Nat), i < 32 →
    let pos := (b.extractLsb' 0 5).toNat
    let w := min (min (b.extractLsb' 8 6).toNat 32) (32 - pos)
    (Alu.bfx a b).getLsbD i =
      (if i < w then a.getLsbD (pos + i) else b.getLsbD 16 && decide (0 < w) && a.getLsbD (pos + w - 1)) ∧
    (Alu.bfi a b d).getLsbD i = (if pos ≤ i ∧ i < pos + w then a.getLsbD (i - pos) else d.getLsbD i))

/-- R254-R263: compares, selects, moves, pairs, predicate operations and index registers complete for every ready thread. -/
def Obligations.LaneMoveResults : Prop :=
  ∀ (o : R3) (r : RAB) (e : R2) (d : Reg) (b : Src) (n : SReg) (x : BitVec 2) (c : ICond) (p q z : Pred) (w : Option Word) (m : Word)
    (neg sg h : Bool) (op : PlopOp) (bs ln : BitVec 7),
    LaneSets (.icmp c p r) (r.a.toNat :: srcRegs r.b) [p.toNat]
      (fun th => th.setPred p.toNat (Alu.icmp c (th.reg r.a.toNat) (srcVal r.b th))) ∧
    LaneSets (.isel e w p neg) [e.d.toNat, e.a.toNat] [p.toNat]
      (fun th => th.setReg e.d.toNat (if th.pred p.toNat != neg then th.reg e.a.toNat else w.getD (th.reg e.d.toNat))) ∧
    LaneSets (.mov d b) (d.toNat :: srcRegs b) [] (fun th => th.setReg d.toNat (srcVal b th)) ∧
    LaneDoes (.movs d n) [d.toNat] [] (fun s t T tid th => s.setThread t T tid (th.setReg d.toNat (T.steer.reg n.toNat))) ∧
    LaneSets (.iadd64 o) ([o.d.toNat, o.d.toNat + 1, o.a.toNat, o.a.toNat + 1] ++ srcPairRegs o.b) []
      (fun th => th.setPair o.d.toNat (th.pairAt o.a.toNat + srcPair o.b th)) ∧
    LaneSets (.imulw o sg) ([o.d.toNat, o.d.toNat + 1, o.a.toNat] ++ srcRegs o.b) []
      (fun th => th.setPair o.d.toNat
        (if sg then (th.reg o.a.toNat).signExtend 64 * (srcVal o.b th).signExtend 64
         else (th.reg o.a.toNat).zeroExtend 64 * (srcVal o.b th).zeroExtend 64)) ∧
    LaneSets (.plop op p q z) [] [p.toNat, q.toNat, z.toNat]
      (fun th => th.setPred p.toNat (Alu.plop op (th.pred q.toNat) (th.pred z.toNat))) ∧
    LaneSets (.pmovGet d) [d.toNat] allPreds (fun th => th.setReg d.toNat (th.p.zeroExtend 32)) ∧
    LaneSets (.pmovPut d h) [d.toNat] allPreds (fun th => { th with p := (th.reg d.toNat).extractLsb' 0 16 }) ∧
    LaneSets (.pmovSet m) [] (allPreds.filter (m.extractLsb' 16 16).getLsbD)
      (fun th => { th with p := (th.p &&& ~~~m.extractLsb' 16 16) ||| (m.extractLsb' 0 16 &&& m.extractLsb' 16 16) }) ∧
    LaneSets (.setx x (.reg d h)) [d.toNat] [] (fun th => { th with x := Map.set 0 th.x x.toNat ((th.reg d.toNat).extractLsb' 0 14) }) ∧
    LaneSets (.setx x (.imm bs ln)) [] [] (fun th => { th with x := Map.set 0 th.x x.toNat (ln ++ bs) })

/-- R263: an index below the length of its window reaches the register at base plus index, if the thread has it; an index at or above the
length stops the thread with INDEX_RANGE. -/
def Obligations.IndexedAccess : Prop :=
  ∀ (s : State) (t tid : Nat) (T : Team) (th : Thread) (d : Reg) (n : BitVec 2) (b : Src),
    s.LaneReady t T tid th (d.toNat :: srcRegs b) [] →
    let i := (srcVal b th).toNat
    let x := th.index n.toNat
    (x.2 ≤ i →
      exec (.movx d n b) s = .next (s.stopLane t T tid th { code := Code.indexRange }) ∧
      exec (.stx d n b) s = .next (s.stopLane t T tid th { code := Code.indexRange })) ∧
    (i < x.2 → T.regCount th ≤ x.1 + i →
      exec (.movx d n b) s = .next (s.stopLane t T tid th { code := Code.regRange }) ∧
      exec (.stx d n b) s = .next (s.stopLane t T tid th { code := Code.regRange })) ∧
    (i < x.2 → x.1 + i < T.regCount th → th.shadowed ((x.1 + i) :: d.toNat :: srcRegs b) [] = false →
      exec (.movx d n b) s = .next (s.setThread t T tid (th.setReg d.toNat (th.reg (x.1 + i)))) ∧
      exec (.stx d n b) s = .next (s.setThread t T tid (th.setReg (x.1 + i) (th.reg d.toNat))))

/-- R278-R288, Table 10.5: each floating-point instruction that answers at once completes for every ready thread with its value in v[D], or in
its predicates, and its flags added to the sticky flags. Then what its functions are, NaNs, infinities and signed zeros among their operands: a
sum and a product of exact values rounded once (R241, R278), the smaller and the larger (R279), the conditions (Table 12.1), the classes (Table
12.2), the conversions with their saturation (Tables 10.4, 10.5, 12.3). -/
def Obligations.LaneFloatResults : Prop :=
  (∀ (o : F3) (r : FAB) (e : R2) (rm : RM) (c : FCond) (p : Pred) (dir : CvtDir) (op : SgnOp) (prop u hi bf nb mx md : Bool),
    let three := fun (i : Instr) (f : Word → Word → Word → Nat × FlagSet) =>
      LaneSets i ([o.d.toNat, o.a.toNat] ++ fsrcRegs o.b) [] fun th =>
        let v := f (th.reg o.a.toNat) (fsrcVal o.b th) (th.reg o.d.toNat)
        (th.setReg o.d.toNat (BitVec.ofNat 32 v.1)).addFlags v.2
    let two := fun (i : Instr) (f : Word → Word → Nat × FlagSet) =>
      LaneSets i [e.d.toNat, e.a.toNat] [] fun th =>
        let v := f (th.reg e.a.toNat) (th.reg e.d.toNat)
        (th.setReg e.d.toNat (BitVec.ofNat 32 v.1)).addFlags v.2
    let half := halfFmt bf
    three (.fadd o rm) (fun a b _ => Fmt.fp32.sum rm [f32 a, f32 b]) ∧
    three (.fsub o rm) (fun a b _ => Fmt.fp32.sum rm [f32 a, (f32 b).flip]) ∧
    three (.fmul o rm) (fun a b _ => Fmt.fp32.mul rm (f32 a) (f32 b)) ∧
    three (.ffma o rm) (fun a b d => Fmt.fp32.fma rm (f32 a) (f32 b) (f32 d)) ∧
    three (.fmin o prop) (fun a b _ => Fmt.fp32.minmax false prop a.toNat b.toNat) ∧
    three (.fmax o prop) (fun a b _ => Fmt.fp32.minmax true prop a.toNat b.toNat) ∧
    three (.fscale o rm) (fun a b _ => fscale rm a b) ∧
    three (.fsgn o op) (fun a b _ => ((fsgn op a b).toNat, 0)) ∧
    three (.hadd2 o rm bf nb) (halves fun x y _ => half.sum rm [half.decode x, nbVal half nb y]) ∧
    three (.hmul2 o rm bf nb) (halves fun x y _ => half.mul rm (half.decode x) (nbVal half nb y)) ∧
    three (.hfma2 o rm bf nb) (halves fun x y d => half.fma rm (half.decode x) (nbVal half nb y) (half.decode d)) ∧
    three (.hminmax2 o bf mx prop) (halves fun x y _ => half.minmax mx prop x y) ∧
    LaneSets (.fclass e) [e.d.toNat, e.a.toNat] []
      (fun th => th.setReg e.d.toNat (BitVec.ofNat 32 (2 ^ fclassBit (th.reg e.a.toNat)))) ∧
    two (.frnd e rm) (fun a _ => frnd rm a) ∧
    two (.f2i e rm u) (fun a _ => f2i rm u a) ∧
    two (.i2f e rm u) (fun a _ => i2f rm u a) ∧
    two (.fcvt e rm dir hi) (fun a d => fcvt rm dir hi a d) ∧
    two (.fexp e md) (fun a _ => fexp md a) ∧
    LaneSets (.fcmp c p r) (r.a.toNat :: fsrcRegs r.b) [p.toNat] (fun th =>
      let x := f32 (th.reg r.a.toNat)
      let y := f32 (fsrcVal r.b th)
      (th.setPred p.toNat (fcmpHolds c x y)).addFlags (FlagSet.when (x.signalling || y.signalling) FlagSet.inv)) ∧
    LaneSets (.hcmp2 c p r bf) (r.a.toNat :: fsrcRegs r.b) [p.toNat, p.toNat + 1] (fun th =>
      let a := th.reg r.a.toNat
      let b := fsrcVal r.b th
      let x := half.decode (lo16 a)
      let y := half.decode (lo16 b)
      let x' := half.decode (hi16 a)
      let y' := half.decode (hi16 b)
      ((th.setPred p.toNat (fcmpHolds c x y)).setPred (p.toNat + 1) (fcmpHolds c x' y')).addFlags
        (FlagSet.when (x.signalling || y.signalling || x'.signalling || y'.signalling) FlagSet.inv))) ∧
  (∀ (g : Fmt × Nat × Nat) (rm : RM) (vs : List FVal) (a b d : FVal),
    g ∈ [(Fmt.fp32, 0x7FC00000, 0x7F800000), (Fmt.fp16, 0x7E00, 0x7C00), (Fmt.bf16, 0x7FC0, 0x7F80)] →
    let t := g.1
    let nan := g.2.1
    let inf := fun (n : Bool) => t.signed n g.2.2
    let sg := fun (l : List FVal) => FlagSet.when (l.any FVal.signalling) FlagSet.inv
    let finite := fun (v : FVal) => v.isNan = false ∧ v.isInf = false
    let zeroInf := (a.isZero = true ∧ b.isInf = true) ∨ (a.isInf = true ∧ b.isZero = true)
    ((∃ v ∈ vs, v.isNan = true) → t.sum rm vs = (nan, sg vs)) ∧
    ((∀ v ∈ vs, v.isNan = false) →
      (.inf true ∈ vs → .inf false ∈ vs → t.sum rm vs = (nan, FlagSet.inv)) ∧
      (∀ n, .inf n ∈ vs → .inf (!n) ∉ vs → t.sum rm vs = (inf n, 0))) ∧
    ((∀ v ∈ vs, finite v) →
      let x := (vs.map FVal.rat).sum
      (x ≠ 0 → ∃ n m e, (FVal.fin n m e).rat = x ∧ t.sum rm vs = t.round rm n m e) ∧
      (x = 0 → t.sum rm vs = (t.signed (if ∀ v ∈ vs, v.isZero = true ∧ v.neg = true then true
        else if ∀ v ∈ vs, v.isZero = true ∧ v.neg = false then false else rm == .rd) 0, 0))) ∧
    (zeroInf → t.mul rm a b = (nan, FlagSet.inv) ∧ t.fma rm a b d = (nan, FlagSet.inv)) ∧
    (¬zeroInf →
      (a.isNan = true ∨ b.isNan = true → t.mul rm a b = (nan, sg [a, b])) ∧
      (a.isNan = true ∨ b.isNan = true ∨ d.isNan = true → t.fma rm a b d = (nan, sg [a, b, d])) ∧
      (a.isNan = false → b.isNan = false →
        (a.isInf = true ∨ b.isInf = true → t.mul rm a b = (inf (a.neg != b.neg), 0) ∧
          (d.isNan = false → t.fma rm a b d = t.sum rm [.inf (a.neg != b.neg), d])) ∧
        ∀ n m e n' m' e', a = .fin n m e → b = .fin n' m' e' → t.mul rm a b = t.round rm (n != n') (m * m') (e + e') ∧
          (d.isNan = false → t.fma rm a b d = t.sum rm [.fin (n != n') (m * m') (e + e'), d])))) ∧
  (∀ (t : Fmt) (mx prop : Bool) (x y : Nat), t ∈ [Fmt.fp32, Fmt.fp16, Fmt.bf16] →
    let v := t.decode x
    let w := t.decode y
    let r := t.minmax mx prop x y
    let z := t.decode r.1
    let sg := FlagSet.when (v.signalling || w.signalling) FlagSet.inv
    (v.isNan = true → w.isNan = true → r = (t.nan, sg)) ∧ (v.isNan = true ∨ w.isNan = true → prop = true → r = (t.nan, sg)) ∧
    (prop = false → (v.isNan = true → w.isNan = false → r = (y, sg)) ∧ (v.isNan = false → w.isNan = true → r = (x, sg))) ∧
    (v.isNan = false → w.isNan = false → r.2 = 0 ∧ (r.1 = x ∨ r.1 = y) ∧
      (mx = false → ¬v.lt z ∧ ¬w.lt z) ∧ (mx = true → ¬z.lt v ∧ ¬z.lt w) ∧
      (v.isZero = true → w.isZero = true → v.neg ≠ w.neg → z.neg = !mx))) ∧
  (∀ (c : FCond) (v w : FVal),
    let un := v.isNan = true ∨ w.isNan = true
    (un → fcmpHolds c v w = decide (c = .ne ∨ c = .un)) ∧
    (¬un → (fcmpHolds .lt v w = true ↔ v.lt w) ∧ (fcmpHolds .gt v w = true ↔ w.lt v) ∧ (fcmpHolds .le v w = true ↔ ¬w.lt v) ∧
      (fcmpHolds .ge v w = true ↔ ¬v.lt w) ∧ (fcmpHolds .eq v w = true ↔ ¬v.lt w ∧ ¬w.lt v) ∧ (fcmpHolds .ne v w = true ↔ v.lt w ∨ w.lt v) ∧
      fcmpHolds .un v w = false ∧ fcmpHolds .ord v w = true)) ∧
  (∀ (rm : RM) (u : Bool) (a b : Word),
    let top : Int := if u then 0xFFFFFFFF else 0x7FFFFFFF
    let bot : Int := if u then 0 else -0x80000000
    let v := f32 a
    ((∃ q, v = .nan q) → f2i rm u a = (0, FlagSet.inv)) ∧
    (v = .inf false → f2i rm u a = (top.toNat, FlagSet.inv)) ∧ (v = .inf true → f2i rm u a = ((BitVec.ofInt 32 bot).toNat, FlagSet.inv)) ∧
    (∀ n m e, v = .fin n m e → ∃ r : Int, RoundsTo rm v.rat r ∧
      f2i rm u a = (if top < r then (top.toNat, FlagSet.inv) else if r < bot then ((BitVec.ofInt 32 bot).toNat, FlagSet.inv)
        else ((BitVec.ofInt 32 r).toNat, FlagSet.when (decide ((r : Rat) ≠ v.rat)) FlagSet.nx)) ∧
      frnd rm a = ((Fmt.fp32.round .rn n r.natAbs 0).1, 0)) ∧
    i2f rm u a = Fmt.fp32.round rm (!u && a.msb) (if u then a.toNat else a.toInt.natAbs) 0 ∧
    (let s := a.msb
     let E := (a.extractLsb' 23 8).toNat
     let F := (a.extractLsb' 0 23).toNat
     fclassBit a = if E = 255 then (if F = 0 then (if s then 0 else 7) else if a.getLsbD 22 then 9 else 8)
       else if E = 0 then (if F = 0 then (if s then 3 else 4) else if s then 2 else 5) else if s then 1 else 6) ∧
    (fsgn .copy a b).msb = b.msb ∧ (fsgn .ncopy a b).msb = !b.msb ∧ (fsgn .xor a b).msb = (a.msb != b.msb) ∧
    (∀ op i, i < 31 → (fsgn op a b).getLsbD i = a.getLsbD i)) ∧
  (∀ (g : Fmt × Nat × Nat × Bool) (rm : RM),
    g ∈ [(Fmt.fp32, 0x7FC00000, 0x7F7FFFFF, true), (Fmt.fp16, 0x7E00, 0x7BFF, true), (Fmt.bf16, 0x7FC0, 0x7F7F, true), (Fmt.e5m2, 0x7E, 0x7B, true),
      (Fmt.e4m3, 0x7F, 0x7E, false), (Fmt.e2m1, 0, 7, false)] →
    let t := g.1
    (∀ sg, t.convert rm (.nan sg) = (g.2.1, FlagSet.when (sg || t == Fmt.e2m1) FlagSet.inv)) ∧
    (∀ n, t.convert rm (.inf n) = if g.2.2.2 then (t.signed n (g.2.2.1 + 1), 0) else (t.signed n g.2.2.1, FlagSet.ovf)) ∧
    ∀ n m e, t.convert rm (.fin n m e) = t.round rm n m e) ∧
  (∀ (rm : RM) (hi : Bool) (a d : Word),
    let put := fun (r : Nat × FlagSet) => (if hi then r.1 * 65536 + lo16 d else hi16 d * 65536 + r.1, r.2)
    let half := if hi then hi16 a else lo16 a
    fcvt rm .toF16 hi a d = put (Fmt.fp16.convert rm (f32 a)) ∧ fcvt rm .toBf16 hi a d = put (Fmt.bf16.convert rm (f32 a)) ∧
    fcvt rm .fromF16 hi a d = Fmt.fp32.convert .rn (Fmt.fp16.decode half) ∧ fcvt rm .fromBf16 hi a d = Fmt.fp32.convert .rn (Fmt.bf16.decode half))

/-- R290-R297: each narrow-format instruction completes for every ready thread with its value in v[D] and its flags. Then what its functions are:
the MX encoder (R243) and the DXB encoder (R244), with a NaN among the values, infinities, and magnitudes that saturate; the elements of a block
(R237, R238), the dot product, rounded once (R296), the folded maximum (R293) and the block exponents of one (R294). -/
def Obligations.LaneNarrowResults : Prop :=
  (∀ (o : F3) (e : R2) (q : QDot) (rm : RM) (k8 : F8Kind) (k4 : F4Kind) (kx : DxKind) (rz e5 four : Bool) (p2 : BitVec 2) (p3 : BitVec 3)
    (delta : BitVec 4) (sr : Reg),
    let three := fun (i : Instr) (f : Word → Word → Word → Nat × FlagSet) =>
      LaneSets i ([o.d.toNat, o.a.toNat] ++ fsrcRegs o.b) [] fun th =>
        let v := f (th.reg o.a.toNat) (fsrcVal o.b th) (th.reg o.d.toNat)
        (th.setReg o.d.toNat (BitVec.ofNat 32 v.1)).addFlags v.2
    let two := fun (i : Instr) (f : Word → Nat × FlagSet) =>
      LaneSets i [e.d.toNat, e.a.toNat] [] fun th =>
        let v := f (th.reg e.a.toNat)
        (th.setReg e.d.toNat (BitVec.ofNat 32 v.1)).addFlags v.2
    let dot := fun (i : Instr) (b : Bool) =>
      LaneSets i [q.d.toNat, q.a.toNat, q.b.toNat, q.s.toNat] [] fun th =>
        let v := qdot b q.dx q.rm q.sa.toNat q.sb.toNat (th.reg q.a.toNat) (th.reg q.b.toNat) (th.reg q.s.toNat) (th.reg q.d.toNat)
        (th.setReg q.d.toNat (BitVec.ofNat 32 v.1)).addFlags v.2
    three (.f8pk o k8 rm p2) (f8pk k8 rm p2.toNat) ∧
    three (.f4pk o k4 rz p3) (f4pk k4 rz p3.toNat) ∧
    three (.bmax o) (fun a b _ => bmax a b) ∧
    two (.f8up e p2 e5) (fun a => Fmt.fp32.convert .rn ((if e5 then Fmt.e5m2 else Fmt.e4m3).decode (byteOf a p2.toNat))) ∧
    two (.f4up e p3) (fun a => Fmt.fp32.convert .rn (Fmt.e2m1.decode (field a.toNat (4 * p3.toNat) 4))) ∧
    two (.dxexp e kx delta) (dxexp kx delta.toNat) ∧
    dot (.qdot8 q) false ∧
    dot (.qdot4 q) true ∧
    LaneSets (.dxdec e four p3 sr p2) [e.d.toNat, e.a.toNat, sr.toNat] [] (fun th =>
      let v := Fmt.fp32.convert .rn (elemVal four true (th.reg e.a.toNat) (th.reg sr.toNat) p3.toNat p2.toNat)
      (th.setReg e.d.toNat (BitVec.ofNat 32 v.1)).addFlags v.2)) ∧
  (∀ (vs : List FVal) (t : Fmt) (emax : Int) (four : Bool) (delta : Nat),
    let sg := FlagSet.when (vs.any FVal.signalling) FlagSet.inv
    let nan := ∃ v ∈ vs, v.isNan = true
    let largest := fun (a : Nat × Int) =>
      (∀ v ∈ vs, |v.rat| ≤ a.1 * (2 : Rat) ^ a.2) ∧ (a.1 = 0 ∨ ∃ v ∈ vs, v.isInf = false ∧ |v.rat| = a.1 * (2 : Rat) ^ a.2)
    ((t, emax) ∈ [(Fmt.e4m3, 8), (Fmt.e2m1, 2)] →
      let r := mxEnc t vs
      let elem := fun (v : FVal) => match v with
        | .nan _ => (0, 0)
        | .inf n => (t.signed n t.maxCode, FlagSet.ovf)
        | .fin n m e => t.round .rn n m (e + (127 - (r.2.1 : Int)))
      (nan → r = (vs.map fun _ => 0, 255, sg)) ∧
      (¬nan → r.1 = vs.map (fun v => (elem v).1) ∧ (∀ j, r.2.2.getLsbD j = vs.any fun v => (elem v).2.getLsbD j) ∧
        ∃ a, largest a ∧ (a.1 = 0 → r.2.1 = 0) ∧
          ∀ k : Int, (2 : Rat) ^ k ≤ a.1 * (2 : Rat) ^ a.2 → a.1 * (2 : Rat) ^ a.2 < (2 : Rat) ^ (k + 1) →
            r.2.1 = (max (-127) (min 127 (k - emax)) + 127).toNat)) ∧
    (let r := dxEnc four delta vs
     let M := if four then 3 else 63
     let top := if four then 253 else 249
     let step := fun (m : Nat) (e : Int) (E : Nat) => roundInt true false m e ((E : Int) - 127)
     let elem := fun (v : FVal) => match v with
       | .nan _ => (0, 0)
       | .inf n => ((2 + n.toNat) * (M + 1) + M, FlagSet.ovf)
       | .fin n m e =>
         let l := step m e r.2.2.1
         let h := step m e r.2.1
         if l.1 ≤ M then (n.toNat * (M + 1) + l.1, FlagSet.when (!l.2) FlagSet.nx ||| FlagSet.when (m != 0 && l.1 == 0) FlagSet.uf)
         else ((2 + n.toNat) * (M + 1) + min h.1 M, FlagSet.when (decide (M < h.1)) FlagSet.ovf ||| FlagSet.when (!h.2) FlagSet.nx |||
           FlagSet.when (m != 0 && min h.1 M == 0) FlagSet.uf)
     (nan → r = (vs.map fun _ => 0, 255, 255, sg)) ∧
     (¬nan → r.1 = vs.map (fun v => (elem v).1) ∧ (∀ j, r.2.2.2.getLsbD j = vs.any fun v => (elem v).2.getLsbD j) ∧ r.2.2.1 = r.2.1 - delta ∧
       ∃ a, largest a ∧ (a.1 = 0 → r.2.1 = 0) ∧
         (a.1 ≠ 0 → r.2.1 ≤ top ∧ (r.2.1 < top → (step a.1 a.2 r.2.1).1 ≤ M) ∧ ∀ E, E < r.2.1 → M < (step a.1 a.2 E).1)))) ∧
  (∀ (a b sc d : Word) (four dx : Bool) (rm : RM) (sa sb delta i j : Nat) (x y : FVal),
    let n := if four then 8 else 4
    let v := f32 d
    let el := fun (w : Word) (i j : Nat) => elemVal four dx w sc i j
    let code := if four then field a.toNat (4 * i) 4 else field a.toNat (8 * i) 8
    let M := if four then 3 else 63
    let X := byteOf sc j
    let Y := byteOf sc (j + 1)
    (dx = false → (X = 255 → (el a i j).isNan = true) ∧
      (X ≠ 255 → (if four then Fmt.e2m1 else Fmt.e4m3).decode code = x → x.isNan = true → (el a i j).isNan = true) ∧
      (X ≠ 255 → (if four then Fmt.e2m1 else Fmt.e4m3).decode code = x → x.isNan = false →
        (el a i j).isNan = false ∧ (el a i j).neg = x.neg ∧ (el a i j).rat = x.rat * (2 : Rat) ^ ((X : Int) - 127))) ∧
    (dx = true → (X = 255 ∨ Y = 255 → (el a i j).isNan = true) ∧
      (X ≠ 255 → Y ≠ 255 → (el a i j).isNan = false ∧ (el a i j).neg = decide (code / (M + 1) % 2 = 1) ∧
        (el a i j).rat = (if code / (M + 1) % 2 = 1 then -1 else 1) * (code % (M + 1) : Nat) *
          (2 : Rat) ^ ((if code / (2 * (M + 1)) % 2 = 1 then (X : Int) else (Y : Int)) - 127))) ∧
    (x.isNan = false → x.isInf = false → y.isNan = false → y.isInf = false → (x.mul y).rat = x.rat * y.rat ∧ (x.mul y).neg = (x.neg != y.neg)) ∧
    (let r := qdot four dx rm sa sb a b sc d
     let nan := (∃ k, k < n ∧ ((el a k sa).isNan = true ∨ (el b k sb).isNan = true)) ∨ v.isNan = true
     (nan → r = (0x7FC00000, FlagSet.when v.signalling FlagSet.inv)) ∧ (¬nan → v.isInf = true → r = (d.toNat, 0)) ∧
     (¬nan → v.isInf = false → r = Fmt.fp32.sum rm (v :: (span 0 n).map fun k => (el a k sa).mul (el b k sb)))) ∧
    ((f32 a).isNan = true ∨ (f32 b).isNan = true → bmax a b = (0x7FC00000, FlagSet.when ((f32 a).signalling || (f32 b).signalling) FlagSet.inv)) ∧
    ((f32 a).isNan = false → (f32 b).isNan = false → ∃ m e, (FVal.fin false m e).rat = max |(f32 a).rat| |(f32 b).rat| ∧
      bmax a b = Fmt.fp32.round .rn false m e) ∧
    (dxexp .mxfp8 delta a).1 = (mxEnc Fmt.e4m3 [f32 a]).2.1 ∧ (dxexp .mxfp4 delta a).1 = (mxEnc Fmt.e2m1 [f32 a]).2.1 ∧
    (∀ y ∈ [(DxKind.dxb8, false), (.dxb4, true)],
      (dxexp y.1 delta a).1 = (dxEnc y.2 delta [f32 a]).2.2.1 * 256 + (dxEnc y.2 delta [f32 a]).2.1))

/-- R185, R289: each correctly rounded function completes for every ready thread; its value and its flags are a late result, due to be written,
with the shadow that LA names, and no register changes yet.
Where the manual leaves a choice or an inference, a clause rests on the model's own: log entry 9. -/
def Obligations.LaneFunctionResults : Prop :=
  ∀ (o : Q2) (b : Reg) (hb : Bool),
    let one := fun (i : Instr) (f : RM → FVal → Nat × FlagSet) =>
      LaneDoes i [o.d.toNat, o.a.toNat] [] fun s t T tid th =>
        let v := f o.rm (f32 (th.reg o.a.toNat))
        s.setThread t { T with lateCtr := T.lateCtr + 1 } tid
          (th.addLate T.lateCtr o.la.toNat [o.d.toNat] [] [(o.d.toNat, BitVec.ofNat 32 v.1)] [] v.2 .due)
    one (.rcp o) Fmt.fp32.rcp ∧ one (.rsq o) Fmt.fp32.rsq ∧ one (.sqrt o) Fmt.fp32.sqrt ∧ one (.ex2 o) Fmt.fp32.ex2 ∧
    one (.lg2 o) Fmt.fp32.lg2 ∧ one (.sinpi o) Fmt.fp32.sinpi ∧ one (.cospi o) Fmt.fp32.cospi ∧
    LaneDoes (.fdiv o b hb) [o.d.toNat, o.a.toNat, b.toNat] [] (fun s t T tid th =>
      let v := Fmt.fp32.div o.rm (f32 (th.reg o.a.toNat)) (f32 (th.reg b.toNat))
      s.setThread t { T with lateCtr := T.lateCtr + 1 } tid
        (th.addLate T.lateCtr o.la.toNat [o.d.toNat] [] [(o.d.toNat, BitVec.ofNat 32 v.1)] [] v.2 .due))

/-- R240: the rounding of an exact value m * 2^e to a multiple of 2^q. In rn the quotient is nearest, and even in a tie; in a directed mode it is
the next one toward zero or away from it; it is marked exact only when nothing was lost. R233, Tables 10.1, 10.2: what a code of each of the six
formats stands for. R240, Table 10.4: a value rounded to a format is the rounded multiple of the unit of its binade, with underflow and inexact
as they fall, or what its mode leaves of an overflow when that multiple exceeds the largest finite value. -/
def Obligations.RoundingIsNearestOrDirected : Prop :=
  (∀ (m : Nat) (e q : Int) (up : Bool),
    let v : Rat := m * (2 : Rat) ^ (e - q)
    let near := roundInt true up m e q
    let way := roundInt false up m e q
    |(near.1 : Rat) - v| ≤ 1 / 2 ∧
    (|(near.1 : Rat) - v| = 1 / 2 → near.1 % 2 = 0) ∧
    (near.2 = true ↔ (near.1 : Rat) = v) ∧
    (way.2 = true ↔ (way.1 : Rat) = v) ∧
    (up = false → (way.1 : Rat) ≤ v ∧ v < way.1 + 1) ∧
    (up = true → v ≤ way.1 ∧ (way.1 : Rat) < v + 1)) ∧
  (∀ (g : Fmt × Nat × Nat × Int × Nat × Bool),
    g ∈ [(Fmt.fp32, 23, 8, 127, 0x7F7FFFFF, true), (Fmt.fp16, 10, 5, 15, 0x7BFF, true), (Fmt.bf16, 7, 8, 127, 0x7F7F, true),
      (Fmt.e5m2, 2, 5, 15, 0x7B, true), (Fmt.e4m3, 3, 4, 7, 0x7E, false), (Fmt.e2m1, 1, 2, 1, 7, false)] →
    let t := g.1
    let f : Nat := g.2.1
    let bits : Nat := f + g.2.2.1
    let bias := g.2.2.2.1
    let maxCode := g.2.2.2.2.1
    let hasInf := g.2.2.2.2.2
    let biggest : Rat := (t.decode maxCode).rat
    (∀ c, c < 2 ^ (bits + 1) →
      let neg := decide (2 ^ bits ≤ c)
      let k : Nat := c % 2 ^ bits
      let E : Nat := k / 2 ^ f
      let F : Nat := k % 2 ^ f
      (k ≤ maxCode → (∃ m e, t.decode c = .fin neg m e) ∧
        (t.decode c).rat = (if neg then -1 else 1) *
          (if E = 0 then (F : Rat) / 2 ^ f * (2 : Rat) ^ (1 - bias) else (1 + (F : Rat) / 2 ^ f) * (2 : Rat) ^ ((E : Int) - bias))) ∧
      (hasInf = true → (k = maxCode + 1 → t.decode c = .inf neg) ∧
        (maxCode + 1 < k → t.decode c = .nan (decide (F < 2 ^ (f - 1))))) ∧
      (hasInf = false → maxCode < k → t.decode c = .nan false)) ∧
    (∀ (rm : RM) (neg : Bool) (m : Nat) (e : Int),
      let v := (FVal.fin neg m e).rat
      let r := t.round rm neg m e
      let out := t.signed neg (if hasInf = true ∧ (rm = .rn ∨ (rm = .ru ∧ neg = false) ∨ (rm = .rd ∧ neg = true)) then maxCode + 1 else maxCode)
      (m = 0 → r = (t.signed neg 0, 0)) ∧
      (∀ lg : Int, (2 : Rat) ^ lg ≤ |v| → |v| < (2 : Rat) ^ (lg + 1) →
        let q := max (lg - f) (1 - bias - f)
        ∃ n : Int, RoundsTo rm (v / (2 : Rat) ^ q) n ∧
          (biggest < |(n : Rat)| * (2 : Rat) ^ q → r = (out, FlagSet.ovf)) ∧
          (|(n : Rat)| * (2 : Rat) ^ q ≤ biggest →
            (t.decode r.1).rat = n * (2 : Rat) ^ q ∧ (t.decode r.1).isInf = false ∧ (t.decode r.1).isNan = false ∧ (t.decode r.1).neg = neg ∧
            r.2 = FlagSet.when (decide ((n : Rat) * (2 : Rat) ^ q ≠ v ∧ |v| < (2 : Rat) ^ (1 - bias))) FlagSet.uf |||
              FlagSet.when (decide ((n : Rat) * (2 : Rat) ^ q ≠ v)) FlagSet.nx))))

/-- R39, R186, R193: an instruction of the lane's register families (0x00-0x33, 0x38-0x48 and BR) that names a register out of range stops with
REG_RANGE, and one that names a result still in its shadow stops with LOOKAHEAD; nothing of its effect happens. MOVX and STX, whose
third register an index names, do the same for it behind the test of the index (R217, R263). -/
def Obligations.LaneRegisterChecks : Prop :=
  ∀ (o : R3) (f : F3) (e : R2) (q : Q2) (qd : QDot) (r : RAB) (fr : FAB) (c : ICond) (fc : FCond) (p p2 p3 : Pred) (d : Reg) (b : Src) (n : SReg)
    (x : BitVec 2) (w : Option Word) (m : Word) (rm : RM) (op : PlopOp) (so : SgnOp) (dir : CvtDir) (k8 : F8Kind) (k4 : F4Kind) (kx : DxKind)
    (b3 : BitVec 3) (dl : BitVec 4) (j : Option (BitVec 4)) (tgt : Tgt) (u v prop : Bool),
    let three := [o.d.toNat, o.a.toNat] ++ srcRegs o.b
    let two := [e.d.toNat, e.a.toNat]
    let fthree := [f.d.toNat, f.a.toNat] ++ fsrcRegs f.b
    let one := [q.d.toNat, q.a.toNat]
    let dot := [qd.d.toNat, qd.a.toNat, qd.b.toNat, qd.s.toNat]
    (∀ i ∈ [Instr.iadd o, .isub o u, .imul o, .imulh o u, .imad o, .imin o u, .imax o u, .and o, .or o, .xor o, .andn o, .shl o, .shr o, .sar o,
        .rol o, .bfx o, .bfi o], LaneStops i three []) ∧
    (∀ i ∈ [Instr.iabs e, .popc e, .clz e, .brev e, .fclass e, .frnd e rm, .f2i e rm u, .i2f e rm u, .fcvt e rm dir u, .fexp e u, .f8up e x u,
        .f4up e b3, .dxexp e kx dl], LaneStops i two []) ∧
    (∀ i ∈ [Instr.fadd f rm, .fsub f rm, .fmul f rm, .ffma f rm, .fmin f u, .fmax f u, .fscale f rm, .fsgn f so, .hadd2 f rm u v, .hmul2 f rm u v,
        .hfma2 f rm u v, .hminmax2 f u v prop, .f8pk f k8 rm x, .f4pk f k4 u b3, .bmax f], LaneStops i fthree []) ∧
    (∀ i ∈ [Instr.rcp q, .rsq q, .sqrt q, .ex2 q, .lg2 q, .sinpi q, .cospi q], LaneStops i one []) ∧
    LaneStops (.fdiv q d u) [q.d.toNat, q.a.toNat, d.toNat] [] ∧
    LaneStops (.qdot8 qd) dot [] ∧ LaneStops (.qdot4 qd) dot [] ∧ LaneStops (.dxdec e u b3 d x) [e.d.toNat, e.a.toNat, d.toNat] [] ∧
    LaneStops (.icmp c p r) (r.a.toNat :: srcRegs r.b) [p.toNat] ∧ LaneStops (.isel e w p u) two [p.toNat] ∧
    LaneStops (.mov d b) (d.toNat :: srcRegs b) [] ∧ LaneStops (.movs d n) [d.toNat] [] ∧
    LaneStops (.iadd64 o) ([o.d.toNat, o.d.toNat + 1, o.a.toNat, o.a.toNat + 1] ++ srcPairRegs o.b) [] ∧
    LaneStops (.imulw o u) ([o.d.toNat, o.d.toNat + 1, o.a.toNat] ++ srcRegs o.b) [] ∧
    LaneStops (.plop op p p2 p3) [] [p.toNat, p2.toNat, p3.toNat] ∧
    LaneStops (.pmovGet d) [d.toNat] allPreds ∧ LaneStops (.pmovPut d u) [d.toNat] allPreds ∧
    LaneStops (.pmovSet m) [] (allPreds.filter (m.extractLsb' 16 16).getLsbD) ∧ LaneStops (.setx x (.reg d u)) [d.toNat] [] ∧
    LaneStops (.fcmp fc p fr) (fr.a.toNat :: fsrcRegs fr.b) [p.toNat] ∧
    LaneStops (.hcmp2 fc p fr u) (fr.a.toNat :: fsrcRegs fr.b) [p.toNat, p.toNat + 1] ∧ LaneStops (.br p u j tgt) [] [p.toNat] ∧
    (∀ i ∈ [Instr.movx d x b, .stx d x b], ∀ s t T tid th, s.cur = some (.lane t tid) → s.team? t = some T → T.thread? tid = some th →
      let regs := d.toNat :: srcRegs b
      let ix := th.index x.toNat
      let k := (srcVal b th).toNat
      ((∃ y ∈ regs, T.regCount th ≤ y) → exec i s = .next (s.stopLane t T tid th { code := Code.regRange })) ∧
      ((∀ y ∈ regs, y < T.regCount th) → k < ix.2 → ix.1 + k < T.regCount th → th.shadowed ((ix.1 + k) :: regs) [] = true →
        exec i s = .next (s.stopLane t T tid th { code := Code.lookahead })))

/-- The lane instructions on registers leave everything else unchanged: every byte of memory, every other thread, every other register,
predicate and flag, the index registers, the link stack, the position. SETX changes the index register that it names and nothing else. -/
def Obligations.LaneRegisterFrames : Prop :=
  ∀ (o : R3) (f : F3) (e : R2) (g : FAB) (k : QDot) (r : RAB) (c : ICond) (fc : FCond) (p q z : Pred) (d : Reg) (b : Src) (n : SReg)
    (x : BitVec 2) (w : Option Word) (m : Word) (rm : RM) (op : PlopOp) (so : SgnOp) (dir : CvtDir) (k8 : F8Kind) (k4 : F4Kind) (kx : DxKind)
    (p3 : BitVec 3) (dl : BitVec 4) (u v prop : Bool) (h : Bool) (bs ln : BitVec 7),
    let od := fun (_ : Thread) => [o.d.toNat]
    let ed := fun (_ : Thread) => [e.d.toNat]
    let fd := fun (_ : Thread) => [f.d.toNat]
    let two := fun (_ : Thread) => [o.d.toNat, o.d.toNat + 1]
    let no := fun (_ : Thread) => ([] : List Nat)
    (LaneFrame (.iadd o) od [] false ∧ LaneFrame (.isub o u) od [] false ∧ LaneFrame (.imul o) od [] false ∧ LaneFrame (.imulh o u) od [] false ∧
     LaneFrame (.imad o) od [] false ∧ LaneFrame (.imin o u) od [] false ∧ LaneFrame (.imax o u) od [] false ∧ LaneFrame (.iabs e) ed [] false ∧
     LaneFrame (.and o) od [] false ∧ LaneFrame (.or o) od [] false ∧ LaneFrame (.xor o) od [] false ∧ LaneFrame (.andn o) od [] false ∧
     LaneFrame (.shl o) od [] false ∧ LaneFrame (.shr o) od [] false ∧ LaneFrame (.sar o) od [] false ∧ LaneFrame (.rol o) od [] false ∧
     LaneFrame (.bfx o) od [] false ∧ LaneFrame (.bfi o) od [] false ∧ LaneFrame (.popc e) ed [] false ∧ LaneFrame (.clz e) ed [] false ∧
     LaneFrame (.brev e) ed [] false) ∧
    (LaneFrame (.icmp c p r) no [p.toNat] false ∧ LaneFrame (.isel e w p u) ed [] false ∧ LaneFrame (.mov d b) (fun _ => [d.toNat]) [] false ∧
     LaneFrame (.movs d n) (fun _ => [d.toNat]) [] false ∧ LaneFrame (.iadd64 o) two [] false ∧ LaneFrame (.imulw o u) two [] false ∧
     LaneFrame (.plop op p q z) no [p.toNat] false ∧ LaneFrame (.pmovGet d) (fun _ => [d.toNat]) [] false ∧
     LaneFrame (.pmovPut d u) no allPreds false ∧ LaneFrame (.pmovSet m) no (allPreds.filter (m.extractLsb' 16 16).getLsbD) false ∧
     LaneFrame (.movx d x b) (fun _ => [d.toNat]) [] false ∧
     LaneFrame (.stx d x b) (fun th => [(th.index x.toNat).1 + (srcVal b th).toNat]) [] false) ∧
    (LaneFrame (.fadd f rm) fd [] true ∧ LaneFrame (.fsub f rm) fd [] true ∧ LaneFrame (.fmul f rm) fd [] true ∧ LaneFrame (.ffma f rm) fd [] true ∧
     LaneFrame (.fmin f u) fd [] true ∧ LaneFrame (.fmax f u) fd [] true ∧ LaneFrame (.fcmp fc p g) no [p.toNat] true ∧
     LaneFrame (.fclass e) ed [] false ∧ LaneFrame (.frnd e rm) ed [] true ∧ LaneFrame (.f2i e rm u) ed [] true ∧
     LaneFrame (.i2f e rm u) ed [] true ∧ LaneFrame (.fcvt e rm dir u) ed [] true ∧ LaneFrame (.hadd2 f rm u v) fd [] true ∧
     LaneFrame (.hmul2 f rm u v) fd [] true ∧ LaneFrame (.hfma2 f rm u v) fd [] true ∧ LaneFrame (.hminmax2 f u v prop) fd [] true ∧
     LaneFrame (.hcmp2 fc p g u) no [p.toNat, p.toNat + 1] true ∧ LaneFrame (.fscale f rm) fd [] true ∧ LaneFrame (.fexp e u) ed [] true ∧
     LaneFrame (.fsgn f so) fd [] false) ∧
    (LaneFrame (.f8pk f k8 rm x) fd [] true ∧ LaneFrame (.f8up e x u) ed [] true ∧ LaneFrame (.f4pk f k4 u p3) fd [] true ∧
     LaneFrame (.f4up e p3) ed [] true ∧ LaneFrame (.bmax f) fd [] true ∧ LaneFrame (.qdot8 k) (fun _ => [k.d.toNat]) [] true ∧
     LaneFrame (.qdot4 k) (fun _ => [k.d.toNat]) [] true ∧ LaneFrame (.dxexp e kx dl) ed [] true ∧ LaneFrame (.dxdec e u p3 d x) ed [] true) ∧
    (∀ i ∈ [Instr.setx x (.reg d h), .setx x (.imm bs ln)],
      ∀ s s' t T tid th, s.cur = some (.lane t tid) → s.team? t = some T → T.thread? tid = some th → exec i s = .next s' →
        (∃ g, s' = s.stopLane t T tid th g) ∨
        (OnlyThread s s' t tid ∧ ∃ T' th', s'.team? t = some T' ∧ T'.thread? tid = some th' ∧ th' = { th with x := th'.x } ∧
          ∀ n : Nat, n ≠ x.toNat → th'.index n = th.index n))

/-! ## Memory -/

/-- R4, R22: memory is little-endian bytes. A store is read back whole, every other byte reads as before, the canonical form is kept, and two memories
in canonical form that read alike are the same. -/
def Obligations.MemoryReadsWhatWasWritten : Prop :=
  ∀ (m m' : List Host.Cell) (a n v : Nat) (bs : List Byte),
    Memory.bytes (Memory.store m a bs) a bs.length = bs ∧
    (∀ x, x < a ∨ a + bs.length ≤ x → Memory.get (Memory.store m a bs) x = Memory.get m x) ∧
    Memory.val (Memory.store m a (leBytes n v)) a n = v % 256 ^ n ∧
    (Memory.wf m = true → Memory.wf (Memory.store m a bs) = true ∧ Memory.wf (Memory.clear m a n) = true ∧ Memory.wf (Memory.copy m a v n) = true) ∧
    (Memory.wf m = true → Memory.wf m' = true → (∀ x, Memory.get m x = Memory.get m' x) → m = m')

/-- R325-R329: LD and LDS complete for every ready thread whose address can be read, with the bytes in a late result; a page that is not resident
gives zeros and p15; an absent scratch line parks the thread; an address outside the apertures or misaligned, and a line that cannot be
read, stop it. No load changes memory. -/
def Obligations.LoadOutcomes : Prop :=
  ∀ (s : State) (t tid : Nat) (T : Team) (th : Thread) (m : MArgs),
    let z := m.sz
    let d := m.d.toNat
    let la := m.la.toNat
    let th0 := { th with fenced := false }
    (s.LaneReady t T tid th (span d z.regs ++ mRegs m) [15] →
      let a := mAddr m th
      (∀ k, s.locate T (some tid) a z.bytes = .inr k → exec (.ld m) s = .next (s.stopLane t T tid th0 (trapAt k 0 a))) ∧
      (∀ off, s.locate T (some tid) a z.bytes = .inl (.scr off) →
        (T.lineAbsent (off / 128) = false →
          exec (.ld m) s = .next (s.lateLane t T tid th0 la (span d z.regs) [15] (loadVals z d (T.sbytes off z.bytes)) [] 0)) ∧
        (T.lineAbsent (off / 128) = true →
          exec (.ld m) s = .next (s.park t T tid th0 (.line (off / 128) (.load z d la off true))))) ∧
      (∀ priv va s1, s.locate T (some tid) a z.bytes = .inl (.mem priv va) →
        (∀ pa q, s.judgeLoad T.ctx T.cluster priv va = (s1, .ok pa q) →
          exec (.ld m) s = .next (s1.lateLane t T tid th0 la (span d z.regs) [15] (loadVals z d (s.bytes pa z.bytes)) [] 0)) ∧
        (s.judgeLoad T.ctx T.cluster priv va = (s1, .nonres) →
          exec (.ld m) s = .next (s1.lateLane t T tid th0 la (span d z.regs) [15] (loadVals z d []) [(15, true)] 0)) ∧
        (∀ k q, s.judgeLoad T.ctx T.cluster priv va = (s1, .bad k q) →
          exec (.ld m) s = .next (s1.stopLane t T tid th0 (trapAt k q a))))) ∧
    (s.LaneReady t T tid th (span d z.regs ++ [m.a.toNat]) [] →
      let a := mSaddr m th
      (∀ k, s.locate T (some tid) a z.bytes = .inr k → exec (.lds m) s = .next (s.stopLane t T tid th0 (trapAt k 0 a))) ∧
      (∀ off, s.locate T (some tid) a z.bytes = .inl (.scr off) →
        (T.lineAbsent (off / 128) = false →
          exec (.lds m) s = .next (s.lateLane t T tid th0 la (span d z.regs) [] (loadVals z d (T.sbytes off z.bytes)) [] 0)) ∧
        (T.lineAbsent (off / 128) = true →
          exec (.lds m) s = .next (s.park t T tid th0 (.line (off / 128) (.load z d la off false)))))) ∧
    (∀ c cl priv va, (s.judgeLoad c cl priv va).1.mem = s.mem)

/-- R325-R328, R363: ST and STS complete for every ready thread whose address can be written. A store that has been judged takes its place in
the order of memory at once, or is held behind what its thread performs next; when it takes its place, the bytes stored to hold the thread's
registers and every other byte reads as before, and a store in the scratchpad changes no memory. An address that cannot be written stops the
thread, and an absent scratch line parks it. R58, R60, R62: judging a store changes no byte of memory when the page is writable and dirty
already; a page that is not writable and not copy-on-write raises PROTECTION, a page that is not resident raises STORE_NONRES, and neither
writes anything. -/
def Obligations.StoreOutcomes : Prop :=
  (∀ (s : State) (t tid : Nat) (T : Team) (th : Thread) (m : MArgs),
    let data := th.storeBytes m.sz m.d.toNat
    let th0 := { th with fenced := false }
    let outcomes := fun (i : Instr) (a : DWord) =>
      (∀ k, s.locate T (some tid) a data.length = .inr k → exec i s = .next (s.stopLane t T tid th0 (trapAt k 0 a))) ∧
      (∀ off, s.locate T (some tid) a data.length = .inl (.scr off) →
        (T.lineAbsent (off / 128) = true → exec i s = .next (s.park t T tid th0 (.line (off / 128) (.store off data)))) ∧
        (T.lineAbsent (off / 128) = false →
          ∃ s', exec i s = .next s' ∧ s' = (s.setThread t T tid th0).place ⟨t, tid, true, off, data, none⟩ ∧ SameMemory s s')) ∧
      (∀ priv va s1, s.locate T (some tid) a data.length = .inl (.mem priv va) →
        (∀ pa q, s.judgeStore T.ctx T.cluster priv va false = (s1, .ok pa q) →
          ∃ s', exec i s = .next s' ∧ s' = (s1.setThread t T tid th0).place ⟨t, tid, false, pa, data, none⟩ ∧
            (s1.holding = false → s'.bytes pa data.length = data ∧ SameMemoryBut s1 s' pa data.length) ∧
            (s1.holding = true → s'.pending = s1.pending ++ [⟨t, tid, false, pa, data, none⟩] ∧ SameMemory s1 s')) ∧
        (∀ k q, s.judgeStore T.ctx T.cluster priv va false = (s1, .bad k q) →
          exec i s = .next (s1.stopLane t T tid th0 (trapAt k q a))))
    (s.LaneReady t T tid th (span m.d.toNat m.sz.regs ++ mRegs m) [] → outcomes (.st m) (mAddr m th)) ∧
    (s.LaneReady t T tid th (span m.d.toNat m.sz.regs ++ [m.a.toNat]) [] → outcomes (.sts m) (mSaddr m th))) ∧
  (∀ (s : State) (p : Pending),
    (p.scr = false → p.rmw = none →
      (s.performOne p).bytes p.addr p.data.length = p.data ∧ SameMemoryBut s (s.performOne p) p.addr p.data.length) ∧
    (p.scr = true → SameMemory s (s.performOne p))) ∧
  (∀ (s s1 : State) (c : CtxId) (cl : Option Nat) (va : Nat) (full : Bool) (e : Pte),
    s.translate c cl va = (s1, .entry e) →
    let r := s.judgeStore c cl false va full
    (e.res = false → r.2 = .bad Code.storeNonres 0 ∧ r.1.mem = s.mem) ∧
    (e.res = true → (e.w && !e.sro) = false → (e.cow && !e.w && e.size == 0) = false → r.2 = .bad Code.protection 0 ∧ r.1.mem = s.mem) ∧
    (e.res = true → (e.w && !e.sro) = true → e.d = true → s1.lineFault (e.pa va) = none → r.2 = .ok (e.pa va) e.rrc ∧ r.1.mem = s.mem))

/-- R332-R334: ATOM, ATOMF and ATOMX complete for every ready thread whose address can be written: the location takes the operation's new value, in
one step, and the old value is a late result; every other byte reads as translation leaves it. R363: an atomic may be held behind what its thread
performs next; it then takes its place in one step too, with the bytes that stand at its location by then (log entry 87). An access that faults leaves
the flags as they were (R465), and ATOMX adds those of its addend otherwise. R332: what an atomic operation leaves at its location, as numbers of its
width. -/
def Obligations.AtomicOutcomes : Prop :=
  (∀ (s : State) (t tid : Nat) (T : Team) (th : Thread) (m : MArgs),
    let d := m.d.toNat
    let la := m.la.toNat
    let a := mAddr m th
    let th0 := { th with fenced := false }
    let performs := fun (i : Instr) (r : Rmw) =>
      let th1 := th0.addFlags r.now
      (∀ k, s.locate T (some tid) a r.n = .inr k → exec i s = .next (s.stopLane t T tid th0 (trapAt k 0 a))) ∧
      (∀ off, s.locate T (some tid) a r.n = .inl (.scr off) → T.lineAbsent (off / 128) = false → s.holding = true →
        exec i s = .next (s.holdRmw t T tid th1 la r.dregs true off (r.todo off))) ∧
      (∀ off, s.locate T (some tid) a r.n = .inl (.scr off) → T.lineAbsent (off / 128) = false → s.holding = false →
        let old := T.sbytes off r.n
        exec i s = .next ((s.lateLane t (T.sstore off (r.f old)) tid th1 la r.dregs [] (r.dregs.zip (wordsOf old r.dregs.length)) []
          (r.flags old)).spoilScr t off r.n)) ∧
      (∀ off, s.locate T (some tid) a r.n = .inl (.scr off) → T.lineAbsent (off / 128) = true →
        exec i s = .next (s.park t T tid th1 (.line (off / 128) (r.todo off)))) ∧
      (∀ priv va s1, s.locate T (some tid) a r.n = .inl (.mem priv va) →
        (∀ pa q, s.judgeStore T.ctx T.cluster priv va false = (s1, .ok pa q) → s1.holding = true →
          exec i s = .next (s1.holdRmw t T tid th1 la r.dregs false pa (r.todo pa))) ∧
        (∀ pa q, s.judgeStore T.ctx T.cluster priv va false = (s1, .ok pa q) → s1.holding = false →
          let old := s1.bytes pa r.n
          ∃ s', exec i s = .next s' ∧ SameMemoryBut s1 s' pa (r.f old).length ∧ s'.bytes pa (r.f old).length = r.f old ∧
            s' = ((s1.store pa (r.f old)).lateLane t T tid th1 la r.dregs [] (r.dregs.zip (wordsOf old r.dregs.length)) []
              (r.flags old)).spoilMem pa r.n) ∧
        (∀ k q, s.judgeStore T.ctx T.cluster priv va false = (s1, .bad k q) → exec i s = .next (s1.stopLane t T tid th0 (trapAt k q a))))
    (s.LaneReady t T tid th (atomNames (Size.wide m.sz) d (ctlOp (th.reg d)) ++ mRegs m) [] →
      performs (.atom m) (Thread.atomRmw th0 (Size.wide m.sz) d la)) ∧
    (s.LaneReady t T tid th (d :: mRegs m) [] → performs (.atomf m) (atomfRmw (th.reg d) d la)) ∧
    (s.LaneReady t T tid th ([d, d + 1] ++ mRegs m) [] →
      let n := fxEnc (Fmt.fp32.decode (th.reg d).toNat) ((th.reg (d + 1)).extractLsb' 0 7).toInt
      performs (.atomx m)
        ⟨8, atomBytes .add false true n.1 0, [d, d + 1], n.2, (fun _ => 0), (fun off => .atom .add false true off n.1 0 [d, d + 1] la)⟩)) ∧
  (∀ (s : State) (t tid pa late : Nat) (T : Team) (o : Todo), s.team? t = some T →
    let old := s.bytes pa o.width
    let r := o.rmw old
    let s' := s.performOne ⟨t, tid, false, pa, [], some (o, late)⟩
    s' = (s.performBytes ⟨t, tid, false, pa, [], some (o, late)⟩ r.1).modThread t tid (fun th => th.due late r.2.1 [] r.2.2) ∧
      s'.bytes pa r.1.length = r.1 ∧ SameMemoryBut s s' pa r.1.length ∧
      (∀ op u w off x y dregs la, o = .atom op u w off x y dregs la →
        r = (atomBytes op u w x y old, dregs.zip (wordsOf old dregs.length), 0)) ∧
      (∀ off x d la, o = .atomf off x d la → r = (leBytes 4 (atomfSum old x).1, [(d, BitVec.ofNat 32 (leNat old))], (atomfSum old x).2))) ∧
  (∀ (op : AtomOp) (u wide : Bool) (old x y : DWord),
    let w := if wide then 64 else 32
    let r := (atomFn op u wide old x y).toNat
    let o := old.toNat % 2 ^ w
    let v := x.toNat % 2 ^ w
    let signed := fun n : Nat => if 2 ^ (w - 1) ≤ n then (n : Int) - (2 : Int) ^ w else (n : Int)
    (op = .add → r = (o + v) % 2 ^ w) ∧
    (op = .and → r = o &&& v) ∧ (op = .or → r = o ||| v) ∧ (op = .xor → r = o ^^^ v) ∧
    (op = .exch → r = v) ∧
    (op = .cas → r = if o = v then y.toNat % 2 ^ w else o) ∧
    (op = .min → r = if u then min o v else if signed v < signed o then v else o) ∧
    (op = .max → r = if u then max o v else if signed o < signed v then v else o))

/-! ## Windows, requests, fences, feeds -/

/-- R335-R337, R348, R349: the window accesses complete for every ready thread whose access passes the issuer's check: LDW from the remote-read cache
or by a load that is sent, STW and ATW by one transaction, MCST by one per rank, and a write drops the cached lines that it covers (R350). A
failed check stops the thread with its fault.
Where the manual leaves a choice or an inference, a clause rests on the model's own: log entries 10, 35, 36, 73 and 74. -/
def Obligations.WindowAccessOutcomes : Prop :=
  ∀ (s s1 : State) (t tid : Nat) (T : Team) (th : Thread) (m : WArgs),
    let n := m.sz.bytes
    let d := m.d.toNat
    let base := [m.a.toNat, m.a.toNat + 1]
    let off := (th.pairAt m.a.toNat).toNat
    let th0 := { th with fenced := false }
    let data := th.storeBytes m.sz d
    let s2 := s1.rrcWrite T.ctx m.handle off n
    (s.LaneReady t T tid th (span d m.sz.regs ++ base) [15] →
      (∀ f, s.winCheck T ⟨m.handle, off, n, 0, [1, 2], n⟩ = (s1, .bad f) → exec (.ldw m) s = .next (s1.stopLane t T tid th0 f)) ∧
      (∀ aid dest cls rrc wver, s.winCheck T ⟨m.handle, off, n, 0, [1, 2], n⟩ = (s1, .ok (.one aid dest cls rrc wver)) →
        let cached := rrc && !m.acq
        (∀ l, cached = true → s1.rrcHit T.ctx m.handle wver off = some l →
          exec (.ldw m) s = .next (s1.lateLane t T tid th0 m.la.toNat (span d m.sz.regs) [15]
            (loadVals m.sz d ((l.data.drop (off % 2048)).take n)) [] 0)) ∧
        (cached = false ∨ s1.rrcHit T.ctx m.handle wver off = none →
          exec (.ldw m) s = .next ((s1.sendLoad t (.load tid T.lateCtr m.sz d) m.handle aid dest off n cls m.acq rrc wver th.pos).lateWait
            t T tid th0 m.la.toNat (span d m.sz.regs) [15])))) ∧
    (s.LaneReady t T tid th (span d m.sz.regs ++ base) [] →
      (∀ f, s.winCheck T ⟨m.handle, off, n, 1, [1, 2], n⟩ = (s1, .bad f) → exec (.stw m) s = .next (s1.stopLane t T tid th0 f)) ∧
      (∀ aid dest cls rrc wver, s.winCheck T ⟨m.handle, off, n, 1, [1, 2], n⟩ = (s1, .ok (.one aid dest cls rrc wver)) →
        exec (.stw m) s = .next ((s2.newTx (mkTx s t (.store tid) m.handle aid dest (.store data) off n cls m.acq m.rel none th.pos)).setThread
          t T tid th0)) ∧
      (∀ f, s.winCheck T ⟨m.handle, off, n, 1, [3], n⟩ = (s1, .bad f) → exec (.mcst m) s = .next (s1.stopLane t T tid th0 f)) ∧
      (∀ ranks cls, s.winCheck T ⟨m.handle, off, n, 1, [3], n⟩ = (s1, .ok (.many ranks cls)) →
        exec (.mcst m) s = .next ((s2.sendRanks t tid s1.txCtr m data off cls th.pos 0 ranks).setThread t T tid th0))) ∧
    (s.LaneReady t T tid th (atomNames (Size.wide m.sz) d (ctlOp (th.reg d)) ++ base) [] →
      (∀ f, s.winCheck T ⟨m.handle, off, n, 2, [1, 2], n⟩ = (s1, .bad f) → exec (.atw m) s = .next (s1.stopLane t T tid th0 f)) ∧
      (∀ aid dest cls rrc wver, s.winCheck T ⟨m.handle, off, n, 2, [1, 2], n⟩ = (s1, .ok (.one aid dest cls rrc wver)) →
        let xy := th.atomArgs (Size.wide m.sz) d
        let op := TxOp.atomic (ctlOp (th.reg d)) ((th.reg d).getLsbD 3) (Size.wide m.sz) xy.1 xy.2
        exec (.atw m) s = .next ((s2.newTx (mkTx s t (.atomic tid T.lateCtr (Size.wide m.sz) d) m.handle aid dest op off n cls m.acq m.rel none
          th.pos)).lateWait t T tid th0 m.la.toNat (atomRegs (Size.wide m.sz) d) [])))

/-- R64-R66, R336: the issuer's check of a window access against the entry of its handle, in this order: the handle, the right, the limit, the
alignment. An access through a MEM window goes to BASE plus its offset in the entry's context, with the entry's key. R68, R361: the target of a window
access answers WINDOW_KEY, and changes nothing, unless the context has a key that equals the access's key, is not zero and gives the right that the
access needs; a read, a write or an atomic that touches the private arena answers PROTECTION. R350: an access that finds another WVER in its entry
drops the cached lines of its handle.
Where the manual leaves a choice or an inference, a clause rests on the model's own: log entries 35, 73 and 74. -/
def Obligations.WindowCheckOrder : Prop :=
  (∀ (s s0 : State) (T : Team) (q : WinReq) (e : WinEntry),
    s.winEntry T.ctx T.cluster q.handle.toNat = (s0, .inl e) →
    let s1 := s0.rrcDrop fun l => l.ctx == T.ctx && l.handle == q.handle && l.wver != field e 48 8
    let at0 := field e 64 56 + q.off
    let kind := field e 0 2
    let limit := field e 128 56
    let fails := fun (k : BitVec 8) => s.winCheck T q = (s1, .bad { code := k, addr := BitVec.ofNat 64 q.off, handle := q.handle })
    (kind = 0 ∨ winReservedOk e = false ∨ kind ∉ q.kinds → fails Code.windowHandle) ∧
    (kind = 1 → winReservedOk e = true → 1 ∈ q.kinds →
      (flag e (2 + q.right) = false → fails Code.protection) ∧
      (flag e (2 + q.right) = true → limit < q.off + q.len → fails Code.windowLimit) ∧
      (flag e (2 + q.right) = true → q.off + q.len ≤ limit → q.off % q.align ≠ 0 ∨ at0 % q.align ≠ 0 → fails Code.align) ∧
      (flag e (2 + q.right) = true → q.off + q.len ≤ limit → q.off % q.align = 0 → at0 % q.align = 0 →
        s.winCheck T q = (s1, .ok (.one (BitVec.ofNat 10 (field e 16 10))
          (.ctx (BitVec.ofNat 12 (field e 32 12)) (BitVec.ofNat 32 (field e 192 32)) at0) 3 (flag e 5) (field e 48 8))))) ∧
    (kind = 2 → winReservedOk e = true → 2 ∈ q.kinds → T.gang.isNone ∨ T.gsize * 2 ^ 20 < limit → fails Code.windowHandle)) ∧
  (∀ (s : State) (sender : Aid) (cl : BitVec 5) (ctx : CtxId) (key : Word) (va : Nat) (op : TxOp),
    let x : InTx := ⟨sender, cl, .ctx ctx key va, op⟩
    (s.keyOk ctx key op.right = false → s.inbound x = (s, some (.fault Code.windowKey 0))) ∧
    (s.keyOk ctx key op.right = true → ∃ c, Map.find? s.ctxs ctx.toNat = some c ∧ key ≠ 0 ∧
      (∃ k ∈ c.keys, k.extractLsb' 0 32 = key ∧ k.getLsbD (32 + op.right) = true) ∧
      (c.arena va op.len = true → s.inbound x = (s, some (.fault Code.protection 0)))) ∧
    s.keyOk ctx 0 op.right = false)

/-- R330, R331, R338-R342: PREF changes nothing; FENCE makes the next memory access wait for the thread's window accesses; RREQ answers 1 for a
resident page, and otherwise the status of its request record, also where the walk meets a line that cannot be read; FADV moves a feed's count
within its bounds and FCNT reads it, and both stop with FEED_RANGE on a feed that the image does not have. -/
def Obligations.RequestsFencesAndFeeds : Prop :=
  ∀ (m : MArgs) (sc : Scope) (f : Obj) (b : Src) (d : Reg) (sel : FcntSel),
    LaneDoes (.pref m) [] [] (fun s _ _ _ _ => s) ∧
    LaneDoes (.fence sc) [] [] (fun s t T tid th =>
      s.setThread t T tid { th with fenced := th.fenced || (sc != .dev && !(s.txOf t tid).isEmpty) }) ∧
    (∀ s t T tid th, s.LaneReady t T tid th (m.d.toNat :: mRegs m) [] →
      let a := mAddr m th
      let give := fun (w : Word) (s1 : State) => s1.lateLane t T tid th m.la.toNat [m.d.toNat] [] [(m.d.toNat, w)] [] 0
      (∀ k, s.locate T (some tid) a 1 = .inr k → exec (.rreq m) s = .next (s.stopLane t T tid th (trapAt k 0 a))) ∧
      (∀ off, s.locate T (some tid) a 1 = .inl (.scr off) → exec (.rreq m) s = .next (give 1 s)) ∧
      (∀ priv va s1 e, s.locate T (some tid) a 1 = .inl (.mem priv va) → s.translate T.ctx T.cluster va = (s1, .entry e) →
        (e.res = true → exec (.rreq m) s = .next (give 1 s1)) ∧
        (e.res = false → exec (.rreq m) s = .next (give (s1.request va T.ctx T.index).2 (s1.request va T.ctx T.index).1))) ∧
      (∀ priv va s1, s.locate T (some tid) a 1 = .inl (.mem priv va) → s.translate T.ctx T.cluster va = (s1, .missing) →
        exec (.rreq m) s = .next (give (s1.request va T.ctx T.index).2 (s1.request va T.ctx T.index).1)) ∧
      (∀ priv va s1 k q, s.locate T (some tid) a 1 = .inl (.mem priv va) → s.translate T.ctx T.cluster va = (s1, .fault k q) →
        exec (.rreq m) s = .next (give (s1.request va T.ctx T.index).2 (s1.request va T.ctx T.index).1))) ∧
    (∀ s t T tid th, s.LaneReady t T tid th (srcRegs b) [] → f.toNat < T.img.nfeed →
      let n := (srcVal b th).toNat
      let F := T.feed f.toNat
      (F.fill < n → exec (.fadv f true b) s = .next (s.stopLane t T tid th { code := Code.feedRange })) ∧
      (n ≤ F.fill → exec (.fadv f true b) s = .next (s.setTeam t (T.setFeed f.toNat { F with ccnt := (F.ccnt + n) % 2 ^ 32 }))) ∧
      (F.size - F.fill < n → exec (.fadv f false b) s = .next (s.stopLane t T tid th { code := Code.feedRange })) ∧
      (n ≤ F.size - F.fill →
        exec (.fadv f false b) s = .next ((s.setTeam t (T.setFeed f.toNat { F with pcnt := (F.pcnt + n) % 2 ^ 32 })).serveRecvs t f.toNat 1024))) ∧
    (∀ s t T tid th, s.LaneReady t T tid th [d.toNat] [] → f.toNat < T.img.nfeed →
      let F := T.feed f.toNat
      let v := match sel with | .p => F.pcnt | .c => F.ccnt | .fill => (F.pcnt + 2 ^ 32 - F.ccnt) % 2 ^ 32 | .room => 2 ^ F.flog - F.fill
      exec (.fcnt d f sel) s = .next (s.setThread t T tid (th.setReg d.toNat (BitVec.ofNat 32 v)))) ∧
    (∀ (s : State) t T tid th, s.cur = some (.lane t tid) → s.team? t = some T → T.thread? tid = some th → T.img.nfeed ≤ f.toNat →
      exec (.fadv f true b) s = .next (s.stopLane t T tid th { code := Code.feedRange }) ∧
      exec (.fadv f false b) s = .next (s.stopLane t T tid th { code := Code.feedRange }) ∧
      exec (.fcnt d f sel) s = .next (s.stopLane t T tid th { code := Code.feedRange }))

/-- R331, R472: a ring takes a record only when it is enabled, not full and its slot can be read; a record is written whole at the slot of the tail, which
moves on by one, and no other byte of memory changes. A fault record that finds no slot is counted in FLTLOST, and a request record is not written. -/
def Obligations.RingRecords : Prop :=
  ∀ (s : State) (r : FaultRec) (va : Nat) (ctx : CtxId) (team a : Nat),
    (s.ringSlot s.flt 32 = some a →
      a = s.flt.base + 32 * (s.flt.tail % 2 ^ s.flt.log) ∧ 4 ≤ s.flt.log ∧ s.flt.log ≤ 16 ∧ (s.flt.tail + 2 ^ 32 - s.flt.head) % 2 ^ 32 ≠ 2 ^ s.flt.log ∧
      (s.report r).bytes a 32 = r.bytes ∧ SameMemoryBut s (s.report r) a 32 ∧ (s.report r).flt.tail = (s.flt.tail + 1) % 2 ^ 32) ∧
    (s.ringSlot s.flt 32 = none →
      SameMemory s (s.report r) ∧ (s.report r).flt.tail = s.flt.tail ∧ (s.report r).flt.lost = min (s.flt.lost + 1) (2 ^ 32 - 1)) ∧
    (s.ringSlot s.rrq 16 = some a →
      let q := s.request va ctx team
      q.2 = 0 ∧ q.1.bytes a 16 = rrqRecord va ctx team s.rrq.tail ∧ SameMemoryBut s q.1 a 16 ∧ q.1.rrq.tail = (s.rrq.tail + 1) % 2 ^ 32) ∧
    (s.ringSlot s.rrq 16 = none → s.request va ctx team = (s, 2))

/-! ## Lane control, the link stack, joins, spawning -/

/-- R265, R272: the transfers of control complete for every ready thread: BR by its predicate, JMP always, CALL and CALLI with the fall-through header
pushed, RET to the newest entry, while the stack holds entries in registers; EXIT ends the thread. A target above 24 bits, and a RET from an
empty stack, stop the thread with BAD_CLAUSE. R266, R267: with four entries in registers a CALL or CALLI stores the oldest as the next word of the
thread's spill area, and a RET with no entry in registers loads the newest spilled word; a full area raises APERTURE, a spilled word at or above
2^24 BAD_CLAUSE, a refill from a page that is not resident STORE_NONRES, and a word that cannot be written or read stops the thread with stack
and memory as they were.
Where the manual leaves a choice or an inference, a clause rests on the model's own: log entry 94. -/
def Obligations.LaneControlResults : Prop :=
  (∀ (p : Pred) (n : Bool) (j : Option (BitVec 4)) (tgt : Tgt) (a : Reg),
    LaneSets (.br p n j tgt) [] [p.toNat] (fun th => if th.pred p.toNat != n then { th with nextPos := ⟨tgt.toNat, 0⟩ } else th) ∧
    LaneSets (.jmp tgt) [] [] (fun th => { th with nextPos := ⟨tgt.toNat, 0⟩ }) ∧
    (∀ s t T tid th, s.LaneReady t T tid th [] [] → th.link.length < 4 →
      exec (.call tgt) s =
        .next (s.setThread t T tid { th with link := BitVec.ofNat 24 th.nextPos.h :: th.link, nextPos := ⟨tgt.toNat, 0⟩ })) ∧
    (∀ s t T tid th, s.LaneReady t T tid th [a.toNat] [] →
      ((th.reg a.toNat).toNat < 2 ^ 24 → th.link.length < 4 →
        exec (.calli a j) s = .next (s.setThread t T tid
          { th with link := BitVec.ofNat 24 th.nextPos.h :: th.link, nextPos := ⟨(th.reg a.toNat).toNat, 0⟩ })) ∧
      (2 ^ 24 ≤ (th.reg a.toNat).toNat →
        exec (.calli a j) s = .next (s.stopLane t T tid th { code := Code.badClause, addr := (th.reg a.toNat).zeroExtend 64 }))) ∧
    (∀ s t T tid th e r, s.LaneReady t T tid th [] [] → th.link = e :: r →
      exec (.ret j) s = .next (s.setThread t T tid { th with link := r, nextPos := ⟨e.toNat, 0⟩ })) ∧
    (∀ s t T tid th, s.LaneReady t T tid th [] [] → th.link = [] → th.depth = 0 →
      exec (.ret j) s = .next (s.stopLane t T tid th { code := Code.badClause })) ∧
    LaneDoes .exit [] [] (fun s t _ tid _ => (s.arithLane t tid).endThread t tid)) ∧
  (∀ (s s1 : State) (t tid : Nat) (T : Team) (th : Thread) (tgt : Tgt) (j : Option (BitVec 4)) (a : Reg) (priv : Bool) (va : Nat),
    s.LaneReady t T tid th [] [] →
    let here := fun n : Nat => BitVec.ofNat 64 (2 ^ 56 + 4 * n)
    (4 ≤ th.link.length →
      (th.depth = 16 * T.lspill →
        exec (.call tgt) s = .next (s.stopLane t T tid th { code := Code.aperture, addr := here th.depth })) ∧
      (th.depth ≠ 16 * T.lspill → s.resolve T (some tid) (here th.depth) 4 = .mem priv va →
        (∀ pa q, s.judgeStore T.ctx T.cluster priv va false = (s1, .ok pa q) →
          exec (.call tgt) s = .next ((s1.store pa (leBytes 4 (th.link.getLastD 0).toNat)).setThread t T tid
            { th with link := BitVec.ofNat 24 th.nextPos.h :: th.link.dropLast, depth := th.depth + 1, nextPos := ⟨tgt.toNat, 0⟩ })) ∧
        (∀ k q, s.judgeStore T.ctx T.cluster priv va false = (s1, .bad k q) →
          exec (.call tgt) s = .next (s1.stopLane t T tid th { code := k, cause := q, addr := here th.depth })))) ∧
    (4 ≤ th.link.length → s.LaneReady t T tid th [a.toNat] [] → (th.reg a.toNat).toNat < 2 ^ 24 →
      (th.depth = 16 * T.lspill →
        exec (.calli a j) s = .next (s.stopLane t T tid th { code := Code.aperture, addr := here th.depth })) ∧
      (th.depth ≠ 16 * T.lspill → s.resolve T (some tid) (here th.depth) 4 = .mem priv va →
        (∀ pa q, s.judgeStore T.ctx T.cluster priv va false = (s1, .ok pa q) →
          exec (.calli a j) s = .next ((s1.store pa (leBytes 4 (th.link.getLastD 0).toNat)).setThread t T tid
            { th with link := BitVec.ofNat 24 th.nextPos.h :: th.link.dropLast, depth := th.depth + 1, nextPos := ⟨(th.reg a.toNat).toNat, 0⟩ })) ∧
        (∀ k q, s.judgeStore T.ctx T.cluster priv va false = (s1, .bad k q) →
          exec (.calli a j) s = .next (s1.stopLane t T tid th { code := k, cause := q, addr := here th.depth })))) ∧
    (th.link = [] → 0 < th.depth → s.resolve T (some tid) (here (th.depth - 1)) 4 = .mem priv va →
      (∀ pa q, s.judgeLoad T.ctx T.cluster priv va = (s1, .ok pa q) → s1.val pa 4 < 2 ^ 24 →
        exec (.ret j) s = .next (s1.setThread t T tid { th with depth := th.depth - 1, nextPos := ⟨s1.val pa 4, 0⟩ })) ∧
      (∀ pa q, s.judgeLoad T.ctx T.cluster priv va = (s1, .ok pa q) → 2 ^ 24 ≤ s1.val pa 4 →
        exec (.ret j) s = .next (s1.stopLane t T tid th { code := Code.badClause, addr := BitVec.ofNat 64 (s1.val pa 4) })) ∧
      (s.judgeLoad T.ctx T.cluster priv va = (s1, .nonres) →
        exec (.ret j) s = .next (s1.stopLane t T tid th { code := Code.storeNonres, cause := 2, addr := here (th.depth - 1) })) ∧
      (∀ k q, s.judgeLoad T.ctx T.cluster priv va = (s1, .bad k q) →
        exec (.ret j) s = .next (s1.stopLane t T tid th { code := k, cause := q, addr := here (th.depth - 1) }))))

/-- R226, R271: a JOIN of a thread that its slot's mask does not hold sets the predicate false and goes on. A JOIN of one that it holds parks the
thread as arrived, and the first arrival arms the slot with its timeout. R227: at the end of an aclk an armed slot whose threads have all
arrived releases them with status false, one whose deadline has come otherwise releases those that have arrived with status true, and every
other slot stands as it is. -/
def Obligations.JoinOutcomes : Prop :=
  (∀ (s : State) (t tid : Nat) (T : Team) (th : Thread) (a : Reg) (p : Pred) (j : BitVec 4),
    s.LaneReady t T tid th [a.toNat] [p.toNat] →
    let x := T.join j.toNat
    let w := th.reg a.toNat
    let arrived := if tid ∈ x.arrived then x.arrived else x.arrived ++ [tid]
    let x1 : Join :=
      { x with arrived := arrived, armed := true,
               deadline := if x.armed = true then x.deadline else if w = 0xFFFFFFFF then none else some ((s.clock / Config.ticksPerAclk + w.toNat) * Config.ticksPerAclk) }
    (tid ∉ x.mask → exec (.join a p j) s = .next (s.setThread t T tid (th.setPred p.toNat false))) ∧
    (tid ∈ x.mask → exec (.join a p j) s = .next (s.park t (T.setJoin j.toNat x1) tid th (.join j.toNat p.toNat)))) ∧
  (∀ (s : State) (t j : Nat) (T : Team), s.team? t = some T →
    let x := T.join j
    let full := ∀ i ∈ x.mask, i ∈ x.arrived
    (x.armed = false → s.testJoin t j = s) ∧
    (x.armed = true → full → s.testJoin t j = s.releaseJoin t j false) ∧
    (x.armed = true → ¬full → ∀ d, x.deadline = some d → d ≤ s.clock → s.testJoin t j = s.releaseJoin t j true) ∧
    (x.armed = true → ¬full → (∀ d, x.deadline = some d → s.clock < d) → s.testJoin t j = s))

/-- R230, R273: SPAWN completes for every ready thread. It creates threads one after another, at most 32, while ids and contexts are free; v[A] is the
count created, and the predicate is set only when as many were created as v[A] asked for. It creates none when v[A] is 0 or no id is free. A
spawned thread takes the lowest free id and starts at the target with v0 to v7 from the eight registers above v[A], everything else zero, in
its creator's role.
Where the manual leaves a choice or an inference, a clause rests on the model's own: log entry 42. -/
def Obligations.SpawnOutcomes : Prop :=
  ∀ (s : State) (t tid : Nat) (T : Team) (th : Thread) (a : Reg) (p : Pred) (tgt : Tgt),
    s.LaneReady t T tid th (span a.toNat 9) [p.toNat] →
    let c := (th.reg a.toNat).toNat
    let ws := (span (a.toNat + 1) 8).map th.reg
    let r := s.spawnLoop t th ws tgt.toNat (min c 32)
    let done := fun (s : State) (n : Nat) =>
      s.modThread t tid fun th => (th.setReg a.toNat (BitVec.ofNat 32 n)).setPred p.toNat (decide (n = c))
    let u := th.spawned ws tgt.toNat (s.clock / Config.ticksPerAclk * 1024)
    (exec (.spawn a p tgt) s = .next (done r.1 r.2) ∧ r.2 ≤ min c 32) ∧
    (c = 0 → exec (.spawn a p tgt) s = .next (done s 0)) ∧
    (lowestFree T.usedTids 0 1024 = none → exec (.spawn a p tgt) s = .next (done s 0)) ∧
    (∀ i T1, c = 1 → lowestFree T.usedTids 0 1024 = some i → s.takeContext T th.role th.part = some T1 →
      let s1 := s.setThread t T1 i u
      ∃ T2, s1.team? t = some T2 ∧ T2.thread? i = some u ∧
        exec (.spawn a p tgt) s = .next (done (s1.formerAdd T2 t [i] ⟨tgt.toNat, 0⟩ th.part false) 1)) ∧
    u.role = th.role ∧ u.pos = ⟨tgt.toNat, 0⟩ ∧ u.p = 0 ∧ u.link = [] ∧ u.depth = 0 ∧ u.sticky = 0 ∧ u.late = [] ∧ u.st = .former ∧
    (∀ i, i < 8 → u.reg i = th.reg (a.toNat + 1 + i)) ∧ (∀ i, 8 ≤ i → u.reg i = 0)

/-! ## Lane synchronisation -/

/-- R310, R417, R427-R431, R443: the synchronising instructions complete for every ready thread: a contribution, a popped value, an arrival, a claim or
release of registers, a ready bit; or the thread parks on the object that it waits for. Illegal operands stop it. -/
def Obligations.LaneSyncOutcomes : Prop :=
  ∀ (n : BitVec 3) (op : RedOp) (a d : Reg) (ha pool : Bool) (k : Obj) (p : Pred) (b : Src),
    (∀ s t T tid th, s.LaneReady t T tid th [a.toNat] [] →
      (T.redFull th n.toNat = true → exec (.redq n op a ha) s = .next (s.park t T tid th (.redq n.toNat op (th.reg a.toNat)))) ∧
      (T.redFull th n.toNat = false →
        exec (.redq n op a ha) s =
          .next ((s.setTeam t (T.contribute tid th n.toNat op (th.reg a.toNat))).testRed t th.role n.toNat))) ∧
    (∀ s t T tid th, s.LaneReady t T tid th [d.toNat] [p.toNat] →
      let q := (T.role th.role).dq
      (th.dpos < q.tail →
        exec (.dqpop d (some p)) s = .next ((s.setThread t T tid
          (({ th with dpos := th.dpos + 1 }.setReg d.toNat (Map.get 0 q.ent (th.dpos % 32))).setPred p.toNat true)).modTeam t
            fun T => T.rehead th.role)) ∧
      (q.tail ≤ th.dpos → q.closed = true →
        exec (.dqpop d (some p)) s = .next ((s.setThread t T tid ((th.setReg d.toNat 0).setPred p.toNat false)).modTeam t fun T => T.rehead th.role)) ∧
      (q.tail ≤ th.dpos → q.closed = false →
        exec (.dqpop d (some p)) s = .next (s.park t T tid th (.queue d.toNat (some p.toNat))))) ∧
    (∀ s t T tid th, s.LaneReady t T tid th [d.toNat] [] →
      let q := (T.role th.role).dq
      (th.dpos < q.tail →
        exec (.dqpop d none) s = .next ((s.setThread t T tid
          ({ th with dpos := th.dpos + 1 }.setReg d.toNat (Map.get 0 q.ent (th.dpos % 32)))).modTeam t fun T => T.rehead th.role)) ∧
      (q.tail ≤ th.dpos → q.closed = true →
        exec (.dqpop d none) s = .next ((s.setThread t T tid (th.setReg d.toNat 0)).modTeam t fun T => T.rehead th.role)) ∧
      (q.tail ≤ th.dpos → q.closed = false → exec (.dqpop d none) s = .next (s.park t T tid th (.queue d.toNat none)))) ∧
    LaneDoes (.bara k (some p)) [] [p.toNat] (fun s t T tid _ =>
      ((s.arithLane t tid).modThread t tid fun th => th.setPred p.toNat (T.bar k.toNat).ph).arriveBar t k.toNat (some tid)) ∧
    LaneDoes (.bara k none) [] [] (fun s t _ tid _ => (s.arithLane t tid).arriveBar t k.toNat (some tid)) ∧
    LaneDoes (.barw k false p) [] [p.toNat] (fun s t T tid th =>
      if (T.bar k.toNat).ph = th.pred p.toNat then s.park t T tid th (.barrier k.toNat (T.bar k.toNat).ph) else s) ∧
    LaneDoes (.barw k true p) [] [] (fun s t T tid _ =>
      let tok := (T.bar k.toNat).ph
      let s1 := (s.arithLane t tid).arriveBar t k.toNat (some tid)
      match s1.team? t with
      | some T1 =>
        (match T1.thread? tid with
         | some th1 => if (T1.bar k.toNat).ph = tok then s1.park t T1 tid th1 (.barrier k.toNat tok) else s1
         | none => s1)
      | none => s1) ∧
    (∀ s t T tid th, s.LaneReady t T tid th (srcRegs b) [p.toNat] →
      let m := (srcVal b th).toNat
      let r := (T.role th.role).nreg
      (m = 0 →
        exec (.rclaim p b) s = .next (s.setThread t T tid (th.setPred p.toNat true)) ∧
        exec (.rrel p b pool) s = .next (s.setThread t T tid (th.setPred p.toNat true))) ∧
      (m ≠ 0 → m % 4 ≠ 0 ∨ 128 < r + m → exec (.rclaim p b) s = .next (s.stopLane t T tid th { code := Code.regRange })) ∧
      (m ≠ 0 → m % 4 ≠ 0 ∨ r < m + 4 → exec (.rrel p b pool) s = .next (s.stopLane t T tid th { code := Code.regRange })) ∧
      (m ≠ 0 → m % 4 = 0 → r + m ≤ 128 → exec (.rclaim p b) s = .next (s.claimArrive t T tid th ⟨tid, false, false, m, p.toNat⟩)) ∧
      (m ≠ 0 → m % 4 = 0 → m + 4 ≤ r → exec (.rrel p b pool) s = .next (s.claimArrive t T tid th ⟨tid, true, pool, m, p.toNat⟩))) ∧
    (∀ s t T tid th, s.LaneReady t T tid th (a.toNat :: srcRegs b) [] →
      let x := th.reg a.toNat
      let y := srcVal b th
      (T.tileOk x y = true → exec (.trdy a ha b) s = .next (s.setTeam t (T.setReady x.toNat y.toNat))) ∧
      (4 ≤ x.toNat ∨ 1024 ≤ y.toNat → exec (.trdy a ha b) s = .next (s.stopLane t T tid th { code := Code.indexRange })))

/-- R414, R415: an arrival at a barrier of COUNT 1 to 65535 is counted once; the arrival that brings the count to COUNT inverts the phase and starts
the arrivals again at 0. Until then the phase stands. A barrier of COUNT 0 is in live mode: a lane thread's arrival counts once in a phase, and
the phase is inverted when every live thread of the team has arrived; an arrival of the steering thread or an engine counts nothing; the exit of
the last live thread that had not arrived inverts the phase, if a thread has arrived in it. -/
def Obligations.BarrierPhases : Prop :=
  (∀ (s : State) (t k : Nat) (T : Team) (who : Option Nat),
    s.team? t = some T → (T.bar k).count ≠ 0 →
    let b := T.bar k
    (b.arr + 1 < b.count →
      ∃ T', (s.arriveBar t k who).team? t = some T' ∧ (T'.bar k).arr = b.arr + 1 ∧ (T'.bar k).ph = b.ph ∧ (T'.bar k).count = b.count ∧
        SameMemory s (s.arriveBar t k who)) ∧
    (b.count ≤ b.arr + 1 →
      ∃ T', (s.arriveBar t k who).team? t = some T' ∧ T'.bar k = ⟨b.count, 0, !b.ph, [], (s.pastCtr, T.sseq)⟩)) ∧
  (∀ (s : State) (t k : Nat) (T : Team),
    s.team? t = some T → (T.bar k).count = 0 →
    let b := T.bar k
    let all := fun (l : List Nat) => ∀ y ∈ T.liveTids, y ∈ l
    (∀ i, let l := if i ∈ b.who then b.who else b.who ++ [i]
      ∃ T', (s.arriveBar t k (some i)).team? t = some T' ∧ (T'.bar k).count = 0 ∧
        (all l → (T'.bar k).ph = !b.ph ∧ (T'.bar k).arr = 0 ∧ (T'.bar k).who = []) ∧
        (¬all l → (T'.bar k).ph = b.ph ∧ (T'.bar k).who = l ∧ (T'.bar k).arr = (l.filter fun y => T.liveTids.contains y).length)) ∧
    (b.who = [] ∨ ¬all b.who →
      ∃ T', (s.arriveBar t k none).team? t = some T' ∧ (T'.bar k).ph = b.ph ∧ (T'.bar k).who = b.who ∧ (T'.bar k).count = 0) ∧
    (∀ i th, k < 32 → (T.threads.map Prod.fst).Nodup → T.thread? i = some th → b.who ≠ [] → (∀ y ∈ T.liveTids, y = i ∨ y ∈ b.who) →
      ∃ T', (s.endThread t i).team? t = some T' ∧ (T'.bar k).ph = !b.ph ∧ (T'.bar k).who = []))

/-- R427, R428, Table 18.4: what a result register takes from the contributions of a step, whichever order they came in: sum, extremes, bitwise
operations (a bit of the exclusive or is the parity of that bit), the count, and the floating-point sum and extremes. -/
def Obligations.ReductionsCombine : Prop :=
  ∀ (a : Word) (xs : List Word),
    let all := a :: xs
    (redCombine .cnt all).toNat = all.length % 2 ^ 32 ∧
    (redCombine .add all).toNat = (all.map BitVec.toNat).sum % 2 ^ 32 ∧
    (redCombine .umin all ∈ all ∧ ∀ x ∈ all, (redCombine .umin all).toNat ≤ x.toNat) ∧
    (redCombine .umax all ∈ all ∧ ∀ x ∈ all, x.toNat ≤ (redCombine .umax all).toNat) ∧
    (redCombine .min all ∈ all ∧ ∀ x ∈ all, (redCombine .min all).toInt ≤ x.toInt) ∧
    (redCombine .max all ∈ all ∧ ∀ x ∈ all, x.toInt ≤ (redCombine .max all).toInt) ∧
    (∀ i, i < 32 → (redCombine .and all).getLsbD i = all.all (fun x => x.getLsbD i)) ∧
    (∀ i, i < 32 → (redCombine .or all).getLsbD i = all.any (fun x => x.getLsbD i)) ∧
    (∀ i, i < 32 → (redCombine .xor all).getLsbD i = decide ((all.countP fun x => x.getLsbD i) % 2 = 1)) ∧
    (let has := fun (p : FVal → Prop) => ∃ x ∈ all, p (f32 x)
     (has (fun v => v.isNan = true) ∨ (has (fun v => v = .inf true) ∧ has fun v => v = .inf false) → redCombine .fadd all = 0x7FC00000) ∧
     (∀ n, has (fun v => v = .inf n) → ¬has (fun v => v = .inf (!n)) → ¬has (fun v => v.isNan = true) →
       redCombine .fadd all = if n then 0xFF800000 else 0x7F800000) ∧
     (¬has (fun v => v.isNan = true ∨ v.isInf = true) →
       let sum := (all.map fun x => (f32 x).rat).sum
       (sum = 0 → redCombine .fadd all = if ∀ x ∈ all, x = 0x80000000 then 0x80000000 else 0) ∧
       (sum ≠ 0 → ∃ n m e, (FVal.fin n m e).rat = sum ∧ redCombine .fadd all = BitVec.ofNat 32 (Fmt.fp32.round .rn n m e).1)) ∧
     (∀ y ∈ [(RedOp.fmin, false), (.fmax, true)],
       let w := redCombine y.1 all
       ((∀ x ∈ all, (f32 x).isNan = true) → w = 0x7FC00000) ∧
       (has (fun v => v.isNan = false) → w ∈ all ∧ (f32 w).isNan = false ∧
         ∀ x ∈ all, (f32 x).isNan = false → ¬(if y.2 then (f32 w).lt (f32 x) else (f32 x).lt (f32 w)) ∧
           ((f32 x).isZero = true → (f32 w).isZero = true → (f32 x).neg = !y.2 → (f32 w).neg = !y.2))))

/-! ## Rays, records, system instructions -/

/-- R404-R407, R411, R412: RAYQ answers a finished query as a late result; RWSEND sends the record of a ready thread unless its slots in use equal
those granted, when it parks the thread; RWRECV takes a record, and its .nb form answers false when there is none. A feed that no box serves raises
SLOT_GRANT.
Where the manual leaves a choice or an inference, a clause rests on the model's own: log entries 40 and 41. -/
def Obligations.RaysAndRecords : Prop :=
  ∀ (s : State) (t tid : Nat) (T : Team) (th : Thread) (d a b : Reg) (la : BitVec 4) (p : Pred) (any : Bool) (m : WArgs) (f : Obj),
    let th0 := { th with fenced := false }
    (s.LaneReady t T tid th (span d.toNat 4 ++ span a.toNat 8 ++ [b.toNat, b.toNat + 1]) [p.toNat, 15] →
      let q : RayRun := ⟨d.toNat, p.toNat, any, th.pairAt b.toNat, (span a.toNat 8).map th.reg, []⟩
      (∀ s1 hit ws nr, s.rayQuery T q = (s1, .done hit ws nr) →
        exec (.rayq d a la b p any) s = .next (s1.lateLane t T tid th0 la.toNat (span d.toNat 4) [p.toNat, 15]
          ((span d.toNat 4).zip ws) ((p.toNat, hit) :: if nr then [(15, true)] else []) 0)) ∧
      (∀ s1 k, s.rayQuery T q = (s1, .stop (.fault k)) → exec (.rayq d a la b p any) s = .next (s1.stopLane t T tid th0 k))) ∧
    (s.LaneReady t T tid th (span m.d.toNat 16 ++ [m.a.toNat, m.a.toNat + 1]) [] →
      let off := (th.pairAt m.a.toNat).toNat
      ∀ s1 aid ctx key va cls rrc wver, s.winCheck T ⟨m.handle, off, 64, 1, [1], 64⟩ = (s1, .ok (.one aid (.ctx ctx key va) cls rrc wver)) →
        let s2 := s1.rrcWrite T.ctx m.handle off 64
        let c := s2.credit aid ctx (off / 64)
        (256 ≤ off / 64 → exec (.rwsend m) s = .next (s1.stopLane t T tid th0
          { code := Code.windowLimit, addr := BitVec.ofNat 64 off, handle := m.handle })) ∧
        (off / 64 < 256 → c.1 ≠ c.2 →
          exec (.rwsend m) s = .next ((s2.sendRecord t tid th0 m aid ctx key (off / 64) va).setThread t T tid th0)) ∧
        (off / 64 < 256 → c.1 = c.2 → exec (.rwsend m) s = .next (s2.park t T tid th0 (.send m aid ctx key (off / 64) va)))) ∧
    (s.LaneReady t T tid th (span d.toNat 16) [] → f.toNat < T.img.nfeed →
      (s.feedBound t f.toNat = false → exec (.rwrecv d f la) s = .next (s.stopLane t T tid th { code := Code.slotGrant })) ∧
      (s.feedBound t f.toNat = true → 64 ≤ (T.feed f.toNat).fill → exec (.rwrecv d f la) s = .next (s.takeRecord t T tid th f.toNat d.toNat la.toNat [])) ∧
      (s.feedBound t f.toNat = true → (T.feed f.toNat).fill < 64 →
        exec (.rwrecv d f la) s = .next (s.park t T tid th (.recv f.toNat d.toNat la.toNat (s.issueMark th))))) ∧
    (s.LaneReady t T tid th (span d.toNat 16) [p.toNat] → f.toNat < T.img.nfeed → s.feedBound t f.toNat = true →
      (64 ≤ (T.feed f.toNat).fill →
        exec (.rwrecvNb d f la p) s = .next (s.takeRecord t T tid th f.toNat d.toNat la.toNat [(p.toNat, true)])) ∧
      ((T.feed f.toNat).fill < 64 →
        exec (.rwrecvNb d f la p) s = .next (s.lateLane t T tid th la.toNat (span d.toNat 16) [p.toNat] ((span d.toNat 16).map fun r => (r, 0))
          [(p.toNat, false)] 0)))

/-- R206, R207, R274: TRAP and BRKPT stop the thread with their code, SRD reads a special register of Table 9.2, STAT reads the sticky flags and clears
those that it names, NOP and YIELD change nothing.
Where the manual leaves a choice or an inference, a clause rests on the model's own: log entry 17. -/
def Obligations.LaneSystemResults : Prop :=
  ∀ (code : Option Word) (d : Reg) (sel : Special) (clr : Option (BitVec 5)),
    LaneDoes (.trap code) [] [] (fun s t T tid th => s.stopLane t T tid th { code := 0x50, info := code.getD 0 }) ∧
    LaneDoes .brkpt [] [] (fun s t T tid th => s.stopLane t T tid th { code := 0x51 }) ∧
    LaneDoes .nop [] [] (fun s _ _ _ _ => s) ∧
    LaneDoes .yield [] [] (fun s _ _ _ _ => s) ∧
    LaneDoes (.srd d .dtime) [d.toNat, d.toNat + 1] [] (fun s t T tid th => s.setThread t T tid (th.setPair d.toNat s.dtime)) ∧
    (sel ≠ .dtime → LaneDoes (.srd d sel) [d.toNat] [] (fun s t T tid th =>
      s.setThread t T tid (th.setReg d.toNat (BitVec.ofNat 32 (match sel with
        | .tid => tid | .rid => th.role | .rtid => (tid + 1024 - (T.role th.role).first) % 1024 | .team => T.index | .grid => T.gridNo.toNat
        | .gangrank => T.rank | .gangsize => T.gsize | .aid => s.cfg.aid.toNat | .depth => T.depth | .dtime => 0 | .teamstat => T.stat.toNat
        | .core => T.core?.getD 0 | .part => th.part | .wave => (s.waveOf T t tid th).1 | .lane => (s.waveOf T t tid th).2))))) ∧
    LaneSets (.stat d clr) [d.toNat] [] (fun th =>
      { th.setReg d.toNat (th.sticky.zeroExtend 32) with sticky := th.sticky &&& ~~~clr.getD 0, reported := th.reported &&& ~~~clr.getD 0 })

/-! ## Taking a fault and the return from one -/

/-- R465, R471: a precise fault in a lane thread stops it at its position with its record, which names code, cause, source, thread, position, context and
team, and the record is reported. Registers, predicates, flags, link stack and outstanding results stand as they did, and nothing but the fault
ring changes in memory. A stop of the steering thread does the same for it. Table 20.2: the 32 bytes of a fault record hold its fields, each at its place. -/
def Obligations.TakingAFault : Prop :=
  (∀ (s : State) (t tid : Nat) (T : Team) (th : Thread) (f : Trap),
    s.team? t = some T → T.thread? tid = some th →
    let r : FaultRec := ⟨f.code, 0, f.cause, BitVec.ofNat 10 tid, th.pos.h, th.pos.k, f.addr, f.info, f.handle, f.peer, T.ctx, BitVec.ofNat 24 T.index⟩
    let q : FaultRec := ⟨f.code, 1, f.cause, 0, T.steer.pos.h, T.steer.pos.k, f.addr, f.info, f.handle, f.peer, T.ctx, BitVec.ofNat 24 T.index⟩
    let s1 := s.stopLane t T tid th f
    let s2 := s.stopSteer t T f
    (∃ T1, s1.team? t = some T1 ∧ T1.thread? tid = some { th with st := .stopped r } ∧ (∀ u, u ≠ tid → T1.thread? u = T.thread? u) ∧
      T1 = { T with threads := T1.threads }) ∧
    (s2.team? t = some { T with steer := { T.steer with st := .stopped q } }) ∧
    (∀ u, u ≠ t → s1.team? u = s.team? u ∧ s2.team? u = s.team? u) ∧
    (∀ a, s.ringSlot s.flt 32 = some a →
      SameMemoryBut s s1 a 32 ∧ SameMemoryBut s s2 a 32 ∧ s1.bytes a 32 = r.bytes ∧ s2.bytes a 32 = q.bytes) ∧
    (s.ringSlot s.flt 32 = none → SameMemory s s1 ∧ SameMemory s s2)) ∧
  (∀ (m : List Host.Cell) (a : Nat) (r : FaultRec), r.h < 2 ^ 24 → r.k < 16 →
    let m1 := Memory.store m a r.bytes
    let w := Memory.val m1 a 4
    r.bytes.length = 32 ∧
    field w 0 8 = r.code.toNat ∧ field w 8 4 = r.src.toNat ∧ field w 12 4 = r.cause.toNat ∧ field w 16 10 = r.id.toNat ∧
    field (Memory.val m1 (a + 4) 4) 0 24 = r.h ∧ field (Memory.val m1 (a + 4) 4) 24 4 = r.k ∧
    Memory.val m1 (a + 8) 8 = r.addr.toNat ∧ Memory.val m1 (a + 16) 4 = r.info.toNat ∧
    field (Memory.val m1 (a + 20) 4) 0 16 = r.handle.toNat ∧ field (Memory.val m1 (a + 20) 4) 16 10 = r.peer.toNat ∧
    Memory.val m1 (a + 24) 4 = r.ctx.toNat ∧ Memory.val m1 (a + 28) 4 = r.team.toNat)

/-- R466, R473: a RESTART that names a stopped party continues it, at the next instruction after TRAP and BRKPT and at the faulting one after every
other stop, and completes with OK; one that names no team, or a party that is not stopped, completes with BAD_STATE. A lane thread enters FORMER
with its registers as they were; a steering thread runs. A saved team is taken as its save area has it. While an earlier fault command is not
complete, the command waits behind it. -/
def Obligations.ReturnFromAFault : Prop :=
  ∀ (s : State) (x : FltTarget) (t : Nat) (T0 T : Team) (th : Thread) (r : FaultRec),
    (s.ctl.jobs ≠ [] → exec (.restart x) s = .next { s with ctl := { s.ctl with jobs := s.ctl.jobs ++ [.queued 1 x s.ctl.fltgrid] } }) ∧
    (s.ctl.jobs = [] →
      (s.fltTeam x s.ctl.fltgrid = none → exec (.restart x) s = .next (s.fltDone 1)) ∧
      (s.fltTeam x s.ctl.fltgrid = some (t, T0) → (s.fromSlot t).team? t = some T →
        let s0 := s.fromSlot t
        (T0.place ≠ .saved → s.team? t = some T0 → s0 = s) ∧
        (x.src = 0 → T.thread? x.id.toNat = some th → th.st = .stopped r →
          let p := if r.code = 0x50 ∨ r.code = 0x51 then th.nextPos else th.pos
          let back := ((s0.setThread t T x.id.toNat { th with st := .former, pos := p, nextPos := p }).formerAdd T t [x.id.toNat] p th.part false)
          exec (.restart x) s = .next ((back.resave t).fltDone 0)) ∧
        (x.src = 0 → T.thread? x.id.toNat = some th → (∀ q, th.st ≠ .stopped q) → exec (.restart x) s = .next (s.fltDone 1)) ∧
        (x.src = 1 → T.steer.st = .stopped r →
          let p := if r.code = 0x50 ∨ r.code = 0x51 then T.steer.nextPos else T.steer.pos
          exec (.restart x) s =
            .next (((s0.setTeam t { T with steer := { T.steer with st := .running, pos := p, nextPos := p } }).resave t).fltDone 0))))

/-! ## The steering stream -/

/-- Table 13.2, R298-R305: each scalar steering instruction completes for every ready steering thread with the table's result in s[D] or in its
condition, and changes nothing else; divisions and remainders are late results. -/
def Obligations.SteerScalarResults : Prop :=
  ∀ (o : S3) (e : S2) (rev u n : Bool) (c : ICond) (p q z : Cond) (a d : SReg) (b : SSrc) (op : PlopOp),
    let three := fun (i : Instr) (f : Word → Word → Word) =>
      SteerSets i ([o.d.toNat, o.a.toNat] ++ ssrcRegs o.b) fun st => st.setReg o.d.toNat (f (st.reg o.a.toNat) (ssrcVal o.b st))
    let late := fun (i : Instr) (f : Word → Word → Word) =>
      SteerDoes i ([o.d.toNat, o.a.toNat] ++ ssrcRegs o.b) fun s t T =>
        s.lateSteer t T [o.d.toNat] [(o.d.toNat, f (T.steer.reg o.a.toNat) (ssrcVal o.b T.steer))] .due
    three (.sadd o) (fun a b => a + b) ∧
    three (.ssub o rev) (fun a b => if rev then b - a else a - b) ∧
    three (.smul o) (fun a b => a * b) ∧
    three (.smulh o u) (fun a b => if u then Alu.mulhu a b else Alu.mulhs a b) ∧
    three (.smin o u) (fun a b => Alu.min u a b) ∧ three (.smax o u) (fun a b => Alu.max u a b) ∧
    three (.sand o) (fun a b => a &&& b) ∧ three (.sor o) (fun a b => a ||| b) ∧ three (.sxor o) (fun a b => a ^^^ b) ∧
    three (.sshl o) (fun a b => Alu.shl a b) ∧ three (.sshr o) (fun a b => Alu.shr a b) ∧ three (.ssar o) (fun a b => Alu.sar a b) ∧
    three (.sbfx o) (fun a b => Alu.bfx a b) ∧
    SteerSets (.spopc e) [e.d.toNat, e.a.toNat] (fun st => st.setReg e.d.toNat (Alu.popc (st.reg e.a.toNat))) ∧
    SteerSets (.sclz e) [e.d.toNat, e.a.toNat] (fun st => st.setReg e.d.toNat (Alu.clz (st.reg e.a.toNat))) ∧
    SteerSets (.scmp c p a b) (a.toNat :: ssrcRegs b) (fun st => st.setCond p.toNat (Alu.icmp c (st.reg a.toNat) (ssrcVal b st))) ∧
    SteerSets (.ssel o p n) ([o.d.toNat, o.a.toNat] ++ ssrcRegs o.b)
      (fun st => st.setReg o.d.toNat (if st.cond p.toNat != n then st.reg o.a.toNat else ssrcVal o.b st)) ∧
    SteerSets (.smov d b) (d.toNat :: ssrcRegs b) (fun st => st.setReg d.toNat (ssrcVal b st)) ∧
    SteerSets (.sadd64 o) ([o.d.toNat, o.d.toNat + 1, o.a.toNat, o.a.toNat + 1] ++ ssrcPairRegs o.b)
      (fun st => st.setPair o.d.toNat (st.pairAt o.a.toNat + ssrcPair o.b st)) ∧
    SteerSets (.clop op p q z) [] (fun st => st.setCond p.toNat (Alu.plop op (st.cond q.toNat) (st.cond z.toNat))) ∧
    late (.sdiv o u) (Alu.sdiv u) ∧ late (.srem o u) (Alu.srem u)

/-- R299: the scalar steering instructions leave every other register and condition, the link stack, the latches, every other team and every byte of
memory unchanged; while a late result that one of them names is outstanding, it waits and changes nothing. -/
def Obligations.SteerScalarFrames : Prop :=
  ∀ (o : S3) (e : S2) (rev u n : Bool) (c : ICond) (p q z : Cond) (a d : SReg) (b : SSrc) (op : PlopOp),
    SteerFrame (.sadd o) [o.d.toNat] [] ∧ SteerFrame (.ssub o rev) [o.d.toNat] [] ∧ SteerFrame (.smul o) [o.d.toNat] [] ∧
    SteerFrame (.smulh o u) [o.d.toNat] [] ∧ SteerFrame (.smin o u) [o.d.toNat] [] ∧ SteerFrame (.smax o u) [o.d.toNat] [] ∧
    SteerFrame (.sand o) [o.d.toNat] [] ∧ SteerFrame (.sor o) [o.d.toNat] [] ∧ SteerFrame (.sxor o) [o.d.toNat] [] ∧
    SteerFrame (.sshl o) [o.d.toNat] [] ∧ SteerFrame (.sshr o) [o.d.toNat] [] ∧ SteerFrame (.ssar o) [o.d.toNat] [] ∧
    SteerFrame (.sbfx o) [o.d.toNat] [] ∧ SteerFrame (.spopc e) [e.d.toNat] [] ∧ SteerFrame (.sclz e) [e.d.toNat] [] ∧
    SteerFrame (.scmp c p a b) [] [p.toNat] ∧ SteerFrame (.ssel o p n) [o.d.toNat] [] ∧ SteerFrame (.smov d b) [d.toNat] [] ∧
    SteerFrame (.sadd64 o) [o.d.toNat, o.d.toNat + 1] [] ∧ SteerFrame (.clop op p q z) [] [p.toNat] ∧ SteerFrame .snop [] [] ∧
    SteerFrame .syld [] []

/-- R307-R312, R323: the steering transfers of control, the end of the stream, the decision queues, the result registers and the traps complete for every
ready steering thread. A push to a role that the team does not have does nothing; one to a full queue, and a read of a step that has not come,
wait. -/
def Obligations.SteerControlResults : Prop :=
  ∀ (c : Cond) (n : Bool) (tgt : Tgt) (d : SReg) (role : BitVec 2) (q : BitVec 3) (b : SSrc) (code : Option Word),
    SteerSets (.sbr c n tgt) [] (fun st => if st.cond c.toNat != n then { st with nextPos := ⟨tgt.toNat, 0⟩ } else st) ∧
    SteerSets (.sjmp tgt) [] (fun st => { st with nextPos := ⟨tgt.toNat, 0⟩ }) ∧
    (∀ s t T, s.SteerReady t T [] →
      (T.steer.link.length < 16 → exec (.scall tgt) s = .next (s.setTeam t { T with steer :=
        { T.steer with st := .running, link := BitVec.ofNat 24 T.steer.nextPos.h :: T.steer.link, nextPos := ⟨tgt.toNat, 0⟩ } })) ∧
      (16 ≤ T.steer.link.length → exec (.scall tgt) s = .next (s.stopSteer t T { code := Code.aperture })) ∧
      (∀ e r, T.steer.link = e :: r →
        exec .sret s = .next (s.setTeam t { T with steer := { T.steer with st := .running, link := r, nextPos := ⟨e.toNat, 0⟩ } })) ∧
      (T.steer.link = [] → exec .sret s = .next (s.stopSteer t T { code := Code.badClause })) ∧
      (T.steer.late = [] →
        exec .sdone s = .next ((span 0 T.roles.length).foldl (fun s k => s.serveQueue t k)
          (s.setTeam t { T with steer := { T.steer with st := .done, armt := none, blatch := none, fences := [] },
                                roles := T.roles.map fun r => { r with dq := { r.dq with closed := true } } }))) ∧
      (T.steer.late ≠ [] → exec .sdone s = .next (s.steerWait t T .done))) ∧
    SteerSets (.sloop d tgt) [d.toNat] (fun st =>
      let v := st.reg d.toNat - 1
      if v ≠ 0 then { st.setReg d.toNat v with nextPos := ⟨tgt.toNat, 0⟩ } else st.setReg d.toNat v) ∧
    (∀ s t T, s.SteerReady t T (ssrcRegs b) →
      let k := role.toNat
      let Q := (T.role k).dq
      let run : Team := { T with steer := { T.steer with st := .running } }
      (T.roles.length ≤ k → exec (.dqpush role b) s = .next (s.setTeam t run)) ∧
      (k < T.roles.length → 32 ≤ Q.tail - Q.head → exec (.dqpush role b) s = .next (s.steerWait t T (.dqpush k))) ∧
      (k < T.roles.length → Q.tail - Q.head < 32 →
        exec (.dqpush role b) s = .next ((s.setTeam t (run.modRole k fun r =>
          { r with dq := { Q with ent := Map.set 0 Q.ent (Q.tail % 32) (ssrcVal b T.steer), tail := Q.tail + 1 } })).serveQueue t k))) ∧
    (∀ s t T, s.SteerReady t T (d.toNat :: ssrcRegs b) →
      let v := Map.get (0, 0) T.q q.toNat
      let ahead := (v.2 - (ssrcVal b T.steer).truncate 16).toNat
      (ahead < 2 ^ 15 → exec (.qrd d q b) s = .next (s.setTeam t { T with steer := { T.steer with st := .running }.setReg d.toNat v.1 })) ∧
      (2 ^ 15 ≤ ahead → exec (.qrd d q b) s = .next (s.steerWait t T (.qrd q.toNat ((ssrcVal b T.steer).truncate 16))))) ∧
    SteerDoes (.strap code) [] (fun s t T => s.stopSteer t T { code := 0x50, info := code.getD 0 }) ∧
    SteerDoes .sbrk [] (fun s t T => s.stopSteer t T { code := 0x51 }) ∧
    SteerSets .snop [] id ∧ SteerSets .syld [] id

/-- R313-R316, R426: the steering loads, stores, atomics, fences, special-register reads and CWAIT complete for every ready steering thread whose
address can be reached; an SFENCE is noted, and holds the accesses behind it, not itself; CWAIT waits while its word is below the wanted count; a page
that is not resident raises STORE_NONRES, a failed aperture, alignment or permission its own fault, and an absent scratch line makes the instruction
wait. A load changes no byte of memory; a store and an atomic change the bytes at their address alone.
Where the manual leaves a choice or an inference, a clause rests on the model's own: log entries 43 and 62. -/
def Obligations.SteerMemoryOutcomes : Prop :=
  ∀ (s : State) (t : Nat) (T : Team) (d a b : SReg) (z : Size) (sg wide u : Bool) (hint : BitVec 2) (off : Option Word) (op : AtomOp) (sc : Scope)
    (sel : Special),
    let run : Team := { T with steer := { T.steer with st := .running } }
    (s.SteerReady t T (sRegs d a z.regs) →
      let g := sAddr a off T.steer
      let data := (T.steer.regBytes d.toNat z.regs).take z.bytes
      (∀ k, s.locate T none g z.bytes = .inr k →
        exec (.sld d a z sg hint off) s = .next (s.stopSteer t T (trapAt k 0 g)) ∧
        exec (.sst d a z hint off) s = .next (s.stopSteer t T (trapAt k 0 g))) ∧
      (∀ o, s.locate T none g z.bytes = .inl (.scr o) →
        (T.lineAbsent (o / 128) = true →
          exec (.sld d a z sg hint off) s = .next (s.steerWait t T .line) ∧ exec (.sst d a z hint off) s = .next (s.steerWait t T .line)) ∧
        (T.lineAbsent (o / 128) = false →
          exec (.sld d a z sg hint off) s =
            .next (s.lateSteer t T (span d.toNat z.regs) (sldVals z sg d.toNat (T.sbytes o z.bytes)) .due) ∧
          exec (.sst d a z hint off) s = .next ((s.setTeam t (run.sstore o data)).spoilScr t o z.bytes))) ∧
      (∀ priv va s1, s.locate T none g z.bytes = .inl (.mem priv va) →
        (∀ pa q, s.judgeLoad T.ctx T.cluster false va = (s1, .ok pa q) →
          exec (.sld d a z sg hint off) s =
            .next (s1.lateSteer t T (span d.toNat z.regs) (sldVals z sg d.toNat (s.bytes pa z.bytes)) .due) ∧ SameMemory s s1) ∧
        (s.judgeLoad T.ctx T.cluster false va = (s1, .nonres) →
          exec (.sld d a z sg hint off) s = .next (s1.stopSteer t T (trapAt Code.storeNonres 0 g))) ∧
        (∀ k q, s.judgeLoad T.ctx T.cluster false va = (s1, .bad k q) →
          exec (.sld d a z sg hint off) s = .next (s1.stopSteer t T (trapAt k q g))) ∧
        (∀ pa q, s.judgeStore T.ctx T.cluster false va false = (s1, .ok pa q) →
          ∃ s', exec (.sst d a z hint off) s = .next s' ∧ s' = ((s1.store pa data).setTeam t run).spoilMem pa z.bytes ∧
            SameMemoryBut s1 s' pa data.length ∧ s'.bytes pa data.length = data) ∧
        (∀ k q, s.judgeStore T.ctx T.cluster false va false = (s1, .bad k q) →
          exec (.sst d a z hint off) s = .next (s1.stopSteer t T (trapAt k q g))))) ∧
    (∀ va, (s.judgeStore T.ctx T.cluster false va false).2 ≠ .nonres) ∧
    (s.SteerReady t T (sRegs d a (if wide then 2 else 1) ++ satomRegs b op wide) →
      let g := sAddr a none T.steer
      let n := if wide then 8 else 4
      let k := if wide then 2 else 1
      let xy := T.steer.atomArgs b.toNat wide
      (∀ e, s.locate T none g n = .inr e → exec (.satom d a b op wide u) s = .next (s.stopSteer t T (trapAt e 0 g))) ∧
      (∀ priv va s1 pa q, s.locate T none g n = .inl (.mem priv va) → s.judgeStore T.ctx T.cluster false va false = (s1, .ok pa q) →
        let old := s1.bytes pa n
        ∃ s', exec (.satom d a b op wide u) s = .next s' ∧ SameMemoryBut s1 s' pa n ∧ s'.bytes pa n = atomBytes op u wide xy.1 xy.2 old ∧
          s' = (((s1.store pa (atomBytes op u wide xy.1 xy.2 old)).lateSteer t T (span d.toNat k)
            ((span d.toNat k).zip (wordsOf old k)) .due).spoilMem pa n)) ∧
      (∀ priv va s1, s.locate T none g n = .inl (.mem priv va) →
        (∀ e q, s.judgeStore T.ctx T.cluster false va false = (s1, .bad e q) →
          exec (.satom d a b op wide u) s = .next (s1.stopSteer t T (trapAt e q g)))) ∧
      (∀ o, s.locate T none g n = .inl (.scr o) →
        (T.lineAbsent (o / 128) = true → exec (.satom d a b op wide u) s = .next (s.steerWait t T .line)) ∧
        (T.lineAbsent (o / 128) = false →
          let old := T.sbytes o n
          exec (.satom d a b op wide u) s = .next ((s.lateSteer t (T.sstore o (atomBytes op u wide xy.1 xy.2 old)) (span d.toNat k)
            ((span d.toNat k).zip (wordsOf old k)) .due).spoilScr t o n)))) ∧
    (∀ eng, s.SteerReady t T [] → exec (.sfence sc eng) s =
      .next (s.setTeam t { run with steer := { run.steer with fences := T.steer.fences ++ [⟨s.orderCtr, eng, sc⟩] } })) ∧
    (s.SteerReady t T [d.toNat, d.toNat + 1] →
      exec (.srds d .dtime) s = .next (s.lateSteer t T [d.toNat, d.toNat + 1]
        [(d.toNat, s.dtime.extractLsb' 0 32), (d.toNat + 1, s.dtime.extractLsb' 32 32)] .due)) ∧
    (s.SteerReady t T [d.toNat] → sel ≠ .dtime →
      let v := match sel with
        | .team => T.index | .grid => T.gridNo.toNat | .gangrank => T.rank | .gangsize => T.gsize | .aid => s.cfg.aid.toNat | .depth => T.depth
        | .teamstat => T.stat.toNat | .core => T.core?.getD 0 | _ => 0xFFFFFFFF
      exec (.srds d sel) s = .next (s.lateSteer t T [d.toNat] [(d.toNat, BitVec.ofNat 32 v)] .due)) ∧
    (s.SteerReady t T [a.toNat, a.toNat + 1, b.toNat, b.toNat + 1] →
      let g := sAddr a none T.steer
      let want := (T.steer.pairAt b.toNat).toNat
      let wait : SBlock := .cwait g (T.steer.pairAt b.toNat) T.steer.nextPos
      (∀ k, s.locate T none g 8 = .inr k → exec (.cwait a b) s = .next (s.stopSteer t T (trapAt k 0 g))) ∧
      (∀ o, s.locate T none g 8 = .inl (.scr o) →
        (T.lineAbsent (o / 128) = true → exec (.cwait a b) s = .next (s.steerWait t T wait)) ∧
        (T.lineAbsent (o / 128) = false →
          (want ≤ leNat (T.sbytes o 8) → exec (.cwait a b) s = .next (s.setTeam t run)) ∧
          (leNat (T.sbytes o 8) < want → exec (.cwait a b) s = .next (s.steerWait t T wait)))) ∧
      ∀ priv va s1, s.locate T none g 8 = .inl (.mem priv va) →
        (∀ pa q, s.judgeLoad T.ctx T.cluster false va = (s1, .ok pa q) →
          (want ≤ leNat (s1.bytes pa 8) → exec (.cwait a b) s = .next (s1.setTeam t run)) ∧
          (leNat (s1.bytes pa 8) < want → exec (.cwait a b) s = .next (s1.steerWait t T wait))) ∧
        (s.judgeLoad T.ctx T.cluster false va = (s1, .nonres) →
          exec (.cwait a b) s = .next (s1.stopSteer t T (trapAt Code.storeNonres 0 g))) ∧
        (∀ k q, s.judgeLoad T.ctx T.cluster false va = (s1, .bad k q) →
          exec (.cwait a b) s = .next (s1.stopSteer t T (trapAt k q g))))

/-! ## Engine commands, objects and services of the steering stream -/

/-- R91, R344-R346, R381, R385-R389, R421, R439, R440: COPY, CUBE, CDRAIN and COLL complete for every ready steering thread whose command passes its
checks. With a barrier latched the command is armed on it, else with ATTIME's time it is held for that time, else it is issued; in each case the
latches are consumed. While the barrier, the held commands or the engine have no room the instruction waits. A failed check stops the thread. R386,
R389: what the checks of CUBE and CDRAIN name: a feed that the image does not have, and two equal feeds, FEED_RANGE; a tile that the team does not
hold REG_RANGE; a block whose sides do not fit CUBE_SHAPE.
Where the manual leaves a choice or an inference, a clause rests on the model's own: log entry 45. -/
def Obligations.EngineCommandIssue : Prop :=
  (∀ (s : State) (t : Nat) (T : Team) (e : EArgs) (sk dk : CopyKind) (sf df fa fb fc : Obj) (mode : CubeMode) (init clr : Bool) (k delta : BitVec 4)
    (f : DrainFmt) (slot : BitVec 2) (grp : BitVec 8) (fault : BitVec 8),
    let par := (span e.pb.toNat 8).map T.steer.reg
    let off : Team := { T with steer := { T.steer with st := .running, armt := none, blatch := none } }
    let fails := fun (i : Instr) =>
      exec i s = .next (s.stopSteer t { T with steer := { T.steer with armt := none, blatch := none } } { code := fault })
    let issues := fun (i : Instr) (c : EngCmd) =>
      (∀ b, T.steer.blatch = some b →
        (T.armFull b = false → exec i s = .next (s.addEng t off c (.armed b) T.steer.armt).1) ∧
        (T.armFull b = true → exec i s = .next (s.steerWait t T .arming))) ∧
      (∀ x, T.steer.blatch = none → T.steer.armt = some x →
        (T.countEng (fun y => y.st.isHeld) < 8 → exec i s = .next (s.addEng t off c (.held x) (some x)).1) ∧
        (8 ≤ T.countEng (fun y => y.st.isHeld) → exec i s = .next (s.steerWait t T .engine))) ∧
      (T.steer.blatch = none → T.steer.armt = none →
        (s.engRoom T c = true → exec i s = .next ((s.addEng t off c .queued none).1.issueEng t (s.addEng t off c .queued none).2)) ∧
        (s.engRoom T c = false → exec i s = .next (s.steerWait t T .engine)))
    (s.SteerReady t T (span e.pb.toNat 8) → issues (.copy e sk dk sf df) (.copy e sk dk sf.toNat df.toNat par)) ∧
    (s.SteerReady t T (span e.pb.toNat 3) →
      (T.cubeFault mode fa.toNat fb.toNat fc.toNat k.toNat par = some fault → fails (.cube e mode init fa fb fc k)) ∧
      (T.cubeFault mode fa.toNat fb.toNat fc.toNat k.toNat par = none →
        issues (.cube e mode init fa fb fc k) (.cube e mode init fa.toNat fb.toNat fc.toNat k.toNat par))) ∧
    (s.SteerReady t T [e.pb.toNat] →
      (T.drainFault f df.toNat k.toNat par = some fault → fails (.cdrain e f clr df k delta)) ∧
      (T.drainFault f df.toNat k.toNat par = none →
        issues (.cdrain e f clr df k delta) (.cdrain e f clr df.toNat k.toNat delta.toNat par))) ∧
    (s.SteerReady t T [e.pb.toNat, e.pb.toNat + 1] → ∀ c, Map.find? s.ctxs T.ctx.toNat = some c →
      (c.ngrp ≤ grp.toNat → fault = Code.collAbort → fails (.coll e slot grp)) ∧
      (grp.toNat < c.ngrp → issues (.coll e slot grp) (.coll e slot.toNat grp par)))) ∧
  (∀ (T : Team) (mode : CubeMode) (fa fb fc k : Nat) (par : List Word) (f : DrainFmt) (df : Nat),
    let fs := if mode = .two then [fa, fb] else [fa, fb, fc]
    ((∃ x ∈ fs, T.img.nfeed ≤ x) ∨ ¬fs.Nodup → T.cubeFault mode fa fb fc k par = some Code.feedRange) ∧
    ((∀ x ∈ fs, x < T.img.nfeed) → fs.Nodup → T.tiles.length ≤ k → T.cubeFault mode fa fb fc k par = some Code.regRange) ∧
    (T.cubeFault mode fa fb fc k par = none → k < T.tiles.length ∧ (∀ x ∈ fs, x < T.img.nfeed) ∧ fs.Nodup ∧ blockLegal (parAt par 0) = true) ∧
    (T.img.nfeed ≤ df → T.drainFault f df k par = some Code.feedRange) ∧
    (df < T.img.nfeed → T.tiles.length ≤ k → T.drainFault f df k par = some Code.regRange) ∧
    (T.drainFault f df k par = none →
      df < T.img.nfeed ∧ k < T.tiles.length ∧ blockLegal (parAt par 0) = true ∧ drainSize f (blockOf (parAt par 0)) ≤ (T.feed df).size))

/-- R90, R91, R391-R393, R416-R423: the steering instructions on tiles, feeds, barriers and latches complete for every ready steering thread: ACLAIM with the
tiles claimed or all ones, AREL, FINIT, BARI, SBARA, SBARW, BARARM, BARARM.tile and ATTIME; or they wait, or stop, as their rules say. -/
def Obligations.SteerObjectResults : Prop :=
  ∀ (d pb : SReg) (b : SSrc) (f k : Obj) (rst dt : Bool) (c : Cond),
    (∀ s t T, s.SteerReady t T (d.toNat :: ssrcRegs b) →
      let h := T.tiles.length
      let n := (ssrcVal b T.steer).toNat
      let free := s.freeTiles (T.core?.getD 0)
      let give := fun (U : Team) (w : Word) => s.setTeam t { U with steer := { U.steer with st := .running }.setReg d.toNat w }
      (n = 0 → exec (.aclaim d b) s = .next (give T (BitVec.ofNat 32 h))) ∧
      (n ≠ 0 → 16 < h + n → exec (.aclaim d b) s = .next (give T 0xFFFFFFFF)) ∧
      (n ≠ 0 → h + n ≤ 16 → n ≤ free.length → s.aclaims (T.core?.getD 0) = [] →
        exec (.aclaim d b) s = .next (give { T with tiles := T.tiles ++ (free.take n).map Tile.fresh } (BitVec.ofNat 32 h))) ∧
      (n ≠ 0 → h + n ≤ 16 → free.length < n ∨ s.aclaims (T.core?.getD 0) ≠ [] →
        exec (.aclaim d b) s =
          .next { s.steerWait t T (.aclaim s.claimCtr d.toNat n T.steer.nextPos) with claimCtr := s.claimCtr + 1 })) ∧
    (∀ s t T, s.SteerReady t T (ssrcRegs b) →
      let h := T.tiles.length
      let n := (ssrcVal b T.steer).toNat
      let used := T.eng.any (fun e => match e.2.cmd.tile? with | some x => decide (h - n ≤ x) | none => false)
      let run := { T.steer with st := .running }
      (h < n → exec (.arel b) s = .next (s.stopSteer t T { code := Code.regRange })) ∧
      (n ≤ h → used = true → exec (.arel b) s = .next (s.steerWait t T .arel)) ∧
      (n ≤ h → used = false → exec (.arel b) s =
        .next ((s.setTeam t { T with tiles := T.tiles.take (h - n), steer := run }).grantAclaims (T.core?.getD 0) 16)) ∧
      (let T1 := (T.setBar k.toNat { T.bar k.toNat with count := n % 65536, arr := if rst then 0 else (T.bar k.toNat).arr }).recount k.toNat
       exec (.bari k rst b) s = .next ((s.setTeam t { T1 with steer := run }).testBar t k.toNat))) ∧
    (∀ s t T, s.SteerReady t T [pb.toNat] →
      let l := (T.steer.reg pb.toNat).toNat
      let busy := T.eng.any (fun e => e.2.cmd.feeds.contains f.toNat)
      (T.img.nfeed ≤ f.toNat ∨ T.layoutOk l = false → exec (.finit f (some pb)) s = .next (s.stopSteer t T { code := Code.feedRange })) ∧
      (f.toNat < T.img.nfeed → T.layoutOk l = true → busy = true → exec (.finit f (some pb)) s = .next (s.steerWait t T .finit)) ∧
      (f.toNat < T.img.nfeed → T.layoutOk l = true → busy = false →
        exec (.finit f (some pb)) s = .next (s.setTeam t
          { T.setFeed f.toNat { fbase := l % 2 ^ 13, flog := l / 2 ^ 13 % 2 ^ 5, pcnt := 0, ccnt := 0, recs := [] } with
              steer := { T.steer with st := .running } }))) ∧
    (∀ s t T, s.SteerReady t T [] → f.toNat < T.img.nfeed → T.eng.any (fun e => e.2.cmd.feeds.contains f.toNat) = false →
      exec (.finit f none) s = .next (s.setTeam t
        { T.setFeed f.toNat { T.feed f.toNat with pcnt := 0, ccnt := 0, recs := [] } with steer := { T.steer with st := .running } })) ∧
    SteerDoes (.sbara k (some c)) [] (fun s t T =>
      (s.setTeam t { T with steer := { T.steer with st := .running }.setCond c.toNat (T.bar k.toNat).ph }).arriveBar t k.toNat none) ∧
    SteerDoes (.sbara k none) [] (fun s t T => (s.setTeam t { T with steer := { T.steer with st := .running } }).arriveBar t k.toNat none) ∧
    (∀ s t T, s.SteerReady t T [] →
      (T.steer.cond c.toNat ≠ (T.bar k.toNat).ph →
        exec (.sbarw k false c) s = .next (s.setTeam t
          { T with steer := { T.steer with st := .running, left := laterOf T.steer.left (T.bar k.toNat).flip } })) ∧
      (T.steer.cond c.toNat = (T.bar k.toNat).ph →
        exec (.sbarw k false c) s = .next (s.steerWait t T (.sbarw k.toNat (T.bar k.toNat).ph T.steer.nextPos))) ∧
      exec (.sbarw k true c) s =
        .next ((s.arriveBar t k.toNat none).steerToken t k.toNat (T.bar k.toNat).ph T.steer.nextPos)) ∧
    SteerSets (.bararm k) [] (fun st => { st with blatch := some k.toNat }) ∧
    (∀ s t T, s.SteerReady t T [pb.toNat, pb.toNat + 1] →
      (T.armFull k.toNat = true → exec (.bararmTile pb k) s = .next (s.steerWait t T .arming)) ∧
      (T.armFull k.toNat = false →
        exec (.bararmTile pb k) s = .next (s.addEng t { T with steer := { T.steer with st := .running } }
          (.tile ((encode (.bararmTile pb k)).headD 0) (T.steer.reg pb.toNat) (T.steer.reg (pb.toNat + 1))) (.armed k.toNat) none).1) ∧
      exec (.attime pb dt) s = .next (s.setTeam t { T with steer :=
        { T.steer with st := .running, armt := some (if dt then s.dtime + T.steer.pairAt pb.toNat else T.steer.pairAt pb.toNat) } }))

/-- R82, R96, R145, R318-R322, R410: LAUNCH answers with its path status, its launch status and the child's number; WAITCH waits while a child lives;
BWP writes the phase register; GDETACH detaches a member once its window accesses are performed; RRINV drops cached lines, those that are being
fetched too, or stops with WINDOW_HANDLE; WPROBE answers the code of its check or asks the target; RWGRANT grants slots.
Where the manual leaves a choice or an inference, a clause rests on the model's own: log entry 39. -/
def Obligations.SteerServices : Prop :=
  ∀ (s s1 : State) (t : Nat) (T : Team) (d a : SReg) (b : SSrc) (f : Obj) (h : HSrc) (one : Option SReg),
    let run : Team := { T with steer := { T.steer with st := .running } }
    (s.SteerReady t T [d.toNat, d.toNat + 1, a.toNat, a.toNat + 1] →
      let free : Team := { T with steer := { T.steer with armt := none } }
      let give := fun (s' : State) (lo : Nat) =>
        s'.lateSteer t free [d.toNat, d.toNat + 1] [(d.toNat, BitVec.ofNat 32 lo), (d.toNat + 1, 0xFFFFFFFF)] .due
      (s.pathStatus T ≠ 0 → exec (.launch d a) s = .next (give s (s.pathStatus T))) ∧
      (s.pathStatus T = 0 → ∀ raw st, s.judgeLaunch T.ctx (T.steer.pairAt a.toNat).toNat = (s1, raw, .refused st) →
        exec (.launch d a) s = .next (give s1 (256 * st))) ∧
      (s.pathStatus T = 0 → ∀ raw ds i, s.judgeLaunch T.ctx (T.steer.pairAt a.toNat).toNat = (s1, raw, .ok ds i) →
        ∃ s', exec (.launch d a) s = .next s' ∧ ∃ T', s'.team? t = some T' ∧ T'.children = T.children ++ [s1.gridCtr] ∧ T'.steer.armt = none ∧
          ∃ g, Map.find? s'.grids s1.gridCtr = some g ∧ g.ctx = T.ctx ∧ g.depth = T.depth + 1 ∧ g.parentTeam = some t ∧ g.tfire = T.steer.armt ∧
            ∃ l, l ∈ T'.steer.late ∧ l.regs = [(d.toNat, 0), (d.toNat + 1, g.no)])) ∧
    (s.SteerReady t T (one.map BitVec.toNat).toList →
      let live := s.childLive T (one.map fun r => T.steer.reg r.toNat)
      (live = false → exec (.waitch one) s = .next (s.setTeam t { run with waitchSince := none })) ∧
      (live = true → exec (.waitch one) s = .next (s.setTeam t
        { T with steer := { T.steer with st := .blocked (.waitch (one.map fun r => T.steer.reg r.toNat)), nextPos := T.steer.pos }, waitchSince := T.waitchSince.or (some s.clock) }))) ∧
    (s.SteerReady t T (ssrcRegs b) →
      exec (.bwp b) s = .next ((s.setTeam t run).writePhase T.ctx (field (ssrcVal b T.steer).toNat 0 2) (field (ssrcVal b T.steer).toNat 16 16))) ∧
    (s.SteerReady t T [] →
      (T.gang = none → exec .gdetach s = .next (s.setTeam t run)) ∧
      (∀ g, T.gang = some g → g.state ≠ .attached → exec .gdetach s = .next (s.setTeam t run)) ∧
      (∀ g, T.gang = some g → g.state = .attached →
        (s.windowsOpen t = true → exec .gdetach s = .next (s.steerWait t T .gdetach)) ∧
        (s.windowsOpen t = false →
          exec .gdetach s = .next (((s.setTeam t { run with gang := some { g with state := .detached } }).modGrid T.grid fun G =>
            { G with members := Map.put G.members g.rank 1 }).toGang T.grid (.gangDetach T.gridNo g.rank false)))) ∧
      exec (.rrinv none) s = .next ((s.setTeam t run).rrcDrop fun l => l.ctx == T.ctx)) ∧
    (s.SteerReady t T (hsrcRegs h) →
      let n := hsrcVal h T.steer
      (∀ e, s.winEntry T.ctx T.cluster n.toNat = (s1, .inl e) →
        (field e 0 2 = 1 → winReservedOk e = true →
          exec (.rrinv (some h)) s = .next ((s1.setTeam t run).rrcDrop fun l => l.ctx == T.ctx && l.handle == n)) ∧
        (field e 0 2 ≠ 1 ∨ winReservedOk e = false →
          exec (.rrinv (some h)) s = .next (s1.stopSteer t T { code := Code.windowHandle, handle := n }))) ∧
      (∀ x, s.winEntry T.ctx T.cluster n.toNat = (s1, .inr x) →
        exec (.rrinv (some h)) s = .next (s1.stopSteer t T { code := Code.windowHandle, handle := n }))) ∧
    (∀ bad, (s.rrcDrop bad).rrc = s.rrc.filter (fun l => !bad l) ∧ SameMemory s (s.rrcDrop bad) ∧ (s.rrcDrop bad).teams = s.teams ∧
      ∀ id x w, Map.find? s.txs id = some x → x.fill = some w → x.team = t → s.team? t = some T →
        bad ⟨T.ctx, x.handle, w, x.lo / 2048 * 2048, []⟩ = true → ∃ y, Map.find? (s.rrcDrop bad).txs id = some y ∧ y = { x with stale := true }) ∧
    (s.SteerReady t T (d.toNat :: hsrcRegs h) →
      let n := hsrcVal h T.steer
      (∀ x, s.winCheck T ⟨n, 0, 1, 0, [1, 2], 1⟩ = (s1, .bad x) →
        exec (.wprobe d h) s = .next (s1.lateSteer t T [d.toNat] [(d.toNat, x.code.zeroExtend 32)] .due)) ∧
      (∀ aid dest cls rrc wver, s.winCheck T ⟨n, 0, 1, 0, [1, 2], 1⟩ = (s1, .ok (.one aid dest cls rrc wver)) →
        exec (.wprobe d h) s = .next ((s1.newTx (mkTx s1 t (.probe T.lateCtr d.toNat) n aid dest .probe 0 1 cls false false none
          T.steer.pos)).lateSteer t T [d.toNat] [] .waiting))) ∧
    (s.SteerReady t T ([d.toNat, a.toNat] ++ ssrcRegs b) →
      let sender := field (T.steer.reg a.toNat).toNat 0 10
      let box := field (T.steer.reg a.toNat).toNat 16 8
      let n := (ssrcVal b T.steer).toNat
      (T.img.nfeed ≤ f.toNat → exec (.rwgrant d a b f) s = .next (s.stopSteer t T { code := Code.feedRange })) ∧
      (f.toNat < T.img.nfeed → 1024 < n → exec (.rwgrant d a b f) s = .next (s.stopSteer t T { code := Code.slotGrant })) ∧
      (f.toNat < T.img.nfeed → n = 0 → s.grantSum t f.toNat ≤ (T.feed f.toNat).size / 64 → Map.find? s.boxes (boxKey T.ctx box) = none →
        exec (.rwgrant d a b f) s = .next
          ({ s with boxes := Map.put s.boxes (boxKey T.ctx box) ⟨t, f.toNat, []⟩ }.lateSteer t T [d.toNat] [(d.toNat, 0)] .due)) ∧
      (f.toNat < T.img.nfeed → 0 < n → n ≤ 1024 → s.grantSum t f.toNat + n ≤ (T.feed f.toNat).size / 64 → BitVec.ofNat 10 sender ≠ s.cfg.aid →
        Map.find? s.boxes (boxKey T.ctx box) = none →
        ∃ s', exec (.rwgrant d a b f) s = .next s' ∧
          (∃ x, Map.find? s'.txs s.txCtr = some x ∧ x.op = .grant n ∧ x.target = BitVec.ofNat 10 sender ∧ x.dest = .box T.ctx 0 box (64 * box) ∧
            x.cls = 1) ∧
          ∃ B, Map.find? s'.boxes (boxKey T.ctx box) = some B ∧ B.team = t ∧ B.feed = f.toNat ∧ Map.get 0 B.g sender = n))

/-! ## Late results -/

/-- R185, R186, R299: the event that writes a late result puts its registers, predicates and flags into its thread, and ends the result; a result that is not
due is not written. A reserved encoding stops its party with its code.
Where the manual leaves a choice or an inference, a clause rests on the model's own: log entry 60. -/
def Obligations.LateResultsLand : Prop :=
  ∀ (s : State) (t tid id : Nat) (T : Team) (th : Thread) (l : Late) (code : BitVec 8),
    s.team? t = some T →
    (T.thread? tid = some th → List.find? (fun (x : Late) => x.id == id && x.st == .due) th.late = some l →
      ∃ s' T' th', exec (.lateResultWrite (.lane t tid) id) s = .next s' ∧ s'.team? t = some T' ∧ T'.thread? tid = some th' ∧
        (∀ r, r ∉ l.regs.map Prod.fst → th'.reg r = th.reg r) ∧ ((l.regs.map Prod.fst).Nodup → ∀ e ∈ l.regs, th'.reg e.1 = e.2) ∧
        (∀ p, p ∉ l.preds.map Prod.fst → th'.pred p = th.pred p) ∧ th'.sticky = th.sticky ||| l.flags ∧
        (∀ x ∈ th'.late, x.id = id → x.st = .done) ∧ th'.st = th.st ∧ th'.pos = th.pos ∧ SameMemory s s') ∧
    (∃ s', exec (.lateResultWrite (.lane t tid) id) s = .next s') ∧
    exec (.lateResultWrite (.steer t) id) s = .next (s.modTeam t fun T => { T with steer := T.steer.landLate id }) ∧
    (T.thread? tid = some th → List.find? (fun (x : Late) => x.id == id && x.st == .due) th.late = none →
      ∃ s' T', exec (.lateResultWrite (.lane t tid) id) s = .next s' ∧ s'.team? t = some T' ∧ T'.thread? tid = some th) ∧
    (List.find? (fun (x : Late) => x.id == id && x.st == .due) T.steer.late = some l →
      ∃ s' T', exec (.lateResultWrite (.steer t) id) s = .next s' ∧ s'.team? t = some T' ∧
        (∀ r, r ∉ l.regs.map Prod.fst → T'.steer.reg r = T.steer.reg r) ∧
        ((l.regs.map Prod.fst).Nodup → ∀ e ∈ l.regs, T'.steer.reg e.1 = e.2) ∧ (∀ x ∈ T'.steer.late, x.id ≠ id)) ∧
    (s.cur = some (.lane t tid) → T.thread? tid = some th → exec (.reservedEncoding code) s = .next (s.stopLane t T tid th { code := code })) ∧
    (s.cur = some (.steer t) →
      exec (.reservedEncoding code) s = .next (s.stopSteer t { T with steer := T.steer.useLatches } { code := code }))

/-! ## Work queues and contexts -/

/-- R75-R81, R85, R86, R88: BIND and UNBIND complete with their status; a DOORBELL moves the tail forward only, behind every write that came before it
on its connection; the next record of a queue that may be read is consumed by its event: a NOP, a SIGNAL that adds to its counter, a LAUNCH that is
refused with a notice or accepted. A record that breaks R79 stops the queue with QERR 1 and is not consumed. R85, R86, R89: a pending grid's unmet
counters are read again 10 µs after the last reading, and a grid is eligible from the moment when its counters are met, its time has come and its
predecessor is done; it stays eligible.
Where the manual leaves a choice or an inference, a clause rests on the model's own: log entries 5 and 49. -/
def Obligations.WorkQueueEvents : Prop :=
  (∀ (s : State) (q : BitVec 14) (c : BitVec 16) (v : DWord),
    let go := exec (.doorbell ⟨q, c⟩ v) s
    let sD := s.linesDone c.toNat
    (s.portsOpen = false → go = .next s) ∧
    (s.portsOpen = true →
      (∀ j ∈ sD.lineJobs, j.write = true → j.who ≠ Sum.inl c.toNat) ∧
      ((∀ j ∈ s.lineJobs, j.write = true → j.who ≠ Sum.inl c.toNat) → sD = s) ∧
      (Map.find? sD.queues q.toNat = none → go = .next sD) ∧
      (∀ Q, Map.find? sD.queues q.toNat = some Q →
        let m := v.toNat % 2 ^ 32
        let far := fun (x : Nat) => (x + 2 ^ 32 - Q.head) % 2 ^ 32
        (far Q.tail ≤ far m → far m ≤ 2 ^ Q.qlog → go = .next ((sD.putQueue q.toNat { Q with tail := m }).rereadCtx Q.ctx)) ∧
        (far Q.tail ≤ far m → 2 ^ Q.qlog < far m → Q.qerr = 0 →
          go = .next ((sD.putQueue q.toNat { Q with tail := m, qerr := 2 }).rereadCtx Q.ctx)) ∧
        (far m < far Q.tail → go = .next (sD.rereadCtx Q.ctx))))) ∧
  (∀ (s : State) (q : BitVec 14) (Q : Queue) (a : Nat),
    let n := q.toNat
    let at0 := s.cfg.qtab + 64 * n
    let entry := s.bytes at0 64
    let sB := s.touch none at0
    ((s.lineFault at0).isSome ∨ queueOk entry = false → exec (.bind q) s = .next (sB.queueDone 2)) ∧
    (s.lineFault at0 = none → queueOk entry = true →
      ((Map.find? s.queues n).isSome ∨ Map.find? s.ctxs (queueOf entry).ctx.toNat = none → exec (.bind q) s = .next (sB.queueDone 1)) ∧
      (Map.find? s.queues n = none → (Map.find? s.ctxs (queueOf entry).ctx.toNat).isSome →
        exec (.bind q) s = .next ((sB.putQueue n (queueOf entry)).queueDone 0))) ∧
    (Map.find? s.queues n = none → exec (.unbind q) s = .next (s.queueDone 1)) ∧
    (Map.find? s.queues n = some Q →
      exec (.unbind q) s = .next ({ s with queues := Map.erase s.queues n }.queueDone 0) ∧
      (s.nextRecord Q = some a →
        let bs := s.bytes a 128
        let s0 := s.touch none a
        let taken := s0.putQueue n { Q with head := (Q.head + 1) % 2 ^ 32 }
        a = Q.ringpa + 128 * (Q.head % 2 ^ Q.qlog) ∧
        ((s0.lineFault a).isSome ∨ recordOk bs Q.head = false → ∀ i ∈ [Instr.nopRecord q, .launchRecord q, .signalRecord q],
          exec i s = .next (s0.putQueue n { Q with qerr := 1 })) ∧
        (s0.lineFault a = none → recordOk bs Q.head = true →
          (fld bs 1 1 = 0 → exec (.nopRecord q) s = .next taken) ∧
          (fld bs 1 1 = 2 → exec (.signalRecord q) s = .next ((taken.addCounter Q.ctx (fld bs 0x28 8) (fld bs 0x30 8)).rereadCtx Q.ctx)) ∧
          (fld bs 1 1 = 1 →
            (∀ s1 raw st, taken.judgeLaunch Q.ctx (fld bs 8 8) = (s1, raw, .refused st) → flag (fld bs 4 4) 1 = false →
              exec (.launchRecord q) s = .next s1) ∧
            (∀ s1 raw d i, taken.judgeLaunch Q.ctx (fld bs 8 8) = (s1, raw, .ok d i) →
              ∃ s' g, exec (.launchRecord q) s = .next s' ∧ Map.find? s'.grids s1.gridCtr = some g ∧ g.ctx = Q.ctx ∧ g.desc = d ∧
                g.prio = min d.prio Q.pcap ∧ g.queue = some n ∧ g.parentTeam = none ∧ g.depth = 0)))))) ∧
  (∀ (s : State) (k : Nat) (g : Grid),
    Map.find? s.grids k = some g →
    (g.reread + 10000 * Config.ticksPerNs ≤ s.clock → exec (.waitRereadTimer k) s = .next (s.rereadGrid k)) ∧
    (s.clock < g.reread + 10000 * Config.ticksPerNs → exec (.waitRereadTimer k) s = .next s) ∧
    (g.eligible = true → exec (.tfireReached k) s = .next s) ∧
    (g.eligible = false → s.ripe g = true → exec (.tfireReached k) s = .next (s.modGrid k fun g => { g with eligible := true })) ∧
    (s.ripe g = true ↔ (∀ m ∈ g.met, m = true) ∧ (∀ x, g.tfire = some x → x.toNat ≤ s.dtime.toNat) ∧
      (∀ p, g.serialOn = some p → Map.find? s.grids p = none) ∧ (Map.find? s.ctxs g.ctx.toNat).isSome))

/-- R51, R53, R54, R73: the context commands complete with their status: ACTIVATE reads the context's block, DESTROY removes a context without work,
once the private blocks that are still to be cleared have been, and drops every cached translation and line of it, INVAL_PAGE and INVAL_ALL drop its
translations; each is refused in the wrong state.
Where the manual leaves a choice or an inference, a clause rests on the model's own: log entries 49, 70 and 71. -/
def Obligations.ContextCommands : Prop :=
  ∀ (s : State) (c : CtxId),
    let a := s.cfg.ctxtab + 128 * c.toNat
    let bs := s.bytes a 128
    let active := (Map.find? s.ctxs c.toNat).isSome
    (active = true →
      exec (.activate c) s = .next (s.ctxDone 1) ∧
      (∃ s', exec (.invalAll c) s = .next s' ∧ (∀ e ∈ s'.tlbs, ∀ x ∈ e.2, x.ctx ≠ c) ∧ SameMemory s s' ∧ s'.ctl.ctxstat.last = 0) ∧
      (let va := field s.ctl.ctxarg.toNat 0 56
       let size := field s.ctl.ctxarg.toNat 56 2
       ∃ s', exec (.invalPage c) s = .next s' ∧ SameMemory s s' ∧ s'.ctl.ctxstat.last = 0 ∧
         ∀ e ∈ s'.tlbs, ∀ x ∈ e.2, ¬(x.ctx = c ∧ x.size = size ∧ x.vpn = va / 2 ^ pageShift size)) ∧
      (s.ctxBusy c = true → exec (.destroy c) s = .next (s.ctxDone 1)) ∧
      (s.ctxBusy c = false → ∃ s', exec (.destroy c) s = .next s' ∧ Map.find? s'.ctxs c.toNat = none ∧ (∀ e ∈ s'.tlbs, ∀ x ∈ e.2, x.ctx ≠ c) ∧
        (∀ l ∈ s'.rrc, l.ctx ≠ c) ∧ s'.mem = (s.clearBlocks c).mem ∧ (∀ C, Map.find? s.ctxs c.toNat = some C → C.clearing = [] → SameMemory s s') ∧
        s'.ctl.ctxstat.last = 0)) ∧
    (active = false →
      (∀ i ∈ [Instr.destroy c, .invalPage c, .invalAll c], exec i s = .next (s.ctxDone 1)) ∧
      ((s.lineFault a).isSome ∨ blockOk bs = false → exec (.activate c) s = .next ((s.touch none a).ctxDone 2)) ∧
      (s.lineFault a = none → blockOk bs = true →
        ∃ s', exec (.activate c) s = .next s' ∧ Map.find? s'.ctxs c.toNat = some (ctxOf bs) ∧ s'.phase c = PhaseReg.reset ∧ SameMemory s s' ∧
          s'.ctl.ctxstat.last = 0 ∧ s'.ctl.ctxstat.seq = s.ctl.ctxstat.seq + 1))

/-! ## Main memory -/

/-- Table 7.3, R153, R155: the bank commands complete with their status: ON begins to clear a set that is OFF, OFF waits for the requests that are
queued, INUSE, NOTUSE, PRES and NOPRES write their marks; a set in the wrong state refuses. A command on a set whose OFF waits is performed
behind it, one whose OP is none of the table's, BAD_OP, too. A cleared set holds zeros and no poison.
Where the manual leaves a choice or an inference, a clause rests on the model's own: log entries 47, 80 and 81. -/
def Obligations.BankCommands : Prop :=
  ∀ (s : State) (k : BitVec 9),
    let n := k.toNat
    let b := s.bank n
    (b.offAfter ≠ none →
      ∀ y ∈ [(Instr.bankOn k, 1), (.bankOff k, 2), (.bankInuse k, 3), (.bankNotuse k, 4), (.bankPres k, 5), (.bankNopres k, 6)],
        exec y.1 s = .next (s.setBank n { b with cmds := b.cmds ++ [y.2] })) ∧
    (∀ op ∈ [0, 7],
      (b.offAfter ≠ none → s.bankIssue n op = s.setBank n { b with cmds := b.cmds ++ [op] }) ∧ (b.offAfter = none → s.bankIssue n op = s.bankDone 3)) ∧
    (b.offAfter = none →
      (b.state = 0 → b.clr = false → exec (.bankOn k) s = .next (s.setBank n { b with clr := true, lastAccess := s.clock })) ∧
      (b.state ≠ 0 ∨ b.clr = true → exec (.bankOn k) s = .next (s.bankDone 1)) ∧
      (b.inuse = true ∨ b.state = 4 ∨ b.clr = true → exec (.bankOff k) s = .next (s.bankDone 1)) ∧
      (b.inuse = false → b.state ≠ 4 → b.clr = false →
        (b.state = 0 → exec (.bankOff k) s = .next (s.bankDone 0)) ∧
        (b.state ≠ 0 → b.queue = [] →
          ∃ s', exec (.bankOff k) s = .next s' ∧ (s'.bank n).state = 0 ∧ s'.ctl.bankstat.last = 0 ∧ s'.ctl.bankstat.seq = s.ctl.bankstat.seq + 1) ∧
        (b.state ≠ 0 → b.queue ≠ [] →
          ∃ s', exec (.bankOff k) s = .next s' ∧ s'.bank n = { b with offAfter := some b.queue.length } ∧ s'.ctl.bankstat = s.ctl.bankstat)) ∧
      (b.state = 0 ∨ b.clr = true → exec (.bankInuse k) s = .next (s.bankDone 1)) ∧
      (b.state ≠ 0 → b.clr = false → exec (.bankInuse k) s = .next ((s.setBank n { b with inuse := true }).bankDone 0)) ∧
      exec (.bankNotuse k) s = .next ((s.setBank n { b with inuse := false }).bankDone 0) ∧
      exec (.bankPres k) s = .next ((s.setBank n { b with pres := true }).bankDone 0) ∧
      exec (.bankNopres k) s = .next ((s.setBank n { b with pres := false }).bankDone 0)) ∧
    (b.clr = true → b.lastAccess + clearTicks ≤ s.clock →
      ∃ s', exec (.clearingEnd k) s = .next s' ∧ (∀ a, Machine.setOf a = n → a < 2 ^ 39 → Memory.get s'.mem a = 0) ∧
        (∀ a, a < 2 ^ 39 → Machine.setOf a ≠ n → Memory.get s'.mem a = Memory.get s.mem a) ∧ (∀ l ∈ s'.poison, Machine.setOf (l * 128) ≠ n) ∧
        s'.bank n = { b with state := if b.rlost then 4 else 2, clr := false } ∧ s'.ctl.bankstat.seq = s.ctl.bankstat.seq + 1) ∧
    (b.clr = false ∨ s.clock < b.lastAccess + clearTicks → exec (.clearingEnd k) s = .next s)

/-- R149-R152, R155, R158, R159, R320: the controllers of main memory: a set in ACT serves its oldest request, and goes OFF behind the last request that an
OFF waits for; it sleeps to IDLE and to RET when its times have run out, wakes when it must, and a change of phase comes into force at its
device time. No line of memory changes.
Where the manual leaves a choice or an inference, a clause rests on the model's own: log entry 15. -/
def Obligations.BankPowerEvents : Prop :=
  ∀ (s : State) (k : BitVec 9) (c : CtxId) (x p d : Nat),
    let n := k.toNat
    let b := s.bank n
    (b.state = 3 → b.queue ≠ [] →
      (∀ w, b.offAfter = w → w ≠ some 1 → w ≠ some 0 →
        ∃ s', exec (.memoryLineAccess k) s = .next s' ∧
          s'.bank n = { b with queue := b.queue.drop 1, lastAccess := s.clock, offAfter := w.map (· - 1) } ∧ SameMemory s s') ∧
      (b.offAfter = some 1 → b.cmds = [] →
        ∃ s', exec (.memoryLineAccess k) s = .next s' ∧ (s'.bank n).state = 0 ∧ (s'.bank n).offAfter = none ∧
          s'.ctl.bankstat = ⟨s.ctl.bankstat.seq + 1, 0⟩ ∧ SameMemory s s')) ∧
    (b.state ≠ 3 ∨ b.queue = [] → exec (.memoryLineAccess k) s = .next s) ∧
    (b.state = 3 → b.queue = [] → b.patrol = false → b.lastAccess + nsTicks 200 ≤ s.clock → s.governing n ≠ 3 →
      exec (.actIdleTimeout k) s = .next (s.setBank n { b with state := 2 })) ∧
    (b.state = 2 → b.queue = [] → b.patrol = false → b.waking = false → retTicks (s.governing n) = some d → b.lastAccess + d ≤ s.clock →
      exec (.retEntryTimeout k) s = .next (s.setBank n { b with state := 1 })) ∧
    (2 ≤ s.governing n → exec (.retEntryTimeout k) s = .next s) ∧
    (b.state = 1 ∨ b.state = 2 → b.waking = true ∨ s.governing n = 3 →
      exec (.wakeComplete k) s = .next (s.setBank n { b with state := 3, waking := false, lastAccess := s.clock })) ∧
    (b.state = 1 → b.waking = false → s.governing n = 2 → exec (.wakeComplete k) s = .next (s.setBank n { b with state := 2 })) ∧
    ((s.phase c).change = some (x, p) → x ≤ s.dtime.toNat →
      ∃ s', exec (.phaseInForce c) s = .next s' ∧ s'.phase c = { s.phase c with force := p, change := none } ∧ SameMemory s s' ∧
        (p < 2 → ∀ h ∈ s'.held, h.1 ≠ c.toNat)) ∧
    ((s.phase c).change = some (x, p) → s.dtime.toNat < x → exec (.phaseInForce c) s = .next s)

/-- R161-R167: the patrol reads each granule of a set that is neither OFF nor LOST once in an interval: a line with an uncorrectable error becomes
poison, and the summary counts it; a lost remap makes a set LOST, with its log entry, and leaves one that is OFF where it is until it is cleared; a
new interval begins with no granule read; the bus code is chosen.
Where the manual leaves a choice or an inference, a clause rests on the model's own: log entries 2, 4, 48 and 81. -/
def Obligations.PatrolAndErrors : Prop :=
  ∀ (s : State) (k g : BitVec 9) (fixed bad : List Nat) (low : Bool),
    let n := k.toNat
    let b := s.bank n
    let lo := (n * 2 ^ 30 + g.toNat * 2 ^ 21) / 128
    (b.clr = false → b.state ≠ 0 → b.state ≠ 4 → g.toNat ∉ b.granules →
      ∃ s', exec (.patrolRead k g fixed bad) s = .next s' ∧ SameMemory s s' ∧ (s'.bank n).granules = b.granules ++ [g.toNat] ∧
        (∀ l ∈ s.poison, l ∈ s'.poison) ∧ (∀ l ∈ bad, lo ≤ l → l < lo + 16384 → l ∈ s'.poison) ∧
        (∀ l ∈ s'.poison, l ∉ s.poison → l ∈ bad ∧ lo ≤ l ∧ l < lo + 16384)) ∧
    (b.clr = true ∨ b.state = 0 ∨ b.state = 4 ∨ g.toNat ∈ b.granules → exec (.patrolRead k g fixed bad) s = .next s) ∧
    (∃ s', exec .patrolIntervalStart s = .next s' ∧ SameMemory s s' ∧ ∀ e ∈ s'.banks, e.2.granules = [] ∧ e.2.counts = []) ∧
    (∃ s', exec (.remapLost k) s = .next s' ∧ (s'.bank n).state = (if b.state = 0 then 0 else 4) ∧ (s'.bank n).clr = b.clr ∧ (s'.bank n).rlost = true ∧ s'.mgmt.log = s.mgmt.log ++ [(0x1B, n)] ∧
      SameMemory s s') ∧
    exec (.busCodingChoice k low) s = .next (s.setBank n { b with lowToggle := low })

/-! ## Placement, saving, gangs -/

/-- R93-R96, R121-R123, R132-R136, R139, R475-R477: the placement unit places the first team of its rank that fits: the team is then resident and stages its
regions; every team that has waited 100 µs stops those ranked below it, one that has waited 20 µs pre-empts, and a team in WAITCH is saved for
its descendant when its own save makes the room; a staged line lands in the scratchpad and ends its absence; a save that has drained gives the
core back, a gang member's when every member has drained (R497).
Where the manual leaves a choice or an inference, a clause rests on the model's own: log entries 2, 17, 18, 21, 22 and 23. -/
def Obligations.PlacementEvents : Prop :=
  ∀ (s : State) (e : BitVec 2) (t i u : Nat) (T : Team) (w : Wait) (ws : List Wait) (f : Fit) (k idx : Nat) (g : Grid),
    let d := s.die e.toNat
    let long := fun (c : Cand) (us : Nat) => ∃ y ∈ d.waits, y.1 = c ∧ y.2 + usTicks us ≤ s.clock
    exec (.teamPlace e) s = .next (s.placeFrom e.toNat true (s.waiting e.toNat)) ∧
    (∃ s', exec (.passoverTimeout e) s = .next s' ∧ (s'.die e.toNat).waits = d.waits ∧ (∀ j, j ≠ e.toNat → s'.die j = s.die j) ∧
      SameMemory s s' ∧ s'.teams = s.teams ∧
      ∀ c, c ∈ (s'.die e.toNat).blocked ↔ c ∈ d.blocked ∨ (c ∈ (s.waiting e.toNat).map Wait.cand ∧ long c 100)) ∧
    ((∀ x ∈ s.waiting e.toNat, ¬long x.cand 20) → (∀ r ∈ s.refused, s.clock < r.since + usTicks 20) → exec (.preemptTimeout e) s = .next s) ∧
    (s.refused = [] → s.waiting e.toNat = [w] → long w.cand 20 → exec (.preemptTimeout e) s = .next (s.preempt e.toNat w.prio w.demand)) ∧
    (∀ r, s.refused = [r] → (∀ x ∈ s.waiting e.toNat, ¬long x.cand 20) → r.since + usTicks 20 ≤ s.clock → (Map.find? s.ctxs r.req.ctx.toNat).isSome →
      (∀ need, s.needs r.req = some need → exec (.preemptTimeout e) s = .next (s.preempt e.toNat r.req.prio need)) ∧
      (s.needs r.req = none → exec (.preemptTimeout e) s = .next s)) ∧
    (s.waiting e.toNat = [] → exec (.teamPlace e) s = .next s) ∧
    (s.waiting e.toNat = w :: ws →
      (w.cand = .fresh k idx → Map.find? s.grids k = some g → s.choose e.toNat w true = some f →
        ∀ blk j, s.takeBlock g.ctx g.desc.priv = some blk → s.takeSlot = some j → g.desc.regions = [] →
          ∃ s' T', exec (.teamPlace e) s = .next s' ∧ s'.team? s.teamCtr = some T' ∧ T'.place = .resident f.core f.slot ∧ T'.ctx = g.ctx ∧ T'.index = idx ∧
            T'.phase = .running ∧ T'.pblk = blk ∧ T'.sslot = some j) ∧
      ((∀ x ∈ w :: ws, ¬long x.cand 20) → (∀ r ∈ s.refused, s.clock < r.since + usTicks 20) → exec (.waitchSaveTimeout e) s = .next s) ∧
      (ws = [] → long w.cand 20 → s.candGrid w.cand = some k →
        ∀ one rest, s.teams = (t, T) :: rest → T.core? = some (64 * e.toNat) → T.steer.st = .blocked (.waitch one) → T.phase = .running →
          T.killed = false → s.descends t k 11 = true → s.fitsWithout e.toNat w.demand [] = false → s.fitsWithout e.toNat w.demand [t] = true →
          exec (.waitchSaveTimeout e) s = .next ((s.startSaves t).modTeam t fun T => { T with inWaitch := true }))) ∧
    (s.team? t = some T →
      (T.phase ≠ .saving ∨ T.core? = none ∨ s.drainOpen t = true ∨ T.lateHere = false → exec (.saveComplete t) s = .next s) ∧
      (T.phase = .saving → T.core?.isSome → s.drainOpen t = false → T.lateHere = true →
        let done := fun (s : State) =>
          (((((s.dropUnits t).clearCore t T).setTeam t (T.atRest s.clock)).writeSlot (T.atRest s.clock)).answerSaves t 0).freed T.core?
        (T.gang = none → exec (.saveComplete t) s = .next (done s)) ∧
        (T.gang.isSome →
          let s1 := s.saveStep T.gridNo
          (s1.mayWrite T = false → exec (.saveComplete t) s = .next s1) ∧
          (s1.mayWrite T = true → exec (.saveComplete t) s = .next ((done s1).saveStep T.gridNo)) ∧
          (s1.mayWrite T = true ↔ ∀ g, Map.find? s1.grids T.grid = some g → g.saveGo = true))) ∧
      (T.atRest s.clock).place = .saved ∧ (T.atRest s.clock).core? = none ∧
      (s.mayResume T = false → exec (.teamResume t) s = .next s) ∧
      (∀ G, Map.find? s.grids T.grid = some G → s.mayResume T = true →
        let home := (G.d0 + T.index) % 4
        let s1 := s.placeFrom home true (s.waiting home)
        (∃ T1, s1.team? t = some T1 ∧ T1.core?.isSome) → exec (.teamResume t) s = .next s1) ∧
      (∀ y r b va so n bs, Map.find? T.eng i = some y → y.cmd = .stage r b va so n → T.staging = true → y.wants u n = true → T.stageHead = some i →
        (∀ s1, s.streamRead T true (0, 0) (BitVec.ofNat 64 (va + 128 * u)) = (s1, .inl bs) →
          exec (.stageLineLand t i u) s = .next (s1.stageLand t i so n u bs)) ∧
        (∀ s1 x, s.streamRead T true (0, 0) (BitVec.ofNat 64 (va + 128 * u)) = (s1, .inr (some x)) → u = y.cpos →
          exec (.stageLineLand t i u) s = .next (s1.stopEng t i x))))

/-- R137-R141: a gang's coordinator starts a round, commits when every member has been granted, opens when every member has been staged, and fails the round
on a refusal or after 50 µs; a failed round starts again when a member's K9 reports that resources are free or when 100 µs are over. A member's
broker grants or refuses at once, sends a request for a member whose slot it holds on to the K9 that is to bring it up, undoes a reservation on
release, brings up on commit and starts on open.
Where the manual leaves a choice or an inference, a clause rests on the model's own: log entries 24, 26, 27 and 29. -/
def Obligations.GangRounds : Prop :=
  ∀ (s : State) (k m since : Nat) (g : Grid) (no : Word) (got staged : List Nat) (r : GangReq) (s1 : State) (x : Resv) (a : Aid),
    (Map.find? s.grids k = some g →
      (g.desc.gang = true → g.eligible = true → g.coord = s.cfg.aid → g.gang = .idle → (∃ i ∈ span 0 g.desc.nteam, g.wants i = true) →
        exec (.gangRound k) s = .next (s.startRound k g)) ∧
      (g.gang ≠ .idle → exec (.gangRound k) s = .next s) ∧
      (g.gang = .round since got → since + usTicks 50 ≤ s.clock → exec (.gangRoundTimeout k) s = .next (s.failRound k g)) ∧
      (g.gang = .round since got → s.clock < since + usTicks 50 → exec (.gangRoundTimeout k) s = .next s) ∧
      (g.gang = .failed since →
        ((∃ p ∈ g.peers, p.2 = a) → exec (.gangRetry ⟨k, some a⟩) s = .next (s.startRound k g)) ∧
        ((∀ p ∈ g.peers, p.2 ≠ a) → exec (.gangRetry ⟨k, some a⟩) s = .next s) ∧
        (since + usTicks 100 ≤ s.clock → exec (.gangRetry ⟨k, none⟩) s = .next (s.startRound k g)) ∧
        (s.clock < since + usTicks 100 → exec (.gangRetry ⟨k, none⟩) s = .next s))) ∧
    (s.ownGang no = some (k, g) →
      (g.gang = .round since got →
        (s.clock ≤ since + usTicks 50 → (∀ p ∈ g.peers, p.1 = m ∨ p.1 ∈ got) →
          exec (.gangReservationAnswer no m true) s = .next (g.brokers.foldl (fun s a => s.post a (.gangCommit a no) (.gangCommit no))
            (s.modGrid k fun g => { g with gang := .committed s.clock [], failing := none, drained := [], saveGo := false, savedAt := [], allSaved := false,
                                            owing := (g.owing ++ (g.brokers.filter (fun a => a != s.cfg.aid))).eraseDups }))) ∧
        (s.clock ≤ since + usTicks 50 → m ∉ got → (∃ p ∈ g.peers, p.1 ≠ m ∧ p.1 ∉ got) →
          exec (.gangReservationAnswer no m true) s = .next (s.modGrid k fun g => { g with gang := .round since (got ++ [m]) })) ∧
        exec (.gangReservationAnswer no m false) s = .next (s.failRound k g)) ∧
      (g.gang = .committed since staged → m % 4096 < 64 →
        exec (.gangStagedReport no m) s = .next ((s.modGrid k fun g => { g with gang := .committed since (staged ++ [m]) }).tryOpen k))) ∧
    (r.home ≠ s.cfg.aid → exec (.gangReservationRequest r) s = .next (s.forward r)) ∧
    (r.home = s.cfg.aid → s.grantMember r = some s1 →
      exec (.gangReservationRequest r) s = .next (s1.post r.coord (.gangAnswer r.coord r.grid r.member true) (.gangReservationAnswer r.grid r.member true))) ∧
    (r.home = s.cfg.aid → s.grantMember r = none →
      ∃ s', exec (.gangReservationRequest r) s = .next s' ∧ s'.teams = s.teams ∧
        (s.staysSaved r = false → ∃ y ∈ s'.refused, y.req.grid = r.grid ∧ y.req.member = r.member) ∧
        (s.staysSaved r = true → s'.refused = s.refused) ∧
        (r.coord ≠ s.cfg.aid → ∃ c, s'.cells = s.cells ++ [c] ∧ c.item = .message (.gangAnswer r.coord r.grid r.member false) ∧ c.peer = r.coord) ∧
        (r.coord = s.cfg.aid → s'.agenda = s.agenda ++ [.event (.gangReservationAnswer r.grid r.member false)])) ∧
    (s.resvs.find? (fun y => y.grid == no && y.member == m) = some x → exec (.gangRelease no m) s = .next (s.undoResv x)) ∧
    (s.resvs.find? (fun y => y.grid == no && y.member == m) = none → exec (.gangRelease no m) s = .next s) ∧
    (let s0 : State := { s with
       grids := s.grids.map (fun (g : Nat × Grid) =>
         if g.2.no = no ∧ g.2.desc.gang then (g.1, { g.2 with drained := [], saveGo := false, savedAt := [], allSaved := false }) else g)
       resvs := [{ x with committed := true }] }
     s.resvs = [x] → x.grid = no → ∀ T, s.team? x.team = some T →
      (x.resumed = false → x.brought = false → ∀ G, Map.find? s.grids T.grid = some G →
        exec (.gangCommit no) s = .next ((s0.modTeam x.team fun T => { T with phase := .staging }).bringUp x.team x.desc)) ∧
      (x.resumed = true ∨ x.brought = true →
        exec (.gangCommit no) s = .next (((s0.wakeRegions x.team).modTeam x.team fun T => { T with phase := .staging }).afterStage x.team))) ∧
    (s.resvs = [x] → x.grid = no → x.resumed = false → x.brought = false →
      (∀ y ∈ s.teams, y.2.gang.isSome = true → y.2.gridNo = no → y.2.place ≠ .saved) → ∀ T, s.team? x.team = some T → T.phase = .gangWait → T.killed = false →
      T.mheld = false →
      ∃ s' T', exec (.gangOpen no) s = .next s' ∧ s'.resvs = [] ∧ s'.team? x.team = some T' ∧ T'.phase = .running)

/-- R140, R144-R147, R478: a member that has not been brought up 100 µs after commit, one whose broker is silent, and a reported break all break the
gang: it is recorded, and the member of this K9 is killed. A notice of detachment or of the end is recorded, never undone by an earlier one. A saved
gang saves every member here.
Where the manual leaves a choice or an inference, a clause rests on the model's own: log entries 25 and 28. -/
def Obligations.GangBreaks : Prop :=
  ∀ (s : State) (k m since : Nat) (g : Grid) (no : Word) (staged : List Nat) (done : Bool),
    (Map.find? s.grids k = some g → g.gang = .committed since staged → since + usTicks 100 ≤ s.clock → (∃ p ∈ g.peers, p.1 = m) → m ∉ staged →
      Map.get 0 g.members m ≠ 3 → exec (.gangBringupTimeout k m) s = .next (((s.breakGang g.no m).breakMember g.no m).tryOpen k)) ∧
    (Map.find? s.grids k = some g → g.gang = .committed since staged → s.clock < since + usTicks 100 → exec (.gangBringupTimeout k m) s = .next s) ∧
    ((s.grids.map Prod.fst).Nodup → ∃ s', exec (.detachNotice no m done) s = .next s' ∧ SameMemory s s' ∧ s'.teams = s.teams ∧
      ∀ j G, Map.find? s.grids j = some G →
        ∃ G', Map.find? s'.grids j = some G' ∧
          (G.no = no → G.desc.gang = true → Map.get 0 G'.members m = max (Map.get 0 G.members m) (if done then 2 else 1)) ∧
          (G.no ≠ no ∨ G.desc.gang = false → G' = G)) ∧
    (let s1 := (s.recordBreak no m).breakMember no m
     (∀ j G, s1.ownGang no = some (j, G) → exec (.gangBreak no m) s = .next (s1.tryOpen j)) ∧
     (s1.ownGang no = none → exec (.gangBreak no m) s = .next s1)) ∧
    (∀ t T, s.team? t = some T → T.gridNo = no → ∃ T', (s.recordBreak no m).team? t = some T' ∧ ∀ x, T'.gang = some x → x.broken = true) ∧
    ((∃ e ∈ s.grids, e.2.no = no ∧ e.2.desc.gang = true ∧ Map.get 0 e.2.members m ≠ 3) →
      let s1 := s.breakGang no m
      (∀ j G, s1.ownGang no = some (j, G) → exec (.brokerSilenceTimeout no m) s = .next (s1.tryOpen j)) ∧
      (s1.ownGang no = none → ∀ j G, s1.gangOfNo no = some (j, G) →
        let at0 := (G.ranks[m % G.ranks.length]?).map fun k => (gRankOf k.toNat).aid
        (at0 ≠ some G.coord → exec (.brokerSilenceTimeout no m) s = .next s1) ∧
        (at0 = some G.coord →
          exec (.brokerSilenceTimeout no m) s = .next ((s1.modGrid j fun g => { g with saveGo := true, allSaved := true }).flushMgmt)))) ∧
    ((∀ e ∈ s.grids, e.2.no ≠ no ∨ e.2.desc.gang = false ∨ Map.get 0 e.2.members m = 3) → exec (.brokerSilenceTimeout no m) s = .next s) ∧
    exec (.gangSaveRequest no) s = .next (s.saveGang no)

/-! ## Scheduling -/

/-- R209-R211, R222, R226: a ready pending wave takes the place of an active wave that waits or that has yielded; one ready for 1,024 aclk takes that of the
youngest active wave; a group of the former becomes a wave when it is full, joined or 64 aclk old; a wave that has held its slot for 4,096 aclk
that the waiting group may use gives it up to that group; the tests of a join slot are those of a resident team that runs.
Where the manual leaves a choice or an inference, a clause rests on the model's own: log entries 17, 18 and 84. -/
def Obligations.SchedulerEvents : Prop :=
  ∀ (s : State) (c : BitVec 8) (p : BitVec 2) (a b : Nat × Wave) (i t : Nat) (T : Team) (j : BitVec 4),
    let x := s.part c.toNat p.toNat
    let ws := s.wavesByAge x
    let ready := List.find? (fun (w : Nat × Wave) => !w.2.active && !s.waveWaits w.2) ws
    let out := List.find? (fun (w : Nat × Wave) => w.2.active && (s.waveWaits w.2 || w.2.yielded)) ws.reverse
    let swapped := s.setPart c.toNat p.toNat (x.swap a.1 b.1)
    (ready = some b → out = some a → exec (.waveSwap c p) s = .next swapped) ∧
    (ready = some b → out = none → (x.waves.filter fun w => w.2.active).length < Config.activeWaves →
      exec (.waveSwap c p) s = .next (s.setPart c.toNat p.toNat { x with waves := Map.modify x.waves b.1 fun w => { w with active := true } })) ∧
    (ready = none → exec (.waveSwap c p) s = .next s) ∧
    (List.find? (fun (w : Nat × Wave) => !w.2.active && !s.waveWaits w.2 && decide (w.2.readySince + aclkTicks 1024 ≤ s.clock)) ws = some b →
      List.find? (fun (w : Nat × Wave) => w.2.active) ws.reverse = some a → exec (.starvationPromote c p) s = .next swapped) ∧
    (List.find? (fun (w : Nat × Wave) => !w.2.active && !s.waveWaits w.2 && decide (w.2.readySince + aclkTicks 1024 ≤ s.clock)) ws = none →
      exec (.starvationPromote c p) s = .next s) ∧
    (∀ y k, s.emitNext c.toNat p.toNat = some i → x.former[i]? = some y → s.slotFor c.toNat p.toNat y.team = some k → x.spilled = [] →
      ∃ s', exec (.formerEmitTimeout c p) s = .next s' ∧ (s'.part c.toNat p.toNat).former = x.former.eraseIdx i ∧
        ∃ w, Map.find? (s'.part c.toNat p.toNat).waves k = some w ∧ w.team = y.team ∧ w.tids = y.tids ∧ w.pos = y.pos) ∧
    (s.emitNext c.toNat p.toNat = none → exec (.formerEmitTimeout c p) s = .next s) ∧
    (∀ n y k w, (∀ m, m < n → s.reclaimFor c.toNat p.toNat m = none) → x.former[n]? = some y → s.ripeGroup y = true →
      s.slotFor c.toNat p.toNat y.team = none →
      (sortBy (fun (w : Nat × Wave) => w.2.heldSince) (s.mayTake c.toNat p.toNat y.team)).head? = some (k, w) →
      (w.heldSince + aclkTicks 4096 ≤ s.clock → w.pos.k = 0 →
        exec (.slotReclaim c p) s =
          .next (((s.setPart c.toNat p.toNat { x with waves := Map.erase x.waves k }).emitAt c.toNat p.toNat n k).requeue p.toNat w)) ∧
      (s.clock < w.heldSince + aclkTicks 4096 ∨ w.pos.k ≠ 0 → s.reclaimFor c.toNat p.toNat n = none ∧
        (n + 1 = x.former.length → exec (.slotReclaim c p) s = .next s))) ∧
    (x.former = [] → exec (.slotReclaim c p) s = .next s) ∧
    (s.team? t = some T →
      (T.core?.isSome → T.phase = .running → exec (.joinTimeout t j) s = .next (s.testJoin t j.toNat)) ∧
      (T.core? = none ∨ T.phase ≠ .running → exec (.joinTimeout t j) s = .next s))

/-- R426, R433, R434: the claims of a team that has been stuck for 10 µs fail at one event, with CLAIM_DEADLOCK set and reported; when no pending
ACLAIM of a core can be granted and every team that holds a tile waits in ACLAIM, the one placed last fails; a CWAIT reads its word at its polls, also
while its team is HELD (R467).
Where the manual leaves a choice or an inference, a clause rests on the model's own: log entry 62. -/
def Obligations.DeadlocksAndPolls : Prop :=
  ∀ (s : State) (t x : Nat) (T : Team) (c : BitVec 8) (e : Nat × Team),
    (s.team? t = some T →
      (T.stuck = false ∨ T.claims = false → exec (.claimDeadlock t) s = .next (s.modTeam t fun T => { T with stuckSince := none })) ∧
      (T.stuck = true → T.claims = true → (∃ k ∈ span 0 T.roles.length, (s.claimStep t k).isSome) →
        exec (.claimDeadlock t) s = .next (s.reconsiderFor t)) ∧
      (T.stuck = true → T.aclaims = true → (∀ k ∈ span 0 T.roles.length, s.claimStep t k = none) → ∀ core, T.core? = some core →
        s.aclaimFits core = true →
        exec (.claimDeadlock t) s = .next ((s.modTeam t fun T => { T with stuckSince := none }).grantAclaims core 16)) ∧
      (T.stuck = true → T.claims = true → (∀ k ∈ span 0 T.roles.length, s.claimStep t k = none) →
        (T.aclaims = false ∨ ∀ core, T.core? = some core → s.aclaimFits core = false) →
        (T.stuckSince = none → exec (.claimDeadlock t) s = .next (s.modTeam t fun T => { T with stuckSince := some s.clock })) ∧
        (T.stuckSince = some x → s.clock < x + usTicks 10 → exec (.claimDeadlock t) s = .next s) ∧
        (T.stuckSince = some x → x + usTicks 10 ≤ s.clock → (∀ r ∈ T.roles, r.claim = []) → (s.teams.map Prod.fst).Nodup →
          ∃ s' T', exec (.claimDeadlock t) s = .next s' ∧ s'.team? t = some T' ∧ T'.dead = true ∧ T'.steer = T.steer.failAclaim)) ∧
      ((∀ g want next, T.steer.st ≠ .blocked (.cwait g want next)) → exec (.cwaitPoll t) s = .next s) ∧
      (T.phase ≠ .running ∨ T.core? = none ∨ T.killed = true → exec (.cwaitPoll t) s = .next s) ∧
      (T.phase = .running → T.core?.isSome → T.killed = false → ∀ g want next, T.steer.st = .blocked (.cwait g want next) →
        exec (.cwaitPoll t) s = .next ((s.cwaitRead t T g want next).steerOn t) ∧
        (∀ lv va s1 pa m, s.locate T none g 8 = .inl (.mem lv va) → s.judgeLoad T.ctx T.cluster false va = (s1, .ok pa m) →
          s1.team? t = some T →
          (want.toNat ≤ leNat (s1.bytes pa 8) →
            ∃ s' T', exec (.cwaitPoll t) s = .next s' ∧ s'.team? t = some T' ∧ T'.steer.st = .running ∧ T'.steer.pos = next ∧ SameMemory s1 s') ∧
          (leNat (s1.bytes pa 8) < want.toNat →
            ∃ s' T', exec (.cwaitPoll t) s = .next s' ∧ s'.team? t = some T' ∧ T'.steer.st = .blocked (.cwait g want next) ∧ SameMemory s1 s')))) ∧
    (s.tileHolders c.toNat ≠ [] → (∀ y ∈ s.tileHolders c.toNat, y.2.aclaims = true ∧ y.2.phase = .running ∧ y.2.killed = false) → s.aclaimFits c.toNat = false →
      (sortBy (fun (y : Nat × Team) => y.2.placedAt) (s.tileHolders c.toNat)).getLast? = some e →
      exec (.tileDeadlock c) s =
        .next (((s.modTeam e.1 fun T => { T with steer := T.steer.failAclaim, dead := true, stuckSince := none }).reportDead e.1).grantAclaims
          c.toNat 16)) ∧
    (s.tileHolders c.toNat = [] ∨ s.aclaimFits c.toNat = true ∨ (∃ y ∈ s.tileHolders c.toNat, y.2.aclaims = false ∨ y.2.phase ≠ .running ∨ y.2.killed = true) →
      exec (.tileDeadlock c) s = .next s)

/-! ## Engines -/

/-- R91, R134, R345, R347, R379, R382, R384, R389, R424: the engines' events complete: a held command is issued when its time has come and there is
room; an issued COPY is queued; a unit of a COPY lands its line, and nothing else of memory changes; a pass of the cube changes its block and consumes
its z-blocks; each step of a drain writes its part of the output, and its last produces it; a command that is complete leaves its entry.
Where the manual leaves a choice or an inference, a clause rests on the model's own: log entries 45, 72 and 75. -/
def Obligations.EngineEvents : Prop :=
  ∀ (s : State) (t i u x : Nat) (T : Team) (y : Eng) (c : BitVec 8),
    (s.team? t = some T → Map.find? T.eng i = some y →
      (y.st = .held (BitVec.ofNat 64 x) → x < 2 ^ 64 →
        (x ≤ s.dtime.toNat → T.working = true → s.engRoom T y.cmd = true →
          exec (.attimeFire t i) s =
            .next ((({ s with orderCtr := s.orderCtr + 1 }.modEng t i fun e => { e with order := s.orderCtr }).issueEng t i).drainWaiting)) ∧
        (s.dtime.toNat < x → exec (.attimeFire t i) s = .next s) ∧ (s.engRoom T y.cmd = false → exec (.attimeFire t i) s = .next s)) ∧
      (y.st = .waiting → T.place ≠ .saved → y.attime = none → s.engRoom T y.cmd = true →
        exec (.firedCommandEnqueue t i) s = .next (s.issueEng t i)) ∧
      (y.st = .waiting → T.place ≠ .saved → ∀ w, y.attime = some w → T.heldCount < 8 →
        exec (.firedCommandEnqueue t i) s = .next (s.modEng t i fun e => { e with st := .held w })) ∧
      (y.st ≠ .waiting ∨ T.place = .saved ∨ (y.attime = none ∧ s.engRoom T y.cmd = false) ∨ (y.attime.isSome ∧ 8 ≤ T.heldCount) →
        exec (.firedCommandEnqueue t i) s = .next s) ∧
      (y.cmd.isCopy = true → ∃ T' y', (s.issueEng t i).team? t = some T' ∧ Map.find? T'.eng i = some y' ∧ y'.st = .queued ∧ y'.cmd = y.cmd) ∧
      (∀ a par sf df, y.cmd = .copy a .mem .mem sf df par → copyRowOk par = true →
        (s.unitMay t T i u y = true → s.acqHeld t y = false → T.copiesActive.contains i = true → y.wants u (copyUnits par) = true → T.copyOpen y .mem df par u = true →
          s.unitTxs t i u y.order = [] →
          ∀ s1 s2 bs va pa lv f, s.streamRead T true (s.behind T y) (BitVec.ofNat 64 (copySrcAt par u)) = (s1, .inl bs) → bs.length = 128 →
            let s0 := s1.modEng t i fun e => e.startUnit u
            s0.resolve T none (BitVec.ofNat 64 (copyDstAt par u)) 128 = .mem f va → va % 128 = 0 →
            s0.judgeStore T.ctx T.cluster false va true = (s2, .ok pa lv) →
            ∃ s', exec (.copyLineLand t i u) s = .next s' ∧ s'.bytes pa 128 = bs ∧ SameMemoryBut s2 s' pa 128 ∧ pa / 128 ∉ s'.poison) ∧
        (y.st.isFaulted = false → y.st.inQueue = true → T.core?.isSome → T.killed = false → copyUnits par ≤ y.cpos →
          exec (.copyComplete t i) s = .next (s.finishCmd t i y)) ∧
        (y.cpos < copyUnits par → exec (.copyComplete t i) s = .next s)) ∧
      (y.cmd.isCube = true → y.st.inQueue = true → T.core?.isSome → T.killed = false → y.cmd.steps ≤ y.cpos → exec (.cubeComplete t i) s = .next (s.finishCmd t i y)) ∧
      (y.cpos < y.cmd.steps → exec (.cubeComplete t i) s = .next s) ∧
      (s.cubeNext c.toNat = some (t, i) →
        (∀ a mode init fa fb fc k par o, y.cmd = .cube a mode init fa fb fc k par → cubeOp mode par = some o → k < T.tiles.length →
          ∃ s' T' y', exec (.cubePass c) s = .next s' ∧ s'.team? t = some T' ∧ Map.find? T'.eng i = some y' ∧ y'.cpos = y.cpos + 1 ∧
            (∀ j, j ≠ k → T'.tile j = T.tile j) ∧
            (∀ m n, m < 64 → n < 64 → ¬(o.b.om ≤ m ∧ m < o.b.om + o.b.m ∧ o.b.on ≤ n ∧ n < o.b.on + o.b.n) → (T'.tile k).at m n = (T.tile k).at m n) ∧
            (mode = .two → fa ≠ fb → (T'.feed fa).ccnt = ((T.feed fa).ccnt + o.eats y.cpos * o.sizeA) % 2 ^ 32 ∧
              (T'.feed fb).ccnt = ((T.feed fb).ccnt + o.eats y.cpos * o.sizeB) % 2 ^ 32) ∧ SameMemory s s') ∧
        (∀ a f clr df k delta par, y.cmd = .cdrain a f clr df k delta par →
          let r := T.drainPart f clr df k delta (blockOf (parAt par 0)) y.cpos
          exec (.cdrainStep c) s = .next (((s.setTeam t r.1).modEng t i fun e => e.stepped r.2).serveRecvs t df 1024) ∧
          (y.cpos + 1 < y.cmd.steps → (r.1.feed df).pcnt = (T.feed df).pcnt) ∧
          (y.cmd.steps ≤ y.cpos + 1 →
            (r.1.feed df).pcnt = ((T.feed df).pcnt + ((T.tile k).drain f delta (blockOf (parAt par 0))).1.length) % 2 ^ 32)))) ∧
    (s.cubeNext c.toNat = none → exec (.cubePass c) s = .next s ∧ exec (.cdrainStep c) s = .next s)

/-! ## Collectives -/

/-- R437, R438, R441, R443, R447, R450, R451, R457, R458, R460: Opal's events complete: an instance that is legal reads its block and its ranks once
and goes on; a rendezvous whose control words agree lets the sender send, one whose words differ aborts, one that meets an abort is answered by it,
and one that meets a rank which has not started or is saved is answered `wait`; a transfer that was asked for is combined, another changes nothing;
all of these come in through a receive queue of class COMP, those of another pod by themselves, whose answers go to the address that the endpoint
table gives the asker; a query is answered; an abort is kept for 16 sequence numbers of its group; a complete instance leaves its slot and its outcome
is kept. The tree's schedule has exactly the steps of R447.
Where the manual leaves a choice or an inference, a clause rests on the model's own: log entries 52, 54 and 65. -/
def Obligations.CollectiveEvents : Prop :=
  (∀ (s : State) (t i k : Nat) (T : Team) (y : Eng) (r : CollRun) (a : EArgs) (grp : BitVec 8) (par : List Word),
    s.team? t = some T → Map.find? T.eng i = some y → y.cmd = .coll a k grp par → y.run = some r →
    (T.working = true → y.st.isFaulted = false → y.st.inQueue = true → s.acqHeld t y = false →
      (r.started = true → exec (.collStart t i) s = .next (s.collGo t i)) ∧
      (r.started = false →
        let blk : DWord := pair (par.getD 0 0) (par.getD 1 0)
        let b := s.behind T y
        ∀ s1 s2 s3 hd es n ranks me pm, opalAddr blk 128 = true → s.collBlock T b blk = (s1, .inl (hd, es)) →
          s1.readGroup T.ctx T.cluster grp.toNat b.1 = (s2, .ok n ranks) → s2.ownRank T.ctx ranks = some me → (∀ o, s2.endOf T.ctx grp r.seq ≠ some (some o)) →
          let r2 := { collRunOf r.seq (.inl (hd, es)) ranks with me := me }
          collLegal hd es ranks.length r2 = true → s2.collPerm T b r2.hdr (BitVec.ofNat 64 (recAt hd 24 8)) ranks.length = (s3, .inl pm) →
          (∀ x ∈ pm, x < ranks.length) → noRepeats pm = true → T.readyAbove k (hdrTiles r2.hdr) = false →
          exec (.collStart t i) s = .next (((s3.putRun t i { r2 with perm := pm, started := true }).spoilEarly t i r.wrote).collGo t i))) ∧
    (y.st.isFaulted = true ∨ T.working = false ∨ s.acqHeld t y = true → exec (.collStart t i) s = .next s)) ∧
  (∀ (s : State) (m : CollMsg) (t i : Nat) (y : Eng) (v : CollView) (data : List Byte) (o : CollEnd),
    (m.xp = false →
      exec (.readyToReceive m) s =
        .next (s.takeCell ⟨m.station, 0, m.sender, 0, .stage m.ctx m.stage.toNat m.grp m.seq, .rtr m⟩) ∧
      exec (.transferDone m data) s =
        .next (s.takeCell ⟨m.station, 0, m.sender, 0, .stage m.ctx m.stage.toNat m.grp m.seq, .done m data⟩)) ∧
    (m.xp = true → s.portsOpen = true →
      exec (.readyToReceive m) s = .next ((s.rtrArrive m).1.answerFar m.ctx m.grp m.seq m.rank (s.rtrArrive m).2) ∧
      exec (.transferDone m data) s = .next ((s.transferArrive m data).1.answerFar m.ctx m.grp m.seq m.rank (s.transferArrive m data).2)) ∧
    (∀ a cl c x g q b, s.arrive ⟨a, cl, .stage c x g q, .rtr m⟩ b = ((s.rtrArrive m).1, some (s.rtrArrive m).2) ∧
      s.arrive ⟨a, cl, .stage c x g q, .done m data⟩ b = ((s.transferArrive m data).1, some (s.transferArrive m data).2)) ∧
    (Map.find? s.ctxs m.ctx.toNat = none → s.rtrArrive m = (s, .fault Code.collAbort 4)) ∧
    ((Map.find? s.ctxs m.ctx.toNat).isSome →
      (s.endOf m.ctx m.grp m.seq = some (some o) → s.rtrArrive m = (s, .aborted o.others.cause o.others.code o.others.rank o.others.norank)) ∧
      (s.endOf m.ctx m.grp m.seq = some none → s.rtrArrive m = (s, .ack)) ∧
      (s.endOf m.ctx m.grp m.seq = none →
        (s.findColl m.ctx m.grp m.seq = none → s.rtrArrive m = (s, .wait)) ∧
        (s.findColl m.ctx m.grp m.seq = some (t, i, y) →
          (s.coll? t i = none → s.rtrArrive m = (s, .wait)) ∧
          (s.coll? t i = some v →
            (v.T.takesIn = false → s.rtrArrive m = (s, .wait)) ∧
            (v.T.takesIn = true → m.hdr ≠ v.r.hdr ∨ m.ctl ≠ (v.r.tile m.tile).ctl →
              s.rtrArrive m = (s.collFail t i 2 { code := Code.collMismatch } none, .ack)) ∧
            (v.T.takesIn = true → m.hdr = v.r.hdr → m.ctl = (v.r.tile m.tile).ctl → (∀ q ∈ v.r.sends, q.1 ≠ m.tile ∨ q.2.1 ≠ m.step) →
              s.rtrArrive m =
                ((s.modRun t i fun r => { r with sends := r.sends ++ [(m.tile, m.step, m.stage)] }).collTileGo t i m.tile, .ack)))))) ∧
    (s.findColl m.ctx m.grp m.seq = none → s.transferArrive m data = (s, .ack)) ∧
    (s.findColl m.ctx m.grp m.seq = some (t, i, y) →
      (s.coll? t i = none → s.transferArrive m data = (s, .ack)) ∧
      (s.coll? t i = some v →
        (v.T.takesIn = false → s.transferArrive m data = (s, .wait)) ∧
        (v.T.takesIn = true → (∀ q ∈ v.r.asked, q.1 ≠ m.tile ∨ q.2.1 ≠ m.step) → s.transferArrive m data = (s, .ack)) ∧
        (v.T.takesIn = true → ∀ slot st, v.r.asked = [(m.tile, m.step, slot)] → (v.r.mine m.tile)[(v.r.tile m.tile).step]? = some (m.step, st) →
          st.dst = v.r.pos →
          s.transferArrive m data = s.collTake t i m.tile m.step slot st.mode
            (!((v.r.mine m.tile).drop ((v.r.tile m.tile).step + 1)).any v.r.recvs) v data)))) ∧
  (∀ (s s1 : State) (ctx : CtxId) (grp : BitVec 8) (seq : BitVec 16) (asker : CollAsker) (src : RecordSource) (o : CollEnd) (t i : Nat)
      (y : Eng) (r : CollRun) (v : CollView) (k : GRank) (x : TxReply),
    (asker.via = some src →
      exec (.collQuery ctx grp seq asker) s = .next (s.takeCell ⟨src.station, 0, src.sender, 0, .stage ctx 0 grp seq, .query grp seq⟩)) ∧
    (asker.via = none → s.portsOpen = true →
      exec (.collQuery ctx grp seq asker) s = .next (s.answerFar ctx grp seq asker.rank (s.collState ctx grp seq))) ∧
    (∀ a cl z b, s.arrive ⟨a, cl, .stage ctx z grp seq, .query grp seq⟩ b = (s, some (s.collState ctx grp seq))) ∧
    (s.rankEntry ctx grp seq asker.rank = (s1, some k) →
      (∀ e, s1.endpoint k.podn k.aid = some e → s1.portsOpen = true →
        s.answerFar ctx grp seq asker.rank x = s1.send (.uetReply e.addr e.ports k.podn k.aid x)) ∧
      (s1.endpoint k.podn k.aid = none → s1.findColl ctx grp seq = some (t, i, y) → y.run = some r → r.started = true →
        s.answerFar ctx grp seq asker.rank x = s1.collFail t i 3 { code := Code.collAbort } none)) ∧
    (Map.find? s.ctxs ctx.toNat = none → s.collState ctx grp seq = .fault Code.collAbort 4) ∧
    ((Map.find? s.ctxs ctx.toNat).isSome →
      (s.endOf ctx grp seq = some (some o) → s.collState ctx grp seq = .aborted o.others.cause o.others.code o.others.rank o.others.norank) ∧
      (s.endOf ctx grp seq = some none → s.collState ctx grp seq = .ack) ∧
      (s.endOf ctx grp seq = none → s.findColl ctx grp seq = none → s.collState ctx grp seq = .wait)) ∧
    exec (.collAbort ⟨ctx, some src⟩ grp seq o.cause o.code o.rank o.norank) s =
      .next (s.takeCell ⟨src.station, 0, src.sender, 0, .stage ctx 0 grp seq, .note (.collAbort ctx grp seq o.cause o.code o.rank o.norank)⟩) ∧
    (∀ a cl z b, s.arrive ⟨a, cl, .stage ctx z grp seq, .note (.collAbort ctx grp seq o.cause o.code o.rank o.norank)⟩ b =
      (s.abortArrive ctx grp seq o, some .ack)) ∧
    ((s.endOf ctx grp seq).isSome → exec (.collAbort ⟨ctx, none⟩ grp seq o.cause o.code o.rank o.norank) s = .next s) ∧
    (s.endOf ctx grp seq = none → s.findColl ctx grp seq = none →
      exec (.collAbort ⟨ctx, none⟩ grp seq o.cause o.code o.rank o.norank) s = .next (s.keepEnd ctx grp seq (some o))) ∧
    (s.endOf ctx grp seq = none → s.findColl ctx grp seq = some (t, i, y) → y.run = some r →
      exec (.collAbort ⟨ctx, none⟩ grp seq o.cause o.code o.rank o.norank) s =
        .next (if r.started then s.collStop t i o { code := o.code } false else s.keepEnd ctx grp seq (some o))) ∧
    (∀ e, (s.keepEnd ctx grp seq e).endOf ctx grp seq = some e ∧
      (∀ q, q ≠ seq → (Map.get [] s.opal.outcomes (groupKey ctx grp)).length < 16 → (s.keepEnd ctx grp seq e).endOf ctx grp q = s.endOf ctx grp q)) ∧
    (s.coll? t i = none → exec (.collComplete t i) s = .next (s.collOwed t i)) ∧
    (s.coll? t i = some v →
      (v.T.working = false ∨ v.r.tiles.all CollTile.done = false → exec (.collComplete t i) s = .next s) ∧
      (v.T.working = true → v.r.tiles.all CollTile.done = true → ∀ s1,
        s.opalPut t v.T (v.r.stat + 128) 8 (fun _ => leBytes 8 (collStatus 1 v.e.flags v.r.seq).toNat) = (s1, .ok) →
        ∃ s' T', exec (.collComplete t i) s = .next s' ∧ s'.team? t = some T' ∧ Map.find? T'.eng i = none ∧ Map.get [] T'.ready v.slot = [] ∧
          s'.endOf v.T.ctx v.grp v.r.seq = some none))) ∧
  (∀ (n : Nat) (x : CollStep), 2 ≤ n →
    (x ∈ treeSteps 0 n ↔ x.mode = .right ∧ ∃ l, 2 ^ l < n ∧ x.dst % 2 ^ (l + 1) = 0 ∧ x.dst + 2 ^ l < n ∧ x.src = x.dst + 2 ^ l))

/-! ## Retirement and kills -/

/-- R57, R482-R487: a team over, and every grid whose teams have retired, leaves the device: the grid's counter is advanced by 1 unless a team of it
was killed, then memory and the host learn nothing. A team's private block is cleared before it is free again.
R347, R372, R473, R474: DISCARD ends a faulted command; KILLTHREAD ends a thread as EXIT does; KILLTEAM and KILLGRID end every thread and command of
the teams and each access that has not been sent, and report their records and complete once each access that has been sent is answered; a target that
is not there completes with BAD_STATE and changes nothing else; a command waits behind an earlier one that is not complete.
Where the manual leaves a choice or an inference, a clause rests on the model's own: log entries 20, 50, 51 and 55. -/
def Obligations.Retirement : Prop :=
  (∀ (s : State) (t k : Nat) (T : Team) (g : Grid) (x : GangMem) (ctx : CtxId) (c : Ctx),
    (s.team? t = some T →
      (T.killed = true → (s.teamOver t T = true ↔ ∀ y ∈ s.txs, y.2.team ≠ t)) ∧
      (T.killed = false → (s.teamOver t T = true ↔ T.phase = .running ∧
        (∀ e ∈ T.threads, e.2.live = false) ∧ T.steer.st = .done ∧ (∀ e ∈ T.eng, ∃ b, e.2.st = .armed b) ∧ ∀ y ∈ s.txs, y.2.team ≠ t)) ∧
      (s.teamOver t T = false → exec (.teamRetire t) s = .next s) ∧
      (s.teamOver t T = true → T.killed = true ∨ T.gang = none → exec (.teamRetire t) s = .next (s.retireTeam t T)) ∧
      (s.teamOver t T = true → T.killed = false → T.gang = some x → x.state = .done →
        exec (.teamRetire t) s = .next (if s.gangLets T x then s.retireTeam t T else s)) ∧
      (s.teamOver t T = true → T.killed = false → T.gang = some x → x.state ≠ .done → x.broken = false →
        ∀ G, Map.find? s.grids T.grid = some G → (∃ m ∈ span 0 x.size, m ≠ x.rank ∧ Map.get 0 G.members m = 0) →
        ∃ s' T', exec (.teamRetire t) s = .next s' ∧ s'.team? t = some T' ∧ T'.gang = some { x with state := .done } ∧
          ∀ a ∈ G.others s.cfg.aid, ∃ c ∈ s'.cells, c.peer = a ∧ c.item = .message (.gangDetach T.gridNo x.rank true)) ∧
      ((s.retireTeam t T).team? t = none ∧ (∀ y ∈ (s.retireTeam t T).txs, y.2.team ≠ t) ∧ ∀ y ∈ (s.retireTeam t T).boxes, y.2.team ≠ t) ∧
      (∀ b, T.pblk = some b → Map.find? s.ctxs T.ctx.toNat = some c →
        ∃ c', Map.find? (s.retireTeam t T).ctxs T.ctx.toNat = some c' ∧ c'.clearing = c.clearing ++ [(b, privBlock T.priv)])) ∧
    (Map.find? s.grids k = some g →
      (s.gridOver k g = false → exec (.gridRetire k) s = .next s) ∧
      (s.gridOver k g = true →
        ∃ s', exec (.gridRetire k) s = .next s' ∧ Map.find? s'.grids k = none ∧
          (g.killedTeam = true → ∀ o ∈ s'.out, o ∈ s.out ∨ ∃ c f, o = .mgmt c f) ∧
          (g.killedTeam = true → (∀ u U, g.parentTeam = some u → s.team? u = some U → U.place ≠ .saved) → SameMemory s s') ∧
          (g.killedTeam = false → g.coord = s.cfg.aid → g.desc.ccnt ≠ 0 → g.notify = none → g.parentTeam = none →
            SameMemory ((s.addCounter g.ctx g.desc.ccnt 1).rereadCtx g.ctx) s') ∧
          (∀ u U, g.parentTeam = some u → s.team? u = some U → ∃ U', s'.team? u = some U' ∧ k ∉ U'.children))) ∧
    (Map.find? s.grids k = none → exec (.gridRetire k) s = .next s) ∧
    (Map.find? s.ctxs ctx.toNat = some c →
      (∀ b n, c.clearing = [(b, n)] → ∃ s' c', exec (.privateBlockCleared ctx b) s = .next s' ∧ Map.find? s'.ctxs ctx.toNat = some c' ∧ c'.clearing = []) ∧
      (∀ b, (∀ y ∈ c.clearing, y.1 ≠ b) → exec (.privateBlockCleared ctx b) s = .next s) ∧
      (∀ va a, (s.walkSize c ctx.toNat va 0).2 = .found a →
        let s1 := s.touchAll (some ctx) (s.walkSize c ctx.toNat va 0).1
        ((s.pteAt a).d = false ∨ (s.pteAt a).res = false ∨ (s1.setFault ((s.pteAt a).pa va)).isSome → s.clearPage c ctx va = s1) ∧
        ((s.pteAt a).d = true → (s.pteAt a).res = true → s1.setFault ((s.pteAt a).pa va) = none →
          ∀ b, (s.pteAt a).pa va ≤ b → b < (s.pteAt a).pa va + 65536 → b ≠ a + 7 → Memory.get (s.clearPage c ctx va).mem b = 0)))) ∧
  (∀ (s : State) (x : FltTarget) (t k : Nat) (T0 T : Team) (g : Grid) (y : Eng) (th : Thread),
    (s.ctl.jobs ≠ [] →
      ∀ i ∈ [(Instr.discard x, 2), (.killthread x, 3), (.killteam x, 4), (.killgrid x, 5)],
        exec i.1 s = .next { s with ctl := { s.ctl with jobs := s.ctl.jobs ++ [.queued i.2 x s.ctl.fltgrid] } }) ∧
    (s.ctl.jobs = [] →
      (s.fltTeam x s.ctl.fltgrid = none → ∀ i ∈ [Instr.discard x, .killthread x, .killteam x], exec i s = .next (s.fltDone 1)) ∧
      (s.fltTeam x s.ctl.fltgrid = some (t, T0) → (s.fromSlot t).team? t = some T →
        let s0 := s.fromSlot t
        (Map.find? T.eng x.id.toNat = none → exec (.discard x) s = .next (s.fltDone 1)) ∧
        (Map.find? T.eng x.id.toNat = some y →
          (y.st.isFaulted = false ∨ y.cmd.src ≠ x.src → exec (.discard x) s = .next (s.fltDone 1)) ∧
          (y.st.isFaulted = true → y.cmd.src = x.src → exec (.discard x) s = .next (((s0.discardEng t x.id.toNat y).resave t).fltDone 0) ∧
            ∃ T', (s0.discardEng t x.id.toNat y).team? t = some T' ∧ Map.find? T'.eng x.id.toNat = none)) ∧
        (T.thread? x.id.toNat = none ∨ x.src ≠ 0 → exec (.killthread x) s = .next (s.fltDone 1)) ∧
        (T.thread? x.id.toNat = some th →
          (th.live = false → exec (.killthread x) s = .next (s.fltDone 1)) ∧
          (th.live = true → x.src = 0 →
            let s1 := ((s0.dropLane t x.id.toNat).endThread t x.id.toNat).resave t
            exec (.killthread x) s = .next (s1.endKill [t] (some x.id.toNat) [killRec 0 1 x.id th.pos T.gridNo T.ctx x.team]) ∧
            (∃ T' th', s1.team? t = some T' ∧ T'.thread? x.id.toNat = some th' ∧ th'.st = .exited) ∧
            (∀ e ∈ s1.txs, e.2.team = t → e.2.owner.lane? = some x.id.toNat → e.2.answer = none))) ∧
        exec (.killteam x) s = .next ((s.killTeam t).endKill [t] none [killRec 5 2 0 ⟨0, 0⟩ T0.gridNo T0.ctx x.team]) ∧
        (s.team? t = some T0 → T0.killed = false →
          ∃ T', (s.killTeam t).team? t = some T' ∧ T'.killed = true ∧ (∀ e ∈ T'.threads, e.2.st = .exited) ∧ T'.eng = [] ∧ T'.steer.st = .done ∧
            (∀ e ∈ (s.killTeam t).txs, e.2.team = t → (∀ p j, e.2.owner ≠ .piece p j) → e.2.answer = none))) ∧
      (List.find? (fun (e : Nat × Grid) => e.2.ctx == x.ctx && e.2.no == s.ctl.fltgrid) s.grids = none →
        exec (.killgrid x) s = .next (s.fltDone 1)) ∧
      (List.find? (fun (e : Nat × Grid) => e.2.ctx == x.ctx && e.2.no == s.ctl.fltgrid) s.grids = some (k, g) →
        let ks := s.descendants k 11
        let s1 := ks.foldl (fun s c => (s.tellKill c).killGrid c) s
        exec (.killgrid x) s = .next (s1.endKill ((s.teams.filter fun e => ks.contains e.2.grid).map Prod.fst) none
          ((ks.filterMap fun c => Map.find? s.grids c).map fun g => killRec 5 3 0 ⟨0, 0⟩ g.no g.ctx 0)) ∧
        (∀ c ∈ ks, ∀ g', Map.find? s1.grids c = some g' → g'.killedTeam = true) ∧
        (∀ u U, s.team? u = some U → U.grid ∈ ks → ∃ T', s1.team? u = some T' ∧ T'.killed = true))) ∧
    (∀ ts tid recs,
      (s.killOpen ts tid = true → s.endKill ts tid recs = { s with ctl := { s.ctl with jobs := .kill ts tid recs :: s.ctl.jobs } }) ∧
      (s.killOpen ts tid = false → s.endKill ts tid recs = (recs.foldl (fun s r => s.report r) s).fltDone 0)))

/-! ## The pod -/

/-- R103, R105, R106, R109-R112, R116-R118: training, loss and return of a station; a reach report; a slot map comes into force at a frame that begins
96 to 192 ns later, and not before; a slot carries one cell, a request, a reply or a message, of a station that is up; a period's median, over the
beacons of the stations that are up, each corrected for its link delay, sets the offset, brings acquisition after four good periods, moves the count
by at most 1 ns after it, and locks after four good periods; 10 µs without one clear LOCK.
Where the manual leaves a choice or an inference, a clause rests on the model's own: log entries 32, 33, 34, 82 and 83. -/
def Obligations.PodEvents : Prop :=
  (∀ (s : State) (i : BitVec 4) (dup : Bool) (delay : Nat) (aids : List Nat) (u : Bool),
    let n := i.toNat
    let slot := slotAt s.dtime.toNat
    (s.portsOpen = false → exec (.stationTrain i ⟨dup, delay⟩) s = .next s ∧ exec (.stationUp i) s = .next s ∧ exec (.slotTransmit i) s = .next s) ∧
    (s.portsOpen = true →
      (∃ s', exec (.stationTrain i ⟨dup, delay⟩) s = .next s' ∧ s'.pod.up.getLsbD n = !dup ∧ s'.pod.dup.getLsbD n = dup ∧
        Map.get 0 s'.pod.delay n = delay ∧ Out.aidReport n s.cfg.aid ∈ s'.out ∧
        (∀ j, j ≠ n → s'.pod.up.getLsbD j = s.pod.up.getLsbD j ∧ s'.pod.dup.getLsbD j = s.pod.dup.getLsbD j) ∧ SameMemory s s') ∧
      (s.pod.dup.getLsbD n = true → exec (.stationUp i) s = .next s) ∧
      (s.pod.dup.getLsbD n = false →
        ∃ s', exec (.stationUp i) s = .next s' ∧ s'.pod.up.getLsbD n = true ∧ s' = { s with pod := { s.pod with up := s'.pod.up } } ∧
          ∀ j, j ≠ n → s'.pod.up.getLsbD j = s.pod.up.getLsbD j) ∧
      (s.pod.up.getLsbD n = true → Map.get 0 s.pod.lastSlot n ≠ slot + 1 →
        (∀ c, s.settleCells.slotCell n slot = some (c, u) →
          (∀ r, c.item = .reply r → ∃ s', exec (.slotTransmit i) s = .next s' ∧ s'.out = s.out ++ [.txReply n c.cls c.peer r] ∧
            s'.cells = s.settleCells.cells.erase c ∧ s'.txs = s.txs ∧ Map.get 0 s'.pod.lastSlot n = slot + 1) ∧
          (∀ m, c.item = .message m → ∃ s', exec (.slotTransmit i) s = .next s' ∧ s'.out = s.out ++ [.message n c.cls c.peer m] ∧
            s'.cells = s.settleCells.cells.erase c ∧ s'.txs = s.txs ∧ Map.get 0 s'.pod.lastSlot n = slot + 1) ∧
          (∀ id x, c.item = .tx id → Map.find? s.txs id = some x →
            ∃ s', exec (.slotTransmit i) s = .next s' ∧ s'.out = s.out ++ [.cell n c.cls c.peer id x.dest x.op] ∧
              s'.cells = s.settleCells.cells.erase c ∧ Map.find? s'.txs id = some { x with station := some n } ∧
              Map.get 0 s'.pod.lastSlot n = slot + 1)) ∧
        (s.settleCells.slotCell n slot = none → exec (.slotTransmit i) s = .next s)) ∧
      (s.pod.up.getLsbD n = false → exec (.slotTransmit i) s = .next s)) ∧
    (∀ c y, slotEntry (s.pod.mapAt s.dtime.toNat) (slot % 64) = some c → s.readyCell n c = some y → s.slotCell n slot = some (y, false)) ∧
    (∀ y, s.slotCell n slot = some (y, u) → y ∈ s.cells ∧ y.ready = true ∧ s.cellStation y = some n) ∧
    (∃ s', exec (.stationDown i) s = .next s' ∧ s'.pod.up.getLsbD n = false ∧ (∀ j, j ≠ n → s'.pod.up.getLsbD j = s.pod.up.getLsbD j) ∧
      (∀ id x, Map.find? s'.txs id = some x → x.answer = none → x.station ≠ some n) ∧ SameMemory s s') ∧
    (∃ s', exec (.reachReport i aids) s = .next s' ∧ Map.get [] s'.pod.reach n = aids ∧
      (∀ id x, Map.find? s'.txs id = some x → x.answer = none → x.station = some n → s'.reach n x.target = true) ∧ SameMemory s s')) ∧
  (∀ (s : State) (k : BitVec 2) (v : DWord), s.pod.slotmap.length = 4 → s.pod.slotPending.Pairwise (fun a b => a.1 ≤ b.1) →
    ∃ s', exec (.slotmapWrite k v) s = .next s' ∧ s'.pod.slotmap = s.pod.slotmap.set k.toNat (v &&& 0x7777777777777777) ∧
      frameAfter s.dtime.toNat % 96 = 0 ∧ s.dtime.toNat + 96 ≤ frameAfter s.dtime.toNat ∧ frameAfter s.dtime.toNat < s.dtime.toNat + 192 ∧
      (∀ x, s.dtime.toNat ≤ x → x < frameAfter s.dtime.toNat → s'.pod.mapAt x = s.pod.mapAt x) ∧
      s'.pod.mapAt (frameAfter s.dtime.toNat) = s'.pod.slotmap) ∧
  (∀ (s : State) (bs : List (Nat × DWord)) (m l : DWord) (xp : Bool),
    (s.portsOpen = false ∨ s.pod.median bs = none → exec (.timeBeacon bs xp) s = .next s) ∧
    (∀ k, s.pod.up.getLsbD k = true → s.pod.median [(k, m)] = some (m + BitVec.ofNat 64 (Map.get 0 s.pod.delay k))) ∧
    ((∀ b ∈ bs, s.pod.up.getLsbD b.1 = false) → s.pod.median bs = none) ∧
    (s.portsOpen = true → s.pod.median bs = some m →
      ∃ s', exec (.timeBeacon bs xp) s = .next s' ∧ s'.pod.offs = (s.dtime - m).truncate 32 ∧ s'.pod.xpod = xp ∧ s'.pod.lastBeacon = s.clock ∧
        SameMemory s s' ∧ (s.pod.lock = true → s'.pod.lock = true) ∧
        (s.pod.acquired = true →
          (s'.dtime = s.dtime ∨ (s'.dtime = s.dtime + 1 ∧ s.dtime.toNat < m.toNat ∧ s.pod.slewAt + usTicks 5 ≤ s.clock)) ∧
          (s.dtime.toNat ≤ m.toNat + 20 → m.toNat ≤ s.dtime.toNat + 20 → 3 ≤ s.pod.goodRun → s.missedBeacon = false → s'.pod.lock = true) ∧
          (s.pod.lock = false → s.pod.goodRun < 3 ∨ s.missedBeacon = true → s'.pod.lock = false)) ∧
        (s.pod.acquired = false → s.pod.lastMedian = some l → s.pod.goodRun = 3 → s.missedBeacon = false → l.toNat + 980 ≤ m.toNat →
          m.toNat ≤ l.toNat + 1020 →
          s'.pod.acquired = true ∧ (s.dtime.toNat < m.toNat → s'.dtime = m ∧ s'.pod.steps = s.pod.steps + 1) ∧ (m.toNat ≤ s.dtime.toNat → s'.dtime = s.dtime)) ∧
        (s.pod.acquired = false → s.pod.goodRun < 3 ∨ s.missedBeacon = true → s'.pod.acquired = false ∧ s'.dtime = s.dtime)) ∧
    (s.pod.lastBeacon + usTicks 10 ≤ s.clock → ∃ s', exec .beaconLoss s = .next s' ∧ s'.pod.lock = false ∧ s'.dtime = s.dtime ∧ SameMemory s s') ∧
    (s.clock < s.pod.lastBeacon + usTicks 10 → exec .beaconLoss s = .next s))

/-- R68, R104, R107, R108, R113, R336, R361, R409-R412: an answer reaches the access that waits for it; an access to this K9 itself is judged here as
an inbound one is; one whose target waits is sent again; 100 µs without an answer raise WINDOW_KEY; traffic without the device's format is dropped and
counted, any other enters the receive queue of its station and class, in order, and its reply leaves in that class on that station; records, grants,
returned slots and the closing of a box come in through those queues too, and keep the sender's credits.
Where the manual leaves a choice or an inference, a clause rests on the model's own: log entries 10, 30 and 36. -/
def Obligations.PodTransactions : Prop :=
  (∀ (s : State) (id : Nat) (x : Tx) (r : TxReply),
    (Map.find? s.txs id = none → exec (.windowReply id r) s = .next s ∧ exec (.windowTimeout id) s = .next s) ∧
    (Map.find? s.txs id = some x → x.answer.isSome → exec (.windowReply id r) s = .next (s.redeliver id)) ∧
    (Map.find? s.txs id = some x → x.answer = none → s.answerable id x = true →
      (x.own s.cfg.aid = false →
        (r = .wait → exec (.windowReply id r) s = .next (s.sendAgain id x)) ∧
        (r ≠ .wait → x.belies r = false → exec (.windowReply id r) s = .next (s.answer id x r)) ∧
        (r ≠ .wait → x.belies r = true → exec (.windowReply id r) s = .next s)) ∧
      (x.own s.cfg.aid = true →
        (∀ s1 a, s.arrive (s.ownTx x) (s.ownBehind id x) = (s1, some a) →
          (a ≠ .wait → x.belies a = false → exec (.windowReply id r) s = .next (s1.answer id x a)) ∧
          (a = .wait → exec (.windowReply id r) s = .next (s1.modTx id fun y => { y with told := true })) ∧
          (a ≠ .wait → x.belies a = true → exec (.windowReply id r) s = .next s)) ∧
        (∀ s1, s.arrive (s.ownTx x) (s.ownBehind id x) = (s1, none) → exec (.windowReply id r) s = .next s1))) ∧
    (Map.find? s.txs id = some x → x.answer = none → s.answerable id x = false → exec (.windowReply id r) s = .next s) ∧
    (Map.find? s.txs id = some x → x.answer = none → x.split = false → x.told = false → x.ahead = false →
      (s.clock < x.sentAt + usTicks 100 → exec (.windowTimeout id) s = .next s) ∧
      (x.sentAt + usTicks 100 ≤ s.clock → (∀ i u o, x.owner ≠ .engine i u o) → (∀ p j, x.owner ≠ .piece p j) →
        exec (.windowTimeout id) s = .next (s.answer id x (.fault Code.windowKey 1)))) ∧
    (Map.find? s.txs id = some x → x.answer.isSome ∨ x.split = true ∨ x.told = true ∨ x.ahead = true → exec (.windowTimeout id) s = .next s)) ∧
  (∀ (s : State) (i : BitVec 4) (cls : BitVec 2) (x : InTx),
    let q := queueAt i.toNat cls.toNat
    let l := Map.get [] s.rxq q
    (s.portsOpen = false ∨ s.pod.up.getLsbD i.toNat = false → exec (.inboundTransaction ⟨i, cls, x⟩) s = .next s) ∧
    (s.portsOpen = true → s.pod.up.getLsbD i.toNat = true →
      (InTx.formatOk x = false → s.pod.drop ≠ 0xFFFFFFFF →
        exec (.inboundTransaction ⟨i, cls, x⟩) s = .next { s with pod := { s.pod with drop := s.pod.drop + 1 } }) ∧
      (InTx.formatOk x = false → s.pod.drop = 0xFFFFFFFF → exec (.inboundTransaction ⟨i, cls, x⟩) s = .next s) ∧
      (InTx.formatOk x = true →
        (256 ≤ l.length → exec (.inboundTransaction ⟨i, cls, x⟩) s = .next s) ∧
        (l ≠ [] → l.length < 256 → exec (.inboundTransaction ⟨i, cls, x⟩) s = .next { s with rxq := Map.set [] s.rxq q (l ++ [x]) }) ∧
        (l = [] →
          let s1 : State := { s with rxq := Map.set [] s.rxq q [x] }
          (∀ s2 r, s1.arrive x = (s2, some r) → exec (.inboundTransaction ⟨i, cls, x⟩) s =
            .next { s2 with rxq := Map.set [] s2.rxq q [], cells := s2.cells ++ (if x.op.isNote then [] else [⟨.reply r, cls.toNat, x.sender, i.toNat, false⟩]) }) ∧
          (∀ s2, s1.arrive x = (s2, none) → exec (.inboundTransaction ⟨i, cls, x⟩) s = .next s1) ∧
          (∀ ctx key a, x.dest = .ctx ctx key a → ((∃ k f, x.op = .load k f) ∨ (∃ d, x.op = .store d) ∨ (∃ o u w v y, x.op = .atomic o u w v y) ∨ x.op = .probe) →
            Map.find? s.ctxs ctx.toNat = none →
            ∃ s', exec (.inboundTransaction ⟨i, cls, x⟩) s = .next s' ∧ SameMemory s s' ∧
              s'.cells = s.cells ++ [⟨.reply (.fault Code.windowKey 0), cls.toNat, x.sender, i.toNat, false⟩]))))) ∧
  (∀ (s : State) (src : RecordSource) (cl : BitVec 5) (ctx : CtxId) (key : Word) (box : BitVec 8) (n a : Nat) (data : List Byte) (b : Nat × Nat),
    let at0 := TxDest.box ctx 0 box.toNat (64 * box.toNat)
    let dest := TxDest.box ctx key box.toNat a
    let who := src.sender
    exec (.recordLand src ctx key box data) s =
      .next (s.takeCell ⟨src.station, 1, who, 0, .box ctx key box.toNat (64 * box.toNat), .record data⟩) ∧
    exec (.grantMessage src ctx box n) s = .next (s.takeCell ⟨src.station, 1, who, 0, at0, .grant n⟩) ∧
    exec (.slotReturn src ctx box) s = .next (s.takeCell ⟨src.station, 1, who, 0, at0, .note (.slotBack ctx box.toNat)⟩) ∧
    exec (.closeNotice src ctx box) s = .next (s.takeCell ⟨src.station, 1, who, 0, at0, .note (.boxClosed ctx box.toNat)⟩) ∧
    (∀ x, exec (.inboundTransaction x) s = .next (s.takeCell x)) ∧
    s.arrive ⟨who, cl, dest, .record data⟩ b = s.inbound ⟨who, cl, dest, .record data⟩ b ∧
    (∀ s1, s.addCredit who ctx box.toNat n = some s1 → s.arrive ⟨who, cl, dest, .grant n⟩ b = (s1, some .ack)) ∧
    (s.addCredit who ctx box.toNat n = none → s.arrive ⟨who, cl, dest, .grant n⟩ b = (s, some (.fault Code.slotGrant 0))) ∧
    (s.addCredit who ctx box.toNat n = none ↔ (∀ c ∈ s.credits, ¬(c.target = who ∧ c.ctx = ctx ∧ c.box = box.toNat)) ∧ 4096 ≤ s.credits.length) ∧
    (∃ s', s.arrive ⟨who, cl, dest, .note (.slotBack ctx box.toNat)⟩ b = (s', some .ack) ∧ SameMemory s s' ∧
      ((∀ e ∈ s.teams, ∀ y ∈ e.2.threads, ∀ m a c k b w, y.2.st ≠ .parked (.send m a c k b w)) →
        s'.credits = s.credits.map fun c => if c.target = who ∧ c.ctx = ctx ∧ c.box = box.toNat then { c with u := c.u - 1 } else c)) ∧
    ((∀ e ∈ s.txs, e.2.ahead = false) → ∃ s', s.arrive ⟨who, cl, dest, .note (.boxClosed ctx box.toNat)⟩ b = (s', some .ack) ∧
      ∀ c ∈ s'.credits, c.target = who → c.ctx = ctx → c.box = box.toNat → c.g = 0) ∧
    (s.recordAhead who ctx box.toNat = true → s.arrive ⟨who, cl, dest, .note (.boxClosed ctx box.toNat)⟩ b = (s, none)))

/-! ## The host and the management controller -/

/-- R98-R101, R115, R331, R368, R472: the host's requests complete: a packet for no connection is dropped; a request is served in the region that its
key names, or refused; a write within one line changes its bytes and no other; R368: the lines of a request may be performed at moments of their own,
each whole, and its answer follows the last; a register takes one aligned 8-byte write, which is its command, behind every earlier write of its
connection (R81); a team's status is sampled; a ring's tail is sent when it has moved and 1 µs has passed.
Where the manual leaves a choice or an inference, a clause rests on the model's own: log entries 31, 56 and 63. -/
def Obligations.HostEvents : Prop :=
  (∀ (s : State) (q : BitVec 16) (key off : Word) (a n : Nat) (data : List Byte) (v : DWord) (c : Conn),
    let i := q.toNat
    let no := (s.send (.rdmaReply i false []) : State)
    let writes := [Instr.rdmaWrite q key a data, .registerWrite q key off v, .rdmaRead q key a n]
    (s.portsOpen = false ∨ s.conn? i = none → ∀ x ∈ .unsupportedRdmaRequest q :: writes, exec x s = .next s) ∧
    (s.conn? 0 = none) ∧
    (s.portsOpen = true → s.conn? i = some c →
      (c.region key = none → ∀ x ∈ writes, exec x s = .next no) ∧
      ((c.dmr = true → c.dcs = true → c.dmrkey = c.dcskey → c.region key = none) ∧
        (c.dmr = true → c.dcs = false → c.region c.dmrkey = some .memory) ∧ (c.dcs = true → c.dmr = false → c.region c.dcskey = some .control)) ∧
      exec (.unsupportedRdmaRequest q) s = .next (s.send (.rdmaRefused i)) ∧
      (c.region key = some .memory →
        (c.dmrw = false ∨ 2 ^ 39 < a + data.length → exec (.rdmaWrite q key a data) s = .next no) ∧
        (2 ^ 39 < a + n → exec (.rdmaRead q key a n) s = .next no) ∧
        exec (.registerWrite q key off v) s = .next no ∧
        (c.dmrw = true → a + data.length ≤ 2 ^ 39 → data ≠ [] → a % 128 + data.length ≤ 128 →
          (s.lineFault a = none → ∃ s', exec (.rdmaWrite q key a data) s = .next s' ∧ s'.bytes a data.length = data ∧ SameMemoryBut s s' a data.length ∧
            s'.out = s.out ++ [.rdmaReply i true []]) ∧
          (∀ f, s.lineFault a = some f → data.length < 128 → ∃ s', exec (.rdmaWrite q key a data) s = .next s' ∧ SameMemory s s' ∧
            s'.out = s.out ++ [.rdmaReply i false []])) ∧
        (a + n ≤ 2 ^ 39 →
          (∀ s1 bs, s.readPhys a n = (s1, some bs) → exec (.rdmaRead q key a n) s = .next (s1.send (.rdmaReply i true bs)) ∧ bs = s.bytes a n) ∧
          (∀ s1, s.readPhys a n = (s1, none) → exec (.rdmaRead q key a n) s = .next (s1.send (.rdmaReply i false []))))) ∧
      (c.region key = some .control →
        (2 ^ 32 < a + n → exec (.rdmaRead q key a n) s = .next no) ∧
        (a + n ≤ 2 ^ 32 → exec (.rdmaRead q key a n) s = .next (s.send (.rdmaReply i true (s.ctlBytes a n)))) ∧
        (2 ^ 32 < a + data.length → exec (.rdmaWrite q key a data) s = .next no) ∧
        (a + data.length ≤ 2 ^ 32 → exec (.rdmaWrite q key a data) s = .next (((s.linesDone i).controlWrite a data).send (.rdmaReply i true []))) ∧
        (off.toNat + 8 ≤ 2 ^ 32 → off.toNat % 8 = 0 →
          exec (.registerWrite q key off v) s = .next (((s.linesDone i).regWrite off.toNat v).send (.rdmaReply i true []))) ∧
        (off.toNat + 8 ≤ 2 ^ 32 → off.toNat % 8 ≠ 0 → exec (.registerWrite q key off v) s = .next ((s.linesDone i).send (.rdmaReply i true [])))))) ∧
  (∀ (s s' : State) (v : DWord) (k : BitVec 2),
    let c : CtxId := v.extractLsb' 0 12
    let q : BitVec 14 := v.extractLsb' 0 14
    let b : BitVec 9 := v.extractLsb' 0 9
    let x : FltTarget := ⟨v.extractLsb' 0 12, v.extractLsb' 16 4, v.extractLsb' 20 10, v.extractLsb' 32 24⟩
    (∀ e ∈ [(1, Instr.activate c), (2, .destroy c), (3, .invalPage c), (4, .invalAll c)],
      v.extractLsb' 12 4 = BitVec.ofNat 4 e.1 → exec e.2 s = .next s' → s.regWrite 0x08 v = s') ∧
    (∀ e ∈ [(1, Instr.bind q), (2, .unbind q)], v.extractLsb' 14 2 = BitVec.ofNat 2 e.1 → exec e.2 s = .next s' → s.regWrite 0x20 v = s') ∧
    (∀ e ∈ [(1, Instr.bankOn b), (2, .bankOff b), (3, .bankInuse b), (4, .bankNotuse b), (5, .bankPres b), (6, .bankNopres b)],
      v.extractLsb' 9 3 = BitVec.ofNat 3 e.1 → exec e.2 s = .next s' → s.regWrite 0x40 v = s') ∧
    (∀ e ∈ [(1, Instr.restart x), (2, .discard x), (3, .killthread x), (4, .killteam x), (5, .killgrid x)],
      v.extractLsb' 12 4 = BitVec.ofNat 4 e.1 → exec e.2 s = .next s' → s.regWrite 0x170 v = s') ∧
    (exec (.slotmapWrite k v) s = .next s' → s.regWrite (0xA0 + 8 * k.toNat) v = s') ∧
    (exec (.tsq v) s = .next s' → s.regWrite 0x1C0 v = s') ∧
    (∀ d : BitVec 14, 0x4000000 ≤ s.cfg.dbbase → s.regWrite (s.cfg.dbbase + 4096 * d.toNat) v = s.ringBell d v)) ∧
  (∀ (s : State) (v : DWord) (e : Nat × Team),
    (s.named (v.extractLsb' 0 12) s.ctl.tsqgrid (v.extractLsb' 32 24).toNat = none →
      exec (.tsq v) s = .next { s with ctl := { s.ctl with tsqval := 0 } }) ∧
    (s.named (v.extractLsb' 0 12) s.ctl.tsqgrid (v.extractLsb' 32 24).toNat = some e →
      exec (.tsq v) s = .next { s with ctl := { s.ctl with tsqval := e.2.stat.zeroExtend 64 ||| 0x100 ||| (if e.2.place = .saved then 0x200 else 0) } }) ∧
    (s.portsOpen = true → s.rrq.due s.clock = true → ∃ s', exec .rrqTailNotice s = .next s' ∧ s'.rrq = s.rrq.noted s.clock ∧ SameMemory s s' ∧
      (∀ c, s.conn? s.rrq.nqp = some c → s'.out = s.out ++ [.rdma s.rrq.nqp c.hostkey s.rrq.naddr (leBytes 8 s.rrq.tail)]) ∧
      (s.conn? s.rrq.nqp = none → s'.out = s.out)) ∧
    (s.portsOpen = true → s.flt.due s.clock = true → ∃ s', exec .fltTailNotice s = .next s' ∧ s'.flt = s.flt.noted s.clock ∧ SameMemory s s' ∧
      (∀ c, s.conn? s.flt.nqp = some c → s'.out = s.out ++ [.rdma s.flt.nqp c.hostkey s.flt.naddr (leBytes 8 s.flt.tail)]) ∧
      (s.conn? s.flt.nqp = none → s'.out = s.out)) ∧
    (s.portsOpen = false ∨ s.rrq.due s.clock = false → exec .rrqTailNotice s = .next s) ∧
    (s.portsOpen = false ∨ s.flt.due s.clock = false → exec .fltTailNotice s = .next s)) ∧
  (∀ (s : State) (q : BitVec 16) (key : Word) (a n conn : Nat) (data done : List Byte) (c : Conn),
    (s.portsOpen = true → s.conn? q.toNat = some c → c.region key = some .memory →
      (0 < n → a + n ≤ 2 ^ 39 →
        s.spread (.rdmaRead q key a n) = { s with lineJobs := s.lineJobs ++ [⟨.inl q.toNat, false, a, [], n⟩] }) ∧
      (0 < data.length → a + data.length ≤ 2 ^ 39 → c.dmrw = true →
        s.spread (.rdmaWrite q key a data) = { s with lineJobs := s.lineJobs ++ [⟨.inl q.toNat, true, a, data, data.length⟩] })) ∧
    (s.portsOpen = true → s.lineJobs = [⟨.inl conn, true, a, data, data.length⟩] → 0 < data.length → s.lineFault a = none →
      let k := min (128 - a % 128) data.length
      (s.line 0).bytes a k = data.take k ∧ SameMemoryBut s (s.line 0) a k ∧
      (k < data.length → (s.line 0).lineJobs = [⟨.inl conn, true, a + k, data.drop k, data.length - k⟩] ∧ (s.line 0).out = s.out) ∧
      (data.length ≤ k → (s.line 0).lineJobs = [] ∧ (s.line 0).out = s.out ++ [.rdmaReply conn true []])) ∧
    (s.portsOpen = true → s.lineJobs = [⟨.inl conn, false, a, done, n⟩] → 0 < n →
      let k := min (128 - a % 128) n
      ∀ s1, s.readPhys a k = (s1, some (s.bytes a k)) →
        (k < n → (s.line 0).lineJobs = [⟨.inl conn, false, a + k, done ++ s.bytes a k, n - k⟩] ∧ (s.line 0).out = s.out) ∧
        (n ≤ k → (s.line 0).lineJobs = [] ∧ (s.line 0).out = s.out ++ [.rdmaReply conn true (done ++ s.bytes a k)])))

/-- R499-R511: a start gives every register its reset value and leaves no context, queue, grid or team; a warm start keeps the preserved sets; a
refused record leaves the controller serving; a frame of an open connection is served by its OP, one with another MAGIC ends its connection, responses
leave in the order of the requests of their connection; the management port's requests complete with their status: BUSY while a start is in progress,
BAD_OP for an unknown OP, DENIED for a peer that is not listed, BAD_ARG for a payload of another form; the caps, the limits and the trip act. Staged
bytes that no FLASHWR wrote are free values.
Where the manual leaves a choice or an inference, a clause rests on the model's own: log entries 2, 3, 6, 31, 57, 58, 59, 99 and 100. -/
def Obligations.ManagementEvents : Prop :=
  (∀ (s : State) (c : Cfg) (w : Bool) (n : Nat),
    (s.mgmt.verified = true → s.startCfg = some c → exec .coldStart s = .next (s.restarted false c)) ∧
    ((s.restarted false c).mem = [] ∧ (s.restarted false c).mgmt.trained = s.mgmt.starts + 1 ∧ (s.restarted false c).mgmt.retrained = []) ∧
    ((s.banks.map Prod.fst).Nodup → ∀ k, (s.restarted false c).bank k = { Bank.reset with remap := (s.bank k).remap }) ∧
    (∀ ch, ch < channels → (s.restarted true c).mgmt.trainedAt ch =
      if Config.trainingFails ch (s.mgmt.trainedAt ch) (s.mgmt.starts + 1) = true then s.mgmt.starts + 1 else s.mgmt.trainedAt ch) ∧
    (s.mgmt.verified = false ∨ s.startCfg = none → ∃ s', exec .coldStart s = .next s' ∧ s'.mgmt.accepted = false ∧ s'.mgmt.starting = none ∧ s'.portsOpen = false) ∧
    (let t := s.restarted w c
     t.ctl = Ctl.reset ∧ t.ctxs = [] ∧ t.queues = [] ∧ t.grids = [] ∧ t.teams = [] ∧ t.cores = [] ∧ t.txs = [] ∧ t.boxes = [] ∧ t.rrq = Ring.reset ∧
       t.flt = Ring.reset ∧ t.pod = Pod.reset ∧ t.conns = [] ∧ t.endps = [] ∧ t.phases = [] ∧ t.rrc = [] ∧ t.cfg = c ∧ t.mgmt.starts = s.mgmt.starts + 1 ∧
       t.mgmt.rails = List.replicate 4 ⟨0xFFFF, 0, s.mgmt.hot⟩ ∧ t.mgmt.lastStart = (if w then 2 else 1) ∧ t.mgmt.trip = (w && s.mgmt.trip)) ∧
    ((s.banks.map Prod.fst).Nodup → ∀ k, let b := s.bank k
      let b' := (s.restarted true c).bank k
      (b.state ≠ 4 → b.rlost = false → b.pres = true → b'.state = 1 ∧ b'.pres = true ∧ b'.inuse = b.inuse) ∧
      (b.state = 4 ∨ b.rlost = true → b'.state = 4 ∧ b'.pres = b.pres ∧ b'.inuse = b.inuse) ∧
      (b.state ≠ 4 → b.rlost = false → b.pres = false → b'.state = 2 ∧ b'.pres = false ∧ b'.inuse = false) ∧
      b'.clr = false ∧ b'.patrol = false ∧ b'.cecnt = b.cecnt ∧ b'.uecnt = b.uecnt ∧ b'.rows = b.rows ∧ b'.remaps = b.remaps ∧ b'.remap = b.remap) ∧
    (∀ a, (s.bank (Machine.setOf a)).pres = true → (s.bank (Machine.setOf a)).rlost = false → (s.bank (Machine.setOf a)).state = 1 ∨ (s.bank (Machine.setOf a)).state = 2 ∨ (s.bank (Machine.setOf a)).state = 3 →
      Memory.get (s.restarted true c).mem a = Memory.get s.mem a) ∧
    (s.mgmt.starting = none → s.ctl.jobs = [] → (s.elapse n).mgmt = s.mgmt) ∧
    (s.mgmt.starting = some w → s.mgmt.verified = true → s.startCfg = some c → (s.elapse n).mgmt.starting = none ∧ (s.elapse n).cfg = c ∧ (s.elapse n).teams = [])) ∧
  (∀ (s : State) (r : MgmtReq),
    let p := r.payload
    let ok := s.mgmt.starting = none ∧ s.listed r.conn = true
    let reqs := [(2, Instr.quote r), (3, .flashwr r), (4, .flashseal r), (5, .start r), (6, .read r), (7, .connset r), (8, .epset r), (9, .msave r), (10, .mresume r)]
    (s.listed r.conn = true ↔ s.mgmt.accepted = true ∧ ∃ a, s.peerOf r.conn = some a ∧ a ≠ 0 ∧ a ∈ s.cfg.hosts) ∧
    (s.peerOf r.conn = none → ∀ e ∈ (1, Instr.status r) :: reqs, exec e.2 s = .next s) ∧
    ((s.peerOf r.conn).isSome →
    exec (.status r) s = .next (if p = [] then s.reply 1 r 0 s.statusBytes else s.reply 1 r 2 []) ∧
    (∀ e ∈ reqs,
      (s.mgmt.starting.isSome → exec e.2 s = .next (s.reply (BitVec.ofNat 16 e.1) r 5 [])) ∧
      (s.mgmt.starting = none → s.listed r.conn = false → 5 ≤ e.1 → exec e.2 s = .next (s.reply (BitVec.ofNat 16 e.1) r 3 []))) ∧
    (s.mgmt.starting = none →
      (p.length ≠ 32 → exec (.quote r) s = .next (s.reply 2 r 2 [])) ∧
      (p.length = 32 → exec (.quote r) s = .next (s.reply 2 r 0 (s.quoteHead p ++ exactly 29792 (Config.slhSign (s.quoteHead p))))) ∧
      (p.length < 8 ∨ 65536 < p.length ∨ 2 < fld p 0 4 → exec (.flashwr r) s = .next (s.reply 3 r 2 [])) ∧
      (8 ≤ p.length → p.length ≤ 65536 → fld p 0 4 ≤ 2 →
        ∃ bs, exec (.flashwr r) s = .next ((s.modMgmt fun m => { m with staged := Map.put m.staged (fld p 0 1) bs }).reply 3 r 0 []) ∧
          (bs.drop (fld p 4 4)).take (p.length - 8) = p.drop 8) ∧
      (p.length = 8 → fld p 0 4 ≤ 2 →
        (Map.find? s.mgmt.staged (fld p 0 1) = none → exec (.flashseal r) s = .next (s.reply 4 r 2 [])) ∧
        (∀ bs, Map.find? s.mgmt.staged (fld p 0 1) = some bs → fld p 4 4 ≤ bs.length →
          exec (.flashseal r) s = .next (if s.mgmt.sealOk (fld p 0 1) (bs.take (fld p 4 4)) then
            (s.modMgmt fun m => { m with flash := Map.put m.flash (fld p 0 1) (bs.take (fld p 4 4)) }).reply 4 r 0 [] else s.reply 4 r 2 [])))) ∧
    (ok →
      (p.length = 8 → fld p 0 8 < 2 →
        ∃ s', exec (.start r) s = .next s' ∧ s'.mgmt.starting = some (fld p 0 8 == 1) ∧ s'.mgmt.conns = [] ∧ s'.portsOpen = false ∧ s'.teams = s.teams ∧
          ∀ c ∈ s.mgmt.conns, Out.tcpEnd c.1 ∈ s'.out) ∧
      (p.length ≠ 8 ∨ 2 ≤ fld p 0 8 → exec (.start r) s = .next (s.reply 5 r 2 [])) ∧
      (p.length = 16 → fld p 1 3 = 0 → 1 ≤ fld p 4 4 → fld p 4 4 ≤ 65536 →
        let a := fld p 8 8
        let n := fld p 4 4
        (s.spaceEnd (fld p 0 1) < a + n → exec (.read r) s = .next (s.reply 6 r 2 [])) ∧
        (fld p 0 1 = 0 → a + n ≤ 2 ^ 39 →
          (∀ s1 bs, s.readPhys a n = (s1, some bs) → exec (.read r) s = .next (s1.reply 6 r 0 bs)) ∧
          (∀ s1, s.readPhys a n = (s1, none) → exec (.read r) s = .next (s1.reply 6 r 4 []))) ∧
        (fld p 0 1 ≠ 0 → a + n ≤ s.spaceEnd (fld p 0 1) → a % 8 = 0 → n % 8 = 0 →
          exec (.read r) s = .next (s.reply 6 r 0 (s.spaceBytes (fld p 0 1) a n)))) ∧
      (p.length = 72 → 1 ≤ fld p 0 8 → fld p 0 8 ≤ 65535 →
        let s1 := s.endConnection (fld p 0 8)
        exec (.connset r) s = .next ({ s1 with conns := Map.put s.conns (fld p 0 8) (connOf (p.drop 8)) }.reply 7 r 0 []) ∧
        (s.conn? (fld p 0 8) = none → s1 = s) ∧
        ((s.conn? (fld p 0 8)).isSome → (∀ j ∈ s1.lineJobs, j.who ≠ Sum.inl (fld p 0 8)) ∧
          (s.rrq.nqp = fld p 0 8 → s1.rrq.due s1.clock = false) ∧ (s.flt.nqp = fld p 0 8 → s1.flt.due s1.clock = false))) ∧
      (p.length ≠ 72 ∨ fld p 0 8 = 0 ∨ 65535 < fld p 0 8 → exec (.connset r) s = .next (s.reply 7 r 2 [])) ∧
      (p.length = 40 → fld p 0 8 ≤ 4095 →
        exec (.epset r) s = .next ({ s with endps := Map.put s.endps (fld p 0 8) (endpOf (p.drop 8)) }.reply 8 r 0 [])) ∧
      (p.length = 16 → MgmtReq.teamOk r = true →
        (s.mgmtTeam r = none → exec (.msave r) s = .next (s.reply 9 r 4 []) ∧ exec (.mresume r) s = .next (s.reply 10 r 4 [])) ∧
        (∀ t T, s.mgmtTeam r = some (t, T) → s.team? t = some T → T.gang = none →
          (T.core? = none → ∃ s' T', exec (.msave r) s = .next s' ∧ s'.team? t = some T' ∧ T' = { T with mheld := true }) ∧
          (T.core?.isSome → ∃ s', exec (.msave r) s = .next s' ∧
            s' = ((((s.modTeam t fun U => { U with mheld := true }).startSaves t).modMgmt fun m =>
              { m with answers := m.answers ++ [⟨r.conn, r.tag, 9, [t], none, none, 0, []⟩] }).flushMgmt)) ∧
          (T.mheld = false → exec (.mresume r) s = .next (s.reply 10 r 4 [])) ∧
          (T.mheld = true → exec (.mresume r) s = .next (((s.modTeam t fun U => { U with mheld := false }).freed none).reply 10 r 0 []))))))) ∧
  (∀ (s : State) (r : MgmtReq) (op st : BitVec 16) (bs : List Byte),
    let frame := leBytes 2 0x4D52 ++ leBytes 2 op.toNat ++ leBytes 4 bs.length ++ leBytes 4 r.tag.toNat ++ leBytes 2 st.toNat ++ leBytes 2 0 ++ bs
    (s.mgmt.answers = [] → (s.reply op r st bs).out = s.out ++ [.mgmt r.conn frame] ∧ (s.reply op r st bs).mgmt = s.mgmt) ∧
    (∀ a, s.mgmt.answers = [a] → a.conn = r.conn → a.due s.gangSaved = false → (s.reply op r st bs).out = s.out) ∧
    (∀ a, s.mgmt.answers = [a] → a.conn ≠ r.conn → a.due s.gangSaved = false → (s.reply op r st bs).out = s.out ++ [.mgmt r.conn frame])) ∧
  (∀ (s : State) (peer : BitVec 128) (conn : Nat) (magic op : BitVec 16) (tag : Word) (bs : List Byte),
    let r : MgmtReq := ⟨conn, tag, bs⟩
    ((∀ n, n < 4 → (s.peerOf n).isSome) → exec (.tcpConnection (.opened peer)) s = .next (s.send (.tcp none))) ∧
    (∀ m, m < 4 → s.peerOf m = none → ∃ n s', n < 4 ∧ s.peerOf n = none ∧ exec (.tcpConnection (.opened peer)) s = .next s' ∧
      s'.peerOf n = some peer ∧ (∀ j, j ≠ n → s'.peerOf j = s.peerOf j) ∧ s'.out = s.out ++ [.tcp (some n)]) ∧
    (∃ s', exec (.tcpConnection (.closed conn)) s = .next s' ∧ s'.peerOf conn = none ∧ s'.out = s.out ∧ (∀ a ∈ s'.mgmt.answers, a.conn ≠ conn) ∧
      ∀ j, j ≠ conn → s'.peerOf j = s.peerOf j) ∧
    (s.peerOf conn = none → exec (.tcpConnection (.frame conn magic op tag bs)) s = .next s) ∧
    ((s.peerOf conn).isSome →
      (magic ≠ 0x4D51 → ∃ s', exec (.tcpConnection (.frame conn magic op tag bs)) s = .next s' ∧ s'.peerOf conn = none ∧
        s'.out = s.out ++ [.tcpEnd conn]) ∧
      (∀ e ∈ [(1, Instr.status r), (2, .quote r), (3, .flashwr r), (4, .flashseal r), (5, .start r), (6, .read r), (7, .connset r), (8, .epset r),
          (9, .msave r), (10, .mresume r)], op = BitVec.ofNat 16 e.1 → exec (.tcpConnection (.frame conn 0x4D51 op tag bs)) s = exec e.2 s) ∧
      (op = 0 ∨ 10 < op.toNat → exec (.tcpConnection (.frame conn 0x4D51 op tag bs)) s =
        .next (s.reply op r (if s.mgmt.starting.isSome then 5 else 1) [])))) ∧
  (∀ (s s' : State) (k : BitVec 2) (watts : BitVec 16) (celsius : Nat) (v : DWord),
    let hot := fun (s : State) => s.mgmt.hot = true ∨ 4800 < (s.mgmt.rails.map fun y => y.meas.toNat).sum
    (s.mgmt.rails.length = 4 →
      exec (.powerCapLimit k watts) s = .next s' ∨ (0x4000000 ≤ s.cfg.dbbase ∧ s.regWrite (0x200 + 8 * k.toNat) v = s') →
        s' = { s with mgmt := { s.mgmt with rails := s'.mgmt.rails } } ∧ s'.mgmt.rails.length = 4 ∧
        (∀ j y, s'.mgmt.rails[j]? = some y → (y.lim = true ↔ hot s' ∨ min y.cap.toNat (Config.railRating j) < y.meas.toNat)) ∧
        ∀ j, j ≠ k.toNat → s'.mgmt.rails[j]?.map (fun y => (y.cap, y.meas)) = s.mgmt.rails[j]?.map fun y => (y.cap, y.meas)) ∧
    (s.mgmt.rails.length = 4 →
      (∃ s', exec (.powerCapLimit k watts) s = .next s' ∧
        s'.mgmt.rails[k.toNat]?.map (fun y => (y.cap, y.meas)) = s.mgmt.rails[k.toNat]?.map fun y => (y.cap, watts)) ∧
      (0x4000000 ≤ s.cfg.dbbase → (s.regWrite (0x200 + 8 * k.toNat) v).mgmt.rails[k.toNat]?.map (fun y => (y.cap, y.meas)) =
        s.mgmt.rails[k.toNat]?.map fun y => (v.extractLsb' 0 16, y.meas))) ∧
    (∃ s', exec (.thermalLimit celsius) s = .next s' ∧ s'.teams = s.teams ∧ SameMemory s s' ∧ s'.mgmt.hot = decide (105 ≤ celsius) ∧
      (105 ≤ celsius → ∀ y ∈ s'.mgmt.rails, y.lim = true)) ∧
    (115 ≤ celsius → ∃ s', exec (.thermalTrip celsius) s = .next s' ∧ s'.mgmt.trip = true ∧ s'.portsOpen = false ∧ (∀ T, s'.mayIssue T = false) ∧
      s'.mgmt.log.length = s.mgmt.log.length + 1) ∧
    (celsius < 115 → exec (.thermalTrip celsius) s = .next s))

/-! ## The whole machine -/

/-- R4, R32, R34, R168-R174, R192-R194, R204, R205, R212, R316 and the model's agenda (log entry 1): a step takes the next turn. The turn of an active wave
runs the instruction at its position, as its word decodes, once for each of its threads, in an order that a memory instruction leaves free (log
entry 2), and then regroups the wave; a guard that is false skips it; the turn of a steering thread runs its instruction, behind the fences that it
must wait for; an event's turn runs the event; local stores that are held take their places first (R363); a clause of words is read from memory at
the position, and a word that was stored to while a team of its grid was resident is read as its new value or as one of its old ones, by free
choice (log entry 16). -/
def Obligations.StepRunsTheDecodedInstruction : Prop :=
  ∀ (s s1 : State) (r : List Turn) (i : Instr) (c p k n h t tid : Nat) (w : Wave) (T : Team) (th : Thread) (cl : Clause) (x : Word) (e : Option Word)
    (st : Stream) (hold : Bool),
    let s0 := ({ s with agenda := r } : State)
    (s.agenda = [] → step s = .next { s with agenda := s.plan ++ [.elapse Config.ticksPerAclk] }) ∧
    (s.agenda = .elapse n :: r → step s = .next (s0.elapse n)) ∧
    (s.agenda = .event i :: r → (isEvent i = true → step s = exec i (s0.before i)) ∧ (isEvent i = false → step s = .next s0)) ∧
    (i.stream = .event → isFault i = false → (∀ u j, i ≠ .joinTimeout u j) → isEvent i = true) ∧
    (s.pending = [] → s0.before i = s0 ∧ s0.settle t tid th i = s0) ∧
    (s.agenda = .perform t tid :: r → step s = .next (s0.performThread t tid)) ∧ (s.agenda = .ahead n :: r → step s = .next ((s0.goAhead n).sentAhead n)) ∧
    (s.agenda = .receive n :: r → step s = .next (s0.receive n)) ∧ (s.agenda = .spread i :: r → step s = .next (s0.performAll.spread i)) ∧
    (s.agenda = .line n :: r → step s = .next (s0.line n)) ∧
    (∀ pa bad, s.agenda = .ecc pa bad :: r → step s = .next (s0.findError (pa / 128) bad)) ∧
    (∀ a b, s.agenda = .behind a b i :: r →
      (∀ s2, isEvent i = true → exec i { s0.before i with view := (a, b) } = .next s2 → step s = .next { s2 with view := (0, 0) }) ∧
      (isEvent i = false → step s = .next s0)) ∧
    (s.agenda = (if hold then .hold c p k else .issue c p k) :: r → Map.find? (s0.part c p).waves k = some w → s0.team? w.team = some T → w.active = true →
      (s0.mayIssue T = false → step s = .next s0) ∧
      (s0.mayIssue T = true → s0.waveClause T w = (s1, .inl cl) → cl.slots[w.pos.k]? = some (.word x e) → decode .lane x e = .ok i →
        let who := T.performing w cl (guardBit .lane x)
        let latch := if who = [] then w.latch else latchAfter w.latch i (who.filterMap fun y => y.reached i)
        let go : State := { s1.orderUsed i with holding := hold }
        ((∃ y ∈ w.tids, s1.threadReady w.team T cl w.pos.k i y = false) → step s = .next s0) ∧
        ((∀ y ∈ w.tids, s1.threadReady w.team T cl w.pos.k i y = true) →
          (s1.waveOrder i w.tids).Perm w.tids ∧
          (∀ s2, go.issueAll w.team cl w.pos.k (guardBit .lane x) i (s1.waveOrder i w.tids) = .next s2 →
            step s = .next (({ s2 with holding := false } : State).regroup c p k w cl i latch)) ∧
          (w.tids = [tid] → s1.team? w.team = some T → T.thread? tid = some th → th.st = .wave →
            let g := th.guard cl w.pos.k
            let on := { go.setThread w.team T tid { th with g := g, pos := ⟨cl.h, w.pos.k⟩, nextPos := cl.after w.pos.k } with
              cur := some (.lane w.team tid) }
            let done := fun (s : State) =>
              ({ s.modThread w.team tid (fun y => y.counted (th.late.map Late.id) (s.accessHolds w.team tid)) with
                cur := none, holding := false }).regroup c p k w cl i latch
            (cl.gen = true → guardBit .lane x = true → g = false → isFault i = false → step s = .next (done on)) ∧
            (cl.gen = false ∨ guardBit .lane x = false ∨ g = true → th.guardLate cl w.pos.k = false →
              ∀ s2, exec i (on.settle w.team tid th i) = .next s2 → step s = .next (done s2)))))) ∧
    (∀ g y l, s1.issueAll t cl k g i (y :: l) = match s1.issueThread t cl k g i y with | .next s2 => s2.issueAll t cl k g i l | o => o) ∧
    (s.agenda = .steer c k :: r → List.find? (fun (y : Nat × Team) => y.2.place == .resident c k) s.teams = some (t, T) →
      (Map.get (0, 0) s.steerPtr c).2 ≠ s.clock + 1 → T.steer.st = .running → s0.mayIssue T = true → s0.steerClause T = (s1, .inl cl) →
      cl.slots[T.steer.pos.k]? = some (.word x e) → decode .steer x e = .ok i →
      (T.steer.pos.k ≠ 0 ∨ cl.waitll = 15 ∨ T.steer.late.length ≤ cl.waitll) →
      let g := T.steer.guard cl T.steer.pos.k
      let st1 := { T.steer with clause := some cl, g := g, nextPos := cl.after T.steer.pos.k }
      let serve := fun (s : State) => { s with steerPtr := Map.set (0, 0) s.steerPtr c ((k + 1) % Config.teamSlots, s.clock + 1) }
      let done := fun (s : State) => if (s.team? t).any (fun U => U.served T.steer) then serve s else s
      (cl.gen = true → guardBit .steer x = true → g = false → isFault i = false →
        step s = .next (done ((s1.setTeam t { T with steer := st1 }).steerOn t))) ∧
      (cl.gen = false ∨ guardBit .steer x = false ∨ g = true →
        (Machine.Instr.fenced i = true → T.steer.fences.any (s1.fenceOpen t T) = true →
          step s = .next (done (s1.steerWait t { T with steer := st1 } .fence))) ∧
        (Machine.Instr.fenced i = false ∨ T.steer.fences.any (s1.fenceOpen t T) = false →
          let T1 := { T with steer := if Machine.Instr.fenced i then { st1 with fences := [] } else st1 }
          ∀ s2, exec i { s1.setTeam t T1 with cur := some (.steer t) } = .next s2 → step s = .next (done { s2.steerOn t with cur := none })))) ∧
    (∀ hd ws l s2 s3, T.img.inCode h = true → s.codeWord T (T.img.kimg + 4 * h) = (s2, .inl hd) → headOk st hd = true → flag hd.toNat 4 = false →
      h + 1 + headLen hd ≤ T.img.codeoff / 4 + T.img.codelen → s2.codeWords T (T.img.kimg + 4 * (h + 1)) (headLen hd) = (s3, .inl ws) →
      wordSlots st ws = some l → s.fetchClause T st h = (s3, .inl (clauseOf h hd l))) ∧
    (∀ va pa f, s.judgeLoad T.ctx T.cluster false (va % 2 ^ 56) = (s1, .ok pa f) →
      ((∀ o ∈ s1.oldCode, o.grid = T.grid → o.word ≠ pa / 4) → s.codeWord T va = (s1, .inl (BitVec.ofNat 32 (leNat (s1.bytes pa 4))))) ∧
      (∃ s2 v, s.codeWord T va = (s2, .inl v) ∧ s2.mem = s1.mem ∧
        (v = BitVec.ofNat 32 (leNat (s1.bytes pa 4)) ∨ (⟨T.grid, pa / 4, v⟩ : OldWord) ∈ s1.oldCode))) ∧
    (∀ (a : Nat) (bs : List Byte), (∀ o ∈ s.overwritten a bs.length, o ∈ (s.store a bs).oldCode) ∧
      (∀ o ∈ (s.store a bs).oldCode, o ∈ s.oldCode ∨ o ∈ s.overwritten a bs.length)) ∧
    (∀ a n o, o ∈ s.overwritten a n → a / 4 ≤ o.word ∧ o.word < (a + n + 3) / 4 ∧ o.val = BitVec.ofNat 32 (leNat (s.bytes (4 * o.word) 4)) ∧
      ∃ e ∈ s.teams, e.2.grid = o.grid ∧ ∃ c k, e.2.place = .resident c k)

/-- R8, Table 4.9, Table 5.2, Table 7.2, Table 24.3, R502 and, where the spec gives no value, log entries 1, 3 and 12: what the machine holds at
reset; its memory is in its canonical form. -/
def Obligations.ResetState : Prop :=
  let s := Sys2Proof.core.reset
  s.ctl = Ctl.reset ∧ s.ctxs = [] ∧ s.queues = [] ∧ s.grids = [] ∧ s.teams = [] ∧ s.txs = [] ∧ s.conns = [] ∧ s.endps = [] ∧ s.rrc = [] ∧
    (∀ k, s.bank k = Bank.reset ∧ (s.bank k).state = 2 ∧ (s.bank k).spare = 64) ∧ (∀ c, s.phase c = PhaseReg.reset) ∧
    s.mgmt.rails = List.replicate 4 ⟨0xFFFF, 0, false⟩ ∧ s.portsOpen = true ∧
    (∀ off, 0x10 ≤ off → off < 0x80 → s.ctlByte off = 0) ∧ (∀ off, 0x88 ≤ off → off < 0x1000 → ¬(0x200 ≤ off ∧ off < 0x220) → s.ctlByte off = 0) ∧
    (∀ a, Memory.get s.mem a = 0) ∧ s.Canonical

/-- The memory's canonical form (the model's own: log entry 13) is kept by every step, from every state that has it. -/
def Obligations.StepKeepsCanonical : Prop := Keeps State.Canonical

/-! ## Encodings -/

/-- R4, R168, R171, R177-R183, R192: for every instruction of a stream that an encoding admits, guarded or not, decoding its words, whatever follows
them, gives it back, and its guard bit. -/
def Obligations.EncodeThenDecode : Prop :=
  ∀ (i : Instr) (g : Bool) (rest : List Byte), i.wf = true → i.stream ≠ .event →
    decodeBytes i.stream ((encodeWith g i).flatMap bytesOf ++ rest) = .ok (i, rest) ∧
    ∃ w ws, encodeWith g i = w :: ws ∧ (i.stream = .lane → guardBit .lane w = g) ∧
      (i.stream = .steer → Dec.isE (Dec.op w).toNat = false → guardBit .steer w = g)

/-- R4, R168, R171, R192 and the encoded examples of Tables 11, 12.6, 13.5, 13.6, 14, 16 and 18.5: a few words the spec writes out decode to the
instruction it names; two reserved forms decode to none. -/
def Obligations.DecodingWords : Prop :=
  decode .lane 0x80011115 (some 0x64) = .ok (.icmp .lt 2 ⟨4, false, .imm 0x64⟩) ∧
  decode .lane 0x80024410 (some 0x00010804) = .ok (.bfx ⟨8, 9, false, .imm 0x00010804⟩) ∧
  decode .lane 0x881C4060 (some 0x240) = .ok (.br 1 true (some 3) 0x240) ∧
  decode .lane 0x08094AE5 none = .ok (.join 21 5 1) ∧
  decode .lane 0x88214223 (some 6) = .ok (.ffma ⟨4, 5, false, .xreg 6⟩ .rz) ∧
  decode .lane 0x8042443B (some 0xA) = .ok (.fdiv ⟨8, 9, 2, .rn⟩ 10 false) ∧
  decode .lane 0x80254A45 (some 0x00081716) = .ok (.qdot8 ⟨20, 21, false, true, .rn, 22, 23, 0, 2⟩) ∧
  decode .lane 0x86408450 (some 0x100) = .ok (.ld ⟨8, 2, 2, .b64, 0, some 0x100⟩) ∧
  decode .lane 0x840284D7 (some 0x00010007) = .ok (.ldw ⟨9, 10, 0, .b32, 0, 7, true, false⟩) ∧
  decode .lane 0x000081EB none = .ok (.barw 3 false 2) ∧
  decode .steer 0x2838C290 none = .ok (.ssel ⟨5, 6, .reg 7⟩ 2 true) ∧
  decode .steer 0x88004A2A (some 0x40) = .ok (.sld 20 2 .b32 false 0 (some 0x40)) ∧
  decode .steer 0x80000525 (some 0x105) = .ok (.sloop 10 0x105) ∧
  decode .steer 0x00580629 none = .ok (.qrd 12 0 (.reg 11)) ∧
  decode .steer 0x80000431 (some 0x83) = .ok (.cube ⟨8, 0, 0, false, false, false⟩ .two false 3 4 0 0) ∧
  decode .steer 0x00B2803C none = .ok (.cwait 20 22) ∧
  decode .steer 0x9402AA39 (some 2) = .ok (.rwgrant 20 21 (.imm 2) 5) ∧
  (∃ c, decode .lane 0x00094AE5 none = .error c) ∧ ∃ c, decode .lane 0x00800064 none = .error c

/-! ## Rules stated word for word -/

/-- R260, R304: IADD64 and SADD64 write their pair with the sum mod 2^64, the immediate sign-extended; an odd register, or a modifier that is not 0,
is a reserved encoding; IADD64 stops with REG_RANGE where any half of a pair lies at or above the register count. -/
def Obligations.PairAdditions : Prop :=
  ∀ (d a b : Reg) (ha hb g : Bool) (m : BitVec 7) (e f : SReg) (h : SReg) (n : BitVec 5) (x : Word),
    let lane := fun (imm hb : Bool) (b : BitVec 7) =>
      (BitVec.ofBool imm ++ BitVec.ofBool hb ++ BitVec.ofBool ha ++ BitVec.ofBool g ++ b ++ a ++ d ++ (0x19 : BitVec 7) : Word)
    let steer := fun (imm : Bool) (b : SReg) =>
      (BitVec.ofBool imm ++ n ++ BitVec.ofBool g ++ b ++ f ++ e ++ (0x12 : BitVec 7) : Word)
    let even := fun {w : Nat} (r : BitVec w) => r.toNat % 2 = 0
    let bad := Instr.reservedEncoding Code.reservedOp
    (even d → even a → even b → decode .lane (lane false hb b) none = .ok (.iadd64 ⟨d, a, ha, .reg b hb⟩)) ∧
    (even d → even a → m = 0 → decode .lane (lane true false m) (some x) = .ok (.iadd64 ⟨d, a, ha, .imm x⟩)) ∧
    (¬(even d ∧ even a ∧ even b) → (Slot.word (lane false hb b) none).instr .lane = bad) ∧
    (¬(even d ∧ even a ∧ m = 0) → (Slot.word (lane true false m) (some x)).instr .lane = bad) ∧
    (∀ o : R3, LaneSets (.iadd64 o) ([o.d.toNat, o.d.toNat + 1, o.a.toNat, o.a.toNat + 1] ++ srcPairRegs o.b) []
      (fun th =>
        let s : DWord := (th.reg (o.a.toNat + 1) ++ th.reg o.a.toNat) +
          (match o.b with | .reg r _ => th.reg (r.toNat + 1) ++ th.reg r.toNat | .imm y => y.signExtend 64)
        (th.setReg o.d.toNat (s.extractLsb' 0 32)).setReg (o.d.toNat + 1) (s.extractLsb' 32 32)) ∧
      LaneStops (.iadd64 o) ([o.d.toNat, o.d.toNat + 1, o.a.toNat, o.a.toNat + 1] ++ srcPairRegs o.b) []) ∧
    (even e → even f → even h → n = 0 → decode .steer (steer false h) none = .ok (.sadd64 ⟨e, f, .reg h⟩)) ∧
    (even e → even f → n = 0 → decode .steer (steer true 0) (some x) = .ok (.sadd64 ⟨e, f, .imm x⟩)) ∧
    (¬(even e ∧ even f ∧ even h ∧ n = 0) → (Slot.word (steer false h) none).instr .steer = bad) ∧
    (¬(even e ∧ even f ∧ n = 0 ∧ h = 0) → (Slot.word (steer true h) (some x)).instr .steer = bad) ∧
    (∀ o : S3, SteerSets (.sadd64 o) ([o.d.toNat, o.d.toNat + 1, o.a.toNat, o.a.toNat + 1] ++ ssrcPairRegs o.b)
      (fun st =>
        let s : DWord := (st.reg (o.a.toNat + 1) ++ st.reg o.a.toNat) +
          (match o.b with | .reg r => st.reg (r.toNat + 1) ++ st.reg r.toNat | .imm y => y.signExtend 64)
        (st.setReg o.d.toNat (s.extractLsb' 0 32)).setReg (o.d.toNat + 1) (s.extractLsb' 32 32)))

/-- R253: POPC, CLZ and BREV read a and write v[D]; B that is not zero, or X set, is a reserved encoding. -/
def Obligations.BitCounts : Prop :=
  ∀ (d a b : Reg) (ha hb g : Bool) (x : Word) (o : R2),
    let word := fun (op : BitVec 7) (imm hb : Bool) (b : BitVec 7) =>
      (BitVec.ofBool imm ++ BitVec.ofBool hb ++ BitVec.ofBool ha ++ BitVec.ofBool g ++ b ++ a ++ d ++ op : Word)
    (∀ k ∈ [(0x12#7, Instr.popc), (0x13#7, Instr.clz), (0x14#7, Instr.brev)],
      decode .lane (word k.1 false false 0) none = .ok (k.2 ⟨d, a, ha⟩) ∧
      (b ≠ 0 ∨ hb = true → (Slot.word (word k.1 false hb b) none).instr .lane = .reservedEncoding Code.reservedOp) ∧
      (Slot.word (word k.1 true hb b) (some x)).instr .lane = .reservedEncoding Code.reservedOp) ∧
    (LaneSets (.popc o) [o.d.toNat, o.a.toNat] [] fun th =>
      th.setReg o.d.toNat (BitVec.ofNat 32 ((List.range 32).countP (th.reg o.a.toNat).getLsbD))) ∧
    (∃ c : Word → Nat, (LaneSets (.clz o) [o.d.toNat, o.a.toNat] [] fun th => th.setReg o.d.toNat (BitVec.ofNat 32 (c (th.reg o.a.toNat)))) ∧ c 0 = 32 ∧
      ∀ y : Word, y ≠ 0 → c y < 32 ∧ y.getLsbD (31 - c y) = true ∧ ∀ j, 31 - c y < j → y.getLsbD j = false) ∧
    (∃ r : Word → Word, (LaneSets (.brev o) [o.d.toNat, o.a.toNat] [] fun th => th.setReg o.d.toNat (r (th.reg o.a.toNat))) ∧
      ∀ (y : Word) (i : Nat), i < 32 → (r y).getLsbD (31 - i) = y.getLsbD i)
end

