-- ==== Sys2Proof/Laws/Map.lean ====
section
/-! SUPPORT. The laws of numbered data: a read after a write, and the canonical form of the sparse maps. -/

namespace Sys2Proof.Machine

variable {α : Type}

@[simp] theorem Map.find?_put_self (m : Map α) (k : Nat) (v : α) : Map.find? (Map.put m k v) k = some v := by
  induction m with
  | nil => simp [Map.put, Map.find?]
  | cons e r ih =>
    unfold Map.put
    by_cases h : k < e.1
    · simp [h, Map.find?]
    · by_cases h' : e.1 = k <;> simp [h, h', Map.find?, ih]

theorem Map.find?_put_ne (m : Map α) {k j : Nat} (v : α) (h : j ≠ k) : Map.find? (Map.put m k v) j = Map.find? m j := by
  induction m with
  | nil => simp [Map.put, Map.find?, Ne.symm h]
  | cons e r ih =>
    unfold Map.put
    by_cases h1 : k < e.1
    · simp [h1, Map.find?, Ne.symm h]
    · by_cases h2 : e.1 = k
      · simp [h2, Map.find?, Ne.symm h]
      · rw [if_neg h1, if_neg h2]; by_cases h3 : e.1 = j <;> simp [h3, Map.find?, ih]

@[simp] theorem Map.get_put_self (d : α) (m : Map α) (k : Nat) (v : α) : Map.get d (Map.put m k v) k = v := by
  induction m with
  | nil => simp [Map.put, Map.get]
  | cons e r ih =>
    unfold Map.put
    by_cases h : k < e.1
    · simp [h, Map.get]
    · by_cases h' : e.1 = k <;> simp [h, h', Map.get, ih]

theorem Map.get_put_ne (d : α) (m : Map α) {k j : Nat} (v : α) (h : j ≠ k) : Map.get d (Map.put m k v) j = Map.get d m j := by
  induction m with
  | nil => simp [Map.put, Map.get, Ne.symm h]
  | cons e r ih =>
    unfold Map.put
    by_cases h1 : k < e.1
    · simp [h1, Map.get, Ne.symm h]
    · by_cases h2 : e.1 = k
      · simp [h2, Map.get, Ne.symm h]
      · rw [if_neg h1, if_neg h2]; by_cases h3 : e.1 = j <;> simp [h3, Map.get, ih]

theorem Map.get_filter_keep (d : α) (m : Map α) (q : Nat → Bool) {j : Nat} (h : q j = true) :
    Map.get d (m.filter fun e => q e.1) j = Map.get d m j := by
  induction m with
  | nil => rfl
  | cons e r ih =>
    by_cases h1 : e.1 = j
    · subst h1; simp [h, Map.get]
    · by_cases h2 : q e.1 = true
      · simp [h2, h1, Map.get, ih]
      · simp [h2, h1, Map.get, ih]

theorem Map.get_filter_drop (d : α) (m : Map α) (q : Nat → Bool) {j : Nat} (h : q j = false) :
    Map.get d (m.filter fun e => q e.1) j = d := by
  induction m with
  | nil => rfl
  | cons e r ih =>
    by_cases h2 : q e.1 = true
    · have h1 : e.1 ≠ j := fun hc => by simp [hc, h] at h2
      simp [h2, h1, Map.get, ih]
    · simp [h2, ih]

@[simp] theorem Map.get_erase_self (d : α) (m : Map α) (k : Nat) : Map.get d (Map.erase m k) k = d :=
  Map.get_filter_drop d m (fun x => decide (x ≠ k)) (by simp)

theorem Map.get_erase_ne (d : α) (m : Map α) {k j : Nat} (h : j ≠ k) : Map.get d (Map.erase m k) j = Map.get d m j :=
  Map.get_filter_keep d m (fun x => decide (x ≠ k)) (by simp [h])

@[simp] theorem Map.get_set_self [DecidableEq α] (d : α) (m : Map α) (k : Nat) (v : α) : Map.get d (Map.set d m k v) k = v := by
  unfold Map.set
  split
  · next h => simp [h]
  · simp

theorem Map.get_set_ne [DecidableEq α] (d : α) (m : Map α) {k j : Nat} (v : α) (h : j ≠ k) :
    Map.get d (Map.set d m k v) j = Map.get d m j := by
  unfold Map.set
  split
  · exact Map.get_erase_ne d m h
  · exact Map.get_put_ne d m v h

theorem Map.find?_modify_ne (m : Map α) {k j : Nat} (f : α → α) (h : j ≠ k) : Map.find? (Map.modify m k f) j = Map.find? m j := by
  unfold Map.modify
  split
  · rfl
  · exact Map.find?_put_ne m _ h

/-! ## The canonical form -/

theorem Map.risingFrom_weaken {m : Map α} {lo lo' : Nat} (h : Map.risingFrom lo m = true) (hl : lo' ≤ lo) : Map.risingFrom lo' m = true := by
  cases m with
  | nil => rfl
  | cons e r => simp only [Map.risingFrom, Bool.and_eq_true, decide_eq_true_eq] at h ⊢; exact ⟨by omega, h.2⟩

theorem Map.risingFrom_filter {m : Map α} {lo : Nat} (q : Nat × α → Bool) (h : Map.risingFrom lo m = true) :
    Map.risingFrom lo (m.filter q) = true := by
  induction m generalizing lo with
  | nil => rfl
  | cons e r ih =>
    simp only [Map.risingFrom, Bool.and_eq_true, decide_eq_true_eq] at h
    have hr := ih h.2
    by_cases hq : q e = true
    · simp only [List.filter_cons_of_pos hq, Map.risingFrom, Bool.and_eq_true, decide_eq_true_eq]; exact ⟨h.1, hr⟩
    · simp only [List.filter_cons_of_neg hq]; exact Map.risingFrom_weaken hr (by omega)

theorem Map.risingFrom_put {m : Map α} {lo k : Nat} (v : α) (h : Map.risingFrom lo m = true) (hk : lo ≤ k) :
    Map.risingFrom lo (Map.put m k v) = true := by
  induction m generalizing lo with
  | nil => simp [Map.put, Map.risingFrom, hk]
  | cons e r ih =>
    simp only [Map.risingFrom, Bool.and_eq_true, decide_eq_true_eq] at h
    unfold Map.put
    by_cases h1 : k < e.1
    · rw [if_pos h1]
      simp only [Map.risingFrom, Bool.and_eq_true, decide_eq_true_eq]
      exact ⟨hk, by omega, h.2⟩
    · rw [if_neg h1]
      by_cases h2 : e.1 = k
      · rw [if_pos h2]; simp only [Map.risingFrom, Bool.and_eq_true, decide_eq_true_eq]; exact ⟨hk, h2 ▸ h.2⟩
      · rw [if_neg h2]
        simp only [Map.risingFrom, Bool.and_eq_true, decide_eq_true_eq]
        exact ⟨h.1, ih h.2 (by omega)⟩

theorem Map.mem_put {m : Map α} {k : Nat} {v : α} {e : Nat × α} (h : e ∈ Map.put m k v) : e = (k, v) ∨ e ∈ m := by
  induction m with
  | nil => simpa [Map.put] using h
  | cons x r ih =>
    unfold Map.put at h
    split at h
    · simpa using h
    · split at h
      · rcases List.mem_cons.mp h with h | h
        · exact .inl h
        · exact .inr (List.mem_cons_of_mem _ h)
      · rcases List.mem_cons.mp h with h | h
        · exact .inr (h ▸ List.mem_cons_self)
        · exact (ih h).imp id (List.mem_cons_of_mem _)

theorem Map.wf_filter [DecidableEq α] {d : α} {m : Map α} (q : Nat × α → Bool) (h : Map.wf d m = true) : Map.wf d (m.filter q) = true := by
  simp only [Map.wf, Map.rising, Bool.and_eq_true, List.all_eq_true] at h ⊢
  exact ⟨Map.risingFrom_filter q h.1, fun e he => h.2 e (List.mem_filter.mp he).1⟩

theorem Map.wf_set [DecidableEq α] {d : α} {m : Map α} (k : Nat) (v : α) (h : Map.wf d m = true) : Map.wf d (Map.set d m k v) = true := by
  unfold Map.set
  split
  · exact Map.wf_filter _ h
  · next hv =>
    simp only [Map.wf, Map.rising, Bool.and_eq_true, List.all_eq_true] at h ⊢
    refine ⟨Map.risingFrom_put v h.1 (Nat.zero_le k), fun e he => ?_⟩
    rcases Map.mem_put he with rfl | he
    · simpa using hv
    · exact h.2 e he

/-- Two maps in canonical form that read alike are the same data. -/
theorem Map.risingFrom_get_lt {d : α} {m : Map α} {lo j : Nat} (h : Map.risingFrom lo m = true) (hj : j < lo) : Map.get d m j = d := by
  induction m generalizing lo with
  | nil => rfl
  | cons e r ih =>
    simp only [Map.risingFrom, Bool.and_eq_true, decide_eq_true_eq] at h
    have : e.1 ≠ j := by omega
    simp only [Map.get, if_neg this]
    exact ih h.2 (by omega)

theorem Map.ext_from [DecidableEq α] {d : α} {m m' : Map α} {lo lo' : Nat} (h : Map.risingFrom lo m = true) (h' : Map.risingFrom lo' m' = true)
    (hn : ∀ e ∈ m, e.2 ≠ d) (hn' : ∀ e ∈ m', e.2 ≠ d) (hg : ∀ k, Map.get d m k = Map.get d m' k) : m = m' := by
  induction m generalizing lo lo' m' with
  | nil =>
    cases m' with
    | nil => rfl
    | cons e r =>
      have := hg e.1
      simp only [Map.get, if_true] at this
      exact absurd this.symm (hn' e List.mem_cons_self)
  | cons e r ih =>
    cases m' with
    | nil =>
      have := hg e.1
      simp only [Map.get, if_true] at this
      exact absurd this (hn e List.mem_cons_self)
    | cons e' r' =>
      simp only [Map.risingFrom, Bool.and_eq_true, decide_eq_true_eq] at h h'
      have hk : e.1 = e'.1 := by
        rcases Nat.lt_trichotomy e.1 e'.1 with hlt | heq | hgt
        · have h1 := hg e.1
          simp only [Map.get, if_true, if_neg (show e'.1 ≠ e.1 by omega)] at h1
          rw [Map.risingFrom_get_lt h'.2 (by omega)] at h1
          exact absurd h1 (hn e List.mem_cons_self)
        · exact heq
        · have h1 := hg e'.1
          simp only [Map.get, if_true, if_neg (show e.1 ≠ e'.1 by omega)] at h1
          rw [Map.risingFrom_get_lt h.2 (by omega)] at h1
          exact absurd h1.symm (hn' e' List.mem_cons_self)
      have hv : e.2 = e'.2 := by
        have h1 := hg e.1
        simp only [Map.get, if_true, if_pos hk.symm] at h1
        exact h1
      have hr : r = r' := ih h.2 h'.2 (fun x hx => hn x (List.mem_cons_of_mem _ hx)) (fun x hx => hn' x (List.mem_cons_of_mem _ hx)) fun k => by
        by_cases hke : e.1 = k
        · subst hke
          rw [Map.risingFrom_get_lt h.2 (by omega), Map.risingFrom_get_lt h'.2 (by omega)]
        · have h1 := hg k
          simp only [Map.get, if_neg hke, if_neg (hk ▸ hke : e'.1 ≠ k)] at h1
          exact h1
      exact List.cons_eq_cons.mpr ⟨Prod.ext hk hv, hr⟩

/-- Two sparse maps in canonical form that read alike are the same data. -/
theorem Map.wf_ext [DecidableEq α] {d : α} {m m' : Map α} (h : Map.wf d m = true) (h' : Map.wf d m' = true)
    (hg : ∀ k, Map.get d m k = Map.get d m' k) : m = m' := by
  simp only [Map.wf, Map.rising, Bool.and_eq_true, List.all_eq_true, decide_eq_true_eq] at h h'
  exact Map.ext_from h.1 h'.1 h.2 h'.2 hg

end Sys2Proof.Machine
end

