-- ==== Sys2Proof/Laws/Memory.lean ====
section
/-! SUPPORT. The laws of memory: reads after writes, the canonical form under every memory operation, little-endian values. -/

namespace Sys2Proof.Machine

@[simp] theorem Memory.get_set_self (m : List Host.Cell) (a : Nat) (b : Byte) : Memory.get (Memory.set m a b) a = b := Map.get_set_self _ _ _ _

theorem Memory.get_set_ne (m : List Host.Cell) {a x : Nat} (b : Byte) (h : x ≠ a) : Memory.get (Memory.set m a b) x = Memory.get m x :=
  Map.get_set_ne _ _ _ h

/-- A store leaves every byte outside it alone. -/
theorem Memory.get_store_out (m : List Host.Cell) (a : Nat) (bs : List Byte) {x : Nat} (h : x < a ∨ a + bs.length ≤ x) :
    Memory.get (Memory.store m a bs) x = Memory.get m x := by
  induction bs generalizing m a with
  | nil => rfl
  | cons b r ih =>
    simp only [List.length_cons] at h
    rw [Memory.store, ih _ _ (by omega), Memory.get_set_ne _ _ (by omega)]

/-- A store puts each of its bytes at its address. -/
theorem Memory.get_store_in (m : List Host.Cell) (a : Nat) (bs : List Byte) {i : Nat} (h : i < bs.length) :
    Memory.get (Memory.store m a bs) (a + i) = bs[i] := by
  induction bs generalizing m a i with
  | nil => simp at h
  | cons b r ih =>
    cases i with
    | zero => rw [Memory.store, Memory.get_store_out _ _ _ (by omega)]; simp
    | succ n =>
      simp only [List.length_cons] at h
      rw [Memory.store, show a + (n + 1) = a + 1 + n by omega, ih _ _ (by omega)]
      rfl

@[simp] theorem Memory.bytes_length (m : List Host.Cell) (a n : Nat) : (Memory.bytes m a n).length = n := by
  induction n generalizing a with
  | zero => rfl
  | succ k ih => simp [Memory.bytes, ih]

/-- What a store wrote is read back. -/
theorem Memory.bytes_store (m : List Host.Cell) (a : Nat) (bs : List Byte) : Memory.bytes (Memory.store m a bs) a bs.length = bs := by
  induction bs generalizing m a with
  | nil => rfl
  | cons b r ih =>
    simp only [List.length_cons, Memory.bytes, Memory.store, ih, Memory.get_store_out _ _ _ (show a < a + 1 ∨ _ from .inl (by omega)),
      Memory.get_set_self]

/-- A read that meets no byte of a store reads as before. -/
theorem Memory.bytes_store_out (m : List Host.Cell) (a : Nat) (bs : List Byte) {x n : Nat} (h : x + n ≤ a ∨ a + bs.length ≤ x) :
    Memory.bytes (Memory.store m a bs) x n = Memory.bytes m x n := by
  induction n generalizing x with
  | zero => rfl
  | succ k ih => rw [Memory.bytes, Memory.bytes, Memory.get_store_out _ _ _ (by omega), ih (by omega)]

/-! ## The canonical form -/

@[simp] theorem Memory.wf_nil : Memory.wf [] = true := rfl

theorem Memory.wf_set {m : List Host.Cell} (a : Nat) (b : Byte) (h : Memory.wf m = true) : Memory.wf (Memory.set m a b) = true :=
  Map.wf_set a b h

theorem Memory.wf_filter {m : List Host.Cell} (q : Host.Cell → Bool) (h : Memory.wf m = true) : Memory.wf (m.filter q) = true :=
  Map.wf_filter q h

theorem Memory.wf_store {m : List Host.Cell} (a : Nat) (bs : List Byte) (h : Memory.wf m = true) : Memory.wf (Memory.store m a bs) = true := by
  induction bs generalizing m a with
  | nil => exact h
  | cons b r ih => exact ih _ (Memory.wf_set a b h)

theorem Memory.wf_clear {m : List Host.Cell} (a n : Nat) (h : Memory.wf m = true) : Memory.wf (Memory.clear m a n) = true :=
  Memory.wf_filter _ h

theorem Memory.wf_shifted {m : List Host.Cell} (cells : List Host.Cell) (src dst : Nat) (h : Memory.wf m = true) :
    Memory.wf (Memory.shifted m cells src dst) = true := by
  induction cells generalizing m with
  | nil => exact h
  | cons c r ih => exact ih (Memory.wf_set _ _ h)

theorem Memory.wf_copy {m : List Host.Cell} (src dst n : Nat) (h : Memory.wf m = true) : Memory.wf (Memory.copy m src dst n) = true :=
  Memory.wf_shifted _ _ _ (Memory.wf_clear _ _ h)

/-- Two memories in canonical form that read alike are the same data. -/
theorem Memory.wf_ext {m m' : List Host.Cell} (h : Memory.wf m = true) (h' : Memory.wf m' = true)
    (hg : ∀ a, Memory.get m a = Memory.get m' a) : m = m' := Map.wf_ext h h' hg

/-! ## Little-endian values (R4) -/

@[simp] theorem leBytes_length (n v : Nat) : (leBytes n v).length = n := by
  induction n generalizing v with
  | zero => rfl
  | succ k ih => simp [leBytes, ih]

theorem leNat_leBytes (n v : Nat) : leNat (leBytes n v) = v % 256 ^ n := by
  induction n generalizing v with
  | zero => simp [leBytes, leNat, Nat.mod_one]
  | succ k ih =>
    simp only [leBytes, leNat, ih, BitVec.toNat_ofNat]
    rw [Nat.pow_succ' (n := k), Nat.mod_mul (a := 256)]

theorem leNat_lt (bs : List Byte) : leNat bs < 256 ^ bs.length := by
  induction bs with
  | nil => simp [leNat]
  | cons b r ih =>
    have := b.isLt
    simp only [leNat, List.length_cons, Nat.pow_succ]
    omega

end Sys2Proof.Machine
end

