-- ==== Sys2Proof/Laws/State.lean ====
section
/-! SUPPORT. What each update of the state, a team, a thread or a steering thread leaves alone, field by field, and what is read back. -/

namespace Sys2Proof.Machine

@[simp] theorem State.setTeam_clock (x : State) (t : Nat) (T : Team) : (x.setTeam t T).clock = x.clock := rfl
@[simp] theorem State.setTeam_dtime (x : State) (t : Nat) (T : Team) : (x.setTeam t T).dtime = x.dtime := rfl
@[simp] theorem State.setTeam_agenda (x : State) (t : Nat) (T : Team) : (x.setTeam t T).agenda = x.agenda := rfl
@[simp] theorem State.setTeam_freeCtr (x : State) (t : Nat) (T : Team) : (x.setTeam t T).freeCtr = x.freeCtr := rfl
@[simp] theorem State.setTeam_cur (x : State) (t : Nat) (T : Team) : (x.setTeam t T).cur = x.cur := rfl
@[simp] theorem State.setTeam_cfg (x : State) (t : Nat) (T : Team) : (x.setTeam t T).cfg = x.cfg := rfl
@[simp] theorem State.setTeam_mgmt (x : State) (t : Nat) (T : Team) : (x.setTeam t T).mgmt = x.mgmt := rfl
@[simp] theorem State.setTeam_conns (x : State) (t : Nat) (T : Team) : (x.setTeam t T).conns = x.conns := rfl
@[simp] theorem State.setTeam_endps (x : State) (t : Nat) (T : Team) : (x.setTeam t T).endps = x.endps := rfl
@[simp] theorem State.setTeam_mem (x : State) (t : Nat) (T : Team) : (x.setTeam t T).mem = x.mem := rfl
@[simp] theorem State.setTeam_oldCode (x : State) (t : Nat) (T : Team) : (x.setTeam t T).oldCode = x.oldCode := rfl
@[simp] theorem State.setTeam_past (x : State) (t : Nat) (T : Team) : (x.setTeam t T).past = x.past := rfl
@[simp] theorem State.setTeam_pastCtr (x : State) (t : Nat) (T : Team) : (x.setTeam t T).pastCtr = x.pastCtr := rfl
@[simp] theorem State.setTeam_view (x : State) (t : Nat) (T : Team) : (x.setTeam t T).view = x.view := rfl
@[simp] theorem State.setTeam_holding (x : State) (t : Nat) (T : Team) : (x.setTeam t T).holding = x.holding := rfl
@[simp] theorem State.setTeam_pending (x : State) (t : Nat) (T : Team) : (x.setTeam t T).pending = x.pending := rfl
@[simp] theorem State.setTeam_poison (x : State) (t : Nat) (T : Team) : (x.setTeam t T).poison = x.poison := rfl
@[simp] theorem State.setTeam_banks (x : State) (t : Nat) (T : Team) : (x.setTeam t T).banks = x.banks := rfl
@[simp] theorem State.setTeam_held (x : State) (t : Nat) (T : Team) : (x.setTeam t T).held = x.held := rfl
@[simp] theorem State.setTeam_ctxs (x : State) (t : Nat) (T : Team) : (x.setTeam t T).ctxs = x.ctxs := rfl
@[simp] theorem State.setTeam_phases (x : State) (t : Nat) (T : Team) : (x.setTeam t T).phases = x.phases := rfl
@[simp] theorem State.setTeam_tlbs (x : State) (t : Nat) (T : Team) : (x.setTeam t T).tlbs = x.tlbs := rfl
@[simp] theorem State.setTeam_rrc (x : State) (t : Nat) (T : Team) : (x.setTeam t T).rrc = x.rrc := rfl
@[simp] theorem State.setTeam_queues (x : State) (t : Nat) (T : Team) : (x.setTeam t T).queues = x.queues := rfl
@[simp] theorem State.setTeam_lastLaunch (x : State) (t : Nat) (T : Team) : (x.setTeam t T).lastLaunch = x.lastLaunch := rfl
@[simp] theorem State.setTeam_grids (x : State) (t : Nat) (T : Team) : (x.setTeam t T).grids = x.grids := rfl
@[simp] theorem State.setTeam_gridCtr (x : State) (t : Nat) (T : Team) : (x.setTeam t T).gridCtr = x.gridCtr := rfl
@[simp] theorem State.setTeam_acceptCtr (x : State) (t : Nat) (T : Team) : (x.setTeam t T).acceptCtr = x.acceptCtr := rfl
@[simp] theorem State.setTeam_dies (x : State) (t : Nat) (T : Team) : (x.setTeam t T).dies = x.dies := rfl
@[simp] theorem State.setTeam_teamCtr (x : State) (t : Nat) (T : Team) : (x.setTeam t T).teamCtr = x.teamCtr := rfl
@[simp] theorem State.setTeam_cores (x : State) (t : Nat) (T : Team) : (x.setTeam t T).cores = x.cores := rfl
@[simp] theorem State.setTeam_steerPtr (x : State) (t : Nat) (T : Team) : (x.setTeam t T).steerPtr = x.steerPtr := rfl
@[simp] theorem State.setTeam_claimCtr (x : State) (t : Nat) (T : Team) : (x.setTeam t T).claimCtr = x.claimCtr := rfl
@[simp] theorem State.setTeam_orderCtr (x : State) (t : Nat) (T : Team) : (x.setTeam t T).orderCtr = x.orderCtr := rfl
@[simp] theorem State.setTeam_boxes (x : State) (t : Nat) (T : Team) : (x.setTeam t T).boxes = x.boxes := rfl
@[simp] theorem State.setTeam_credits (x : State) (t : Nat) (T : Team) : (x.setTeam t T).credits = x.credits := rfl
@[simp] theorem State.setTeam_txs (x : State) (t : Nat) (T : Team) : (x.setTeam t T).txs = x.txs := rfl
@[simp] theorem State.setTeam_txCtr (x : State) (t : Nat) (T : Team) : (x.setTeam t T).txCtr = x.txCtr := rfl
@[simp] theorem State.setTeam_cells (x : State) (t : Nat) (T : Team) : (x.setTeam t T).cells = x.cells := rfl
@[simp] theorem State.setTeam_rxq (x : State) (t : Nat) (T : Team) : (x.setTeam t T).rxq = x.rxq := rfl
@[simp] theorem State.setTeam_lineJobs (x : State) (t : Nat) (T : Team) : (x.setTeam t T).lineJobs = x.lineJobs := rfl
@[simp] theorem State.setTeam_resvs (x : State) (t : Nat) (T : Team) : (x.setTeam t T).resvs = x.resvs := rfl
@[simp] theorem State.setTeam_refused (x : State) (t : Nat) (T : Team) : (x.setTeam t T).refused = x.refused := rfl
@[simp] theorem State.setTeam_opal (x : State) (t : Nat) (T : Team) : (x.setTeam t T).opal = x.opal := rfl
@[simp] theorem State.setTeam_pod (x : State) (t : Nat) (T : Team) : (x.setTeam t T).pod = x.pod := rfl
@[simp] theorem State.setTeam_rrq (x : State) (t : Nat) (T : Team) : (x.setTeam t T).rrq = x.rrq := rfl
@[simp] theorem State.setTeam_flt (x : State) (t : Nat) (T : Team) : (x.setTeam t T).flt = x.flt := rfl
@[simp] theorem State.setTeam_ctl (x : State) (t : Nat) (T : Team) : (x.setTeam t T).ctl = x.ctl := rfl
@[simp] theorem State.setTeam_out (x : State) (t : Nat) (T : Team) : (x.setTeam t T).out = x.out := rfl

@[simp] theorem State.modTeam_clock (x : State) (t : Nat) (f : Team → Team) : (x.modTeam t f).clock = x.clock := rfl
@[simp] theorem State.modTeam_dtime (x : State) (t : Nat) (f : Team → Team) : (x.modTeam t f).dtime = x.dtime := rfl
@[simp] theorem State.modTeam_agenda (x : State) (t : Nat) (f : Team → Team) : (x.modTeam t f).agenda = x.agenda := rfl
@[simp] theorem State.modTeam_freeCtr (x : State) (t : Nat) (f : Team → Team) : (x.modTeam t f).freeCtr = x.freeCtr := rfl
@[simp] theorem State.modTeam_cur (x : State) (t : Nat) (f : Team → Team) : (x.modTeam t f).cur = x.cur := rfl
@[simp] theorem State.modTeam_cfg (x : State) (t : Nat) (f : Team → Team) : (x.modTeam t f).cfg = x.cfg := rfl
@[simp] theorem State.modTeam_mgmt (x : State) (t : Nat) (f : Team → Team) : (x.modTeam t f).mgmt = x.mgmt := rfl
@[simp] theorem State.modTeam_conns (x : State) (t : Nat) (f : Team → Team) : (x.modTeam t f).conns = x.conns := rfl
@[simp] theorem State.modTeam_endps (x : State) (t : Nat) (f : Team → Team) : (x.modTeam t f).endps = x.endps := rfl
@[simp] theorem State.modTeam_mem (x : State) (t : Nat) (f : Team → Team) : (x.modTeam t f).mem = x.mem := rfl
@[simp] theorem State.modTeam_oldCode (x : State) (t : Nat) (f : Team → Team) : (x.modTeam t f).oldCode = x.oldCode := rfl
@[simp] theorem State.modTeam_past (x : State) (t : Nat) (f : Team → Team) : (x.modTeam t f).past = x.past := rfl
@[simp] theorem State.modTeam_pastCtr (x : State) (t : Nat) (f : Team → Team) : (x.modTeam t f).pastCtr = x.pastCtr := rfl
@[simp] theorem State.modTeam_view (x : State) (t : Nat) (f : Team → Team) : (x.modTeam t f).view = x.view := rfl
@[simp] theorem State.modTeam_holding (x : State) (t : Nat) (f : Team → Team) : (x.modTeam t f).holding = x.holding := rfl
@[simp] theorem State.modTeam_pending (x : State) (t : Nat) (f : Team → Team) : (x.modTeam t f).pending = x.pending := rfl
@[simp] theorem State.modTeam_poison (x : State) (t : Nat) (f : Team → Team) : (x.modTeam t f).poison = x.poison := rfl
@[simp] theorem State.modTeam_banks (x : State) (t : Nat) (f : Team → Team) : (x.modTeam t f).banks = x.banks := rfl
@[simp] theorem State.modTeam_held (x : State) (t : Nat) (f : Team → Team) : (x.modTeam t f).held = x.held := rfl
@[simp] theorem State.modTeam_ctxs (x : State) (t : Nat) (f : Team → Team) : (x.modTeam t f).ctxs = x.ctxs := rfl
@[simp] theorem State.modTeam_phases (x : State) (t : Nat) (f : Team → Team) : (x.modTeam t f).phases = x.phases := rfl
@[simp] theorem State.modTeam_tlbs (x : State) (t : Nat) (f : Team → Team) : (x.modTeam t f).tlbs = x.tlbs := rfl
@[simp] theorem State.modTeam_rrc (x : State) (t : Nat) (f : Team → Team) : (x.modTeam t f).rrc = x.rrc := rfl
@[simp] theorem State.modTeam_queues (x : State) (t : Nat) (f : Team → Team) : (x.modTeam t f).queues = x.queues := rfl
@[simp] theorem State.modTeam_lastLaunch (x : State) (t : Nat) (f : Team → Team) : (x.modTeam t f).lastLaunch = x.lastLaunch := rfl
@[simp] theorem State.modTeam_grids (x : State) (t : Nat) (f : Team → Team) : (x.modTeam t f).grids = x.grids := rfl
@[simp] theorem State.modTeam_gridCtr (x : State) (t : Nat) (f : Team → Team) : (x.modTeam t f).gridCtr = x.gridCtr := rfl
@[simp] theorem State.modTeam_acceptCtr (x : State) (t : Nat) (f : Team → Team) : (x.modTeam t f).acceptCtr = x.acceptCtr := rfl
@[simp] theorem State.modTeam_dies (x : State) (t : Nat) (f : Team → Team) : (x.modTeam t f).dies = x.dies := rfl
@[simp] theorem State.modTeam_teamCtr (x : State) (t : Nat) (f : Team → Team) : (x.modTeam t f).teamCtr = x.teamCtr := rfl
@[simp] theorem State.modTeam_cores (x : State) (t : Nat) (f : Team → Team) : (x.modTeam t f).cores = x.cores := rfl
@[simp] theorem State.modTeam_steerPtr (x : State) (t : Nat) (f : Team → Team) : (x.modTeam t f).steerPtr = x.steerPtr := rfl
@[simp] theorem State.modTeam_claimCtr (x : State) (t : Nat) (f : Team → Team) : (x.modTeam t f).claimCtr = x.claimCtr := rfl
@[simp] theorem State.modTeam_orderCtr (x : State) (t : Nat) (f : Team → Team) : (x.modTeam t f).orderCtr = x.orderCtr := rfl
@[simp] theorem State.modTeam_boxes (x : State) (t : Nat) (f : Team → Team) : (x.modTeam t f).boxes = x.boxes := rfl
@[simp] theorem State.modTeam_credits (x : State) (t : Nat) (f : Team → Team) : (x.modTeam t f).credits = x.credits := rfl
@[simp] theorem State.modTeam_txs (x : State) (t : Nat) (f : Team → Team) : (x.modTeam t f).txs = x.txs := rfl
@[simp] theorem State.modTeam_txCtr (x : State) (t : Nat) (f : Team → Team) : (x.modTeam t f).txCtr = x.txCtr := rfl
@[simp] theorem State.modTeam_cells (x : State) (t : Nat) (f : Team → Team) : (x.modTeam t f).cells = x.cells := rfl
@[simp] theorem State.modTeam_rxq (x : State) (t : Nat) (f : Team → Team) : (x.modTeam t f).rxq = x.rxq := rfl
@[simp] theorem State.modTeam_lineJobs (x : State) (t : Nat) (f : Team → Team) : (x.modTeam t f).lineJobs = x.lineJobs := rfl
@[simp] theorem State.modTeam_resvs (x : State) (t : Nat) (f : Team → Team) : (x.modTeam t f).resvs = x.resvs := rfl
@[simp] theorem State.modTeam_refused (x : State) (t : Nat) (f : Team → Team) : (x.modTeam t f).refused = x.refused := rfl
@[simp] theorem State.modTeam_opal (x : State) (t : Nat) (f : Team → Team) : (x.modTeam t f).opal = x.opal := rfl
@[simp] theorem State.modTeam_pod (x : State) (t : Nat) (f : Team → Team) : (x.modTeam t f).pod = x.pod := rfl
@[simp] theorem State.modTeam_rrq (x : State) (t : Nat) (f : Team → Team) : (x.modTeam t f).rrq = x.rrq := rfl
@[simp] theorem State.modTeam_flt (x : State) (t : Nat) (f : Team → Team) : (x.modTeam t f).flt = x.flt := rfl
@[simp] theorem State.modTeam_ctl (x : State) (t : Nat) (f : Team → Team) : (x.modTeam t f).ctl = x.ctl := rfl
@[simp] theorem State.modTeam_out (x : State) (t : Nat) (f : Team → Team) : (x.modTeam t f).out = x.out := rfl

@[simp] theorem State.setThread_clock (x : State) (t : Nat) (T : Team) (tid : Nat) (th : Thread) : (x.setThread t T tid th).clock = x.clock := rfl
@[simp] theorem State.setThread_dtime (x : State) (t : Nat) (T : Team) (tid : Nat) (th : Thread) : (x.setThread t T tid th).dtime = x.dtime := rfl
@[simp] theorem State.setThread_agenda (x : State) (t : Nat) (T : Team) (tid : Nat) (th : Thread) : (x.setThread t T tid th).agenda = x.agenda := rfl
@[simp] theorem State.setThread_freeCtr (x : State) (t : Nat) (T : Team) (tid : Nat) (th : Thread) : (x.setThread t T tid th).freeCtr = x.freeCtr := rfl
@[simp] theorem State.setThread_cur (x : State) (t : Nat) (T : Team) (tid : Nat) (th : Thread) : (x.setThread t T tid th).cur = x.cur := rfl
@[simp] theorem State.setThread_cfg (x : State) (t : Nat) (T : Team) (tid : Nat) (th : Thread) : (x.setThread t T tid th).cfg = x.cfg := rfl
@[simp] theorem State.setThread_mgmt (x : State) (t : Nat) (T : Team) (tid : Nat) (th : Thread) : (x.setThread t T tid th).mgmt = x.mgmt := rfl
@[simp] theorem State.setThread_conns (x : State) (t : Nat) (T : Team) (tid : Nat) (th : Thread) : (x.setThread t T tid th).conns = x.conns := rfl
@[simp] theorem State.setThread_endps (x : State) (t : Nat) (T : Team) (tid : Nat) (th : Thread) : (x.setThread t T tid th).endps = x.endps := rfl
@[simp] theorem State.setThread_mem (x : State) (t : Nat) (T : Team) (tid : Nat) (th : Thread) : (x.setThread t T tid th).mem = x.mem := rfl
@[simp] theorem State.setThread_oldCode (x : State) (t : Nat) (T : Team) (tid : Nat) (th : Thread) : (x.setThread t T tid th).oldCode = x.oldCode := rfl
@[simp] theorem State.setThread_past (x : State) (t : Nat) (T : Team) (tid : Nat) (th : Thread) : (x.setThread t T tid th).past = x.past := rfl
@[simp] theorem State.setThread_pastCtr (x : State) (t : Nat) (T : Team) (tid : Nat) (th : Thread) : (x.setThread t T tid th).pastCtr = x.pastCtr := rfl
@[simp] theorem State.setThread_view (x : State) (t : Nat) (T : Team) (tid : Nat) (th : Thread) : (x.setThread t T tid th).view = x.view := rfl
@[simp] theorem State.setThread_holding (x : State) (t : Nat) (T : Team) (tid : Nat) (th : Thread) : (x.setThread t T tid th).holding = x.holding := rfl
@[simp] theorem State.setThread_pending (x : State) (t : Nat) (T : Team) (tid : Nat) (th : Thread) : (x.setThread t T tid th).pending = x.pending := rfl
@[simp] theorem State.setThread_poison (x : State) (t : Nat) (T : Team) (tid : Nat) (th : Thread) : (x.setThread t T tid th).poison = x.poison := rfl
@[simp] theorem State.setThread_banks (x : State) (t : Nat) (T : Team) (tid : Nat) (th : Thread) : (x.setThread t T tid th).banks = x.banks := rfl
@[simp] theorem State.setThread_held (x : State) (t : Nat) (T : Team) (tid : Nat) (th : Thread) : (x.setThread t T tid th).held = x.held := rfl
@[simp] theorem State.setThread_ctxs (x : State) (t : Nat) (T : Team) (tid : Nat) (th : Thread) : (x.setThread t T tid th).ctxs = x.ctxs := rfl
@[simp] theorem State.setThread_phases (x : State) (t : Nat) (T : Team) (tid : Nat) (th : Thread) : (x.setThread t T tid th).phases = x.phases := rfl
@[simp] theorem State.setThread_tlbs (x : State) (t : Nat) (T : Team) (tid : Nat) (th : Thread) : (x.setThread t T tid th).tlbs = x.tlbs := rfl
@[simp] theorem State.setThread_rrc (x : State) (t : Nat) (T : Team) (tid : Nat) (th : Thread) : (x.setThread t T tid th).rrc = x.rrc := rfl
@[simp] theorem State.setThread_queues (x : State) (t : Nat) (T : Team) (tid : Nat) (th : Thread) : (x.setThread t T tid th).queues = x.queues := rfl
@[simp] theorem State.setThread_lastLaunch (x : State) (t : Nat) (T : Team) (tid : Nat) (th : Thread) : (x.setThread t T tid th).lastLaunch = x.lastLaunch := rfl
@[simp] theorem State.setThread_grids (x : State) (t : Nat) (T : Team) (tid : Nat) (th : Thread) : (x.setThread t T tid th).grids = x.grids := rfl
@[simp] theorem State.setThread_gridCtr (x : State) (t : Nat) (T : Team) (tid : Nat) (th : Thread) : (x.setThread t T tid th).gridCtr = x.gridCtr := rfl
@[simp] theorem State.setThread_acceptCtr (x : State) (t : Nat) (T : Team) (tid : Nat) (th : Thread) : (x.setThread t T tid th).acceptCtr = x.acceptCtr := rfl
@[simp] theorem State.setThread_dies (x : State) (t : Nat) (T : Team) (tid : Nat) (th : Thread) : (x.setThread t T tid th).dies = x.dies := rfl
@[simp] theorem State.setThread_teamCtr (x : State) (t : Nat) (T : Team) (tid : Nat) (th : Thread) : (x.setThread t T tid th).teamCtr = x.teamCtr := rfl
@[simp] theorem State.setThread_cores (x : State) (t : Nat) (T : Team) (tid : Nat) (th : Thread) : (x.setThread t T tid th).cores = x.cores := rfl
@[simp] theorem State.setThread_steerPtr (x : State) (t : Nat) (T : Team) (tid : Nat) (th : Thread) : (x.setThread t T tid th).steerPtr = x.steerPtr := rfl
@[simp] theorem State.setThread_claimCtr (x : State) (t : Nat) (T : Team) (tid : Nat) (th : Thread) : (x.setThread t T tid th).claimCtr = x.claimCtr := rfl
@[simp] theorem State.setThread_orderCtr (x : State) (t : Nat) (T : Team) (tid : Nat) (th : Thread) : (x.setThread t T tid th).orderCtr = x.orderCtr := rfl
@[simp] theorem State.setThread_boxes (x : State) (t : Nat) (T : Team) (tid : Nat) (th : Thread) : (x.setThread t T tid th).boxes = x.boxes := rfl
@[simp] theorem State.setThread_credits (x : State) (t : Nat) (T : Team) (tid : Nat) (th : Thread) : (x.setThread t T tid th).credits = x.credits := rfl
@[simp] theorem State.setThread_txs (x : State) (t : Nat) (T : Team) (tid : Nat) (th : Thread) : (x.setThread t T tid th).txs = x.txs := rfl
@[simp] theorem State.setThread_txCtr (x : State) (t : Nat) (T : Team) (tid : Nat) (th : Thread) : (x.setThread t T tid th).txCtr = x.txCtr := rfl
@[simp] theorem State.setThread_cells (x : State) (t : Nat) (T : Team) (tid : Nat) (th : Thread) : (x.setThread t T tid th).cells = x.cells := rfl
@[simp] theorem State.setThread_rxq (x : State) (t : Nat) (T : Team) (tid : Nat) (th : Thread) : (x.setThread t T tid th).rxq = x.rxq := rfl
@[simp] theorem State.setThread_lineJobs (x : State) (t : Nat) (T : Team) (tid : Nat) (th : Thread) : (x.setThread t T tid th).lineJobs = x.lineJobs := rfl
@[simp] theorem State.setThread_resvs (x : State) (t : Nat) (T : Team) (tid : Nat) (th : Thread) : (x.setThread t T tid th).resvs = x.resvs := rfl
@[simp] theorem State.setThread_refused (x : State) (t : Nat) (T : Team) (tid : Nat) (th : Thread) : (x.setThread t T tid th).refused = x.refused := rfl
@[simp] theorem State.setThread_opal (x : State) (t : Nat) (T : Team) (tid : Nat) (th : Thread) : (x.setThread t T tid th).opal = x.opal := rfl
@[simp] theorem State.setThread_pod (x : State) (t : Nat) (T : Team) (tid : Nat) (th : Thread) : (x.setThread t T tid th).pod = x.pod := rfl
@[simp] theorem State.setThread_rrq (x : State) (t : Nat) (T : Team) (tid : Nat) (th : Thread) : (x.setThread t T tid th).rrq = x.rrq := rfl
@[simp] theorem State.setThread_flt (x : State) (t : Nat) (T : Team) (tid : Nat) (th : Thread) : (x.setThread t T tid th).flt = x.flt := rfl
@[simp] theorem State.setThread_ctl (x : State) (t : Nat) (T : Team) (tid : Nat) (th : Thread) : (x.setThread t T tid th).ctl = x.ctl := rfl
@[simp] theorem State.setThread_out (x : State) (t : Nat) (T : Team) (tid : Nat) (th : Thread) : (x.setThread t T tid th).out = x.out := rfl

@[simp] theorem State.modThread_clock (x : State) (t tid : Nat) (f : Thread → Thread) : (x.modThread t tid f).clock = x.clock := rfl
@[simp] theorem State.modThread_dtime (x : State) (t tid : Nat) (f : Thread → Thread) : (x.modThread t tid f).dtime = x.dtime := rfl
@[simp] theorem State.modThread_agenda (x : State) (t tid : Nat) (f : Thread → Thread) : (x.modThread t tid f).agenda = x.agenda := rfl
@[simp] theorem State.modThread_freeCtr (x : State) (t tid : Nat) (f : Thread → Thread) : (x.modThread t tid f).freeCtr = x.freeCtr := rfl
@[simp] theorem State.modThread_cur (x : State) (t tid : Nat) (f : Thread → Thread) : (x.modThread t tid f).cur = x.cur := rfl
@[simp] theorem State.modThread_cfg (x : State) (t tid : Nat) (f : Thread → Thread) : (x.modThread t tid f).cfg = x.cfg := rfl
@[simp] theorem State.modThread_mgmt (x : State) (t tid : Nat) (f : Thread → Thread) : (x.modThread t tid f).mgmt = x.mgmt := rfl
@[simp] theorem State.modThread_conns (x : State) (t tid : Nat) (f : Thread → Thread) : (x.modThread t tid f).conns = x.conns := rfl
@[simp] theorem State.modThread_endps (x : State) (t tid : Nat) (f : Thread → Thread) : (x.modThread t tid f).endps = x.endps := rfl
@[simp] theorem State.modThread_mem (x : State) (t tid : Nat) (f : Thread → Thread) : (x.modThread t tid f).mem = x.mem := rfl
@[simp] theorem State.modThread_oldCode (x : State) (t tid : Nat) (f : Thread → Thread) : (x.modThread t tid f).oldCode = x.oldCode := rfl
@[simp] theorem State.modThread_past (x : State) (t tid : Nat) (f : Thread → Thread) : (x.modThread t tid f).past = x.past := rfl
@[simp] theorem State.modThread_pastCtr (x : State) (t tid : Nat) (f : Thread → Thread) : (x.modThread t tid f).pastCtr = x.pastCtr := rfl
@[simp] theorem State.modThread_view (x : State) (t tid : Nat) (f : Thread → Thread) : (x.modThread t tid f).view = x.view := rfl
@[simp] theorem State.modThread_holding (x : State) (t tid : Nat) (f : Thread → Thread) : (x.modThread t tid f).holding = x.holding := rfl
@[simp] theorem State.modThread_pending (x : State) (t tid : Nat) (f : Thread → Thread) : (x.modThread t tid f).pending = x.pending := rfl
@[simp] theorem State.modThread_poison (x : State) (t tid : Nat) (f : Thread → Thread) : (x.modThread t tid f).poison = x.poison := rfl
@[simp] theorem State.modThread_banks (x : State) (t tid : Nat) (f : Thread → Thread) : (x.modThread t tid f).banks = x.banks := rfl
@[simp] theorem State.modThread_held (x : State) (t tid : Nat) (f : Thread → Thread) : (x.modThread t tid f).held = x.held := rfl
@[simp] theorem State.modThread_ctxs (x : State) (t tid : Nat) (f : Thread → Thread) : (x.modThread t tid f).ctxs = x.ctxs := rfl
@[simp] theorem State.modThread_phases (x : State) (t tid : Nat) (f : Thread → Thread) : (x.modThread t tid f).phases = x.phases := rfl
@[simp] theorem State.modThread_tlbs (x : State) (t tid : Nat) (f : Thread → Thread) : (x.modThread t tid f).tlbs = x.tlbs := rfl
@[simp] theorem State.modThread_rrc (x : State) (t tid : Nat) (f : Thread → Thread) : (x.modThread t tid f).rrc = x.rrc := rfl
@[simp] theorem State.modThread_queues (x : State) (t tid : Nat) (f : Thread → Thread) : (x.modThread t tid f).queues = x.queues := rfl
@[simp] theorem State.modThread_lastLaunch (x : State) (t tid : Nat) (f : Thread → Thread) : (x.modThread t tid f).lastLaunch = x.lastLaunch := rfl
@[simp] theorem State.modThread_grids (x : State) (t tid : Nat) (f : Thread → Thread) : (x.modThread t tid f).grids = x.grids := rfl
@[simp] theorem State.modThread_gridCtr (x : State) (t tid : Nat) (f : Thread → Thread) : (x.modThread t tid f).gridCtr = x.gridCtr := rfl
@[simp] theorem State.modThread_acceptCtr (x : State) (t tid : Nat) (f : Thread → Thread) : (x.modThread t tid f).acceptCtr = x.acceptCtr := rfl
@[simp] theorem State.modThread_dies (x : State) (t tid : Nat) (f : Thread → Thread) : (x.modThread t tid f).dies = x.dies := rfl
@[simp] theorem State.modThread_teamCtr (x : State) (t tid : Nat) (f : Thread → Thread) : (x.modThread t tid f).teamCtr = x.teamCtr := rfl
@[simp] theorem State.modThread_cores (x : State) (t tid : Nat) (f : Thread → Thread) : (x.modThread t tid f).cores = x.cores := rfl
@[simp] theorem State.modThread_steerPtr (x : State) (t tid : Nat) (f : Thread → Thread) : (x.modThread t tid f).steerPtr = x.steerPtr := rfl
@[simp] theorem State.modThread_claimCtr (x : State) (t tid : Nat) (f : Thread → Thread) : (x.modThread t tid f).claimCtr = x.claimCtr := rfl
@[simp] theorem State.modThread_orderCtr (x : State) (t tid : Nat) (f : Thread → Thread) : (x.modThread t tid f).orderCtr = x.orderCtr := rfl
@[simp] theorem State.modThread_boxes (x : State) (t tid : Nat) (f : Thread → Thread) : (x.modThread t tid f).boxes = x.boxes := rfl
@[simp] theorem State.modThread_credits (x : State) (t tid : Nat) (f : Thread → Thread) : (x.modThread t tid f).credits = x.credits := rfl
@[simp] theorem State.modThread_txs (x : State) (t tid : Nat) (f : Thread → Thread) : (x.modThread t tid f).txs = x.txs := rfl
@[simp] theorem State.modThread_txCtr (x : State) (t tid : Nat) (f : Thread → Thread) : (x.modThread t tid f).txCtr = x.txCtr := rfl
@[simp] theorem State.modThread_cells (x : State) (t tid : Nat) (f : Thread → Thread) : (x.modThread t tid f).cells = x.cells := rfl
@[simp] theorem State.modThread_rxq (x : State) (t tid : Nat) (f : Thread → Thread) : (x.modThread t tid f).rxq = x.rxq := rfl
@[simp] theorem State.modThread_lineJobs (x : State) (t tid : Nat) (f : Thread → Thread) : (x.modThread t tid f).lineJobs = x.lineJobs := rfl
@[simp] theorem State.modThread_resvs (x : State) (t tid : Nat) (f : Thread → Thread) : (x.modThread t tid f).resvs = x.resvs := rfl
@[simp] theorem State.modThread_refused (x : State) (t tid : Nat) (f : Thread → Thread) : (x.modThread t tid f).refused = x.refused := rfl
@[simp] theorem State.modThread_opal (x : State) (t tid : Nat) (f : Thread → Thread) : (x.modThread t tid f).opal = x.opal := rfl
@[simp] theorem State.modThread_pod (x : State) (t tid : Nat) (f : Thread → Thread) : (x.modThread t tid f).pod = x.pod := rfl
@[simp] theorem State.modThread_rrq (x : State) (t tid : Nat) (f : Thread → Thread) : (x.modThread t tid f).rrq = x.rrq := rfl
@[simp] theorem State.modThread_flt (x : State) (t tid : Nat) (f : Thread → Thread) : (x.modThread t tid f).flt = x.flt := rfl
@[simp] theorem State.modThread_ctl (x : State) (t tid : Nat) (f : Thread → Thread) : (x.modThread t tid f).ctl = x.ctl := rfl
@[simp] theorem State.modThread_out (x : State) (t tid : Nat) (f : Thread → Thread) : (x.modThread t tid f).out = x.out := rfl

@[simp] theorem State.setSteer_clock (x : State) (t : Nat) (T : Team) (st : Steer) : (x.setSteer t T st).clock = x.clock := rfl
@[simp] theorem State.setSteer_dtime (x : State) (t : Nat) (T : Team) (st : Steer) : (x.setSteer t T st).dtime = x.dtime := rfl
@[simp] theorem State.setSteer_agenda (x : State) (t : Nat) (T : Team) (st : Steer) : (x.setSteer t T st).agenda = x.agenda := rfl
@[simp] theorem State.setSteer_freeCtr (x : State) (t : Nat) (T : Team) (st : Steer) : (x.setSteer t T st).freeCtr = x.freeCtr := rfl
@[simp] theorem State.setSteer_cur (x : State) (t : Nat) (T : Team) (st : Steer) : (x.setSteer t T st).cur = x.cur := rfl
@[simp] theorem State.setSteer_cfg (x : State) (t : Nat) (T : Team) (st : Steer) : (x.setSteer t T st).cfg = x.cfg := rfl
@[simp] theorem State.setSteer_mgmt (x : State) (t : Nat) (T : Team) (st : Steer) : (x.setSteer t T st).mgmt = x.mgmt := rfl
@[simp] theorem State.setSteer_conns (x : State) (t : Nat) (T : Team) (st : Steer) : (x.setSteer t T st).conns = x.conns := rfl
@[simp] theorem State.setSteer_endps (x : State) (t : Nat) (T : Team) (st : Steer) : (x.setSteer t T st).endps = x.endps := rfl
@[simp] theorem State.setSteer_mem (x : State) (t : Nat) (T : Team) (st : Steer) : (x.setSteer t T st).mem = x.mem := rfl
@[simp] theorem State.setSteer_oldCode (x : State) (t : Nat) (T : Team) (st : Steer) : (x.setSteer t T st).oldCode = x.oldCode := rfl
@[simp] theorem State.setSteer_past (x : State) (t : Nat) (T : Team) (st : Steer) : (x.setSteer t T st).past = x.past := rfl
@[simp] theorem State.setSteer_pastCtr (x : State) (t : Nat) (T : Team) (st : Steer) : (x.setSteer t T st).pastCtr = x.pastCtr := rfl
@[simp] theorem State.setSteer_view (x : State) (t : Nat) (T : Team) (st : Steer) : (x.setSteer t T st).view = x.view := rfl
@[simp] theorem State.setSteer_holding (x : State) (t : Nat) (T : Team) (st : Steer) : (x.setSteer t T st).holding = x.holding := rfl
@[simp] theorem State.setSteer_pending (x : State) (t : Nat) (T : Team) (st : Steer) : (x.setSteer t T st).pending = x.pending := rfl
@[simp] theorem State.setSteer_poison (x : State) (t : Nat) (T : Team) (st : Steer) : (x.setSteer t T st).poison = x.poison := rfl
@[simp] theorem State.setSteer_banks (x : State) (t : Nat) (T : Team) (st : Steer) : (x.setSteer t T st).banks = x.banks := rfl
@[simp] theorem State.setSteer_held (x : State) (t : Nat) (T : Team) (st : Steer) : (x.setSteer t T st).held = x.held := rfl
@[simp] theorem State.setSteer_ctxs (x : State) (t : Nat) (T : Team) (st : Steer) : (x.setSteer t T st).ctxs = x.ctxs := rfl
@[simp] theorem State.setSteer_phases (x : State) (t : Nat) (T : Team) (st : Steer) : (x.setSteer t T st).phases = x.phases := rfl
@[simp] theorem State.setSteer_tlbs (x : State) (t : Nat) (T : Team) (st : Steer) : (x.setSteer t T st).tlbs = x.tlbs := rfl
@[simp] theorem State.setSteer_rrc (x : State) (t : Nat) (T : Team) (st : Steer) : (x.setSteer t T st).rrc = x.rrc := rfl
@[simp] theorem State.setSteer_queues (x : State) (t : Nat) (T : Team) (st : Steer) : (x.setSteer t T st).queues = x.queues := rfl
@[simp] theorem State.setSteer_lastLaunch (x : State) (t : Nat) (T : Team) (st : Steer) : (x.setSteer t T st).lastLaunch = x.lastLaunch := rfl
@[simp] theorem State.setSteer_grids (x : State) (t : Nat) (T : Team) (st : Steer) : (x.setSteer t T st).grids = x.grids := rfl
@[simp] theorem State.setSteer_gridCtr (x : State) (t : Nat) (T : Team) (st : Steer) : (x.setSteer t T st).gridCtr = x.gridCtr := rfl
@[simp] theorem State.setSteer_acceptCtr (x : State) (t : Nat) (T : Team) (st : Steer) : (x.setSteer t T st).acceptCtr = x.acceptCtr := rfl
@[simp] theorem State.setSteer_dies (x : State) (t : Nat) (T : Team) (st : Steer) : (x.setSteer t T st).dies = x.dies := rfl
@[simp] theorem State.setSteer_teamCtr (x : State) (t : Nat) (T : Team) (st : Steer) : (x.setSteer t T st).teamCtr = x.teamCtr := rfl
@[simp] theorem State.setSteer_cores (x : State) (t : Nat) (T : Team) (st : Steer) : (x.setSteer t T st).cores = x.cores := rfl
@[simp] theorem State.setSteer_steerPtr (x : State) (t : Nat) (T : Team) (st : Steer) : (x.setSteer t T st).steerPtr = x.steerPtr := rfl
@[simp] theorem State.setSteer_claimCtr (x : State) (t : Nat) (T : Team) (st : Steer) : (x.setSteer t T st).claimCtr = x.claimCtr := rfl
@[simp] theorem State.setSteer_orderCtr (x : State) (t : Nat) (T : Team) (st : Steer) : (x.setSteer t T st).orderCtr = x.orderCtr := rfl
@[simp] theorem State.setSteer_boxes (x : State) (t : Nat) (T : Team) (st : Steer) : (x.setSteer t T st).boxes = x.boxes := rfl
@[simp] theorem State.setSteer_credits (x : State) (t : Nat) (T : Team) (st : Steer) : (x.setSteer t T st).credits = x.credits := rfl
@[simp] theorem State.setSteer_txs (x : State) (t : Nat) (T : Team) (st : Steer) : (x.setSteer t T st).txs = x.txs := rfl
@[simp] theorem State.setSteer_txCtr (x : State) (t : Nat) (T : Team) (st : Steer) : (x.setSteer t T st).txCtr = x.txCtr := rfl
@[simp] theorem State.setSteer_cells (x : State) (t : Nat) (T : Team) (st : Steer) : (x.setSteer t T st).cells = x.cells := rfl
@[simp] theorem State.setSteer_rxq (x : State) (t : Nat) (T : Team) (st : Steer) : (x.setSteer t T st).rxq = x.rxq := rfl
@[simp] theorem State.setSteer_lineJobs (x : State) (t : Nat) (T : Team) (st : Steer) : (x.setSteer t T st).lineJobs = x.lineJobs := rfl
@[simp] theorem State.setSteer_resvs (x : State) (t : Nat) (T : Team) (st : Steer) : (x.setSteer t T st).resvs = x.resvs := rfl
@[simp] theorem State.setSteer_refused (x : State) (t : Nat) (T : Team) (st : Steer) : (x.setSteer t T st).refused = x.refused := rfl
@[simp] theorem State.setSteer_opal (x : State) (t : Nat) (T : Team) (st : Steer) : (x.setSteer t T st).opal = x.opal := rfl
@[simp] theorem State.setSteer_pod (x : State) (t : Nat) (T : Team) (st : Steer) : (x.setSteer t T st).pod = x.pod := rfl
@[simp] theorem State.setSteer_rrq (x : State) (t : Nat) (T : Team) (st : Steer) : (x.setSteer t T st).rrq = x.rrq := rfl
@[simp] theorem State.setSteer_flt (x : State) (t : Nat) (T : Team) (st : Steer) : (x.setSteer t T st).flt = x.flt := rfl
@[simp] theorem State.setSteer_ctl (x : State) (t : Nat) (T : Team) (st : Steer) : (x.setSteer t T st).ctl = x.ctl := rfl
@[simp] theorem State.setSteer_out (x : State) (t : Nat) (T : Team) (st : Steer) : (x.setSteer t T st).out = x.out := rfl

@[simp] theorem State.store_clock (x : State) (a : Nat) (bs : List Byte) : (x.store a bs).clock = x.clock := rfl
@[simp] theorem State.store_dtime (x : State) (a : Nat) (bs : List Byte) : (x.store a bs).dtime = x.dtime := rfl
@[simp] theorem State.store_agenda (x : State) (a : Nat) (bs : List Byte) : (x.store a bs).agenda = x.agenda := rfl
@[simp] theorem State.store_freeCtr (x : State) (a : Nat) (bs : List Byte) : (x.store a bs).freeCtr = x.freeCtr := rfl
@[simp] theorem State.store_cur (x : State) (a : Nat) (bs : List Byte) : (x.store a bs).cur = x.cur := rfl
@[simp] theorem State.store_cfg (x : State) (a : Nat) (bs : List Byte) : (x.store a bs).cfg = x.cfg := rfl
@[simp] theorem State.store_mgmt (x : State) (a : Nat) (bs : List Byte) : (x.store a bs).mgmt = x.mgmt := rfl
@[simp] theorem State.store_conns (x : State) (a : Nat) (bs : List Byte) : (x.store a bs).conns = x.conns := rfl
@[simp] theorem State.store_endps (x : State) (a : Nat) (bs : List Byte) : (x.store a bs).endps = x.endps := rfl
@[simp] theorem State.store_view (x : State) (a : Nat) (bs : List Byte) : (x.store a bs).view = x.view := rfl
@[simp] theorem State.store_holding (x : State) (a : Nat) (bs : List Byte) : (x.store a bs).holding = x.holding := rfl
@[simp] theorem State.store_pending (x : State) (a : Nat) (bs : List Byte) : (x.store a bs).pending = x.pending := rfl
@[simp] theorem State.store_poison (x : State) (a : Nat) (bs : List Byte) : (x.store a bs).poison = x.poison := rfl
@[simp] theorem State.store_banks (x : State) (a : Nat) (bs : List Byte) : (x.store a bs).banks = x.banks := rfl
@[simp] theorem State.store_held (x : State) (a : Nat) (bs : List Byte) : (x.store a bs).held = x.held := rfl
@[simp] theorem State.store_ctxs (x : State) (a : Nat) (bs : List Byte) : (x.store a bs).ctxs = x.ctxs := rfl
@[simp] theorem State.store_phases (x : State) (a : Nat) (bs : List Byte) : (x.store a bs).phases = x.phases := rfl
@[simp] theorem State.store_tlbs (x : State) (a : Nat) (bs : List Byte) : (x.store a bs).tlbs = x.tlbs := rfl
@[simp] theorem State.store_rrc (x : State) (a : Nat) (bs : List Byte) : (x.store a bs).rrc = x.rrc := rfl
@[simp] theorem State.store_queues (x : State) (a : Nat) (bs : List Byte) : (x.store a bs).queues = x.queues := rfl
@[simp] theorem State.store_lastLaunch (x : State) (a : Nat) (bs : List Byte) : (x.store a bs).lastLaunch = x.lastLaunch := rfl
@[simp] theorem State.store_grids (x : State) (a : Nat) (bs : List Byte) : (x.store a bs).grids = x.grids := rfl
@[simp] theorem State.store_gridCtr (x : State) (a : Nat) (bs : List Byte) : (x.store a bs).gridCtr = x.gridCtr := rfl
@[simp] theorem State.store_acceptCtr (x : State) (a : Nat) (bs : List Byte) : (x.store a bs).acceptCtr = x.acceptCtr := rfl
@[simp] theorem State.store_dies (x : State) (a : Nat) (bs : List Byte) : (x.store a bs).dies = x.dies := rfl
@[simp] theorem State.store_teams (x : State) (a : Nat) (bs : List Byte) : (x.store a bs).teams = x.teams := rfl
@[simp] theorem State.store_teamCtr (x : State) (a : Nat) (bs : List Byte) : (x.store a bs).teamCtr = x.teamCtr := rfl
@[simp] theorem State.store_cores (x : State) (a : Nat) (bs : List Byte) : (x.store a bs).cores = x.cores := rfl
@[simp] theorem State.store_steerPtr (x : State) (a : Nat) (bs : List Byte) : (x.store a bs).steerPtr = x.steerPtr := rfl
@[simp] theorem State.store_claimCtr (x : State) (a : Nat) (bs : List Byte) : (x.store a bs).claimCtr = x.claimCtr := rfl
@[simp] theorem State.store_orderCtr (x : State) (a : Nat) (bs : List Byte) : (x.store a bs).orderCtr = x.orderCtr := rfl
@[simp] theorem State.store_boxes (x : State) (a : Nat) (bs : List Byte) : (x.store a bs).boxes = x.boxes := rfl
@[simp] theorem State.store_credits (x : State) (a : Nat) (bs : List Byte) : (x.store a bs).credits = x.credits := rfl
@[simp] theorem State.store_txs (x : State) (a : Nat) (bs : List Byte) : (x.store a bs).txs = x.txs := rfl
@[simp] theorem State.store_txCtr (x : State) (a : Nat) (bs : List Byte) : (x.store a bs).txCtr = x.txCtr := rfl
@[simp] theorem State.store_cells (x : State) (a : Nat) (bs : List Byte) : (x.store a bs).cells = x.cells := rfl
@[simp] theorem State.store_rxq (x : State) (a : Nat) (bs : List Byte) : (x.store a bs).rxq = x.rxq := rfl
@[simp] theorem State.store_lineJobs (x : State) (a : Nat) (bs : List Byte) : (x.store a bs).lineJobs = x.lineJobs := rfl
@[simp] theorem State.store_resvs (x : State) (a : Nat) (bs : List Byte) : (x.store a bs).resvs = x.resvs := rfl
@[simp] theorem State.store_refused (x : State) (a : Nat) (bs : List Byte) : (x.store a bs).refused = x.refused := rfl
@[simp] theorem State.store_opal (x : State) (a : Nat) (bs : List Byte) : (x.store a bs).opal = x.opal := rfl
@[simp] theorem State.store_pod (x : State) (a : Nat) (bs : List Byte) : (x.store a bs).pod = x.pod := rfl
@[simp] theorem State.store_rrq (x : State) (a : Nat) (bs : List Byte) : (x.store a bs).rrq = x.rrq := rfl
@[simp] theorem State.store_flt (x : State) (a : Nat) (bs : List Byte) : (x.store a bs).flt = x.flt := rfl
@[simp] theorem State.store_ctl (x : State) (a : Nat) (bs : List Byte) : (x.store a bs).ctl = x.ctl := rfl
@[simp] theorem State.store_out (x : State) (a : Nat) (bs : List Byte) : (x.store a bs).out = x.out := rfl

@[simp] theorem State.setBank_clock (x : State) (k : Nat) (b : Bank) : (x.setBank k b).clock = x.clock := rfl
@[simp] theorem State.setBank_dtime (x : State) (k : Nat) (b : Bank) : (x.setBank k b).dtime = x.dtime := rfl
@[simp] theorem State.setBank_agenda (x : State) (k : Nat) (b : Bank) : (x.setBank k b).agenda = x.agenda := rfl
@[simp] theorem State.setBank_freeCtr (x : State) (k : Nat) (b : Bank) : (x.setBank k b).freeCtr = x.freeCtr := rfl
@[simp] theorem State.setBank_cur (x : State) (k : Nat) (b : Bank) : (x.setBank k b).cur = x.cur := rfl
@[simp] theorem State.setBank_cfg (x : State) (k : Nat) (b : Bank) : (x.setBank k b).cfg = x.cfg := rfl
@[simp] theorem State.setBank_mgmt (x : State) (k : Nat) (b : Bank) : (x.setBank k b).mgmt = x.mgmt := rfl
@[simp] theorem State.setBank_conns (x : State) (k : Nat) (b : Bank) : (x.setBank k b).conns = x.conns := rfl
@[simp] theorem State.setBank_endps (x : State) (k : Nat) (b : Bank) : (x.setBank k b).endps = x.endps := rfl
@[simp] theorem State.setBank_mem (x : State) (k : Nat) (b : Bank) : (x.setBank k b).mem = x.mem := rfl
@[simp] theorem State.setBank_oldCode (x : State) (k : Nat) (b : Bank) : (x.setBank k b).oldCode = x.oldCode := rfl
@[simp] theorem State.setBank_past (x : State) (k : Nat) (b : Bank) : (x.setBank k b).past = x.past := rfl
@[simp] theorem State.setBank_pastCtr (x : State) (k : Nat) (b : Bank) : (x.setBank k b).pastCtr = x.pastCtr := rfl
@[simp] theorem State.setBank_view (x : State) (k : Nat) (b : Bank) : (x.setBank k b).view = x.view := rfl
@[simp] theorem State.setBank_holding (x : State) (k : Nat) (b : Bank) : (x.setBank k b).holding = x.holding := rfl
@[simp] theorem State.setBank_pending (x : State) (k : Nat) (b : Bank) : (x.setBank k b).pending = x.pending := rfl
@[simp] theorem State.setBank_poison (x : State) (k : Nat) (b : Bank) : (x.setBank k b).poison = x.poison := rfl
@[simp] theorem State.setBank_held (x : State) (k : Nat) (b : Bank) : (x.setBank k b).held = x.held := rfl
@[simp] theorem State.setBank_ctxs (x : State) (k : Nat) (b : Bank) : (x.setBank k b).ctxs = x.ctxs := rfl
@[simp] theorem State.setBank_phases (x : State) (k : Nat) (b : Bank) : (x.setBank k b).phases = x.phases := rfl
@[simp] theorem State.setBank_tlbs (x : State) (k : Nat) (b : Bank) : (x.setBank k b).tlbs = x.tlbs := rfl
@[simp] theorem State.setBank_rrc (x : State) (k : Nat) (b : Bank) : (x.setBank k b).rrc = x.rrc := rfl
@[simp] theorem State.setBank_queues (x : State) (k : Nat) (b : Bank) : (x.setBank k b).queues = x.queues := rfl
@[simp] theorem State.setBank_lastLaunch (x : State) (k : Nat) (b : Bank) : (x.setBank k b).lastLaunch = x.lastLaunch := rfl
@[simp] theorem State.setBank_grids (x : State) (k : Nat) (b : Bank) : (x.setBank k b).grids = x.grids := rfl
@[simp] theorem State.setBank_gridCtr (x : State) (k : Nat) (b : Bank) : (x.setBank k b).gridCtr = x.gridCtr := rfl
@[simp] theorem State.setBank_acceptCtr (x : State) (k : Nat) (b : Bank) : (x.setBank k b).acceptCtr = x.acceptCtr := rfl
@[simp] theorem State.setBank_dies (x : State) (k : Nat) (b : Bank) : (x.setBank k b).dies = x.dies := rfl
@[simp] theorem State.setBank_teams (x : State) (k : Nat) (b : Bank) : (x.setBank k b).teams = x.teams := rfl
@[simp] theorem State.setBank_teamCtr (x : State) (k : Nat) (b : Bank) : (x.setBank k b).teamCtr = x.teamCtr := rfl
@[simp] theorem State.setBank_cores (x : State) (k : Nat) (b : Bank) : (x.setBank k b).cores = x.cores := rfl
@[simp] theorem State.setBank_steerPtr (x : State) (k : Nat) (b : Bank) : (x.setBank k b).steerPtr = x.steerPtr := rfl
@[simp] theorem State.setBank_claimCtr (x : State) (k : Nat) (b : Bank) : (x.setBank k b).claimCtr = x.claimCtr := rfl
@[simp] theorem State.setBank_orderCtr (x : State) (k : Nat) (b : Bank) : (x.setBank k b).orderCtr = x.orderCtr := rfl
@[simp] theorem State.setBank_boxes (x : State) (k : Nat) (b : Bank) : (x.setBank k b).boxes = x.boxes := rfl
@[simp] theorem State.setBank_credits (x : State) (k : Nat) (b : Bank) : (x.setBank k b).credits = x.credits := rfl
@[simp] theorem State.setBank_txs (x : State) (k : Nat) (b : Bank) : (x.setBank k b).txs = x.txs := rfl
@[simp] theorem State.setBank_txCtr (x : State) (k : Nat) (b : Bank) : (x.setBank k b).txCtr = x.txCtr := rfl
@[simp] theorem State.setBank_cells (x : State) (k : Nat) (b : Bank) : (x.setBank k b).cells = x.cells := rfl
@[simp] theorem State.setBank_rxq (x : State) (k : Nat) (b : Bank) : (x.setBank k b).rxq = x.rxq := rfl
@[simp] theorem State.setBank_lineJobs (x : State) (k : Nat) (b : Bank) : (x.setBank k b).lineJobs = x.lineJobs := rfl
@[simp] theorem State.setBank_resvs (x : State) (k : Nat) (b : Bank) : (x.setBank k b).resvs = x.resvs := rfl
@[simp] theorem State.setBank_refused (x : State) (k : Nat) (b : Bank) : (x.setBank k b).refused = x.refused := rfl
@[simp] theorem State.setBank_opal (x : State) (k : Nat) (b : Bank) : (x.setBank k b).opal = x.opal := rfl
@[simp] theorem State.setBank_pod (x : State) (k : Nat) (b : Bank) : (x.setBank k b).pod = x.pod := rfl
@[simp] theorem State.setBank_rrq (x : State) (k : Nat) (b : Bank) : (x.setBank k b).rrq = x.rrq := rfl
@[simp] theorem State.setBank_flt (x : State) (k : Nat) (b : Bank) : (x.setBank k b).flt = x.flt := rfl
@[simp] theorem State.setBank_ctl (x : State) (k : Nat) (b : Bank) : (x.setBank k b).ctl = x.ctl := rfl
@[simp] theorem State.setBank_out (x : State) (k : Nat) (b : Bank) : (x.setBank k b).out = x.out := rfl

@[simp] theorem State.tlbFill_clock (x : State) (cl : Nat) (ctx : CtxId) (va : Nat) (e : Pte) : (x.tlbFill cl ctx va e).clock = x.clock := rfl
@[simp] theorem State.tlbFill_dtime (x : State) (cl : Nat) (ctx : CtxId) (va : Nat) (e : Pte) : (x.tlbFill cl ctx va e).dtime = x.dtime := rfl
@[simp] theorem State.tlbFill_agenda (x : State) (cl : Nat) (ctx : CtxId) (va : Nat) (e : Pte) : (x.tlbFill cl ctx va e).agenda = x.agenda := rfl
@[simp] theorem State.tlbFill_freeCtr (x : State) (cl : Nat) (ctx : CtxId) (va : Nat) (e : Pte) : (x.tlbFill cl ctx va e).freeCtr = x.freeCtr := rfl
@[simp] theorem State.tlbFill_cur (x : State) (cl : Nat) (ctx : CtxId) (va : Nat) (e : Pte) : (x.tlbFill cl ctx va e).cur = x.cur := rfl
@[simp] theorem State.tlbFill_cfg (x : State) (cl : Nat) (ctx : CtxId) (va : Nat) (e : Pte) : (x.tlbFill cl ctx va e).cfg = x.cfg := rfl
@[simp] theorem State.tlbFill_mgmt (x : State) (cl : Nat) (ctx : CtxId) (va : Nat) (e : Pte) : (x.tlbFill cl ctx va e).mgmt = x.mgmt := rfl
@[simp] theorem State.tlbFill_conns (x : State) (cl : Nat) (ctx : CtxId) (va : Nat) (e : Pte) : (x.tlbFill cl ctx va e).conns = x.conns := rfl
@[simp] theorem State.tlbFill_endps (x : State) (cl : Nat) (ctx : CtxId) (va : Nat) (e : Pte) : (x.tlbFill cl ctx va e).endps = x.endps := rfl
@[simp] theorem State.tlbFill_mem (x : State) (cl : Nat) (ctx : CtxId) (va : Nat) (e : Pte) : (x.tlbFill cl ctx va e).mem = x.mem := rfl
@[simp] theorem State.tlbFill_oldCode (x : State) (cl : Nat) (ctx : CtxId) (va : Nat) (e : Pte) : (x.tlbFill cl ctx va e).oldCode = x.oldCode := rfl
@[simp] theorem State.tlbFill_past (x : State) (cl : Nat) (ctx : CtxId) (va : Nat) (e : Pte) : (x.tlbFill cl ctx va e).past = x.past := rfl
@[simp] theorem State.tlbFill_pastCtr (x : State) (cl : Nat) (ctx : CtxId) (va : Nat) (e : Pte) : (x.tlbFill cl ctx va e).pastCtr = x.pastCtr := rfl
@[simp] theorem State.tlbFill_view (x : State) (cl : Nat) (ctx : CtxId) (va : Nat) (e : Pte) : (x.tlbFill cl ctx va e).view = x.view := rfl
@[simp] theorem State.tlbFill_holding (x : State) (cl : Nat) (ctx : CtxId) (va : Nat) (e : Pte) : (x.tlbFill cl ctx va e).holding = x.holding := rfl
@[simp] theorem State.tlbFill_pending (x : State) (cl : Nat) (ctx : CtxId) (va : Nat) (e : Pte) : (x.tlbFill cl ctx va e).pending = x.pending := rfl
@[simp] theorem State.tlbFill_poison (x : State) (cl : Nat) (ctx : CtxId) (va : Nat) (e : Pte) : (x.tlbFill cl ctx va e).poison = x.poison := rfl
@[simp] theorem State.tlbFill_banks (x : State) (cl : Nat) (ctx : CtxId) (va : Nat) (e : Pte) : (x.tlbFill cl ctx va e).banks = x.banks := rfl
@[simp] theorem State.tlbFill_held (x : State) (cl : Nat) (ctx : CtxId) (va : Nat) (e : Pte) : (x.tlbFill cl ctx va e).held = x.held := rfl
@[simp] theorem State.tlbFill_ctxs (x : State) (cl : Nat) (ctx : CtxId) (va : Nat) (e : Pte) : (x.tlbFill cl ctx va e).ctxs = x.ctxs := rfl
@[simp] theorem State.tlbFill_phases (x : State) (cl : Nat) (ctx : CtxId) (va : Nat) (e : Pte) : (x.tlbFill cl ctx va e).phases = x.phases := rfl
@[simp] theorem State.tlbFill_rrc (x : State) (cl : Nat) (ctx : CtxId) (va : Nat) (e : Pte) : (x.tlbFill cl ctx va e).rrc = x.rrc := rfl
@[simp] theorem State.tlbFill_queues (x : State) (cl : Nat) (ctx : CtxId) (va : Nat) (e : Pte) : (x.tlbFill cl ctx va e).queues = x.queues := rfl
@[simp] theorem State.tlbFill_lastLaunch (x : State) (cl : Nat) (ctx : CtxId) (va : Nat) (e : Pte) : (x.tlbFill cl ctx va e).lastLaunch = x.lastLaunch := rfl
@[simp] theorem State.tlbFill_grids (x : State) (cl : Nat) (ctx : CtxId) (va : Nat) (e : Pte) : (x.tlbFill cl ctx va e).grids = x.grids := rfl
@[simp] theorem State.tlbFill_gridCtr (x : State) (cl : Nat) (ctx : CtxId) (va : Nat) (e : Pte) : (x.tlbFill cl ctx va e).gridCtr = x.gridCtr := rfl
@[simp] theorem State.tlbFill_acceptCtr (x : State) (cl : Nat) (ctx : CtxId) (va : Nat) (e : Pte) : (x.tlbFill cl ctx va e).acceptCtr = x.acceptCtr := rfl
@[simp] theorem State.tlbFill_dies (x : State) (cl : Nat) (ctx : CtxId) (va : Nat) (e : Pte) : (x.tlbFill cl ctx va e).dies = x.dies := rfl
@[simp] theorem State.tlbFill_teams (x : State) (cl : Nat) (ctx : CtxId) (va : Nat) (e : Pte) : (x.tlbFill cl ctx va e).teams = x.teams := rfl
@[simp] theorem State.tlbFill_teamCtr (x : State) (cl : Nat) (ctx : CtxId) (va : Nat) (e : Pte) : (x.tlbFill cl ctx va e).teamCtr = x.teamCtr := rfl
@[simp] theorem State.tlbFill_cores (x : State) (cl : Nat) (ctx : CtxId) (va : Nat) (e : Pte) : (x.tlbFill cl ctx va e).cores = x.cores := rfl
@[simp] theorem State.tlbFill_steerPtr (x : State) (cl : Nat) (ctx : CtxId) (va : Nat) (e : Pte) : (x.tlbFill cl ctx va e).steerPtr = x.steerPtr := rfl
@[simp] theorem State.tlbFill_claimCtr (x : State) (cl : Nat) (ctx : CtxId) (va : Nat) (e : Pte) : (x.tlbFill cl ctx va e).claimCtr = x.claimCtr := rfl
@[simp] theorem State.tlbFill_orderCtr (x : State) (cl : Nat) (ctx : CtxId) (va : Nat) (e : Pte) : (x.tlbFill cl ctx va e).orderCtr = x.orderCtr := rfl
@[simp] theorem State.tlbFill_boxes (x : State) (cl : Nat) (ctx : CtxId) (va : Nat) (e : Pte) : (x.tlbFill cl ctx va e).boxes = x.boxes := rfl
@[simp] theorem State.tlbFill_credits (x : State) (cl : Nat) (ctx : CtxId) (va : Nat) (e : Pte) : (x.tlbFill cl ctx va e).credits = x.credits := rfl
@[simp] theorem State.tlbFill_txs (x : State) (cl : Nat) (ctx : CtxId) (va : Nat) (e : Pte) : (x.tlbFill cl ctx va e).txs = x.txs := rfl
@[simp] theorem State.tlbFill_txCtr (x : State) (cl : Nat) (ctx : CtxId) (va : Nat) (e : Pte) : (x.tlbFill cl ctx va e).txCtr = x.txCtr := rfl
@[simp] theorem State.tlbFill_cells (x : State) (cl : Nat) (ctx : CtxId) (va : Nat) (e : Pte) : (x.tlbFill cl ctx va e).cells = x.cells := rfl
@[simp] theorem State.tlbFill_rxq (x : State) (cl : Nat) (ctx : CtxId) (va : Nat) (e : Pte) : (x.tlbFill cl ctx va e).rxq = x.rxq := rfl
@[simp] theorem State.tlbFill_lineJobs (x : State) (cl : Nat) (ctx : CtxId) (va : Nat) (e : Pte) : (x.tlbFill cl ctx va e).lineJobs = x.lineJobs := rfl
@[simp] theorem State.tlbFill_resvs (x : State) (cl : Nat) (ctx : CtxId) (va : Nat) (e : Pte) : (x.tlbFill cl ctx va e).resvs = x.resvs := rfl
@[simp] theorem State.tlbFill_refused (x : State) (cl : Nat) (ctx : CtxId) (va : Nat) (e : Pte) : (x.tlbFill cl ctx va e).refused = x.refused := rfl
@[simp] theorem State.tlbFill_opal (x : State) (cl : Nat) (ctx : CtxId) (va : Nat) (e : Pte) : (x.tlbFill cl ctx va e).opal = x.opal := rfl
@[simp] theorem State.tlbFill_pod (x : State) (cl : Nat) (ctx : CtxId) (va : Nat) (e : Pte) : (x.tlbFill cl ctx va e).pod = x.pod := rfl
@[simp] theorem State.tlbFill_rrq (x : State) (cl : Nat) (ctx : CtxId) (va : Nat) (e : Pte) : (x.tlbFill cl ctx va e).rrq = x.rrq := rfl
@[simp] theorem State.tlbFill_flt (x : State) (cl : Nat) (ctx : CtxId) (va : Nat) (e : Pte) : (x.tlbFill cl ctx va e).flt = x.flt := rfl
@[simp] theorem State.tlbFill_ctl (x : State) (cl : Nat) (ctx : CtxId) (va : Nat) (e : Pte) : (x.tlbFill cl ctx va e).ctl = x.ctl := rfl
@[simp] theorem State.tlbFill_out (x : State) (cl : Nat) (ctx : CtxId) (va : Nat) (e : Pte) : (x.tlbFill cl ctx va e).out = x.out := rfl

@[simp] theorem State.tlbDrop_clock (x : State) (bad : TlbEntry → Bool) : (x.tlbDrop bad).clock = x.clock := rfl
@[simp] theorem State.tlbDrop_dtime (x : State) (bad : TlbEntry → Bool) : (x.tlbDrop bad).dtime = x.dtime := rfl
@[simp] theorem State.tlbDrop_agenda (x : State) (bad : TlbEntry → Bool) : (x.tlbDrop bad).agenda = x.agenda := rfl
@[simp] theorem State.tlbDrop_freeCtr (x : State) (bad : TlbEntry → Bool) : (x.tlbDrop bad).freeCtr = x.freeCtr := rfl
@[simp] theorem State.tlbDrop_cur (x : State) (bad : TlbEntry → Bool) : (x.tlbDrop bad).cur = x.cur := rfl
@[simp] theorem State.tlbDrop_cfg (x : State) (bad : TlbEntry → Bool) : (x.tlbDrop bad).cfg = x.cfg := rfl
@[simp] theorem State.tlbDrop_mgmt (x : State) (bad : TlbEntry → Bool) : (x.tlbDrop bad).mgmt = x.mgmt := rfl
@[simp] theorem State.tlbDrop_conns (x : State) (bad : TlbEntry → Bool) : (x.tlbDrop bad).conns = x.conns := rfl
@[simp] theorem State.tlbDrop_endps (x : State) (bad : TlbEntry → Bool) : (x.tlbDrop bad).endps = x.endps := rfl
@[simp] theorem State.tlbDrop_mem (x : State) (bad : TlbEntry → Bool) : (x.tlbDrop bad).mem = x.mem := rfl
@[simp] theorem State.tlbDrop_oldCode (x : State) (bad : TlbEntry → Bool) : (x.tlbDrop bad).oldCode = x.oldCode := rfl
@[simp] theorem State.tlbDrop_past (x : State) (bad : TlbEntry → Bool) : (x.tlbDrop bad).past = x.past := rfl
@[simp] theorem State.tlbDrop_pastCtr (x : State) (bad : TlbEntry → Bool) : (x.tlbDrop bad).pastCtr = x.pastCtr := rfl
@[simp] theorem State.tlbDrop_view (x : State) (bad : TlbEntry → Bool) : (x.tlbDrop bad).view = x.view := rfl
@[simp] theorem State.tlbDrop_holding (x : State) (bad : TlbEntry → Bool) : (x.tlbDrop bad).holding = x.holding := rfl
@[simp] theorem State.tlbDrop_pending (x : State) (bad : TlbEntry → Bool) : (x.tlbDrop bad).pending = x.pending := rfl
@[simp] theorem State.tlbDrop_poison (x : State) (bad : TlbEntry → Bool) : (x.tlbDrop bad).poison = x.poison := rfl
@[simp] theorem State.tlbDrop_banks (x : State) (bad : TlbEntry → Bool) : (x.tlbDrop bad).banks = x.banks := rfl
@[simp] theorem State.tlbDrop_held (x : State) (bad : TlbEntry → Bool) : (x.tlbDrop bad).held = x.held := rfl
@[simp] theorem State.tlbDrop_ctxs (x : State) (bad : TlbEntry → Bool) : (x.tlbDrop bad).ctxs = x.ctxs := rfl
@[simp] theorem State.tlbDrop_phases (x : State) (bad : TlbEntry → Bool) : (x.tlbDrop bad).phases = x.phases := rfl
@[simp] theorem State.tlbDrop_rrc (x : State) (bad : TlbEntry → Bool) : (x.tlbDrop bad).rrc = x.rrc := rfl
@[simp] theorem State.tlbDrop_queues (x : State) (bad : TlbEntry → Bool) : (x.tlbDrop bad).queues = x.queues := rfl
@[simp] theorem State.tlbDrop_lastLaunch (x : State) (bad : TlbEntry → Bool) : (x.tlbDrop bad).lastLaunch = x.lastLaunch := rfl
@[simp] theorem State.tlbDrop_grids (x : State) (bad : TlbEntry → Bool) : (x.tlbDrop bad).grids = x.grids := rfl
@[simp] theorem State.tlbDrop_gridCtr (x : State) (bad : TlbEntry → Bool) : (x.tlbDrop bad).gridCtr = x.gridCtr := rfl
@[simp] theorem State.tlbDrop_acceptCtr (x : State) (bad : TlbEntry → Bool) : (x.tlbDrop bad).acceptCtr = x.acceptCtr := rfl
@[simp] theorem State.tlbDrop_dies (x : State) (bad : TlbEntry → Bool) : (x.tlbDrop bad).dies = x.dies := rfl
@[simp] theorem State.tlbDrop_teams (x : State) (bad : TlbEntry → Bool) : (x.tlbDrop bad).teams = x.teams := rfl
@[simp] theorem State.tlbDrop_teamCtr (x : State) (bad : TlbEntry → Bool) : (x.tlbDrop bad).teamCtr = x.teamCtr := rfl
@[simp] theorem State.tlbDrop_cores (x : State) (bad : TlbEntry → Bool) : (x.tlbDrop bad).cores = x.cores := rfl
@[simp] theorem State.tlbDrop_steerPtr (x : State) (bad : TlbEntry → Bool) : (x.tlbDrop bad).steerPtr = x.steerPtr := rfl
@[simp] theorem State.tlbDrop_claimCtr (x : State) (bad : TlbEntry → Bool) : (x.tlbDrop bad).claimCtr = x.claimCtr := rfl
@[simp] theorem State.tlbDrop_orderCtr (x : State) (bad : TlbEntry → Bool) : (x.tlbDrop bad).orderCtr = x.orderCtr := rfl
@[simp] theorem State.tlbDrop_boxes (x : State) (bad : TlbEntry → Bool) : (x.tlbDrop bad).boxes = x.boxes := rfl
@[simp] theorem State.tlbDrop_credits (x : State) (bad : TlbEntry → Bool) : (x.tlbDrop bad).credits = x.credits := rfl
@[simp] theorem State.tlbDrop_txs (x : State) (bad : TlbEntry → Bool) : (x.tlbDrop bad).txs = x.txs := rfl
@[simp] theorem State.tlbDrop_txCtr (x : State) (bad : TlbEntry → Bool) : (x.tlbDrop bad).txCtr = x.txCtr := rfl
@[simp] theorem State.tlbDrop_cells (x : State) (bad : TlbEntry → Bool) : (x.tlbDrop bad).cells = x.cells := rfl
@[simp] theorem State.tlbDrop_rxq (x : State) (bad : TlbEntry → Bool) : (x.tlbDrop bad).rxq = x.rxq := rfl
@[simp] theorem State.tlbDrop_lineJobs (x : State) (bad : TlbEntry → Bool) : (x.tlbDrop bad).lineJobs = x.lineJobs := rfl
@[simp] theorem State.tlbDrop_resvs (x : State) (bad : TlbEntry → Bool) : (x.tlbDrop bad).resvs = x.resvs := rfl
@[simp] theorem State.tlbDrop_refused (x : State) (bad : TlbEntry → Bool) : (x.tlbDrop bad).refused = x.refused := rfl
@[simp] theorem State.tlbDrop_opal (x : State) (bad : TlbEntry → Bool) : (x.tlbDrop bad).opal = x.opal := rfl
@[simp] theorem State.tlbDrop_pod (x : State) (bad : TlbEntry → Bool) : (x.tlbDrop bad).pod = x.pod := rfl
@[simp] theorem State.tlbDrop_rrq (x : State) (bad : TlbEntry → Bool) : (x.tlbDrop bad).rrq = x.rrq := rfl
@[simp] theorem State.tlbDrop_flt (x : State) (bad : TlbEntry → Bool) : (x.tlbDrop bad).flt = x.flt := rfl
@[simp] theorem State.tlbDrop_ctl (x : State) (bad : TlbEntry → Bool) : (x.tlbDrop bad).ctl = x.ctl := rfl
@[simp] theorem State.tlbDrop_out (x : State) (bad : TlbEntry → Bool) : (x.tlbDrop bad).out = x.out := rfl

@[simp] theorem State.send_clock (x : State) (m : Out) : (x.send m).clock = x.clock := rfl
@[simp] theorem State.send_dtime (x : State) (m : Out) : (x.send m).dtime = x.dtime := rfl
@[simp] theorem State.send_agenda (x : State) (m : Out) : (x.send m).agenda = x.agenda := rfl
@[simp] theorem State.send_freeCtr (x : State) (m : Out) : (x.send m).freeCtr = x.freeCtr := rfl
@[simp] theorem State.send_cur (x : State) (m : Out) : (x.send m).cur = x.cur := rfl
@[simp] theorem State.send_cfg (x : State) (m : Out) : (x.send m).cfg = x.cfg := rfl
@[simp] theorem State.send_mgmt (x : State) (m : Out) : (x.send m).mgmt = x.mgmt := rfl
@[simp] theorem State.send_conns (x : State) (m : Out) : (x.send m).conns = x.conns := rfl
@[simp] theorem State.send_endps (x : State) (m : Out) : (x.send m).endps = x.endps := rfl
@[simp] theorem State.send_mem (x : State) (m : Out) : (x.send m).mem = x.mem := rfl
@[simp] theorem State.send_oldCode (x : State) (m : Out) : (x.send m).oldCode = x.oldCode := rfl
@[simp] theorem State.send_past (x : State) (m : Out) : (x.send m).past = x.past := rfl
@[simp] theorem State.send_pastCtr (x : State) (m : Out) : (x.send m).pastCtr = x.pastCtr := rfl
@[simp] theorem State.send_view (x : State) (m : Out) : (x.send m).view = x.view := rfl
@[simp] theorem State.send_holding (x : State) (m : Out) : (x.send m).holding = x.holding := rfl
@[simp] theorem State.send_pending (x : State) (m : Out) : (x.send m).pending = x.pending := rfl
@[simp] theorem State.send_poison (x : State) (m : Out) : (x.send m).poison = x.poison := rfl
@[simp] theorem State.send_banks (x : State) (m : Out) : (x.send m).banks = x.banks := rfl
@[simp] theorem State.send_held (x : State) (m : Out) : (x.send m).held = x.held := rfl
@[simp] theorem State.send_ctxs (x : State) (m : Out) : (x.send m).ctxs = x.ctxs := rfl
@[simp] theorem State.send_phases (x : State) (m : Out) : (x.send m).phases = x.phases := rfl
@[simp] theorem State.send_tlbs (x : State) (m : Out) : (x.send m).tlbs = x.tlbs := rfl
@[simp] theorem State.send_rrc (x : State) (m : Out) : (x.send m).rrc = x.rrc := rfl
@[simp] theorem State.send_queues (x : State) (m : Out) : (x.send m).queues = x.queues := rfl
@[simp] theorem State.send_lastLaunch (x : State) (m : Out) : (x.send m).lastLaunch = x.lastLaunch := rfl
@[simp] theorem State.send_grids (x : State) (m : Out) : (x.send m).grids = x.grids := rfl
@[simp] theorem State.send_gridCtr (x : State) (m : Out) : (x.send m).gridCtr = x.gridCtr := rfl
@[simp] theorem State.send_acceptCtr (x : State) (m : Out) : (x.send m).acceptCtr = x.acceptCtr := rfl
@[simp] theorem State.send_dies (x : State) (m : Out) : (x.send m).dies = x.dies := rfl
@[simp] theorem State.send_teams (x : State) (m : Out) : (x.send m).teams = x.teams := rfl
@[simp] theorem State.send_teamCtr (x : State) (m : Out) : (x.send m).teamCtr = x.teamCtr := rfl
@[simp] theorem State.send_cores (x : State) (m : Out) : (x.send m).cores = x.cores := rfl
@[simp] theorem State.send_steerPtr (x : State) (m : Out) : (x.send m).steerPtr = x.steerPtr := rfl
@[simp] theorem State.send_claimCtr (x : State) (m : Out) : (x.send m).claimCtr = x.claimCtr := rfl
@[simp] theorem State.send_orderCtr (x : State) (m : Out) : (x.send m).orderCtr = x.orderCtr := rfl
@[simp] theorem State.send_boxes (x : State) (m : Out) : (x.send m).boxes = x.boxes := rfl
@[simp] theorem State.send_credits (x : State) (m : Out) : (x.send m).credits = x.credits := rfl
@[simp] theorem State.send_txs (x : State) (m : Out) : (x.send m).txs = x.txs := rfl
@[simp] theorem State.send_txCtr (x : State) (m : Out) : (x.send m).txCtr = x.txCtr := rfl
@[simp] theorem State.send_cells (x : State) (m : Out) : (x.send m).cells = x.cells := rfl
@[simp] theorem State.send_rxq (x : State) (m : Out) : (x.send m).rxq = x.rxq := rfl
@[simp] theorem State.send_lineJobs (x : State) (m : Out) : (x.send m).lineJobs = x.lineJobs := rfl
@[simp] theorem State.send_resvs (x : State) (m : Out) : (x.send m).resvs = x.resvs := rfl
@[simp] theorem State.send_refused (x : State) (m : Out) : (x.send m).refused = x.refused := rfl
@[simp] theorem State.send_opal (x : State) (m : Out) : (x.send m).opal = x.opal := rfl
@[simp] theorem State.send_pod (x : State) (m : Out) : (x.send m).pod = x.pod := rfl
@[simp] theorem State.send_rrq (x : State) (m : Out) : (x.send m).rrq = x.rrq := rfl
@[simp] theorem State.send_flt (x : State) (m : Out) : (x.send m).flt = x.flt := rfl
@[simp] theorem State.send_ctl (x : State) (m : Out) : (x.send m).ctl = x.ctl := rfl

@[simp] theorem State.spoilScr_clock (x : State) (t off n : Nat) : (x.spoilScr t off n).clock = x.clock := rfl
@[simp] theorem State.spoilScr_dtime (x : State) (t off n : Nat) : (x.spoilScr t off n).dtime = x.dtime := rfl
@[simp] theorem State.spoilScr_agenda (x : State) (t off n : Nat) : (x.spoilScr t off n).agenda = x.agenda := rfl
@[simp] theorem State.spoilScr_freeCtr (x : State) (t off n : Nat) : (x.spoilScr t off n).freeCtr = x.freeCtr := rfl
@[simp] theorem State.spoilScr_cur (x : State) (t off n : Nat) : (x.spoilScr t off n).cur = x.cur := rfl
@[simp] theorem State.spoilScr_cfg (x : State) (t off n : Nat) : (x.spoilScr t off n).cfg = x.cfg := rfl
@[simp] theorem State.spoilScr_mgmt (x : State) (t off n : Nat) : (x.spoilScr t off n).mgmt = x.mgmt := rfl
@[simp] theorem State.spoilScr_conns (x : State) (t off n : Nat) : (x.spoilScr t off n).conns = x.conns := rfl
@[simp] theorem State.spoilScr_endps (x : State) (t off n : Nat) : (x.spoilScr t off n).endps = x.endps := rfl
@[simp] theorem State.spoilScr_mem (x : State) (t off n : Nat) : (x.spoilScr t off n).mem = x.mem := rfl
@[simp] theorem State.spoilScr_oldCode (x : State) (t off n : Nat) : (x.spoilScr t off n).oldCode = x.oldCode := rfl
@[simp] theorem State.spoilScr_past (x : State) (t off n : Nat) : (x.spoilScr t off n).past = x.past := rfl
@[simp] theorem State.spoilScr_pastCtr (x : State) (t off n : Nat) : (x.spoilScr t off n).pastCtr = x.pastCtr := rfl
@[simp] theorem State.spoilScr_view (x : State) (t off n : Nat) : (x.spoilScr t off n).view = x.view := rfl
@[simp] theorem State.spoilScr_holding (x : State) (t off n : Nat) : (x.spoilScr t off n).holding = x.holding := rfl
@[simp] theorem State.spoilScr_pending (x : State) (t off n : Nat) : (x.spoilScr t off n).pending = x.pending := rfl
@[simp] theorem State.spoilScr_poison (x : State) (t off n : Nat) : (x.spoilScr t off n).poison = x.poison := rfl
@[simp] theorem State.spoilScr_banks (x : State) (t off n : Nat) : (x.spoilScr t off n).banks = x.banks := rfl
@[simp] theorem State.spoilScr_held (x : State) (t off n : Nat) : (x.spoilScr t off n).held = x.held := rfl
@[simp] theorem State.spoilScr_ctxs (x : State) (t off n : Nat) : (x.spoilScr t off n).ctxs = x.ctxs := rfl
@[simp] theorem State.spoilScr_phases (x : State) (t off n : Nat) : (x.spoilScr t off n).phases = x.phases := rfl
@[simp] theorem State.spoilScr_tlbs (x : State) (t off n : Nat) : (x.spoilScr t off n).tlbs = x.tlbs := rfl
@[simp] theorem State.spoilScr_rrc (x : State) (t off n : Nat) : (x.spoilScr t off n).rrc = x.rrc := rfl
@[simp] theorem State.spoilScr_queues (x : State) (t off n : Nat) : (x.spoilScr t off n).queues = x.queues := rfl
@[simp] theorem State.spoilScr_lastLaunch (x : State) (t off n : Nat) : (x.spoilScr t off n).lastLaunch = x.lastLaunch := rfl
@[simp] theorem State.spoilScr_grids (x : State) (t off n : Nat) : (x.spoilScr t off n).grids = x.grids := rfl
@[simp] theorem State.spoilScr_gridCtr (x : State) (t off n : Nat) : (x.spoilScr t off n).gridCtr = x.gridCtr := rfl
@[simp] theorem State.spoilScr_acceptCtr (x : State) (t off n : Nat) : (x.spoilScr t off n).acceptCtr = x.acceptCtr := rfl
@[simp] theorem State.spoilScr_dies (x : State) (t off n : Nat) : (x.spoilScr t off n).dies = x.dies := rfl
@[simp] theorem State.spoilScr_teamCtr (x : State) (t off n : Nat) : (x.spoilScr t off n).teamCtr = x.teamCtr := rfl
@[simp] theorem State.spoilScr_cores (x : State) (t off n : Nat) : (x.spoilScr t off n).cores = x.cores := rfl
@[simp] theorem State.spoilScr_steerPtr (x : State) (t off n : Nat) : (x.spoilScr t off n).steerPtr = x.steerPtr := rfl
@[simp] theorem State.spoilScr_claimCtr (x : State) (t off n : Nat) : (x.spoilScr t off n).claimCtr = x.claimCtr := rfl
@[simp] theorem State.spoilScr_orderCtr (x : State) (t off n : Nat) : (x.spoilScr t off n).orderCtr = x.orderCtr := rfl
@[simp] theorem State.spoilScr_boxes (x : State) (t off n : Nat) : (x.spoilScr t off n).boxes = x.boxes := rfl
@[simp] theorem State.spoilScr_credits (x : State) (t off n : Nat) : (x.spoilScr t off n).credits = x.credits := rfl
@[simp] theorem State.spoilScr_txs (x : State) (t off n : Nat) : (x.spoilScr t off n).txs = x.txs := rfl
@[simp] theorem State.spoilScr_txCtr (x : State) (t off n : Nat) : (x.spoilScr t off n).txCtr = x.txCtr := rfl
@[simp] theorem State.spoilScr_cells (x : State) (t off n : Nat) : (x.spoilScr t off n).cells = x.cells := rfl
@[simp] theorem State.spoilScr_rxq (x : State) (t off n : Nat) : (x.spoilScr t off n).rxq = x.rxq := rfl
@[simp] theorem State.spoilScr_lineJobs (x : State) (t off n : Nat) : (x.spoilScr t off n).lineJobs = x.lineJobs := rfl
@[simp] theorem State.spoilScr_resvs (x : State) (t off n : Nat) : (x.spoilScr t off n).resvs = x.resvs := rfl
@[simp] theorem State.spoilScr_refused (x : State) (t off n : Nat) : (x.spoilScr t off n).refused = x.refused := rfl
@[simp] theorem State.spoilScr_opal (x : State) (t off n : Nat) : (x.spoilScr t off n).opal = x.opal := rfl
@[simp] theorem State.spoilScr_pod (x : State) (t off n : Nat) : (x.spoilScr t off n).pod = x.pod := rfl
@[simp] theorem State.spoilScr_rrq (x : State) (t off n : Nat) : (x.spoilScr t off n).rrq = x.rrq := rfl
@[simp] theorem State.spoilScr_flt (x : State) (t off n : Nat) : (x.spoilScr t off n).flt = x.flt := rfl
@[simp] theorem State.spoilScr_ctl (x : State) (t off n : Nat) : (x.spoilScr t off n).ctl = x.ctl := rfl
@[simp] theorem State.spoilScr_out (x : State) (t off n : Nat) : (x.spoilScr t off n).out = x.out := rfl

@[simp] theorem State.spoilMem_clock (x : State) (pa n : Nat) : (x.spoilMem pa n).clock = x.clock := rfl
@[simp] theorem State.spoilMem_dtime (x : State) (pa n : Nat) : (x.spoilMem pa n).dtime = x.dtime := rfl
@[simp] theorem State.spoilMem_agenda (x : State) (pa n : Nat) : (x.spoilMem pa n).agenda = x.agenda := rfl
@[simp] theorem State.spoilMem_freeCtr (x : State) (pa n : Nat) : (x.spoilMem pa n).freeCtr = x.freeCtr := rfl
@[simp] theorem State.spoilMem_cur (x : State) (pa n : Nat) : (x.spoilMem pa n).cur = x.cur := rfl
@[simp] theorem State.spoilMem_cfg (x : State) (pa n : Nat) : (x.spoilMem pa n).cfg = x.cfg := rfl
@[simp] theorem State.spoilMem_mgmt (x : State) (pa n : Nat) : (x.spoilMem pa n).mgmt = x.mgmt := rfl
@[simp] theorem State.spoilMem_conns (x : State) (pa n : Nat) : (x.spoilMem pa n).conns = x.conns := rfl
@[simp] theorem State.spoilMem_endps (x : State) (pa n : Nat) : (x.spoilMem pa n).endps = x.endps := rfl
@[simp] theorem State.spoilMem_mem (x : State) (pa n : Nat) : (x.spoilMem pa n).mem = x.mem := rfl
@[simp] theorem State.spoilMem_oldCode (x : State) (pa n : Nat) : (x.spoilMem pa n).oldCode = x.oldCode := rfl
@[simp] theorem State.spoilMem_past (x : State) (pa n : Nat) : (x.spoilMem pa n).past = x.past := rfl
@[simp] theorem State.spoilMem_pastCtr (x : State) (pa n : Nat) : (x.spoilMem pa n).pastCtr = x.pastCtr := rfl
@[simp] theorem State.spoilMem_view (x : State) (pa n : Nat) : (x.spoilMem pa n).view = x.view := rfl
@[simp] theorem State.spoilMem_holding (x : State) (pa n : Nat) : (x.spoilMem pa n).holding = x.holding := rfl
@[simp] theorem State.spoilMem_pending (x : State) (pa n : Nat) : (x.spoilMem pa n).pending = x.pending := rfl
@[simp] theorem State.spoilMem_poison (x : State) (pa n : Nat) : (x.spoilMem pa n).poison = x.poison := rfl
@[simp] theorem State.spoilMem_banks (x : State) (pa n : Nat) : (x.spoilMem pa n).banks = x.banks := rfl
@[simp] theorem State.spoilMem_held (x : State) (pa n : Nat) : (x.spoilMem pa n).held = x.held := rfl
@[simp] theorem State.spoilMem_ctxs (x : State) (pa n : Nat) : (x.spoilMem pa n).ctxs = x.ctxs := rfl
@[simp] theorem State.spoilMem_phases (x : State) (pa n : Nat) : (x.spoilMem pa n).phases = x.phases := rfl
@[simp] theorem State.spoilMem_tlbs (x : State) (pa n : Nat) : (x.spoilMem pa n).tlbs = x.tlbs := rfl
@[simp] theorem State.spoilMem_rrc (x : State) (pa n : Nat) : (x.spoilMem pa n).rrc = x.rrc := rfl
@[simp] theorem State.spoilMem_queues (x : State) (pa n : Nat) : (x.spoilMem pa n).queues = x.queues := rfl
@[simp] theorem State.spoilMem_lastLaunch (x : State) (pa n : Nat) : (x.spoilMem pa n).lastLaunch = x.lastLaunch := rfl
@[simp] theorem State.spoilMem_grids (x : State) (pa n : Nat) : (x.spoilMem pa n).grids = x.grids := rfl
@[simp] theorem State.spoilMem_gridCtr (x : State) (pa n : Nat) : (x.spoilMem pa n).gridCtr = x.gridCtr := rfl
@[simp] theorem State.spoilMem_acceptCtr (x : State) (pa n : Nat) : (x.spoilMem pa n).acceptCtr = x.acceptCtr := rfl
@[simp] theorem State.spoilMem_dies (x : State) (pa n : Nat) : (x.spoilMem pa n).dies = x.dies := rfl
@[simp] theorem State.spoilMem_teamCtr (x : State) (pa n : Nat) : (x.spoilMem pa n).teamCtr = x.teamCtr := rfl
@[simp] theorem State.spoilMem_cores (x : State) (pa n : Nat) : (x.spoilMem pa n).cores = x.cores := rfl
@[simp] theorem State.spoilMem_steerPtr (x : State) (pa n : Nat) : (x.spoilMem pa n).steerPtr = x.steerPtr := rfl
@[simp] theorem State.spoilMem_claimCtr (x : State) (pa n : Nat) : (x.spoilMem pa n).claimCtr = x.claimCtr := rfl
@[simp] theorem State.spoilMem_orderCtr (x : State) (pa n : Nat) : (x.spoilMem pa n).orderCtr = x.orderCtr := rfl
@[simp] theorem State.spoilMem_boxes (x : State) (pa n : Nat) : (x.spoilMem pa n).boxes = x.boxes := rfl
@[simp] theorem State.spoilMem_credits (x : State) (pa n : Nat) : (x.spoilMem pa n).credits = x.credits := rfl
@[simp] theorem State.spoilMem_txs (x : State) (pa n : Nat) : (x.spoilMem pa n).txs = x.txs := rfl
@[simp] theorem State.spoilMem_txCtr (x : State) (pa n : Nat) : (x.spoilMem pa n).txCtr = x.txCtr := rfl
@[simp] theorem State.spoilMem_cells (x : State) (pa n : Nat) : (x.spoilMem pa n).cells = x.cells := rfl
@[simp] theorem State.spoilMem_rxq (x : State) (pa n : Nat) : (x.spoilMem pa n).rxq = x.rxq := rfl
@[simp] theorem State.spoilMem_lineJobs (x : State) (pa n : Nat) : (x.spoilMem pa n).lineJobs = x.lineJobs := rfl
@[simp] theorem State.spoilMem_resvs (x : State) (pa n : Nat) : (x.spoilMem pa n).resvs = x.resvs := rfl
@[simp] theorem State.spoilMem_refused (x : State) (pa n : Nat) : (x.spoilMem pa n).refused = x.refused := rfl
@[simp] theorem State.spoilMem_opal (x : State) (pa n : Nat) : (x.spoilMem pa n).opal = x.opal := rfl
@[simp] theorem State.spoilMem_pod (x : State) (pa n : Nat) : (x.spoilMem pa n).pod = x.pod := rfl
@[simp] theorem State.spoilMem_rrq (x : State) (pa n : Nat) : (x.spoilMem pa n).rrq = x.rrq := rfl
@[simp] theorem State.spoilMem_flt (x : State) (pa n : Nat) : (x.spoilMem pa n).flt = x.flt := rfl
@[simp] theorem State.spoilMem_ctl (x : State) (pa n : Nat) : (x.spoilMem pa n).ctl = x.ctl := rfl
@[simp] theorem State.spoilMem_out (x : State) (pa n : Nat) : (x.spoilMem pa n).out = x.out := rfl

@[simp] theorem State.setPart_clock (x : State) (c p : Nat) (y : Part) : (x.setPart c p y).clock = x.clock := rfl
@[simp] theorem State.setPart_dtime (x : State) (c p : Nat) (y : Part) : (x.setPart c p y).dtime = x.dtime := rfl
@[simp] theorem State.setPart_agenda (x : State) (c p : Nat) (y : Part) : (x.setPart c p y).agenda = x.agenda := rfl
@[simp] theorem State.setPart_freeCtr (x : State) (c p : Nat) (y : Part) : (x.setPart c p y).freeCtr = x.freeCtr := rfl
@[simp] theorem State.setPart_cur (x : State) (c p : Nat) (y : Part) : (x.setPart c p y).cur = x.cur := rfl
@[simp] theorem State.setPart_cfg (x : State) (c p : Nat) (y : Part) : (x.setPart c p y).cfg = x.cfg := rfl
@[simp] theorem State.setPart_mgmt (x : State) (c p : Nat) (y : Part) : (x.setPart c p y).mgmt = x.mgmt := rfl
@[simp] theorem State.setPart_conns (x : State) (c p : Nat) (y : Part) : (x.setPart c p y).conns = x.conns := rfl
@[simp] theorem State.setPart_endps (x : State) (c p : Nat) (y : Part) : (x.setPart c p y).endps = x.endps := rfl
@[simp] theorem State.setPart_mem (x : State) (c p : Nat) (y : Part) : (x.setPart c p y).mem = x.mem := rfl
@[simp] theorem State.setPart_oldCode (x : State) (c p : Nat) (y : Part) : (x.setPart c p y).oldCode = x.oldCode := rfl
@[simp] theorem State.setPart_past (x : State) (c p : Nat) (y : Part) : (x.setPart c p y).past = x.past := rfl
@[simp] theorem State.setPart_pastCtr (x : State) (c p : Nat) (y : Part) : (x.setPart c p y).pastCtr = x.pastCtr := rfl
@[simp] theorem State.setPart_view (x : State) (c p : Nat) (y : Part) : (x.setPart c p y).view = x.view := rfl
@[simp] theorem State.setPart_holding (x : State) (c p : Nat) (y : Part) : (x.setPart c p y).holding = x.holding := rfl
@[simp] theorem State.setPart_pending (x : State) (c p : Nat) (y : Part) : (x.setPart c p y).pending = x.pending := rfl
@[simp] theorem State.setPart_poison (x : State) (c p : Nat) (y : Part) : (x.setPart c p y).poison = x.poison := rfl
@[simp] theorem State.setPart_banks (x : State) (c p : Nat) (y : Part) : (x.setPart c p y).banks = x.banks := rfl
@[simp] theorem State.setPart_held (x : State) (c p : Nat) (y : Part) : (x.setPart c p y).held = x.held := rfl
@[simp] theorem State.setPart_ctxs (x : State) (c p : Nat) (y : Part) : (x.setPart c p y).ctxs = x.ctxs := rfl
@[simp] theorem State.setPart_phases (x : State) (c p : Nat) (y : Part) : (x.setPart c p y).phases = x.phases := rfl
@[simp] theorem State.setPart_tlbs (x : State) (c p : Nat) (y : Part) : (x.setPart c p y).tlbs = x.tlbs := rfl
@[simp] theorem State.setPart_rrc (x : State) (c p : Nat) (y : Part) : (x.setPart c p y).rrc = x.rrc := rfl
@[simp] theorem State.setPart_queues (x : State) (c p : Nat) (y : Part) : (x.setPart c p y).queues = x.queues := rfl
@[simp] theorem State.setPart_lastLaunch (x : State) (c p : Nat) (y : Part) : (x.setPart c p y).lastLaunch = x.lastLaunch := rfl
@[simp] theorem State.setPart_grids (x : State) (c p : Nat) (y : Part) : (x.setPart c p y).grids = x.grids := rfl
@[simp] theorem State.setPart_gridCtr (x : State) (c p : Nat) (y : Part) : (x.setPart c p y).gridCtr = x.gridCtr := rfl
@[simp] theorem State.setPart_acceptCtr (x : State) (c p : Nat) (y : Part) : (x.setPart c p y).acceptCtr = x.acceptCtr := rfl
@[simp] theorem State.setPart_dies (x : State) (c p : Nat) (y : Part) : (x.setPart c p y).dies = x.dies := rfl
@[simp] theorem State.setPart_teams (x : State) (c p : Nat) (y : Part) : (x.setPart c p y).teams = x.teams := rfl
@[simp] theorem State.setPart_teamCtr (x : State) (c p : Nat) (y : Part) : (x.setPart c p y).teamCtr = x.teamCtr := rfl
@[simp] theorem State.setPart_steerPtr (x : State) (c p : Nat) (y : Part) : (x.setPart c p y).steerPtr = x.steerPtr := rfl
@[simp] theorem State.setPart_claimCtr (x : State) (c p : Nat) (y : Part) : (x.setPart c p y).claimCtr = x.claimCtr := rfl
@[simp] theorem State.setPart_orderCtr (x : State) (c p : Nat) (y : Part) : (x.setPart c p y).orderCtr = x.orderCtr := rfl
@[simp] theorem State.setPart_boxes (x : State) (c p : Nat) (y : Part) : (x.setPart c p y).boxes = x.boxes := rfl
@[simp] theorem State.setPart_credits (x : State) (c p : Nat) (y : Part) : (x.setPart c p y).credits = x.credits := rfl
@[simp] theorem State.setPart_txs (x : State) (c p : Nat) (y : Part) : (x.setPart c p y).txs = x.txs := rfl
@[simp] theorem State.setPart_txCtr (x : State) (c p : Nat) (y : Part) : (x.setPart c p y).txCtr = x.txCtr := rfl
@[simp] theorem State.setPart_cells (x : State) (c p : Nat) (y : Part) : (x.setPart c p y).cells = x.cells := rfl
@[simp] theorem State.setPart_rxq (x : State) (c p : Nat) (y : Part) : (x.setPart c p y).rxq = x.rxq := rfl
@[simp] theorem State.setPart_lineJobs (x : State) (c p : Nat) (y : Part) : (x.setPart c p y).lineJobs = x.lineJobs := rfl
@[simp] theorem State.setPart_resvs (x : State) (c p : Nat) (y : Part) : (x.setPart c p y).resvs = x.resvs := rfl
@[simp] theorem State.setPart_refused (x : State) (c p : Nat) (y : Part) : (x.setPart c p y).refused = x.refused := rfl
@[simp] theorem State.setPart_opal (x : State) (c p : Nat) (y : Part) : (x.setPart c p y).opal = x.opal := rfl
@[simp] theorem State.setPart_pod (x : State) (c p : Nat) (y : Part) : (x.setPart c p y).pod = x.pod := rfl
@[simp] theorem State.setPart_rrq (x : State) (c p : Nat) (y : Part) : (x.setPart c p y).rrq = x.rrq := rfl
@[simp] theorem State.setPart_flt (x : State) (c p : Nat) (y : Part) : (x.setPart c p y).flt = x.flt := rfl
@[simp] theorem State.setPart_ctl (x : State) (c p : Nat) (y : Part) : (x.setPart c p y).ctl = x.ctl := rfl
@[simp] theorem State.setPart_out (x : State) (c p : Nat) (y : Part) : (x.setPart c p y).out = x.out := rfl

@[simp] theorem State.endTx_clock (x : State) (id : Nat) : (x.endTx id).clock = x.clock := rfl
@[simp] theorem State.endTx_dtime (x : State) (id : Nat) : (x.endTx id).dtime = x.dtime := rfl
@[simp] theorem State.endTx_agenda (x : State) (id : Nat) : (x.endTx id).agenda = x.agenda := rfl
@[simp] theorem State.endTx_freeCtr (x : State) (id : Nat) : (x.endTx id).freeCtr = x.freeCtr := rfl
@[simp] theorem State.endTx_cur (x : State) (id : Nat) : (x.endTx id).cur = x.cur := rfl
@[simp] theorem State.endTx_cfg (x : State) (id : Nat) : (x.endTx id).cfg = x.cfg := rfl
@[simp] theorem State.endTx_mgmt (x : State) (id : Nat) : (x.endTx id).mgmt = x.mgmt := rfl
@[simp] theorem State.endTx_conns (x : State) (id : Nat) : (x.endTx id).conns = x.conns := rfl
@[simp] theorem State.endTx_endps (x : State) (id : Nat) : (x.endTx id).endps = x.endps := rfl
@[simp] theorem State.endTx_mem (x : State) (id : Nat) : (x.endTx id).mem = x.mem := rfl
@[simp] theorem State.endTx_oldCode (x : State) (id : Nat) : (x.endTx id).oldCode = x.oldCode := rfl
@[simp] theorem State.endTx_past (x : State) (id : Nat) : (x.endTx id).past = x.past := rfl
@[simp] theorem State.endTx_pastCtr (x : State) (id : Nat) : (x.endTx id).pastCtr = x.pastCtr := rfl
@[simp] theorem State.endTx_view (x : State) (id : Nat) : (x.endTx id).view = x.view := rfl
@[simp] theorem State.endTx_holding (x : State) (id : Nat) : (x.endTx id).holding = x.holding := rfl
@[simp] theorem State.endTx_pending (x : State) (id : Nat) : (x.endTx id).pending = x.pending := rfl
@[simp] theorem State.endTx_poison (x : State) (id : Nat) : (x.endTx id).poison = x.poison := rfl
@[simp] theorem State.endTx_banks (x : State) (id : Nat) : (x.endTx id).banks = x.banks := rfl
@[simp] theorem State.endTx_held (x : State) (id : Nat) : (x.endTx id).held = x.held := rfl
@[simp] theorem State.endTx_ctxs (x : State) (id : Nat) : (x.endTx id).ctxs = x.ctxs := rfl
@[simp] theorem State.endTx_phases (x : State) (id : Nat) : (x.endTx id).phases = x.phases := rfl
@[simp] theorem State.endTx_tlbs (x : State) (id : Nat) : (x.endTx id).tlbs = x.tlbs := rfl
@[simp] theorem State.endTx_rrc (x : State) (id : Nat) : (x.endTx id).rrc = x.rrc := rfl
@[simp] theorem State.endTx_queues (x : State) (id : Nat) : (x.endTx id).queues = x.queues := rfl
@[simp] theorem State.endTx_lastLaunch (x : State) (id : Nat) : (x.endTx id).lastLaunch = x.lastLaunch := rfl
@[simp] theorem State.endTx_grids (x : State) (id : Nat) : (x.endTx id).grids = x.grids := rfl
@[simp] theorem State.endTx_gridCtr (x : State) (id : Nat) : (x.endTx id).gridCtr = x.gridCtr := rfl
@[simp] theorem State.endTx_acceptCtr (x : State) (id : Nat) : (x.endTx id).acceptCtr = x.acceptCtr := rfl
@[simp] theorem State.endTx_dies (x : State) (id : Nat) : (x.endTx id).dies = x.dies := rfl
@[simp] theorem State.endTx_teams (x : State) (id : Nat) : (x.endTx id).teams = x.teams := rfl
@[simp] theorem State.endTx_teamCtr (x : State) (id : Nat) : (x.endTx id).teamCtr = x.teamCtr := rfl
@[simp] theorem State.endTx_cores (x : State) (id : Nat) : (x.endTx id).cores = x.cores := rfl
@[simp] theorem State.endTx_steerPtr (x : State) (id : Nat) : (x.endTx id).steerPtr = x.steerPtr := rfl
@[simp] theorem State.endTx_claimCtr (x : State) (id : Nat) : (x.endTx id).claimCtr = x.claimCtr := rfl
@[simp] theorem State.endTx_orderCtr (x : State) (id : Nat) : (x.endTx id).orderCtr = x.orderCtr := rfl
@[simp] theorem State.endTx_boxes (x : State) (id : Nat) : (x.endTx id).boxes = x.boxes := rfl
@[simp] theorem State.endTx_credits (x : State) (id : Nat) : (x.endTx id).credits = x.credits := rfl
@[simp] theorem State.endTx_txCtr (x : State) (id : Nat) : (x.endTx id).txCtr = x.txCtr := rfl
@[simp] theorem State.endTx_cells (x : State) (id : Nat) : (x.endTx id).cells = x.cells := rfl
@[simp] theorem State.endTx_rxq (x : State) (id : Nat) : (x.endTx id).rxq = x.rxq := rfl
@[simp] theorem State.endTx_lineJobs (x : State) (id : Nat) : (x.endTx id).lineJobs = x.lineJobs := rfl
@[simp] theorem State.endTx_resvs (x : State) (id : Nat) : (x.endTx id).resvs = x.resvs := rfl
@[simp] theorem State.endTx_refused (x : State) (id : Nat) : (x.endTx id).refused = x.refused := rfl
@[simp] theorem State.endTx_opal (x : State) (id : Nat) : (x.endTx id).opal = x.opal := rfl
@[simp] theorem State.endTx_pod (x : State) (id : Nat) : (x.endTx id).pod = x.pod := rfl
@[simp] theorem State.endTx_rrq (x : State) (id : Nat) : (x.endTx id).rrq = x.rrq := rfl
@[simp] theorem State.endTx_flt (x : State) (id : Nat) : (x.endTx id).flt = x.flt := rfl
@[simp] theorem State.endTx_ctl (x : State) (id : Nat) : (x.endTx id).ctl = x.ctl := rfl
@[simp] theorem State.endTx_out (x : State) (id : Nat) : (x.endTx id).out = x.out := rfl

@[simp] theorem State.modTx_clock (x : State) (id : Nat) (f : Tx → Tx) : (x.modTx id f).clock = x.clock := rfl
@[simp] theorem State.modTx_dtime (x : State) (id : Nat) (f : Tx → Tx) : (x.modTx id f).dtime = x.dtime := rfl
@[simp] theorem State.modTx_agenda (x : State) (id : Nat) (f : Tx → Tx) : (x.modTx id f).agenda = x.agenda := rfl
@[simp] theorem State.modTx_freeCtr (x : State) (id : Nat) (f : Tx → Tx) : (x.modTx id f).freeCtr = x.freeCtr := rfl
@[simp] theorem State.modTx_cur (x : State) (id : Nat) (f : Tx → Tx) : (x.modTx id f).cur = x.cur := rfl
@[simp] theorem State.modTx_cfg (x : State) (id : Nat) (f : Tx → Tx) : (x.modTx id f).cfg = x.cfg := rfl
@[simp] theorem State.modTx_mgmt (x : State) (id : Nat) (f : Tx → Tx) : (x.modTx id f).mgmt = x.mgmt := rfl
@[simp] theorem State.modTx_conns (x : State) (id : Nat) (f : Tx → Tx) : (x.modTx id f).conns = x.conns := rfl
@[simp] theorem State.modTx_endps (x : State) (id : Nat) (f : Tx → Tx) : (x.modTx id f).endps = x.endps := rfl
@[simp] theorem State.modTx_mem (x : State) (id : Nat) (f : Tx → Tx) : (x.modTx id f).mem = x.mem := rfl
@[simp] theorem State.modTx_oldCode (x : State) (id : Nat) (f : Tx → Tx) : (x.modTx id f).oldCode = x.oldCode := rfl
@[simp] theorem State.modTx_past (x : State) (id : Nat) (f : Tx → Tx) : (x.modTx id f).past = x.past := rfl
@[simp] theorem State.modTx_pastCtr (x : State) (id : Nat) (f : Tx → Tx) : (x.modTx id f).pastCtr = x.pastCtr := rfl
@[simp] theorem State.modTx_view (x : State) (id : Nat) (f : Tx → Tx) : (x.modTx id f).view = x.view := rfl
@[simp] theorem State.modTx_holding (x : State) (id : Nat) (f : Tx → Tx) : (x.modTx id f).holding = x.holding := rfl
@[simp] theorem State.modTx_pending (x : State) (id : Nat) (f : Tx → Tx) : (x.modTx id f).pending = x.pending := rfl
@[simp] theorem State.modTx_poison (x : State) (id : Nat) (f : Tx → Tx) : (x.modTx id f).poison = x.poison := rfl
@[simp] theorem State.modTx_banks (x : State) (id : Nat) (f : Tx → Tx) : (x.modTx id f).banks = x.banks := rfl
@[simp] theorem State.modTx_held (x : State) (id : Nat) (f : Tx → Tx) : (x.modTx id f).held = x.held := rfl
@[simp] theorem State.modTx_ctxs (x : State) (id : Nat) (f : Tx → Tx) : (x.modTx id f).ctxs = x.ctxs := rfl
@[simp] theorem State.modTx_phases (x : State) (id : Nat) (f : Tx → Tx) : (x.modTx id f).phases = x.phases := rfl
@[simp] theorem State.modTx_tlbs (x : State) (id : Nat) (f : Tx → Tx) : (x.modTx id f).tlbs = x.tlbs := rfl
@[simp] theorem State.modTx_rrc (x : State) (id : Nat) (f : Tx → Tx) : (x.modTx id f).rrc = x.rrc := rfl
@[simp] theorem State.modTx_queues (x : State) (id : Nat) (f : Tx → Tx) : (x.modTx id f).queues = x.queues := rfl
@[simp] theorem State.modTx_lastLaunch (x : State) (id : Nat) (f : Tx → Tx) : (x.modTx id f).lastLaunch = x.lastLaunch := rfl
@[simp] theorem State.modTx_grids (x : State) (id : Nat) (f : Tx → Tx) : (x.modTx id f).grids = x.grids := rfl
@[simp] theorem State.modTx_gridCtr (x : State) (id : Nat) (f : Tx → Tx) : (x.modTx id f).gridCtr = x.gridCtr := rfl
@[simp] theorem State.modTx_acceptCtr (x : State) (id : Nat) (f : Tx → Tx) : (x.modTx id f).acceptCtr = x.acceptCtr := rfl
@[simp] theorem State.modTx_dies (x : State) (id : Nat) (f : Tx → Tx) : (x.modTx id f).dies = x.dies := rfl
@[simp] theorem State.modTx_teams (x : State) (id : Nat) (f : Tx → Tx) : (x.modTx id f).teams = x.teams := rfl
@[simp] theorem State.modTx_teamCtr (x : State) (id : Nat) (f : Tx → Tx) : (x.modTx id f).teamCtr = x.teamCtr := rfl
@[simp] theorem State.modTx_cores (x : State) (id : Nat) (f : Tx → Tx) : (x.modTx id f).cores = x.cores := rfl
@[simp] theorem State.modTx_steerPtr (x : State) (id : Nat) (f : Tx → Tx) : (x.modTx id f).steerPtr = x.steerPtr := rfl
@[simp] theorem State.modTx_claimCtr (x : State) (id : Nat) (f : Tx → Tx) : (x.modTx id f).claimCtr = x.claimCtr := rfl
@[simp] theorem State.modTx_orderCtr (x : State) (id : Nat) (f : Tx → Tx) : (x.modTx id f).orderCtr = x.orderCtr := rfl
@[simp] theorem State.modTx_boxes (x : State) (id : Nat) (f : Tx → Tx) : (x.modTx id f).boxes = x.boxes := rfl
@[simp] theorem State.modTx_credits (x : State) (id : Nat) (f : Tx → Tx) : (x.modTx id f).credits = x.credits := rfl
@[simp] theorem State.modTx_txCtr (x : State) (id : Nat) (f : Tx → Tx) : (x.modTx id f).txCtr = x.txCtr := rfl
@[simp] theorem State.modTx_cells (x : State) (id : Nat) (f : Tx → Tx) : (x.modTx id f).cells = x.cells := rfl
@[simp] theorem State.modTx_rxq (x : State) (id : Nat) (f : Tx → Tx) : (x.modTx id f).rxq = x.rxq := rfl
@[simp] theorem State.modTx_lineJobs (x : State) (id : Nat) (f : Tx → Tx) : (x.modTx id f).lineJobs = x.lineJobs := rfl
@[simp] theorem State.modTx_resvs (x : State) (id : Nat) (f : Tx → Tx) : (x.modTx id f).resvs = x.resvs := rfl
@[simp] theorem State.modTx_refused (x : State) (id : Nat) (f : Tx → Tx) : (x.modTx id f).refused = x.refused := rfl
@[simp] theorem State.modTx_opal (x : State) (id : Nat) (f : Tx → Tx) : (x.modTx id f).opal = x.opal := rfl
@[simp] theorem State.modTx_pod (x : State) (id : Nat) (f : Tx → Tx) : (x.modTx id f).pod = x.pod := rfl
@[simp] theorem State.modTx_rrq (x : State) (id : Nat) (f : Tx → Tx) : (x.modTx id f).rrq = x.rrq := rfl
@[simp] theorem State.modTx_flt (x : State) (id : Nat) (f : Tx → Tx) : (x.modTx id f).flt = x.flt := rfl
@[simp] theorem State.modTx_ctl (x : State) (id : Nat) (f : Tx → Tx) : (x.modTx id f).ctl = x.ctl := rfl
@[simp] theorem State.modTx_out (x : State) (id : Nat) (f : Tx → Tx) : (x.modTx id f).out = x.out := rfl

@[simp] theorem State.modCredit_clock (x : State) (aid : Aid) (ctx : CtxId) (box : Nat) (f : Credit → Credit) : (x.modCredit aid ctx box f).clock = x.clock := rfl
@[simp] theorem State.modCredit_dtime (x : State) (aid : Aid) (ctx : CtxId) (box : Nat) (f : Credit → Credit) : (x.modCredit aid ctx box f).dtime = x.dtime := rfl
@[simp] theorem State.modCredit_agenda (x : State) (aid : Aid) (ctx : CtxId) (box : Nat) (f : Credit → Credit) : (x.modCredit aid ctx box f).agenda = x.agenda := rfl
@[simp] theorem State.modCredit_freeCtr (x : State) (aid : Aid) (ctx : CtxId) (box : Nat) (f : Credit → Credit) : (x.modCredit aid ctx box f).freeCtr = x.freeCtr := rfl
@[simp] theorem State.modCredit_cur (x : State) (aid : Aid) (ctx : CtxId) (box : Nat) (f : Credit → Credit) : (x.modCredit aid ctx box f).cur = x.cur := rfl
@[simp] theorem State.modCredit_cfg (x : State) (aid : Aid) (ctx : CtxId) (box : Nat) (f : Credit → Credit) : (x.modCredit aid ctx box f).cfg = x.cfg := rfl
@[simp] theorem State.modCredit_mgmt (x : State) (aid : Aid) (ctx : CtxId) (box : Nat) (f : Credit → Credit) : (x.modCredit aid ctx box f).mgmt = x.mgmt := rfl
@[simp] theorem State.modCredit_conns (x : State) (aid : Aid) (ctx : CtxId) (box : Nat) (f : Credit → Credit) : (x.modCredit aid ctx box f).conns = x.conns := rfl
@[simp] theorem State.modCredit_endps (x : State) (aid : Aid) (ctx : CtxId) (box : Nat) (f : Credit → Credit) : (x.modCredit aid ctx box f).endps = x.endps := rfl
@[simp] theorem State.modCredit_mem (x : State) (aid : Aid) (ctx : CtxId) (box : Nat) (f : Credit → Credit) : (x.modCredit aid ctx box f).mem = x.mem := rfl
@[simp] theorem State.modCredit_oldCode (x : State) (aid : Aid) (ctx : CtxId) (box : Nat) (f : Credit → Credit) : (x.modCredit aid ctx box f).oldCode = x.oldCode := rfl
@[simp] theorem State.modCredit_past (x : State) (aid : Aid) (ctx : CtxId) (box : Nat) (f : Credit → Credit) : (x.modCredit aid ctx box f).past = x.past := rfl
@[simp] theorem State.modCredit_pastCtr (x : State) (aid : Aid) (ctx : CtxId) (box : Nat) (f : Credit → Credit) : (x.modCredit aid ctx box f).pastCtr = x.pastCtr := rfl
@[simp] theorem State.modCredit_view (x : State) (aid : Aid) (ctx : CtxId) (box : Nat) (f : Credit → Credit) : (x.modCredit aid ctx box f).view = x.view := rfl
@[simp] theorem State.modCredit_holding (x : State) (aid : Aid) (ctx : CtxId) (box : Nat) (f : Credit → Credit) : (x.modCredit aid ctx box f).holding = x.holding := rfl
@[simp] theorem State.modCredit_pending (x : State) (aid : Aid) (ctx : CtxId) (box : Nat) (f : Credit → Credit) : (x.modCredit aid ctx box f).pending = x.pending := rfl
@[simp] theorem State.modCredit_poison (x : State) (aid : Aid) (ctx : CtxId) (box : Nat) (f : Credit → Credit) : (x.modCredit aid ctx box f).poison = x.poison := rfl
@[simp] theorem State.modCredit_banks (x : State) (aid : Aid) (ctx : CtxId) (box : Nat) (f : Credit → Credit) : (x.modCredit aid ctx box f).banks = x.banks := rfl
@[simp] theorem State.modCredit_held (x : State) (aid : Aid) (ctx : CtxId) (box : Nat) (f : Credit → Credit) : (x.modCredit aid ctx box f).held = x.held := rfl
@[simp] theorem State.modCredit_ctxs (x : State) (aid : Aid) (ctx : CtxId) (box : Nat) (f : Credit → Credit) : (x.modCredit aid ctx box f).ctxs = x.ctxs := rfl
@[simp] theorem State.modCredit_phases (x : State) (aid : Aid) (ctx : CtxId) (box : Nat) (f : Credit → Credit) : (x.modCredit aid ctx box f).phases = x.phases := rfl
@[simp] theorem State.modCredit_tlbs (x : State) (aid : Aid) (ctx : CtxId) (box : Nat) (f : Credit → Credit) : (x.modCredit aid ctx box f).tlbs = x.tlbs := rfl
@[simp] theorem State.modCredit_rrc (x : State) (aid : Aid) (ctx : CtxId) (box : Nat) (f : Credit → Credit) : (x.modCredit aid ctx box f).rrc = x.rrc := rfl
@[simp] theorem State.modCredit_queues (x : State) (aid : Aid) (ctx : CtxId) (box : Nat) (f : Credit → Credit) : (x.modCredit aid ctx box f).queues = x.queues := rfl
@[simp] theorem State.modCredit_lastLaunch (x : State) (aid : Aid) (ctx : CtxId) (box : Nat) (f : Credit → Credit) : (x.modCredit aid ctx box f).lastLaunch = x.lastLaunch := rfl
@[simp] theorem State.modCredit_grids (x : State) (aid : Aid) (ctx : CtxId) (box : Nat) (f : Credit → Credit) : (x.modCredit aid ctx box f).grids = x.grids := rfl
@[simp] theorem State.modCredit_gridCtr (x : State) (aid : Aid) (ctx : CtxId) (box : Nat) (f : Credit → Credit) : (x.modCredit aid ctx box f).gridCtr = x.gridCtr := rfl
@[simp] theorem State.modCredit_acceptCtr (x : State) (aid : Aid) (ctx : CtxId) (box : Nat) (f : Credit → Credit) : (x.modCredit aid ctx box f).acceptCtr = x.acceptCtr := rfl
@[simp] theorem State.modCredit_dies (x : State) (aid : Aid) (ctx : CtxId) (box : Nat) (f : Credit → Credit) : (x.modCredit aid ctx box f).dies = x.dies := rfl
@[simp] theorem State.modCredit_teams (x : State) (aid : Aid) (ctx : CtxId) (box : Nat) (f : Credit → Credit) : (x.modCredit aid ctx box f).teams = x.teams := rfl
@[simp] theorem State.modCredit_teamCtr (x : State) (aid : Aid) (ctx : CtxId) (box : Nat) (f : Credit → Credit) : (x.modCredit aid ctx box f).teamCtr = x.teamCtr := rfl
@[simp] theorem State.modCredit_cores (x : State) (aid : Aid) (ctx : CtxId) (box : Nat) (f : Credit → Credit) : (x.modCredit aid ctx box f).cores = x.cores := rfl
@[simp] theorem State.modCredit_steerPtr (x : State) (aid : Aid) (ctx : CtxId) (box : Nat) (f : Credit → Credit) : (x.modCredit aid ctx box f).steerPtr = x.steerPtr := rfl
@[simp] theorem State.modCredit_claimCtr (x : State) (aid : Aid) (ctx : CtxId) (box : Nat) (f : Credit → Credit) : (x.modCredit aid ctx box f).claimCtr = x.claimCtr := rfl
@[simp] theorem State.modCredit_orderCtr (x : State) (aid : Aid) (ctx : CtxId) (box : Nat) (f : Credit → Credit) : (x.modCredit aid ctx box f).orderCtr = x.orderCtr := rfl
@[simp] theorem State.modCredit_boxes (x : State) (aid : Aid) (ctx : CtxId) (box : Nat) (f : Credit → Credit) : (x.modCredit aid ctx box f).boxes = x.boxes := rfl
@[simp] theorem State.modCredit_txs (x : State) (aid : Aid) (ctx : CtxId) (box : Nat) (f : Credit → Credit) : (x.modCredit aid ctx box f).txs = x.txs := rfl
@[simp] theorem State.modCredit_txCtr (x : State) (aid : Aid) (ctx : CtxId) (box : Nat) (f : Credit → Credit) : (x.modCredit aid ctx box f).txCtr = x.txCtr := rfl
@[simp] theorem State.modCredit_cells (x : State) (aid : Aid) (ctx : CtxId) (box : Nat) (f : Credit → Credit) : (x.modCredit aid ctx box f).cells = x.cells := rfl
@[simp] theorem State.modCredit_rxq (x : State) (aid : Aid) (ctx : CtxId) (box : Nat) (f : Credit → Credit) : (x.modCredit aid ctx box f).rxq = x.rxq := rfl
@[simp] theorem State.modCredit_lineJobs (x : State) (aid : Aid) (ctx : CtxId) (box : Nat) (f : Credit → Credit) : (x.modCredit aid ctx box f).lineJobs = x.lineJobs := rfl
@[simp] theorem State.modCredit_resvs (x : State) (aid : Aid) (ctx : CtxId) (box : Nat) (f : Credit → Credit) : (x.modCredit aid ctx box f).resvs = x.resvs := rfl
@[simp] theorem State.modCredit_refused (x : State) (aid : Aid) (ctx : CtxId) (box : Nat) (f : Credit → Credit) : (x.modCredit aid ctx box f).refused = x.refused := rfl
@[simp] theorem State.modCredit_opal (x : State) (aid : Aid) (ctx : CtxId) (box : Nat) (f : Credit → Credit) : (x.modCredit aid ctx box f).opal = x.opal := rfl
@[simp] theorem State.modCredit_pod (x : State) (aid : Aid) (ctx : CtxId) (box : Nat) (f : Credit → Credit) : (x.modCredit aid ctx box f).pod = x.pod := rfl
@[simp] theorem State.modCredit_rrq (x : State) (aid : Aid) (ctx : CtxId) (box : Nat) (f : Credit → Credit) : (x.modCredit aid ctx box f).rrq = x.rrq := rfl
@[simp] theorem State.modCredit_flt (x : State) (aid : Aid) (ctx : CtxId) (box : Nat) (f : Credit → Credit) : (x.modCredit aid ctx box f).flt = x.flt := rfl
@[simp] theorem State.modCredit_ctl (x : State) (aid : Aid) (ctx : CtxId) (box : Nat) (f : Credit → Credit) : (x.modCredit aid ctx box f).ctl = x.ctl := rfl
@[simp] theorem State.modCredit_out (x : State) (aid : Aid) (ctx : CtxId) (box : Nat) (f : Credit → Credit) : (x.modCredit aid ctx box f).out = x.out := rfl

@[simp] theorem State.rrcDrop_clock (x : State) (bad : RrcLine → Bool) : (x.rrcDrop bad).clock = x.clock := rfl
@[simp] theorem State.rrcDrop_dtime (x : State) (bad : RrcLine → Bool) : (x.rrcDrop bad).dtime = x.dtime := rfl
@[simp] theorem State.rrcDrop_agenda (x : State) (bad : RrcLine → Bool) : (x.rrcDrop bad).agenda = x.agenda := rfl
@[simp] theorem State.rrcDrop_freeCtr (x : State) (bad : RrcLine → Bool) : (x.rrcDrop bad).freeCtr = x.freeCtr := rfl
@[simp] theorem State.rrcDrop_cur (x : State) (bad : RrcLine → Bool) : (x.rrcDrop bad).cur = x.cur := rfl
@[simp] theorem State.rrcDrop_cfg (x : State) (bad : RrcLine → Bool) : (x.rrcDrop bad).cfg = x.cfg := rfl
@[simp] theorem State.rrcDrop_mgmt (x : State) (bad : RrcLine → Bool) : (x.rrcDrop bad).mgmt = x.mgmt := rfl
@[simp] theorem State.rrcDrop_conns (x : State) (bad : RrcLine → Bool) : (x.rrcDrop bad).conns = x.conns := rfl
@[simp] theorem State.rrcDrop_endps (x : State) (bad : RrcLine → Bool) : (x.rrcDrop bad).endps = x.endps := rfl
@[simp] theorem State.rrcDrop_mem (x : State) (bad : RrcLine → Bool) : (x.rrcDrop bad).mem = x.mem := rfl
@[simp] theorem State.rrcDrop_oldCode (x : State) (bad : RrcLine → Bool) : (x.rrcDrop bad).oldCode = x.oldCode := rfl
@[simp] theorem State.rrcDrop_past (x : State) (bad : RrcLine → Bool) : (x.rrcDrop bad).past = x.past := rfl
@[simp] theorem State.rrcDrop_pastCtr (x : State) (bad : RrcLine → Bool) : (x.rrcDrop bad).pastCtr = x.pastCtr := rfl
@[simp] theorem State.rrcDrop_view (x : State) (bad : RrcLine → Bool) : (x.rrcDrop bad).view = x.view := rfl
@[simp] theorem State.rrcDrop_holding (x : State) (bad : RrcLine → Bool) : (x.rrcDrop bad).holding = x.holding := rfl
@[simp] theorem State.rrcDrop_pending (x : State) (bad : RrcLine → Bool) : (x.rrcDrop bad).pending = x.pending := rfl
@[simp] theorem State.rrcDrop_poison (x : State) (bad : RrcLine → Bool) : (x.rrcDrop bad).poison = x.poison := rfl
@[simp] theorem State.rrcDrop_banks (x : State) (bad : RrcLine → Bool) : (x.rrcDrop bad).banks = x.banks := rfl
@[simp] theorem State.rrcDrop_held (x : State) (bad : RrcLine → Bool) : (x.rrcDrop bad).held = x.held := rfl
@[simp] theorem State.rrcDrop_ctxs (x : State) (bad : RrcLine → Bool) : (x.rrcDrop bad).ctxs = x.ctxs := rfl
@[simp] theorem State.rrcDrop_phases (x : State) (bad : RrcLine → Bool) : (x.rrcDrop bad).phases = x.phases := rfl
@[simp] theorem State.rrcDrop_tlbs (x : State) (bad : RrcLine → Bool) : (x.rrcDrop bad).tlbs = x.tlbs := rfl
@[simp] theorem State.rrcDrop_queues (x : State) (bad : RrcLine → Bool) : (x.rrcDrop bad).queues = x.queues := rfl
@[simp] theorem State.rrcDrop_lastLaunch (x : State) (bad : RrcLine → Bool) : (x.rrcDrop bad).lastLaunch = x.lastLaunch := rfl
@[simp] theorem State.rrcDrop_grids (x : State) (bad : RrcLine → Bool) : (x.rrcDrop bad).grids = x.grids := rfl
@[simp] theorem State.rrcDrop_gridCtr (x : State) (bad : RrcLine → Bool) : (x.rrcDrop bad).gridCtr = x.gridCtr := rfl
@[simp] theorem State.rrcDrop_acceptCtr (x : State) (bad : RrcLine → Bool) : (x.rrcDrop bad).acceptCtr = x.acceptCtr := rfl
@[simp] theorem State.rrcDrop_dies (x : State) (bad : RrcLine → Bool) : (x.rrcDrop bad).dies = x.dies := rfl
@[simp] theorem State.rrcDrop_teams (x : State) (bad : RrcLine → Bool) : (x.rrcDrop bad).teams = x.teams := rfl
@[simp] theorem State.rrcDrop_teamCtr (x : State) (bad : RrcLine → Bool) : (x.rrcDrop bad).teamCtr = x.teamCtr := rfl
@[simp] theorem State.rrcDrop_cores (x : State) (bad : RrcLine → Bool) : (x.rrcDrop bad).cores = x.cores := rfl
@[simp] theorem State.rrcDrop_steerPtr (x : State) (bad : RrcLine → Bool) : (x.rrcDrop bad).steerPtr = x.steerPtr := rfl
@[simp] theorem State.rrcDrop_claimCtr (x : State) (bad : RrcLine → Bool) : (x.rrcDrop bad).claimCtr = x.claimCtr := rfl
@[simp] theorem State.rrcDrop_orderCtr (x : State) (bad : RrcLine → Bool) : (x.rrcDrop bad).orderCtr = x.orderCtr := rfl
@[simp] theorem State.rrcDrop_boxes (x : State) (bad : RrcLine → Bool) : (x.rrcDrop bad).boxes = x.boxes := rfl
@[simp] theorem State.rrcDrop_credits (x : State) (bad : RrcLine → Bool) : (x.rrcDrop bad).credits = x.credits := rfl
@[simp] theorem State.rrcDrop_txCtr (x : State) (bad : RrcLine → Bool) : (x.rrcDrop bad).txCtr = x.txCtr := rfl
@[simp] theorem State.rrcDrop_cells (x : State) (bad : RrcLine → Bool) : (x.rrcDrop bad).cells = x.cells := rfl
@[simp] theorem State.rrcDrop_rxq (x : State) (bad : RrcLine → Bool) : (x.rrcDrop bad).rxq = x.rxq := rfl
@[simp] theorem State.rrcDrop_lineJobs (x : State) (bad : RrcLine → Bool) : (x.rrcDrop bad).lineJobs = x.lineJobs := rfl
@[simp] theorem State.rrcDrop_resvs (x : State) (bad : RrcLine → Bool) : (x.rrcDrop bad).resvs = x.resvs := rfl
@[simp] theorem State.rrcDrop_refused (x : State) (bad : RrcLine → Bool) : (x.rrcDrop bad).refused = x.refused := rfl
@[simp] theorem State.rrcDrop_opal (x : State) (bad : RrcLine → Bool) : (x.rrcDrop bad).opal = x.opal := rfl
@[simp] theorem State.rrcDrop_pod (x : State) (bad : RrcLine → Bool) : (x.rrcDrop bad).pod = x.pod := rfl
@[simp] theorem State.rrcDrop_rrq (x : State) (bad : RrcLine → Bool) : (x.rrcDrop bad).rrq = x.rrq := rfl
@[simp] theorem State.rrcDrop_flt (x : State) (bad : RrcLine → Bool) : (x.rrcDrop bad).flt = x.flt := rfl
@[simp] theorem State.rrcDrop_ctl (x : State) (bad : RrcLine → Bool) : (x.rrcDrop bad).ctl = x.ctl := rfl
@[simp] theorem State.rrcDrop_out (x : State) (bad : RrcLine → Bool) : (x.rrcDrop bad).out = x.out := rfl

@[simp] theorem Thread.setReg_role (x : Thread) (n : Nat) (w : Word) : (x.setReg n w).role = x.role := rfl
@[simp] theorem Thread.setReg_part (x : Thread) (n : Nat) (w : Word) : (x.setReg n w).part = x.part := rfl
@[simp] theorem Thread.setReg_st (x : Thread) (n : Nat) (w : Word) : (x.setReg n w).st = x.st := rfl
@[simp] theorem Thread.setReg_pos (x : Thread) (n : Nat) (w : Word) : (x.setReg n w).pos = x.pos := rfl
@[simp] theorem Thread.setReg_nextPos (x : Thread) (n : Nat) (w : Word) : (x.setReg n w).nextPos = x.nextPos := rfl
@[simp] theorem Thread.setReg_g (x : Thread) (n : Nat) (w : Word) : (x.setReg n w).g = x.g := rfl
@[simp] theorem Thread.setReg_p (x : Thread) (n : Nat) (w : Word) : (x.setReg n w).p = x.p := rfl
@[simp] theorem Thread.setReg_x (x : Thread) (n : Nat) (w : Word) : (x.setReg n w).x = x.x := rfl
@[simp] theorem Thread.setReg_link (x : Thread) (n : Nat) (w : Word) : (x.setReg n w).link = x.link := rfl
@[simp] theorem Thread.setReg_depth (x : Thread) (n : Nat) (w : Word) : (x.setReg n w).depth = x.depth := rfl
@[simp] theorem Thread.setReg_sticky (x : Thread) (n : Nat) (w : Word) : (x.setReg n w).sticky = x.sticky := rfl
@[simp] theorem Thread.setReg_reported (x : Thread) (n : Nat) (w : Word) : (x.setReg n w).reported = x.reported := rfl
@[simp] theorem Thread.setReg_late (x : Thread) (n : Nat) (w : Word) : (x.setReg n w).late = x.late := rfl
@[simp] theorem Thread.setReg_dpos (x : Thread) (n : Nat) (w : Word) : (x.setReg n w).dpos = x.dpos := rfl
@[simp] theorem Thread.setReg_nxt (x : Thread) (n : Nat) (w : Word) : (x.setReg n w).nxt = x.nxt := rfl
@[simp] theorem Thread.setReg_stamp (x : Thread) (n : Nat) (w : Word) : (x.setReg n w).stamp = x.stamp := rfl
@[simp] theorem Thread.setReg_fenced (x : Thread) (n : Nat) (w : Word) : (x.setReg n w).fenced = x.fenced := rfl

@[simp] theorem Thread.setPair_role (x : Thread) (n : Nat) (d : DWord) : (x.setPair n d).role = x.role := rfl
@[simp] theorem Thread.setPair_part (x : Thread) (n : Nat) (d : DWord) : (x.setPair n d).part = x.part := rfl
@[simp] theorem Thread.setPair_st (x : Thread) (n : Nat) (d : DWord) : (x.setPair n d).st = x.st := rfl
@[simp] theorem Thread.setPair_pos (x : Thread) (n : Nat) (d : DWord) : (x.setPair n d).pos = x.pos := rfl
@[simp] theorem Thread.setPair_nextPos (x : Thread) (n : Nat) (d : DWord) : (x.setPair n d).nextPos = x.nextPos := rfl
@[simp] theorem Thread.setPair_g (x : Thread) (n : Nat) (d : DWord) : (x.setPair n d).g = x.g := rfl
@[simp] theorem Thread.setPair_p (x : Thread) (n : Nat) (d : DWord) : (x.setPair n d).p = x.p := rfl
@[simp] theorem Thread.setPair_x (x : Thread) (n : Nat) (d : DWord) : (x.setPair n d).x = x.x := rfl
@[simp] theorem Thread.setPair_link (x : Thread) (n : Nat) (d : DWord) : (x.setPair n d).link = x.link := rfl
@[simp] theorem Thread.setPair_depth (x : Thread) (n : Nat) (d : DWord) : (x.setPair n d).depth = x.depth := rfl
@[simp] theorem Thread.setPair_sticky (x : Thread) (n : Nat) (d : DWord) : (x.setPair n d).sticky = x.sticky := rfl
@[simp] theorem Thread.setPair_reported (x : Thread) (n : Nat) (d : DWord) : (x.setPair n d).reported = x.reported := rfl
@[simp] theorem Thread.setPair_late (x : Thread) (n : Nat) (d : DWord) : (x.setPair n d).late = x.late := rfl
@[simp] theorem Thread.setPair_dpos (x : Thread) (n : Nat) (d : DWord) : (x.setPair n d).dpos = x.dpos := rfl
@[simp] theorem Thread.setPair_nxt (x : Thread) (n : Nat) (d : DWord) : (x.setPair n d).nxt = x.nxt := rfl
@[simp] theorem Thread.setPair_stamp (x : Thread) (n : Nat) (d : DWord) : (x.setPair n d).stamp = x.stamp := rfl
@[simp] theorem Thread.setPair_fenced (x : Thread) (n : Nat) (d : DWord) : (x.setPair n d).fenced = x.fenced := rfl

@[simp] theorem Thread.setPred_role (x : Thread) (n : Nat) (b : Bool) : (x.setPred n b).role = x.role := rfl
@[simp] theorem Thread.setPred_part (x : Thread) (n : Nat) (b : Bool) : (x.setPred n b).part = x.part := rfl
@[simp] theorem Thread.setPred_st (x : Thread) (n : Nat) (b : Bool) : (x.setPred n b).st = x.st := rfl
@[simp] theorem Thread.setPred_pos (x : Thread) (n : Nat) (b : Bool) : (x.setPred n b).pos = x.pos := rfl
@[simp] theorem Thread.setPred_nextPos (x : Thread) (n : Nat) (b : Bool) : (x.setPred n b).nextPos = x.nextPos := rfl
@[simp] theorem Thread.setPred_g (x : Thread) (n : Nat) (b : Bool) : (x.setPred n b).g = x.g := rfl
@[simp] theorem Thread.setPred_v (x : Thread) (n : Nat) (b : Bool) : (x.setPred n b).v = x.v := rfl
@[simp] theorem Thread.setPred_x (x : Thread) (n : Nat) (b : Bool) : (x.setPred n b).x = x.x := rfl
@[simp] theorem Thread.setPred_link (x : Thread) (n : Nat) (b : Bool) : (x.setPred n b).link = x.link := rfl
@[simp] theorem Thread.setPred_depth (x : Thread) (n : Nat) (b : Bool) : (x.setPred n b).depth = x.depth := rfl
@[simp] theorem Thread.setPred_sticky (x : Thread) (n : Nat) (b : Bool) : (x.setPred n b).sticky = x.sticky := rfl
@[simp] theorem Thread.setPred_reported (x : Thread) (n : Nat) (b : Bool) : (x.setPred n b).reported = x.reported := rfl
@[simp] theorem Thread.setPred_late (x : Thread) (n : Nat) (b : Bool) : (x.setPred n b).late = x.late := rfl
@[simp] theorem Thread.setPred_dpos (x : Thread) (n : Nat) (b : Bool) : (x.setPred n b).dpos = x.dpos := rfl
@[simp] theorem Thread.setPred_nxt (x : Thread) (n : Nat) (b : Bool) : (x.setPred n b).nxt = x.nxt := rfl
@[simp] theorem Thread.setPred_stamp (x : Thread) (n : Nat) (b : Bool) : (x.setPred n b).stamp = x.stamp := rfl
@[simp] theorem Thread.setPred_fenced (x : Thread) (n : Nat) (b : Bool) : (x.setPred n b).fenced = x.fenced := rfl

@[simp] theorem Thread.addFlags_role (x : Thread) (f : BitVec 5) : (x.addFlags f).role = x.role := rfl
@[simp] theorem Thread.addFlags_part (x : Thread) (f : BitVec 5) : (x.addFlags f).part = x.part := rfl
@[simp] theorem Thread.addFlags_st (x : Thread) (f : BitVec 5) : (x.addFlags f).st = x.st := rfl
@[simp] theorem Thread.addFlags_pos (x : Thread) (f : BitVec 5) : (x.addFlags f).pos = x.pos := rfl
@[simp] theorem Thread.addFlags_nextPos (x : Thread) (f : BitVec 5) : (x.addFlags f).nextPos = x.nextPos := rfl
@[simp] theorem Thread.addFlags_g (x : Thread) (f : BitVec 5) : (x.addFlags f).g = x.g := rfl
@[simp] theorem Thread.addFlags_v (x : Thread) (f : BitVec 5) : (x.addFlags f).v = x.v := rfl
@[simp] theorem Thread.addFlags_p (x : Thread) (f : BitVec 5) : (x.addFlags f).p = x.p := rfl
@[simp] theorem Thread.addFlags_x (x : Thread) (f : BitVec 5) : (x.addFlags f).x = x.x := rfl
@[simp] theorem Thread.addFlags_link (x : Thread) (f : BitVec 5) : (x.addFlags f).link = x.link := rfl
@[simp] theorem Thread.addFlags_depth (x : Thread) (f : BitVec 5) : (x.addFlags f).depth = x.depth := rfl
@[simp] theorem Thread.addFlags_reported (x : Thread) (f : BitVec 5) : (x.addFlags f).reported = x.reported := rfl
@[simp] theorem Thread.addFlags_late (x : Thread) (f : BitVec 5) : (x.addFlags f).late = x.late := rfl
@[simp] theorem Thread.addFlags_dpos (x : Thread) (f : BitVec 5) : (x.addFlags f).dpos = x.dpos := rfl
@[simp] theorem Thread.addFlags_nxt (x : Thread) (f : BitVec 5) : (x.addFlags f).nxt = x.nxt := rfl
@[simp] theorem Thread.addFlags_stamp (x : Thread) (f : BitVec 5) : (x.addFlags f).stamp = x.stamp := rfl
@[simp] theorem Thread.addFlags_fenced (x : Thread) (f : BitVec 5) : (x.addFlags f).fenced = x.fenced := rfl

@[simp] theorem Thread.addLate_role (x : Thread) (id la : Nat) (dregs dpreds : List Nat) (regs : List (Nat × Word)) (preds : List (Nat × Bool)) (flags : FlagSet) (st : LateSt) : (x.addLate id la dregs dpreds regs preds flags st).role = x.role := rfl
@[simp] theorem Thread.addLate_part (x : Thread) (id la : Nat) (dregs dpreds : List Nat) (regs : List (Nat × Word)) (preds : List (Nat × Bool)) (flags : FlagSet) (st : LateSt) : (x.addLate id la dregs dpreds regs preds flags st).part = x.part := rfl
@[simp] theorem Thread.addLate_st (x : Thread) (id la : Nat) (dregs dpreds : List Nat) (regs : List (Nat × Word)) (preds : List (Nat × Bool)) (flags : FlagSet) (st : LateSt) : (x.addLate id la dregs dpreds regs preds flags st).st = x.st := rfl
@[simp] theorem Thread.addLate_pos (x : Thread) (id la : Nat) (dregs dpreds : List Nat) (regs : List (Nat × Word)) (preds : List (Nat × Bool)) (flags : FlagSet) (st : LateSt) : (x.addLate id la dregs dpreds regs preds flags st).pos = x.pos := rfl
@[simp] theorem Thread.addLate_nextPos (x : Thread) (id la : Nat) (dregs dpreds : List Nat) (regs : List (Nat × Word)) (preds : List (Nat × Bool)) (flags : FlagSet) (st : LateSt) : (x.addLate id la dregs dpreds regs preds flags st).nextPos = x.nextPos := rfl
@[simp] theorem Thread.addLate_g (x : Thread) (id la : Nat) (dregs dpreds : List Nat) (regs : List (Nat × Word)) (preds : List (Nat × Bool)) (flags : FlagSet) (st : LateSt) : (x.addLate id la dregs dpreds regs preds flags st).g = x.g := rfl
@[simp] theorem Thread.addLate_v (x : Thread) (id la : Nat) (dregs dpreds : List Nat) (regs : List (Nat × Word)) (preds : List (Nat × Bool)) (flags : FlagSet) (st : LateSt) : (x.addLate id la dregs dpreds regs preds flags st).v = x.v := rfl
@[simp] theorem Thread.addLate_p (x : Thread) (id la : Nat) (dregs dpreds : List Nat) (regs : List (Nat × Word)) (preds : List (Nat × Bool)) (flags : FlagSet) (st : LateSt) : (x.addLate id la dregs dpreds regs preds flags st).p = x.p := rfl
@[simp] theorem Thread.addLate_x (x : Thread) (id la : Nat) (dregs dpreds : List Nat) (regs : List (Nat × Word)) (preds : List (Nat × Bool)) (flags : FlagSet) (st : LateSt) : (x.addLate id la dregs dpreds regs preds flags st).x = x.x := rfl
@[simp] theorem Thread.addLate_link (x : Thread) (id la : Nat) (dregs dpreds : List Nat) (regs : List (Nat × Word)) (preds : List (Nat × Bool)) (flags : FlagSet) (st : LateSt) : (x.addLate id la dregs dpreds regs preds flags st).link = x.link := rfl
@[simp] theorem Thread.addLate_depth (x : Thread) (id la : Nat) (dregs dpreds : List Nat) (regs : List (Nat × Word)) (preds : List (Nat × Bool)) (flags : FlagSet) (st : LateSt) : (x.addLate id la dregs dpreds regs preds flags st).depth = x.depth := rfl
@[simp] theorem Thread.addLate_sticky (x : Thread) (id la : Nat) (dregs dpreds : List Nat) (regs : List (Nat × Word)) (preds : List (Nat × Bool)) (flags : FlagSet) (st : LateSt) : (x.addLate id la dregs dpreds regs preds flags st).sticky = x.sticky := rfl
@[simp] theorem Thread.addLate_reported (x : Thread) (id la : Nat) (dregs dpreds : List Nat) (regs : List (Nat × Word)) (preds : List (Nat × Bool)) (flags : FlagSet) (st : LateSt) : (x.addLate id la dregs dpreds regs preds flags st).reported = x.reported := rfl
@[simp] theorem Thread.addLate_dpos (x : Thread) (id la : Nat) (dregs dpreds : List Nat) (regs : List (Nat × Word)) (preds : List (Nat × Bool)) (flags : FlagSet) (st : LateSt) : (x.addLate id la dregs dpreds regs preds flags st).dpos = x.dpos := rfl
@[simp] theorem Thread.addLate_nxt (x : Thread) (id la : Nat) (dregs dpreds : List Nat) (regs : List (Nat × Word)) (preds : List (Nat × Bool)) (flags : FlagSet) (st : LateSt) : (x.addLate id la dregs dpreds regs preds flags st).nxt = x.nxt := rfl
@[simp] theorem Thread.addLate_stamp (x : Thread) (id la : Nat) (dregs dpreds : List Nat) (regs : List (Nat × Word)) (preds : List (Nat × Bool)) (flags : FlagSet) (st : LateSt) : (x.addLate id la dregs dpreds regs preds flags st).stamp = x.stamp := rfl
@[simp] theorem Thread.addLate_fenced (x : Thread) (id la : Nat) (dregs dpreds : List Nat) (regs : List (Nat × Word)) (preds : List (Nat × Bool)) (flags : FlagSet) (st : LateSt) : (x.addLate id la dregs dpreds regs preds flags st).fenced = x.fenced := rfl

@[simp] theorem Thread.enterFormer_role (x : Thread) (p : Pos) : (x.enterFormer p).role = x.role := rfl
@[simp] theorem Thread.enterFormer_part (x : Thread) (p : Pos) : (x.enterFormer p).part = x.part := rfl
@[simp] theorem Thread.enterFormer_g (x : Thread) (p : Pos) : (x.enterFormer p).g = x.g := rfl
@[simp] theorem Thread.enterFormer_v (x : Thread) (p : Pos) : (x.enterFormer p).v = x.v := rfl
@[simp] theorem Thread.enterFormer_p (x : Thread) (p : Pos) : (x.enterFormer p).p = x.p := rfl
@[simp] theorem Thread.enterFormer_x (x : Thread) (p : Pos) : (x.enterFormer p).x = x.x := rfl
@[simp] theorem Thread.enterFormer_link (x : Thread) (p : Pos) : (x.enterFormer p).link = x.link := rfl
@[simp] theorem Thread.enterFormer_depth (x : Thread) (p : Pos) : (x.enterFormer p).depth = x.depth := rfl
@[simp] theorem Thread.enterFormer_sticky (x : Thread) (p : Pos) : (x.enterFormer p).sticky = x.sticky := rfl
@[simp] theorem Thread.enterFormer_reported (x : Thread) (p : Pos) : (x.enterFormer p).reported = x.reported := rfl
@[simp] theorem Thread.enterFormer_late (x : Thread) (p : Pos) : (x.enterFormer p).late = x.late := rfl
@[simp] theorem Thread.enterFormer_dpos (x : Thread) (p : Pos) : (x.enterFormer p).dpos = x.dpos := rfl
@[simp] theorem Thread.enterFormer_nxt (x : Thread) (p : Pos) : (x.enterFormer p).nxt = x.nxt := rfl
@[simp] theorem Thread.enterFormer_stamp (x : Thread) (p : Pos) : (x.enterFormer p).stamp = x.stamp := rfl
@[simp] theorem Thread.enterFormer_fenced (x : Thread) (p : Pos) : (x.enterFormer p).fenced = x.fenced := rfl

@[simp] theorem Thread.countDown_role (x : Thread) (before : Nat → Bool) : (x.countDown before).role = x.role := rfl
@[simp] theorem Thread.countDown_part (x : Thread) (before : Nat → Bool) : (x.countDown before).part = x.part := rfl
@[simp] theorem Thread.countDown_st (x : Thread) (before : Nat → Bool) : (x.countDown before).st = x.st := rfl
@[simp] theorem Thread.countDown_pos (x : Thread) (before : Nat → Bool) : (x.countDown before).pos = x.pos := rfl
@[simp] theorem Thread.countDown_nextPos (x : Thread) (before : Nat → Bool) : (x.countDown before).nextPos = x.nextPos := rfl
@[simp] theorem Thread.countDown_g (x : Thread) (before : Nat → Bool) : (x.countDown before).g = x.g := rfl
@[simp] theorem Thread.countDown_v (x : Thread) (before : Nat → Bool) : (x.countDown before).v = x.v := rfl
@[simp] theorem Thread.countDown_p (x : Thread) (before : Nat → Bool) : (x.countDown before).p = x.p := rfl
@[simp] theorem Thread.countDown_x (x : Thread) (before : Nat → Bool) : (x.countDown before).x = x.x := rfl
@[simp] theorem Thread.countDown_link (x : Thread) (before : Nat → Bool) : (x.countDown before).link = x.link := rfl
@[simp] theorem Thread.countDown_depth (x : Thread) (before : Nat → Bool) : (x.countDown before).depth = x.depth := rfl
@[simp] theorem Thread.countDown_sticky (x : Thread) (before : Nat → Bool) : (x.countDown before).sticky = x.sticky := rfl
@[simp] theorem Thread.countDown_reported (x : Thread) (before : Nat → Bool) : (x.countDown before).reported = x.reported := rfl
@[simp] theorem Thread.countDown_dpos (x : Thread) (before : Nat → Bool) : (x.countDown before).dpos = x.dpos := rfl
@[simp] theorem Thread.countDown_nxt (x : Thread) (before : Nat → Bool) : (x.countDown before).nxt = x.nxt := rfl
@[simp] theorem Thread.countDown_stamp (x : Thread) (before : Nat → Bool) : (x.countDown before).stamp = x.stamp := rfl
@[simp] theorem Thread.countDown_fenced (x : Thread) (before : Nat → Bool) : (x.countDown before).fenced = x.fenced := rfl

@[simp] theorem Steer.setReg_st (x : Steer) (n : Nat) (w : Word) : (x.setReg n w).st = x.st := rfl
@[simp] theorem Steer.setReg_pos (x : Steer) (n : Nat) (w : Word) : (x.setReg n w).pos = x.pos := rfl
@[simp] theorem Steer.setReg_nextPos (x : Steer) (n : Nat) (w : Word) : (x.setReg n w).nextPos = x.nextPos := rfl
@[simp] theorem Steer.setReg_g (x : Steer) (n : Nat) (w : Word) : (x.setReg n w).g = x.g := rfl
@[simp] theorem Steer.setReg_clause (x : Steer) (n : Nat) (w : Word) : (x.setReg n w).clause = x.clause := rfl
@[simp] theorem Steer.setReg_c (x : Steer) (n : Nat) (w : Word) : (x.setReg n w).c = x.c := rfl
@[simp] theorem Steer.setReg_link (x : Steer) (n : Nat) (w : Word) : (x.setReg n w).link = x.link := rfl
@[simp] theorem Steer.setReg_armt (x : Steer) (n : Nat) (w : Word) : (x.setReg n w).armt = x.armt := rfl
@[simp] theorem Steer.setReg_blatch (x : Steer) (n : Nat) (w : Word) : (x.setReg n w).blatch = x.blatch := rfl
@[simp] theorem Steer.setReg_late (x : Steer) (n : Nat) (w : Word) : (x.setReg n w).late = x.late := rfl
@[simp] theorem Steer.setReg_left (x : Steer) (n : Nat) (w : Word) : (x.setReg n w).left = x.left := rfl
@[simp] theorem Steer.setReg_fences (x : Steer) (n : Nat) (w : Word) : (x.setReg n w).fences = x.fences := rfl

@[simp] theorem Steer.setPair_st (x : Steer) (n : Nat) (d : DWord) : (x.setPair n d).st = x.st := rfl
@[simp] theorem Steer.setPair_pos (x : Steer) (n : Nat) (d : DWord) : (x.setPair n d).pos = x.pos := rfl
@[simp] theorem Steer.setPair_nextPos (x : Steer) (n : Nat) (d : DWord) : (x.setPair n d).nextPos = x.nextPos := rfl
@[simp] theorem Steer.setPair_g (x : Steer) (n : Nat) (d : DWord) : (x.setPair n d).g = x.g := rfl
@[simp] theorem Steer.setPair_clause (x : Steer) (n : Nat) (d : DWord) : (x.setPair n d).clause = x.clause := rfl
@[simp] theorem Steer.setPair_c (x : Steer) (n : Nat) (d : DWord) : (x.setPair n d).c = x.c := rfl
@[simp] theorem Steer.setPair_link (x : Steer) (n : Nat) (d : DWord) : (x.setPair n d).link = x.link := rfl
@[simp] theorem Steer.setPair_armt (x : Steer) (n : Nat) (d : DWord) : (x.setPair n d).armt = x.armt := rfl
@[simp] theorem Steer.setPair_blatch (x : Steer) (n : Nat) (d : DWord) : (x.setPair n d).blatch = x.blatch := rfl
@[simp] theorem Steer.setPair_late (x : Steer) (n : Nat) (d : DWord) : (x.setPair n d).late = x.late := rfl
@[simp] theorem Steer.setPair_left (x : Steer) (n : Nat) (d : DWord) : (x.setPair n d).left = x.left := rfl
@[simp] theorem Steer.setPair_fences (x : Steer) (n : Nat) (d : DWord) : (x.setPair n d).fences = x.fences := rfl

@[simp] theorem Steer.setCond_st (x : Steer) (n : Nat) (b : Bool) : (x.setCond n b).st = x.st := rfl
@[simp] theorem Steer.setCond_pos (x : Steer) (n : Nat) (b : Bool) : (x.setCond n b).pos = x.pos := rfl
@[simp] theorem Steer.setCond_nextPos (x : Steer) (n : Nat) (b : Bool) : (x.setCond n b).nextPos = x.nextPos := rfl
@[simp] theorem Steer.setCond_g (x : Steer) (n : Nat) (b : Bool) : (x.setCond n b).g = x.g := rfl
@[simp] theorem Steer.setCond_clause (x : Steer) (n : Nat) (b : Bool) : (x.setCond n b).clause = x.clause := rfl
@[simp] theorem Steer.setCond_s (x : Steer) (n : Nat) (b : Bool) : (x.setCond n b).s = x.s := rfl
@[simp] theorem Steer.setCond_link (x : Steer) (n : Nat) (b : Bool) : (x.setCond n b).link = x.link := rfl
@[simp] theorem Steer.setCond_armt (x : Steer) (n : Nat) (b : Bool) : (x.setCond n b).armt = x.armt := rfl
@[simp] theorem Steer.setCond_blatch (x : Steer) (n : Nat) (b : Bool) : (x.setCond n b).blatch = x.blatch := rfl
@[simp] theorem Steer.setCond_late (x : Steer) (n : Nat) (b : Bool) : (x.setCond n b).late = x.late := rfl
@[simp] theorem Steer.setCond_left (x : Steer) (n : Nat) (b : Bool) : (x.setCond n b).left = x.left := rfl
@[simp] theorem Steer.setCond_fences (x : Steer) (n : Nat) (b : Bool) : (x.setCond n b).fences = x.fences := rfl

@[simp] theorem Team.setThread_ctx (x : Team) (tid : Nat) (th : Thread) : (x.setThread tid th).ctx = x.ctx := rfl
@[simp] theorem Team.setThread_grid (x : Team) (tid : Nat) (th : Thread) : (x.setThread tid th).grid = x.grid := rfl
@[simp] theorem Team.setThread_gridNo (x : Team) (tid : Nat) (th : Thread) : (x.setThread tid th).gridNo = x.gridNo := rfl
@[simp] theorem Team.setThread_index (x : Team) (tid : Nat) (th : Thread) : (x.setThread tid th).index = x.index := rfl
@[simp] theorem Team.setThread_prio (x : Team) (tid : Nat) (th : Thread) : (x.setThread tid th).prio = x.prio := rfl
@[simp] theorem Team.setThread_accepted (x : Team) (tid : Nat) (th : Thread) : (x.setThread tid th).accepted = x.accepted := rfl
@[simp] theorem Team.setThread_depth (x : Team) (tid : Nat) (th : Thread) : (x.setThread tid th).depth = x.depth := rfl
@[simp] theorem Team.setThread_img (x : Team) (tid : Nat) (th : Thread) : (x.setThread tid th).img = x.img := rfl
@[simp] theorem Team.setThread_place (x : Team) (tid : Nat) (th : Thread) : (x.setThread tid th).place = x.place := rfl
@[simp] theorem Team.setThread_phase (x : Team) (tid : Nat) (th : Thread) : (x.setThread tid th).phase = x.phase := rfl
@[simp] theorem Team.setThread_placedAt (x : Team) (tid : Nat) (th : Thread) : (x.setThread tid th).placedAt = x.placedAt := rfl
@[simp] theorem Team.setThread_roles (x : Team) (tid : Nat) (th : Thread) : (x.setThread tid th).roles = x.roles := rfl
@[simp] theorem Team.setThread_steer (x : Team) (tid : Nat) (th : Thread) : (x.setThread tid th).steer = x.steer := rfl
@[simp] theorem Team.setThread_q (x : Team) (tid : Nat) (th : Thread) : (x.setThread tid th).q = x.q := rfl
@[simp] theorem Team.setThread_scratch (x : Team) (tid : Nat) (th : Thread) : (x.setThread tid th).scratch = x.scratch := rfl
@[simp] theorem Team.setThread_sold (x : Team) (tid : Nat) (th : Thread) : (x.setThread tid th).sold = x.sold := rfl
@[simp] theorem Team.setThread_sseq (x : Team) (tid : Nat) (th : Thread) : (x.setThread tid th).sseq = x.sseq := rfl
@[simp] theorem Team.setThread_slines (x : Team) (tid : Nat) (th : Thread) : (x.setThread tid th).slines = x.slines := rfl
@[simp] theorem Team.setThread_sbase (x : Team) (tid : Nat) (th : Thread) : (x.setThread tid th).sbase = x.sbase := rfl
@[simp] theorem Team.setThread_absent (x : Team) (tid : Nat) (th : Thread) : (x.setThread tid th).absent = x.absent := rfl
@[simp] theorem Team.setThread_tiles (x : Team) (tid : Nat) (th : Thread) : (x.setThread tid th).tiles = x.tiles := rfl
@[simp] theorem Team.setThread_feeds (x : Team) (tid : Nat) (th : Thread) : (x.setThread tid th).feeds = x.feeds := rfl
@[simp] theorem Team.setThread_bars (x : Team) (tid : Nat) (th : Thread) : (x.setThread tid th).bars = x.bars := rfl
@[simp] theorem Team.setThread_joins (x : Team) (tid : Nat) (th : Thread) : (x.setThread tid th).joins = x.joins := rfl
@[simp] theorem Team.setThread_reserve (x : Team) (tid : Nat) (th : Thread) : (x.setThread tid th).reserve = x.reserve := rfl
@[simp] theorem Team.setThread_xmask (x : Team) (tid : Nat) (th : Thread) : (x.setThread tid th).xmask = x.xmask := rfl
@[simp] theorem Team.setThread_priv (x : Team) (tid : Nat) (th : Thread) : (x.setThread tid th).priv = x.priv := rfl
@[simp] theorem Team.setThread_lspill (x : Team) (tid : Nat) (th : Thread) : (x.setThread tid th).lspill = x.lspill := rfl
@[simp] theorem Team.setThread_eng (x : Team) (tid : Nat) (th : Thread) : (x.setThread tid th).eng = x.eng := rfl
@[simp] theorem Team.setThread_ready (x : Team) (tid : Nat) (th : Thread) : (x.setThread tid th).ready = x.ready := rfl
@[simp] theorem Team.setThread_dead (x : Team) (tid : Nat) (th : Thread) : (x.setThread tid th).dead = x.dead := rfl
@[simp] theorem Team.setThread_arith (x : Team) (tid : Nat) (th : Thread) : (x.setThread tid th).arith = x.arith := rfl
@[simp] theorem Team.setThread_killed (x : Team) (tid : Nat) (th : Thread) : (x.setThread tid th).killed = x.killed := rfl
@[simp] theorem Team.setThread_children (x : Team) (tid : Nat) (th : Thread) : (x.setThread tid th).children = x.children := rfl
@[simp] theorem Team.setThread_away (x : Team) (tid : Nat) (th : Thread) : (x.setThread tid th).away = x.away := rfl
@[simp] theorem Team.setThread_gang (x : Team) (tid : Nat) (th : Thread) : (x.setThread tid th).gang = x.gang := rfl
@[simp] theorem Team.setThread_pblk (x : Team) (tid : Nat) (th : Thread) : (x.setThread tid th).pblk = x.pblk := rfl
@[simp] theorem Team.setThread_sslot (x : Team) (tid : Nat) (th : Thread) : (x.setThread tid th).sslot = x.sslot := rfl
@[simp] theorem Team.setThread_stuckSince (x : Team) (tid : Nat) (th : Thread) : (x.setThread tid th).stuckSince = x.stuckSince := rfl
@[simp] theorem Team.setThread_waitchSince (x : Team) (tid : Nat) (th : Thread) : (x.setThread tid th).waitchSince = x.waitchSince := rfl
@[simp] theorem Team.setThread_mheld (x : Team) (tid : Nat) (th : Thread) : (x.setThread tid th).mheld = x.mheld := rfl
@[simp] theorem Team.setThread_inWaitch (x : Team) (tid : Nat) (th : Thread) : (x.setThread tid th).inWaitch = x.inWaitch := rfl
@[simp] theorem Team.setThread_lateCtr (x : Team) (tid : Nat) (th : Thread) : (x.setThread tid th).lateCtr = x.lateCtr := rfl

@[simp] theorem Team.modThread_ctx (x : Team) (tid : Nat) (f : Thread → Thread) : (x.modThread tid f).ctx = x.ctx := rfl
@[simp] theorem Team.modThread_grid (x : Team) (tid : Nat) (f : Thread → Thread) : (x.modThread tid f).grid = x.grid := rfl
@[simp] theorem Team.modThread_gridNo (x : Team) (tid : Nat) (f : Thread → Thread) : (x.modThread tid f).gridNo = x.gridNo := rfl
@[simp] theorem Team.modThread_index (x : Team) (tid : Nat) (f : Thread → Thread) : (x.modThread tid f).index = x.index := rfl
@[simp] theorem Team.modThread_prio (x : Team) (tid : Nat) (f : Thread → Thread) : (x.modThread tid f).prio = x.prio := rfl
@[simp] theorem Team.modThread_accepted (x : Team) (tid : Nat) (f : Thread → Thread) : (x.modThread tid f).accepted = x.accepted := rfl
@[simp] theorem Team.modThread_depth (x : Team) (tid : Nat) (f : Thread → Thread) : (x.modThread tid f).depth = x.depth := rfl
@[simp] theorem Team.modThread_img (x : Team) (tid : Nat) (f : Thread → Thread) : (x.modThread tid f).img = x.img := rfl
@[simp] theorem Team.modThread_place (x : Team) (tid : Nat) (f : Thread → Thread) : (x.modThread tid f).place = x.place := rfl
@[simp] theorem Team.modThread_phase (x : Team) (tid : Nat) (f : Thread → Thread) : (x.modThread tid f).phase = x.phase := rfl
@[simp] theorem Team.modThread_placedAt (x : Team) (tid : Nat) (f : Thread → Thread) : (x.modThread tid f).placedAt = x.placedAt := rfl
@[simp] theorem Team.modThread_roles (x : Team) (tid : Nat) (f : Thread → Thread) : (x.modThread tid f).roles = x.roles := rfl
@[simp] theorem Team.modThread_steer (x : Team) (tid : Nat) (f : Thread → Thread) : (x.modThread tid f).steer = x.steer := rfl
@[simp] theorem Team.modThread_q (x : Team) (tid : Nat) (f : Thread → Thread) : (x.modThread tid f).q = x.q := rfl
@[simp] theorem Team.modThread_scratch (x : Team) (tid : Nat) (f : Thread → Thread) : (x.modThread tid f).scratch = x.scratch := rfl
@[simp] theorem Team.modThread_sold (x : Team) (tid : Nat) (f : Thread → Thread) : (x.modThread tid f).sold = x.sold := rfl
@[simp] theorem Team.modThread_sseq (x : Team) (tid : Nat) (f : Thread → Thread) : (x.modThread tid f).sseq = x.sseq := rfl
@[simp] theorem Team.modThread_slines (x : Team) (tid : Nat) (f : Thread → Thread) : (x.modThread tid f).slines = x.slines := rfl
@[simp] theorem Team.modThread_sbase (x : Team) (tid : Nat) (f : Thread → Thread) : (x.modThread tid f).sbase = x.sbase := rfl
@[simp] theorem Team.modThread_absent (x : Team) (tid : Nat) (f : Thread → Thread) : (x.modThread tid f).absent = x.absent := rfl
@[simp] theorem Team.modThread_tiles (x : Team) (tid : Nat) (f : Thread → Thread) : (x.modThread tid f).tiles = x.tiles := rfl
@[simp] theorem Team.modThread_feeds (x : Team) (tid : Nat) (f : Thread → Thread) : (x.modThread tid f).feeds = x.feeds := rfl
@[simp] theorem Team.modThread_bars (x : Team) (tid : Nat) (f : Thread → Thread) : (x.modThread tid f).bars = x.bars := rfl
@[simp] theorem Team.modThread_joins (x : Team) (tid : Nat) (f : Thread → Thread) : (x.modThread tid f).joins = x.joins := rfl
@[simp] theorem Team.modThread_reserve (x : Team) (tid : Nat) (f : Thread → Thread) : (x.modThread tid f).reserve = x.reserve := rfl
@[simp] theorem Team.modThread_xmask (x : Team) (tid : Nat) (f : Thread → Thread) : (x.modThread tid f).xmask = x.xmask := rfl
@[simp] theorem Team.modThread_priv (x : Team) (tid : Nat) (f : Thread → Thread) : (x.modThread tid f).priv = x.priv := rfl
@[simp] theorem Team.modThread_lspill (x : Team) (tid : Nat) (f : Thread → Thread) : (x.modThread tid f).lspill = x.lspill := rfl
@[simp] theorem Team.modThread_eng (x : Team) (tid : Nat) (f : Thread → Thread) : (x.modThread tid f).eng = x.eng := rfl
@[simp] theorem Team.modThread_ready (x : Team) (tid : Nat) (f : Thread → Thread) : (x.modThread tid f).ready = x.ready := rfl
@[simp] theorem Team.modThread_dead (x : Team) (tid : Nat) (f : Thread → Thread) : (x.modThread tid f).dead = x.dead := rfl
@[simp] theorem Team.modThread_arith (x : Team) (tid : Nat) (f : Thread → Thread) : (x.modThread tid f).arith = x.arith := rfl
@[simp] theorem Team.modThread_killed (x : Team) (tid : Nat) (f : Thread → Thread) : (x.modThread tid f).killed = x.killed := rfl
@[simp] theorem Team.modThread_children (x : Team) (tid : Nat) (f : Thread → Thread) : (x.modThread tid f).children = x.children := rfl
@[simp] theorem Team.modThread_away (x : Team) (tid : Nat) (f : Thread → Thread) : (x.modThread tid f).away = x.away := rfl
@[simp] theorem Team.modThread_gang (x : Team) (tid : Nat) (f : Thread → Thread) : (x.modThread tid f).gang = x.gang := rfl
@[simp] theorem Team.modThread_pblk (x : Team) (tid : Nat) (f : Thread → Thread) : (x.modThread tid f).pblk = x.pblk := rfl
@[simp] theorem Team.modThread_sslot (x : Team) (tid : Nat) (f : Thread → Thread) : (x.modThread tid f).sslot = x.sslot := rfl
@[simp] theorem Team.modThread_stuckSince (x : Team) (tid : Nat) (f : Thread → Thread) : (x.modThread tid f).stuckSince = x.stuckSince := rfl
@[simp] theorem Team.modThread_waitchSince (x : Team) (tid : Nat) (f : Thread → Thread) : (x.modThread tid f).waitchSince = x.waitchSince := rfl
@[simp] theorem Team.modThread_mheld (x : Team) (tid : Nat) (f : Thread → Thread) : (x.modThread tid f).mheld = x.mheld := rfl
@[simp] theorem Team.modThread_inWaitch (x : Team) (tid : Nat) (f : Thread → Thread) : (x.modThread tid f).inWaitch = x.inWaitch := rfl
@[simp] theorem Team.modThread_lateCtr (x : Team) (tid : Nat) (f : Thread → Thread) : (x.modThread tid f).lateCtr = x.lateCtr := rfl

@[simp] theorem Team.setBar_ctx (x : Team) (k : Nat) (b : Bar) : (x.setBar k b).ctx = x.ctx := rfl
@[simp] theorem Team.setBar_grid (x : Team) (k : Nat) (b : Bar) : (x.setBar k b).grid = x.grid := rfl
@[simp] theorem Team.setBar_gridNo (x : Team) (k : Nat) (b : Bar) : (x.setBar k b).gridNo = x.gridNo := rfl
@[simp] theorem Team.setBar_index (x : Team) (k : Nat) (b : Bar) : (x.setBar k b).index = x.index := rfl
@[simp] theorem Team.setBar_prio (x : Team) (k : Nat) (b : Bar) : (x.setBar k b).prio = x.prio := rfl
@[simp] theorem Team.setBar_accepted (x : Team) (k : Nat) (b : Bar) : (x.setBar k b).accepted = x.accepted := rfl
@[simp] theorem Team.setBar_depth (x : Team) (k : Nat) (b : Bar) : (x.setBar k b).depth = x.depth := rfl
@[simp] theorem Team.setBar_img (x : Team) (k : Nat) (b : Bar) : (x.setBar k b).img = x.img := rfl
@[simp] theorem Team.setBar_place (x : Team) (k : Nat) (b : Bar) : (x.setBar k b).place = x.place := rfl
@[simp] theorem Team.setBar_phase (x : Team) (k : Nat) (b : Bar) : (x.setBar k b).phase = x.phase := rfl
@[simp] theorem Team.setBar_placedAt (x : Team) (k : Nat) (b : Bar) : (x.setBar k b).placedAt = x.placedAt := rfl
@[simp] theorem Team.setBar_roles (x : Team) (k : Nat) (b : Bar) : (x.setBar k b).roles = x.roles := rfl
@[simp] theorem Team.setBar_threads (x : Team) (k : Nat) (b : Bar) : (x.setBar k b).threads = x.threads := rfl
@[simp] theorem Team.setBar_steer (x : Team) (k : Nat) (b : Bar) : (x.setBar k b).steer = x.steer := rfl
@[simp] theorem Team.setBar_q (x : Team) (k : Nat) (b : Bar) : (x.setBar k b).q = x.q := rfl
@[simp] theorem Team.setBar_scratch (x : Team) (k : Nat) (b : Bar) : (x.setBar k b).scratch = x.scratch := rfl
@[simp] theorem Team.setBar_sold (x : Team) (k : Nat) (b : Bar) : (x.setBar k b).sold = x.sold := rfl
@[simp] theorem Team.setBar_sseq (x : Team) (k : Nat) (b : Bar) : (x.setBar k b).sseq = x.sseq := rfl
@[simp] theorem Team.setBar_slines (x : Team) (k : Nat) (b : Bar) : (x.setBar k b).slines = x.slines := rfl
@[simp] theorem Team.setBar_sbase (x : Team) (k : Nat) (b : Bar) : (x.setBar k b).sbase = x.sbase := rfl
@[simp] theorem Team.setBar_absent (x : Team) (k : Nat) (b : Bar) : (x.setBar k b).absent = x.absent := rfl
@[simp] theorem Team.setBar_tiles (x : Team) (k : Nat) (b : Bar) : (x.setBar k b).tiles = x.tiles := rfl
@[simp] theorem Team.setBar_feeds (x : Team) (k : Nat) (b : Bar) : (x.setBar k b).feeds = x.feeds := rfl
@[simp] theorem Team.setBar_joins (x : Team) (k : Nat) (b : Bar) : (x.setBar k b).joins = x.joins := rfl
@[simp] theorem Team.setBar_reserve (x : Team) (k : Nat) (b : Bar) : (x.setBar k b).reserve = x.reserve := rfl
@[simp] theorem Team.setBar_xmask (x : Team) (k : Nat) (b : Bar) : (x.setBar k b).xmask = x.xmask := rfl
@[simp] theorem Team.setBar_priv (x : Team) (k : Nat) (b : Bar) : (x.setBar k b).priv = x.priv := rfl
@[simp] theorem Team.setBar_lspill (x : Team) (k : Nat) (b : Bar) : (x.setBar k b).lspill = x.lspill := rfl
@[simp] theorem Team.setBar_eng (x : Team) (k : Nat) (b : Bar) : (x.setBar k b).eng = x.eng := rfl
@[simp] theorem Team.setBar_ready (x : Team) (k : Nat) (b : Bar) : (x.setBar k b).ready = x.ready := rfl
@[simp] theorem Team.setBar_dead (x : Team) (k : Nat) (b : Bar) : (x.setBar k b).dead = x.dead := rfl
@[simp] theorem Team.setBar_arith (x : Team) (k : Nat) (b : Bar) : (x.setBar k b).arith = x.arith := rfl
@[simp] theorem Team.setBar_killed (x : Team) (k : Nat) (b : Bar) : (x.setBar k b).killed = x.killed := rfl
@[simp] theorem Team.setBar_children (x : Team) (k : Nat) (b : Bar) : (x.setBar k b).children = x.children := rfl
@[simp] theorem Team.setBar_away (x : Team) (k : Nat) (b : Bar) : (x.setBar k b).away = x.away := rfl
@[simp] theorem Team.setBar_gang (x : Team) (k : Nat) (b : Bar) : (x.setBar k b).gang = x.gang := rfl
@[simp] theorem Team.setBar_pblk (x : Team) (k : Nat) (b : Bar) : (x.setBar k b).pblk = x.pblk := rfl
@[simp] theorem Team.setBar_sslot (x : Team) (k : Nat) (b : Bar) : (x.setBar k b).sslot = x.sslot := rfl
@[simp] theorem Team.setBar_stuckSince (x : Team) (k : Nat) (b : Bar) : (x.setBar k b).stuckSince = x.stuckSince := rfl
@[simp] theorem Team.setBar_waitchSince (x : Team) (k : Nat) (b : Bar) : (x.setBar k b).waitchSince = x.waitchSince := rfl
@[simp] theorem Team.setBar_mheld (x : Team) (k : Nat) (b : Bar) : (x.setBar k b).mheld = x.mheld := rfl
@[simp] theorem Team.setBar_inWaitch (x : Team) (k : Nat) (b : Bar) : (x.setBar k b).inWaitch = x.inWaitch := rfl
@[simp] theorem Team.setBar_lateCtr (x : Team) (k : Nat) (b : Bar) : (x.setBar k b).lateCtr = x.lateCtr := rfl

@[simp] theorem Team.setJoin_ctx (x : Team) (j : Nat) (y : Join) : (x.setJoin j y).ctx = x.ctx := rfl
@[simp] theorem Team.setJoin_grid (x : Team) (j : Nat) (y : Join) : (x.setJoin j y).grid = x.grid := rfl
@[simp] theorem Team.setJoin_gridNo (x : Team) (j : Nat) (y : Join) : (x.setJoin j y).gridNo = x.gridNo := rfl
@[simp] theorem Team.setJoin_index (x : Team) (j : Nat) (y : Join) : (x.setJoin j y).index = x.index := rfl
@[simp] theorem Team.setJoin_prio (x : Team) (j : Nat) (y : Join) : (x.setJoin j y).prio = x.prio := rfl
@[simp] theorem Team.setJoin_accepted (x : Team) (j : Nat) (y : Join) : (x.setJoin j y).accepted = x.accepted := rfl
@[simp] theorem Team.setJoin_depth (x : Team) (j : Nat) (y : Join) : (x.setJoin j y).depth = x.depth := rfl
@[simp] theorem Team.setJoin_img (x : Team) (j : Nat) (y : Join) : (x.setJoin j y).img = x.img := rfl
@[simp] theorem Team.setJoin_place (x : Team) (j : Nat) (y : Join) : (x.setJoin j y).place = x.place := rfl
@[simp] theorem Team.setJoin_phase (x : Team) (j : Nat) (y : Join) : (x.setJoin j y).phase = x.phase := rfl
@[simp] theorem Team.setJoin_placedAt (x : Team) (j : Nat) (y : Join) : (x.setJoin j y).placedAt = x.placedAt := rfl
@[simp] theorem Team.setJoin_roles (x : Team) (j : Nat) (y : Join) : (x.setJoin j y).roles = x.roles := rfl
@[simp] theorem Team.setJoin_threads (x : Team) (j : Nat) (y : Join) : (x.setJoin j y).threads = x.threads := rfl
@[simp] theorem Team.setJoin_steer (x : Team) (j : Nat) (y : Join) : (x.setJoin j y).steer = x.steer := rfl
@[simp] theorem Team.setJoin_q (x : Team) (j : Nat) (y : Join) : (x.setJoin j y).q = x.q := rfl
@[simp] theorem Team.setJoin_scratch (x : Team) (j : Nat) (y : Join) : (x.setJoin j y).scratch = x.scratch := rfl
@[simp] theorem Team.setJoin_sold (x : Team) (j : Nat) (y : Join) : (x.setJoin j y).sold = x.sold := rfl
@[simp] theorem Team.setJoin_sseq (x : Team) (j : Nat) (y : Join) : (x.setJoin j y).sseq = x.sseq := rfl
@[simp] theorem Team.setJoin_slines (x : Team) (j : Nat) (y : Join) : (x.setJoin j y).slines = x.slines := rfl
@[simp] theorem Team.setJoin_sbase (x : Team) (j : Nat) (y : Join) : (x.setJoin j y).sbase = x.sbase := rfl
@[simp] theorem Team.setJoin_absent (x : Team) (j : Nat) (y : Join) : (x.setJoin j y).absent = x.absent := rfl
@[simp] theorem Team.setJoin_tiles (x : Team) (j : Nat) (y : Join) : (x.setJoin j y).tiles = x.tiles := rfl
@[simp] theorem Team.setJoin_feeds (x : Team) (j : Nat) (y : Join) : (x.setJoin j y).feeds = x.feeds := rfl
@[simp] theorem Team.setJoin_bars (x : Team) (j : Nat) (y : Join) : (x.setJoin j y).bars = x.bars := rfl
@[simp] theorem Team.setJoin_reserve (x : Team) (j : Nat) (y : Join) : (x.setJoin j y).reserve = x.reserve := rfl
@[simp] theorem Team.setJoin_xmask (x : Team) (j : Nat) (y : Join) : (x.setJoin j y).xmask = x.xmask := rfl
@[simp] theorem Team.setJoin_priv (x : Team) (j : Nat) (y : Join) : (x.setJoin j y).priv = x.priv := rfl
@[simp] theorem Team.setJoin_lspill (x : Team) (j : Nat) (y : Join) : (x.setJoin j y).lspill = x.lspill := rfl
@[simp] theorem Team.setJoin_eng (x : Team) (j : Nat) (y : Join) : (x.setJoin j y).eng = x.eng := rfl
@[simp] theorem Team.setJoin_ready (x : Team) (j : Nat) (y : Join) : (x.setJoin j y).ready = x.ready := rfl
@[simp] theorem Team.setJoin_dead (x : Team) (j : Nat) (y : Join) : (x.setJoin j y).dead = x.dead := rfl
@[simp] theorem Team.setJoin_arith (x : Team) (j : Nat) (y : Join) : (x.setJoin j y).arith = x.arith := rfl
@[simp] theorem Team.setJoin_killed (x : Team) (j : Nat) (y : Join) : (x.setJoin j y).killed = x.killed := rfl
@[simp] theorem Team.setJoin_children (x : Team) (j : Nat) (y : Join) : (x.setJoin j y).children = x.children := rfl
@[simp] theorem Team.setJoin_away (x : Team) (j : Nat) (y : Join) : (x.setJoin j y).away = x.away := rfl
@[simp] theorem Team.setJoin_gang (x : Team) (j : Nat) (y : Join) : (x.setJoin j y).gang = x.gang := rfl
@[simp] theorem Team.setJoin_pblk (x : Team) (j : Nat) (y : Join) : (x.setJoin j y).pblk = x.pblk := rfl
@[simp] theorem Team.setJoin_sslot (x : Team) (j : Nat) (y : Join) : (x.setJoin j y).sslot = x.sslot := rfl
@[simp] theorem Team.setJoin_stuckSince (x : Team) (j : Nat) (y : Join) : (x.setJoin j y).stuckSince = x.stuckSince := rfl
@[simp] theorem Team.setJoin_waitchSince (x : Team) (j : Nat) (y : Join) : (x.setJoin j y).waitchSince = x.waitchSince := rfl
@[simp] theorem Team.setJoin_mheld (x : Team) (j : Nat) (y : Join) : (x.setJoin j y).mheld = x.mheld := rfl
@[simp] theorem Team.setJoin_inWaitch (x : Team) (j : Nat) (y : Join) : (x.setJoin j y).inWaitch = x.inWaitch := rfl
@[simp] theorem Team.setJoin_lateCtr (x : Team) (j : Nat) (y : Join) : (x.setJoin j y).lateCtr = x.lateCtr := rfl

@[simp] theorem Team.setFeed_ctx (x : Team) (n : Nat) (y : Feed) : (x.setFeed n y).ctx = x.ctx := rfl
@[simp] theorem Team.setFeed_grid (x : Team) (n : Nat) (y : Feed) : (x.setFeed n y).grid = x.grid := rfl
@[simp] theorem Team.setFeed_gridNo (x : Team) (n : Nat) (y : Feed) : (x.setFeed n y).gridNo = x.gridNo := rfl
@[simp] theorem Team.setFeed_index (x : Team) (n : Nat) (y : Feed) : (x.setFeed n y).index = x.index := rfl
@[simp] theorem Team.setFeed_prio (x : Team) (n : Nat) (y : Feed) : (x.setFeed n y).prio = x.prio := rfl
@[simp] theorem Team.setFeed_accepted (x : Team) (n : Nat) (y : Feed) : (x.setFeed n y).accepted = x.accepted := rfl
@[simp] theorem Team.setFeed_depth (x : Team) (n : Nat) (y : Feed) : (x.setFeed n y).depth = x.depth := rfl
@[simp] theorem Team.setFeed_img (x : Team) (n : Nat) (y : Feed) : (x.setFeed n y).img = x.img := rfl
@[simp] theorem Team.setFeed_place (x : Team) (n : Nat) (y : Feed) : (x.setFeed n y).place = x.place := rfl
@[simp] theorem Team.setFeed_phase (x : Team) (n : Nat) (y : Feed) : (x.setFeed n y).phase = x.phase := rfl
@[simp] theorem Team.setFeed_placedAt (x : Team) (n : Nat) (y : Feed) : (x.setFeed n y).placedAt = x.placedAt := rfl
@[simp] theorem Team.setFeed_roles (x : Team) (n : Nat) (y : Feed) : (x.setFeed n y).roles = x.roles := rfl
@[simp] theorem Team.setFeed_threads (x : Team) (n : Nat) (y : Feed) : (x.setFeed n y).threads = x.threads := rfl
@[simp] theorem Team.setFeed_steer (x : Team) (n : Nat) (y : Feed) : (x.setFeed n y).steer = x.steer := rfl
@[simp] theorem Team.setFeed_q (x : Team) (n : Nat) (y : Feed) : (x.setFeed n y).q = x.q := rfl
@[simp] theorem Team.setFeed_scratch (x : Team) (n : Nat) (y : Feed) : (x.setFeed n y).scratch = x.scratch := rfl
@[simp] theorem Team.setFeed_sold (x : Team) (n : Nat) (y : Feed) : (x.setFeed n y).sold = x.sold := rfl
@[simp] theorem Team.setFeed_sseq (x : Team) (n : Nat) (y : Feed) : (x.setFeed n y).sseq = x.sseq := rfl
@[simp] theorem Team.setFeed_slines (x : Team) (n : Nat) (y : Feed) : (x.setFeed n y).slines = x.slines := rfl
@[simp] theorem Team.setFeed_sbase (x : Team) (n : Nat) (y : Feed) : (x.setFeed n y).sbase = x.sbase := rfl
@[simp] theorem Team.setFeed_absent (x : Team) (n : Nat) (y : Feed) : (x.setFeed n y).absent = x.absent := rfl
@[simp] theorem Team.setFeed_tiles (x : Team) (n : Nat) (y : Feed) : (x.setFeed n y).tiles = x.tiles := rfl
@[simp] theorem Team.setFeed_bars (x : Team) (n : Nat) (y : Feed) : (x.setFeed n y).bars = x.bars := rfl
@[simp] theorem Team.setFeed_joins (x : Team) (n : Nat) (y : Feed) : (x.setFeed n y).joins = x.joins := rfl
@[simp] theorem Team.setFeed_reserve (x : Team) (n : Nat) (y : Feed) : (x.setFeed n y).reserve = x.reserve := rfl
@[simp] theorem Team.setFeed_xmask (x : Team) (n : Nat) (y : Feed) : (x.setFeed n y).xmask = x.xmask := rfl
@[simp] theorem Team.setFeed_priv (x : Team) (n : Nat) (y : Feed) : (x.setFeed n y).priv = x.priv := rfl
@[simp] theorem Team.setFeed_lspill (x : Team) (n : Nat) (y : Feed) : (x.setFeed n y).lspill = x.lspill := rfl
@[simp] theorem Team.setFeed_eng (x : Team) (n : Nat) (y : Feed) : (x.setFeed n y).eng = x.eng := rfl
@[simp] theorem Team.setFeed_ready (x : Team) (n : Nat) (y : Feed) : (x.setFeed n y).ready = x.ready := rfl
@[simp] theorem Team.setFeed_dead (x : Team) (n : Nat) (y : Feed) : (x.setFeed n y).dead = x.dead := rfl
@[simp] theorem Team.setFeed_arith (x : Team) (n : Nat) (y : Feed) : (x.setFeed n y).arith = x.arith := rfl
@[simp] theorem Team.setFeed_killed (x : Team) (n : Nat) (y : Feed) : (x.setFeed n y).killed = x.killed := rfl
@[simp] theorem Team.setFeed_children (x : Team) (n : Nat) (y : Feed) : (x.setFeed n y).children = x.children := rfl
@[simp] theorem Team.setFeed_away (x : Team) (n : Nat) (y : Feed) : (x.setFeed n y).away = x.away := rfl
@[simp] theorem Team.setFeed_gang (x : Team) (n : Nat) (y : Feed) : (x.setFeed n y).gang = x.gang := rfl
@[simp] theorem Team.setFeed_pblk (x : Team) (n : Nat) (y : Feed) : (x.setFeed n y).pblk = x.pblk := rfl
@[simp] theorem Team.setFeed_sslot (x : Team) (n : Nat) (y : Feed) : (x.setFeed n y).sslot = x.sslot := rfl
@[simp] theorem Team.setFeed_stuckSince (x : Team) (n : Nat) (y : Feed) : (x.setFeed n y).stuckSince = x.stuckSince := rfl
@[simp] theorem Team.setFeed_waitchSince (x : Team) (n : Nat) (y : Feed) : (x.setFeed n y).waitchSince = x.waitchSince := rfl
@[simp] theorem Team.setFeed_mheld (x : Team) (n : Nat) (y : Feed) : (x.setFeed n y).mheld = x.mheld := rfl
@[simp] theorem Team.setFeed_inWaitch (x : Team) (n : Nat) (y : Feed) : (x.setFeed n y).inWaitch = x.inWaitch := rfl
@[simp] theorem Team.setFeed_lateCtr (x : Team) (n : Nat) (y : Feed) : (x.setFeed n y).lateCtr = x.lateCtr := rfl

@[simp] theorem Team.sstore_ctx (x : Team) (a : Nat) (bs : List Byte) : (x.sstore a bs).ctx = x.ctx := rfl
@[simp] theorem Team.sstore_grid (x : Team) (a : Nat) (bs : List Byte) : (x.sstore a bs).grid = x.grid := rfl
@[simp] theorem Team.sstore_gridNo (x : Team) (a : Nat) (bs : List Byte) : (x.sstore a bs).gridNo = x.gridNo := rfl
@[simp] theorem Team.sstore_index (x : Team) (a : Nat) (bs : List Byte) : (x.sstore a bs).index = x.index := rfl
@[simp] theorem Team.sstore_prio (x : Team) (a : Nat) (bs : List Byte) : (x.sstore a bs).prio = x.prio := rfl
@[simp] theorem Team.sstore_accepted (x : Team) (a : Nat) (bs : List Byte) : (x.sstore a bs).accepted = x.accepted := rfl
@[simp] theorem Team.sstore_depth (x : Team) (a : Nat) (bs : List Byte) : (x.sstore a bs).depth = x.depth := rfl
@[simp] theorem Team.sstore_img (x : Team) (a : Nat) (bs : List Byte) : (x.sstore a bs).img = x.img := rfl
@[simp] theorem Team.sstore_place (x : Team) (a : Nat) (bs : List Byte) : (x.sstore a bs).place = x.place := rfl
@[simp] theorem Team.sstore_phase (x : Team) (a : Nat) (bs : List Byte) : (x.sstore a bs).phase = x.phase := rfl
@[simp] theorem Team.sstore_placedAt (x : Team) (a : Nat) (bs : List Byte) : (x.sstore a bs).placedAt = x.placedAt := rfl
@[simp] theorem Team.sstore_roles (x : Team) (a : Nat) (bs : List Byte) : (x.sstore a bs).roles = x.roles := rfl
@[simp] theorem Team.sstore_threads (x : Team) (a : Nat) (bs : List Byte) : (x.sstore a bs).threads = x.threads := rfl
@[simp] theorem Team.sstore_steer (x : Team) (a : Nat) (bs : List Byte) : (x.sstore a bs).steer = x.steer := rfl
@[simp] theorem Team.sstore_q (x : Team) (a : Nat) (bs : List Byte) : (x.sstore a bs).q = x.q := rfl
@[simp] theorem Team.sstore_slines (x : Team) (a : Nat) (bs : List Byte) : (x.sstore a bs).slines = x.slines := rfl
@[simp] theorem Team.sstore_sbase (x : Team) (a : Nat) (bs : List Byte) : (x.sstore a bs).sbase = x.sbase := rfl
@[simp] theorem Team.sstore_absent (x : Team) (a : Nat) (bs : List Byte) : (x.sstore a bs).absent = x.absent := rfl
@[simp] theorem Team.sstore_tiles (x : Team) (a : Nat) (bs : List Byte) : (x.sstore a bs).tiles = x.tiles := rfl
@[simp] theorem Team.sstore_feeds (x : Team) (a : Nat) (bs : List Byte) : (x.sstore a bs).feeds = x.feeds := rfl
@[simp] theorem Team.sstore_bars (x : Team) (a : Nat) (bs : List Byte) : (x.sstore a bs).bars = x.bars := rfl
@[simp] theorem Team.sstore_joins (x : Team) (a : Nat) (bs : List Byte) : (x.sstore a bs).joins = x.joins := rfl
@[simp] theorem Team.sstore_reserve (x : Team) (a : Nat) (bs : List Byte) : (x.sstore a bs).reserve = x.reserve := rfl
@[simp] theorem Team.sstore_xmask (x : Team) (a : Nat) (bs : List Byte) : (x.sstore a bs).xmask = x.xmask := rfl
@[simp] theorem Team.sstore_priv (x : Team) (a : Nat) (bs : List Byte) : (x.sstore a bs).priv = x.priv := rfl
@[simp] theorem Team.sstore_lspill (x : Team) (a : Nat) (bs : List Byte) : (x.sstore a bs).lspill = x.lspill := rfl
@[simp] theorem Team.sstore_eng (x : Team) (a : Nat) (bs : List Byte) : (x.sstore a bs).eng = x.eng := rfl
@[simp] theorem Team.sstore_ready (x : Team) (a : Nat) (bs : List Byte) : (x.sstore a bs).ready = x.ready := rfl
@[simp] theorem Team.sstore_dead (x : Team) (a : Nat) (bs : List Byte) : (x.sstore a bs).dead = x.dead := rfl
@[simp] theorem Team.sstore_arith (x : Team) (a : Nat) (bs : List Byte) : (x.sstore a bs).arith = x.arith := rfl
@[simp] theorem Team.sstore_killed (x : Team) (a : Nat) (bs : List Byte) : (x.sstore a bs).killed = x.killed := rfl
@[simp] theorem Team.sstore_children (x : Team) (a : Nat) (bs : List Byte) : (x.sstore a bs).children = x.children := rfl
@[simp] theorem Team.sstore_away (x : Team) (a : Nat) (bs : List Byte) : (x.sstore a bs).away = x.away := rfl
@[simp] theorem Team.sstore_gang (x : Team) (a : Nat) (bs : List Byte) : (x.sstore a bs).gang = x.gang := rfl
@[simp] theorem Team.sstore_pblk (x : Team) (a : Nat) (bs : List Byte) : (x.sstore a bs).pblk = x.pblk := rfl
@[simp] theorem Team.sstore_sslot (x : Team) (a : Nat) (bs : List Byte) : (x.sstore a bs).sslot = x.sslot := rfl
@[simp] theorem Team.sstore_stuckSince (x : Team) (a : Nat) (bs : List Byte) : (x.sstore a bs).stuckSince = x.stuckSince := rfl
@[simp] theorem Team.sstore_waitchSince (x : Team) (a : Nat) (bs : List Byte) : (x.sstore a bs).waitchSince = x.waitchSince := rfl
@[simp] theorem Team.sstore_mheld (x : Team) (a : Nat) (bs : List Byte) : (x.sstore a bs).mheld = x.mheld := rfl
@[simp] theorem Team.sstore_inWaitch (x : Team) (a : Nat) (bs : List Byte) : (x.sstore a bs).inWaitch = x.inWaitch := rfl
@[simp] theorem Team.sstore_lateCtr (x : Team) (a : Nat) (bs : List Byte) : (x.sstore a bs).lateCtr = x.lateCtr := rfl

@[simp] theorem Team.modRole_ctx (x : Team) (k : Nat) (f : Role → Role) : (x.modRole k f).ctx = x.ctx := rfl
@[simp] theorem Team.modRole_grid (x : Team) (k : Nat) (f : Role → Role) : (x.modRole k f).grid = x.grid := rfl
@[simp] theorem Team.modRole_gridNo (x : Team) (k : Nat) (f : Role → Role) : (x.modRole k f).gridNo = x.gridNo := rfl
@[simp] theorem Team.modRole_index (x : Team) (k : Nat) (f : Role → Role) : (x.modRole k f).index = x.index := rfl
@[simp] theorem Team.modRole_prio (x : Team) (k : Nat) (f : Role → Role) : (x.modRole k f).prio = x.prio := rfl
@[simp] theorem Team.modRole_accepted (x : Team) (k : Nat) (f : Role → Role) : (x.modRole k f).accepted = x.accepted := rfl
@[simp] theorem Team.modRole_depth (x : Team) (k : Nat) (f : Role → Role) : (x.modRole k f).depth = x.depth := rfl
@[simp] theorem Team.modRole_img (x : Team) (k : Nat) (f : Role → Role) : (x.modRole k f).img = x.img := rfl
@[simp] theorem Team.modRole_place (x : Team) (k : Nat) (f : Role → Role) : (x.modRole k f).place = x.place := rfl
@[simp] theorem Team.modRole_phase (x : Team) (k : Nat) (f : Role → Role) : (x.modRole k f).phase = x.phase := rfl
@[simp] theorem Team.modRole_placedAt (x : Team) (k : Nat) (f : Role → Role) : (x.modRole k f).placedAt = x.placedAt := rfl
@[simp] theorem Team.modRole_threads (x : Team) (k : Nat) (f : Role → Role) : (x.modRole k f).threads = x.threads := rfl
@[simp] theorem Team.modRole_steer (x : Team) (k : Nat) (f : Role → Role) : (x.modRole k f).steer = x.steer := rfl
@[simp] theorem Team.modRole_q (x : Team) (k : Nat) (f : Role → Role) : (x.modRole k f).q = x.q := rfl
@[simp] theorem Team.modRole_scratch (x : Team) (k : Nat) (f : Role → Role) : (x.modRole k f).scratch = x.scratch := rfl
@[simp] theorem Team.modRole_sold (x : Team) (k : Nat) (f : Role → Role) : (x.modRole k f).sold = x.sold := rfl
@[simp] theorem Team.modRole_sseq (x : Team) (k : Nat) (f : Role → Role) : (x.modRole k f).sseq = x.sseq := rfl
@[simp] theorem Team.modRole_slines (x : Team) (k : Nat) (f : Role → Role) : (x.modRole k f).slines = x.slines := rfl
@[simp] theorem Team.modRole_sbase (x : Team) (k : Nat) (f : Role → Role) : (x.modRole k f).sbase = x.sbase := rfl
@[simp] theorem Team.modRole_absent (x : Team) (k : Nat) (f : Role → Role) : (x.modRole k f).absent = x.absent := rfl
@[simp] theorem Team.modRole_tiles (x : Team) (k : Nat) (f : Role → Role) : (x.modRole k f).tiles = x.tiles := rfl
@[simp] theorem Team.modRole_feeds (x : Team) (k : Nat) (f : Role → Role) : (x.modRole k f).feeds = x.feeds := rfl
@[simp] theorem Team.modRole_bars (x : Team) (k : Nat) (f : Role → Role) : (x.modRole k f).bars = x.bars := rfl
@[simp] theorem Team.modRole_joins (x : Team) (k : Nat) (f : Role → Role) : (x.modRole k f).joins = x.joins := rfl
@[simp] theorem Team.modRole_reserve (x : Team) (k : Nat) (f : Role → Role) : (x.modRole k f).reserve = x.reserve := rfl
@[simp] theorem Team.modRole_xmask (x : Team) (k : Nat) (f : Role → Role) : (x.modRole k f).xmask = x.xmask := rfl
@[simp] theorem Team.modRole_priv (x : Team) (k : Nat) (f : Role → Role) : (x.modRole k f).priv = x.priv := rfl
@[simp] theorem Team.modRole_lspill (x : Team) (k : Nat) (f : Role → Role) : (x.modRole k f).lspill = x.lspill := rfl
@[simp] theorem Team.modRole_eng (x : Team) (k : Nat) (f : Role → Role) : (x.modRole k f).eng = x.eng := rfl
@[simp] theorem Team.modRole_ready (x : Team) (k : Nat) (f : Role → Role) : (x.modRole k f).ready = x.ready := rfl
@[simp] theorem Team.modRole_dead (x : Team) (k : Nat) (f : Role → Role) : (x.modRole k f).dead = x.dead := rfl
@[simp] theorem Team.modRole_arith (x : Team) (k : Nat) (f : Role → Role) : (x.modRole k f).arith = x.arith := rfl
@[simp] theorem Team.modRole_killed (x : Team) (k : Nat) (f : Role → Role) : (x.modRole k f).killed = x.killed := rfl
@[simp] theorem Team.modRole_children (x : Team) (k : Nat) (f : Role → Role) : (x.modRole k f).children = x.children := rfl
@[simp] theorem Team.modRole_away (x : Team) (k : Nat) (f : Role → Role) : (x.modRole k f).away = x.away := rfl
@[simp] theorem Team.modRole_gang (x : Team) (k : Nat) (f : Role → Role) : (x.modRole k f).gang = x.gang := rfl
@[simp] theorem Team.modRole_pblk (x : Team) (k : Nat) (f : Role → Role) : (x.modRole k f).pblk = x.pblk := rfl
@[simp] theorem Team.modRole_sslot (x : Team) (k : Nat) (f : Role → Role) : (x.modRole k f).sslot = x.sslot := rfl
@[simp] theorem Team.modRole_stuckSince (x : Team) (k : Nat) (f : Role → Role) : (x.modRole k f).stuckSince = x.stuckSince := rfl
@[simp] theorem Team.modRole_waitchSince (x : Team) (k : Nat) (f : Role → Role) : (x.modRole k f).waitchSince = x.waitchSince := rfl
@[simp] theorem Team.modRole_mheld (x : Team) (k : Nat) (f : Role → Role) : (x.modRole k f).mheld = x.mheld := rfl
@[simp] theorem Team.modRole_inWaitch (x : Team) (k : Nat) (f : Role → Role) : (x.modRole k f).inWaitch = x.inWaitch := rfl
@[simp] theorem Team.modRole_lateCtr (x : Team) (k : Nat) (f : Role → Role) : (x.modRole k f).lateCtr = x.lateCtr := rfl

/-! ## Reading back -/

@[simp] theorem State.team?_setTeam (s : State) (t : Nat) (T : Team) : (s.setTeam t T).team? t = some T := Map.find?_put_self _ _ _

theorem State.team?_setTeam_ne (s : State) {t u : Nat} (T : Team) (h : u ≠ t) : (s.setTeam t T).team? u = s.team? u :=
  Map.find?_put_ne _ _ h

@[simp] theorem State.team?_setThread (s : State) (t : Nat) (T : Team) (tid : Nat) (th : Thread) :
    (s.setThread t T tid th).team? t = some (T.setThread tid th) := State.team?_setTeam _ _ _

theorem State.team?_setThread_ne (s : State) {t u : Nat} (T : Team) (tid : Nat) (th : Thread) (h : u ≠ t) :
    (s.setThread t T tid th).team? u = s.team? u := State.team?_setTeam_ne _ _ h

@[simp] theorem Team.thread?_setThread (T : Team) (tid : Nat) (th : Thread) : (T.setThread tid th).thread? tid = some th :=
  Map.find?_put_self _ _ _

theorem Team.thread?_setThread_ne (T : Team) {tid u : Nat} (th : Thread) (h : u ≠ tid) : (T.setThread tid th).thread? u = T.thread? u :=
  Map.find?_put_ne _ _ h

@[simp] theorem Thread.reg_setReg (th : Thread) (n : Nat) (w : Word) : (th.setReg n w).reg n = w := Map.get_set_self _ _ _ _

theorem Thread.reg_setReg_ne (th : Thread) {n r : Nat} (w : Word) (h : r ≠ n) : (th.setReg n w).reg r = th.reg r := Map.get_set_ne _ _ _ h

@[simp] theorem Thread.reg_setPred (th : Thread) (n r : Nat) (b : Bool) : (th.setPred n b).reg r = th.reg r := rfl

@[simp] theorem Thread.reg_addFlags (th : Thread) (f : BitVec 5) (r : Nat) : (th.addFlags f).reg r = th.reg r := rfl

@[simp] theorem Thread.pred_setReg (th : Thread) (n p : Nat) (w : Word) : (th.setReg n w).pred p = th.pred p := rfl

@[simp] theorem Thread.pred_setPair (th : Thread) (n p : Nat) (d : DWord) : (th.setPair n d).pred p = th.pred p := rfl

@[simp] theorem Thread.pred_addFlags (th : Thread) (f : BitVec 5) (p : Nat) : (th.addFlags f).pred p = th.pred p := rfl

@[simp] theorem Steer.reg_setReg (st : Steer) (n : Nat) (w : Word) : (st.setReg n w).reg n = w := Map.get_set_self _ _ _ _

theorem Steer.reg_setReg_ne (st : Steer) {n r : Nat} (w : Word) (h : r ≠ n) : (st.setReg n w).reg r = st.reg r := Map.get_set_ne _ _ _ h

@[simp] theorem Steer.cond_setReg (st : Steer) (n c : Nat) (w : Word) : (st.setReg n w).cond c = st.cond c := rfl

@[simp] theorem setBit_self {w : Nat} (v : BitVec w) {n : Nat} (b : Bool) (h : n < w) : (setBit v n b).getLsbD n = b := by
  unfold setBit
  cases b <;> simp [h]

theorem setBit_ne {w : Nat} (v : BitVec w) {n i : Nat} (b : Bool) (h : i ≠ n) : (setBit v n b).getLsbD i = v.getLsbD i := by
  unfold setBit
  by_cases hi : i < w
  · cases b <;> simp [hi, h]
  · rw [BitVec.getLsbD_of_ge _ _ (by omega), BitVec.getLsbD_of_ge _ _ (by omega)]

theorem Thread.pred_setPred (th : Thread) {n : Nat} (b : Bool) (h : n < 16) : (th.setPred n b).pred n = b := setBit_self th.p b h

theorem Thread.pred_setPred_ne (th : Thread) {n p : Nat} (b : Bool) (h : p ≠ n) : (th.setPred n b).pred p = th.pred p := setBit_ne th.p b h

theorem Steer.cond_setCond (st : Steer) {n : Nat} (b : Bool) (h : n < 8) : (st.setCond n b).cond n = b := setBit_self st.c b h

theorem Steer.cond_setCond_ne (st : Steer) {n c : Nat} (b : Bool) (h : c ≠ n) : (st.setCond n b).cond c = st.cond c := setBit_ne st.c b h

theorem Thread.pairAt_setPair (th : Thread) (n : Nat) (d : DWord) : (th.setPair n d).pairAt n = d := by
  have h : (th.setPair n d).reg n = d.extractLsb' 0 32 := by
    rw [Thread.setPair, Thread.reg_setReg_ne _ _ (by omega), Thread.reg_setReg]
  have h' : (th.setPair n d).reg (n + 1) = d.extractLsb' 32 32 := by rw [Thread.setPair, Thread.reg_setReg]
  rw [Thread.pairAt, h, h', pair]
  apply BitVec.eq_of_getLsbD_eq
  intro i hi
  rw [BitVec.getLsbD_append, BitVec.getLsbD_extractLsb', BitVec.getLsbD_extractLsb']
  by_cases h32 : i < 32
  · simp [h32]
  · simp [h32, show i - 32 < 32 by omega, show 32 + (i - 32) = i by omega]

/-! ### Grids, the management controller, cells of messages, the status of commands -/

@[simp] theorem State.modGrid_clock (x : State) (k : Nat) (f : Grid → Grid) : (x.modGrid k f).clock = x.clock := rfl
@[simp] theorem State.modGrid_dtime (x : State) (k : Nat) (f : Grid → Grid) : (x.modGrid k f).dtime = x.dtime := rfl
@[simp] theorem State.modGrid_agenda (x : State) (k : Nat) (f : Grid → Grid) : (x.modGrid k f).agenda = x.agenda := rfl
@[simp] theorem State.modGrid_freeCtr (x : State) (k : Nat) (f : Grid → Grid) : (x.modGrid k f).freeCtr = x.freeCtr := rfl
@[simp] theorem State.modGrid_cur (x : State) (k : Nat) (f : Grid → Grid) : (x.modGrid k f).cur = x.cur := rfl
@[simp] theorem State.modGrid_cfg (x : State) (k : Nat) (f : Grid → Grid) : (x.modGrid k f).cfg = x.cfg := rfl
@[simp] theorem State.modGrid_mgmt (x : State) (k : Nat) (f : Grid → Grid) : (x.modGrid k f).mgmt = x.mgmt := rfl
@[simp] theorem State.modGrid_conns (x : State) (k : Nat) (f : Grid → Grid) : (x.modGrid k f).conns = x.conns := rfl
@[simp] theorem State.modGrid_endps (x : State) (k : Nat) (f : Grid → Grid) : (x.modGrid k f).endps = x.endps := rfl
@[simp] theorem State.modGrid_mem (x : State) (k : Nat) (f : Grid → Grid) : (x.modGrid k f).mem = x.mem := rfl
@[simp] theorem State.modGrid_oldCode (x : State) (k : Nat) (f : Grid → Grid) : (x.modGrid k f).oldCode = x.oldCode := rfl
@[simp] theorem State.modGrid_past (x : State) (k : Nat) (f : Grid → Grid) : (x.modGrid k f).past = x.past := rfl
@[simp] theorem State.modGrid_pastCtr (x : State) (k : Nat) (f : Grid → Grid) : (x.modGrid k f).pastCtr = x.pastCtr := rfl
@[simp] theorem State.modGrid_view (x : State) (k : Nat) (f : Grid → Grid) : (x.modGrid k f).view = x.view := rfl
@[simp] theorem State.modGrid_holding (x : State) (k : Nat) (f : Grid → Grid) : (x.modGrid k f).holding = x.holding := rfl
@[simp] theorem State.modGrid_pending (x : State) (k : Nat) (f : Grid → Grid) : (x.modGrid k f).pending = x.pending := rfl
@[simp] theorem State.modGrid_poison (x : State) (k : Nat) (f : Grid → Grid) : (x.modGrid k f).poison = x.poison := rfl
@[simp] theorem State.modGrid_banks (x : State) (k : Nat) (f : Grid → Grid) : (x.modGrid k f).banks = x.banks := rfl
@[simp] theorem State.modGrid_held (x : State) (k : Nat) (f : Grid → Grid) : (x.modGrid k f).held = x.held := rfl
@[simp] theorem State.modGrid_ctxs (x : State) (k : Nat) (f : Grid → Grid) : (x.modGrid k f).ctxs = x.ctxs := rfl
@[simp] theorem State.modGrid_phases (x : State) (k : Nat) (f : Grid → Grid) : (x.modGrid k f).phases = x.phases := rfl
@[simp] theorem State.modGrid_tlbs (x : State) (k : Nat) (f : Grid → Grid) : (x.modGrid k f).tlbs = x.tlbs := rfl
@[simp] theorem State.modGrid_rrc (x : State) (k : Nat) (f : Grid → Grid) : (x.modGrid k f).rrc = x.rrc := rfl
@[simp] theorem State.modGrid_queues (x : State) (k : Nat) (f : Grid → Grid) : (x.modGrid k f).queues = x.queues := rfl
@[simp] theorem State.modGrid_lastLaunch (x : State) (k : Nat) (f : Grid → Grid) : (x.modGrid k f).lastLaunch = x.lastLaunch := rfl
@[simp] theorem State.modGrid_grids (x : State) (k : Nat) (f : Grid → Grid) : (x.modGrid k f).grids = Map.modify x.grids k f := rfl
@[simp] theorem State.modGrid_gridCtr (x : State) (k : Nat) (f : Grid → Grid) : (x.modGrid k f).gridCtr = x.gridCtr := rfl
@[simp] theorem State.modGrid_acceptCtr (x : State) (k : Nat) (f : Grid → Grid) : (x.modGrid k f).acceptCtr = x.acceptCtr := rfl
@[simp] theorem State.modGrid_dies (x : State) (k : Nat) (f : Grid → Grid) : (x.modGrid k f).dies = x.dies := rfl
@[simp] theorem State.modGrid_teams (x : State) (k : Nat) (f : Grid → Grid) : (x.modGrid k f).teams = x.teams := rfl
@[simp] theorem State.modGrid_teamCtr (x : State) (k : Nat) (f : Grid → Grid) : (x.modGrid k f).teamCtr = x.teamCtr := rfl
@[simp] theorem State.modGrid_cores (x : State) (k : Nat) (f : Grid → Grid) : (x.modGrid k f).cores = x.cores := rfl
@[simp] theorem State.modGrid_steerPtr (x : State) (k : Nat) (f : Grid → Grid) : (x.modGrid k f).steerPtr = x.steerPtr := rfl
@[simp] theorem State.modGrid_claimCtr (x : State) (k : Nat) (f : Grid → Grid) : (x.modGrid k f).claimCtr = x.claimCtr := rfl
@[simp] theorem State.modGrid_orderCtr (x : State) (k : Nat) (f : Grid → Grid) : (x.modGrid k f).orderCtr = x.orderCtr := rfl
@[simp] theorem State.modGrid_boxes (x : State) (k : Nat) (f : Grid → Grid) : (x.modGrid k f).boxes = x.boxes := rfl
@[simp] theorem State.modGrid_credits (x : State) (k : Nat) (f : Grid → Grid) : (x.modGrid k f).credits = x.credits := rfl
@[simp] theorem State.modGrid_txs (x : State) (k : Nat) (f : Grid → Grid) : (x.modGrid k f).txs = x.txs := rfl
@[simp] theorem State.modGrid_txCtr (x : State) (k : Nat) (f : Grid → Grid) : (x.modGrid k f).txCtr = x.txCtr := rfl
@[simp] theorem State.modGrid_cells (x : State) (k : Nat) (f : Grid → Grid) : (x.modGrid k f).cells = x.cells := rfl
@[simp] theorem State.modGrid_rxq (x : State) (k : Nat) (f : Grid → Grid) : (x.modGrid k f).rxq = x.rxq := rfl
@[simp] theorem State.modGrid_lineJobs (x : State) (k : Nat) (f : Grid → Grid) : (x.modGrid k f).lineJobs = x.lineJobs := rfl
@[simp] theorem State.modGrid_resvs (x : State) (k : Nat) (f : Grid → Grid) : (x.modGrid k f).resvs = x.resvs := rfl
@[simp] theorem State.modGrid_refused (x : State) (k : Nat) (f : Grid → Grid) : (x.modGrid k f).refused = x.refused := rfl
@[simp] theorem State.modGrid_opal (x : State) (k : Nat) (f : Grid → Grid) : (x.modGrid k f).opal = x.opal := rfl
@[simp] theorem State.modGrid_pod (x : State) (k : Nat) (f : Grid → Grid) : (x.modGrid k f).pod = x.pod := rfl
@[simp] theorem State.modGrid_rrq (x : State) (k : Nat) (f : Grid → Grid) : (x.modGrid k f).rrq = x.rrq := rfl
@[simp] theorem State.modGrid_flt (x : State) (k : Nat) (f : Grid → Grid) : (x.modGrid k f).flt = x.flt := rfl
@[simp] theorem State.modGrid_ctl (x : State) (k : Nat) (f : Grid → Grid) : (x.modGrid k f).ctl = x.ctl := rfl
@[simp] theorem State.modGrid_out (x : State) (k : Nat) (f : Grid → Grid) : (x.modGrid k f).out = x.out := rfl
@[simp] theorem State.modMgmt_clock (x : State) (f : Mgmt → Mgmt) : (x.modMgmt f).clock = x.clock := rfl
@[simp] theorem State.modMgmt_dtime (x : State) (f : Mgmt → Mgmt) : (x.modMgmt f).dtime = x.dtime := rfl
@[simp] theorem State.modMgmt_agenda (x : State) (f : Mgmt → Mgmt) : (x.modMgmt f).agenda = x.agenda := rfl
@[simp] theorem State.modMgmt_freeCtr (x : State) (f : Mgmt → Mgmt) : (x.modMgmt f).freeCtr = x.freeCtr := rfl
@[simp] theorem State.modMgmt_cur (x : State) (f : Mgmt → Mgmt) : (x.modMgmt f).cur = x.cur := rfl
@[simp] theorem State.modMgmt_cfg (x : State) (f : Mgmt → Mgmt) : (x.modMgmt f).cfg = x.cfg := rfl
@[simp] theorem State.modMgmt_mgmt (x : State) (f : Mgmt → Mgmt) : (x.modMgmt f).mgmt = f x.mgmt := rfl
@[simp] theorem State.modMgmt_conns (x : State) (f : Mgmt → Mgmt) : (x.modMgmt f).conns = x.conns := rfl
@[simp] theorem State.modMgmt_endps (x : State) (f : Mgmt → Mgmt) : (x.modMgmt f).endps = x.endps := rfl
@[simp] theorem State.modMgmt_mem (x : State) (f : Mgmt → Mgmt) : (x.modMgmt f).mem = x.mem := rfl
@[simp] theorem State.modMgmt_oldCode (x : State) (f : Mgmt → Mgmt) : (x.modMgmt f).oldCode = x.oldCode := rfl
@[simp] theorem State.modMgmt_past (x : State) (f : Mgmt → Mgmt) : (x.modMgmt f).past = x.past := rfl
@[simp] theorem State.modMgmt_pastCtr (x : State) (f : Mgmt → Mgmt) : (x.modMgmt f).pastCtr = x.pastCtr := rfl
@[simp] theorem State.modMgmt_view (x : State) (f : Mgmt → Mgmt) : (x.modMgmt f).view = x.view := rfl
@[simp] theorem State.modMgmt_holding (x : State) (f : Mgmt → Mgmt) : (x.modMgmt f).holding = x.holding := rfl
@[simp] theorem State.modMgmt_pending (x : State) (f : Mgmt → Mgmt) : (x.modMgmt f).pending = x.pending := rfl
@[simp] theorem State.modMgmt_poison (x : State) (f : Mgmt → Mgmt) : (x.modMgmt f).poison = x.poison := rfl
@[simp] theorem State.modMgmt_banks (x : State) (f : Mgmt → Mgmt) : (x.modMgmt f).banks = x.banks := rfl
@[simp] theorem State.modMgmt_held (x : State) (f : Mgmt → Mgmt) : (x.modMgmt f).held = x.held := rfl
@[simp] theorem State.modMgmt_ctxs (x : State) (f : Mgmt → Mgmt) : (x.modMgmt f).ctxs = x.ctxs := rfl
@[simp] theorem State.modMgmt_phases (x : State) (f : Mgmt → Mgmt) : (x.modMgmt f).phases = x.phases := rfl
@[simp] theorem State.modMgmt_tlbs (x : State) (f : Mgmt → Mgmt) : (x.modMgmt f).tlbs = x.tlbs := rfl
@[simp] theorem State.modMgmt_rrc (x : State) (f : Mgmt → Mgmt) : (x.modMgmt f).rrc = x.rrc := rfl
@[simp] theorem State.modMgmt_queues (x : State) (f : Mgmt → Mgmt) : (x.modMgmt f).queues = x.queues := rfl
@[simp] theorem State.modMgmt_lastLaunch (x : State) (f : Mgmt → Mgmt) : (x.modMgmt f).lastLaunch = x.lastLaunch := rfl
@[simp] theorem State.modMgmt_grids (x : State) (f : Mgmt → Mgmt) : (x.modMgmt f).grids = x.grids := rfl
@[simp] theorem State.modMgmt_gridCtr (x : State) (f : Mgmt → Mgmt) : (x.modMgmt f).gridCtr = x.gridCtr := rfl
@[simp] theorem State.modMgmt_acceptCtr (x : State) (f : Mgmt → Mgmt) : (x.modMgmt f).acceptCtr = x.acceptCtr := rfl
@[simp] theorem State.modMgmt_dies (x : State) (f : Mgmt → Mgmt) : (x.modMgmt f).dies = x.dies := rfl
@[simp] theorem State.modMgmt_teams (x : State) (f : Mgmt → Mgmt) : (x.modMgmt f).teams = x.teams := rfl
@[simp] theorem State.modMgmt_teamCtr (x : State) (f : Mgmt → Mgmt) : (x.modMgmt f).teamCtr = x.teamCtr := rfl
@[simp] theorem State.modMgmt_cores (x : State) (f : Mgmt → Mgmt) : (x.modMgmt f).cores = x.cores := rfl
@[simp] theorem State.modMgmt_steerPtr (x : State) (f : Mgmt → Mgmt) : (x.modMgmt f).steerPtr = x.steerPtr := rfl
@[simp] theorem State.modMgmt_claimCtr (x : State) (f : Mgmt → Mgmt) : (x.modMgmt f).claimCtr = x.claimCtr := rfl
@[simp] theorem State.modMgmt_orderCtr (x : State) (f : Mgmt → Mgmt) : (x.modMgmt f).orderCtr = x.orderCtr := rfl
@[simp] theorem State.modMgmt_boxes (x : State) (f : Mgmt → Mgmt) : (x.modMgmt f).boxes = x.boxes := rfl
@[simp] theorem State.modMgmt_credits (x : State) (f : Mgmt → Mgmt) : (x.modMgmt f).credits = x.credits := rfl
@[simp] theorem State.modMgmt_txs (x : State) (f : Mgmt → Mgmt) : (x.modMgmt f).txs = x.txs := rfl
@[simp] theorem State.modMgmt_txCtr (x : State) (f : Mgmt → Mgmt) : (x.modMgmt f).txCtr = x.txCtr := rfl
@[simp] theorem State.modMgmt_cells (x : State) (f : Mgmt → Mgmt) : (x.modMgmt f).cells = x.cells := rfl
@[simp] theorem State.modMgmt_rxq (x : State) (f : Mgmt → Mgmt) : (x.modMgmt f).rxq = x.rxq := rfl
@[simp] theorem State.modMgmt_lineJobs (x : State) (f : Mgmt → Mgmt) : (x.modMgmt f).lineJobs = x.lineJobs := rfl
@[simp] theorem State.modMgmt_resvs (x : State) (f : Mgmt → Mgmt) : (x.modMgmt f).resvs = x.resvs := rfl
@[simp] theorem State.modMgmt_refused (x : State) (f : Mgmt → Mgmt) : (x.modMgmt f).refused = x.refused := rfl
@[simp] theorem State.modMgmt_opal (x : State) (f : Mgmt → Mgmt) : (x.modMgmt f).opal = x.opal := rfl
@[simp] theorem State.modMgmt_pod (x : State) (f : Mgmt → Mgmt) : (x.modMgmt f).pod = x.pod := rfl
@[simp] theorem State.modMgmt_rrq (x : State) (f : Mgmt → Mgmt) : (x.modMgmt f).rrq = x.rrq := rfl
@[simp] theorem State.modMgmt_flt (x : State) (f : Mgmt → Mgmt) : (x.modMgmt f).flt = x.flt := rfl
@[simp] theorem State.modMgmt_ctl (x : State) (f : Mgmt → Mgmt) : (x.modMgmt f).ctl = x.ctl := rfl
@[simp] theorem State.modMgmt_out (x : State) (f : Mgmt → Mgmt) : (x.modMgmt f).out = x.out := rfl
@[simp] theorem State.toPeer_clock (x : State) (a : Aid) (k n : Nat) (m : Out) : (x.toPeer a k n m).clock = x.clock := rfl
@[simp] theorem State.toPeer_dtime (x : State) (a : Aid) (k n : Nat) (m : Out) : (x.toPeer a k n m).dtime = x.dtime := rfl
@[simp] theorem State.toPeer_agenda (x : State) (a : Aid) (k n : Nat) (m : Out) : (x.toPeer a k n m).agenda = x.agenda := rfl
@[simp] theorem State.toPeer_freeCtr (x : State) (a : Aid) (k n : Nat) (m : Out) : (x.toPeer a k n m).freeCtr = x.freeCtr := rfl
@[simp] theorem State.toPeer_cur (x : State) (a : Aid) (k n : Nat) (m : Out) : (x.toPeer a k n m).cur = x.cur := rfl
@[simp] theorem State.toPeer_cfg (x : State) (a : Aid) (k n : Nat) (m : Out) : (x.toPeer a k n m).cfg = x.cfg := rfl
@[simp] theorem State.toPeer_mgmt (x : State) (a : Aid) (k n : Nat) (m : Out) : (x.toPeer a k n m).mgmt = x.mgmt := rfl
@[simp] theorem State.toPeer_conns (x : State) (a : Aid) (k n : Nat) (m : Out) : (x.toPeer a k n m).conns = x.conns := rfl
@[simp] theorem State.toPeer_endps (x : State) (a : Aid) (k n : Nat) (m : Out) : (x.toPeer a k n m).endps = x.endps := rfl
@[simp] theorem State.toPeer_mem (x : State) (a : Aid) (k n : Nat) (m : Out) : (x.toPeer a k n m).mem = x.mem := rfl
@[simp] theorem State.toPeer_oldCode (x : State) (a : Aid) (k n : Nat) (m : Out) : (x.toPeer a k n m).oldCode = x.oldCode := rfl
@[simp] theorem State.toPeer_past (x : State) (a : Aid) (k n : Nat) (m : Out) : (x.toPeer a k n m).past = x.past := rfl
@[simp] theorem State.toPeer_pastCtr (x : State) (a : Aid) (k n : Nat) (m : Out) : (x.toPeer a k n m).pastCtr = x.pastCtr := rfl
@[simp] theorem State.toPeer_view (x : State) (a : Aid) (k n : Nat) (m : Out) : (x.toPeer a k n m).view = x.view := rfl
@[simp] theorem State.toPeer_holding (x : State) (a : Aid) (k n : Nat) (m : Out) : (x.toPeer a k n m).holding = x.holding := rfl
@[simp] theorem State.toPeer_pending (x : State) (a : Aid) (k n : Nat) (m : Out) : (x.toPeer a k n m).pending = x.pending := rfl
@[simp] theorem State.toPeer_poison (x : State) (a : Aid) (k n : Nat) (m : Out) : (x.toPeer a k n m).poison = x.poison := rfl
@[simp] theorem State.toPeer_banks (x : State) (a : Aid) (k n : Nat) (m : Out) : (x.toPeer a k n m).banks = x.banks := rfl
@[simp] theorem State.toPeer_held (x : State) (a : Aid) (k n : Nat) (m : Out) : (x.toPeer a k n m).held = x.held := rfl
@[simp] theorem State.toPeer_ctxs (x : State) (a : Aid) (k n : Nat) (m : Out) : (x.toPeer a k n m).ctxs = x.ctxs := rfl
@[simp] theorem State.toPeer_phases (x : State) (a : Aid) (k n : Nat) (m : Out) : (x.toPeer a k n m).phases = x.phases := rfl
@[simp] theorem State.toPeer_tlbs (x : State) (a : Aid) (k n : Nat) (m : Out) : (x.toPeer a k n m).tlbs = x.tlbs := rfl
@[simp] theorem State.toPeer_rrc (x : State) (a : Aid) (k n : Nat) (m : Out) : (x.toPeer a k n m).rrc = x.rrc := rfl
@[simp] theorem State.toPeer_queues (x : State) (a : Aid) (k n : Nat) (m : Out) : (x.toPeer a k n m).queues = x.queues := rfl
@[simp] theorem State.toPeer_lastLaunch (x : State) (a : Aid) (k n : Nat) (m : Out) : (x.toPeer a k n m).lastLaunch = x.lastLaunch := rfl
@[simp] theorem State.toPeer_grids (x : State) (a : Aid) (k n : Nat) (m : Out) : (x.toPeer a k n m).grids = x.grids := rfl
@[simp] theorem State.toPeer_gridCtr (x : State) (a : Aid) (k n : Nat) (m : Out) : (x.toPeer a k n m).gridCtr = x.gridCtr := rfl
@[simp] theorem State.toPeer_acceptCtr (x : State) (a : Aid) (k n : Nat) (m : Out) : (x.toPeer a k n m).acceptCtr = x.acceptCtr := rfl
@[simp] theorem State.toPeer_dies (x : State) (a : Aid) (k n : Nat) (m : Out) : (x.toPeer a k n m).dies = x.dies := rfl
@[simp] theorem State.toPeer_teams (x : State) (a : Aid) (k n : Nat) (m : Out) : (x.toPeer a k n m).teams = x.teams := rfl
@[simp] theorem State.toPeer_teamCtr (x : State) (a : Aid) (k n : Nat) (m : Out) : (x.toPeer a k n m).teamCtr = x.teamCtr := rfl
@[simp] theorem State.toPeer_cores (x : State) (a : Aid) (k n : Nat) (m : Out) : (x.toPeer a k n m).cores = x.cores := rfl
@[simp] theorem State.toPeer_steerPtr (x : State) (a : Aid) (k n : Nat) (m : Out) : (x.toPeer a k n m).steerPtr = x.steerPtr := rfl
@[simp] theorem State.toPeer_claimCtr (x : State) (a : Aid) (k n : Nat) (m : Out) : (x.toPeer a k n m).claimCtr = x.claimCtr := rfl
@[simp] theorem State.toPeer_orderCtr (x : State) (a : Aid) (k n : Nat) (m : Out) : (x.toPeer a k n m).orderCtr = x.orderCtr := rfl
@[simp] theorem State.toPeer_boxes (x : State) (a : Aid) (k n : Nat) (m : Out) : (x.toPeer a k n m).boxes = x.boxes := rfl
@[simp] theorem State.toPeer_credits (x : State) (a : Aid) (k n : Nat) (m : Out) : (x.toPeer a k n m).credits = x.credits := rfl
@[simp] theorem State.toPeer_txs (x : State) (a : Aid) (k n : Nat) (m : Out) : (x.toPeer a k n m).txs = x.txs := rfl
@[simp] theorem State.toPeer_txCtr (x : State) (a : Aid) (k n : Nat) (m : Out) : (x.toPeer a k n m).txCtr = x.txCtr := rfl
@[simp] theorem State.toPeer_cells (x : State) (a : Aid) (k n : Nat) (m : Out) : (x.toPeer a k n m).cells = x.cells ++ [⟨.message m, k, a, (n / 128 + a.toNat) % 16, false⟩] := rfl
@[simp] theorem State.toPeer_rxq (x : State) (a : Aid) (k n : Nat) (m : Out) : (x.toPeer a k n m).rxq = x.rxq := rfl
@[simp] theorem State.toPeer_lineJobs (x : State) (a : Aid) (k n : Nat) (m : Out) : (x.toPeer a k n m).lineJobs = x.lineJobs := rfl
@[simp] theorem State.toPeer_resvs (x : State) (a : Aid) (k n : Nat) (m : Out) : (x.toPeer a k n m).resvs = x.resvs := rfl
@[simp] theorem State.toPeer_refused (x : State) (a : Aid) (k n : Nat) (m : Out) : (x.toPeer a k n m).refused = x.refused := rfl
@[simp] theorem State.toPeer_opal (x : State) (a : Aid) (k n : Nat) (m : Out) : (x.toPeer a k n m).opal = x.opal := rfl
@[simp] theorem State.toPeer_pod (x : State) (a : Aid) (k n : Nat) (m : Out) : (x.toPeer a k n m).pod = x.pod := rfl
@[simp] theorem State.toPeer_rrq (x : State) (a : Aid) (k n : Nat) (m : Out) : (x.toPeer a k n m).rrq = x.rrq := rfl
@[simp] theorem State.toPeer_flt (x : State) (a : Aid) (k n : Nat) (m : Out) : (x.toPeer a k n m).flt = x.flt := rfl
@[simp] theorem State.toPeer_ctl (x : State) (a : Aid) (k n : Nat) (m : Out) : (x.toPeer a k n m).ctl = x.ctl := rfl
@[simp] theorem State.toPeer_out (x : State) (a : Aid) (k n : Nat) (m : Out) : (x.toPeer a k n m).out = x.out := rfl
@[simp] theorem State.bankDone_clock (x : State) (c : BitVec 8) : (x.bankDone c).clock = x.clock := rfl
@[simp] theorem State.bankDone_dtime (x : State) (c : BitVec 8) : (x.bankDone c).dtime = x.dtime := rfl
@[simp] theorem State.bankDone_agenda (x : State) (c : BitVec 8) : (x.bankDone c).agenda = x.agenda := rfl
@[simp] theorem State.bankDone_freeCtr (x : State) (c : BitVec 8) : (x.bankDone c).freeCtr = x.freeCtr := rfl
@[simp] theorem State.bankDone_cur (x : State) (c : BitVec 8) : (x.bankDone c).cur = x.cur := rfl
@[simp] theorem State.bankDone_cfg (x : State) (c : BitVec 8) : (x.bankDone c).cfg = x.cfg := rfl
@[simp] theorem State.bankDone_mgmt (x : State) (c : BitVec 8) : (x.bankDone c).mgmt = x.mgmt := rfl
@[simp] theorem State.bankDone_conns (x : State) (c : BitVec 8) : (x.bankDone c).conns = x.conns := rfl
@[simp] theorem State.bankDone_endps (x : State) (c : BitVec 8) : (x.bankDone c).endps = x.endps := rfl
@[simp] theorem State.bankDone_mem (x : State) (c : BitVec 8) : (x.bankDone c).mem = x.mem := rfl
@[simp] theorem State.bankDone_oldCode (x : State) (c : BitVec 8) : (x.bankDone c).oldCode = x.oldCode := rfl
@[simp] theorem State.bankDone_past (x : State) (c : BitVec 8) : (x.bankDone c).past = x.past := rfl
@[simp] theorem State.bankDone_pastCtr (x : State) (c : BitVec 8) : (x.bankDone c).pastCtr = x.pastCtr := rfl
@[simp] theorem State.bankDone_view (x : State) (c : BitVec 8) : (x.bankDone c).view = x.view := rfl
@[simp] theorem State.bankDone_holding (x : State) (c : BitVec 8) : (x.bankDone c).holding = x.holding := rfl
@[simp] theorem State.bankDone_pending (x : State) (c : BitVec 8) : (x.bankDone c).pending = x.pending := rfl
@[simp] theorem State.bankDone_poison (x : State) (c : BitVec 8) : (x.bankDone c).poison = x.poison := rfl
@[simp] theorem State.bankDone_banks (x : State) (c : BitVec 8) : (x.bankDone c).banks = x.banks := rfl
@[simp] theorem State.bankDone_held (x : State) (c : BitVec 8) : (x.bankDone c).held = x.held := rfl
@[simp] theorem State.bankDone_ctxs (x : State) (c : BitVec 8) : (x.bankDone c).ctxs = x.ctxs := rfl
@[simp] theorem State.bankDone_phases (x : State) (c : BitVec 8) : (x.bankDone c).phases = x.phases := rfl
@[simp] theorem State.bankDone_tlbs (x : State) (c : BitVec 8) : (x.bankDone c).tlbs = x.tlbs := rfl
@[simp] theorem State.bankDone_rrc (x : State) (c : BitVec 8) : (x.bankDone c).rrc = x.rrc := rfl
@[simp] theorem State.bankDone_queues (x : State) (c : BitVec 8) : (x.bankDone c).queues = x.queues := rfl
@[simp] theorem State.bankDone_lastLaunch (x : State) (c : BitVec 8) : (x.bankDone c).lastLaunch = x.lastLaunch := rfl
@[simp] theorem State.bankDone_grids (x : State) (c : BitVec 8) : (x.bankDone c).grids = x.grids := rfl
@[simp] theorem State.bankDone_gridCtr (x : State) (c : BitVec 8) : (x.bankDone c).gridCtr = x.gridCtr := rfl
@[simp] theorem State.bankDone_acceptCtr (x : State) (c : BitVec 8) : (x.bankDone c).acceptCtr = x.acceptCtr := rfl
@[simp] theorem State.bankDone_dies (x : State) (c : BitVec 8) : (x.bankDone c).dies = x.dies := rfl
@[simp] theorem State.bankDone_teams (x : State) (c : BitVec 8) : (x.bankDone c).teams = x.teams := rfl
@[simp] theorem State.bankDone_teamCtr (x : State) (c : BitVec 8) : (x.bankDone c).teamCtr = x.teamCtr := rfl
@[simp] theorem State.bankDone_cores (x : State) (c : BitVec 8) : (x.bankDone c).cores = x.cores := rfl
@[simp] theorem State.bankDone_steerPtr (x : State) (c : BitVec 8) : (x.bankDone c).steerPtr = x.steerPtr := rfl
@[simp] theorem State.bankDone_claimCtr (x : State) (c : BitVec 8) : (x.bankDone c).claimCtr = x.claimCtr := rfl
@[simp] theorem State.bankDone_orderCtr (x : State) (c : BitVec 8) : (x.bankDone c).orderCtr = x.orderCtr := rfl
@[simp] theorem State.bankDone_boxes (x : State) (c : BitVec 8) : (x.bankDone c).boxes = x.boxes := rfl
@[simp] theorem State.bankDone_credits (x : State) (c : BitVec 8) : (x.bankDone c).credits = x.credits := rfl
@[simp] theorem State.bankDone_txs (x : State) (c : BitVec 8) : (x.bankDone c).txs = x.txs := rfl
@[simp] theorem State.bankDone_txCtr (x : State) (c : BitVec 8) : (x.bankDone c).txCtr = x.txCtr := rfl
@[simp] theorem State.bankDone_cells (x : State) (c : BitVec 8) : (x.bankDone c).cells = x.cells := rfl
@[simp] theorem State.bankDone_rxq (x : State) (c : BitVec 8) : (x.bankDone c).rxq = x.rxq := rfl
@[simp] theorem State.bankDone_lineJobs (x : State) (c : BitVec 8) : (x.bankDone c).lineJobs = x.lineJobs := rfl
@[simp] theorem State.bankDone_resvs (x : State) (c : BitVec 8) : (x.bankDone c).resvs = x.resvs := rfl
@[simp] theorem State.bankDone_refused (x : State) (c : BitVec 8) : (x.bankDone c).refused = x.refused := rfl
@[simp] theorem State.bankDone_opal (x : State) (c : BitVec 8) : (x.bankDone c).opal = x.opal := rfl
@[simp] theorem State.bankDone_pod (x : State) (c : BitVec 8) : (x.bankDone c).pod = x.pod := rfl
@[simp] theorem State.bankDone_rrq (x : State) (c : BitVec 8) : (x.bankDone c).rrq = x.rrq := rfl
@[simp] theorem State.bankDone_flt (x : State) (c : BitVec 8) : (x.bankDone c).flt = x.flt := rfl
@[simp] theorem State.bankDone_out (x : State) (c : BitVec 8) : (x.bankDone c).out = x.out := rfl
@[simp] theorem State.fltDone_clock (x : State) (c : BitVec 8) : (x.fltDone c).clock = x.clock := rfl
@[simp] theorem State.fltDone_dtime (x : State) (c : BitVec 8) : (x.fltDone c).dtime = x.dtime := rfl
@[simp] theorem State.fltDone_agenda (x : State) (c : BitVec 8) : (x.fltDone c).agenda = x.agenda := rfl
@[simp] theorem State.fltDone_freeCtr (x : State) (c : BitVec 8) : (x.fltDone c).freeCtr = x.freeCtr := rfl
@[simp] theorem State.fltDone_cur (x : State) (c : BitVec 8) : (x.fltDone c).cur = x.cur := rfl
@[simp] theorem State.fltDone_cfg (x : State) (c : BitVec 8) : (x.fltDone c).cfg = x.cfg := rfl
@[simp] theorem State.fltDone_mgmt (x : State) (c : BitVec 8) : (x.fltDone c).mgmt = x.mgmt := rfl
@[simp] theorem State.fltDone_conns (x : State) (c : BitVec 8) : (x.fltDone c).conns = x.conns := rfl
@[simp] theorem State.fltDone_endps (x : State) (c : BitVec 8) : (x.fltDone c).endps = x.endps := rfl
@[simp] theorem State.fltDone_mem (x : State) (c : BitVec 8) : (x.fltDone c).mem = x.mem := rfl
@[simp] theorem State.fltDone_oldCode (x : State) (c : BitVec 8) : (x.fltDone c).oldCode = x.oldCode := rfl
@[simp] theorem State.fltDone_past (x : State) (c : BitVec 8) : (x.fltDone c).past = x.past := rfl
@[simp] theorem State.fltDone_pastCtr (x : State) (c : BitVec 8) : (x.fltDone c).pastCtr = x.pastCtr := rfl
@[simp] theorem State.fltDone_view (x : State) (c : BitVec 8) : (x.fltDone c).view = x.view := rfl
@[simp] theorem State.fltDone_holding (x : State) (c : BitVec 8) : (x.fltDone c).holding = x.holding := rfl
@[simp] theorem State.fltDone_pending (x : State) (c : BitVec 8) : (x.fltDone c).pending = x.pending := rfl
@[simp] theorem State.fltDone_poison (x : State) (c : BitVec 8) : (x.fltDone c).poison = x.poison := rfl
@[simp] theorem State.fltDone_banks (x : State) (c : BitVec 8) : (x.fltDone c).banks = x.banks := rfl
@[simp] theorem State.fltDone_held (x : State) (c : BitVec 8) : (x.fltDone c).held = x.held := rfl
@[simp] theorem State.fltDone_ctxs (x : State) (c : BitVec 8) : (x.fltDone c).ctxs = x.ctxs := rfl
@[simp] theorem State.fltDone_phases (x : State) (c : BitVec 8) : (x.fltDone c).phases = x.phases := rfl
@[simp] theorem State.fltDone_tlbs (x : State) (c : BitVec 8) : (x.fltDone c).tlbs = x.tlbs := rfl
@[simp] theorem State.fltDone_rrc (x : State) (c : BitVec 8) : (x.fltDone c).rrc = x.rrc := rfl
@[simp] theorem State.fltDone_queues (x : State) (c : BitVec 8) : (x.fltDone c).queues = x.queues := rfl
@[simp] theorem State.fltDone_lastLaunch (x : State) (c : BitVec 8) : (x.fltDone c).lastLaunch = x.lastLaunch := rfl
@[simp] theorem State.fltDone_grids (x : State) (c : BitVec 8) : (x.fltDone c).grids = x.grids := rfl
@[simp] theorem State.fltDone_gridCtr (x : State) (c : BitVec 8) : (x.fltDone c).gridCtr = x.gridCtr := rfl
@[simp] theorem State.fltDone_acceptCtr (x : State) (c : BitVec 8) : (x.fltDone c).acceptCtr = x.acceptCtr := rfl
@[simp] theorem State.fltDone_dies (x : State) (c : BitVec 8) : (x.fltDone c).dies = x.dies := rfl
@[simp] theorem State.fltDone_teams (x : State) (c : BitVec 8) : (x.fltDone c).teams = x.teams := rfl
@[simp] theorem State.fltDone_teamCtr (x : State) (c : BitVec 8) : (x.fltDone c).teamCtr = x.teamCtr := rfl
@[simp] theorem State.fltDone_cores (x : State) (c : BitVec 8) : (x.fltDone c).cores = x.cores := rfl
@[simp] theorem State.fltDone_steerPtr (x : State) (c : BitVec 8) : (x.fltDone c).steerPtr = x.steerPtr := rfl
@[simp] theorem State.fltDone_claimCtr (x : State) (c : BitVec 8) : (x.fltDone c).claimCtr = x.claimCtr := rfl
@[simp] theorem State.fltDone_orderCtr (x : State) (c : BitVec 8) : (x.fltDone c).orderCtr = x.orderCtr := rfl
@[simp] theorem State.fltDone_boxes (x : State) (c : BitVec 8) : (x.fltDone c).boxes = x.boxes := rfl
@[simp] theorem State.fltDone_credits (x : State) (c : BitVec 8) : (x.fltDone c).credits = x.credits := rfl
@[simp] theorem State.fltDone_txs (x : State) (c : BitVec 8) : (x.fltDone c).txs = x.txs := rfl
@[simp] theorem State.fltDone_txCtr (x : State) (c : BitVec 8) : (x.fltDone c).txCtr = x.txCtr := rfl
@[simp] theorem State.fltDone_cells (x : State) (c : BitVec 8) : (x.fltDone c).cells = x.cells := rfl
@[simp] theorem State.fltDone_rxq (x : State) (c : BitVec 8) : (x.fltDone c).rxq = x.rxq := rfl
@[simp] theorem State.fltDone_lineJobs (x : State) (c : BitVec 8) : (x.fltDone c).lineJobs = x.lineJobs := rfl
@[simp] theorem State.fltDone_resvs (x : State) (c : BitVec 8) : (x.fltDone c).resvs = x.resvs := rfl
@[simp] theorem State.fltDone_refused (x : State) (c : BitVec 8) : (x.fltDone c).refused = x.refused := rfl
@[simp] theorem State.fltDone_opal (x : State) (c : BitVec 8) : (x.fltDone c).opal = x.opal := rfl
@[simp] theorem State.fltDone_pod (x : State) (c : BitVec 8) : (x.fltDone c).pod = x.pod := rfl
@[simp] theorem State.fltDone_rrq (x : State) (c : BitVec 8) : (x.fltDone c).rrq = x.rrq := rfl
@[simp] theorem State.fltDone_flt (x : State) (c : BitVec 8) : (x.fltDone c).flt = x.flt := rfl
@[simp] theorem State.fltDone_out (x : State) (c : BitVec 8) : (x.fltDone c).out = x.out := rfl
@[simp] theorem State.flushMgmt_clock (x : State) : (x.flushMgmt).clock = x.clock := rfl
@[simp] theorem State.flushMgmt_dtime (x : State) : (x.flushMgmt).dtime = x.dtime := rfl
@[simp] theorem State.flushMgmt_agenda (x : State) : (x.flushMgmt).agenda = x.agenda := rfl
@[simp] theorem State.flushMgmt_freeCtr (x : State) : (x.flushMgmt).freeCtr = x.freeCtr := rfl
@[simp] theorem State.flushMgmt_cur (x : State) : (x.flushMgmt).cur = x.cur := rfl
@[simp] theorem State.flushMgmt_cfg (x : State) : (x.flushMgmt).cfg = x.cfg := rfl
@[simp] theorem State.flushMgmt_conns (x : State) : (x.flushMgmt).conns = x.conns := rfl
@[simp] theorem State.flushMgmt_endps (x : State) : (x.flushMgmt).endps = x.endps := rfl
@[simp] theorem State.flushMgmt_mem (x : State) : (x.flushMgmt).mem = x.mem := rfl
@[simp] theorem State.flushMgmt_oldCode (x : State) : (x.flushMgmt).oldCode = x.oldCode := rfl
@[simp] theorem State.flushMgmt_past (x : State) : (x.flushMgmt).past = x.past := rfl
@[simp] theorem State.flushMgmt_pastCtr (x : State) : (x.flushMgmt).pastCtr = x.pastCtr := rfl
@[simp] theorem State.flushMgmt_view (x : State) : (x.flushMgmt).view = x.view := rfl
@[simp] theorem State.flushMgmt_holding (x : State) : (x.flushMgmt).holding = x.holding := rfl
@[simp] theorem State.flushMgmt_pending (x : State) : (x.flushMgmt).pending = x.pending := rfl
@[simp] theorem State.flushMgmt_poison (x : State) : (x.flushMgmt).poison = x.poison := rfl
@[simp] theorem State.flushMgmt_banks (x : State) : (x.flushMgmt).banks = x.banks := rfl
@[simp] theorem State.flushMgmt_held (x : State) : (x.flushMgmt).held = x.held := rfl
@[simp] theorem State.flushMgmt_ctxs (x : State) : (x.flushMgmt).ctxs = x.ctxs := rfl
@[simp] theorem State.flushMgmt_phases (x : State) : (x.flushMgmt).phases = x.phases := rfl
@[simp] theorem State.flushMgmt_tlbs (x : State) : (x.flushMgmt).tlbs = x.tlbs := rfl
@[simp] theorem State.flushMgmt_rrc (x : State) : (x.flushMgmt).rrc = x.rrc := rfl
@[simp] theorem State.flushMgmt_queues (x : State) : (x.flushMgmt).queues = x.queues := rfl
@[simp] theorem State.flushMgmt_lastLaunch (x : State) : (x.flushMgmt).lastLaunch = x.lastLaunch := rfl
@[simp] theorem State.flushMgmt_grids (x : State) : (x.flushMgmt).grids = x.grids := rfl
@[simp] theorem State.flushMgmt_gridCtr (x : State) : (x.flushMgmt).gridCtr = x.gridCtr := rfl
@[simp] theorem State.flushMgmt_acceptCtr (x : State) : (x.flushMgmt).acceptCtr = x.acceptCtr := rfl
@[simp] theorem State.flushMgmt_dies (x : State) : (x.flushMgmt).dies = x.dies := rfl
@[simp] theorem State.flushMgmt_teams (x : State) : (x.flushMgmt).teams = x.teams := rfl
@[simp] theorem State.flushMgmt_teamCtr (x : State) : (x.flushMgmt).teamCtr = x.teamCtr := rfl
@[simp] theorem State.flushMgmt_cores (x : State) : (x.flushMgmt).cores = x.cores := rfl
@[simp] theorem State.flushMgmt_steerPtr (x : State) : (x.flushMgmt).steerPtr = x.steerPtr := rfl
@[simp] theorem State.flushMgmt_claimCtr (x : State) : (x.flushMgmt).claimCtr = x.claimCtr := rfl
@[simp] theorem State.flushMgmt_orderCtr (x : State) : (x.flushMgmt).orderCtr = x.orderCtr := rfl
@[simp] theorem State.flushMgmt_boxes (x : State) : (x.flushMgmt).boxes = x.boxes := rfl
@[simp] theorem State.flushMgmt_credits (x : State) : (x.flushMgmt).credits = x.credits := rfl
@[simp] theorem State.flushMgmt_txs (x : State) : (x.flushMgmt).txs = x.txs := rfl
@[simp] theorem State.flushMgmt_txCtr (x : State) : (x.flushMgmt).txCtr = x.txCtr := rfl
@[simp] theorem State.flushMgmt_cells (x : State) : (x.flushMgmt).cells = x.cells := rfl
@[simp] theorem State.flushMgmt_rxq (x : State) : (x.flushMgmt).rxq = x.rxq := rfl
@[simp] theorem State.flushMgmt_lineJobs (x : State) : (x.flushMgmt).lineJobs = x.lineJobs := rfl
@[simp] theorem State.flushMgmt_resvs (x : State) : (x.flushMgmt).resvs = x.resvs := rfl
@[simp] theorem State.flushMgmt_refused (x : State) : (x.flushMgmt).refused = x.refused := rfl
@[simp] theorem State.flushMgmt_opal (x : State) : (x.flushMgmt).opal = x.opal := rfl
@[simp] theorem State.flushMgmt_pod (x : State) : (x.flushMgmt).pod = x.pod := rfl
@[simp] theorem State.flushMgmt_rrq (x : State) : (x.flushMgmt).rrq = x.rrq := rfl
@[simp] theorem State.flushMgmt_flt (x : State) : (x.flushMgmt).flt = x.flt := rfl
@[simp] theorem State.flushMgmt_ctl (x : State) : (x.flushMgmt).ctl = x.ctl := rfl

end Sys2Proof.Machine
end

