-- ==== Sys2Proof/Laws/Entry.lean ====
section
/-! SUPPORT. What the common entries of the meanings answer: the instruction's own effect when its party is ready, a stop otherwise. -/

namespace Sys2Proof.Machine

variable {s : State} {t tid : Nat} {T : Team} {th : Thread} {regs preds : List Nat}

theorem State.lane_cur (hc : s.cur = some (.lane t tid)) (ht : s.team? t = some T) (hi : T.thread? tid = some th)
    (k : Nat → Team → Nat → Thread → Res) : s.lane k = k t T tid th := by
  simp [State.lane, hc, ht, hi]

theorem State.lane_ready (h : s.LaneReady t T tid th regs preds) (k : Nat → Team → Nat → Thread → Res) : s.lane k = k t T tid th :=
  State.lane_cur h.cur h.team h.thread k

theorem State.LaneReady.inRange (h : s.LaneReady t T tid th regs preds) : regs.any (fun r => decide (T.regCount th ≤ r)) = false := by
  rw [List.any_eq_false]
  exact fun r hr => by simpa using h.range r hr

theorem State.laneRun_ready (h : s.LaneReady t T tid th regs preds) (k : Nat → Team → Nat → Thread → Res) :
    s.laneRun regs preds k = k t T tid th := by
  rw [State.laneRun, State.lane_ready h, h.inRange, h.clear]
  rfl

theorem State.laneEff_ready (h : s.LaneReady t T tid th regs preds) (f : Thread → Thread) :
    s.laneEff regs preds f = .next (s.setThread t T tid (f th)) := State.laneRun_ready h _

/-- A register out of range stops the thread (R39, R193). -/
theorem State.laneRun_range (hc : s.cur = some (.lane t tid)) (ht : s.team? t = some T) (hi : T.thread? tid = some th)
    (hr : ∃ r ∈ regs, T.regCount th ≤ r) (k : Nat → Team → Nat → Thread → Res) :
    s.laneRun regs preds k = .next (s.stopLane t T tid th { code := Code.regRange }) := by
  have : regs.any (fun r => decide (T.regCount th ≤ r)) = true := by
    obtain ⟨r, hr, hle⟩ := hr
    exact List.any_eq_true.mpr ⟨r, hr, by simpa using hle⟩
  rw [State.laneRun, State.lane_cur hc ht hi, this]
  rfl

/-- A result still in its shadow stops the thread (R186). -/
theorem State.laneRun_shadow (hc : s.cur = some (.lane t tid)) (ht : s.team? t = some T) (hi : T.thread? tid = some th)
    (hr : ∀ r ∈ regs, r < T.regCount th) (hl : th.shadowed regs preds = true) (k : Nat → Team → Nat → Thread → Res) :
    s.laneRun regs preds k = .next (s.stopLane t T tid th { code := Code.lookahead }) := by
  have : regs.any (fun r => decide (T.regCount th ≤ r)) = false := by
    rw [List.any_eq_false]
    exact fun r h => by simpa using hr r h
  rw [State.laneRun, State.lane_cur hc ht hi, this, hl]
  rfl

theorem State.steer_ready (h : s.SteerReady t T regs) (k : Nat → Team → Steer → Res) : s.steer k = k t T T.steer := by
  simp [State.steer, h.cur, h.team]

theorem State.steerRun_ready (h : s.SteerReady t T regs) (k : Nat → Team → Steer → Res) : s.steerRun regs k = k t T T.steer := by
  rw [State.steerRun, State.steer_ready h, h.clear]
  rfl

theorem State.steerEff_ready (h : s.SteerReady t T regs) (f : Steer → Steer) :
    s.steerEff regs f = .next (s.setTeam t { T with steer := f { T.steer with st := .running } }) := State.steerRun_ready h _

/-- While a late result that it names is outstanding, a steering instruction changes nothing but that it is tried again (R299). -/
theorem State.steerRun_stall (hc : s.cur = some (.steer t)) (ht : s.team? t = some T)
    (hl : T.steer.late.any (fun l => regs.any l.dregs.contains) = true) (k : Nat → Team → Steer → Res) :
    s.steerRun regs k = .next (s.steerStall t T) := by
  simp only [State.steerRun, State.steer, hc, ht, hl]
  rfl

/-! ## Frames of the updates -/

theorem onlyTeam_setTeam (s : State) (t : Nat) (T : Team) : OnlyTeam s (s.setTeam t T) t :=
  ⟨rfl, fun _ h => State.team?_setTeam_ne s T h, fun _ => rfl⟩

theorem onlyThread_setThread {s : State} {t tid : Nat} {T : Team} (ht : s.team? t = some T) (th : Thread) :
    OnlyThread s (s.setThread t T tid th) t tid := by
  refine ⟨onlyTeam_setTeam s t _, fun T0 T1 h0 h1 => ?_⟩
  rw [State.team?_setThread] at h1
  rw [ht] at h0
  obtain rfl := Option.some.inj h0
  obtain rfl := Option.some.inj h1
  exact ⟨rfl, fun u hu => Team.thread?_setThread_ne T th hu⟩

theorem Thread.keepsBut_setReg (th : Thread) (n : Nat) (w : Word) : th.KeepsBut (th.setReg n w) [n] [] false :=
  ⟨rfl, fun r h => Thread.reg_setReg_ne th w (by simpa using h), fun _ _ => rfl, fun _ => rfl⟩

end Sys2Proof.Machine
end

