-- ==== Sys2Proof/Laws/Access.lean ====
section
/-! SUPPORT. What translation and the judgement of accesses can change (R58-R62): a load changes no byte of memory. -/

namespace Sys2Proof.Machine

@[simp] theorem State.touch_mem (s : State) (c : Option CtxId) (pa : Nat) : (s.touch c pa).mem = s.mem := by
  unfold State.touch
  dsimp only
  repeat' first | rfl | split

@[simp] theorem State.touchAll_mem (s : State) (c : Option CtxId) (pas : List Nat) : (s.touchAll c pas).mem = s.mem := by
  unfold State.touchAll
  induction pas generalizing s with
  | nil => rfl
  | cons a r ih => rw [List.foldl_cons, ih, State.touch_mem]

@[simp] theorem State.translate_mem (s : State) (c : CtxId) (cl : Option Nat) (va : Nat) : (s.translate c cl va).1.mem = s.mem := by
  unfold State.translate
  split
  · rfl
  · split
    · rfl
    · dsimp only
      split
      · simp
      · simp
      · split
        · split <;> simp
        · simp

@[simp] theorem State.judgeLoad_mem (s : State) (c : CtxId) (cl : Option Nat) (p : Bool) (va : Nat) : (s.judgeLoad c cl p va).1.mem = s.mem := by
  unfold State.judgeLoad
  dsimp only
  split
  · exact State.translate_mem s c cl va
  · exact State.translate_mem s c cl va
  · split
    · exact State.translate_mem s c cl va
    · split
      · exact State.translate_mem s c cl va
      · rw [State.touch_mem, State.translate_mem]

theorem State.bytes_of_mem {s s' : State} (h : s'.mem = s.mem) (a n : Nat) : s'.bytes a n = s.bytes a n := by simp [State.bytes, h]

theorem Thread.regBytes_length (th : Thread) (d n : Nat) : (th.regBytes d n).length = 4 * n := by
  induction n generalizing d with
  | zero => rfl
  | succ k ih => simp [Thread.regBytes, ih]; omega

@[simp] theorem Thread.storeBytes_length (th : Thread) (z : Size) (d : Nat) : (th.storeBytes z d).length = z.bytes := by
  cases z <;> simp [Thread.storeBytes, Thread.regBytes_length, Size.regs, Size.bytes]

/-- The bytes that a store writes depend on the registers alone. -/
theorem Thread.regBytes_congr {th th' : Thread} (h : th'.v = th.v) (d n : Nat) : th'.regBytes d n = th.regBytes d n := by
  induction n generalizing d with
  | zero => rfl
  | succ k ih => simp [Thread.regBytes, Thread.reg, h, ih]

theorem Thread.storeBytes_congr {th th' : Thread} (h : th'.v = th.v) (z : Size) (d : Nat) : th'.storeBytes z d = th.storeBytes z d := by
  rw [Thread.storeBytes, Thread.regBytes_congr h, Thread.storeBytes]

/-- The entry of the memory instructions for a ready thread. -/
theorem State.memRun_ready {s : State} {t tid : Nat} {T : Team} {th : Thread} {regs preds : List Nat} (h : s.LaneReady t T tid th regs preds)
    (k : Nat → Team → Nat → Thread → Res) : s.memRun regs preds k = k t T tid { th with fenced := false } := State.laneRun_ready h _

end Sys2Proof.Machine
end

