-- ==== Sys2Proof/Laws/PerInstr.lean ====
section
/-! SUPPORT. What holds of every instruction as syntax, one lemma per constructor. -/

namespace Sys2Proof.Laws.EncodeLength

/-- An instruction of a stream takes one word, or two (R170); an event has no words. -/
def Statement (i : Instr) : Prop :=
  match i.stream with
  | .event => encode i = []
  | _ => (encode i).length = 1 ∨ (encode i).length = 2

/-- A first word with an extension, or without. -/
theorem withExt_length (w : Word) (x : Option Word) : (Enc.withExt w x).length = 1 ∨ (Enc.withExt w x).length = 2 := by
  cases x <;> simp [Enc.withExt]

theorem iadd (o : R3) : Statement (.iadd o) := withExt_length _ _
theorem isub (o : R3) (rev : Bool) : Statement (.isub o rev) := withExt_length _ _
theorem imul (o : R3) : Statement (.imul o) := withExt_length _ _
theorem imulh (o : R3) (u : Bool) : Statement (.imulh o u) := withExt_length _ _
theorem imad (o : R3) : Statement (.imad o) := withExt_length _ _
theorem imin (o : R3) (u : Bool) : Statement (.imin o u) := withExt_length _ _
theorem imax (o : R3) (u : Bool) : Statement (.imax o u) := withExt_length _ _
theorem iabs (o : R2) : Statement (.iabs o) := Or.inl rfl
theorem and (o : R3) : Statement (.and o) := withExt_length _ _
theorem or (o : R3) : Statement (.or o) := withExt_length _ _
theorem xor (o : R3) : Statement (.xor o) := withExt_length _ _
theorem andn (o : R3) : Statement (.andn o) := withExt_length _ _
theorem shl (o : R3) : Statement (.shl o) := withExt_length _ _
theorem shr (o : R3) : Statement (.shr o) := withExt_length _ _
theorem sar (o : R3) : Statement (.sar o) := withExt_length _ _
theorem rol (o : R3) : Statement (.rol o) := withExt_length _ _
theorem bfx (o : R3) : Statement (.bfx o) := withExt_length _ _
theorem bfi (o : R3) : Statement (.bfi o) := withExt_length _ _
theorem popc (o : R2) : Statement (.popc o) := Or.inl rfl
theorem clz (o : R2) : Statement (.clz o) := Or.inl rfl
theorem brev (o : R2) : Statement (.brev o) := Or.inl rfl
theorem icmp (c : ICond) (p : Pred) (o : RAB) : Statement (.icmp c p o) := withExt_length _ _
theorem isel (o : R2) (w : Option Word) (p : Pred) (n : Bool) : Statement (.isel o w p n) := withExt_length _ _
theorem mov (d : Reg) (b : Src) : Statement (.mov d b) := withExt_length _ _
theorem movs (d : Reg) (n : SReg) : Statement (.movs d n) := Or.inl rfl
theorem iadd64 (o : R3) : Statement (.iadd64 o) := withExt_length _ _
theorem imulw (o : R3) (sg : Bool) : Statement (.imulw o sg) := withExt_length _ _
theorem plop (op : PlopOp) (d a b : Pred) : Statement (.plop op d a b) := Or.inl rfl
theorem pmovGet (d : Reg) : Statement (.pmovGet d) := Or.inl rfl
theorem pmovPut (a : Reg) (ha : Bool) : Statement (.pmovPut a ha) := Or.inl rfl
theorem pmovSet (w : Word) : Statement (.pmovSet w) := Or.inr rfl
theorem setx (n : BitVec 2) (v : SetxSrc) : Statement (.setx n v) := by cases v <;> first | exact Or.inl rfl | exact Or.inr rfl
theorem movx (d : Reg) (n : BitVec 2) (b : Src) : Statement (.movx d n b) := withExt_length _ _
theorem stx (d : Reg) (n : BitVec 2) (b : Src) : Statement (.stx d n b) := withExt_length _ _
theorem fadd (o : F3) (rm : RM) : Statement (.fadd o rm) := withExt_length _ _
theorem fsub (o : F3) (rm : RM) : Statement (.fsub o rm) := withExt_length _ _
theorem fmul (o : F3) (rm : RM) : Statement (.fmul o rm) := withExt_length _ _
theorem ffma (o : F3) (rm : RM) : Statement (.ffma o rm) := withExt_length _ _
theorem fmin (o : F3) (prop : Bool) : Statement (.fmin o prop) := withExt_length _ _
theorem fmax (o : F3) (prop : Bool) : Statement (.fmax o prop) := withExt_length _ _
theorem fcmp (c : FCond) (p : Pred) (o : FAB) : Statement (.fcmp c p o) := withExt_length _ _
theorem fclass (o : R2) : Statement (.fclass o) := Or.inl rfl
theorem frnd (o : R2) (rm : RM) : Statement (.frnd o rm) := Or.inl rfl
theorem f2i (o : R2) (rm : RM) (u : Bool) : Statement (.f2i o rm u) := Or.inl rfl
theorem i2f (o : R2) (rm : RM) (u : Bool) : Statement (.i2f o rm u) := Or.inl rfl
theorem fcvt (o : R2) (rm : RM) (dir : CvtDir) (hi : Bool) : Statement (.fcvt o rm dir hi) := Or.inl rfl
theorem hadd2 (o : F3) (rm : RM) (bf nb : Bool) : Statement (.hadd2 o rm bf nb) := withExt_length _ _
theorem hmul2 (o : F3) (rm : RM) (bf nb : Bool) : Statement (.hmul2 o rm bf nb) := withExt_length _ _
theorem hfma2 (o : F3) (rm : RM) (bf nb : Bool) : Statement (.hfma2 o rm bf nb) := withExt_length _ _
theorem hminmax2 (o : F3) (bf mx prop : Bool) : Statement (.hminmax2 o bf mx prop) := withExt_length _ _
theorem hcmp2 (c : FCond) (p : Pred) (o : FAB) (bf : Bool) : Statement (.hcmp2 c p o bf) := withExt_length _ _
theorem fscale (o : F3) (rm : RM) : Statement (.fscale o rm) := withExt_length _ _
theorem fexp (o : R2) (m : Bool) : Statement (.fexp o m) := Or.inl rfl
theorem fsgn (o : F3) (op : SgnOp) : Statement (.fsgn o op) := withExt_length _ _
theorem rcp (o : Q2) : Statement (.rcp o) := Or.inl rfl
theorem rsq (o : Q2) : Statement (.rsq o) := Or.inl rfl
theorem sqrt (o : Q2) : Statement (.sqrt o) := Or.inl rfl
theorem fdiv (o : Q2) (b : Reg) (hb : Bool) : Statement (.fdiv o b hb) := Or.inr rfl
theorem ex2 (o : Q2) : Statement (.ex2 o) := Or.inl rfl
theorem lg2 (o : Q2) : Statement (.lg2 o) := Or.inl rfl
theorem sinpi (o : Q2) : Statement (.sinpi o) := Or.inl rfl
theorem cospi (o : Q2) : Statement (.cospi o) := Or.inl rfl
theorem f8pk (o : F3) (kind : F8Kind) (rm : RM) (pos : BitVec 2) : Statement (.f8pk o kind rm pos) := withExt_length _ _
theorem f8up (o : R2) (byte : BitVec 2) (e5m2 : Bool) : Statement (.f8up o byte e5m2) := Or.inl rfl
theorem f4pk (o : F3) (kind : F4Kind) (rz : Bool) (pos : BitVec 3) : Statement (.f4pk o kind rz pos) := withExt_length _ _
theorem f4up (o : R2) (nib : BitVec 3) : Statement (.f4up o nib) := Or.inl rfl
theorem bmax (o : F3) : Statement (.bmax o) := withExt_length _ _
theorem qdot8 (o : QDot) : Statement (.qdot8 o) := Or.inr rfl
theorem qdot4 (o : QDot) : Statement (.qdot4 o) := Or.inr rfl
theorem dxexp (o : R2) (kind : DxKind) (delta : BitVec 4) : Statement (.dxexp o kind delta) := Or.inl rfl
theorem dxdec (o : R2) (four : Bool) (sel : BitVec 3) (s : Reg) (sa : BitVec 2) : Statement (.dxdec o four sel s sa) := Or.inr rfl
theorem ld (m : MArgs) : Statement (.ld m) := withExt_length _ _
theorem st (m : MArgs) : Statement (.st m) := withExt_length _ _
theorem lds (m : MArgs) : Statement (.lds m) := withExt_length _ _
theorem sts (m : MArgs) : Statement (.sts m) := withExt_length _ _
theorem atom (m : MArgs) : Statement (.atom m) := withExt_length _ _
theorem atomf (m : MArgs) : Statement (.atomf m) := withExt_length _ _
theorem atomx (m : MArgs) : Statement (.atomx m) := withExt_length _ _
theorem ldw (m : WArgs) : Statement (.ldw m) := Or.inr rfl
theorem stw (m : WArgs) : Statement (.stw m) := Or.inr rfl
theorem atw (m : WArgs) : Statement (.atw m) := Or.inr rfl
theorem mcst (m : WArgs) : Statement (.mcst m) := Or.inr rfl
theorem rreq (m : MArgs) : Statement (.rreq m) := withExt_length _ _
theorem pref (m : MArgs) : Statement (.pref m) := withExt_length _ _
theorem fence (sc : Scope) : Statement (.fence sc) := Or.inl rfl
theorem fadv (f : Obj) (cons : Bool) (b : Src) : Statement (.fadv f cons b) := withExt_length _ _
theorem fcnt (d : Reg) (f : Obj) (sel : FcntSel) : Statement (.fcnt d f sel) := Or.inl rfl
theorem br (p : Pred) (n : Bool) (j : Option (BitVec 4)) (tgt : Tgt) : Statement (.br p n j tgt) := Or.inr rfl
theorem jmp (tgt : Tgt) : Statement (.jmp tgt) := Or.inr rfl
theorem call (tgt : Tgt) : Statement (.call tgt) := Or.inr rfl
theorem calli (a : Reg) (j : Option (BitVec 4)) : Statement (.calli a j) := Or.inl rfl
theorem ret (j : Option (BitVec 4)) : Statement (.ret j) := Or.inl rfl
theorem join (a : Reg) (p : Pred) (j : BitVec 4) : Statement (.join a p j) := Or.inl rfl
theorem exit : Statement .exit := Or.inl rfl
theorem spawn (a : Reg) (p : Pred) (tgt : Tgt) : Statement (.spawn a p tgt) := Or.inr rfl
theorem redq (n : BitVec 3) (op : RedOp) (a : Reg) (ha : Bool) : Statement (.redq n op a ha) := Or.inl rfl
theorem dqpop (d : Reg) (p : Option Pred) : Statement (.dqpop d p) := Or.inl rfl
theorem bara (k : Obj) (p : Option Pred) : Statement (.bara k p) := Or.inl rfl
theorem barw (k : Obj) (arv : Bool) (p : Pred) : Statement (.barw k arv p) := Or.inl rfl
theorem rclaim (p : Pred) (b : Src) : Statement (.rclaim p b) := withExt_length _ _
theorem rrel (p : Pred) (b : Src) (pool : Bool) : Statement (.rrel p b pool) := withExt_length _ _
theorem trdy (a : Reg) (ha : Bool) (b : Src) : Statement (.trdy a ha b) := withExt_length _ _
theorem rayq (d a : Reg) (la : BitVec 4) (b : Reg) (p : Pred) (any : Bool) : Statement (.rayq d a la b p any) := Or.inr rfl
theorem rwsend (m : WArgs) : Statement (.rwsend m) := Or.inr rfl
theorem rwrecv (d : Reg) (f : Obj) (la : BitVec 4) : Statement (.rwrecv d f la) := Or.inl rfl
theorem rwrecvNb (d : Reg) (f : Obj) (la : BitVec 4) (p : Pred) : Statement (.rwrecvNb d f la p) := Or.inr rfl
theorem trap (code : Option Word) : Statement (.trap code) := withExt_length _ _
theorem brkpt : Statement .brkpt := Or.inl rfl
theorem srd (d : Reg) (sel : Special) : Statement (.srd d sel) := Or.inl rfl
theorem nop : Statement .nop := Or.inl rfl
theorem yield : Statement .yield := Or.inl rfl
theorem stat (d : Reg) (clr : Option (BitVec 5)) : Statement (.stat d clr) := withExt_length _ _
theorem sadd (o : S3) : Statement (.sadd o) := withExt_length _ _
theorem ssub (o : S3) (rev : Bool) : Statement (.ssub o rev) := withExt_length _ _
theorem smul (o : S3) : Statement (.smul o) := withExt_length _ _
theorem smulh (o : S3) (u : Bool) : Statement (.smulh o u) := withExt_length _ _
theorem smin (o : S3) (u : Bool) : Statement (.smin o u) := withExt_length _ _
theorem smax (o : S3) (u : Bool) : Statement (.smax o u) := withExt_length _ _
theorem sand (o : S3) : Statement (.sand o) := withExt_length _ _
theorem sor (o : S3) : Statement (.sor o) := withExt_length _ _
theorem sxor (o : S3) : Statement (.sxor o) := withExt_length _ _
theorem sshl (o : S3) : Statement (.sshl o) := withExt_length _ _
theorem sshr (o : S3) : Statement (.sshr o) := withExt_length _ _
theorem ssar (o : S3) : Statement (.ssar o) := withExt_length _ _
theorem sbfx (o : S3) : Statement (.sbfx o) := withExt_length _ _
theorem spopc (o : S2) : Statement (.spopc o) := Or.inl rfl
theorem sclz (o : S2) : Statement (.sclz o) := Or.inl rfl
theorem scmp (c : ICond) (p : Cond) (a : SReg) (b : SSrc) : Statement (.scmp c p a b) := withExt_length _ _
theorem ssel (o : S3) (c : Cond) (n : Bool) : Statement (.ssel o c n) := withExt_length _ _
theorem smov (d : SReg) (b : SSrc) : Statement (.smov d b) := withExt_length _ _
theorem sadd64 (o : S3) : Statement (.sadd64 o) := withExt_length _ _
theorem clop (op : PlopOp) (d a b : Cond) : Statement (.clop op d a b) := Or.inl rfl
theorem sdiv (o : S3) (u : Bool) : Statement (.sdiv o u) := withExt_length _ _
theorem srem (o : S3) (u : Bool) : Statement (.srem o u) := withExt_length _ _
theorem sbr (c : Cond) (n : Bool) (tgt : Tgt) : Statement (.sbr c n tgt) := Or.inr rfl
theorem sjmp (tgt : Tgt) : Statement (.sjmp tgt) := Or.inr rfl
theorem scall (tgt : Tgt) : Statement (.scall tgt) := Or.inr rfl
theorem sret : Statement .sret := Or.inl rfl
theorem sdone : Statement .sdone := Or.inl rfl
theorem sloop (d : SReg) (tgt : Tgt) : Statement (.sloop d tgt) := Or.inr rfl
theorem dqpush (role : BitVec 2) (b : SSrc) : Statement (.dqpush role b) := withExt_length _ _
theorem qrd (d : SReg) (q : BitVec 3) (b : SSrc) : Statement (.qrd d q b) := withExt_length _ _
theorem sld (d a : SReg) (sz : Size) (sg : Bool) (hint : BitVec 2) (off : Option Word) : Statement (.sld d a sz sg hint off) := withExt_length _ _
theorem sst (d a : SReg) (sz : Size) (hint : BitVec 2) (off : Option Word) : Statement (.sst d a sz hint off) := withExt_length _ _
theorem satom (d a b : SReg) (op : AtomOp) (wide unsigned : Bool) : Statement (.satom d a b op wide unsigned) := Or.inl rfl
theorem sfence (sc : Scope) (eng : Bool) : Statement (.sfence sc eng) := Or.inl rfl
theorem srds (d : SReg) (sel : Special) : Statement (.srds d sel) := Or.inl rfl
theorem copy (e : EArgs) (sk dk : CopyKind) (sf df : Obj) : Statement (.copy e sk dk sf df) := Or.inr rfl
theorem cube (e : EArgs) (mode : CubeMode) (init : Bool) (fa fb fc : Obj) (t : BitVec 4) : Statement (.cube e mode init fa fb fc t) := Or.inr rfl
theorem cdrain (e : EArgs) (fmt : DrainFmt) (clr : Bool) (df : Obj) (t : BitVec 4) (delta : BitVec 4) : Statement (.cdrain e fmt clr df t delta) := Or.inr rfl
theorem aclaim (d : SReg) (b : SSrc) : Statement (.aclaim d b) := withExt_length _ _
theorem arel (b : SSrc) : Statement (.arel b) := withExt_length _ _
theorem finit (f : Obj) (a : Option SReg) : Statement (.finit f a) := by cases a <;> exact Or.inl rfl
theorem bari (k : Obj) (rst : Bool) (b : SSrc) : Statement (.bari k rst b) := withExt_length _ _
theorem bararm (k : Obj) : Statement (.bararm k) := Or.inr rfl
theorem bararmTile (pb : SReg) (k : Obj) : Statement (.bararmTile pb k) := Or.inr rfl
theorem coll (e : EArgs) (slot : BitVec 2) (grp : BitVec 8) : Statement (.coll e slot grp) := Or.inr rfl
theorem rwgrant (d a : SReg) (b : SSrc) (f : Obj) : Statement (.rwgrant d a b f) := withExt_length _ _
theorem sbara (k : Obj) (c : Option Cond) : Statement (.sbara k c) := Or.inl rfl
theorem sbarw (k : Obj) (arv : Bool) (c : Cond) : Statement (.sbarw k arv c) := Or.inl rfl
theorem cwait (a b : SReg) : Statement (.cwait a b) := Or.inl rfl
theorem attime (pb : SReg) (dt : Bool) : Statement (.attime pb dt) := Or.inr rfl
theorem launch (d a : SReg) : Statement (.launch d a) := Or.inl rfl
theorem waitch (one : Option SReg) : Statement (.waitch one) := by cases one <;> exact Or.inl rfl
theorem bwp (b : SSrc) : Statement (.bwp b) := withExt_length _ _
theorem gdetach : Statement .gdetach := Or.inl rfl
theorem rrinv (h : Option HSrc) : Statement (.rrinv h) := by
  match h with
  | none => exact Or.inl rfl
  | some (.imm _) => exact Or.inr rfl
  | some (.reg _) => exact Or.inl rfl
theorem wprobe (d : SReg) (h : HSrc) : Statement (.wprobe d h) := by cases h <;> first | exact Or.inl rfl | exact Or.inr rfl
theorem strap (code : Option Word) : Statement (.strap code) := withExt_length _ _
theorem sbrk : Statement .sbrk := Or.inl rfl
theorem snop : Statement .snop := Or.inl rfl
theorem syld : Statement .syld := Or.inl rfl
theorem lateResultWrite (p : Party) (id : Nat) : Statement (.lateResultWrite p id) := rfl
theorem nopRecord (q : BitVec 14) : Statement (.nopRecord q) := rfl
theorem launchRecord (q : BitVec 14) : Statement (.launchRecord q) := rfl
theorem signalRecord (q : BitVec 14) : Statement (.signalRecord q) := rfl
theorem waitRereadTimer (grid : Nat) : Statement (.waitRereadTimer grid) := rfl
theorem tfireReached (grid : Nat) : Statement (.tfireReached grid) := rfl
theorem attimeFire (team idx : Nat) : Statement (.attimeFire team idx) := rfl
theorem teamPlace (die : BitVec 2) : Statement (.teamPlace die) := rfl
theorem passoverTimeout (die : BitVec 2) : Statement (.passoverTimeout die) := rfl
theorem preemptTimeout (die : BitVec 2) : Statement (.preemptTimeout die) := rfl
theorem waitchSaveTimeout (die : BitVec 2) : Statement (.waitchSaveTimeout die) := rfl
theorem stageLineLand (team idx unit : Nat) : Statement (.stageLineLand team idx unit) := rfl
theorem saveComplete (team : Nat) : Statement (.saveComplete team) := rfl
theorem teamResume (team : Nat) : Statement (.teamResume team) := rfl
theorem gangRound (grid : Nat) : Statement (.gangRound grid) := rfl
theorem gangReservationRequest (r : GangReq) : Statement (.gangReservationRequest r) := rfl
theorem gangRoundTimeout (grid : Nat) : Statement (.gangRoundTimeout grid) := rfl
theorem gangRelease (grid : Word) (member : Nat) : Statement (.gangRelease grid member) := rfl
theorem gangCommit (grid : Word) : Statement (.gangCommit grid) := rfl
theorem gangStagedReport (grid : Word) (member : Nat) : Statement (.gangStagedReport grid member) := rfl
theorem gangOpen (grid : Word) : Statement (.gangOpen grid) := rfl
theorem gangBringupTimeout (grid : Nat) (member : Nat) : Statement (.gangBringupTimeout grid member) := rfl
theorem gangRetry (r : RetryCause) : Statement (.gangRetry r) := rfl
theorem detachNotice (grid : Word) (member : Nat) (done : Bool) : Statement (.detachNotice grid member done) := rfl
theorem gangBreak (grid : Word) (member : Nat) : Statement (.gangBreak grid member) := rfl
theorem brokerSilenceTimeout (grid : Word) (member : Nat) : Statement (.brokerSilenceTimeout grid member) := rfl
theorem phaseInForce (ctx : CtxId) : Statement (.phaseInForce ctx) := rfl
theorem memoryLineAccess (set : BitVec 9) : Statement (.memoryLineAccess set) := rfl
theorem actIdleTimeout (set : BitVec 9) : Statement (.actIdleTimeout set) := rfl
theorem retEntryTimeout (set : BitVec 9) : Statement (.retEntryTimeout set) := rfl
theorem wakeComplete (set : BitVec 9) : Statement (.wakeComplete set) := rfl
theorem clearingEnd (set : BitVec 9) : Statement (.clearingEnd set) := rfl
theorem patrolIntervalStart : Statement .patrolIntervalStart := rfl
theorem windowTimeout (id : Nat) : Statement (.windowTimeout id) := rfl
theorem slotTransmit (i : BitVec 4) : Statement (.slotTransmit i) := rfl
theorem beaconLoss : Statement .beaconLoss := rfl
theorem rrqTailNotice : Statement .rrqTailNotice := rfl
theorem fltTailNotice : Statement .fltTailNotice := rfl
theorem waveSwap (core : BitVec 8) (part : BitVec 2) : Statement (.waveSwap core part) := rfl
theorem starvationPromote (core : BitVec 8) (part : BitVec 2) : Statement (.starvationPromote core part) := rfl
theorem slotReclaim (core : BitVec 8) (part : BitVec 2) : Statement (.slotReclaim core part) := rfl
theorem formerEmitTimeout (core : BitVec 8) (part : BitVec 2) : Statement (.formerEmitTimeout core part) := rfl
theorem joinTimeout (team : Nat) (j : BitVec 4) : Statement (.joinTimeout team j) := rfl
theorem claimDeadlock (team : Nat) : Statement (.claimDeadlock team) := rfl
theorem tileDeadlock (core : BitVec 8) : Statement (.tileDeadlock core) := rfl
theorem cwaitPoll (team : Nat) : Statement (.cwaitPoll team) := rfl
theorem firedCommandEnqueue (team idx : Nat) : Statement (.firedCommandEnqueue team idx) := rfl
theorem copyLineLand (team idx unit : Nat) : Statement (.copyLineLand team idx unit) := rfl
theorem copyComplete (team idx : Nat) : Statement (.copyComplete team idx) := rfl
theorem cubePass (core : BitVec 8) : Statement (.cubePass core) := rfl
theorem cdrainStep (core : BitVec 8) : Statement (.cdrainStep core) := rfl
theorem cubeComplete (team idx : Nat) : Statement (.cubeComplete team idx) := rfl
theorem collStart (team idx : Nat) : Statement (.collStart team idx) := rfl
theorem readyToReceive (m : CollMsg) : Statement (.readyToReceive m) := rfl
theorem transferDone (m : CollMsg) (data : List Byte) : Statement (.transferDone m data) := rfl
theorem collQuery (ctx : CtxId) (grp : BitVec 8) (seq : BitVec 16) (asker : CollAsker) : Statement (.collQuery ctx grp seq asker) := rfl
theorem collAbort (at0 : AbortAt) (grp : BitVec 8) (seq : BitVec 16) (cause : BitVec 3) (code : BitVec 8) (rank : Nat) (norank : Bool) : Statement (.collAbort at0 grp seq cause code rank norank) := rfl
theorem collComplete (team idx : Nat) : Statement (.collComplete team idx) := rfl
theorem teamRetire (team : Nat) : Statement (.teamRetire team) := rfl
theorem gridRetire (grid : Nat) : Statement (.gridRetire grid) := rfl
theorem privateBlockCleared (ctx : CtxId) (k : Nat) : Statement (.privateBlockCleared ctx k) := rfl
theorem coldStart : Statement .coldStart := rfl
theorem reservedEncoding (code : BitVec 8) : Statement (.reservedEncoding code) := rfl
theorem windowReply (id : Nat) (r : TxReply) : Statement (.windowReply id r) := rfl
theorem gangReservationAnswer (grid : Word) (member : Nat) (granted : Bool) : Statement (.gangReservationAnswer grid member granted) := rfl
theorem gangSaveRequest (grid : Word) : Statement (.gangSaveRequest grid) := rfl
theorem activate (ctx : CtxId) : Statement (.activate ctx) := rfl
theorem destroy (ctx : CtxId) : Statement (.destroy ctx) := rfl
theorem invalPage (ctx : CtxId) : Statement (.invalPage ctx) := rfl
theorem invalAll (ctx : CtxId) : Statement (.invalAll ctx) := rfl
theorem bind (q : BitVec 14) : Statement (.bind q) := rfl
theorem unbind (q : BitVec 14) : Statement (.unbind q) := rfl
theorem doorbell (q : DoorbellAt) (v : DWord) : Statement (.doorbell q v) := rfl
theorem bankOn (set : BitVec 9) : Statement (.bankOn set) := rfl
theorem bankOff (set : BitVec 9) : Statement (.bankOff set) := rfl
theorem bankInuse (set : BitVec 9) : Statement (.bankInuse set) := rfl
theorem bankNotuse (set : BitVec 9) : Statement (.bankNotuse set) := rfl
theorem bankPres (set : BitVec 9) : Statement (.bankPres set) := rfl
theorem bankNopres (set : BitVec 9) : Statement (.bankNopres set) := rfl
theorem patrolRead (set granule : BitVec 9) (corrected bad : List Nat) : Statement (.patrolRead set granule corrected bad) := rfl
theorem remapLost (set : BitVec 9) : Statement (.remapLost set) := rfl
theorem busCodingChoice (set : BitVec 9) (low : Bool) : Statement (.busCodingChoice set low) := rfl
theorem stationTrain (i : BitVec 4) (t : Training) : Statement (.stationTrain i t) := rfl
theorem stationDown (i : BitVec 4) : Statement (.stationDown i) := rfl
theorem stationUp (i : BitVec 4) : Statement (.stationUp i) := rfl
theorem reachReport (i : BitVec 4) (aids : List Nat) : Statement (.reachReport i aids) := rfl
theorem slotmapWrite (k : BitVec 2) (v : DWord) : Statement (.slotmapWrite k v) := rfl
theorem inboundTransaction (x : InCell) : Statement (.inboundTransaction x) := rfl
theorem timeBeacon (beacons : List (Nat × DWord)) (xpod : Bool) : Statement (.timeBeacon beacons xpod) := rfl
theorem rdmaWrite (conn : BitVec 16) (key : Word) (addr : Nat) (data : List Byte) : Statement (.rdmaWrite conn key addr data) := rfl
theorem rdmaRead (conn : BitVec 16) (key : Word) (addr len : Nat) : Statement (.rdmaRead conn key addr len) := rfl
theorem unsupportedRdmaRequest (conn : BitVec 16) : Statement (.unsupportedRdmaRequest conn) := rfl
theorem registerWrite (conn : BitVec 16) (key : Word) (off : Word) (v : DWord) : Statement (.registerWrite conn key off v) := rfl
theorem tsq (v : DWord) : Statement (.tsq v) := rfl
theorem restart (t : FltTarget) : Statement (.restart t) := rfl
theorem discard (t : FltTarget) : Statement (.discard t) := rfl
theorem killthread (t : FltTarget) : Statement (.killthread t) := rfl
theorem killteam (t : FltTarget) : Statement (.killteam t) := rfl
theorem killgrid (t : FltTarget) : Statement (.killgrid t) := rfl
theorem grantMessage (target : RecordSource) (ctx : CtxId) (box : BitVec 8) (n : Nat) : Statement (.grantMessage target ctx box n) := rfl
theorem recordLand (src : RecordSource) (ctx : CtxId) (key : Word) (box : BitVec 8) (data : List Byte) : Statement (.recordLand src ctx key box data) := rfl
theorem slotReturn (target : RecordSource) (ctx : CtxId) (box : BitVec 8) : Statement (.slotReturn target ctx box) := rfl
theorem closeNotice (target : RecordSource) (ctx : CtxId) (box : BitVec 8) : Statement (.closeNotice target ctx box) := rfl
theorem status (r : MgmtReq) : Statement (.status r) := rfl
theorem quote (r : MgmtReq) : Statement (.quote r) := rfl
theorem flashwr (r : MgmtReq) : Statement (.flashwr r) := rfl
theorem flashseal (r : MgmtReq) : Statement (.flashseal r) := rfl
theorem start (r : MgmtReq) : Statement (.start r) := rfl
theorem read (r : MgmtReq) : Statement (.read r) := rfl
theorem connset (r : MgmtReq) : Statement (.connset r) := rfl
theorem epset (r : MgmtReq) : Statement (.epset r) := rfl
theorem msave (r : MgmtReq) : Statement (.msave r) := rfl
theorem mresume (r : MgmtReq) : Statement (.mresume r) := rfl
theorem powerCapLimit (k : BitVec 2) (watts : BitVec 16) : Statement (.powerCapLimit k watts) := rfl
theorem thermalLimit (celsius : Nat) : Statement (.thermalLimit celsius) := rfl
theorem thermalTrip (celsius : Nat) : Statement (.thermalTrip celsius) := rfl
theorem tcpConnection (e : TcpEvent) : Statement (.tcpConnection e) := rfl

end Sys2Proof.Laws.EncodeLength
end

