-- ==== Sys2Proof/Tests/Slice0.lean ====
section
/-! SUPPORT. Tests and witnesses: words written out from the spec's encodings, one ill-formed term for each check of WellFormed, one step of
an instruction on a small state with the values of the spec's tables, and states that meet the hypotheses of each statement. -/

namespace Sys2Proof.Tests
set_option maxRecDepth 100000
set_option Elab.async false
open Sys2Proof.Machine

/-! ## Words and what they decode to. The words marked as examples in Tables 11, 12.6, 13.5, 13.6, 14, 16 and 18.5 are the spec's own; the others
are composed by hand from Tables 8.2 to 8.6 and the instruction's row. -/

/-- Each word decodes to the instruction beside it. -/
def reads (st : Stream) (l : List (Word × Option Word × Instr)) : Bool :=
  l.all fun e => match decode st e.1 e.2.1 with | .ok i => decide (i = e.2.2) | .error _ => false

/-- No word of the list decodes. -/
def rejects (st : Stream) (l : List (Word × Option Word)) : Bool :=
  l.all fun e => match decode st e.1 e.2 with | .ok _ => false | .error _ => true

theorem test_words_lane_integer_a : reads .lane [
  (0x00A10180, none, .iadd ⟨3, 4, false, .reg 5 false⟩),
  (0x00A10182, none, .imul ⟨3, 4, false, .reg 5 false⟩),
  (0x00A10184, none, .imad ⟨3, 4, false, .reg 5 false⟩),
  (0x00A10188, none, .and ⟨3, 4, false, .reg 5 false⟩),
  (0x00A10189, none, .or ⟨3, 4, false, .reg 5 false⟩),
  (0x00A1018A, none, .xor ⟨3, 4, false, .reg 5 false⟩),
  (0x00A1018B, none, .andn ⟨3, 4, false, .reg 5 false⟩),
  (0x00A1018C, none, .shl ⟨3, 4, false, .reg 5 false⟩),
  (0x00A1018D, none, .shr ⟨3, 4, false, .reg 5 false⟩),
  (0x00A1018E, none, .sar ⟨3, 4, false, .reg 5 false⟩),
  (0x00A1018F, none, .rol ⟨3, 4, false, .reg 5 false⟩),
  (0x00A10190, none, .bfx ⟨3, 4, false, .reg 5 false⟩),
  (0x00A10191, none, .bfi ⟨3, 4, false, .reg 5 false⟩),
  (0x90010180, some 0x12345678, .iadd ⟨3, 4, false, .imm 0x12345678⟩),
  (0x60A10180, none, .iadd ⟨3, 4, true, .reg 5 true⟩),
  (0x80210181, some 0x12345678, .isub ⟨3, 4, false, .imm 0x12345678⟩ true)] = true := by decide

theorem test_words_lane_integer_b : reads .lane [
  (0x80210183, some 0x12345678, .imulh ⟨3, 4, false, .imm 0x12345678⟩ true),
  (0x00A10185, none, .imin ⟨3, 4, false, .reg 5 false⟩ false),
  (0x80210186, some 0x12345678, .imax ⟨3, 4, false, .imm 0x12345678⟩ true),
  (0x00010187, none, .iabs ⟨3, 4, false⟩),
  (0x00010192, none, .popc ⟨3, 4, false⟩),
  (0x00010193, none, .clz ⟨3, 4, false⟩),
  (0x00010194, none, .brev ⟨3, 4, false⟩)] = true := by decide

theorem test_words_lane_moves : reads .lane [
  (0x00A13115, none, .icmp .lo 2 ⟨4, false, .reg 5 false⟩),
  (0x82E10196, some 0x9, .isel ⟨3, 4, false⟩ (some 9) 7 true),
  (0x00A00197, none, .mov 3 (.reg 5 false)),
  (0x05000198, none, .movs 3 40),
  (0x00C10119, none, .iadd64 ⟨2, 4, false, .reg 6 false⟩),
  (0x8021011A, some 0x7, .imulw ⟨2, 4, false, .imm 7⟩ true),
  (0x0060989B, none, .plop .andn 1 2 3),
  (0x0000019C, none, .pmovGet 3),
  (0x0021001C, none, .pmovPut 4 false),
  (0x8040001C, some 0xFFFF, .pmovSet 0xFFFF),
  (0x8000019D, some 0x410, .setx 3 (.imm 16 8)),
  (0x0002411D, none, .setx 2 (.reg 9 false)),
  (0x00A0419E, none, .movx 3 1 (.reg 5 false)),
  (0x0080819F, none, .stx 3 2 (.reg 4 false))] = true := by decide

theorem test_words_lane_float_a : reads .lane [
  (0x806101A0, some 0x3F800000, .fadd ⟨3, 4, false, .imm 0x3F800000⟩ .rd),
  (0x806101A1, some 0x3F800000, .fsub ⟨3, 4, false, .imm 0x3F800000⟩ .rd),
  (0x806101A2, some 0x3F800000, .fmul ⟨3, 4, false, .imm 0x3F800000⟩ .rd),
  (0x806101A3, some 0x3F800000, .ffma ⟨3, 4, false, .imm 0x3F800000⟩ .rd),
  (0x806101B1, some 0x3F800000, .fscale ⟨3, 4, false, .imm 0x3F800000⟩ .rd),
  (0x882101A0, some 0x9, .fadd ⟨3, 4, false, .xreg 9⟩ .rz),
  (0x00A101A0, none, .fadd ⟨3, 4, false, .reg 5 false⟩ .rn),
  (0x802101A4, some 0x0, .fmin ⟨3, 4, false, .imm 0⟩ true),
  (0x00A101A5, none, .fmax ⟨3, 4, false, .reg 5 false⟩ false),
  (0x00A11326, none, .fcmp .lt 6 ⟨4, false, .reg 5 false⟩),
  (0x000101A7, none, .fclass ⟨3, 4, false⟩),
  (0x004101A8, none, .frnd ⟨3, 4, false⟩ .ru),
  (0x00A101A9, none, .f2i ⟨3, 4, false⟩ .rz true),
  (0x006101AA, none, .i2f ⟨3, 4, false⟩ .rd false),
  (0x02A101AB, none, .fcvt ⟨3, 4, false⟩ .rz .toBf16 true),
  (0x89A101AC, some 0x5, .hadd2 ⟨3, 4, false, .xreg 5⟩ .rz true true)] = true := by decide

theorem test_words_lane_float_b : reads .lane [
  (0x89A101AD, some 0x5, .hmul2 ⟨3, 4, false, .xreg 5⟩ .rz true true),
  (0x89A101AE, some 0x5, .hfma2 ⟨3, 4, false, .xreg 5⟩ .rz true true),
  (0x838101AF, some 0x1, .hminmax2 ⟨3, 4, false, .imm 1⟩ true true true),
  (0x00A12A30, none, .hcmp2 .ge 4 ⟨4, false, .reg 5 false⟩ false),
  (0x002101B2, none, .fexp ⟨3, 4, false⟩ true),
  (0x804101B3, some 0x80000000, .fsgn ⟨3, 4, false, .imm 0x80000000⟩ .xor),
  (0x40A101B8, none, .rcp ⟨3, 4, 5, .ru⟩),
  (0x40A101B9, none, .rsq ⟨3, 4, 5, .ru⟩),
  (0x40A101BA, none, .sqrt ⟨3, 4, 5, .ru⟩),
  (0x40A101BC, none, .ex2 ⟨3, 4, 5, .ru⟩),
  (0x40A101BD, none, .lg2 ⟨3, 4, 5, .ru⟩),
  (0x40A101BE, none, .sinpi ⟨3, 4, 5, .ru⟩),
  (0x40A101BF, none, .cospi ⟨3, 4, 5, .ru⟩),
  (0xA0A101BB, some 0x89, .fdiv ⟨3, 4, 5, .rz⟩ 9 true)] = true := by decide

theorem test_words_lane_narrow : reads .lane [
  (0x84A101C0, some 0x1, .f8pk ⟨3, 4, false, .imm 1⟩ .e5m2 .rz 2),
  (0x00E101C1, none, .f8up ⟨3, 4, false⟩ 3 true),
  (0x82A101C2, some 0x1, .f4pk ⟨3, 4, false, .imm 1⟩ .mx false 5),
  (0x00C101C3, none, .f4up ⟨3, 4, false⟩ 6),
  (0x00A101C4, none, .bmax ⟨3, 4, false, .reg 5 false⟩),
  (0x804101C5, some 0xD0605, .qdot8 ⟨3, 4, false, false, .rz, 5, 6, 1, 3⟩),
  (0x802101C6, some 0x20605, .qdot4 ⟨3, 4, false, true, .rn, 5, 6, 2, 0⟩)] = true := by decide

theorem test_words_lane_memory : reads .lane [
  (0xA8608450, some 0xFFFFFFF0, .ld ⟨8, 2, 3, .b128, 1, some 0xFFFFFFF0⟩),
  (0x46008451, none, .st ⟨8, 2, 0, .b64, 2, none⟩),
  (0x0420C452, none, .lds ⟨8, 3, 1, .b32, 0, none⟩),
  (0x8200C453, some 0x4, .sts ⟨8, 3, 0, .b16, 0, some 4⟩),
  (0x04208454, none, .atom ⟨8, 2, 1, .b32, 0, none⟩),
  (0xE40084D5, some 0xC, .atomf ⟨9, 2, 0, .b32, 3, some 12⟩),
  (0x06010A56, none, .atomx ⟨20, 4, 0, .b64, 0, none⟩),
  (0x86608457, some 0x1ABCD, .ldw ⟨8, 2, 3, .b64, 0, 0xABCD, true, false⟩),
  (0x80008458, some 0x20005, .stw ⟨8, 2, 0, .b8, 0, 5, false, true⟩),
  (0x86008459, some 0x30005, .atw ⟨8, 2, 0, .b64, 0, 5, true, true⟩),
  (0x8800845A, some 0x9, .mcst ⟨8, 2, 0, .b128, 0, 9, false, false⟩),
  (0x802083DB, some 0x40, .rreq ⟨7, 2, 1, .b8, 0, some 64⟩),
  (0x0000805C, none, .pref ⟨0, 2, 0, .b8, 0, none⟩),
  (0x0040005D, none, .fence .sys),
  (0x8000115E, some 0x800, .fadv 2 true (.imm 0x800)),
  (0x084002DF, none, .fcnt 5 2 .fill)] = true := by decide

theorem test_words_lane_control : reads .lane [
  (0x881C4060, some 0x240, .br 1 true (some 3) 0x240),
  (0x80000061, some 0x123456, .jmp 0x123456),
  (0x80000062, some 0x10, .call 0x10),
  (0x08080A63, none, .calli 20 (some 1)),
  (0x00000064, none, .ret none),
  (0x08094AE5, none, .join 21 5 1),
  (0x00000066, none, .exit),
  (0x8000C567, some 0x300, .spawn 10 3 0x300)] = true := by decide

theorem test_words_lane_sync : reads .lane [
  (0x00014068, none, .redq 0 .add 5 false),
  (0x010143E8, none, .redq 7 .fadd 5 false),
  (0x02400269, none, .dqpop 4 (some 2)),
  (0x002081EA, none, .bara 3 (some 2)),
  (0x000081EB, none, .barw 3 false 2),
  (0x002000EB, none, .barw 1 true 0),
  (0x800001EC, some 0x1C, .rclaim 3 (.imm 0x1C)),
  (0x8020026D, some 0x38, .rrel 4 (.imm 0x38) true),
  (0x00C1406E, none, .trdy 5 false (.reg 6 false)),
  (0x80440470, some 0x1304, .rayq 8 16 2 4 3 true),
  (0x88008871, some 0x20006, .rwsend ⟨16, 2, 0, .b128, 0, 6, false, true⟩),
  (0x4A200872, none, .rwrecv 16 21 1),
  (0xA4000872, some 0x700, .rwrecvNb 16 10 0 7)] = true := by decide

theorem test_words_lane_system : reads .lane [
  (0x8000007F, some 0x2A, .trap (some 42)),
  (0x0020007F, none, .brkpt),
  (0x0040017F, none, .srd 2 .tid),
  (0x0060007F, none, .nop),
  (0x0080007F, none, .yield),
  (0x80A001FF, some 0x4, .stat 3 (some 4))] = true := by decide

theorem test_words_steer_scalar_a : reads .steer [
  (0x00289080, none, .sadd ⟨33, 4, .reg 5⟩),
  (0x00289082, none, .smul ⟨33, 4, .reg 5⟩),
  (0x00289086, none, .sand ⟨33, 4, .reg 5⟩),
  (0x00289087, none, .sor ⟨33, 4, .reg 5⟩),
  (0x00289088, none, .sxor ⟨33, 4, .reg 5⟩),
  (0x00289089, none, .sshl ⟨33, 4, .reg 5⟩),
  (0x0028908A, none, .sshr ⟨33, 4, .reg 5⟩),
  (0x0028908B, none, .ssar ⟨33, 4, .reg 5⟩),
  (0x0028908C, none, .sbfx ⟨33, 4, .reg 5⟩),
  (0x84009081, some 0xFFFFFFFF, .ssub ⟨33, 4, .imm 0xFFFFFFFF⟩ true),
  (0x84009083, some 0xFFFFFFFF, .smulh ⟨33, 4, .imm 0xFFFFFFFF⟩ true),
  (0x84009084, some 0xFFFFFFFF, .smin ⟨33, 4, .imm 0xFFFFFFFF⟩ true),
  (0x84009085, some 0xFFFFFFFF, .smax ⟨33, 4, .imm 0xFFFFFFFF⟩ true),
  (0x84009095, some 0xFFFFFFFF, .srem ⟨33, 4, .imm 0xFFFFFFFF⟩ true),
  (0x0000818D, none, .spopc ⟨3, 4⟩),
  (0x0000818E, none, .sclz ⟨3, 4⟩)] = true := by decide

theorem test_words_steer_scalar_b : reads .steer [
  (0x8000888F, some 0x64, .scmp .lt 1 4 (.imm 0x64)),
  (0x2838C290, none, .ssel ⟨5, 6, .reg 7⟩ 2 true),
  (0x80000511, some 0x3, .smov 10 (.imm 3)),
  (0x01F09012, none, .sadd64 ⟨32, 4, .reg 62⟩),
  (0x08184093, none, .clop .xor 1 2 3),
  (0x0440E314, none, .sdiv ⟨6, 7, .reg 8⟩ true)] = true := by decide

theorem test_words_steer_control : reads .steer [
  (0x84006020, some 0x80, .sbr 3 true 0x80),
  (0x80000021, some 0x80, .sjmp 0x80),
  (0x80000022, some 0x81, .scall 0x81),
  (0x00000023, none, .sret),
  (0x00000024, none, .sdone),
  (0x80000525, some 0x105, .sloop 10 0x105),
  (0x00500028, none, .dqpush 0 (.reg 10)),
  (0x00580629, none, .qrd 12 0 (.reg 11)),
  (0x8000007F, some 0x7, .strap (some 7)),
  (0x0400007F, none, .sbrk),
  (0x0800007F, none, .snop),
  (0x0C00007F, none, .syld)] = true := by decide

theorem test_words_steer_memory : reads .steer [
  (0x88004A2A, some 0x40, .sld 20 2 .b32 false 0 (some 0x40)),
  (0x74004A2A, none, .sld 20 2 .b16 true 3 none),
  (0x8C004A2B, some 0x8, .sst 20 2 .b64 0 (some 8)),
  (0x3C404A2C, none, .satom 20 2 8 .cas true false),
  (0x44484A2C, none, .satom 20 2 9 .min false true),
  (0x1800002D, none, .sfence .sys true),
  (0x0000032E, none, .srds 6 .tid),
  (0x00B2803C, none, .cwait 20 22)] = true := by decide

theorem test_words_steer_engine : reads .steer [
  (0x80406830, some 0x408, .copy ⟨16, 3, 0, false, false, true⟩ .mem .feed 0 2),
  (0x80000431, some 0x83, .cube ⟨8, 0, 0, false, false, false⟩ .two false 3 4 0 0),
  (0x84C0A831, some 0x18820, .cube ⟨16, 5, 0, false, false, true⟩ .mz true 0 1 2 3),
  (0x86C04C32, some 0x866, .cdrain ⟨24, 2, 0, false, false, true⟩ .tdx true 6 3 4),
  (0x80E8CC38, some 0x3, .coll ⟨24, 6, 2, false, true, true⟩ 1 3),
  (0x80000F33, some 0x2, .aclaim 30 (.imm 2)),
  (0x80000034, some 0x2, .arel (.imm 2)),
  (0x00018135, none, .finit 2 (some 12)),
  (0x04000135, none, .finit 2 none)] = true := by decide

theorem test_words_steer_objects : reads .steer [
  (0x80000136, some 0x40, .bari 2 false (.imm 64)),
  (0x80008037, some 0x0, .bararm 4),
  (0x80408C37, some 0x0, .bararmTile 24 4),
  (0x040021BA, none, .sbara 3 (some 1)),
  (0x040000BB, none, .sbarw 1 true 0),
  (0x8000043D, some 0x1, .attime 8 true),
  (0x9402AA39, some 0x2, .rwgrant 20 21 (.imm 2) 5)] = true := by decide

theorem test_words_steer_services : reads .steer [
  (0x0005D640, none, .launch 44 46),
  (0x00000041, none, .waitch none),
  (0x04012041, none, .waitch (some 9)),
  (0x80000042, some 0x50003, .bwp (.imm 0x00050003)),
  (0x80000044, some 0x1234, .rrinv (some (.imm 0x1234))),
  (0x04000044, none, .rrinv none),
  (0x00000043, none, .gdetach),
  (0x00380345, none, .wprobe 6 (.reg 7))] = true := by decide

/-- Reserved forms: JOIN and RET with a field the other way (18.5, 11), an opcode that has no row, IADD64 with odd registers (R260), ATOM of size 5;
a steering opcode that has no row, SADD64 with an odd register (R304), SST with the bit that only SLD has (R313). -/
theorem test_reserved_words :
    rejects .lane [(0x00094AE5, none), (0x00800064, none), (0x00A101FE, none), (0x00A10199, none), (0x0A208454, none)] = true ∧
    rejects .steer [(0x0000007E, none), (0x00289092, none), (0x34004A2B, none)] = true := by decide +kernel

/-! ## Well-formedness: one ill-formed term for each check -/

/-- Register forms carry no modifier; pairs, quads and blocks start where they must. -/
theorem test_wf_lane_registers :
    [Instr.isub ⟨1, 2, false, .reg 3 false⟩ true, .imulh ⟨1, 2, false, .reg 3 false⟩ true, .imin ⟨1, 2, false, .reg 3 false⟩ true,
     .imax ⟨1, 2, false, .reg 3 false⟩ true, .iadd64 ⟨1, 2, false, .reg 4 false⟩, .iadd64 ⟨2, 3, false, .reg 4 false⟩,
     .iadd64 ⟨2, 4, false, .reg 5 false⟩, .imulw ⟨3, 2, false, .reg 3 false⟩ false, .imulw ⟨2, 2, false, .reg 3 false⟩ true,
     .srd 3 .dtime].all (fun i => !i.wf) = true := by decide

/-- Floating-point register forms carry no modifier; HCMP2 writes an even predicate; a position the kind does not have. -/
theorem test_wf_lane_float :
    let o : F3 := ⟨1, 2, false, .reg 3 false⟩
    let x : F3 := ⟨1, 2, false, .imm 3⟩
    [Instr.fadd o .rz, .fsub o .rz, .fmul o .ru, .ffma o .rd, .fmin o true, .fmax o true, .fcvt ⟨1, 2, false⟩ .rz .fromF16 false,
     .hadd2 o .rz false false, .hmul2 o .rn true false, .hfma2 o .rn false true, .hminmax2 o false true false,
     .hcmp2 .lt 3 ⟨2, false, .reg 3 false⟩ false, .hcmp2 .lt 2 ⟨2, false, .reg 3 false⟩ true, .fscale o .rz, .fsgn o .xor,
     .f8pk o .e5m2 .rn 0, .f8pk x .e4m3 .rn 1, .f8pk x .mx .rz 0, .f4pk o .mx false 0, .f4pk x .e2m1 false 4, .f4pk x .mx true 0,
     .qdot8 ⟨1, 2, false, true, .rn, 3, 4, 1, 0⟩, .qdot4 ⟨1, 2, false, true, .rn, 3, 4, 0, 3⟩, .dxexp ⟨1, 2, false⟩ .dxb8 0,
     .dxexp ⟨1, 2, false⟩ .mxfp8 1, .dxdec ⟨1, 2, false⟩ false 4 3 0, .dxdec ⟨1, 2, false⟩ true 4 3 1].all (fun i => !i.wf) = true := by decide

/-- Data groups and bases of the memory formats; fields that an access does not use; LA of a store. -/
theorem test_wf_lane_memory :
    [Instr.ld ⟨9, 2, 0, .b64, 0, none⟩, .ld ⟨10, 2, 0, .b128, 0, none⟩, .ld ⟨8, 3, 0, .b32, 0, none⟩, .st ⟨8, 2, 1, .b32, 0, none⟩,
     .lds ⟨9, 3, 0, .b64, 0, none⟩, .sts ⟨8, 3, 1, .b32, 0, none⟩, .atom ⟨8, 2, 0, .b16, 0, none⟩, .atom ⟨10, 2, 0, .b32, 0, none⟩,
     .atomf ⟨9, 2, 0, .b64, 0, none⟩, .atomx ⟨9, 2, 0, .b64, 0, none⟩, .ldw ⟨8, 2, 0, .b32, 0, 1, false, true⟩,
     .stw ⟨8, 2, 0, .b32, 0, 1, true, false⟩, .stw ⟨8, 2, 3, .b32, 0, 1, false, false⟩, .atw ⟨8, 2, 0, .b8, 0, 1, false, false⟩,
     .mcst ⟨8, 2, 0, .b32, 0, 1, true, false⟩, .rreq ⟨7, 2, 0, .b16, 0, none⟩, .pref ⟨1, 2, 0, .b8, 0, none⟩, .barw 1 true 1,
     .rrel 1 (.reg 2 false) true, .rayq 9 16 0 4 3 false, .rayq 8 17 0 4 3 false, .rayq 8 16 0 5 3 false,
     .rwsend ⟨8, 2, 0, .b128, 0, 6, false, false⟩, .rwrecv 8 1 0, .rwrecvNb 8 1 0 3].all (fun i => !i.wf) = true := by decide

/-- The steering stream: pairs, sizes, engine fields, parameter blocks. -/
theorem test_wf_steer :
    [Instr.sadd64 ⟨33, 4, .reg 6⟩, .sadd64 ⟨32, 5, .reg 6⟩, .sadd64 ⟨32, 4, .reg 7⟩, .sld 20 3 .b32 false 0 none, .sld 20 2 .b128 false 0 none,
     .sld 21 2 .b64 false 0 none, .sld 20 2 .b32 true 0 none, .sst 21 2 .b64 0 none, .satom 21 2 8 .add true false, .satom 20 2 10 .cas true false,
     .satom 20 2 9 .cas false false, .satom 20 2 9 .add false true, .srds 7 .dtime, .copy ⟨57, 0, 0, false, false, false⟩ .mem .mem 0 0,
     .copy ⟨16, 3, 0, false, false, false⟩ .mem .mem 0 0, .copy ⟨16, 0, 1, false, false, false⟩ .mem .mem 0 0,
     .copy ⟨16, 0, 0, true, false, false⟩ .mem .mem 0 0, .copy ⟨16, 0, 0, false, false, false⟩ .win .win 0 0,
     .copy ⟨16, 0, 0, false, false, false⟩ .mem .mem 1 0, .copy ⟨16, 0, 0, false, false, false⟩ .mem .mem 0 1,
     .cube ⟨8, 0, 0, false, false, false⟩ .two false 3 4 5 0, .cdrain ⟨24, 0, 0, false, false, false⟩ .tdx true 6 3 0,
     .coll ⟨60, 0, 0, false, false, false⟩ 1 3, .bararmTile 57 4, .attime 57 true, .cwait 21 22, .launch 45 46, .sbarw 1 true 1].all
      (fun i => !i.wf) = true := by decide

/-! ## A small device: context 0 with one writable page at address 0, team 0 on core 0 with one lane thread of 128 registers -/

/-- The small device, with `p` performing next. -/
def lab (p : Party) : State := { State.reset.boot 32 0x0060007F with agenda := [], cur := some p }

/-- The small device with another team in place of its own. -/
def labWith (p : Party) (T : Team) : State := { lab p with teams := [(0, T)] }

/-- The lane thread of the small device, with registers and predicates. -/
def labThread (v : Map Word) (p : BitVec 16) : Thread := { bootThread with v := v, p := p }

/-- The team of the small device, with another lane thread. -/
def labTeam (th : Thread) : Team := { bootTeam 1 with threads := [(0, th)] }

/-- The team of the small device, with other steering registers. -/
def labSteer (v : Map Word) : Team := { bootTeam 1 with steer := { bootSteer with s := v } }

/-- A lane thread without a late result is ready for every instruction whose registers it has. -/
theorem lab_lane_ready (T : Team) (th : Thread) (regs preds : List Nat) (hT : T.thread? 0 = some th) (hr : ∀ r ∈ regs, r < T.regCount th)
    (hl : th.shadowed regs preds = false) : (labWith (.lane 0 0) T).LaneReady 0 T 0 th regs preds :=
  ⟨rfl, rfl, hT, hr, hl⟩

/-- What one lane instruction leaves of the thread, from registers and predicates. -/
def laneAfter (i : Instr) (v : Map Word) (p : BitVec 16 := 0) : Option Thread :=
  match exec i (labWith (.lane 0 0) (labTeam (labThread v p))) with
  | .next s' => (s'.team? 0).bind (·.thread? 0)
  | .fault _ => none
  | .refused _ => none

/-- The register `d` after one lane instruction. -/
def laneReg (i : Instr) (v : Map Word) (d : Nat) : Option Word := (laneAfter i v).map (·.reg d)

/-- What one steering instruction leaves of its thread, from registers. -/
def steerAfter (i : Instr) (v : Map Word) : Option Steer :=
  match exec i (labWith (.steer 0) (labSteer v)) with
  | .next s' => (s'.team? 0).map (·.steer)
  | .fault _ => none
  | .refused _ => none

/-- The register `d` after one steering instruction. -/
def steerReg (i : Instr) (v : Map Word) (d : Nat) : Option Word := (steerAfter i v).map (·.reg d)

/-! ## The lane stream, one step each; values by hand from Tables 11.1 to 11.3 -/

theorem test_int_wraps :
    laneReg (.iadd ⟨3, 1, false, .reg 2 false⟩) [(1, 0xFFFFFFFF), (2, 2)] 3 = some 1 ∧
    laneReg (.isub ⟨3, 1, false, .imm 1⟩ true) [(1, 3)] 3 = some 0xFFFFFFFE ∧
    laneReg (.imul ⟨3, 1, false, .reg 2 false⟩) [(1, 0x10000), (2, 0x10001)] 3 = some 0x10000 ∧
    laneReg (.imad ⟨3, 1, false, .reg 2 false⟩) [(1, 5), (2, 7), (3, 100)] 3 = some 135 := by decide +kernel

theorem test_int_high_and_extremes :
    laneReg (.imulh ⟨3, 1, false, .imm 2⟩ false) [(1, 0x80000000)] 3 = some 0xFFFFFFFF ∧
    laneReg (.imulh ⟨3, 1, false, .imm 2⟩ true) [(1, 0x80000000)] 3 = some 1 ∧
    laneReg (.imin ⟨3, 1, false, .imm 1⟩ false) [(1, 0xFFFFFFFF)] 3 = some 0xFFFFFFFF ∧
    laneReg (.imin ⟨3, 1, false, .imm 1⟩ true) [(1, 0xFFFFFFFF)] 3 = some 1 ∧
    laneReg (.imax ⟨3, 1, false, .imm 1⟩ false) [(1, 0xFFFFFFFF)] 3 = some 1 ∧
    laneReg (.iabs ⟨3, 1, false⟩) [(1, 0x80000000)] 3 = some 0x80000000 := by decide +kernel

theorem test_int_shifts :
    laneReg (.shl ⟨3, 1, false, .imm 31⟩) [(1, 3)] 3 = some 0x80000000 ∧
    laneReg (.shl ⟨3, 1, false, .imm 32⟩) [(1, 3)] 3 = some 0 ∧
    laneReg (.shr ⟨3, 1, false, .imm 0x80000000⟩) [(1, 0xFFFFFFFF)] 3 = some 0 ∧
    laneReg (.sar ⟨3, 1, false, .imm 40⟩) [(1, 0x80000000)] 3 = some 0xFFFFFFFF ∧
    laneReg (.rol ⟨3, 1, false, .imm 33⟩) [(1, 0x80000001)] 3 = some 3 := by decide +kernel

theorem test_int_fields :
    laneReg (.bfx ⟨3, 1, false, .imm 0x0804⟩) [(1, 0x12345F78)] 3 = some 0xF7 ∧
    laneReg (.bfx ⟨3, 1, false, .imm 0x10804⟩) [(1, 0x12345F78)] 3 = some 0xFFFFFFF7 ∧
    laneReg (.bfi ⟨3, 1, false, .imm 0x0804⟩) [(1, 0xAB), (3, 0xFFFFFFFF)] 3 = some 0xFFFFFABF ∧
    laneReg (.popc ⟨3, 1, false⟩) [(1, 0xF000000F)] 3 = some 8 ∧
    laneReg (.clz ⟨3, 1, false⟩) [(1, 0)] 3 = some 32 ∧ laneReg (.clz ⟨3, 1, false⟩) [(1, 0x00010000)] 3 = some 15 ∧
    laneReg (.brev ⟨3, 1, false⟩) [(1, 3)] 3 = some 0xC0000000 := by decide +kernel

theorem test_int_logic :
    laneReg (.and ⟨3, 1, false, .imm 0xFF00⟩) [(1, 0x1234)] 3 = some 0x1200 ∧
    laneReg (.andn ⟨3, 1, false, .imm 0xFF00⟩) [(1, 0x1234)] 3 = some 0x34 ∧
    laneReg (.or ⟨3, 1, false, .imm 0xFF⟩) [(1, 0x1200)] 3 = some 0x12FF ∧
    laneReg (.xor ⟨3, 1, false, .imm 0xFF⟩) [(1, 0x12F0)] 3 = some 0x120F := by decide +kernel

theorem test_moves :
    (laneAfter (.icmp .lo 2 ⟨1, false, .imm 0xFFFFFFFF⟩) [(1, 1)]).map (·.pred 2) = some true ∧
    (laneAfter (.icmp .lt 2 ⟨1, false, .imm 0xFFFFFFFF⟩) [(1, 1)]).map (·.pred 2) = some false ∧
    laneReg (.isel ⟨3, 1, false⟩ (some 9) 0 false) [(1, 5)] 3 = some 9 ∧
    laneReg (.isel ⟨3, 1, false⟩ none 0 true) [(1, 5), (3, 7)] 3 = some 5 ∧
    laneReg (.mov 3 (.reg 1 false)) [(1, 5)] 3 = some 5 ∧
    (laneAfter (.plop .andn 1 2 3) [] 4).map (·.p) = some 6 ∧
    (laneAfter (.pmovSet 0x00F00050) [] 0xFFFF).map (·.p) = some 0xFF5F ∧
    laneReg (.pmovGet 3) [] 3 = some 0 ∧
    (laneAfter (.pmovPut 3 false) [(3, 0xABCD1234)]).map (·.p) = some 0x1234 := by decide +kernel

theorem test_pairs :
    (laneAfter (.iadd64 ⟨4, 6, false, .imm 0xFFFFFFFF⟩) [(6, 0), (7, 1)]).map (fun th => (th.reg 4, th.reg 5)) = some (0xFFFFFFFF, 0) ∧
    (laneAfter (.imulw ⟨4, 6, false, .imm 2⟩ false) [(6, 0x80000000)]).map (fun th => (th.reg 4, th.reg 5)) = some (0, 1) ∧
    (laneAfter (.imulw ⟨4, 6, false, .imm 2⟩ true) [(6, 0x80000000)]).map (fun th => (th.reg 4, th.reg 5)) = some (0, 0xFFFFFFFF) := by decide +kernel

/-- R262, R263: base 16, length 8. An index of 7 is the last one; an index of 8 stops the thread. -/
theorem test_index_registers :
    let at16 := labTeam { bootThread with v := [(5, 7), (6, 8), (23, 99)], x := [(1, 0x410)] }
    (laneAfter (.setx 1 (.imm 16 8)) []).map (·.index 1) = some (16, 8) ∧
    (match exec (.movx 3 1 (.reg 5 false)) (labWith (.lane 0 0) at16) with
      | .next s' => (s'.team? 0).bind (·.thread? 0) |>.map (·.reg 3) | _ => none) = some 99 ∧
    (match exec (.stx 3 1 (.reg 6 false)) (labWith (.lane 0 0) at16) with
      | .next s' => (s'.team? 0).bind (·.thread? 0) |>.map (·.st) | _ => none) =
        some (.stopped ⟨Code.indexRange, 0, 0, 0, 16, 0, 0, 0, 0, 0, 0, 0⟩) := by decide +kernel

/-! ## Floating point; values by hand from 10 and 12 -/

/-- R240, R241: 1 + 2^-24 is a tie, which rn rounds to even and ru away; NX is set. A signalling NaN sets INV and gives the canonical NaN. -/
theorem test_float_sums :
    (laneAfter (.fadd ⟨3, 1, false, .imm 0x33800000⟩ .rn) [(1, 0x3F800000)]).map (fun th => (th.reg 3, th.sticky)) = some (0x3F800000, 16) ∧
    (laneAfter (.fadd ⟨3, 1, false, .imm 0x33800000⟩ .ru) [(1, 0x3F800000)]).map (fun th => (th.reg 3, th.sticky)) = some (0x3F800001, 16) ∧
    laneReg (.fsub ⟨3, 1, false, .imm 0x3F800000⟩ .rd) [(1, 0x3F800000)] 3 = some 0x80000000 ∧
    (laneAfter (.fmul ⟨3, 1, false, .imm 0x7F7FFFFF⟩ .rn) [(1, 0x40000000)]).map (·.reg 3) = some 0x7F800000 ∧
    (laneAfter (.fadd ⟨3, 1, false, .imm 0x7F800001⟩ .rn) [(1, 0x3F800000)]).map (fun th => (th.reg 3, th.sticky)) = some (0x7FC00000, 1) ∧
    laneReg (.ffma ⟨3, 1, false, .imm 0x40000000⟩ .rn) [(1, 0x40400000), (3, 0x3F800000)] 3 = some 0x40E00000 := by decide +kernel

theorem test_float_comparisons :
    (laneAfter (.fcmp .lt 6 ⟨1, false, .imm 0x40000000⟩) [(1, 0x3F800000)]).map (·.pred 6) = some true ∧
    (laneAfter (.fcmp .un 6 ⟨1, false, .imm 0x7FC00000⟩) [(1, 0x3F800000)]).map (·.pred 6) = some true ∧
    (laneAfter (.fcmp .eq 6 ⟨1, false, .imm 0x80000000⟩) [(1, 0)]).map (·.pred 6) = some true ∧
    laneReg (.fmin ⟨3, 1, false, .imm 0x80000000⟩ false) [(1, 0)] 3 = some 0x80000000 ∧
    laneReg (.fmax ⟨3, 1, false, .imm 0x3F800000⟩ false) [(1, 0xBF800000)] 3 = some 0x3F800000 ∧
    (laneAfter (.hcmp2 .ge 4 ⟨1, false, .imm 0x3C003C00⟩ false) [(1, 0x3C004000)]).map (fun th => (th.pred 4, th.pred 5)) = some (true, true) := by
  decide +kernel

theorem test_float_conversions :
    laneReg (.f2i ⟨3, 1, false⟩ .rz false) [(1, 0xC0200000)] 3 = some 0xFFFFFFFE ∧
    laneReg (.i2f ⟨3, 1, false⟩ .rn false) [(1, 0xFFFFFFFF)] 3 = some 0xBF800000 ∧
    laneReg (.i2f ⟨3, 1, false⟩ .rn true) [(1, 0xFFFFFFFF)] 3 = some 0x4F800000 ∧
    laneReg (.frnd ⟨3, 1, false⟩ .rn) [(1, 0x40200000)] 3 = some 0x40000000 ∧
    laneReg (.fcvt ⟨3, 1, false⟩ .rn .toF16 false) [(1, 0x3F800000), (3, 0xAAAA5555)] 3 = some 0xAAAA3C00 ∧
    laneReg (.fcvt ⟨3, 1, false⟩ .rn .toBf16 true) [(1, 0x3F800000), (3, 0xAAAA5555)] 3 = some 0x3F805555 ∧
    laneReg (.fsgn ⟨3, 1, false, .imm 0x80000000⟩ .xor) [(1, 0xBF800000)] 3 = some 0x3F800000 := by decide +kernel

theorem test_half_pairs :
    laneReg (.hadd2 ⟨3, 1, false, .imm 0x3C004000⟩ .rn false false) [(1, 0x3C003C00)] 3 = some 0x40004200 ∧
    laneReg (.hmul2 ⟨3, 1, false, .imm 0x3F804000⟩ .rn true false) [(1, 0x40003F80)] 3 = some 0x40004000 ∧
    laneReg (.hfma2 ⟨3, 1, false, .imm 0x3C003C00⟩ .rn false false) [(1, 0x40003C00), (3, 0x3C000000)] 3 = some 0x42003C00 := by decide +kernel

/-- Table 12.5, R291, R296: E4M3 1.0 is 38; E2M1 1.0 is 2; a dot product of ones in each of the four elements adds 4. -/
theorem test_narrow_formats :
    laneReg (.f8up ⟨3, 1, false⟩ 1 false) [(1, 0x00003800)] 3 = some 0x3F800000 ∧
    laneReg (.f4up ⟨3, 1, false⟩ 2) [(1, 0x00000200)] 3 = some 0x3F800000 ∧
    laneReg (.qdot8 ⟨3, 1, false, false, .rn, 2, 4, 0, 0⟩) [(1, 0x38383838), (2, 0x38383838), (4, 0x7F7F7F7F), (3, 0x3F800000)] 3 = some 0x40A00000 := by
  decide +kernel

/-- R289, R185: RCP of 4 is 0.25, due as a late result; the register keeps its old value until then. -/
theorem test_late_function :
    laneReg (.rcp ⟨3, 1, 2, .rn⟩) [(1, 0x40800000), (3, 7)] 3 = some 7 ∧
    (laneAfter (.rcp ⟨3, 1, 2, .rn⟩) [(1, 0x40800000), (3, 7)]).map (·.late) =
      some [⟨0, 2, [3], [], [(3, 0x3E800000)], [], 0, .due⟩] ∧
    (laneAfter (.fdiv ⟨3, 1, 1, .rn⟩ 2 false) [(1, 0x3F800000), (2, 0)]).map (·.late) =
      some [⟨0, 1, [3], [], [(3, 0x7F800000)], [], 2, .due⟩] := by decide +kernel

/-! ## Memory, windows, feeds: one step each. Virtual 0x1000 of the small device is physical 0x11000; its entry is at physical 0 -/

/-- The small device with the bytes 11 22 .. 88 at virtual 0x1000, `p` performing next, the team's thread holding registers `v`. -/
def labMem (p : Party) (T : Team) : State :=
  let s := labWith p T
  { s with mem := Memory.store s.mem 0x11000 [0x11, 0x22, 0x33, 0x44, 0x55, 0x66, 0x77, 0x88] }

/-- A team with 4 lines of scratchpad, two feeds of 128 and 256 bytes, one barrier of count 2 and a join slot. -/
def labFull (th : Thread) : Team :=
  { labTeam th with slines := 4, feeds := [(0, ⟨0, 7, 0, 0, []⟩), (1, ⟨2, 8, 0, 0, []⟩)], img := ⟨0, 64, 2, 0, 0, 2, 0⟩,
                    bars := [(3, ⟨2, 0, false, [], (0, 0)⟩)], joins := [(5, ⟨[0, 1], [], false, none⟩)] }

/-- The thread after one lane instruction in a state. -/
def threadOf (i : Instr) (s : State) : Option Thread :=
  match exec i s with
  | .next s' => (s'.team? 0).bind (·.thread? 0)
  | .fault _ => none
  | .refused _ => none

/-- The memory after one instruction. -/
def memOf (i : Instr) (s : State) (a n : Nat) : Option (List Byte) :=
  match exec i s with
  | .next s' => some (s'.bytes a n)
  | .fault _ => none
  | .refused _ => none

/-- R325, R326: little-endian loads, narrow ones zero-extended; a late result. R325: a misaligned address and one outside the apertures stop. -/
theorem test_loads :
    let s := labMem (.lane 0 0) (labTeam (labThread [(2, 0x1000)] 0))
    (threadOf (.ld ⟨8, 2, 1, .b64, 0, none⟩) s).map (fun th => th.late.map (·.regs)) = some [[(8, 0x44332211), (9, 0x88776655)]] ∧
    (threadOf (.ld ⟨8, 2, 1, .b16, 0, some 2⟩) s).map (fun th => th.late.map (·.regs)) = some [[(8, 0x4433)]] ∧
    (threadOf (.ld ⟨8, 2, 1, .b32, 0, some 2⟩) s).map (·.st) = some (.stopped ⟨Code.align, 0, 0, 0, 16, 0, 0x1002, 0, 0, 0, 0, 0⟩) ∧
    (threadOf (.ld ⟨8, 4, 1, .b32, 0, none⟩) (labMem (.lane 0 0) (labTeam (labThread [(5, 0x05000000)] 0)))).map (·.st) =
      some (.stopped ⟨Code.aperture, 0, 0, 0, 16, 0, 0x0500000000000000, 0, 0, 0, 0, 0⟩) := by decide +kernel

/-- R60: a load of a page that is not resident completes with zeros and p15; a store there raises STORE_NONRES. -/
theorem test_nonresident_page :
    let s := labMem (.lane 0 0) (labTeam (labThread [(2, 0x20000)] 0))
    (threadOf (.ld ⟨8, 2, 1, .b32, 0, none⟩) s).map (fun th => th.late.map (fun l => (l.regs, l.preds))) = some [([(8, 0)], [(15, true)])] ∧
    (threadOf (.st ⟨8, 2, 0, .b32, 0, none⟩) s).map (·.st) = some (.stopped ⟨Code.storeNonres, 0, 0, 0, 16, 0, 0x20000, 0, 0, 0, 0, 0⟩) := by
  decide +kernel

/-- R328: a byte store changes one byte; STS writes the scratchpad, no memory. -/
theorem test_stores :
    let s := labMem (.lane 0 0) (labFull (labThread [(2, 0x1000), (8, 0xAABBCCDD)] 0))
    memOf (.st ⟨8, 2, 0, .b8, 0, some 1⟩) s 0x11000 4 = some [0x11, 0xDD, 0x33, 0x44] ∧
    memOf (.st ⟨8, 2, 0, .b32, 0, some 4⟩) s 0x11000 8 = some [0x11, 0x22, 0x33, 0x44, 0xDD, 0xCC, 0xBB, 0xAA] ∧
    (match exec (.sts ⟨8, 3, 0, .b32, 0, some 4⟩) s with
      | .next s' => (s'.team? 0).map (fun T => (T.sbytes 4 4, s'.mem == s.mem)) | _ => none) = some ([0xDD, 0xCC, 0xBB, 0xAA], true) := by decide +kernel

/-- R332, R333: ADD at memory returns the old value to v[D+1] and leaves the sum; CAS exchanges only what it expects. The control word's operation is
bits 2..0. -/
theorem test_atomics :
    let s := labMem (.lane 0 0) (labTeam (labThread [(2, 0x1000), (8, 0), (9, 0xEF)] 0))
    let c := labMem (.lane 0 0) (labTeam (labThread [(2, 0x1000), (8, 7), (9, 0x44332211), (10, 5)] 0))
    memOf (.atom ⟨8, 2, 1, .b32, 0, none⟩) s 0x11000 4 = some [0x00, 0x23, 0x33, 0x44] ∧
    (threadOf (.atom ⟨8, 2, 1, .b32, 0, none⟩) s).map (fun th => th.late.map (·.regs)) = some [[(9, 0x44332211)]] ∧
    memOf (.atom ⟨8, 2, 1, .b32, 0, none⟩) c 0x11000 4 = some [5, 0, 0, 0] := by decide +kernel

/-- R341, R342: FADV.c past the fill stops with FEED_RANGE; FADV.p of the whole size fills the feed; FCNT ROOM of an empty feed is its size. -/
theorem test_feeds :
    let s := labMem (.lane 0 0) (labFull (labThread [] 0))
    (threadOf (.fadv 0 true (.imm 1)) s).map (·.st) = some (.stopped ⟨Code.feedRange, 0, 0, 0, 16, 0, 0, 0, 0, 0, 0, 0⟩) ∧
    (match exec (.fadv 0 false (.imm 128)) s with | .next s' => (s'.team? 0).map (fun T => (T.feed 0).pcnt) | _ => none) = some 128 ∧
    (threadOf (.fcnt 5 1 .room) s).map (·.reg 5) = some 256 := by decide +kernel

/-! ## Control, synchronisation, system -/

/-- R265, R272: BR by a predicate, CALL pushes the fall-through, RET pops it, RET of an empty stack stops with BAD_CLAUSE. -/
theorem test_control :
    let s := fun (th : Thread) => labWith (.lane 0 0) (labTeam { th with nextPos := ⟨18, 0⟩ })
    (threadOf (.br 1 false none 0x240) (s (labThread [] 2))).map (·.nextPos) = some ⟨0x240, 0⟩ ∧
    (threadOf (.br 1 true none 0x240) (s (labThread [] 2))).map (·.nextPos) = some ⟨18, 0⟩ ∧
    (threadOf (.call 0x10) (s bootThread)).map (fun th => (th.link, th.nextPos)) = some ([18], ⟨0x10, 0⟩) ∧
    (threadOf (.ret none) (s { bootThread with link := [0x77] })).map (fun th => (th.link, th.nextPos)) = some ([], ⟨0x77, 0⟩) ∧
    (threadOf (.ret none) (s bootThread)).map (·.st) = some (.stopped ⟨Code.badClause, 0, 0, 0, 16, 0, 0, 0, 0, 0, 0, 0⟩) ∧
    (threadOf .exit (s bootThread)).map (·.st) = some .exited := by decide +kernel

/-- R273: SPAWN of two from a team with one thread: v[A] counts two, the predicate is set. R271: a JOIN whose mask lacks the thread goes on. -/
theorem test_spawn_and_join :
    let s := labWith (.lane 0 0) { labFull (labThread [(10, 2), (11, 7)] 0) with reserve := 2 }
    (threadOf (.spawn 10 3 0x300) s).map (fun th => (th.reg 10, th.pred 3)) = some (2, true) ∧
    (match exec (.spawn 10 3 0x300) s with | .next s' => (s'.team? 0).map (fun T => T.threads.map (fun e => (e.1, e.2.reg 0, e.2.pos.h))) | _ => none) =
      some [(0, 0, 16), (1, 7, 0x300), (2, 7, 0x300)] ∧
    (threadOf (.join 1 5 0) (labWith (.lane 0 0) (labFull (labThread [] 0xFFFF)))).map (fun th => (th.pred 5, th.st)) = some (false, .wave) ∧
    (threadOf (.join 1 5 5) (labWith (.lane 0 0) (labFull (labThread [] 0)))).map (·.st) = some (.parked (.join 5 5)) := by decide +kernel

/-- R414: the first of two arrivals leaves the phase; BARW then parks on it. R427: a contribution. R310: an open queue with nothing in it parks. -/
theorem test_synchronisation :
    let s := labWith (.lane 0 0) (labFull (labThread [(1, 5)] 0))
    (match exec (.bara 3 none) s with | .next s' => (s'.team? 0).map (fun (T : Team) => ((T.bar 3).arr, (T.bar 3).ph)) | _ => none) = some (1, false) ∧
    (threadOf (.barw 3 false 2) s).map (·.st) = some (.parked (.barrier 3 false)) ∧
    (threadOf (.dqpop 4 (some 2)) s).map (·.st) = some (.parked (.queue 4 (some 2))) ∧
    (threadOf (.rclaim 3 (.imm 5)) s).map (·.st) = some (.stopped ⟨Code.regRange, 0, 0, 0, 16, 0, 0, 0, 0, 0, 0, 0⟩) := by decide +kernel

/-- R274, R206, R207: SRD, STAT that clears what it names, TRAP with its information. -/
theorem test_system :
    let s := labWith (.lane 0 0) (labTeam { bootThread with sticky := 0x13 })
    (threadOf (.srd 2 .tid) s).map (·.reg 2) = some 0 ∧
    (threadOf (.stat 3 (some 2)) s).map (fun th => (th.reg 3, th.sticky)) = some (0x13, 0x11) ∧
    (threadOf (.trap (some 42)) s).map (·.st) = some (.stopped ⟨0x50, 0, 0, 0, 16, 0, 0, 42, 0, 0, 0, 0⟩) := by decide +kernel

/-- R471, Table 20.2: the record of a fault is written at the tail of an enabled ring, and the tail moves on. -/
theorem test_fault_record :
    let s0 := labWith (.lane 0 0) (labTeam bootThread)
    let s := { s0 with flt := { Ring.reset with base := 0x40000, log := 4 } }
    (match exec .brkpt s with | .next s' => some (s'.bytes 0x40000 8, s'.flt.tail) | _ => none) = some ([0x51, 0, 0, 0, 16, 0, 0, 0], 1) := by
  decide +kernel

set_option maxRecDepth 20000 in
/-- SHAKE256 of the empty message begins as FIPS 202 gives it. -/
theorem test_shake256 : (shake256 []).take 4 = [0x46, 0xb9, 0xdd, 0x2b] := by decide +kernel
/-! ## The steering stream; values by hand from Table 13.2 -/

/-- The team after one instruction. -/
def teamOf (i : Instr) (s : State) : Option Team :=
  match exec i s with
  | .next s' => s'.team? 0
  | .fault _ => none
  | .refused _ => none

theorem test_steer_scalar :
    steerReg (.sadd ⟨3, 1, .imm 0xFFFFFFFF⟩) [(1, 5)] 3 = some 4 ∧
    steerReg (.ssub ⟨3, 1, .imm 5⟩ true) [(1, 7)] 3 = some 0xFFFFFFFE ∧
    steerReg (.smulh ⟨3, 1, .imm 0xFFFFFFFF⟩ true) [(1, 0xFFFFFFFF)] 3 = some 0xFFFFFFFE ∧
    steerReg (.smin ⟨3, 1, .imm 1⟩ false) [(1, 0x80000000)] 3 = some 0x80000000 ∧
    steerReg (.ssar ⟨3, 1, .imm 4⟩) [(1, 0x80000000)] 3 = some 0xF8000000 ∧
    steerReg (.sshl ⟨3, 1, .imm 32⟩) [(1, 1)] 3 = some 0 ∧
    steerReg (.sbfx ⟨3, 1, .imm 0x0804⟩) [(1, 0x12345F78)] 3 = some 0xF7 ∧
    steerReg (.sclz ⟨3, 1⟩) [(1, 1)] 3 = some 31 ∧ steerReg (.spopc ⟨3, 1⟩) [(1, 0xFF)] 3 = some 8 ∧
    (steerAfter (.scmp .hs 2 1 (.imm 1)) [(1, 0xFFFFFFFF)]).map (·.cond 2) = some true ∧
    steerReg (.ssel ⟨3, 1, .imm 9⟩ 2 false) [(1, 5)] 3 = some 9 := by decide +kernel

/-- R305: divisions are late results; by zero all ones and the dividend. The most negative number by -1 gives itself, and remainder 0. -/
theorem test_steer_division :
    let due := fun (i : Instr) (v : Map Word) => (steerAfter i v).map (fun (st : Steer) => st.late.map (·.regs))
    due (.sdiv ⟨3, 1, .imm 0⟩ false) [(1, 7)] = some [[(3, 0xFFFFFFFF)]] ∧
    due (.srem ⟨3, 1, .imm 0⟩ true) [(1, 7)] = some [[(3, 7)]] ∧
    due (.sdiv ⟨3, 1, .imm 0xFFFFFFFF⟩ false) [(1, 0x80000000)] = some [[(3, 0x80000000)]] ∧
    due (.srem ⟨3, 1, .imm 0xFFFFFFFE⟩ false) [(1, 0xFFFFFFF9)] = some [[(3, 0xFFFFFFFF)]] := by decide +kernel

/-- R307-R309: SLOOP counts down and branches while the count is not zero; SCALL pushes; SRET of an empty stack stops. -/
theorem test_steer_control :
    (steerAfter (.sloop 10 0x105) [(10, 2)]).map (fun (st : Steer) => (st.reg 10, st.nextPos)) = some (1, ⟨0x105, 0⟩) ∧
    (steerAfter (.sloop 10 0x105) [(10, 1)]).map (fun (st : Steer) => (st.reg 10, st.nextPos)) = some (0, ⟨16, 0⟩) ∧
    (steerAfter (.scall 0x81) []).map (fun (st : Steer) => (st.link, st.nextPos)) = some ([16], ⟨0x81, 0⟩) ∧
    (steerAfter .sret []).map (·.st) = some (.stopped ⟨Code.badClause, 1, 0, 0, 16, 0, 0, 0, 0, 0, 0, 0⟩) ∧
    (steerAfter .sdone []).map (·.st) = some .done ∧
    (steerAfter (.strap (some 7)) []).map (·.st) = some (.stopped ⟨0x50, 1, 0, 0, 16, 0, 0, 7, 0, 0, 0, 0⟩) := by decide +kernel

/-- R313: SLD of a signed byte is a late result; SST writes memory; R315: SATOM leaves the sum. -/
theorem test_steer_memory :
    let s := labMem (.steer 0) (labSteer [(2, 0x1000), (20, 0xAABBCCDD)])
    (teamOf (.sld 21 2 .b8 true 0 (some 7)) s).map (fun T => T.steer.late.map (·.regs)) = some [[(21, 0xFFFFFF88)]] ∧
    memOf (.sst 20 2 .b16 0 none) s 0x11000 4 = some [0xDD, 0xCC, 0x33, 0x44] ∧
    memOf (.satom 21 2 20 .add false false) s 0x11000 4 = some [0xEE, 0xEE, 0xEE, 0xEE] := by decide +kernel

/-- R309: DQPUSH puts its word at the tail of its role's queue. R391: ACLAIM of two of the sixteen tiles answers the first number. R420: BARARM
latches. R90: ATTIME.dt adds the device time. -/
theorem test_steer_objects :
    let s := labWith (.steer 0) (labSteer [(8, 0x100), (10, 77)])
    (teamOf (.dqpush 0 (.reg 10)) s).map (fun T => ((T.role 0).dq.tail, Map.get 0 (T.role 0).dq.ent 0)) = some (1, 77) ∧
    (teamOf (.aclaim 30 (.imm 2)) s).map (fun T => (T.steer.reg 30, T.tiles.length)) = some (0, 2) ∧
    (teamOf (.aclaim 30 (.imm 17)) s).map (fun T => (T.steer.reg 30, T.tiles.length)) = some (0xFFFFFFFF, 0) ∧
    (teamOf (.bararm 4) s).map (fun T => T.steer.blatch) = some (some 4) ∧
    (teamOf (.attime 8 true) { s with dtime := 5 }).map (fun T => T.steer.armt) = some (some 0x105) := by decide +kernel

/-! ## Witnesses: for each statement with hypotheses, states and operands that meet them, clause by clause, at the ends of their ranges -/

/-- A lane thread's readiness, by its parts. -/
theorem lane_ready {s : State} {t tid : Nat} {T : Team} {th : Thread} {regs preds : List Nat}
    (h : (decide (s.cur = some (.lane t tid)) && decide (s.team? t = some T) && decide (T.thread? tid = some th) &&
      decide (∀ r ∈ regs, r < T.regCount th) && decide (th.shadowed regs preds = false)) = true) : s.LaneReady t T tid th regs preds := by
  simp only [Bool.and_eq_true, decide_eq_true_eq] at h
  exact ⟨h.1.1.1.1, h.1.1.1.2, h.1.1.2, h.1.2, h.2⟩

/-- A lane thread's readiness in a device of one team of one thread without a late result. -/
theorem lane_ready_one {s : State} {T : Team} {th : Thread} {regs preds : List Nat} (hc : s.cur = some (.lane 0 0)) (hs : s.teams = [(0, T)])
    (hT : T.threads = [(0, th)]) (hr : ∀ r ∈ regs, r < T.regCount th) (hl : th.late = []) : s.LaneReady 0 T 0 th regs preds := by
  refine ⟨hc, ?_, ?_, hr, ?_⟩
  · rw [State.team?, hs]; rfl
  · rw [Team.thread?, hT]; rfl
  · rw [Thread.shadowed, hl]; rfl

/-- A steering thread's readiness, by its parts. -/
theorem steer_ready {s : State} {t : Nat} {T : Team} {regs : List Nat}
    (h : (decide (s.cur = some (.steer t)) && decide (s.team? t = some T) &&
      decide (T.steer.late.any (fun l => regs.any l.dregs.contains) = false)) = true) : s.SteerReady t T regs := by
  simp only [Bool.and_eq_true, decide_eq_true_eq] at h
  exact ⟨h.1.1, h.1.2, h.2⟩

/-- Every list of registers and predicates that an instruction can name has a ready thread: LaneIntegerResults, LaneMoveResults, LaneFloatResults,
LaneNarrowResults, LaneFunctionResults, LaneControlResults, LaneSystemResults, RequestsFencesAndFeeds, PairAdditions, BitCounts. -/
theorem witness_lane_ready (regs preds : List Nat) (hr : ∀ r ∈ regs, r < 128) :
    (labWith (.lane 0 0) (labTeam bootThread)).LaneReady 0 (labTeam bootThread) 0 bootThread regs preds :=
  lab_lane_ready _ _ regs preds rfl hr rfl

/-- Every list of steering registers has a ready thread: SteerScalarResults, SteerControlResults, SteerMemoryOutcomes, SteerObjectResults,
SteerServices, PairAdditions. -/
theorem witness_steer_ready (regs : List Nat) : (labWith (.steer 0) (labSteer [])).SteerReady 0 (labSteer []) regs := ⟨rfl, rfl, rfl⟩

/-- IntegerFunctionsAreArithmetic. -/
theorem witness_integer_functions : (0x80000000 : Word) ≠ 0 ∧ 31 < 32 := by decide

/-- IndexedAccess: base 125 and length 8; index 8 is beyond the length, index 3 reaches register 128, index 2 the last one. -/
theorem witness_indexed_access :
    let th := fun i : Word => { bootThread with v := [(5, i)], x := [(1, 0x47D)] }
    let s := fun i => labWith (.lane 0 0) (labTeam (th i))
    (∀ i, (s i).LaneReady 0 (labTeam (th i)) 0 (th i) (3 :: srcRegs (.reg 5 false)) []) ∧
    (th 8).index 1 = (125, 8) ∧ (srcVal (.reg 5 false) (th 8)).toNat = 8 ∧
    (labTeam (th 3)).regCount (th 3) = 125 + (srcVal (.reg 5 false) (th 3)).toNat ∧
    125 + (srcVal (.reg 5 false) (th 2)).toNat + 1 = (labTeam (th 2)).regCount (th 2) ∧ (th 2).shadowed [127, 3, 5] [] = false :=
  ⟨(fun _ => lab_lane_ready _ _ _ _ rfl (show ∀ r ∈ [3, 5], r < 128 by decide) rfl), by decide +kernel, by decide +kernel, by decide +kernel, by decide +kernel, by decide +kernel⟩

/-- LaneRegisterChecks: a role of 4 registers and an instruction that names v4; a result in its shadow that writes v3 or p2. -/
theorem witness_lane_register_checks :
    let late : Late := ⟨0, 1, [3], [2], [], [], 0, .due⟩
    let th := { bootThread with late := [late] }
    let T := { labTeam th with roles := [⟨4, 0, 1, 16, [], ⟨[], 0, 0, false⟩, [], [], 0⟩] }
    let s := labWith (.lane 0 0) T
    s.cur = some (.lane 0 0) ∧ s.team? 0 = some T ∧ T.thread? 0 = some th ∧ T.regCount th ≤ 4 ∧ 3 < T.regCount th ∧
    th.shadowed [3] [] = true ∧ th.shadowed [] [2] = true ∧ (∀ r ∈ [3, 0], r < T.regCount th) := by decide +kernel

/-- LaneRegisterChecks: an index register of base 3 and length 1, through which MOVX and STX name the result in its shadow. -/
theorem witness_indexed_shadow :
    let th := { bootThread with late := [⟨0, 1, [3], [], [], [], 0, .due⟩], x := [(1, 0x83)] }
    let T := labTeam th
    let s := labWith (.lane 0 0) T
    let k := (srcVal (.imm 0) th).toNat
    s.cur = some (.lane 0 0) ∧ s.team? 0 = some T ∧ T.thread? 0 = some th ∧ (∀ y ∈ 8 :: srcRegs (.imm 0), y < T.regCount th) ∧
    k < (th.index 1).2 ∧ (th.index 1).1 + k < T.regCount th ∧ th.shadowed (((th.index 1).1 + k) :: 8 :: srcRegs (.imm 0)) [] = true := by decide +kernel

/-- LaneFrames and SteerScalarFrames: an instruction that answers a next state. -/
theorem witness_frames :
    (∃ s', exec (.iadd ⟨3, 1, false, .reg 2 false⟩) (labWith (.lane 0 0) (labTeam bootThread)) = .next s') ∧
    (∃ s', exec (.sadd ⟨3, 1, .reg 2⟩) (labWith (.steer 0) (labSteer [])) = .next s') ∧
    (labWith (.lane 0 0) (labTeam bootThread)).team? 0 = some (labTeam bootThread) ∧ (labTeam bootThread).thread? 0 = some bootThread :=
  ⟨⟨_, rfl⟩, ⟨_, rfl⟩, rfl, rfl⟩

/-- MemoryReadsWhatWasWritten: memories in canonical form; addresses just outside the stored bytes. -/
theorem witness_memory :
    Memory.wf [] = true ∧ Memory.wf [⟨7, 1⟩, ⟨8, 2⟩] = true ∧ (6 < 7 ∨ 7 + 2 ≤ 6) ∧ (9 < 7 ∨ 7 + 2 ≤ 9) ∧
    (∀ x, Memory.get (Memory.store [] 7 [0, 0]) x = Memory.get [] x) := by
  refine ⟨by decide, by decide, by decide, by decide, fun x => ?_⟩
  have : Memory.store [] 7 [0, 0] = [] := by decide
  rw [this]

/-- A thread whose address pair v2, v3 holds `lo`, `hi`. -/
def at64 (lo hi : Word) : Thread := labThread [(2, lo), (3, hi), (8, 0)] 0

/-- The device of the memory witnesses: line 0x1FF80/128 is poison, scratch line 3 is absent. -/
def labAt (lo hi : Word) : State := { labWith (.lane 0 0) { labFull (at64 lo hi) with absent := [(3, 1)] } with poison := [0x1FF00 / 128] }

/-- The team of that device. -/
def teamAt (lo hi : Word) : Team := { labFull (at64 lo hi) with absent := [(3, 1)] }

/-- The memory accesses' readiness. -/
theorem labAt_ready (lo hi : Word) (regs preds : List Nat) (hr : ∀ r ∈ regs, r < 128) :
    (labAt lo hi).LaneReady 0 (teamAt lo hi) 0 (at64 lo hi) regs preds := ⟨rfl, rfl, rfl, hr, rfl⟩

/-- LoadOutcomes, AtomicOutcomes, StoreOutcomes: the last word of the page, the first word behind it, a poison line, an aperture that does not exist,
a misaligned address; the last word of the scratchpad, in an absent line, and the last of the line before it. -/
theorem witness_memory_outcomes :
    let m : MArgs := ⟨8, 2, 1, .b32, 0, none⟩
    let loc := fun lo hi => (labAt lo hi).locate (teamAt lo hi) (some 0) (mAddr m (at64 lo hi)) 4
    let load := fun lo => ((labAt lo 0).judgeLoad 0 (some 0) false lo.toNat).2
    let store := fun lo => ((labAt lo 0).judgeStore 0 (some 0) false lo.toNat false).2
    (∀ lo hi, (labAt lo hi).LaneReady 0 (teamAt lo hi) 0 (at64 lo hi) (span 8 4 ++ mRegs m) [15]) ∧
    (teamAt 0 0).cluster = some 0 ∧ (teamAt 0 0).ctx = 0 ∧
    loc 0xFFFC 0 = .inl (.mem false 0xFFFC) ∧ load 0xFFFC = .ok 0x1FFFC false ∧ store 0xFFFC = .ok 0x1FFFC false ∧
    loc 0x10000 0 = .inl (.mem false 0x10000) ∧ load 0x10000 = .nonres ∧ store 0x10000 = .bad Code.storeNonres 0 ∧
    loc 0xFF00 0 = .inl (.mem false 0xFF00) ∧ load 0xFF00 = .bad Code.poison 0 ∧ store 0xFF00 = .bad Code.poison 0 ∧
    loc 0 0x05000000 = .inr Code.aperture ∧ loc 2 0 = .inr Code.align ∧
    loc 508 0x02000000 = .inl (.scr 508) ∧ (teamAt 0 0).lineAbsent (508 / 128) = true ∧
    loc 380 0x02000000 = .inl (.scr 380) ∧ (teamAt 0 0).lineAbsent (380 / 128) = false ∧ loc 512 0x02000000 = .inr Code.aperture ∧
    (labAt 512 0).locate (teamAt 512 0) (some 0) (mSaddr m (at64 512 0)) 4 = .inr Code.aperture ∧
    (labAt 508 0).locate (teamAt 508 0) (some 0) (mSaddr m (at64 508 0)) 4 = .inl (.scr 508) :=
  ⟨(fun lo hi => labAt_ready lo hi _ _ (by decide)), by decide +kernel⟩

/-- AtomicOutcomes: the same addresses while the thread performs behind its wave, so that the atomic may be held. -/
theorem witness_held_atomics :
    let s := fun lo hi => { labAt lo hi with holding := true }
    ((labAt 0xFFFC 0).judgeStore 0 (some 0) false 0xFFFC false).1.holding = false ∧
    ((s 0xFFFC 0).judgeStore 0 (some 0) false 0xFFFC false).2 = .ok 0x1FFFC false ∧
    ((s 0xFFFC 0).judgeStore 0 (some 0) false 0xFFFC false).1.holding = true ∧
    (s 380 0x02000000).holding = true ∧ (labAt 380 0x02000000).holding = false ∧
    (s 380 0x02000000).locate (teamAt 380 0x02000000) (some 0) (BitVec.ofNat 64 (2 ^ 57 + 380)) 4 = .inl (.scr 380) ∧
    (s 0 0).team? 0 = some (teamAt 0 0) := by decide +kernel

/-- StoreOutcomes, third part: entries that are not resident, not writable, and writable and dirty. -/
theorem witness_store_entries :
    let s := fun hi : Nat => { lab (.lane 0 0) with mem := Memory.store (lab (.lane 0 0)).mem 0 (leBytes 8 (2 ^ 54 + hi * 2 ^ 55) ++ leBytes 8 1) }
    let e := fun hi => match ((s hi).translate 0 (some 0) 0).2 with | .entry e => some (e.res, e.w && !e.sro, e.cow && !e.w && e.size == 0, e.d) | _ => none
    e 0 = some (false, false, false, false) ∧ e 1 = some (true, false, false, false) ∧ e 0x83 = some (true, true, false, true) ∧
    (s 0x83).lineFault 0x10000 = none := by decide +kernel

/-- A device with a window table at virtual 0x2000 and a group descriptor at 0x4000. Windows: 1 MEM of this K9 with cache, 2 MEM of K9 5, 3 GROUP of
one rank, 4 MEM of this K9 with a key that no context has, 5 GANG. Limit 0x8000, base 0, key 0x77. -/
def labWin (p : Party) (T : Team) : State :=
  let s := labWith p T
  let entry := fun (kind aid rrc key : Nat) => leBytes 32 (kind + 7 * 4 + rrc * 32 + aid * 2 ^ 16 + 0x8000 * 2 ^ 128 + key * 2 ^ 192)
  let tbl := leBytes 32 0 ++ entry 1 0 1 0x77 ++ entry 1 5 0 0x77 ++ entry 3 0 0 0x77 ++ entry 1 0 0 0x78 ++ entry 2 0 0 0
  { s with
    ctxs := [(0, { bootCtx with wtbase := 0x2000, nwin := 6, gdbase := 0x4000, ngrp := 1, keys := [0x700000077, 0, 0, 0] })],
    mem := Memory.store (Memory.store s.mem 0x12000 tbl) 0x14000 (leBytes 64 1 ++ leBytes 8 0) }

/-- The thread of the window witnesses. -/
def winThread (lo : Word) : Thread := labThread [(2, lo), (8, 0), (9, 1)] 0

/-- Its team. -/
def winTeam (lo : Word) : Team := labTeam (winThread lo)

/-- Its device. -/
def winLab (lo : Word) : State := labWin (.lane 0 0) (winTeam lo)

/-- What the issuer's check of an access of 4 bytes at `lo` through window `h` with a right answers, without the state it leaves. -/
def winAnswer (h : BitVec 16) (lo : Word) (right : Nat) (kinds : List Nat) : WinRes :=
  ((winLab lo).winCheck (winTeam lo) ⟨h, lo.toNat, 4, right, kinds, 4⟩).2

/-- WindowAccessOutcomes: the thread is ready. -/
theorem winLab_ready (lo : Word) : (winLab lo).LaneReady 0 (winTeam lo) 0 (winThread lo) (span 8 4 ++ [2, 3]) [15] :=
  lane_ready_one rfl rfl rfl (show ∀ r ∈ [8, 9, 10, 11, 2, 3], r < 128 by decide) rfl

/-- WindowAccessOutcomes: the last word below the limit is accepted by windows 1, 2 and 3, and the next one is not; the
cache holds the line of window 1 or not, and a line of another WVER is dropped; window 2's target is another K9. -/
theorem witness_window_accesses :
    winAnswer 1 0x7FFC 0 [1, 2] = .ok (.one 0 (.ctx 0 0x77 0x7FFC) 3 true 0) ∧
    winAnswer 2 0x7FFC 1 [1, 2] = .ok (.one 5 (.ctx 0 0x77 0x7FFC) 3 false 0) ∧
    winAnswer 3 0x7FFC 1 [3] = .ok (.many [(0, .ctx 0 0x77 0x7FFC)] 0) ∧
    winAnswer 1 0x7FFC 2 [1, 2] = .ok (.one 0 (.ctx 0 0x77 0x7FFC) 3 true 0) ∧
    winAnswer 1 0x8000 0 [1, 2] = .bad { code := Code.windowLimit, addr := 0x8000, handle := 1 } ∧
    winAnswer 3 0x8000 1 [3] = .bad { code := Code.windowLimit, addr := 0x8000, handle := 3 } ∧
    (winLab 0).rrcHit 0 1 0 0 = none ∧
    (({ winLab 0 with rrc := [⟨0, 1, 0, 0, List.replicate 2048 7⟩] } : State).winCheck (winTeam 2044) ⟨1, 2044, 4, 0, [1, 2], 4⟩).1.rrcHit 0 1 0 2044 =
      some ⟨0, 1, 0, 0, List.replicate 2048 7⟩ ∧
    (({ winLab 0 with rrc := [⟨0, 1, 3, 0, List.replicate 2048 7⟩] } : State).winCheck (winTeam 2044) ⟨1, 2044, 4, 0, [1, 2], 4⟩).1.rrc = [] :=
  by decide +kernel

/-- WindowCheckOrder: entry 0 is no window; entry 1 is one with every right and the limit 0x8000, so that 0x7FFC + 4 is the last length accepted,
0x7FFD is beyond it and 0x7FFA + 4 is misaligned; a base that is misaligned; entry 5 is a GANG window, the team of no gang, or of one of less than LIMIT; an
entry without a right.
The second part: a key that the context has, one that it does not have, an access that touches the private arena. -/
theorem witness_window_checks :
    let e := fun h : Nat => match ((winLab 0).winEntry 0 (some 0) h).2 with | .inl x => x | .inr _ => 0
    field (e 0) 0 2 = 0 ∧ field (e 1) 0 2 = 1 ∧ winReservedOk (e 1) = true ∧ (1 ∈ [1, 2]) ∧ flag (e 1) 2 = true ∧ field (e 1) 128 56 = 0x7FFC + 4 ∧
    field (e 1) 128 56 < 0x7FFD + 4 ∧ 0x7FFA % 4 ≠ 0 ∧ 0x7FFC % 4 = 0 ∧ (field (e 1) 64 56 + 0x7FFC) % 4 = 0 ∧ (field (e 1 + 2 ^ 65) 64 56 + 0x7FFC) % 4 ≠ 0 ∧
    ({ winTeam 0 with gang := some ⟨0, 2, .attached, false⟩ } : Team).gsize * 2 ^ 20 < field (e 5 + 2 ^ 149) 128 56 ∧
    winReservedOk (e 1 + 2 ^ 65) = true ∧ winReservedOk (e 5 + 2 ^ 149) = true ∧ field (e 5 + 2 ^ 149) 0 2 = 2 ∧
    field (e 5) 0 2 = 2 ∧ winReservedOk (e 5) = true ∧ (winTeam 0).gang = none ∧ flag (e 1 - 4) 2 = false ∧ winReservedOk (e 1 - 4) = true ∧
    (winLab 0).keyOk 0 0x77 2 = true ∧ (winLab 0).keyOk 0 0x78 2 = false ∧ (winLab 0).keyOk 0 0 0 = false ∧
    ({ bootCtx with pvbase := 2 ^ 30, pvsize := 1 } : Ctx).arena (2 ^ 30 - 3) 4 = true ∧
    ({ bootCtx with pvbase := 2 ^ 30, pvsize := 1 } : Ctx).arena (2 ^ 30 - 4) 4 = false := by decide +kernel

/-- RequestsFencesAndFeeds: an address in the scratchpad, in a resident page, in a page that is not mapped, outside the apertures; a feed of the image
with fill 64 of 128, feed 2 that the image does not have. -/
theorem witness_requests_and_feeds :
    let th := at64 0 0
    let T := { labFull th with feeds := [(0, ⟨0, 7, 64, 0, []⟩)] }
    (labWith (.lane 0 0) T).LaneReady 0 T 0 th [8, 2, 3] [] ∧
    (labWith (.lane 0 0) T).locate T (some 0) 0x0200000000000000 1 = .inl (.scr 0) ∧
    (labWith (.lane 0 0) T).locate T (some 0) 0x1000 1 = .inl (.mem false 0x1000) ∧
    (labWith (.lane 0 0) T).locate T (some 0) 0x0500000000000000 1 = .inr Code.aperture ∧
    (match ((labWith (.lane 0 0) T).translate 0 (some 0) 0x1000).2 with | .entry e => some e.res | _ => none) = some true ∧
    ((labWith (.lane 0 0) T).translate 0 (some 0) 0x10000).2 = .missing ∧
    T.img.nfeed = 2 ∧ (T.feed 0).fill = 64 ∧ (T.feed 0).size - (T.feed 0).fill = 64 ∧ T.img.nfeed ≤ (2 : Obj).toNat :=
  ⟨lane_ready (by decide +kernel), by decide +kernel⟩

/-- RingRecords: a ring of 16 with 15 records, and a full one; one that is not enabled. -/
theorem witness_rings :
    let s := fun (log tail : Nat) => { State.reset with flt := { Ring.reset with base := 0x40000, log := log, tail := tail }, rrq := { Ring.reset with base := 0x50000, log := log, tail := tail } }
    (s 4 15).ringSlot (s 4 15).flt 32 = some 0x401E0 ∧ (s 4 16).ringSlot (s 4 16).flt 32 = none ∧ (s 3 0).ringSlot (s 3 0).flt 32 = none ∧
    (s 16 0).ringSlot (s 16 0).flt 32 = some 0x40000 ∧ (s 4 15).ringSlot (s 4 15).rrq 16 = some 0x500F0 ∧ (s 4 16).ringSlot (s 4 16).rrq 16 = none := by
  decide +kernel

/-- A thread with `n` link entries in registers and `d` spilled. -/
def linkThread (n d : Nat) : Thread := { bootThread with link := List.replicate n 5, depth := d, v := [(4, 0xFFFFFF), (5, 0x1000000)] }

/-- Its team: a spill area of 16 words in private block 0. -/
def linkTeam (n d : Nat) : Team := { labTeam (linkThread n d) with lspill := 1, priv := 1, pblk := some 0 }

/-- Its device: the private arena begins at virtual 0. -/
def linkLab (n d : Nat) : State := { labWith (.lane 0 0) (linkTeam n d) with ctxs := [(0, { bootCtx with pvbase := 0, pvsize := 1 })] }

/-- LaneControlResults: a link stack of 3 and of 4 entries; a spill area of 16 words that is full, one that holds 15; a stack without entries;
a target of 2^24 - 1 and of 2^24. -/
theorem witness_lane_control :
    (∀ n d, ∀ r < 128, (linkLab n d).LaneReady 0 (linkTeam n d) 0 (linkThread n d) [r] []) ∧ ((linkThread 4 15).reg 4).toNat < 2 ^ 24 ∧
    (linkThread 3 0).link.length = 3 ∧ (linkThread 4 16).link.length = 4 ∧ (linkThread 4 16).depth = 16 * (linkTeam 4 16).lspill ∧
    (linkThread 4 15).depth ≠ 16 * (linkTeam 4 15).lspill ∧ ((linkThread 0 0).reg 4).toNat + 1 = 16777216 ∧
    ((linkThread 0 0).reg 5).toNat = 16777216 ∧ (linkThread 0 0).link = [] ∧ (linkThread 0 1).depth = 1 :=
  ⟨(fun _ _ r h => lane_ready_one rfl rfl rfl (fun x hx => by rw [List.mem_singleton.mp hx]; exact h) rfl), by decide +kernel⟩

/-- LaneControlResults, second part: a link word that can be stored, one that can be loaded, and neither in a poison line. -/
theorem witness_link_spill :
    (linkLab 4 15).resolve (linkTeam 4 15) (some 0) 0x010000000000003C 4 = .mem true 60 ∧
    ((linkLab 4 15).judgeStore 0 (some 0) true 60 false).2 = .ok 0x1003C false ∧
    (linkLab 0 1).resolve (linkTeam 0 1) (some 0) 0x0100000000000000 4 = .mem true 0 ∧
    ((linkLab 0 1).judgeLoad 0 (some 0) true 0).2 = .ok 0x10000 false ∧ (linkLab 0 1).val 0x10000 4 < 16777216 ∧
    (({ linkLab 4 15 with poison := [512] } : State).judgeStore 0 (some 0) true 60 false).2 = .bad Code.poison 0 ∧
    (({ linkLab 0 1 with poison := [512] } : State).judgeLoad 0 (some 0) true 0).2 = .bad Code.poison 0 := by decide +kernel

/-- LaneControlResults, third part: a spilled word of 2^24, and a spill area whose page is not resident. -/
theorem witness_link_refill :
    let s := linkLab 0 1
    let high := { s with mem := Memory.store s.mem 0x10000 (leBytes 4 0x1000000) }
    let gone := { s with mem := Memory.store s.mem 0 (leBytes 8 (2 ^ 54) ++ leBytes 8 1) }
    (high.judgeLoad 0 (some 0) true 0).2 = .ok 0x10000 false ∧ 2 ^ 24 ≤ high.val 0x10000 4 ∧
    gone.resolve (linkTeam 0 1) (some 0) 0x0100000000000000 4 = .mem true 0 ∧ (gone.judgeLoad 0 (some 0) true 0).2 = .nonres := by decide +kernel

/-- JoinOutcomes: a mask without the thread and one that holds it; a slot that is not armed, an armed one that is full, one that is not, at its deadline, just
before it and without one. -/
theorem witness_joins :
    let T := fun j : Join => { labTeam bootThread with joins := [(5, j)] }
    (∀ j, (labWith (.lane 0 0) (T j)).LaneReady 0 (T j) 0 bootThread [1] [5]) ∧
    0 ∉ ((T ⟨[1], [], false, none⟩).join 5).mask ∧ 0 ∈ ((T ⟨[0], [], false, none⟩).join 5).mask ∧
    (∀ j, (labWith (.lane 0 0) (T j)).team? 0 = some (T j)) ∧ ((T ⟨[0], [], false, none⟩).join 5).armed = false ∧
    (∀ i ∈ ((T ⟨[0, 1], [1, 0], true, some 0⟩).join 5).mask, i ∈ ((T ⟨[0, 1], [1, 0], true, some 0⟩).join 5).arrived) ∧
    (¬∀ i ∈ ((T ⟨[0, 1], [1], true, some 0⟩).join 5).mask, i ∈ ((T ⟨[0, 1], [1], true, some 0⟩).join 5).arrived) ∧
    ((T ⟨[0, 1], [1], true, some 0⟩).join 5).deadline = some 0 ∧ (labWith (.lane 0 0) (labTeam bootThread)).clock = 0 ∧
    (∀ d, ((T ⟨[0, 1], [1], true, some 1⟩).join 5).deadline = some d → 0 < d) ∧
    (∀ d, ((T ⟨[0, 1], [1], true, none⟩).join 5).deadline = some d → 0 < d) :=
  ⟨(fun _ => ⟨rfl, rfl, rfl, show ∀ r ∈ [1], r < 128 by decide, rfl⟩), by decide +kernel, by decide +kernel, (fun _ => rfl), by decide +kernel, by decide +kernel,
    by decide +kernel, by decide +kernel, by decide +kernel,
    (fun d h => by cases (show some 1 = some d from h); exact Nat.one_pos), (fun d h => by cases (show none = some d from h))⟩

/-- LaneSyncOutcomes, SpawnOutcomes, BarrierPhases: an open and a closed queue at its tail, one with an entry; a reduction register that is full and one
that is not; the least and the greatest claims and releases; the last tile; barriers of count 1 and 2, and 65535. -/
theorem witness_synchronisation :
    let q := fun (tail : Nat) (closed : Bool) => { bootTeam 1 with roles := [⟨100, 0, 1, 16, [], ⟨[], tail, 0, closed⟩, [], [], 0⟩] }
    let T := { bootTeam 1 with tiles := [Tile.fresh 0], ready := [(0, [])] }
    (labWith (.lane 0 0) (labTeam bootThread)).LaneReady 0 (labTeam bootThread) 0 bootThread (span 10 9) [3] ∧
    bootThread.dpos < ((q 1 false).role 0).dq.tail ∧ ((q 0 true).role 0).dq.tail ≤ bootThread.dpos ∧ ((q 0 true).role 0).dq.closed = true ∧
    ((q 0 false).role 0).dq.closed = false ∧ (bootTeam 1).redFull { bootThread with nxt := [(0, 3)] } 0 = false ∧
    ({ bootTeam 1 with threads := [(0, { bootThread with nxt := [(0, 4)] })] } : Team).redFull { bootThread with nxt := [(0, 4)] } 0 = true ∧
    (28 % 4 = 0 ∧ 100 + 28 = 128 ∧ 100 + 32 > 128 ∧ 96 + 4 = 100 ∧ ¬(100 + 4 ≤ 100) ∧ 2 % 4 ≠ 0) ∧
    T.tileOk 3 1023 = true ∧ 4 ≤ (4 : Word).toNat ∧ 1024 ≤ (1024 : Word).toNat ∧
    (labWith (.lane 0 0) { bootTeam 1 with bars := [(3, ⟨2, 0, false, [], (0, 0)⟩)] }).team? 0 = some { bootTeam 1 with bars := [(3, ⟨2, 0, false, [], (0, 0)⟩)] } ∧
    (0 + 1 < 2 ∧ 2 ≤ 1 + 1 ∧ 1 ≤ 0 + 1 ∧ 65535 ≤ 65534 + 1) :=
  ⟨lane_ready (by decide +kernel), by decide +kernel⟩

/-- SteerMemoryOutcomes: a load, a store, an atomic and CWAIT that meet a poison line. -/
theorem witness_steer_bad :
    let T := labSteer [(2, 0xFFFC)]
    let s := { labMem (.steer 0) T with poison := [0x1FFFC / 128, 0x11000 / 128] }
    s.SteerReady 0 T [2] ∧ s.locate T none 0xFFFC 4 = .inl (.mem false 0xFFFC) ∧ (s.judgeLoad 0 (some 0) false 0xFFFC).2 = .bad Code.poison 0 ∧
    (s.judgeStore 0 (some 0) false 0xFFFC false).2 = .bad Code.poison 0 ∧ (s.judgeLoad 0 (some 0) false 0x1000).2 = .bad Code.poison 0 :=
  ⟨⟨rfl, rfl, rfl⟩, by decide +kernel⟩

/-- BarrierPhases: a barrier in live mode with two live threads: none has arrived, one has, the other arrives or ends. -/
theorem witness_live_barrier :
    let T := fun who : List Nat => { bootTeam 1 with threads := [(0, bootThread), (7, bootThread)], bars := [(3, ⟨0, who.length, false, who, (0, 0)⟩)] }
    (∀ who, (labWith (.lane 0 0) (T who)).team? 0 = some (T who) ∧ ((T who).bar 3).count = 0 ∧ ((T who).bar 3).who = who) ∧
    (T []).liveTids = [0, 7] ∧ ¬(∀ y ∈ (T []).liveTids, y ∈ [0]) ∧ (∀ y ∈ (T [0]).liveTids, y ∈ [0, 7]) ∧
    (∀ y ∈ (T [0]).liveTids, y = 7 ∨ y ∈ ((T [0]).bar 3).who) ∧ ((T [0]).threads.map Prod.fst).Nodup ∧ (T [0]).thread? 7 = some bootThread ∧
    ((T [0]).bar 3).who ≠ [] :=
  ⟨(fun _ => ⟨rfl, rfl, rfl⟩), by decide +kernel⟩
/-- RaysAndRecords: a ray whose interval is empty misses at once; a root outside the apertures is a fault; a box with a slot free and one without;
the last box; feed 0 with a record and without, bound and not bound. -/
theorem witness_rays_and_records :
    let q := fun (w : Word) (root : DWord) => (⟨8, 3, false, root, [0, 0, 0, 0x3F800000, 0, 0, 0, w], []⟩ : RayRun)
    let T := { labFull bootThread with feeds := [(0, ⟨0, 7, 64, 0, [(1, 0)]⟩), (1, ⟨2, 8, 63, 0, []⟩)] }
    let s := { labWith (.lane 0 0) T with boxes := [(1, ⟨0, 0, []⟩), (2, ⟨0, 1, []⟩)], credits := [⟨5, 0, 255, 1, 2⟩, ⟨5, 0, 254, 2, 2⟩] }
    s.LaneReady 0 T 0 bootThread (span 8 16) [3, 15] ∧
    (s.rayQuery T (q 0xBF800000 0)).2 = .done false [0x7F800000, 0xFFFFFFFF, 0, 0] false ∧
    (s.rayQuery T (q 0x3F800000 0x0500000000000000)).2 = .stop (.fault (trapAt Code.aperture 0 0x0500000000000000)) ∧
    (s.credit 5 0 255).1 ≠ (s.credit 5 0 255).2 ∧ (s.credit 5 0 254).1 = (s.credit 5 0 254).2 ∧ 0x3FC0 / 64 = 255 ∧
    s.feedBound 0 0 = true ∧ s.feedBound 0 2 = false ∧ (T.feed 0).fill = 64 ∧ s.feedBound 0 1 = true ∧ (T.feed 1).fill < 64 ∧ 1 < T.img.nfeed :=
  ⟨lane_ready (by decide +kernel), by decide +kernel⟩

/-- RaysAndRecords: RWSEND through the window of K9 5, at its last box. -/
theorem witness_rwsend_window :
    ((winLab 0x3FC0).winCheck (winTeam 0x3FC0) ⟨2, 0x3FC0, 64, 1, [1], 64⟩).2 = .ok (.one 5 (.ctx 0 0x77 0x3FC0) 3 false 0) := by decide +kernel

/-- TakingAFault: a ring with room and one without; a record's position at the ends of its ranges. -/
theorem witness_taking_a_fault :
    let s := fun log => { labWith (.lane 0 0) (labTeam bootThread) with flt := { Ring.reset with base := 0x40000, log := log } }
    (s 4).team? 0 = some (labTeam bootThread) ∧ (labTeam bootThread).thread? 0 = some bootThread ∧
    (s 4).ringSlot (s 4).flt 32 = some 0x40000 ∧ (s 0).ringSlot (s 0).flt 32 = none ∧ 0xFFFFFF < 2 ^ 24 ∧ 15 < 16 := by decide +kernel

/-- ReturnFromAFault, Retirement: a stopped lane thread and steering thread, after TRAP and after another stop; a thread that is not stopped; a target
without a team; the team as it stands, resident; a command in progress and none. -/
theorem witness_return_from_a_fault :
    let r : BitVec 8 → FaultRec := fun k => ⟨k, 0, 0, 0, 16, 0, 0, 0, 0, 0, 0, 0⟩
    let x : FltTarget := ⟨0, 0, 0, 0⟩
    let s := fun (st : TState) => labWith (.lane 0 0) (labTeam { bootThread with st := st })
    let q := fun k => { bootTeam 1 with steer := { bootSteer with st := .stopped (r k) } }
    (∀ st, (s st).ctl.jobs = []) ∧ ([FltJob.kill [] none []] ≠ []) ∧
    (∀ k, (s (.stopped (r k))).fltTeam x 0 = some (0, labTeam { bootThread with st := .stopped (r k) })) ∧
    (∀ k, ((s (.stopped (r k))).fromSlot 0).team? 0 = some (labTeam { bootThread with st := .stopped (r k) })) ∧
    (labTeam { bootThread with st := .stopped (r 0x11) }).place ≠ .saved ∧
    (∀ k, (labTeam { bootThread with st := .stopped (r k) }).thread? 0 = some { bootThread with st := .stopped (r k) }) ∧
    (∀ q, (TState.wave : TState) ≠ .stopped q) ∧ (s .wave).fltTeam ⟨1, 0, 0, 0⟩ 0 = none ∧ (s .wave).fltTeam ⟨0, 0, 0, 0xFFFFFF⟩ 0 = none ∧
    (∀ k, (labWith (.steer 0) (q k)).fltTeam ⟨0, 1, 0, 0⟩ 0 = some (0, q k) ∧ ((labWith (.steer 0) (q k)).fromSlot 0).team? 0 = some (q k)) :=
  ⟨(fun _ => rfl), by decide, (fun _ => rfl), (fun _ => rfl), by decide, (fun _ => rfl), (fun _ h => by cases h), by decide +kernel, by decide +kernel,
    (fun _ => ⟨rfl, rfl⟩)⟩

/-- SteerControlResults: a link stack of 15, 16 and none; a queue with 31 and with 32 entries, a role that the team does not have; a result register whose
step has come and whose step has not; a late result that is outstanding. -/
theorem witness_steer_control :
    let st := fun n => { bootSteer with link := List.replicate n (5 : Tgt) }
    let T := fun tail : Nat => { bootTeam 1 with roles := [⟨100, 0, 1, 16, [], ⟨[], tail, 0, false⟩, [], [], 0⟩], q := [(2, (7, 0x8000))] }
    (st 15).link.length < 16 ∧ 16 ≤ (st 16).link.length ∧ (st 0).link = [] ∧ (st 1).link = 5 :: [] ∧ bootSteer.late = [] ∧
    (T 0).roles.length ≤ (1 : BitVec 2).toNat ∧ (T 31).roles.length = 1 ∧ ((T 31).role 0).dq.tail - ((T 31).role 0).dq.head < 32 ∧
    32 ≤ ((T 32).role 0).dq.tail - ((T 32).role 0).dq.head ∧
    ((Map.get (0, 0) (T 0).q 2).2 - ((0x0001 : Word).truncate 16)).toNat < 2 ^ 15 ∧
    2 ^ 15 ≤ ((Map.get (0, 0) (T 0).q 2).2 - ((0 : Word).truncate 16)).toNat ∧
    ({ bootSteer with late := [⟨0, 0, [3], [], [], [], 0, .waiting⟩] } : Steer).late ≠ [] := by decide +kernel

/-- SteerMemoryOutcomes: the same addresses as for a lane thread; a word that CWAIT's value has reached and one that it has not. -/
theorem witness_steer_memory :
    let T := fun hi => { labSteer [(2, 0xFFFC), (3, hi)] with slines := 4, absent := [(3, 1)] }
    let s := fun hi => labMem (.steer 0) (T hi)
    (∀ hi regs, (s hi).SteerReady 0 (T hi) regs) ∧
    (s 0).locate (T 0) none 0xFFFC 4 = .inl (.mem false 0xFFFC) ∧ ((s 0).judgeLoad 0 (some 0) false 0xFFFC).2 = .ok 0x1FFFC false ∧
    ((s 0).judgeStore 0 (some 0) false 0xFFFC false).2 = .ok 0x1FFFC false ∧ ((s 0).judgeLoad 0 (some 0) false 0x10000).2 = .nonres ∧
    ((s 0).judgeStore 0 (some 0) false 0x10000 false).2 = .bad Code.storeNonres 0 ∧
    (s 0).locate (T 0) none 0x02000000000001FC 4 = .inl (.scr 508) ∧ (T 0).lineAbsent 3 = true ∧ (T 0).lineAbsent 2 = false ∧
    (s 0).locate (T 0) none 0x05000000000001FC 4 = .inr Code.aperture ∧
    (s 0).locate (T 0) none 0x1000 8 = .inl (.mem false 0x1000) ∧ ((s 0).judgeLoad 0 (some 0) false 0x1000).2 = .ok 0x11000 false ∧
    (s 0).val 0x11000 8 = 0x8877665544332211 ∧ leNat ((s 0).bytes 0x11000 8) < 0x8877665544332212 ∧
    leNat ((T 0).sbytes 376 8) < 1 ∧ 0 ≤ leNat ((T 0).sbytes 376 8) :=
  ⟨(fun _ _ => ⟨rfl, rfl, rfl⟩), by decide +kernel⟩

/-- A team with two feeds of 512 KiB, one tile and a context with one group. -/
def engTeam (eng : Map Eng) : Team :=
  { bootTeam 1 with slines := 8192, feeds := [(0, ⟨0, 19, 0, 0, []⟩), (1, ⟨4096, 19, 0, 0, []⟩)], img := ⟨0, 64, 2, 0, 0, 2, 0⟩, tiles := [Tile.fresh 0], eng := eng }

/-- An entry of a COPY in a state. -/
def copyEntry (st : EngSt) (par : List Word) : Eng := ⟨.copy ⟨0, 0, 0, false, false, false⟩ .mem .mem 0 0 par, st, none, 0, 0, [], 0, false, 0, none, (0, 0), 0⟩

/-- EngineCommandIssue: a barrier with 7 armed entries and with 8; 7 and 8 held commands; room for a COPY and none; a CUBE and a CDRAIN that pass, a feed that
the image lacks, equal feeds, a tile that the team lacks, an illegal block; the group of the context and the next one. -/
theorem witness_engine_issue :
    let many := fun (n : Nat) (st : EngSt) => (span 0 n).map fun i => (i, copyEntry st [])
    (∀ T : Team, T.steer.late = [] → ∀ regs, (labWith (.steer 0) T).SteerReady 0 T regs) ∧
    (engTeam (many 7 (.armed 4))).armFull 4 = false ∧ (engTeam (many 8 (.armed 4))).armFull 4 = true ∧
    (engTeam (many 7 (.held 5))).countEng (fun y => y.st.isHeld) = 7 ∧ (engTeam (many 8 (.held 5))).countEng (fun y => y.st.isHeld) = 8 ∧
    (labWith (.steer 0) (engTeam (many 15 .queued))).engRoom (engTeam (many 15 .queued)) (copyEntry .queued []).cmd = true ∧
    (labWith (.steer 0) (engTeam (many 16 .queued))).engRoom (engTeam (many 16 .queued)) (copyEntry .queued []).cmd = false ∧
    (engTeam []).cubeFault .two 0 1 0 0 [0, 16, 0] = none ∧ (engTeam []).cubeFault .two 0 2 0 0 [0, 16, 0] = some Code.feedRange ∧
    (engTeam []).cubeFault .two 1 1 0 0 [0, 16, 0] = some Code.feedRange ∧ (engTeam []).cubeFault .two 0 1 0 1 [0, 16, 0] = some Code.regRange ∧
    (engTeam []).cubeFault .two 0 1 0 0 [3, 16, 0] = some Code.cubeShape ∧
    (engTeam []).drainFault .f32 1 0 [0] = none ∧ (engTeam []).drainFault .f32 2 0 [0] = some Code.feedRange ∧
    (engTeam []).drainFault .f32 1 1 [0] = some Code.regRange ∧
    Map.find? (labWin (.steer 0) (engTeam [])).ctxs 0 = some { bootCtx with wtbase := 0x2000, nwin := 6, gdbase := 0x4000, ngrp := 1, keys := [0x700000077, 0, 0, 0] } := by
  refine ⟨fun T h regs => ⟨rfl, rfl, by rw [h]; rfl⟩, by decide +kernel⟩

/-- SteerObjectResults: 16 tiles wanted and 17; a core with a tile free and with none; more tiles released than held; the last legal feed layout and an
illegal one; a feed that a command uses. -/
theorem witness_steer_objects :
    let full := { engTeam [] with tiles := (span 0 16).map Tile.fresh }
    (15 + (engTeam []).tiles.length = 16) ∧ 16 < 16 + (engTeam []).tiles.length ∧
    ((labWith (.steer 0) (engTeam [])).freeTiles 0).length = 15 ∧ ((labWith (.steer 0) full).freeTiles 0).length = 0 ∧
    (labWith (.steer 0) (engTeam [])).aclaims 0 = [] ∧ (labWith (.steer 0) { engTeam [] with steer := { bootSteer with st := .blocked (.aclaim 3 30 2 ⟨16, 1⟩) } }).aclaims 0 ≠ [] ∧
    (engTeam []).tiles.length < 2 ∧
    (engTeam []).layoutOk (4096 + 19 * 2 ^ 13) = true ∧ (engTeam []).layoutOk (4128 + 19 * 2 ^ 13) = false ∧ (engTeam []).layoutOk (8 * 2 ^ 13) = false ∧
    (engTeam []).img.nfeed = 2 ∧ ({ engTeam [(0, ⟨.copy ⟨0, 0, 0, false, false, false⟩ .feed .mem 1 0 [], .queued, none, 0, 0, [], 0, false, 0, none, (0, 0), 0⟩)] with dead := false } : Team).eng.any
      (fun e => e.2.cmd.feeds.contains 1) = true ∧ (engTeam []).eng.any (fun e => e.2.cmd.feeds.contains 1) = false ∧
    bootSteer.cond 7 = ((engTeam []).bar 31).ph ∧ ({ bootSteer with c := 0x80 } : Steer).cond 7 ≠ ((engTeam []).bar 31).ph := by decide +kernel

/-- A device with a launch descriptor at virtual 0x3000 and an image of two words at 0x4000. -/
def labImg (p : Party) (T : Team) : State :=
  let s := labWith p T
  let desc := leBytes 8 0x4000 ++ leBytes 8 0 ++ leBytes 4 1 ++ leBytes 4 16 ++ leBytes 40 0 ++ leBytes 4 (1 + 4 * 2 ^ 11) ++ leBytes 4 16
  let img := leBytes 4 0x4F5A4B39 ++ leBytes 4 1 ++ leBytes 4 128 ++ leBytes 4 64 ++ leBytes 4 2
  { s with mem := Memory.store (Memory.store s.mem 0x13000 desc) 0x14000 img }

/-- What a judgement answers, with its state and bytes left out. -/
def judged (x : State × List Byte × Judged) : Option (Option Nat) := match x.2.2 with | .ok _ _ => some none | .refused k => some (some k)

/-- SteerServices: LAUNCH of a legal descriptor, of one at an address that is no multiple of 256, of one that cannot be read, at depth 9 and 10; a child that
lives and none; no gang, an attached member with and without an open window access; windows 1 and 0; a grant of 0, 1024 and 1025 slots. -/
theorem witness_steer_services :
    let T := engTeam []
    let s := labImg (.steer 0) T
    judged (s.judgeLaunch 0 0x3000) = some none ∧ judged (s.judgeLaunch 0 0x3080) = some (some descField) ∧
    judged (s.judgeLaunch 0 0x10000) = some (some imgRead) ∧ judged (s.judgeLaunch 0 0x5000) = some (some descField) ∧
    s.pathStatus { T with depth := 9 } = 0 ∧ s.pathStatus { T with depth := 10 } = 3 ∧
    s.childLive T none = false ∧
    T.gang = none ∧ (⟨0, 2, .attached, false⟩ : GangMem).state = .attached ∧ (⟨0, 2, .detached, false⟩ : GangMem).state ≠ .attached ∧
    s.windowsOpen 0 = false ∧ (s.newTx (mkTx s 0 (.store 0) 2 5 (.ctx 0 0x77 0) (.store [1]) 0 1 3 false false none ⟨16, 0⟩)).windowsOpen 0 = true ∧
    s.grantSum 0 1 = 0 ∧ (T.feed 1).size / 64 = 8192 ∧ 0 + 1024 ≤ (T.feed 1).size / 64 ∧ 1024 < 1025 ∧ BitVec.ofNat 10 5 ≠ s.cfg.aid ∧
    Map.find? s.boxes (boxKey 0 255) = none := by decide +kernel

/-- SteerServices: a child that lives. -/
theorem witness_child_live :
    let s := labImg (.steer 0) (engTeam [])
    let a := s.acceptGrid 0 [] (descOf []) ⟨0, 64, 2, 0, 0, 0, 0⟩ ⟨0, 1, 0, false, 0, some (0, 0), none, none, none, none⟩
    a.1.childLive { engTeam [] with children := [a.2] } none = true := rfl

/-- SteerServices: RRINV and WPROBE of windows 1, 0 and 5. -/
theorem witness_wprobe :
    let T := winTeam 0
    let s := labWin (.steer 0) T
    let e := fun h : Nat => match (s.winEntry 0 (some 0) h).2 with | .inl x => x | .inr _ => 0
    field (e 1) 0 2 = 1 ∧ winReservedOk (e 1) = true ∧ field (e 0) 0 2 ≠ 1 ∧
    (s.winCheck T ⟨1, 0, 1, 0, [1, 2], 1⟩).2 = .ok (.one 0 (.ctx 0 0x77 0) 3 true 0) ∧
    (s.winCheck T ⟨0, 0, 1, 0, [1, 2], 1⟩).2 = .bad { code := Code.windowHandle, addr := 0, handle := 0 } := by decide +kernel

/-- SteerServices: RRINV by a register's handle; a window table that cannot be read; a fill of a line that is dropped, on its way. -/
theorem witness_rrinv :
    let T := labSteer [(5, 1)]
    let s := labWin (.steer 0) T
    let s1 := { s with poison := [0x12000 / 128] }
    let x := { mkTx s 0 (.store 0) 1 5 (.ctx 0 0x77 0) (.store [1]) 0x1000 4 3 false false none ⟨16, 0⟩ with fill := some 0 }
    s.SteerReady 0 T (hsrcRegs (.reg 5)) ∧ hsrcVal (.reg 5) T.steer = 1 ∧
    (match (s.winEntry 0 (some 0) 1).2 with | .inl e => field e 0 2 == 1 && winReservedOk e | .inr _ => false) = true ∧
    (match (s1.winEntry 0 (some 0) 1).2 with | .inl _ => false | .inr _ => true) = true ∧
    Map.find? ({ s with txs := [(9, x)] } : State).txs 9 = some x ∧ x.fill = some 0 ∧ x.team = 0 ∧ x.handle = 1 ∧ x.lo / 2048 * 2048 = 0x1000 :=
  ⟨⟨rfl, rfl, rfl⟩, by decide +kernel⟩

/-- LateResultsLand: a result that is due, of a lane thread and of the steering thread; another that is waiting. -/
theorem witness_late_results :
    let l : Late := ⟨3, 1, [8], [15], [(8, 7)], [(15, true)], 1, .due⟩
    let th := { bootThread with late := [⟨2, 0, [9], [], [], [], 0, .waiting⟩, l] }
    let T := { labTeam th with steer := { bootSteer with late := [l] } }
    (labWith (.lane 0 0) T).team? 0 = some T ∧ T.thread? 0 = some th ∧
    List.find? (fun (x : Late) => x.id == 3 && x.st == .due) th.late = some l ∧ List.find? (fun (x : Late) => x.id == 2 && x.st == .due) th.late = none ∧
    List.find? (fun (x : Late) => x.id == 3 && x.st == .due) T.steer.late = some l ∧ (l.regs.map Prod.fst).Nodup ∧
    List.find? (fun (x : Late) => x.id == 2 && x.st == .due) T.steer.late = none ∧
    (labWith (.lane 0 0) T).cur = some (.lane 0 0) ∧ (labWith (.steer 0) T).cur = some (.steer 0) := by decide +kernel

/-! ### Device events -/

/-- A device with an entry of the queue table for queue 5 (ring at 0x50000, LOG 4, context 0), and the ring's records in memory: a NOP, a SIGNAL of
counter 0x1008, a LAUNCH of 0x3000, a record with a wrong tag. -/
def labQueue (head tail : Nat) : State :=
  let s := labImg (.steer 0) (engTeam [])
  let entry := leBytes 8 0x50000 ++ leBytes 8 (4 * 2 ^ 16) ++ leBytes 48 0
  let rec0 := leBytes 128 0xC9
  let rec1 := leBytes 8 (0xC9 + 2 * 2 ^ 8 + 2 ^ 16) ++ leBytes 32 0 ++ leBytes 8 0x1008 ++ leBytes 8 3 ++ leBytes 72 0
  let rec2 := leBytes 8 (0xC9 + 1 * 2 ^ 8 + 2 * 2 ^ 16) ++ leBytes 8 0x3000 ++ leBytes 112 0
  let rec3 := leBytes 128 (0xC8 + 3 * 2 ^ 16)
  let rec4 := leBytes 8 (0xC9 + 1 * 2 ^ 8 + 4 * 2 ^ 16) ++ leBytes 8 0x3080 ++ leBytes 112 0
  { s with
    mem := Memory.store (Memory.store s.mem (s.cfg.qtab + 64 * 5) entry) 0x50000 (rec0 ++ rec1 ++ rec2 ++ rec3 ++ rec4),
    queues := [(5, ⟨0x50000, 0, 15, 4, head, tail, 0, 0⟩)] }

/-- WorkQueueEvents: an entry that BIND accepts, one that it does not, a queue that is bound and one that is not; a doorbell to the whole ring, one beyond
it, one backwards; records of each type, one that breaks R79. -/
theorem witness_work_queues :
    let s := labQueue 0 4
    let far := fun (h x : Nat) => (x + 2 ^ 32 - h) % 2 ^ 32
    s.lineFault (s.cfg.qtab + 64 * 5) = none ∧ queueOk (s.bytes (s.cfg.qtab + 64 * 5) 64) = true ∧ queueOk (s.bytes (s.cfg.qtab + 64 * 6) 64) = false ∧
    (Map.find? s.queues 5).isSome = true ∧ Map.find? s.queues 6 = none ∧ (Map.find? s.ctxs 0).isSome = true ∧
    (far 0 4 ≤ far 0 16 ∧ far 0 16 ≤ 2 ^ 4) ∧ (far 0 4 ≤ far 0 17 ∧ 2 ^ 4 < far 0 17) ∧ far 0 3 < far 0 4 ∧ (s.queues.map fun e => e.2.qerr) = [0] ∧
    s.nextRecord ⟨0x50000, 0, 15, 4, 0, 4, 0, 0⟩ = some 0x50000 ∧ s.nextRecord ⟨0x50000, 0, 15, 4, 15, 16, 0, 0⟩ = some 0x50780 ∧
    recordOk (s.bytes 0x50000 128) 0 = true ∧ fld (s.bytes 0x50000 128) 1 1 = 0 ∧
    recordOk (s.bytes 0x50080 128) 1 = true ∧ fld (s.bytes 0x50080 128) 1 1 = 2 ∧
    recordOk (s.bytes 0x50100 128) 2 = true ∧ fld (s.bytes 0x50100 128) 1 1 = 1 ∧ fld (s.bytes 0x50100 128) 8 8 = 0x3000 ∧
    recordOk (s.bytes 0x50180 128) 3 = false ∧ s.lineFault 0x50000 = none ∧
    recordOk (s.bytes 0x50200 128) 4 = true ∧ flag (fld (s.bytes 0x50200 128) 4 4) 1 = false ∧
    judged (s.judgeLaunch 0 0x3000) = some none ∧ judged (s.judgeLaunch 0 0x3080) = some (some descField) := by decide +kernel

/-- A grid of one team. -/
def labGrid : Grid :=
  { ctx := 0, no := 7, desc := { descOf [] with nteam := 1, nrole := 1, roles := [(1, 4, 16)] }, raw := [], img := ⟨0x4000, 64, 2, 0, 0, 0, 0⟩,
    parentTeam := none, parentGrid := none, depth := 0, pcap := 15, prio := 0, accepted := 0, d0 := 0, queue := none, serialOn := none, tfire := none,
    met := [true], eligible := false, notify := none, next := [0, 1, 2, 3], live := 0, killedTeam := false, gang := .idle, reread := 0, born := 0,
    coord := 0, members := [], begun := false, peers := [], ranks := [], holders := [], failing := none, owing := [], parentAway := none,
    drained := [], saveGo := false, savedAt := [], allSaved := false }

/-- The small device with a grid. -/
def labWithGrid (g : Grid) : State := { labImg (.steer 0) (engTeam []) with grids := [(4, g)] }

/-- WorkQueueEvents, second part: 10 µs after the last reading and just before; an eligible grid and one that is not; the time of TFIRE reached and not. -/
theorem witness_waits :
    let s := { labWithGrid labGrid with clock := 170000 }
    Map.find? s.grids 4 = some labGrid ∧ labGrid.reread + 10000 * Config.ticksPerNs = 170000 ∧ (169999 < labGrid.reread + 10000 * Config.ticksPerNs) ∧
    labGrid.eligible = false ∧ ({ labGrid with eligible := true } : Grid).eligible = true ∧ s.ripe labGrid = true ∧
    s.ripe { labGrid with tfire := some 1 } = false := by decide +kernel

/-- ContextCommands: an ACTIVE context with work and one without, a FREE one, a block that ACTIVATE accepts and one that it does not. -/
theorem witness_context_commands :
    let s := labWith (.steer 0) (engTeam [])
    let block := leBytes 8 0 ++ leBytes 8 (4 + 2 ^ 8) ++ leBytes 112 0
    let s1 := { s with mem := Memory.store s.mem (s.cfg.ctxtab + 128) block }
    (Map.find? s.ctxs 0).isSome = true ∧ s.ctxBusy 0 = true ∧ (Map.find? s.ctxs 0xFFF).isSome = false ∧ ({ s with teams := [] } : State).ctxBusy 0 = false ∧ bootCtx.clearing = [] ∧
    blockOk (s1.bytes (s1.cfg.ctxtab + 128) 128) = true ∧ s1.lineFault (s1.cfg.ctxtab + 128) = none ∧ blockOk (s.bytes (s.cfg.ctxtab + 128 * 0xFFF) 128) = false := by
  decide +kernel

/-- A device whose bank set 511 stands as `b`, at a time. -/
def labBank (b : Bank) (clock : Nat) : State := { State.reset with banks := [(511, b)], clock := clock }

/-- BankCommands: a set that is OFF; one whose OFF waits; one being cleared, whose time has come and not; one in use; one LOST; one in ACT with and
without a request. -/
theorem witness_bank_commands :
    let b := { Bank.reset with state := 3 }
    ((labBank { b with state := 0 } 0).bank 511).state = 0 ∧ ((labBank { b with clr := true } 0).bank 511).clr = true ∧
    ((labBank { b with inuse := true } 0).bank 511).inuse = true ∧ ((labBank { b with state := 4 } 0).bank 511).state = 4 ∧
    ((labBank b 0).bank 511).offAfter = none ∧ ((labBank { b with offAfter := some 1, queue := [7] } 0).bank 511).offAfter ≠ none ∧
    ((labBank b 0).bank 511).queue = [] ∧ ((labBank { b with queue := [7] } 0).bank 511).queue ≠ [] ∧ (labBank b 0).bank 511 = b ∧
    0 + clearTicks ≤ (labBank b clearTicks).clock ∧ (labBank b (clearTicks - 1)).clock < 0 + clearTicks ∧
    Machine.setOf (2 ^ 39 - 1) = 511 ∧ Machine.setOf (511 * 2 ^ 30) = 511 ∧ Machine.setOf (511 * 2 ^ 30 - 1) ≠ 511 := by decide +kernel

/-- BankPowerEvents: an OFF that waits for one request, for two and none; 200 ns after the last access; RET's time; a set that wakes; a phase change
at its time and before it. -/
theorem witness_bank_power :
    let b := { Bank.reset with state := 3 }
    0 + nsTicks 200 ≤ (labBank b (nsTicks 200)).clock ∧ (labBank b 0).governing 511 ≠ 3 ∧
    (retTicks ((labBank b 0).governing 511)).isSome = true ∧
    (({ State.reset with phases := [(0, ⟨2, 0, 3, none⟩)] } : State).phase 0).force = 3 ∧
    ({ State.reset with phases := [(0, ⟨2, 0, 1, some (5, 2)⟩)], dtime := 5 } : State).phase 0 = ⟨2, 0, 1, some (5, 2)⟩ ∧
    (5 ≤ (5 : DWord).toNat ∧ (4 : DWord).toNat < 5) ∧ (labBank b 0).governing 511 < 2 ∧
    (∀ w, ((labBank { b with offAfter := some 2, queue := [7, 8] } 0).bank 511).offAfter = w → w ≠ some 1 ∧ w ≠ some 0) ∧
    ((labBank { b with offAfter := some 1, queue := [7] } 0).bank 511).offAfter = some 1 ∧ b.cmds = [] ∧ ({ b with state := 1, waking := true } : Bank).waking = true :=
  ⟨by decide +kernel, by decide +kernel, by decide +kernel, by decide +kernel, by decide +kernel, by decide +kernel, by decide +kernel,
    (fun _ h => by rw [← h]; decide +kernel), by decide +kernel, by decide +kernel, by decide +kernel⟩

/-- BankPowerEvents: a context whose phase 2, or 3, governs the set that it holds. -/
theorem witness_governing :
    (∀ f, f = 2 ∨ f = 3 → ({ State.reset with ctxs := [(0, bootCtx)], held := [(0, 511)], phases := [(0, ⟨f, 0, f, none⟩)] } : State).governing 511 = f) := by
  intro f h
  rcases h with rfl | rfl <;> decide +kernel

/-- PatrolAndErrors: the last granule, not yet read and read; a set that is OFF; the granule's first and last lines. -/
theorem witness_patrol :
    let b := { Bank.reset with granules := [511] }
    Bank.reset.clr = false ∧ Bank.reset.state ≠ 0 ∧ Bank.reset.state ≠ 4 ∧ 511 ∉ Bank.reset.granules ∧ 511 ∈ b.granules ∧
    (511 * 2 ^ 30 + 511 * 2 ^ 21) / 128 = 2 ^ 32 - 16384 := by decide +kernel

/-- An eligible grid of one team, its home die 0. -/
def readyGrid : Grid := { labGrid with eligible := true }

/-- Team 0 blocked in WAITCH, at the place (core 0, slot 0). -/
def waitTeam : Team := { engTeam [] with steer := { bootSteer with st := .blocked (.waitch none) }, grid := 3 }

/-- A member reservation of a gang that another K9 coordinates. -/
def labReq : GangReq :=
  { coord := 5, grid := 0x80500000, member := 1, size := 2, resume := false, ctx := 0, prio := 0, pcap := 15, depth := 0, accepted := 0, desc := [], ranks := [],
    home := 0, slot := [], children := [], opens := [], failing := 0 }

/-- PlacementEvents: no team waits; a first team that fits; one that has waited 100 µs, 20 µs, and less; a team in WAITCH whose descendant does not
fit; a refused member at 20 µs and before. -/
theorem witness_placement :
    let s := labWithGrid readyGrid
    let w : Wait := ⟨.fresh 4 0, 0, 0, 0, readyGrid.desc.demand⟩
    let d := fun (c : Nat) => ({ s with dies := [(0, ⟨[(.fresh 4 0, 0)], []⟩)], clock := c } : State)
    let late := fun (c us : Nat) => ((d c).die 0).waits.any fun y => y.1 == w.cand && decide (y.2 + usTicks us ≤ (d c).clock)
    s.waiting 1 = [] ∧ s.waiting 0 = [w] ∧ Map.find? s.grids 4 = some readyGrid ∧ (s.choose 0 w true).isSome = true ∧ readyGrid.desc.regions = [] ∧
    s.takeBlock 0 readyGrid.desc.priv = some none ∧ late (usTicks 100) 100 = true ∧ late (usTicks 100 - 1) 100 = false ∧ late (usTicks 20) 20 = true ∧
    late (usTicks 20 - 1) 20 = false ∧ s.refused = [] ∧
    (let r : Refused := ⟨labReq, 0⟩
     r.since + usTicks 20 ≤ (d (usTicks 20)).clock ∧ (d (usTicks 20 - 1)).clock < r.since + usTicks 20 ∧ (Map.find? s.ctxs r.req.ctx.toNat).isSome = true) := by
  decide +kernel

/-- PlacementEvents: a save slot is free. -/
theorem witness_save_slot : ∃ j, (labWithGrid readyGrid).takeSlot = some j :=
  ⟨_, if_pos ⟨Nat.mod_lt _ (by decide), rfl⟩⟩

/-- PlacementEvents: R96's case. Every core of the die is full of tiles, and the waiting team is the only ancestor that can leave. -/
theorem witness_waitch_save :
    let g := { readyGrid with parentTeam := some 0, desc := { readyGrid.desc with acc := 16 } }
    let tiles := (span 0 16).map Tile.fresh
    let T := { waitTeam with tiles := tiles }
    let rest := (span 1 63).map fun i => (i, { engTeam [] with place := .resident i 0, tiles := tiles })
    let s := { labWith (.steer 0) T with teams := (0, T) :: rest, grids := [(4, g)] }
    (T.core? = some (64 * 0)) ∧ T.steer.st = .blocked (.waitch none) ∧ T.phase = .running ∧ T.killed = false ∧ s.descends 0 4 11 = true ∧
    s.candGrid (.fresh 4 0) = some 4 ∧ s.waiting 0 = [⟨.fresh 4 0, 0, 0, 0, g.desc.demand⟩] ∧ s.fitsWithout 0 g.desc.demand [] = false ∧
    s.fitsWithout 0 g.desc.demand [0] = true := by decide +kernel

/-- PlacementEvents: a team that is being saved and has drained, one with a window access, one with a late result that has not come; a saved team that may be
resumed; a staging stream with its next line. -/
theorem witness_saves_and_stages :
    let T := { engTeam [(0, ⟨.stage 0 true 0x1000 0 4, .queued, none, 0, 0, [], 0, false, 0, none, (0, 0), 0⟩)] with steer := { bootSteer with st := .done } }
    let s := labImg (.steer 0) T
    ({ T with phase := .saving } : Team).phase = .saving ∧ T.core?.isSome = true ∧ s.drainOpen 0 = false ∧ T.lateHere = true ∧
    (s.newTx (mkTx s 0 (.store 0) 2 5 (.ctx 0 0x77 0) (.store [1]) 0 1 3 false false none ⟨16, 0⟩)).drainOpen 0 = true ∧
    ({ T with steer := { bootSteer with late := [⟨0, 0, [], [], [], [], 0, .waiting⟩] } } : Team).lateHere = false ∧
    s.mayResume T = false ∧ s.mayResume { T with place := .saved } = true ∧
    T.staging = true ∧ T.stageHead = some 0 ∧
    (match Map.find? T.eng 0 with | some y => (y.wants 0 4, y.wants 3 4, y.wants 4 4) | none => (false, false, false)) = (true, true, false) ∧
    (match (s.streamRead T true (0, 0) 0x1000).2 with | .inl bs => bs.length | .inr _ => 0) = 128 ∧
    (match (s.streamRead T true (0, 0) 0x10000).2 with | .inr (some f) => some f.code | _ => none) = some Code.storeNonres := by decide +kernel

/-- PlacementEvents: a saved team that its home die can take. -/
theorem witness_resume :
    let T := { bootTeam 1 with place := .saved, grid := 4, steer := { bootSteer with st := .done } }
    let s := { labWith (.steer 0) T with grids := [(4, { labGrid with eligible := true, next := [4, 4, 4, 4] })] }
    s.mayResume T = true ∧ (match (s.placeFrom 0 true (s.waiting 0)).team? 0 with | some T1 => T1.core?.isSome | none => false) = true := by decide +kernel

/-- A gang of two, coordinated here. -/
def gangGrid (p : GangPhase) (peers : Map Aid) : Grid :=
  { readyGrid with no := 0x80000000, desc := { readyGrid.desc with gang := true, nteam := 2 }, gang := p, peers := peers }

/-- PlacementEvents: the save of a gang member, while the other member's K9 has not drained and once every member has. -/
theorem witness_gang_save :
    let T := { bootTeam 1 with phase := .saving, grid := 4, gridNo := 0x80000000, gang := some ⟨0, 2, .attached, false⟩, steer := { bootSteer with st := .done } }
    let s := fun go => { labWith (.steer 0) T with grids := [(4, { gangGrid .idle [(0, 0), (1, 5)] with saveGo := go, holders := [(0, 0), (1, 5)] })] }
    (∀ go, (s go).team? 0 = some T) ∧ T.core?.isSome = true ∧ (s false).drainOpen 0 = false ∧ T.lateHere = true ∧
    ((s false).saveStep 0x80000000).mayWrite T = false ∧ ((s true).saveStep 0x80000000).mayWrite T = true :=
  ⟨(fun _ => rfl), by decide +kernel⟩

/-- GangRounds, GangBreaks: an idle gang; a round at 50 µs, before and after; a failed one, a K9 of its round and one that is not; a committed one at
100 µs and before; answers that complete a round and that do not; a member that is staged and one that is not; a reservation of the gang. -/
theorem witness_gang_rounds :
    let s := fun p peers => { labWith (.steer 0) (engTeam []) with grids := [(4, gangGrid p peers)], clock := usTicks 100 }
    let g := gangGrid .idle []
    Map.find? (s .idle []).grids 4 = some g ∧ g.desc.gang = true ∧ g.eligible = true ∧ g.coord = (s .idle []).cfg.aid ∧ g.gang = .idle ∧
    (1 ∈ span 0 g.desc.nteam ∧ g.wants 1 = true) ∧ (GangPhase.round 0 [] ≠ .idle) ∧
    ((usTicks 50) + usTicks 50 ≤ (s .idle []).clock ∧ (s .idle []).clock < usTicks 50 + 1 + usTicks 50 ∧ (s .idle []).clock ≤ usTicks 50 + usTicks 50) ∧
    (0 + usTicks 100 ≤ (s .idle []).clock ∧ (s .idle []).clock < 1 + usTicks 100) ∧
    (gangGrid (.failed 0) [(0, 0), (1, 5)]).gang = .failed 0 ∧ (∃ p ∈ [(0, (0 : Aid)), (1, 5)], p.2 = 5) ∧ (∀ p ∈ [(0, (0 : Aid)), (1, 5)], p.2 ≠ 6) ∧
    (s (.round (usTicks 50) [0]) [(0, 0), (1, 5)]).ownGang 0x80000000 = some (4, gangGrid (.round (usTicks 50) [0]) [(0, 0), (1, 5)]) ∧
    (∀ p ∈ [(0, (0 : Aid)), (1, 5)], p.1 = 1 ∨ p.1 ∈ [0]) ∧ (1 ∉ ([] : List Nat) ∧ ∃ p ∈ [(0, (0 : Aid)), (1, 5)], p.1 ≠ 1 ∧ p.1 ∉ ([] : List Nat)) ∧
    (s (.committed 0 [0]) [(0, 0), (1, 5)]).ownGang 0x80000000 = some (4, gangGrid (.committed 0 [0]) [(0, 0), (1, 5)]) ∧
    (1 ∉ [0] ∧ Map.get 0 (gangGrid .idle []).members 1 ≠ 3) ∧
    (∃ e ∈ (s .idle []).grids, e.2.no = 0x80000000 ∧ e.2.desc.gang = true ∧ Map.get 0 e.2.members 1 ≠ 3) ∧
    (∀ e ∈ (s .idle []).grids, e.2.no ≠ 7 ∨ e.2.desc.gang = false ∨ Map.get 0 e.2.members 1 = 3) := by decide +kernel

/-- GangRounds: a request for another K9; one that this K9 refuses for want of its context, and one that it has granted already; a reservation whose gang is
committed and opened, of a fresh member and of one that was saved; GangBreaks: a broken gang of another coordinator. -/
theorem witness_gang_members :
    let r := labReq
    let x : Resv := ⟨0x80500000, 5, 1, 0, 0, 0, false, false, false, (gangGrid .idle []).desc⟩
    let T := { bootTeam 1 with gridNo := 0x80500000, grid := 4, phase := .gangWait, gang := some ⟨1, 2, .attached, false⟩, threads := [] }
    let s := { labWith (.steer 0) T with resvs := [x], grids := [(4, { gangGrid .idle [] with no := 0x80500000, coord := 5 })] }
    r.home = s.cfg.aid ∧ ({ r with home := 7 } : GangReq).home ≠ s.cfg.aid ∧
    s.grantMember r = some s ∧ s.grantMember { r with ctx := 1 } = none ∧ r.coord ≠ s.cfg.aid ∧
    s.resvs.find? (fun y => y.grid == 0x80500000 && y.member == 1) = some x ∧ s.resvs.find? (fun y => y.grid == 0x80500000 && y.member == 0) = none ∧
    s.resvs = [x] ∧ x.resumed = false ∧ x.brought = false ∧ ({ x with resumed := true } : Resv).resumed = true ∧
    (∀ y ∈ s.teams, y.2.gang.isSome = true → y.2.gridNo = 0x80500000 → y.2.place ≠ .saved) ∧
    s.team? x.team = some T ∧ (Map.find? s.grids T.grid).isSome = true ∧ T.phase = .gangWait ∧ T.killed = false ∧ T.mheld = false ∧
    (s.breakGang 0x80500000 0).ownGang 0x80500000 = none ∧ ((s.breakGang 0x80500000 0).gangOfNo 0x80500000).isSome = true ∧
    s.staysSaved r = false ∧ s.staysSaved { r with resume := true } = false ∧ (s.grids.map Prod.fst).Nodup ∧
    (s.gangTeam 0x80500000 1).isSome = true := by decide +kernel

/-- GangBreaks: a break of a gang that this K9 coordinates; the silence of the K9 that coordinates a gang, at its first member's rank, and of another. -/
theorem witness_gang_breaks :
    let own := { labWith (.steer 0) (engTeam []) with grids := [(4, gangGrid .opened [(0, 0), (1, 5)])] }
    let far := { own with grids := [(4, { gangGrid .idle [] with coord := 5, ranks := [5, 0] })] }
    let at0 := fun (s : State) (m : Nat) => match s.gangOfNo 0x80000000 with
      | some (_, G) => some (G.coord, (G.ranks[m % G.ranks.length]?).map fun k => (gRankOf k.toNat).aid)
      | none => none
    (((own.recordBreak 0x80000000 1).breakMember 0x80000000 1).ownGang 0x80000000).isSome = true ∧
    ((own.breakGang 0x80000000 1).ownGang 0x80000000).isSome = true ∧ (far.breakGang 0x80000000 0).ownGang 0x80000000 = none ∧
    at0 (far.breakGang 0x80000000 0) 0 = some (5, some 5) ∧ at0 (far.breakGang 0x80000000 1) 1 = some (5, some 0) := by decide +kernel

/-- GangRounds: a saved member that must stay saved. -/
theorem witness_stays_saved :
    let T := { bootTeam 1 with gridNo := 0x80500000, grid := 4, place := .saved, mheld := true, gang := some ⟨1, 2, .attached, false⟩ }
    let s := { labWith (.steer 0) T with grids := [(4, { gangGrid .idle [] with no := 0x80500000, coord := 5 })] }
    s.staysSaved { labReq with resume := true } = true ∧ s.grantMember { labReq with resume := true } = none := by decide +kernel

/-- A wave of one thread. -/
def waveOf1 (active yielded : Bool) (since : Nat) : Wave := ⟨0, [0], ⟨16, 0⟩, none, active, yielded, since, since, []⟩

/-- SchedulerEvents: a ready pending wave with an active wave that has yielded, and with room for one more; none ready; one that has been ready for
1,024 aclk; a group to emit, behind which none is spilled; a wave that has held its slot for 4,096 aclk and just less; a resident team that runs and a
saved one. -/
theorem witness_scheduler :
    let T := { labFull bootThread with joins := [(5, ⟨[0, 1], [0], true, some (aclkTicks 4096)⟩)] }
    let s := fun (ws : Map Wave) (f : List Group) => { labWith (.steer 0) T with cores := [(0, [(0, ⟨ws, f, []⟩)])], clock := aclkTicks 4096 }
    let pick := fun s : State => List.find? (fun (w : Nat × Wave) => !w.2.active && !s.waveWaits w.2) (s.wavesByAge (s.part 0 0))
    let out := fun s : State => List.find? (fun (w : Nat × Wave) => w.2.active && (s.waveWaits w.2 || w.2.yielded)) (s.wavesByAge (s.part 0 0)).reverse
    let two := s [(0, waveOf1 true true 0), (1, waveOf1 false false (aclkTicks 3072))] []
    let one := s [(1, waveOf1 false false (aclkTicks 3072 + 1))] [⟨0, [0], ⟨16, 0⟩, aclkTicks 4032, false⟩]
    pick two = some (1, waveOf1 false false (aclkTicks 3072)) ∧ out two = some (0, waveOf1 true true 0) ∧ out one = none ∧
    pick one = some (1, waveOf1 false false (aclkTicks 3072 + 1)) ∧ pick (s [(0, waveOf1 true true 0)] []) = none ∧
    ((one.part 0 0).waves.filter fun w => w.2.active).length < Config.activeWaves ∧
    (aclkTicks 3072 + aclkTicks 1024 ≤ two.clock ∧ one.clock < aclkTicks 3072 + 1 + aclkTicks 1024) ∧
    one.emitNext 0 0 = some 0 ∧ (one.slotFor 0 0 0).isSome = true ∧ two.emitNext 0 0 = none ∧
    (0 + aclkTicks 4096 ≤ two.clock ∧ two.clock < 1 + aclkTicks 4096) ∧
    (one.part 0 0).spilled = [] ∧ (two.part 0 0).former = [] ∧
    two.team? 0 = some T ∧ T.core?.isSome = true ∧ T.phase = .running ∧ ({ T with place := .saved } : Team).core? = none := by decide +kernel

/-- SchedulerEvents: a group that finds no slot because every slot of its partition is held. -/
theorem witness_slot_reclaim :
    let w := (span 0 Config.waveSlots).map fun i => (i, waveOf1 true false 0)
    let s := { labWith (.steer 0) (labFull bootThread) with cores := [(0, [(0, ⟨w, [⟨0, [0], ⟨16, 0⟩, 0, true⟩], []⟩)])], clock := aclkTicks 4096 }
    (s.part 0 0).former[0]? = some ⟨0, [0], ⟨16, 0⟩, 0, true⟩ ∧ s.ripeGroup ⟨0, [0], ⟨16, 0⟩, 0, true⟩ = true ∧ s.slotFor 0 0 0 = none ∧
    (sortBy (fun (w : Nat × Wave) => w.2.heldSince) (s.mayTake 0 0 0)).head? = some (0, waveOf1 true false 0) ∧
    (waveOf1 true false 0).pos.k = 0 ∧ 0 + aclkTicks 4096 ≤ s.clock := by decide +kernel

/-- DeadlocksAndPolls: a team whose steering thread waits in ACLAIM with nothing else to run, first seen, seen 10 µs ago and just less; one that is
not stuck; a step of claims that can be granted; an ACLAIM whose tiles are free; a core whose tile holders all wait in ACLAIM, one without a holder.
-/
theorem witness_deadlocks :
    let st := { bootSteer with st := .blocked (.aclaim 0 30 1 ⟨16, 1⟩) }
    let T := fun (n : Nat) (x : Option Nat) => { engTeam [] with threads := [], steer := st, stuckSince := x, tiles := (span 0 n).map Tile.fresh }
    let s := fun n x => { labWith (.steer 0) (T n x) with clock := usTicks 10 }
    let th := { bootThread with st := .parked (.claim 3) }
    let U := { T 16 none with threads := [(0, th)], roles := [⟨100, 0, 1, 16, [], ⟨[], 0, 0, false⟩, [], [⟨0, true, false, 4, 3⟩], 0⟩] }
    (T 16 none).stuck = true ∧ (T 16 none).claims = true ∧ (T 16 none).aclaims = true ∧
    (∀ k ∈ span 0 (T 16 none).roles.length, ((s 16 none).claimStep 0 k).isNone = true) ∧
    (T 16 none).core? = some 0 ∧ (s 16 none).aclaimFits 0 = false ∧ (s 15 none).aclaimFits 0 = true ∧ (T 15 none).stuck = true ∧
    U.stuck = true ∧ U.claims = true ∧ ((labWith (.steer 0) U).claimStep 0 0).isSome = true ∧
    (0 + usTicks 10 ≤ (s 16 (some 0)).clock ∧ (s 16 (some 1)).clock < 1 + usTicks 10) ∧ (∀ r ∈ (T 16 none).roles, r.claim = []) ∧
    (engTeam []).stuck = false ∧ (engTeam []).claims = false ∧ (engTeam []).aclaims = false ∧
    (s 16 none).tileHolders 0 ≠ [] ∧ (∀ y ∈ (s 16 none).tileHolders 0, y.2.aclaims = true ∧ y.2.phase = .running ∧ y.2.killed = false) ∧
    (sortBy (fun (y : Nat × Team) => y.2.placedAt) ((s 16 none).tileHolders 0)).getLast? = some (0, T 16 none) ∧ (s 16 none).tileHolders 255 = [] := by decide +kernel

/-- DeadlocksAndPolls: a CWAIT that polls, with its word reached and not; a steering thread that is not in CWAIT; a held team. -/
theorem witness_cwait_poll :
    let T := fun (want : DWord) => { labSteer [] with steer := { bootSteer with st := .blocked (.cwait 0x1000 want ⟨17, 0⟩) } }
    let s := fun want => labMem (.steer 0) (T want)
    (∀ g want next, bootSteer.st ≠ .blocked (.cwait g want next)) ∧ (T 1).phase = .running ∧ (T 1).core?.isSome = true ∧ (T 1).killed = false ∧ (T 1).isHeld = false ∧
    ({ T 1 with eng := [(0, copyEntry (.faulted ⟨0x11, 2, 0, 5, 16, 0, 0, 0, 0, 0, 0, 0⟩) [])] } : Team).isHeld = true ∧
    (s 1).locate (T 1) none 0x1000 8 = .inl (.mem false 0x1000) ∧ ((s 1).judgeLoad 0 (some 0) false 0x1000).2 = .ok 0x11000 false ∧
    ((s 1).judgeLoad 0 (some 0) false 0x1000).1.team? 0 = some (T 1) ∧
    (1 : DWord).toNat ≤ leNat (((s 1).judgeLoad 0 (some 0) false 0x1000).1.bytes 0x11000 8) ∧
    leNat (((s 1).judgeLoad 0 (some 0) false 0x1000).1.bytes 0x11000 8) < (0xFFFFFFFFFFFFFFFF : DWord).toNat :=
  ⟨(fun _ _ _ h => by cases h), by decide +kernel⟩

/-- A team whose feeds hold 512 KiB and nothing. -/
def fullTeam (eng : Map Eng) : Team := { engTeam eng with feeds := [(0, ⟨0, 19, 2 ^ 19, 0, []⟩), (1, ⟨4096, 19, 2 ^ 19, 0, []⟩), (2, ⟨0, 19, 0, 0, []⟩)] }

/-- EngineEvents: a held command at its time and just before, and one without room; a waiting one with and without a time; seven and eight held
commands; a COPY of two lines from memory to memory. -/
theorem witness_engine_events :
    let par : List Word := [0x1000, 0, 0x2000, 0, 128, 0, 1, 0x10001]
    let T := engTeam [(0, copyEntry .queued par)]
    let s := { labImg (.steer 0) T with dtime := 5 }
    let y := copyEntry .queued par
    let held := copyEntry (.held (BitVec.ofNat 64 5)) par
    let wait := copyEntry .waiting par
    let many := fun n => engTeam ((span 0 n).map fun i => (i, held))
    let s0 := s.modEng 0 0 fun e => e.startUnit 1
    s.team? 0 = some T ∧ Map.find? T.eng 0 = some y ∧ (5 ≤ s.dtime.toNat ∧ s.dtime.toNat < 6) ∧ T.working = true ∧ s.engRoom T held.cmd = true ∧
    held.st = .held (BitVec.ofNat 64 5) ∧ T.place ≠ .saved ∧ y.st ≠ .waiting ∧ wait.st = .waiting ∧ wait.attime = none ∧ ({ wait with attime := some 9 } : Eng).attime = some 9 ∧
    (many 7).heldCount < 8 ∧ 8 ≤ (many 8).heldCount ∧ y.cmd.isCopy = true ∧ copyRowOk par = true ∧ copyUnits par = 2 ∧
    s.unitMay 0 T 0 1 y = true ∧ s.acqHeld 0 y = false ∧ T.copiesActive.contains 0 = true ∧ y.wants 0 2 = true ∧ y.wants 1 2 = true ∧ y.wants 2 2 = false ∧
    T.copyOpen y .mem 0 par 1 = true ∧ s.unitTxs 0 0 1 y.order = [] ∧
    (match (s.streamRead T true (s.behind T y) (BitVec.ofNat 64 (copySrcAt par 1))).2 with | .inl bs => bs.length | .inr _ => 0) = 128 ∧
    s0.resolve T none (BitVec.ofNat 64 (copyDstAt par 1)) 128 = .mem false 0x2080 ∧ 0x2080 % 128 = 0 ∧
    (s0.judgeStore T.ctx T.cluster false 0x2080 true).2 = .ok 0x12080 false ∧
    y.st.isFaulted = false ∧ y.st.inQueue = true ∧ T.core?.isSome = true ∧ T.killed = false ∧
    copyUnits par ≤ ({ y with cpos := 2 } : Eng).cpos ∧ y.cpos < copyUnits par := by decide +kernel

/-- EngineEvents: no room in the COPY queue; a CUBE whose next pass is ready, one that is complete and one that is not; a CDRAIN with steps before it
and at its last; a core without a command. -/
theorem witness_cube_events :
    let a : EArgs := ⟨0, 0, 0, false, false, false⟩
    let many := engTeam ((span 0 16).map fun i => (i, copyEntry .queued []))
    let cube : EngCmd := .cube a .two false 0 1 0 0 [0, 16, 0]
    let drain : EngCmd := .cdrain a .f32 false 2 0 0 [0]
    let e := fun (c : EngCmd) (n : Nat) => (⟨c, .queued, none, n, 0, [], 0, false, 0, none, (0, 0), 0⟩ : Eng)
    let s := fun (c : EngCmd) (n : Nat) => labWith (.steer 0) (fullTeam [(7, e c n)])
    (labWith (.steer 0) many).engRoom many (copyEntry .waiting []).cmd = false ∧
    (s cube 0).cubeNext 0 = some (0, 7) ∧ (cubeOp .two [0, 16, 0]).isSome = true ∧ 0 < (fullTeam []).tiles.length ∧ (0 : Nat) ≠ 1 ∧ cube.isCube = true ∧
    (e cube 0).cpos < cube.steps ∧ cube.steps ≤ (e cube cube.steps).cpos ∧ (e cube cube.steps).st.inQueue = true ∧ (s cube cube.steps).cubeNext 0 = none ∧
    (s drain 0).cubeNext 0 = some (0, 7) ∧ drain.steps ≤ (drain.steps - 1) + 1 ∧ (s drain (drain.steps - 1)).cubeNext 0 = some (0, 7) ∧ 0 + 1 < (EngCmd.cdrain a .f32 false 2 0 0 [10]).steps ∧ (fullTeam []).core?.isSome = true ∧ (fullTeam []).killed = false ∧
    (labWith (.steer 0) (engTeam [])).cubeNext 255 = none := by decide +kernel

/-- The instance of the collective witnesses: group 0 has one rank, this one; one tile; the block at 0x6000, staging at 0x7000, status at 0x8000, data
at 0xA000. -/
def collRun0 (started done : Bool) (asked : List (Nat × Nat × Nat)) : CollRun :=
  { CollRun.fresh 9 with
    started := started, hdr := 0x20, stage := 0x7000, stagesz := 2048, stat := 0x8000, ranks := [0], perm := [0], me := 0,
    tiles := [⟨BitVec.ofNat 64 (3 + 2 ^ 32), (0xA000, 0), 0, [], false, [], false, done, false⟩], asked := asked }

/-- Its entry. -/
def collEng (st : EngSt) (r : CollRun) : Eng := ⟨.coll ⟨0, 0, 0, false, false, false⟩ 0 0 [0x6000, 0], st, none, 0, 0, [], 0, false, 0, some r, (0, 0), 0⟩

/-- Its device. -/
def collLab (st : EngSt) (r : CollRun) : State :=
  let s := labWin (.steer 0) (engTeam [(3, collEng st r)])
  let blk := leBytes 4 0x20 ++ leBytes 4 2048 ++ leBytes 8 0x7000 ++ leBytes 8 0x8000 ++ leBytes 104 0 ++ leBytes 8 (3 + 2 ^ 32) ++ leBytes 8 0xA000 ++ leBytes 112 0
  { s with mem := Memory.store s.mem 0x16000 blk }

/-- CollectiveEvents: an instance that has started; one that has not, whose block, group and permutation are legal; a faulted one. -/
theorem witness_coll_start :
    let r := collRun0 false false []
    let s := collLab .queued r
    let T := engTeam [(3, collEng .queued r)]
    let y := collEng .queued r
    let b := s.collBlock T (s.behind T y) 0x6000
    let g := b.1.readGroup T.ctx T.cluster 0
    s.team? 0 = some T ∧ Map.find? T.eng 3 = some (collEng .queued r) ∧ T.working = true ∧ (collEng .queued r).st.isFaulted = false ∧
    (collEng .queued r).st.inQueue = true ∧ pair ([0x6000, 0].getD 0 0) ([0x6000, 0].getD 1 0) = (0x6000 : DWord) ∧ opalAddr 0x6000 128 = true ∧
    (match b.2, g.2 with
     | .inl (hd, es), .ok 0 ranks =>
       let r2 := { collRunOf r.seq (.inl (hd, es)) ranks with me := 0 }
       decide (g.1.ownRank T.ctx ranks = some 0 ∧ g.1.endOf T.ctx 0 r.seq = none ∧ collLegal hd es ranks.length r2 = true ∧
         (g.1.collPerm T (s.behind T y) r2.hdr (BitVec.ofNat 64 (recAt hd 24 8)) ranks.length).2 = .inl [0] ∧ T.readyAbove 0 (hdrTiles r2.hdr) = false)
     | _, _ => false) = true ∧ noRepeats [0] = true ∧
    (∀ q, (collEng (.faulted q) r).st.isFaulted = true) ∧ (collRun0 true false []).started = true := by
  refine ⟨by decide +kernel, by decide +kernel, by decide +kernel, by decide +kernel, by decide +kernel, by decide +kernel, by decide +kernel, by decide +kernel,
    by decide +kernel, fun _ => rfl, rfl⟩

/-- CollectiveEvents: answers 2, 0 and 1; a context that is not ACTIVE; a header that agrees and one that differs; a team that takes messages in and a
saved one; a kept outcome of either kind and none; a group with fewer than 16 outcomes; a slot whose tile is complete and one whose tile is not. -/
theorem witness_coll_messages :
    let r := collRun0 true true []
    let T := engTeam [(3, collEng .running r)]
    let s := collLab .running r
    let m : CollMsg := ⟨0, 0, 9, 0, 0, 0, 0x20, BitVec.ofNat 64 (3 + 2 ^ 32), 0, 5, false, 0⟩
    let o : CollEnd := ⟨4, Code.collAbort, 3, false⟩
    Map.find? s.ctxs 0xFFF = none ∧ (Map.find? s.ctxs m.ctx.toNat).isSome = true ∧
    s.findColl m.ctx m.grp m.seq = some (0, 3, collEng .running r) ∧ (collEng .running r).run = some r ∧ s.collState m.ctx m.grp m.seq = .ack ∧
    m.hdr = r.hdr ∧ m.ctl = (r.tile m.tile).ctl ∧ ({ m with hdr := 0x21 } : CollMsg).hdr ≠ r.hdr ∧ ({ m with ctl := 0 } : CollMsg).ctl ≠ (r.tile m.tile).ctl ∧
    T.takesIn = true ∧ ({ T with place := .saved } : Team).takesIn = false ∧ (∀ q ∈ r.sends, q.1 ≠ m.tile ∨ q.2.1 ≠ m.step) ∧
    (collLab .queued (collRun0 false false [])).coll? 0 3 = none ∧ (collLab .queued (collRun0 false false [])).findColl 0 0 9 ≠ none ∧
    s.collState 0 0 8 = .wait ∧ s.findColl 0 0 8 = none ∧ s.endOf 0 0 9 = none ∧
    (s.keepEnd 0 0 9 (some o)).endOf 0 0 9 = some (some o) ∧ (s.keepEnd 0 0 9 none).endOf 0 0 9 = some none ∧ (s.keepEnd 0 0 9 none).endOf 0 0 8 = none ∧
    (Map.get [] s.opal.outcomes (groupKey 0 0)).length < 16 ∧
    s.coll? 0 3 = some ⟨T, collEng .running r, r, 0, 0⟩ ∧ T.working = true ∧ r.tiles.all CollTile.done = true ∧
    (collRun0 true false []).tiles.all CollTile.done = false ∧
    (s.opalPut 0 T (r.stat + 128) 8 (fun _ => leBytes 8 (collStatus 1 0 r.seq).toNat)).2 = .ok ∧
    (∀ q ∈ r.asked, q.1 ≠ m.tile ∨ q.2.1 ≠ m.step) := by decide +kernel

/-- CollectiveEvents: a device whose context has an outcome kept that is an abort; a message within the pod and one of another pod, as its ports are open; a
collective with ACQ whose first read waits for an earlier WPROBE; a transfer for a saved team, and for an instance that has not started. -/
theorem witness_coll_answers :
    let r := collRun0 true false []
    let s := collLab .running r
    let o : CollEnd := ⟨4, Code.collAbort, 3, false⟩
    let m : CollMsg := ⟨0, 0, 9, 0, 0, 0, 0x20, BitVec.ofNat 64 (3 + 2 ^ 32), 0, 5, false, 0⟩
    let acq : Eng := { collEng .queued r with cmd := .coll ⟨0, 0, 2, true, false, false⟩ 0 0 [0x6000, 0], since := 10 }
    let probe := mkTx s 0 (.probe 0 3) 1 5 (.ctx 0 0x77 0) .probe 0 1 3 false false none ⟨16, 0⟩
    m.xp = false ∧ ({ m with xp := true } : CollMsg).xp = true ∧ s.portsOpen = true ∧
    (s.keepEnd 0 0 9 (some o)).endOf 0 0 9 = some (some o) ∧ (Map.find? (s.keepEnd 0 0 9 (some o)).ctxs 0).isSome = true ∧
    (s.endOf 0 0 9).isSome = false ∧ s.acqHeld 0 (collEng .queued r) = false ∧ ({ s with txs := [(9, probe)] } : State).acqHeld 0 acq = true ∧
    (collLab .queued (collRun0 false false [])).coll? 0 3 = none := by decide +kernel

/-- CollectiveEvents: an asker of another pod, whose entry the endpoint table has and lacks. -/
theorem witness_coll_far :
    let far : DWord := BitVec.ofNat 64 (6 + 2 ^ 31 + 7 * 2 ^ 32)
    let r := { collRun0 true false [] with ranks := [0, far] }
    let s := { collLab .running r with endps := [(0, ⟨7, 6, true, 0x20010db8, 3⟩)] }
    let none' := { s with endps := [] }
    (s.rankEntry 0 0 9 1).2 = some ⟨6, 0, true, 7⟩ ∧ (s.rankEntry 0 0 9 1).1.endpoint 7 6 = some ⟨7, 6, true, 0x20010db8, 3⟩ ∧
    (s.rankEntry 0 0 9 1).1.portsOpen = true ∧ (none'.rankEntry 0 0 9 1).1.endpoint 7 6 = none ∧
    (none'.rankEntry 0 0 9 1).1.findColl 0 0 9 = some (0, 3, collEng .running r) ∧ (collEng .running r).run = some r ∧ r.started = true ∧
    (⟨1, none⟩ : CollAsker).via = none ∧ (⟨1, some ⟨0, 5⟩⟩ : CollAsker).via = some ⟨0, 5⟩ := by decide +kernel

/-- CollectiveEvents: a transfer that was asked for: two ranks, a tree, this one at position 0. -/
theorem witness_coll_transfer :
    let r := { collRun0 true false [(0, 0, 0)] with hdr := 0x28, ranks := [0, 5], perm := [0, 1] }
    let s := collLab .running r
    let v : CollView := ⟨engTeam [(3, collEng .running r)], collEng .running r, r, 0, 0⟩
    s.coll? 0 3 = some v ∧ v.T.takesIn = true ∧ v.r.asked = [(0, 0, 0)] ∧ (v.r.mine 0)[(v.r.tile 0).step]? = some (0, ⟨1, 0, .right⟩) ∧ v.r.pos = 0 ∧
    treeSteps 0 2 = [⟨1, 0, .right⟩] ∧ 2 ≤ 2 := by decide +kernel

/-- Retirement: a team over, one that still has a live thread, a killed one, a gang member that is done and an attached one with a partner that is; a
grid over and one that is not, with its counter and its parent; a block to clear, a page with D clear and one with D set. -/
theorem witness_retirement :
    let T := { engTeam [] with threads := [(0, { bootThread with st := .exited })], steer := { bootSteer with st := .done }, grid := 4, gridNo := 7 }
    let s := labWith (.steer 0) T
    let x : GangMem := ⟨1, 2, .attached, false⟩
    let g := { labGrid with desc := { labGrid.desc with ccnt := 0x1000 }, next := [4, 4, 4, 4], parentTeam := some 0 }
    let G := { g with members := [(0, 0)] }
    let c := { bootCtx with pvbase := 0, pvsize := 1, clearing := [(2, 65536)] }
    let sp := { s with ctxs := [(0, c)] }
    let found := fun (s : State) (va : Nat) => match (s.walkSize c 0 va 0).2 with | .found a => some a | _ => none
    s.teamOver 0 T = true ∧ s.teamOver 0 { T with steer := bootSteer } = false ∧ s.teamOver 0 { T with killed := true, steer := bootSteer } = true ∧
    ({ s with txs := [(9, mkTx s 0 (.store 0) 2 5 (.ctx 0 0x77 0) (.store [1]) 0 1 3 false false none ⟨16, 0⟩)] } : State).teamOver 0 { T with killed := true } = false ∧
    s.teamOver 0 { T with gang := some x } = true ∧ T.killed = false ∧ T.gang = none ∧ x.state ≠ .done ∧ x.broken = false ∧
    (∃ m ∈ span 0 x.size, m ≠ x.rank ∧ ∃ H, Map.find? [(4, G)] T.grid = some H ∧ Map.get 0 H.members m = 0) ∧
    s.gridOver 4 g = true ∧ s.gridOver 4 { g with live := 1 } = false ∧ Map.find? s.grids 4 = none ∧ g.coord = s.cfg.aid ∧ g.desc.ccnt ≠ 0 ∧ g.notify = none ∧
    c.clearing = [(2, 65536)] ∧ (∀ y ∈ c.clearing, y.1 ≠ 1) ∧
    (found sp 0).isSome = true ∧ ((found sp 0).map fun a => (sp.pteAt a).d) = some false ∧
    ((found sp 0).map fun a => ((sp.pteAt a).res, sp.setFault ((sp.pteAt a).pa 0))) = some (true, none) ∧ T.pblk = none := by
  refine ⟨by decide +kernel, by decide +kernel, by decide +kernel, by decide +kernel, by decide +kernel, by decide +kernel, by decide +kernel, by decide +kernel,
    by decide +kernel, ⟨0, by decide +kernel, by decide +kernel, _, rfl, by decide +kernel⟩, by decide +kernel⟩

/-- Retirement: a grid over whose parent team is saved, and one whose parent is resident; a member that is done, and whose gang lets it go or not. -/
theorem witness_grid_parent :
    let P := fun (p : Place) => { engTeam [] with steer := { bootSteer with st := .done }, grid := 9, gridNo := 7, place := p, children := [4] }
    let g := { labGrid with next := [4, 4, 4, 4], parentTeam := some 0, killedTeam := true }
    let s := fun p => { labWith (.steer 0) (P p) with grids := [(4, g)] }
    let x : GangMem := ⟨1, 2, .done, false⟩
    let T := { P (.resident 0 0) with gang := some x }
    (s .saved).gridOver 4 g = true ∧ (s (.resident 0 0)).gridOver 4 g = true ∧ (∀ u U, g.parentTeam = some u → (s (.resident 0 0)).team? u = some U → U.place ≠ .saved) ∧
    (s .saved).team? 0 = some (P .saved) ∧ x.state = .done ∧
    ({ labWith (.steer 0) T with grids := [(9, { labGrid with members := [(0, 2)] })] } : State).gangLets T x = true ∧
    ({ labWith (.steer 0) T with grids := [(9, { labGrid with members := [(0, 0)] })] } : State).gangLets T x = false :=
  ⟨by decide +kernel, by decide +kernel, (fun u U h1 h2 => by cases h1; cases h2; decide), by decide +kernel, by decide +kernel, by decide +kernel, by decide +kernel⟩

/-- Retirement: a page whose entry has D set. -/
theorem witness_clear_page :
    let s := lab (.steer 0)
    let found := fun (s : State) => match (s.walkSize bootCtx 0 0 0).2 with | .found a => some a | _ => none
    let s1 := fun (a : Nat) => ({ s with mem := Memory.set s.mem (a + 7) (Memory.get s.mem (a + 7) ||| 0x40) } : State)
    ((found s).map fun a => (decide (found (s1 a) = some a), ((s1 a).pteAt a).d, ((s1 a).pteAt a).res, (s1 a).setFault (((s1 a).pteAt a).pa 0))) = some (true, true, true, none) := by decide +kernel

/-- Retirement: a faulted command and one that is not, a live thread and none; a grid by its number and none; descendants of a grid. -/
theorem witness_kills :
    let r : FaultRec := ⟨0x11, 2, 0, 5, 16, 0, 0, 0, 0, 0, 0, 0⟩
    let T := { engTeam [(5, copyEntry (.faulted r) []), (6, copyEntry .queued [])] with grid := 4, gridNo := 7 }
    let s := { labWith (.steer 0) T with grids := [(4, labGrid)] }
    let s7 := { s with ctl := { s.ctl with fltgrid := 7 } }
    let x : FltTarget := ⟨0, 2, 5, 0⟩
    s7.ctl.jobs = [] ∧ s7.fltTeam x s7.ctl.fltgrid = some (0, T) ∧ (s.fltTeam x s.ctl.fltgrid).isNone = true ∧ (s7.fromSlot 0).team? 0 = some T ∧
    s7.killOpen [0] none = false ∧
    ({ s7 with txs := [(9, mkTx s 0 (.store 0) 2 5 (.ctx 0 0x77 0) (.store [1]) 0 1 3 false false none ⟨16, 0⟩)] } : State).killOpen [0] (some 0) = true ∧
    T.killed = false ∧ Map.find? T.eng 5 = some (copyEntry (.faulted r) []) ∧ (copyEntry (.faulted r) []).cmd.src = 2 ∧
    (copyEntry (.faulted r) []).st.isFaulted = true ∧ (copyEntry .queued []).st.isFaulted = false ∧ Map.find? T.eng 7 = none ∧
    T.thread? 0 = some bootThread ∧ bootThread.live = true ∧ ({ bootThread with st := .exited } : Thread).live = false ∧ (T.thread? 1).isNone = true ∧
    List.find? (fun (e : Nat × Grid) => e.2.ctx == x.ctx && e.2.no == s7.ctl.fltgrid) s7.grids = some (4, labGrid) ∧
    List.find? (fun (e : Nat × Grid) => e.2.ctx == x.ctx && e.2.no == s.ctl.fltgrid) s.grids = none ∧ 4 ∈ s7.descendants 4 11 := by decide +kernel

/-- The cell of a request, and of a reply, that are ready. -/
def labCells : List Cell := [⟨.tx 9, 3, 5, 0, true⟩, ⟨.reply .ack, 1, 5, 0, true⟩]

/-- PodEvents: a station that is up and one with DUP; slots with a cell of a request, of a reply, and without; a fresh entry; the medians of a station
that is up and of one that is not; the fourth good beacon at both ends of the period; a period missed and not; a beacon 20 ns off; 10 µs without one
and just less. -/
theorem witness_pod :
    let x := mkTx (lab (.steer 0)) 0 (.store 0) 2 5 (.ctx 0 0x77 0) (.store [1]) 0 1 3 false false none ⟨16, 0⟩
    let pod := { Pod.reset with up := 3, reach := [(0, [5])], goodRun := 3, lastMedian := some 1000, delay := [(0, 7)] }
    let s := fun cs => { (lab (.steer 0)) with pod := pod, txs := [(9, x)], cells := cs, clock := usTicks 10 }
    let t := s labCells
    t.portsOpen = true ∧ ({ t with mgmt := { t.mgmt with trip := true } } : State).portsOpen = false ∧
    t.pod.up.getLsbD 0 = true ∧ t.pod.up.getLsbD 2 = false ∧ ({ pod with dup := 1 } : Pod).dup.getLsbD 0 = true ∧ pod.dup.getLsbD 0 = false ∧
    ((s (labCells.take 1)).settleCells.slotCell 0 (slotAt t.dtime.toNat)).map (fun c => (c.1.item, c.2)) = some (.tx 9, true) ∧
    (t.settleCells.slotCell 0 (slotAt t.dtime.toNat)).map (fun c => (c.1.item, c.2)) = some (.reply .ack, true) ∧
    (t.settleCells.slotCell 1 (slotAt t.dtime.toNat)).isNone = true ∧ (Map.find? t.txs 9).isSome = true ∧
    Map.get 0 t.pod.lastSlot 0 ≠ slotAt t.dtime.toNat + 1 ∧ t.pod.slotmap.length = 4 ∧
    t.pod.median [(0, 993), (2, 5)] = some 1000 ∧ (∀ b ∈ [(2, (5 : DWord))], t.pod.up.getLsbD b.1 = false) ∧
    t.pod.acquired = false ∧ t.pod.goodRun = 3 ∧ (1000 + 980 ≤ 1980 ∧ 2020 ≤ 1000 + 1020) ∧ Pod.reset.goodRun < 3 ∧
    t.missedBeacon = true ∧ ({ t with clock := nsTicks 1500 } : State).missedBeacon = false ∧
    (t.dtime.toNat ≤ (20 : DWord).toNat + 20 ∧ (20 : DWord).toNat ≤ t.dtime.toNat + 20) ∧
    (0 + usTicks 10 ≤ t.clock ∧ t.clock < 1 + usTicks 10) ∧ Pod.reset.slotPending.Pairwise (fun a b => a.1 ≤ b.1) := by decide +kernel

/-- PodEvents: a slot with the cell of a message. -/
theorem witness_message_cell :
    let pod := { Pod.reset with up := 3, reach := [(0, [5])] }
    let m : Out := .gangAnswer 5 0x80500000 1 true
    let s := { (lab (.steer 0)) with pod := pod, cells := [⟨.message m, 2, 5, 0, true⟩] }
    (s.settleCells.slotCell 0 (slotAt s.dtime.toNat)).map (fun c => (c.1.item, c.2)) = some (.message m, true) := by decide +kernel

/-- PodEvents: a slot that names class 3, for which a cell is ready. -/
theorem witness_slot_entry :
    let x := mkTx (lab (.steer 0)) 0 (.store 0) 2 5 (.ctx 0 0x77 0) (.store [1]) 0 1 3 false false none ⟨16, 0⟩
    let pod := { Pod.reset with up := 3, reach := [(0, [5])], inForce := [7, 0, 0, 0] }
    let s := { (lab (.steer 0)) with pod := pod, txs := [(9, x)], cells := labCells }
    slotEntry (s.pod.mapAt s.dtime.toNat) (slotAt s.dtime.toNat % 64) = some 3 ∧ s.readyCell 0 3 = some ⟨.tx 9, 3, 5, 0, true⟩ := by decide +kernel

/-- PodTransactions: an access that waits for its answer and one that has it, to another K9 and to this one, whose answer is `wait` or not, kept
behind a record's thread that went on; its timeout at 100 µs and just before; traffic of another format, with the drop count at its end; an access of
a FREE context; a receive queue that is empty, one with 255 and one with 256 cells; 4,095 and 4,096 credit entries; a station that is down. -/
theorem witness_transactions :
    let x := { mkTx (lab (.steer 0)) 0 (.store 0) 2 5 (.ctx 0 0x77 0) (.store [1]) 0 1 3 false false none ⟨16, 0⟩ with station := some 0 }
    let y := { x with target := 0 }
    let s := { labWin (.steer 0) (engTeam []) with txs := [(9, x), (10, y)], clock := usTicks 100, pod := { Pod.reset with up := 1 } }
    let full := { s with credits := (span 0 4096).map fun k => ⟨5, 1, k, 0, 0⟩ }
    let inTx : InTx := ⟨5, 0, .ctx 0 0x77 0, .store [1]⟩
    let filled := fun n => { s with rxq := [(queueAt 0 3, List.replicate n inTx)] }
    let boxed : InTx := ⟨5, 0, .box 0 0x77 1 0, .record (List.replicate 64 0)⟩
    let box := { labWin (.steer 0) { engTeam [] with place := .saved } with boxes := [(1, ⟨0, 0, [(5, 1)]⟩)] }
    Map.find? s.txs 9 = some x ∧ x.answer = none ∧ s.answerable 9 x = true ∧ x.own s.cfg.aid = false ∧ y.own s.cfg.aid = true ∧
    ({ x with station := none } : Tx).answer = none ∧ s.answerable 9 { x with station := none } = false ∧
    x.belies (.fault Code.windowKey 0) = false ∧ ({ x with ahead := true } : Tx).belies (.fault Code.windowKey 0) = true ∧
    (match (s.arrive (s.ownTx y)).2 with | some .ack => true | _ => false) = true ∧
    (match (box.arrive boxed).2 with | none => true | some r => decide (r = .wait)) = true ∧
    Map.find? s.txs 8 = none ∧ ({ x with answer := some .ack } : Tx).answer.isSome = true ∧ x.split = false ∧ x.told = false ∧ x.ahead = false ∧
    (x.sentAt + usTicks 100 ≤ s.clock ∧ s.clock < ({ x with sentAt := 1 } : Tx).sentAt + usTicks 100) ∧
    s.portsOpen = true ∧ s.pod.up.getLsbD 0 = true ∧ s.pod.up.getLsbD 1 = false ∧
    (match (s.arrive inTx).2 with | some .ack => true | _ => false) = true ∧ inTx.op.isNote = false ∧
    (s.inbound ⟨5, 0, .ctx 0xFFF 0x77 0, .store [1]⟩).2 = some (.fault Code.windowKey 0) ∧ Map.find? s.ctxs 0xFFF = none ∧
    InTx.formatOk inTx = true ∧ InTx.formatOk ⟨5, 0, .ctx 0 0x77 0, .store []⟩ = false ∧ InTx.formatOk ⟨5, 0, .ctx 0 0x77 2, .load 4 false⟩ = false ∧
    Map.get [] s.rxq (queueAt 0 3) = [] ∧ (Map.get [] (filled 255).rxq (queueAt 0 3)).length < 256 ∧ 256 ≤ (Map.get [] (filled 256).rxq (queueAt 0 3)).length ∧
    ({ Pod.reset with drop := 0xFFFFFFFF } : Pod).drop = 0xFFFFFFFF ∧ Pod.reset.drop ≠ 0xFFFFFFFF ∧
    (s.addCredit 5 0 1 4).isSome = true ∧ full.credits.length = 4096 ∧ full.addCredit 5 0 1 4 = none ∧ (full.addCredit 5 1 4095 4).isSome = true ∧
    (∀ e ∈ s.txs, e.2.ahead = false) := by
  decide +kernel

/-- PodTransactions: no thread parked in RWSEND and one that is; a record on its way ahead of a notice that the box is closed, and none; an access that is
answered by `nonres`; a request of each kind for a context that is FREE. -/
theorem witness_boxes :
    let s := labWith (.steer 0) (engTeam [])
    let T := engTeam []
    let th := { bootThread with st := .parked (.send ⟨8, 2, 1, .b32, 0, 1, false, false⟩ 5 0 0x77 1 0) }
    let x := { mkTx s 0 (.record 0) 2 5 (.box 0 0x77 1 64) (.record []) 0 64 1 false false none ⟨16, 0⟩ with ahead := true }
    (∀ e ∈ s.teams, ∀ y ∈ e.2.threads, ∀ m a c k b w, y.2.st ≠ .parked (.send m a c k b w)) ∧ (∃ q, th.st = .parked q) ∧ s.team? 0 = some T ∧
    s.recordAhead 5 0 1 = false ∧ ({ s with txs := [(9, x)] } : State).recordAhead 5 0 1 = true ∧ (∀ e ∈ s.txs, e.2.ahead = false) ∧
    (∃ k f, (TxOp.load 4 false) = .load k f) ∧ Map.find? s.ctxs 0xFFF = none :=
  ⟨(fun e he y hy m a c k b w h => by
      rw [show (labWith (.steer 0) (engTeam [])).teams = [(0, engTeam [])] from rfl, List.mem_singleton] at he
      subst he
      rw [show (engTeam []).threads = [(0, bootThread)] from rfl, List.mem_singleton] at hy
      subst hy
      cases h), ⟨_, rfl⟩, rfl, by decide +kernel, by decide +kernel, by decide +kernel, ⟨4, false, rfl⟩, by decide +kernel⟩

/-- HostEvents: a connection with a memory and a control region, with one key for both, and none; a write within a line at both of its ends and one
behind memory; a line that answers and one that does not; a register offset that is aligned and one that is not; a ring whose tail has moved for 1 µs
and just less; a request that is served line by line, in its last line and before it. -/
theorem witness_host :
    let c := connOf (leBytes 64 0)
    let d : Conn := { c with valid := true, dmr := true, dmrw := true, dcs := true, dmrkey := 1, dcskey := 2 }
    let r := { Ring.reset with tail := 4, notified := 0, noteAt := some 0 }
    let s := { lab (.steer 0) with conns := [(1, d)], rrq := r, flt := r, clock := usTicks 1 }
    s.portsOpen = true ∧ s.conn? 1 = some d ∧ s.conn? 0 = none ∧ s.conn? 2 = none ∧
    d.region 1 = some .memory ∧ d.region 2 = some .control ∧ d.region 3 = none ∧ ({ d with dcskey := 1 } : Conn).region 1 = none ∧
    ({ d with dmrw := false } : Conn).dmrw = false ∧ (0x10000 % 128 + 128 ≤ 128 ∧ 0x1007F % 128 + 1 ≤ 128) ∧ 2 ^ 39 < (2 ^ 39 - 1) + 2 ∧
    s.lineFault 0x10000 = none ∧ ({ s with poison := [0x10000 / 128] } : State).lineFault 0x10000 ≠ none ∧
    (match (s.readPhys 0x10000 8).2 with | some bs => bs.length | none => 0) = 8 ∧
    (State.readPhys { s with poison := [0x10000 / 128] } 0x10000 8).2 = none ∧
    (0xFFFFFFF8 + 8 ≤ 2 ^ 32) ∧ 4 % 8 ≠ 0 ∧ s.rrq.due s.clock = true ∧ s.flt.due s.clock = true ∧ s.rrq.due (s.clock - 1) = false ∧
    s.named 0 7 0 = none ∧ 0x4000000 ≤ s.cfg.dbbase ∧
    ({ s with lineJobs := [⟨.inl 1, true, 0x1007F, [1, 2], 2⟩] } : State).lineJobs = [⟨.inl 1, true, 0x1007F, [1, 2], [(1 : Byte), 2].length⟩] ∧
    min (128 - 0x1007F % 128) 2 < 2 ∧ 2 ≤ min (128 - 0x10000 % 128) 2 ∧ s.lineFault 0x1007F = none ∧
    (s.readPhys 0x1007F 1).2 = some (s.bytes 0x1007F 1) := by decide +kernel

/-- HostEvents: a team that TSQ names. -/
theorem witness_named :
    let T := { engTeam [] with grid := 4, gridNo := 7 }
    ({ labWith (.steer 0) T with grids := [(4, labGrid)] } : State).named 0 7 0 = some (0, T) := by decide +kernel

/-- ManagementEvents: no legal record in flash, and a start of each kind; a set that is PRES, LOST and neither; a peer that is listed and none;
payloads at the ends of their ranges; a team named by MSAVE and none; 105 and 115 °C; 3 and 4 connections. -/
theorem witness_management :
    let h : BitVec 128 := 0x20010db8
    let T := { engTeam [] with grid := 4, gridNo := 7 }
    let s0 := { labWith (.steer 0) T with grids := [(4, labGrid)] }
    let s := { s0 with cfg := { s0.cfg with hosts := [h, 0, 0, 0] }, mgmt := { s0.mgmt with accepted := true, conns := [(0, h), (1, 1)] } }
    let q := fun (p : List Byte) => (⟨0, 1, p⟩ : MgmtReq)
    s.mgmt.starting = none ∧ s.ctl.jobs = [] ∧ s.listed 0 = true ∧ s.listed 1 = false ∧ ({ s with mgmt := { s.mgmt with starting := some true } } : State).mgmt.starting.isSome = true ∧
    s.startCfg.isSome = true ∧ (s.bank 0).state ≠ 4 ∧ ({ s with banks := [(0, { Bank.reset with state := 4 })] } : State).bank 0 = { Bank.reset with state := 4 } ∧
    fld (q (leBytes 8 2)).payload 0 4 ≤ 2 ∧ 2 < fld (q (leBytes 8 3)).payload 0 4 ∧ (q (leBytes 32 0)).payload.length = 32 ∧
    fld (q (leBytes 8 1)).payload 0 8 < 2 ∧ 2 ≤ fld (q (leBytes 8 2)).payload 0 8 ∧
    (let p := leBytes 8 (8 * 2 ^ 32) ++ leBytes 8 0x10000
     p.length = 16 ∧ fld p 1 3 = 0 ∧ 1 ≤ fld p 4 4 ∧ fld p 4 4 ≤ 65536 ∧ ¬ s.spaceEnd 0 < 0x10000 + 8 ∧ s.spaceEnd 0 < 2 ^ 39 + 8) ∧
    1 ≤ fld (leBytes 8 1 ++ leBytes 64 0) 0 8 ∧ (leBytes 8 1 ++ leBytes 64 0).length = 72 ∧ fld (leBytes 8 4095 ++ leBytes 32 0) 0 8 ≤ 4095 ∧
    s.mgmtTeam (q (leBytes 16 (7 * 2 ^ 32))) = some (0, T) ∧ s.mgmtTeam (q (leBytes 16 (8 * 2 ^ 32))) = none ∧ T.gang = none ∧ T.core?.isSome = true ∧
    ({ T with place := .saved } : Team).core? = none ∧ T.mheld = false ∧ s.mgmt.rails.length = 4 ∧ (105 ≤ 105 ∧ 115 ≤ 115 ∧ 114 < 115) ∧
    [h, h, h].length < 4 ∧ 4 ≤ [h, h, h, h].length := by decide +kernel

/-- ManagementEvents: the delivered firmware, which step 1 accepts, and a sealed one, as the ROM's key verifies it; a set that lost its table while
OFF, one that is kept by a warm start; four open connections and three; a frame's MAGIC and OPs; a response that waits for a save, on the connection
and on another. -/
theorem witness_management_state :
    let h : BitVec 128 := 0x20010db8
    let s := State.reset
    let b := fun x : Bank => ({ s with banks := [(0, x)] } : State)
    let c := fun k => ({ s with mgmt := { s.mgmt with conns := (span 0 k).map fun i => (i, h) } } : State)
    let a : MgmtAns := ⟨0, 5, 9, [0], none, none, 0, []⟩
    s.mgmt.verified = true ∧ (∀ bs, Config.slhVerifies Config.romKey bs = false → ({ s.mgmt with flash := [(0, bs)] } : Mgmt).verified = false) ∧
    ((b { Bank.reset with state := 0, rlost := true }).bank 0).rlost = true ∧
    ((b { Bank.reset with state := 1, pres := true }).bank 0).pres = true ∧ ((b { Bank.reset with state := 1, pres := true }).bank 0).rlost = false ∧
    (∀ e ∈ (c 4).mgmt.conns, e.1 < 4) ∧ (∀ n ∈ span 0 4, ((c 4).peerOf n).isSome = true) ∧ (c 3).peerOf 3 = none ∧ ((c 4).peerOf 4).isSome = false ∧
    (0x4D51 : BitVec 16) ≠ 0x4D52 ∧ 10 < (11 : BitVec 16).toNat ∧ a.due s.gangSaved = false ∧ a.conn = 0 ∧ a.conn ≠ 1 ∧
    s.mgmt.rails.length = 4 ∧ 0x4000000 ≤ s.cfg.dbbase ∧ channels ≠ 0 := by
  refine ⟨by decide +kernel, fun bs hb => ?_, by decide +kernel, by decide +kernel, by decide +kernel, by decide +kernel, by decide +kernel, by decide +kernel,
    by decide +kernel, by decide, by decide, by decide +kernel, by decide, by decide, by decide +kernel, by decide +kernel, by decide⟩
  simp [Mgmt.verified, Map.find?, hb]

/-- ManagementEvents: a record that no key makes legal; a draw above the cap. -/
theorem witness_refused_record (s : State) :
    ({ s with mgmt := { s.mgmt with flash := [(2, [])] } } : State).startCfg = none ∧ min (4 : BitVec 16).toNat (Config.railRating 0) < (5 : BitVec 16).toNat :=
  ⟨if_neg (by rw [show Mgmt.recordGood _ [] = (_ && false) from rfl, Bool.and_false]; exact Bool.false_ne_true), Nat.lt_of_le_of_lt (Nat.min_le_left _ _) (by decide)⟩

/-- StepRunsTheDecodedInstruction: an empty agenda, an event and a join's deadline, which is none; no held store; the turn of a steering thread and of
a wave at their first word, the device filled as the host fills it. -/
theorem witness_turns :
    let s := State.reset.boot 32 0x0060007F
    State.reset.agenda = [] ∧ isEvent .coldStart = true ∧ isEvent (.joinTimeout 0 0) = false ∧ isFault .coldStart = false ∧ s.pending = [] ∧
    (step State.reset matches .next _) = true ∧ (step s matches .next _) = true ∧
    bootSteer.fences = [] ∧ (Map.get (0, 0) s.steerPtr 0).2 ≠ s.clock + 1 ∧ Machine.Instr.fenced .snop = false ∧
    Machine.Instr.fenced (.sst 20 2 .b16 0 none) = true ∧
    ({ bootSteer with fences := [⟨5, true, .dev⟩] } : Steer).fences.any (({ s with teams := [(0, engTeam [(0, copyEntry .queued [])])] } : State).fenceOpen 0
      (engTeam [(0, copyEntry .queued [])])) = true := by decide +kernel

/-- EncodeThenDecode: a well-formed instruction of each encoded stream. -/
theorem witness_encode :
    (Instr.icmp .lt 2 ⟨4, false, .imm 0x64⟩).wf = true ∧ (Instr.icmp .lt 2 ⟨4, false, .imm 0x64⟩).stream ≠ .event ∧
    (Instr.ssel ⟨5, 6, .reg 7⟩ 2 true).wf = true ∧ (Instr.ssel ⟨5, 6, .reg 7⟩ 2 true).stream ≠ .event := by decide +kernel

/-- PairAdditions, BitCounts: an even and an odd register, and operands at which the counts have their corner values. -/
theorem witness_pairs :
    (126 : Reg).toNat % 2 = 0 ∧ (127 : Reg).toNat % 2 ≠ 0 ∧ (30 : SReg).toNat % 2 = 0 ∧ (31 : SReg).toNat % 2 ≠ 0 ∧ (0 : Word) ≠ 1 := by decide

/-- StepRunsTheDecodedInstruction: a word of the resident team's code, read with no store before it, and stored to. -/
theorem witness_old_code :
    let s := State.reset.boot 32 0x0060007F
    let T := bootTeam 1
    s.team? 0 = some T ∧ (s.judgeLoad T.ctx T.cluster false 68).2 = .ok (bootPa + 68) false ∧ s.oldCode = [] ∧
    s.overwritten (bootPa + 68) 4 = [⟨0, (bootPa + 68) / 4, 0x0060007F⟩] ∧
    (s.store (bootPa + 68) [0, 0, 0, 0]).oldCode = [⟨0, (bootPa + 68) / 4, 0x0060007F⟩] ∧
    (s.store (bootPa + 72) [0, 0, 0, 0]).oldCode = [] := by decide +kernel
end Sys2Proof.Tests
end

section
/-! The pair additions (R260, R304) and the bit counts (R253): the fields of a word that is laid out by its format, what the decoder answers for
it, and what the instructions compute. -/

namespace Sys2Proof.Laws.PairsAndCounts

open Sys2Proof.Dec Sys2Proof.Machine

/-! ## The fields of a word laid out by its format (R177, R183) -/

/-- The lowest field of a word. -/
theorem extractLsb'_append_low {m n : Nat} (hi : BitVec m) (lo : BitVec n) : (hi ++ lo).extractLsb' 0 n = lo := by
  rw [BitVec.extractLsb'_append_eq_of_add_le (Nat.zero_add n).le, BitVec.extractLsb'_eq_self]

@[simp] theorem ofBool_beq_one (c : Bool) : (BitVec.ofBool c == 1#1) = c := by cases c <;> rfl

section RWord

variable (o d a b : BitVec 7) (g ha hb x : Bool)

@[simp] theorem op_rWord : op (rWord o g d a b ha hb x) = o := extractLsb'_append_low _ o

@[simp] theorem fD_rWord : fD (rWord o g d a b ha hb x) = d := by
  simp only [fD, bits, rWord, BitVec.extractLsb'_append_eq_of_le, Nat.le_refl, Nat.sub_self, extractLsb'_append_low]

@[simp] theorem fA_rWord : fA (rWord o g d a b ha hb x) = a := by
  simp only [fA, bits, rWord, BitVec.extractLsb'_append_eq_of_le, Nat.le_refl, Nat.reduceLeDiff, Nat.reduceSub, extractLsb'_append_low]

@[simp] theorem fB_rWord : fB (rWord o g d a b ha hb x) = b := by
  simp only [fB, bits, rWord, BitVec.extractLsb'_append_eq_of_le, Nat.le_refl, Nat.reduceLeDiff, Nat.reduceSub, extractLsb'_append_low]

@[simp] theorem fHA_rWord : fHA (rWord o g d a b ha hb x) = ha := by
  simp only [fHA, bit, rWord, BitVec.extractLsb'_append_eq_of_le, Nat.le_refl, Nat.reduceLeDiff, Nat.reduceSub, extractLsb'_append_low,
    ofBool_beq_one]

@[simp] theorem fHB_rWord : fHB (rWord o g d a b ha hb x) = hb := by
  simp only [fHB, bit, rWord, BitVec.extractLsb'_append_eq_of_le, Nat.le_refl, Nat.reduceLeDiff, Nat.reduceSub, extractLsb'_append_low,
    ofBool_beq_one]

@[simp] theorem fX_rWord : fX (rWord o g d a b ha hb x) = x := by
  simp only [fX, bit, rWord, BitVec.extractLsb'_append_eq_of_le, Nat.le_refl, Nat.reduceLeDiff, Nat.reduceSub, BitVec.extractLsb'_eq_self,
    ofBool_beq_one]

end RWord

section SWord

variable (o : BitVec 7) (d a b : SReg) (md : BitVec 5) (g x : Bool)

@[simp] theorem op_sWord : op (sWord o g d a b md x) = o := extractLsb'_append_low _ o

@[simp] theorem sD_sWord : sD (sWord o g d a b md x) = d := by
  simp only [sD, bits, sWord, BitVec.extractLsb'_append_eq_of_le, Nat.le_refl, Nat.sub_self, extractLsb'_append_low]

@[simp] theorem sA_sWord : sA (sWord o g d a b md x) = a := by
  simp only [sA, bits, sWord, BitVec.extractLsb'_append_eq_of_le, Nat.le_refl, Nat.reduceLeDiff, Nat.reduceSub, extractLsb'_append_low]

@[simp] theorem sB_sWord : sB (sWord o g d a b md x) = b := by
  simp only [sB, bits, sWord, BitVec.extractLsb'_append_eq_of_le, Nat.le_refl, Nat.reduceLeDiff, Nat.reduceSub, extractLsb'_append_low]

@[simp] theorem sMOD_sWord : sMOD (sWord o g d a b md x) = md := by
  simp only [sMOD, bits, sWord, BitVec.extractLsb'_append_eq_of_le, Nat.le_refl, Nat.reduceLeDiff, Nat.reduceSub, extractLsb'_append_low]

@[simp] theorem fX_sWord : fX (sWord o g d a b md x) = x := by
  simp only [fX, bit, sWord, BitVec.extractLsb'_append_eq_of_le, Nat.le_refl, Nat.reduceLeDiff, Nat.reduceSub, BitVec.extractLsb'_eq_self,
    ofBool_beq_one]

end SWord

/-! ## Even registers -/

/-- The lowest bit of a number is clear exactly when the number is even. -/
theorem lowestBit_beq_zero {w : Nat} (r : BitVec w) : (r.extractLsb' 0 1 == 0#1) = decide (r.toNat % 2 = 0) := by
  rw [Bool.eq_iff_iff, beq_iff_eq, decide_eq_true_iff, ← BitVec.toNat_inj]
  simp

theorem evenReg_eq (r : Reg) : evenReg r = decide (r.toNat % 2 = 0) := lowestBit_beq_zero r

theorem evenS_eq (r : SReg) : evenS r = decide (r.toNat % 2 = 0) := lowestBit_beq_zero r

/-! ## What the decoder answers when it accepts a word under a condition (R193, R194) -/

section Decoder

variable {w : Word} {x : Option Word} {c : Prop} [Decidable c] {i : Instr}

theorem ok_of (hc : c) : ok (decide c) i = some i := by simp [ok, hc]

theorem ok_of_not (hc : ¬c) : ok (decide c) i = none := by simp [ok, hc]

theorem ok_eq_of_iff {q : Bool} (h : q = true ↔ c) : ok q i = ok (decide c) i := by simp [ok, h]

theorem bind_ok_wf (k : Instr) (q : Bool) : ((ok q k).bind fun i => ok i.wf i) = ok (q && k.wf) k := by cases q <;> simp [ok]

theorem decode_lane_of_ok (ho : laneOp (op w).toNat = true) (h : lane w x = ok (decide c) i) (hc : c) : decode .lane w x = .ok i := by
  simp [decode, ho, h, ok_of hc]

theorem decode_steer_of_ok (ho : steerOp (op w).toNat = true) (h : steer w x = ok (decide c) i) (hc : c) : decode .steer w x = .ok i := by
  simp [decode, ho, h, ok_of hc]

theorem instr_of_error {st : Stream} {r : Reject} (h : decode st w x = .error r) :
    (Slot.word w x).instr st = .reservedEncoding Code.reservedOp := by
  simp [Slot.instr, h]

theorem instr_lane_of_not_ok (ho : laneOp (op w).toNat = true) (h : lane w x = ok (decide c) i) (hc : ¬c) :
    (Slot.word w x).instr .lane = .reservedEncoding Code.reservedOp :=
  instr_of_error (r := .field) (by simp [decode, ho, h, ok_of_not hc])

theorem instr_steer_of_not_ok (ho : steerOp (op w).toNat = true) (h : steer w x = ok (decide c) i) (hc : ¬c) :
    (Slot.word w x).instr .steer = .reservedEncoding Code.reservedOp :=
  instr_of_error (r := .field) (by simp [decode, ho, h, ok_of_not hc])

/-- A lane word below opcode 0x20 whose X bit tells of its extension word is decoded as an integer instruction. -/
theorem lane_eq_laneInt (hx : fX w = x.isSome) (ho : (op w).toNat < 0x20) : lane w x = laneInt w x := by simp [lane, hx, ho]

/-- A steering word below opcode 0x16 whose X bit tells of its extension word is decoded as a scalar instruction. -/
theorem steer_eq_steerInt (hx : fX w = x.isSome) (ho : (op w).toNat < 0x16) : steer w x = steerInt w x := by
  have he : isE (op w).toNat = false := by simp only [isE, Bool.or_eq_false_iff, beq_eq_false_iff_ne]; omega
  simp [steer, hx, he, ho]

theorem int3_reg (k : R3 → Instr) : Dec.int3 w none k = ok true (k ⟨fD w, fA w, fHA w, .reg (fB w) (fHB w)⟩) := rfl

theorem int3_imm (e : Word) (k : R3 → Instr) (hb : fHB w = false) :
    Dec.int3 w (some e) k = ok (fB w == 0) (k ⟨fD w, fA w, fHA w, .imm e⟩) := by
  simp [Dec.int3, src, r3, hb]

theorem s3_reg (k : S3 → Instr) : Dec.s3 w none k = ok (sMOD w == 0) (k ⟨sD w, sA w, .reg (sB w)⟩) := rfl

theorem s3_imm (e : Word) (k : S3 → Instr) : Dec.s3 w (some e) k = ok (sB w == 0 && sMOD w == 0) (k ⟨sD w, sA w, .imm e⟩) := by
  by_cases hb : sB w = 0#6
  · simp [Dec.s3, ssrc, hb]
  · simp [Dec.s3, ssrc, hb, ok]

/-- R260: the pairs that an IADD64 names begin at even registers. -/
theorem wf_iadd64 (o : R3) : (Instr.iadd64 o).wf = (evenReg o.d && evenReg o.a && o.b.evenB) := rfl

/-- R304: the pairs that an SADD64 names begin at even registers. -/
theorem wf_sadd64 (o : S3) : (Instr.sadd64 o).wf = (evenS o.d && evenS o.a && o.b.evenB) := rfl

theorem laneInt_iadd64 (ho : op w = 0x19) : laneInt w x = (Dec.int3 w x .iadd64).bind fun i => ok i.wf i := by simp [laneInt, ho]

theorem steerInt_sadd64 (ho : op w = 0x12) : steerInt w x = (Dec.s3 w x .sadd64).bind fun i => ok i.wf i := by simp [steerInt, ho]

/-- The bit counts: opcode and instruction. -/
def bitCountForms : List (BitVec 7 × (R2 → Instr)) := [(0x12#7, .popc), (0x13#7, .clz), (0x14#7, .brev)]

theorem laneInt_bitCount {k : BitVec 7 × (R2 → Instr)} (hk : k ∈ bitCountForms) (ho : op w = k.1) : laneInt w x = Dec.int2 w x k.2 := by
  simp only [bitCountForms, List.mem_cons, List.not_mem_nil, or_false] at hk
  obtain rfl | rfl | rfl := hk
  · simp [laneInt, ho]
  · simp [laneInt, ho]
  · simp [laneInt, ho]

theorem opcode_of_bitCount {k : BitVec 7 × (R2 → Instr)} (hk : k ∈ bitCountForms) : laneOp k.1.toNat = true ∧ k.1.toNat < 0x20 := by
  simp only [bitCountForms, List.mem_cons, List.not_mem_nil, or_false] at hk
  obtain rfl | rfl | rfl := hk <;> decide

end Decoder

/-! ## The words of the pair additions and of the bit counts -/

theorem lane_iadd64_reg (g : Bool) (d a b : Reg) (ha hb : Bool) :
    lane (rWord 0x19 g d a b ha hb false) none =
      ok (decide (d.toNat % 2 = 0 ∧ a.toNat % 2 = 0 ∧ b.toNat % 2 = 0)) (.iadd64 ⟨d, a, ha, .reg b hb⟩) := by
  rw [lane_eq_laneInt (by simp) (by simp), laneInt_iadd64 (by simp), int3_reg, bind_ok_wf, wf_iadd64]
  simp only [fD_rWord, fA_rWord, fB_rWord, fHA_rWord, fHB_rWord]
  exact ok_eq_of_iff (by simp [Src.evenB, evenReg_eq, and_assoc])

theorem lane_iadd64_imm (g : Bool) (d a : Reg) (m : BitVec 7) (ha : Bool) (x : Word) :
    lane (rWord 0x19 g d a m ha false true) (some x) =
      ok (decide (d.toNat % 2 = 0 ∧ a.toNat % 2 = 0 ∧ m = 0)) (.iadd64 ⟨d, a, ha, .imm x⟩) := by
  rw [lane_eq_laneInt (by simp) (by simp), laneInt_iadd64 (by simp), int3_imm _ _ (by simp), bind_ok_wf, wf_iadd64]
  simp only [fD_rWord, fA_rWord, fB_rWord, fHA_rWord]
  exact ok_eq_of_iff (by simp [Src.evenB, evenReg_eq, and_comm, and_left_comm])

theorem steer_sadd64_reg (g : Bool) (d a b : SReg) (n : BitVec 5) :
    steer (sWord 0x12 g d a b n false) none =
      ok (decide (d.toNat % 2 = 0 ∧ a.toNat % 2 = 0 ∧ b.toNat % 2 = 0 ∧ n = 0)) (.sadd64 ⟨d, a, .reg b⟩) := by
  rw [steer_eq_steerInt (by simp) (by simp), steerInt_sadd64 (by simp), s3_reg, bind_ok_wf, wf_sadd64]
  simp only [sD_sWord, sA_sWord, sB_sWord, sMOD_sWord]
  exact ok_eq_of_iff (by simp [SSrc.evenB, evenS_eq, and_assoc, and_comm, and_left_comm])

theorem steer_sadd64_imm (g : Bool) (d a b : SReg) (n : BitVec 5) (x : Word) :
    steer (sWord 0x12 g d a b n true) (some x) =
      ok (decide (d.toNat % 2 = 0 ∧ a.toNat % 2 = 0 ∧ n = 0 ∧ b = 0)) (.sadd64 ⟨d, a, .imm x⟩) := by
  rw [steer_eq_steerInt (by simp) (by simp), steerInt_sadd64 (by simp), s3_imm, bind_ok_wf, wf_sadd64]
  simp only [sD_sWord, sA_sWord, sB_sWord, sMOD_sWord]
  exact ok_eq_of_iff (by simp [SSrc.evenB, evenS_eq, and_assoc, and_comm, and_left_comm])

theorem lane_bitCount {k : BitVec 7 × (R2 → Instr)} (hk : k ∈ bitCountForms) (g : Bool) (d a b : Reg) (ha hb : Bool) (x : Option Word) :
    lane (rWord k.1 g d a b ha hb x.isSome) x = ok (decide (x = none ∧ b = 0 ∧ hb = false)) (k.2 ⟨d, a, ha⟩) := by
  rw [lane_eq_laneInt (by simp) (by simpa using (opcode_of_bitCount hk).2), laneInt_bitCount hk (by simp), Dec.int2]
  simp only [fD_rWord, fA_rWord, fB_rWord, fHA_rWord, fHB_rWord]
  exact ok_eq_of_iff (by simp [and_assoc])

/-! ## Instructions that are one effect on their own thread -/

section Effects

variable {i : Instr} {regs preds : List Nat}

theorem laneSets_of_laneEff {f : Thread → Thread} (he : ∀ s, exec i s = s.laneEff regs preds f) : LaneSets i regs preds f :=
  fun s _ _ _ _ h => (he s).trans (State.laneEff_ready h f)

theorem laneStops_of_laneEff {f : Thread → Thread} (he : ∀ s, exec i s = s.laneEff regs preds f) : LaneStops i regs preds :=
  fun s _ _ _ _ hc ht hi => ⟨fun hr => (he s).trans (State.laneRun_range hc ht hi hr _),
    fun hr hl => (he s).trans (State.laneRun_shadow hc ht hi hr hl _)⟩

theorem steerSets_of_steerEff {f : Steer → Steer} (he : ∀ s, exec i s = s.steerEff regs f) : SteerSets i regs f :=
  fun s _ _ h => (he s).trans (State.steerEff_ready h f)

end Effects

/-- R260: the sum of the pairs goes to the pair. -/
theorem iadd64_sets (o : R3) : LaneSets (.iadd64 o) ([o.d.toNat, o.d.toNat + 1, o.a.toNat, o.a.toNat + 1] ++ srcPairRegs o.b) []
    fun th => th.setPair o.d.toNat (th.pairAt o.a.toNat + srcPair o.b th) := laneSets_of_laneEff fun _ => rfl

/-- R260, R39: both halves of every pair are checked. -/
theorem iadd64_stops (o : R3) : LaneStops (.iadd64 o) ([o.d.toNat, o.d.toNat + 1, o.a.toNat, o.a.toNat + 1] ++ srcPairRegs o.b) [] :=
  laneStops_of_laneEff (f := fun th => th.setPair o.d.toNat (th.pairAt o.a.toNat + srcPair o.b th)) fun _ => rfl

/-- R304: the sum of the pairs goes to the pair. -/
theorem sadd64_sets (o : S3) : SteerSets (.sadd64 o) ([o.d.toNat, o.d.toNat + 1, o.a.toNat, o.a.toNat + 1] ++ ssrcPairRegs o.b)
    fun st => st.setPair o.d.toNat (st.pairAt o.a.toNat + ssrcPair o.b st) := steerSets_of_steerEff fun _ => rfl

theorem popc_sets (o : R2) : LaneSets (.popc o) [o.d.toNat, o.a.toNat] [] fun th => th.setReg o.d.toNat (Alu.popc (th.reg o.a.toNat)) :=
  laneSets_of_laneEff fun _ => rfl

theorem clz_sets (o : R2) : LaneSets (.clz o) [o.d.toNat, o.a.toNat] [] fun th => th.setReg o.d.toNat (Alu.clz (th.reg o.a.toNat)) :=
  laneSets_of_laneEff fun _ => rfl

theorem brev_sets (o : R2) : LaneSets (.brev o) [o.d.toNat, o.a.toNat] [] fun th => th.setReg o.d.toNat (Alu.brev (th.reg o.a.toNat)) :=
  laneSets_of_laneEff fun _ => rfl

/-! ## What the bit counts compute (R253) -/

theorem popFrom_eq_countP (y : Word) (n : Nat) : Alu.popFrom y n = (List.range n).countP y.getLsbD := by
  induction n with
  | zero => rfl
  | succ n ih => rw [Alu.popFrom, ih, List.range_succ, List.countP_append, List.countP_singleton, Nat.add_comm]

theorem popc_eq_countP (y : Word) : Alu.popc y = BitVec.ofNat 32 ((List.range 32).countP y.getLsbD) :=
  congrArg (BitVec.ofNat 32) (popFrom_eq_countP y 32)

theorem clzFrom_zero (n : Nat) : Alu.clzFrom 0#32 n = n := by
  induction n with
  | zero => rfl
  | succ n ih => simp [Alu.clzFrom, ih, Nat.add_comm]

/-- A word with a 1 among its lowest `n` bits: the zeros above the highest of them are fewer than `n`, and that 1 stands right below them. -/
theorem clzFrom_spec (y : Word) (n : Nat) (h : ∃ i < n, y.getLsbD i = true) :
    Alu.clzFrom y n < n ∧ y.getLsbD (n - 1 - Alu.clzFrom y n) = true ∧ ∀ j, n - 1 - Alu.clzFrom y n < j → j < n → y.getLsbD j = false := by
  induction n with
  | zero => simp at h
  | succ n ih =>
    by_cases hn : y.getLsbD n = true
    · simp only [Alu.clzFrom, hn, if_true]
      exact ⟨n.succ_pos, hn, fun j h1 h2 => by omega⟩
    · have hlow : ∃ i < n, y.getLsbD i = true := by
        obtain ⟨i, hi, hy⟩ := h
        have : i ≠ n := fun e => hn (e ▸ hy)
        exact ⟨i, by omega, hy⟩
      obtain ⟨hlt, hone, hzero⟩ := ih hlow
      have hc : Alu.clzFrom y (n + 1) = 1 + Alu.clzFrom y n := by simp [Alu.clzFrom, hn]
      have hp : n + 1 - 1 - Alu.clzFrom y (n + 1) = n - 1 - Alu.clzFrom y n := by omega
      rw [hp, hc]
      refine ⟨by omega, hone, fun j h1 h2 => ?_⟩
      by_cases hj : j = n
      · simpa [hj] using hn
      · exact hzero j h1 (by omega)

theorem exists_getLsbD_of_ne_zero {y : Word} (h : y ≠ 0) : ∃ i < 32, y.getLsbD i = true := by
  by_contra hn
  push Not at hn
  exact h (BitVec.eq_of_getLsbD_eq fun i hi => by simpa using hn i hi)

/-- The highest 1 of a word that is not 0 stands right below the zeros that are counted, and no 1 stands above it. -/
theorem clzFrom_of_ne_zero {y : Word} (h : y ≠ 0) :
    Alu.clzFrom y 32 < 32 ∧ y.getLsbD (31 - Alu.clzFrom y 32) = true ∧ ∀ j, 31 - Alu.clzFrom y 32 < j → y.getLsbD j = false := by
  obtain ⟨hlt, hone, hzero⟩ := clzFrom_spec y 32 (exists_getLsbD_of_ne_zero h)
  refine ⟨hlt, hone, fun j hj => ?_⟩
  by_cases h32 : j < 32
  · exact hzero j hj h32
  · exact BitVec.getLsbD_of_ge y j (by omega)

theorem getLsbD_brev (y : Word) {i : Nat} (h : i < 32) : (Alu.brev y).getLsbD (31 - i) = y.getLsbD i := by
  rw [Alu.brev, BitVec.getLsbD_reverse, BitVec.getMsbD_eq_getLsbD, decide_eq_true (by omega), Bool.true_and]
  congr 1
  omega

/-! ## The statements -/

/-- Settles O59: each form's decoding condition read off its laid out word, and the sums from the common entries. -/
theorem pairAdditions : Obligations.PairAdditions := by
  intro d a b ha hb g m e f h n x lane steer even bad
  have hl (b : Reg) (hb x : Bool) : laneOp (op (rWord 0x19 g d a b ha hb x)).toNat = true := by rw [op_rWord]; rfl
  have hs (b : SReg) (x : Bool) : steerOp (op (sWord 0x12 g e f b n x)).toNat = true := by rw [op_sWord]; rfl
  exact ⟨
    fun hd ha' hb' => decode_lane_of_ok (hl b hb false) (lane_iadd64_reg g d a b ha hb) ⟨hd, ha', hb'⟩,
    fun hd ha' hm => decode_lane_of_ok (hl m false true) (lane_iadd64_imm g d a m ha x) ⟨hd, ha', hm⟩,
    fun hn => instr_lane_of_not_ok (hl b hb false) (lane_iadd64_reg g d a b ha hb) hn,
    fun hn => instr_lane_of_not_ok (hl m false true) (lane_iadd64_imm g d a m ha x) hn,
    fun o => ⟨iadd64_sets o, iadd64_stops o⟩,
    fun he hf hh hm => decode_steer_of_ok (hs h false) (steer_sadd64_reg g e f h n) ⟨he, hf, hh, hm⟩,
    fun he hf hm => decode_steer_of_ok (hs 0 true) (steer_sadd64_imm g e f 0 n x) ⟨he, hf, hm, rfl⟩,
    fun hn => instr_steer_of_not_ok (hs h false) (steer_sadd64_reg g e f h n) hn,
    fun hn => instr_steer_of_not_ok (hs h true) (steer_sadd64_imm g e f h n x) hn,
    sadd64_sets⟩

/-- Settles O60: the decoding condition common to the three, and each count by induction on the bits that it has looked at. -/
theorem bitCounts : Obligations.BitCounts := by
  intro d a b ha hb g x o word
  refine ⟨fun k hk => ?_, ?_, ⟨fun y => Alu.clzFrom y 32, clz_sets o, clzFrom_zero 32, fun y => clzFrom_of_ne_zero⟩,
    ⟨Alu.brev, brev_sets o, fun y i => getLsbD_brev y⟩⟩
  · have hl (b : Reg) (hb x : Bool) : laneOp (op (rWord k.1 g d a b ha hb x)).toNat = true := by
      rw [op_rWord]; exact (opcode_of_bitCount hk).1
    exact ⟨decode_lane_of_ok (hl 0 false false) (lane_bitCount hk g d a 0 ha false none) ⟨rfl, rfl, rfl⟩,
      fun hn => instr_lane_of_not_ok (hl b hb false) (lane_bitCount hk g d a b ha hb none) (by simpa [imp_iff_not_or] using hn),
      instr_lane_of_not_ok (hl b hb true) (lane_bitCount hk g d a b ha hb (some x)) (by simp)⟩
  · simpa only [popc_eq_countP] using popc_sets o

end Sys2Proof.Laws.PairsAndCounts
end


section
/-! Rules for the operations on the state that the proofs of several families share: what is read after a team or a thread is changed through
the state, after several registers or predicates are written, and in a run of numbers. -/

namespace Sys2Proof.Laws.Rules

open Sys2Proof.Machine

/-! ## Runs of numbers -/

theorem span_eq_range' (lo n : Nat) : span lo n = List.range' lo n := by
  induction n generalizing lo with
  | zero => rfl
  | succ n ih => rw [span, ih, List.range'_succ]

@[simp] theorem mem_span {k lo n : Nat} : k ∈ span lo n ↔ lo ≤ k ∧ k < lo + n := by
  rw [span_eq_range', List.mem_range'_1]

@[simp] theorem span_length (lo n : Nat) : (span lo n).length = n := by rw [span_eq_range', List.length_range']

@[simp] theorem mem_allPreds {k : Nat} : k ∈ allPreds ↔ k < 16 := by simp [allPreds]

/-! ## A team and a thread changed through the state -/

@[simp] theorem find?_modify_self {α : Type} (m : Map α) (k : Nat) (f : α → α) : Map.find? (Map.modify m k f) k = (Map.find? m k).map f := by
  unfold Map.modify
  cases h : Map.find? m k with
  | none => simp [h]
  | some v => simp

@[simp] theorem team?_modTeam (s : State) (t : Nat) (f : Team → Team) : (s.modTeam t f).team? t = (s.team? t).map f := find?_modify_self ..

theorem team?_modTeam_ne (s : State) {t u : Nat} (f : Team → Team) (h : u ≠ t) : (s.modTeam t f).team? u = s.team? u :=
  Map.find?_modify_ne _ _ h

@[simp] theorem thread?_modThread (T : Team) (tid : Nat) (f : Thread → Thread) : (T.modThread tid f).thread? tid = (T.thread? tid).map f :=
  find?_modify_self ..

theorem thread?_modThread_ne (T : Team) {tid u : Nat} (f : Thread → Thread) (h : u ≠ tid) : (T.modThread tid f).thread? u = T.thread? u :=
  Map.find?_modify_ne _ _ h

@[simp] theorem team?_modThread (s : State) (t tid : Nat) (f : Thread → Thread) :
    (s.modThread t tid f).team? t = (s.team? t).map fun T => T.modThread tid f := team?_modTeam ..

/-- Changing a team that is there is replacing it. -/
theorem modTeam_eq {s : State} {t : Nat} {T : Team} (h : s.team? t = some T) (f : Team → Team) : s.modTeam t f = s.setTeam t (f T) := by
  have h' : Map.find? s.teams t = some T := h
  simp [State.modTeam, State.setTeam, Map.modify, h']

/-! ## Several registers and predicates written in turn -/

section Thread

variable (th : Thread) (l : List (Nat × Word)) (ps : List (Nat × Bool))

theorem reg_foldl_setReg_of_not_mem {r : Nat} (h : r ∉ l.map Prod.fst) : (l.foldl (fun y e => y.setReg e.1 e.2) th).reg r = th.reg r := by
  induction l generalizing th with
  | nil => rfl
  | cons e l ih =>
    simp only [List.map_cons, List.mem_cons, not_or] at h
    rw [List.foldl_cons, ih _ h.2, Thread.reg_setReg_ne _ _ h.1]

theorem reg_foldl_setReg_of_mem (h : (l.map Prod.fst).Nodup) {e : Nat × Word} (he : e ∈ l) :
    (l.foldl (fun y e => y.setReg e.1 e.2) th).reg e.1 = e.2 := by
  induction l generalizing th with
  | nil => simp at he
  | cons d l ih =>
    rw [List.map_cons, List.nodup_cons] at h
    rcases List.mem_cons.mp he with rfl | he
    · rw [List.foldl_cons, reg_foldl_setReg_of_not_mem _ _ h.1, Thread.reg_setReg]
    · exact ih _ h.2 he

/-- Writing registers changes nothing but the registers. -/
theorem foldl_setReg_rest : l.foldl (fun y e => y.setReg e.1 e.2) th = { th with v := (l.foldl (fun y e => y.setReg e.1 e.2) th).v } := by
  induction l generalizing th with
  | nil => rfl
  | cons e l ih => exact ih (th.setReg e.1 e.2)

theorem pred_foldl_setPred_of_not_mem {p : Nat} (h : p ∉ ps.map Prod.fst) : (ps.foldl (fun y e => y.setPred e.1 e.2) th).pred p = th.pred p := by
  induction ps generalizing th with
  | nil => rfl
  | cons e l ih =>
    simp only [List.map_cons, List.mem_cons, not_or] at h
    rw [List.foldl_cons, ih _ h.2, Thread.pred_setPred_ne _ _ h.1]

/-- Writing predicates changes nothing but the predicates. -/
theorem foldl_setPred_rest : ps.foldl (fun y e => y.setPred e.1 e.2) th = { th with p := (ps.foldl (fun y e => y.setPred e.1 e.2) th).p } := by
  induction ps generalizing th with
  | nil => rfl
  | cons e l ih => exact ih (th.setPred e.1 e.2)

end Thread

section Steer

variable (st : Steer) (l : List (Nat × Word))

theorem steerReg_foldl_of_not_mem {r : Nat} (h : r ∉ l.map Prod.fst) : (l.foldl (fun y e => y.setReg e.1 e.2) st).reg r = st.reg r := by
  induction l generalizing st with
  | nil => rfl
  | cons e l ih =>
    simp only [List.map_cons, List.mem_cons, not_or] at h
    rw [List.foldl_cons, ih _ h.2, Steer.reg_setReg_ne _ _ h.1]

theorem steerReg_foldl_of_mem (h : (l.map Prod.fst).Nodup) {e : Nat × Word} (he : e ∈ l) :
    (l.foldl (fun y e => y.setReg e.1 e.2) st).reg e.1 = e.2 := by
  induction l generalizing st with
  | nil => simp at he
  | cons d l ih =>
    rw [List.map_cons, List.nodup_cons] at h
    rcases List.mem_cons.mp he with rfl | he
    · rw [List.foldl_cons, steerReg_foldl_of_not_mem _ _ h.1, Steer.reg_setReg]
    · exact ih _ h.2 he

end Steer

end Sys2Proof.Laws.Rules
end

section
/-! Decoding gives back what was encoded (R168, R171, R177-R183, R192): the fields of each format's words, the operand forms, and the
instructions format by format. -/

namespace Sys2Proof.Laws.RoundTrip

open Sys2Proof.Dec Sys2Proof.Laws.PairsAndCounts

/-! ## Words and bytes (R4) -/

theorem wordOf_bytesOf (w : Word) : wordOf (w.extractLsb' 0 8) (w.extractLsb' 8 8) (w.extractLsb' 16 8) (w.extractLsb' 24 8) = w := by
  have h1 : w.extractLsb' 24 8 ++ w.extractLsb' 16 8 = w.extractLsb' 16 16 := BitVec.extractLsb'_append_extractLsb'_eq_extractLsb' rfl
  have h2 : w.extractLsb' 16 16 ++ w.extractLsb' 8 8 = w.extractLsb' 8 24 := BitVec.extractLsb'_append_extractLsb'_eq_extractLsb' rfl
  have h3 : w.extractLsb' 8 24 ++ w.extractLsb' 0 8 = w :=
    (BitVec.extractLsb'_append_extractLsb'_eq_extractLsb' rfl).trans BitVec.extractLsb'_eq_self
  calc wordOf _ _ _ _ = w.extractLsb' 16 16 ++ w.extractLsb' 8 8 ++ w.extractLsb' 0 8 := congrArg (fun y => y ++ _ ++ _) h1
    _ = w.extractLsb' 8 24 ++ w.extractLsb' 0 8 := congrArg (· ++ _) h2
    _ = w := h3

/-- A word and its second word, read back from their bytes, are decoded, and what follows them is left. -/
theorem decodeBytes_withExt {st : Stream} {w : Word} {x : Option Word} {i : Instr} (hx : hasSecond st w = x.isSome)
    (hd : decode st w x = .ok i) (rest : List Byte) : decodeBytes st ((Enc.withExt w x).flatMap bytesOf ++ rest) = .ok (i, rest) := by
  cases x with
  | none => simp [Enc.withExt, bytesOf, decodeBytes, wordOf_bytesOf, hx, hd]
  | some e => simp [Enc.withExt, bytesOf, decodeBytes, wordOf_bytesOf, hx, hd]

/-! ## The fields of the words (Tables 8.1 to 8.6) -/

/-- A field above the lower part of a word lies in its upper part. -/
@[simp] theorem field_above {m n lo len : Nat} (x : BitVec m) (y : BitVec n) (h : n ≤ lo) :
    (x ++ y).extractLsb' lo len = x.extractLsb' (lo - n) len := BitVec.extractLsb'_append_eq_of_le h

/-- A field within the lower part of a word lies in it. -/
@[simp] theorem field_below {m n lo len : Nat} (x : BitVec m) (y : BitVec n) (h : lo + len ≤ n) :
    (x ++ y).extractLsb' lo len = y.extractLsb' lo len := BitVec.extractLsb'_append_eq_of_add_le h

section Fields

variable (o d a b : BitVec 7) (la p : BitVec 4) (md : BitVec 3) (m2 sc : BitVec 2) (j : Option (BitVec 4)) (s t u : BitVec 6)
  (k m5 : BitVec 5) (m9 : BitVec 9) (g ha hb x : Bool)

@[simp] theorem guard_rWord : bit (rWord o g d a b ha hb x) 28 = g := by
  simp [-Nat.reduceAdd, bit, rWord]

@[simp] theorem guard_sWord : bit (sWord o g s t u m5 x) 25 = g := by
  simp [-Nat.reduceAdd, bit, sWord]

@[simp] theorem fields_qWord :
    op (qWord o g d a la md m2 x) = o ∧ fD (qWord o g d a la md m2 x) = d ∧ fA (qWord o g d a la md m2 x) = a ∧
    fLA (qWord o g d a la md m2 x) = la ∧ fMOD (qWord o g d a la md m2 x) = md ∧ bit (qWord o g d a la md m2 x) 28 = g ∧
    fMOD2 (qWord o g d a la md m2 x) = m2 ∧ fX (qWord o g d a la md m2 x) = x := by
  simp [-Nat.reduceAdd, op, fD, fA, fLA, fMOD, fMOD2, fX, bit, bits, qWord]

@[simp] theorem fields_cWord :
    op (cWord o g a p ha j x) = o ∧ cA (cWord o g a p ha j x) = a ∧ cP (cWord o g a p ha j x) = p ∧ cPN (cWord o g a p ha j x) = ha ∧
    cJ (cWord o g a p ha j x) = j.getD 0 ∧ (cMOD (cWord o g a p ha j x)).extractLsb' 0 4 = 0 ∧
    (cMOD (cWord o g a p ha j x)).extractLsb' 4 1 = BitVec.ofBool j.isSome ∧ bit (cWord o g a p ha j x) 28 = g ∧
    cZ (cWord o g a p ha j x) = 0 ∧ fX (cWord o g a p ha j x) = x := by
  simp [-Nat.reduceAdd, op, cA, cP, cPN, cJ, cMOD, cZ, fX, bit, bits, cWord]

@[simp] theorem fields_eWord :
    op (eWord o s k sc ha hb m9) = o ∧ sD (eWord o s k sc ha hb m9) = s ∧ eBAR (eWord o s k sc ha hb m9) = k ∧
    eSCOPE (eWord o s k sc ha hb m9) = sc ∧ bit (eWord o s k sc ha hb m9) 20 = ha ∧ bit (eWord o s k sc ha hb m9) 21 = hb ∧
    eMOD (eWord o s k sc ha hb m9) = m9 ∧ fX (eWord o s k sc ha hb m9) = true := by
  simp [-Nat.reduceAdd, op, sD, eBAR, eSCOPE, eMOD, fX, bit, bits, eWord]

end Fields

/-! ## The codes of the tables -/

@[simp] theorem rm_rmBits (m : RM) : rm (rmBits m) = m := by cases m <;> rfl
@[simp] theorem icond_icondBits (c : ICond) : icond (icondBits c) = c := by cases c <;> rfl
@[simp] theorem fcond_fcondBits (c : FCond) : fcond (fcondBits c) = c := by cases c <;> rfl
@[simp] theorem plop_plopBits (c : PlopOp) : plop (plopBits c) = c := by cases c <;> rfl
@[simp] theorem size_sizeBits (z : Size) : size (sizeBits z) = some z := by cases z <;> rfl
@[simp] theorem cvtDir_cvtDirBits (c : CvtDir) : cvtDir (cvtDirBits c) = c := by cases c <;> rfl
@[simp] theorem sgn_sgnBits (c : SgnOp) : sgn (sgnBits c) = some c := by cases c <;> rfl
@[simp] theorem f8kind_f8kindBits (k : F8Kind) : f8kind (f8kindBits k) = k := by cases k <;> rfl
@[simp] theorem f4kind_f4kindBits (k : F4Kind) : f4kind (f4kindBits k) = some k := by cases k <;> rfl
@[simp] theorem dxkind_dxkindBits (k : DxKind) : dxkind (dxkindBits k) = k := by cases k <;> rfl
@[simp] theorem scope_scopeBits (s : Scope) : scope (scopeBits s) = some s := by cases s <;> rfl
@[simp] theorem fsel_fselBits (s : FcntSel) : fsel (fselBits s) = s := by cases s <;> rfl
@[simp] theorem redop_redopBits (c : RedOp) : redop (redopBits c) = some c := by cases c <;> rfl
@[simp] theorem atomOp_atomOpBits (c : AtomOp) : atomOp (atomOpBits c) = c := by cases c <;> rfl
@[simp] theorem copyKind_copyKindBits (k : CopyKind) : copyKind (copyKindBits k) = some k := by cases k <;> rfl
@[simp] theorem cubeMode_cubeModeBits (m : CubeMode) : cubeMode (cubeModeBits m) = some m := by cases m <;> rfl
@[simp] theorem drainFmt_drainFmtBits (f : DrainFmt) : drainFmt (drainFmtBits f) = some f := by cases f <;> rfl
@[simp] theorem special_specialNo (s : Special) : special (specialNo s) = some s := by cases s <;> rfl

/-- Table 9.2: a selector fits the A field of either stream. -/
@[simp] theorem specialNo_mod (s : Special) : specialNo s % 128 = specialNo s ∧ specialNo s % 64 = specialNo s := by cases s <;> exact ⟨rfl, rfl⟩

/-- R313: the sizes of a steering access have two-bit codes. -/
theorem size_of_steering {z : Size} (h : z.steering = true) : size (0#1 ++ (sizeBits z).extractLsb' 0 2) = some z := by
  cases z with
  | b128 => simp [Size.steering] at h
  | _ => rfl

@[simp] theorem flag7_eq_one (b : Bool) : (Enc.flag7 b == 1#7) = b := by cases b <;> rfl
@[simp] theorem flag5_eq_one (b : Bool) : (Enc.flag5 b == 1#5) = b := by cases b <;> rfl
@[simp] theorem flag5_high (b : Bool) : (Enc.flag5 b).extractLsb' 1 4 = 0#4 := by cases b <;> rfl
@[simp] theorem flag7_eq_zero_or_one (b : Bool) : Enc.flag7 b = 0#7 ∨ Enc.flag7 b = 1#7 := by cases b <;> simp [Enc.flag7]

/-! ## The operand forms -/

variable {o : BitVec 7} {g : Bool} {i : Instr}

/-- R249: the register form has no room for a modifier. -/
theorem src_rWord (d a m : BitVec 7) (ha : Bool) (b : Src) (h : b.isImm = true ∨ m = 0) :
    src (rWord o g d a (Enc.srcB b m) ha (Enc.srcHB b) (Enc.srcExt b).isSome) (Enc.srcExt b) = some (b, m) := by
  cases b with
  | reg r hb => simp_all [src, Enc.srcExt, Enc.srcB, Enc.srcHB, Src.isImm]
  | imm w => simp [src, Enc.srcExt, Enc.srcB, Enc.srcHB]

/-- R275: the register form has no room for a modifier. -/
theorem fsrc_rWord (d a : BitVec 7) (m : BitVec 6) (ha : Bool) (b : FSrc) (h : b.isExt = true ∨ m = 0) :
    fsrc (rWord o g d a (Enc.fB7 b m) ha (Enc.fHB7 b) (Enc.fExt b).isSome) (Enc.fExt b) = some (b, m) := by
  cases b with
  | reg r hb => simp_all [fsrc, Enc.fExt, Enc.fB7, Enc.fHB7, FSrc.isExt]
  | xreg r =>
    simp [-Nat.reduceAdd, fsrc, Enc.fExt, Enc.fB7, Enc.fHB7, bits]
  | imm w =>
    simp [-Nat.reduceAdd, fsrc, Enc.fExt, Enc.fB7, Enc.fHB7]

/-- R298. -/
@[simp] theorem ssrc_sWord (d a : SReg) (m : BitVec 5) (b : SSrc) :
    ssrc (sWord o g d a (Enc.sB6 b) m (Enc.sExt b).isSome) (Enc.sExt b) = some b := by
  cases b <;> simp [ssrc, Enc.sExt, Enc.sB6]

@[simp] theorem jslot_cWord (a : Reg) (p : Pred) (n : Bool) (j : Option (BitVec 4)) (x : Bool) : jslot (cWord o g a p n j x) = some j := by
  cases j <;> simp [jslot]

@[simp] theorem tgt_tgtWord (t : Tgt) : tgt (some (Enc.tgtWord t)) = some t := by
  simp [-Nat.reduceAdd, tgt, Enc.tgtWord, bits]

/-- R183: the common fields of an engine command. -/
@[simp] theorem eargs_eWord (e : EArgs) (md : BitVec 8) : eargs (eWord o e.pb e.bar e.scope e.acq e.rel (md ++ BitVec.ofBool e.arv)) = e := by
  have ha : bit (eWord o e.pb e.bar e.scope e.acq e.rel (md ++ BitVec.ofBool e.arv)) 22 = e.arv := by simp [-Nat.reduceAdd, bit, eWord]
  rw [eargs, ha]
  simp

/-! ## What each instruction has to show -/

/-- A well-formed instruction of a stream is laid out in one word or two that are decoded to it, with its guard bit. -/
def Decodes (i : Instr) : Prop :=
  i.wf = true → ∀ g, ∃ w x, encodeWith g i = Enc.withExt w x ∧ hasSecond i.stream w = x.isSome ∧ decode i.stream w x = .ok i ∧
    (i.stream = .lane → guardBit .lane w = g) ∧ (i.stream = .steer → isE (op w).toNat = false → guardBit .steer w = g)

/-- A lane instruction. -/
theorem decodes_lane (hs : i.stream = .lane) (h : i.wf = true → ∀ g, ∃ w x, encodeWith g i = Enc.withExt w x ∧ fX w = x.isSome ∧
    bit w 28 = g ∧ laneOp (op w).toNat = true ∧ lane w x = some i) : Decodes i := by
  intro hw g
  obtain ⟨w, x, he, hx, hg, ho, hl⟩ := h hw g
  exact ⟨w, x, he, by simp [hs, hasSecond, hx], by simp [hs, decode, ho, hl], fun _ => hg, fun hc => by simp [hs] at hc⟩

/-- A lane instruction of R format. -/
theorem decodes_rWord {d a b : BitVec 7} {ha hb : Bool} {x : Option Word} (hs : i.stream = .lane)
    (he : ∀ g, encodeWith g i = Enc.withExt (rWord o g d a b ha hb x.isSome) x) (ho : laneOp o.toNat = true)
    (hl : i.wf = true → ∀ g, lane (rWord o g d a b ha hb x.isSome) x = some i) : Decodes i :=
  decodes_lane hs fun hw g => ⟨_, _, he g, by simp, by simp, by simpa using ho, hl hw g⟩

/-- A lane instruction of Q or M format. -/
theorem decodes_qWord {d a : BitVec 7} {la : BitVec 4} {md : BitVec 3} {m2 : BitVec 2} {x : Option Word} (hs : i.stream = .lane)
    (he : ∀ g, encodeWith g i = Enc.withExt (qWord o g d a la md m2 x.isSome) x) (ho : laneOp o.toNat = true)
    (hl : i.wf = true → ∀ g, lane (qWord o g d a la md m2 x.isSome) x = some i) : Decodes i :=
  decodes_lane hs fun hw g => ⟨_, _, he g, by simp, by simp, by simpa using ho, hl hw g⟩

/-- A lane instruction of C format. -/
theorem decodes_cWord {a : BitVec 7} {p : BitVec 4} {n : Bool} {j : Option (BitVec 4)} {x : Option Word} (hs : i.stream = .lane)
    (he : ∀ g, encodeWith g i = Enc.withExt (cWord o g a p n j x.isSome) x) (ho : laneOp o.toNat = true)
    (hl : i.wf = true → ∀ g, lane (cWord o g a p n j x.isSome) x = some i) : Decodes i :=
  decodes_lane hs fun hw g => ⟨_, _, he g, by simp, by simp, by simpa using ho, hl hw g⟩

/-- A steering instruction of S format. -/
theorem decodes_sWord {d a b : SReg} {m : BitVec 5} {x : Option Word} (hs : i.stream = .steer)
    (he : ∀ g, encodeWith g i = Enc.withExt (sWord o g d a b m x.isSome) x) (ho : steerOp o.toNat = true) (hE : isE o.toNat = false)
    (hl : i.wf = true → ∀ g, steer (sWord o g d a b m x.isSome) x = some i) : Decodes i := by
  intro hw g
  exact ⟨_, _, he g, by simp [hs, hasSecond, hE], by simp [hs, decode, ho, hl hw g], fun hc => by simp [hs] at hc, fun _ _ => by simp [guardBit, hE]⟩

/-- A steering instruction of E format, whose second word is always there (R170) and which has no guard bit of its own (R183). -/
theorem decodes_eWord {pb : SReg} {k : BitVec 5} {sc : BitVec 2} {acq rel : Bool} {m : BitVec 9} {e : Word} (hs : i.stream = .steer)
    (he : ∀ g, encodeWith g i = [eWord o pb k sc acq rel m, e]) (ho : steerOp o.toNat = true) (hE : isE o.toNat = true)
    (hl : i.wf = true → steerE (eWord o pb k sc acq rel m) e = some i) : Decodes i := by
  intro hw g
  exact ⟨_, some e, he g, by simp [hs, hasSecond], by simp [hs, decode, ho, steer, hE, hl hw], fun hc => by simp [hs] at hc, fun _ hc => by simp [hE] at hc⟩

/-! ## The instructions, format by format -/

/-- D, A and B with modifier 0. -/
theorem decodes_int3 {r : R3} {k : R3 → Instr} (hs : (k r).stream = .lane) (he : ∀ g, encodeWith g (k r) = Enc.int3 o g r 0)
    (ho : laneOp o.toNat = true) (hl : (k r).wf = true → ∀ w x, op w = o → fX w = x.isSome → Dec.int3 w x k = some (k r) → lane w x = some (k r)) :
    Decodes (k r) :=
  decodes_rWord hs he ho fun hw g => hl hw _ _ (by simp) (by simp) (by simp [Dec.int3, src_rWord, r3, ok])

/-- D, A and B with a modifier of one bit. -/
theorem decodes_int3m {r : R3} {k : R3 → Bool → Instr} {u : Bool} (hs : (k r u).stream = .lane)
    (he : ∀ g, encodeWith g (k r u) = Enc.int3 o g r (Enc.flag7 u)) (ho : laneOp o.toNat = true)
    (hu : (k r u).wf = true → r.b.isImm = true ∨ u = false)
    (hl : (k r u).wf = true → ∀ w x, op w = o → fX w = x.isSome → Dec.int3m w x k = some (k r u) → lane w x = some (k r u)) : Decodes (k r u) :=
  decodes_rWord hs he ho fun hw g => hl hw _ _ (by simp) (by simp) (by
    have h : r.b.isImm = true ∨ Enc.flag7 u = 0 := (hu hw).imp_right fun h => by rw [h]; rfl
    rw [Dec.int3m, src_rWord _ _ _ _ _ h]
    simp [r3, ok])

/-- D and A, with control bits in the place of B. -/
theorem decodes_ctl2 {e : R2} {c : BitVec 7} (hs : i.stream = .lane) (he : ∀ g, encodeWith g i = Enc.ctl2 o g e c) (ho : laneOp o.toNat = true)
    (hl : i.wf = true → ∀ w, op w = o → fX w = false → fD w = e.d → fA w = e.a → fHA w = e.ha → fB w = c → fHB w = false →
      lane w none = some i) : Decodes i :=
  decodes_rWord (x := none) hs he ho fun hw g => hl hw _ (by simp) (by simp) (by simp) (by simp) (by simp) (by simp) (by simp)

/-- A second operand that is a register or an immediate, and a modifier (R249). -/
theorem decodes_rSrc {d a m : BitVec 7} {ha : Bool} {b : Src} (hs : i.stream = .lane) (he : ∀ g, encodeWith g i = Enc.rSrc o g d a ha b m)
    (ho : laneOp o.toNat = true) (hm : i.wf = true → b.isImm = true ∨ m = 0)
    (hl : i.wf = true → ∀ w x, op w = o → fX w = x.isSome → fD w = d → fA w = a → fHA w = ha → src w x = some (b, m) → lane w x = some i) :
    Decodes i :=
  decodes_rWord hs he ho fun hw g =>
    hl hw _ _ (by simp) (by simp) (by simp) (by simp) (by simp) (src_rWord _ _ _ _ _ (hm hw))

/-- A second operand of the floating-point forms, and a modifier (R275). -/
theorem decodes_fSrc {d a : BitVec 7} {m : BitVec 6} {ha : Bool} {b : FSrc} (hs : i.stream = .lane)
    (he : ∀ g, encodeWith g i = Enc.fSrc o g d a ha b m) (ho : laneOp o.toNat = true) (hm : i.wf = true → b.isExt = true ∨ m = 0)
    (hl : i.wf = true → ∀ w x, op w = o → fX w = x.isSome → fD w = d → fA w = a → fHA w = ha → fsrc w x = some (b, m) → lane w x = some i) :
    Decodes i :=
  decodes_rWord hs he ho fun hw g =>
    hl hw _ _ (by simp) (by simp) (by simp) (by simp) (by simp) (fsrc_rWord _ _ _ _ _ (hm hw))

theorem decodes_of_lane (i : Instr) (hs : i.stream = .lane) : Decodes i := by
  cases i with
  | iadd | imul | imad | and | or | xor | andn | shl | shr | sar | rol | bfx | bfi =>
    exact decodes_int3 rfl (fun _ => rfl) rfl (by intros; simp [*, lane, laneInt])
  | iadd64 => exact decodes_int3 rfl (fun _ => rfl) rfl (by intros; simp [*, lane, laneInt, ok])
  | isub | imulh | imin | imax =>
    exact decodes_int3m rfl (fun _ => rfl) rfl (by simp [Instr.wf]) (by intros; simp [*, lane, laneInt])
  | imulw => exact decodes_int3m rfl (fun _ => rfl) rfl (by simp [Instr.wf]) (by intros; simp [*, lane, laneInt, ok])
  | iabs | popc | clz | brev => exact decodes_ctl2 rfl (fun _ => rfl) rfl (by intros; simp [*, lane, laneInt, Dec.int2, ok])
  | icmp | mov | movx | stx =>
    exact decodes_rSrc rfl (fun _ => rfl) rfl (by simp) (by
      intros
      simp [*, -Nat.reduceAdd, lane, laneInt, ok])
  | isel o w => exact decodes_rWord (x := w) rfl (fun _ => rfl) rfl (by
      simp [-Nat.reduceAdd, lane, laneInt, ok])
  | movs | plop | pmovGet | pmovPut =>
    exact decodes_rWord (x := none) rfl (fun _ => rfl) rfl (by
      simp [-Nat.reduceAdd, lane, laneInt, ok])
  | pmovSet w => exact decodes_rWord (x := some w) rfl (fun _ => rfl) rfl (by simp [lane, laneInt, ok])
  | setx n v =>
    cases v with
    | reg =>
      exact decodes_rWord (x := none) rfl (fun _ => rfl) rfl (by
        simp [-Nat.reduceAdd, lane, laneInt, ok])
    | imm =>
      exact decodes_rWord (x := some _) rfl (fun _ => rfl) rfl (by
        simp [-Nat.reduceAdd, lane, laneInt, ok, bits])
  | fadd _ m | fsub _ m | fmul _ m | ffma _ m | fscale _ m | fmin _ m | fmax _ m =>
    exact decodes_fSrc rfl (fun _ => rfl) rfl (by cases m <;> simp [Instr.wf, rmBits]) (by
      intros
      simp [*, -Nat.reduceAdd, lane, laneFp, fp3, m6rm, m6, ok])
  | hadd2 _ m f n | hmul2 _ m f n | hfma2 _ m f n | hminmax2 _ m f n =>
    exact decodes_fSrc rfl (fun _ => rfl) rfl (by cases m <;> cases f <;> cases n <;> simp [Instr.wf, rmBits]) (by
      intros
      simp [*, -Nat.reduceAdd, lane, laneFp, fp3, m6rm, m6, ok])
  | fcmp =>
    exact decodes_fSrc rfl (fun _ => rfl) rfl (by simp) (by
      intros
      simp [*, -Nat.reduceAdd, lane, laneFp, fpab, ok])
  | hcmp2 c p o bf =>
    exact decodes_fSrc rfl (fun _ => rfl) rfl (by cases bf <;> simp [Instr.wf]) (by
      intros
      simp [*, -Nat.reduceAdd, lane, laneFp, fpab, m6, ok])
  | fsgn o k =>
    exact decodes_fSrc rfl (fun _ => rfl) rfl (by cases k <;> simp [Instr.wf, sgnBits]) (by
      intros
      simp [*, -Nat.reduceAdd, lane, laneFp, ok])
  | fclass | frnd | f2i | i2f | fexp =>
    exact decodes_ctl2 rfl (fun _ => rfl) rfl (by
      intros
      simp [*, -Nat.reduceAdd, lane, laneFp, Dec.int2, Dec.ctl2, m7, ok])
  | fcvt o m dir hi =>
    exact decodes_ctl2 rfl (fun _ => rfl) rfl (by
      intro hw
      have hd : ¬(cvtDirBits dir).extractLsb' 1 1 = 0#1 → rmBits m = 0#2 := by
        revert hw
        cases dir <;> cases m <;> simp [Instr.wf, rmBits, cvtDirBits]
      intros
      simp [*, -Nat.reduceAdd, lane, laneFp, Dec.ctl2, m7, ok]
      exact hd)
  | rcp | rsq | sqrt | ex2 | lg2 | sinpi | cospi =>
    exact decodes_qWord (x := none) rfl (fun _ => rfl) rfl (by simp [lane, laneFunc, Dec.q2, ok])
  | fdiv =>
    exact decodes_qWord (x := some _) rfl (fun _ => rfl) rfl (by
      simp [-Nat.reduceAdd, lane, laneFunc, bits, bit, ok])
  | f8pk o k m =>
    exact decodes_fSrc rfl (fun _ => rfl) rfl (by
      cases k <;> cases m <;> simp +contextual [Instr.wf, rmBits, f8kindBits]
      exact fun h _ => h.imp_right (by rintro rfl; rfl)) (by
      intros
      simp [*, -Nat.reduceAdd, lane, laneNarrow, fp3, ok])
  | f4pk o k rz =>
    exact decodes_fSrc rfl (fun _ => rfl) rfl (by
      cases k <;> cases rz <;> simp +contextual [Instr.wf, f4kindBits]
      exact fun h _ => h.imp_right (by rintro rfl; rfl)) (by
      intros
      simp [*, -Nat.reduceAdd, lane, laneNarrow, m6, ok])
  | bmax => exact decodes_fSrc rfl (fun _ => rfl) rfl (by simp) (by intros; simp [*, lane, laneNarrow, fp3, ok])
  | f8up | f4up | dxexp =>
    exact decodes_ctl2 rfl (fun _ => rfl) rfl (by intros; simp [*, -Nat.reduceAdd, lane, laneNarrow, Dec.ctl2, m7, ok])
  | qdot8 | qdot4 =>
    exact decodes_rWord (x := some _) rfl (fun _ => rfl) rfl (by
      intros
      simp [*, -Nat.reduceAdd, lane, laneNarrow, Dec.qdot, bits, ok])
  | dxdec =>
    exact decodes_rWord (x := some _) rfl (fun _ => rfl) rfl (by
      intros
      simp [*, -Nat.reduceAdd, lane, laneNarrow, m7, bits, ok])
  | ld m | st m | lds m | sts m | atom m | atomf m | atomx m | rreq m | pref m =>
    exact decodes_qWord (x := m.off) rfl (fun _ => rfl) rfl (by intros; simp [*, lane, laneMem, Dec.mem, ok])
  | ldw | stw | atw | mcst =>
    exact decodes_qWord (x := some _) rfl (fun _ => rfl) rfl (by
      intros
      simp [*, -Nat.reduceAdd, lane, laneMem, Dec.win, bits, bit, ok])
  | rwsend =>
    exact decodes_qWord (x := some _) rfl (fun _ => rfl) rfl (by
      intros
      simp [*, -Nat.reduceAdd, lane, laneSync, Dec.win, bits, bit, ok])
  | fence | fcnt =>
    exact decodes_rWord (x := none) rfl (fun _ => rfl) rfl (by simp [-Nat.reduceAdd, lane, laneMem, ok])
  | fadv => exact decodes_rSrc rfl (fun _ => rfl) rfl (by simp) (by intros; simp [*, -Nat.reduceAdd, lane, laneMem, m7, ok])
  | br | jmp | call | spawn => exact decodes_cWord (x := some _) rfl (fun _ => rfl) rfl (by simp [lane, laneCtl, ok])
  | calli | ret | join | exit => exact decodes_cWord (x := none) rfl (fun _ => rfl) rfl (by simp [lane, laneCtl, ok])
  | redq => exact decodes_rWord (x := none) rfl (fun _ => rfl) rfl (by simp [-Nat.reduceAdd, lane, laneSync, ok])
  | barw k arv p =>
    exact decodes_rWord (x := none) rfl (fun _ => rfl) rfl (by intros; cases arv <;> simp_all [-Nat.reduceAdd, lane, laneSync, Instr.wf, Enc.flag7, ok])
  | dqpop d p | bara d p =>
    cases p with
    | none | some => exact decodes_rWord (x := none) rfl (fun _ => rfl) rfl (by simp [-Nat.reduceAdd, lane, laneSync, m7, Enc.flag7, ok])
  | rclaim | trdy => exact decodes_rSrc rfl (fun _ => rfl) rfl (by simp) (by intros; simp [*, -Nat.reduceAdd, lane, laneSync, ok])
  | rrel p b pool => exact decodes_rSrc rfl (fun _ => rfl) rfl (by cases pool <;> simp [Instr.wf, Enc.flag7]) (by intros; simp [*, -Nat.reduceAdd, lane, laneSync, ok])
  | rayq =>
    exact decodes_qWord (x := some _) rfl (fun _ => rfl) rfl (by intros; simp [*, -Nat.reduceAdd, lane, laneSync, bits, bit, ok])
  | rwrecv d f =>
    exact decodes_qWord (x := none) rfl (fun _ => rfl) rfl (by
      intros
      simp_all [-Nat.reduceAdd, lane, laneSync, Instr.wf, BitVec.extractLsb'_append_extractLsb'_eq_extractLsb', ok])
  | rwrecvNb d f =>
    exact decodes_qWord (x := some _) rfl (fun _ => rfl) rfl (by
      intros
      simp_all [-Nat.reduceAdd, lane, laneSync, Instr.wf, bits, BitVec.extractLsb'_append_extractLsb'_eq_extractLsb', ok])
  | trap c =>
    exact decodes_rWord (x := c) rfl (fun _ => rfl) rfl (by simp [lane, laneSync, Dec.sys, ok])
  | brkpt | nop | yield | srd  =>
    exact decodes_rWord (x := none) rfl (fun _ => rfl) rfl (by intros; simp [*, lane, laneSync, Dec.sys, ok])
  | stat d c =>
    cases c with
    | none => exact decodes_rWord (x := none) rfl (fun _ => rfl) rfl (by simp [lane, laneSync, Dec.sys, ok])
    | some m =>
      have hm : bits (0#27 ++ m) 5 27 = 0 ∧ bits (0#27 ++ m) 0 5 = m := by simp [-Nat.reduceAdd, bits]
      exact decodes_rWord (x := some (0#27 ++ m)) rfl (fun _ => rfl) rfl (by simp [-Nat.reduceAdd, lane, laneSync, Dec.sys, hm, ok])
  | _ => cases hs

theorem decodes_of_steer (i : Instr) (hs : i.stream = .steer) : Decodes i := by
  cases i with
  | sadd | smul | sand | sor | sxor | sshl | sshr | ssar | sbfx | sadd64 =>
    exact decodes_sWord rfl (fun _ => rfl) rfl rfl (by intros; simp [*, steer, isE, steerInt, Dec.s3, ok])
  | ssub | smulh | smin | smax | sdiv | srem =>
    exact decodes_sWord rfl (fun _ => rfl) rfl rfl (by intros; simp [*, steer, isE, steerInt, Dec.s3m, ok])
  | spopc | sclz => exact decodes_sWord (x := none) rfl (fun _ => rfl) rfl rfl (by intros; simp [*, steer, isE, steerInt, Dec.s2, ok])
  | scmp | ssel | smov  =>
    exact decodes_sWord rfl (fun _ => rfl) rfl rfl (by intros; simp [*, -Nat.reduceAdd, steer, isE, steerInt, ok])
  | clop => exact decodes_sWord (x := none) rfl (fun _ => rfl) rfl rfl (by intros; simp [*, -Nat.reduceAdd, steer, isE, steerInt, ok])
  | sbr | sjmp | scall | sloop =>
    exact decodes_sWord (x := some _) rfl (fun _ => rfl) rfl rfl (by simp [-Nat.reduceAdd, steer, isE, steerCtl, ok])
  | sret | sdone => exact decodes_sWord (x := none) rfl (fun _ => rfl) rfl rfl (by simp [steer, isE, steerCtl, ok])
  | dqpush | qrd =>
    exact decodes_sWord rfl (fun _ => rfl) rfl rfl (by intros; simp [*, -Nat.reduceAdd, steer, isE, steerMem, ok])
  | sld _ _ z _ _ x | sst _ _ z _ x =>
    exact decodes_sWord (x := x) rfl (fun _ => rfl) rfl rfl (by
      intro hw
      have hz : z.steering = true := by simp_all [Instr.wf]
      simp [-Nat.reduceAdd, steer, isE, steerMem, ok, size_of_steering hz, hw])
  | satom | sfence | srds =>
    exact decodes_sWord (x := none) rfl (fun _ => rfl) rfl rfl (by intros; simp [*, -Nat.reduceAdd, steer, isE, steerMem, ok])
  | copy | cube | cdrain | coll =>
    exact decodes_eWord rfl (fun _ => rfl) rfl rfl (by intros; simp [*, -Nat.reduceAdd, steerE, bits, ok])
  | bararm | bararmTile =>
    exact decodes_eWord rfl (fun _ => rfl) rfl rfl (by intros; simp_all [-Nat.reduceAdd, steerE, Instr.wf, ok])
  | attime pb dt =>
    have hdt : bit (0#31 ++ BitVec.ofBool dt) 0 = dt := by cases dt <;> rfl
    exact decodes_eWord rfl (fun _ => rfl) rfl rfl (by intros; simp_all [-Nat.reduceAdd, steerE, Instr.wf, bits, ok])
  | aclaim | arel | rwgrant | bwp =>
    exact decodes_sWord rfl (fun _ => rfl) rfl rfl (by intros; simp [*, -Nat.reduceAdd, steer, isE, steerObj, ok])
  | bari =>
    exact decodes_sWord rfl (fun _ => rfl) rfl rfl (by intros; simp [*, -Nat.reduceAdd, steer, isE, steerObj, ok])
  | finit f r | sbara f r | waitch r =>
    cases r with
    | none | some =>
      exact decodes_sWord (x := none) rfl (fun _ => rfl) rfl rfl (by
        intros
        simp [*, -Nat.reduceAdd, steer, isE, steerObj, Enc.flag5, ok])
  | sbarw k arv c =>
    exact decodes_sWord (x := none) rfl (fun _ => rfl) rfl rfl (by
        intros; cases arv <;> simp_all [-Nat.reduceAdd, steer, isE, steerObj, Instr.wf, Enc.flag5, ok])
  | cwait | launch | gdetach =>
    exact decodes_sWord (x := none) rfl (fun _ => rfl) rfl rfl (by
        intros
        simp_all [-Nat.reduceAdd, steer, isE, steerObj, Instr.wf, ok])
  | rrinv h =>
    match h with
    | none =>
      exact decodes_sWord (x := none) rfl (fun _ => rfl) rfl rfl (by simp [steer, isE, steerObj, ok])
    | some (.reg r) =>
      exact decodes_sWord (x := none) rfl (fun _ => rfl) rfl rfl (by simp [steer, isE, steerObj, ok])
    | some (.imm r) =>
      exact decodes_sWord (x := some _) rfl (fun _ => rfl) rfl rfl (by simp [-Nat.reduceAdd, steer, isE, steerObj, bits, ok])
  | wprobe d h =>
    cases h with
    | reg => exact decodes_sWord (x := none) rfl (fun _ => rfl) rfl rfl (by simp [steer, isE, steerObj])
    | imm => exact decodes_sWord (x := some _) rfl (fun _ => rfl) rfl rfl (by simp [-Nat.reduceAdd, steer, isE, steerObj, bits, ok])
  | strap c => exact decodes_sWord (x := c) rfl (fun _ => rfl) rfl rfl (by simp [steer, isE, steerObj])
  | sbrk | snop | syld => exact decodes_sWord (x := none) rfl (fun _ => rfl) rfl rfl (by simp [steer, isE, steerObj, ok])
  | _ => cases hs

theorem decodes_of_stream {i : Instr} (h : i.stream ≠ .event) : Decodes i := by
  match hs : i.stream with
  | .lane => exact decodes_of_lane i hs
  | .steer => exact decodes_of_steer i hs
  | .event => exact absurd hs h

/-- Settles O57: the words of each format carry their fields (R177-R183), each table's code is read back, and every instruction is laid out in
one of the formats. -/
theorem encodeThenDecode : Obligations.EncodeThenDecode := by
  intro i g rest hw hs
  obtain ⟨w, x, he, hx, hd, hlane, hsteer⟩ := decodes_of_stream hs hw g
  refine ⟨he ▸ decodeBytes_withExt hx hd rest, w, x.toList, he.trans ?_, hlane, hsteer⟩
  cases x <;> rfl

end Sys2Proof.Laws.RoundTrip
end


section
/-! The lane instructions on registers: each is one effect on its own thread behind the common entry (R39, R186), so its result, its checks and
its frame are read off that effect. -/

namespace Sys2Proof.Laws.LaneForms

open Sys2Proof.Machine Sys2Proof.Laws.PairsAndCounts Sys2Proof.Laws.Rules

/-! ## Results -/

section Results

variable {i : Instr} {regs preds : List Nat}

theorem laneDoes_of_laneRun {k : State → Nat → Team → Nat → Thread → State}
    (he : ∀ s, exec i s = s.laneRun regs preds fun t T tid th => .next (k s t T tid th)) : LaneDoes i regs preds k :=
  fun s _ _ _ _ h => (he s).trans (State.laneRun_ready h _)

theorem laneStops_of_laneRun {k : State → Nat → Team → Nat → Thread → Res} (he : ∀ s, exec i s = s.laneRun regs preds (k s)) :
    LaneStops i regs preds :=
  fun s _ _ _ _ hc ht hi => ⟨fun hr => (he s).trans (State.laneRun_range hc ht hi hr _),
    fun hr hl => (he s).trans (State.laneRun_shadow hc ht hi hr hl _)⟩

end Results

/-- Settles O1: every form is its function applied by the common effect of three or of two operands. -/
theorem laneIntegerResults : Obligations.LaneIntegerResults := by
  intro o e rev u three two
  exact ⟨laneSets_of_laneEff fun _ => rfl, laneSets_of_laneEff fun _ => rfl, laneSets_of_laneEff fun _ => rfl,
    laneSets_of_laneEff fun _ => rfl, laneSets_of_laneEff fun _ => rfl, laneSets_of_laneEff fun _ => rfl,
    laneSets_of_laneEff fun _ => rfl, laneSets_of_laneEff fun _ => rfl, laneSets_of_laneEff fun _ => rfl,
    laneSets_of_laneEff fun _ => rfl, laneSets_of_laneEff fun _ => rfl, laneSets_of_laneEff fun _ => rfl,
    laneSets_of_laneEff fun _ => rfl, laneSets_of_laneEff fun _ => rfl, laneSets_of_laneEff fun _ => rfl,
    laneSets_of_laneEff fun _ => rfl, laneSets_of_laneEff fun _ => rfl, laneSets_of_laneEff fun _ => rfl,
    laneSets_of_laneEff fun _ => rfl, laneSets_of_laneEff fun _ => rfl, laneSets_of_laneEff fun _ => rfl⟩

/-- Settles O3: each is one effect on its thread; MOVS reads the steering thread of its team besides. -/
theorem laneMoveResults : Obligations.LaneMoveResults := by
  intro o r e d b n x c p q z w m neg sg h op bs ln
  exact ⟨laneSets_of_laneEff fun _ => rfl, laneSets_of_laneEff fun _ => rfl, laneSets_of_laneEff fun _ => rfl,
    laneDoes_of_laneRun fun _ => rfl, laneSets_of_laneEff fun _ => rfl, laneSets_of_laneEff fun _ => rfl,
    laneSets_of_laneEff fun _ => rfl, laneSets_of_laneEff fun _ => rfl, laneSets_of_laneEff fun _ => rfl,
    laneSets_of_laneEff fun _ => rfl, laneSets_of_laneEff fun _ => rfl, laneSets_of_laneEff fun _ => rfl⟩

/-- Settles O7: every function enters its value as a late result through the common entry of the Q format. -/
theorem laneFunctionResults : Obligations.LaneFunctionResults := by
  intro o b hb one
  exact ⟨laneDoes_of_laneRun fun _ => rfl, laneDoes_of_laneRun fun _ => rfl, laneDoes_of_laneRun fun _ => rfl,
    laneDoes_of_laneRun fun _ => rfl, laneDoes_of_laneRun fun _ => rfl, laneDoes_of_laneRun fun _ => rfl,
    laneDoes_of_laneRun fun _ => rfl, laneDoes_of_laneRun fun _ => rfl⟩

/-! ## The indexed access (R263) -/

section Indexed

variable {s : State} {t tid : Nat} {T : Team} {th : Thread} {d : Reg} {n : BitVec 2} {b : Src} (k : Thread → Nat → Thread)

theorem indexed_regRange (hc : s.cur = some (.lane t tid)) (ht : s.team? t = some T) (hi : T.thread? tid = some th)
    (hr : ∃ r ∈ d.toNat :: srcRegs b, T.regCount th ≤ r) :
    s.indexed d n b k = .next (s.stopLane t T tid th { code := Code.regRange }) := by
  have hany : (d.toNat :: srcRegs b).any (fun r => decide (T.regCount th ≤ r)) = true := by simpa only [List.any_eq_true, decide_eq_true_eq]
  rw [State.indexed, State.lane_cur hc ht hi]
  exact if_pos hany

/-- Behind the check of the named registers: what an indexed access answers for its index. -/
theorem indexed_inRange (hc : s.cur = some (.lane t tid)) (ht : s.team? t = some T) (hi : T.thread? tid = some th)
    (hr : ∀ r ∈ d.toNat :: srcRegs b, r < T.regCount th) :
    s.indexed d n b k =
      if (th.index n.toNat).2 ≤ (srcVal b th).toNat then .next (s.stopLane t T tid th { code := Code.indexRange })
      else if T.regCount th ≤ (th.index n.toNat).1 + (srcVal b th).toNat then .next (s.stopLane t T tid th { code := Code.regRange })
      else if th.shadowed (((th.index n.toNat).1 + (srcVal b th).toNat) :: d.toNat :: srcRegs b) [] then
        .next (s.stopLane t T tid th { code := Code.lookahead })
      else .next (s.setThread t T tid (k th ((th.index n.toNat).1 + (srcVal b th).toNat))) := by
  have hany : ¬(d.toNat :: srcRegs b).any (fun r => decide (T.regCount th ≤ r)) = true := by
    simp only [List.any_eq_true, decide_eq_true_eq, not_exists, not_and]
    exact fun r h => by have := hr r h; omega
  rw [State.indexed, State.lane_cur hc ht hi]
  exact if_neg hany

end Indexed

/-- Settles O4: the tests of the index in their order, for both instructions at once. -/
theorem indexedAccess : Obligations.IndexedAccess := by
  intro s t tid T th d n b h i x
  have hx (k : Thread → Nat → Thread) := indexed_inRange (n := n) k h.cur h.team h.thread h.range
  refine ⟨fun hi => ?_, fun hi hr => ?_, fun hi hr hs => ?_⟩
  · have out (k : Thread → Nat → Thread) : s.indexed d n b k = .next (s.stopLane t T tid th { code := Code.indexRange }) := by
      rw [hx, if_pos hi]
    exact ⟨out fun y r => y.setReg d.toNat (y.reg r), out fun y r => y.setReg r (y.reg d.toNat)⟩
  · have out (k : Thread → Nat → Thread) : s.indexed d n b k = .next (s.stopLane t T tid th { code := Code.regRange }) := by
      rw [hx, if_neg (Nat.not_le.mpr hi), if_pos hr]
    exact ⟨out fun y r => y.setReg d.toNat (y.reg r), out fun y r => y.setReg r (y.reg d.toNat)⟩
  · have out (k : Thread → Nat → Thread) : s.indexed d n b k = .next (s.setThread t T tid (k th (x.1 + i))) := by
      rw [hx, if_neg (Nat.not_le.mpr hi), if_neg (Nat.not_le.mpr hr), if_neg (Bool.eq_false_iff.mp hs)]
    exact ⟨out fun y r => y.setReg d.toNat (y.reg r), out fun y r => y.setReg r (y.reg d.toNat)⟩

/-! ## What of a thread an effect leaves as it was -/

section KeepsBut

variable {th th1 th2 : Thread} {regs regs' preds preds' : List Nat} {flags : Bool}

theorem KeepsBut.trans (h1 : th.KeepsBut th1 regs preds flags) (h2 : th1.KeepsBut th2 regs preds flags) : th.KeepsBut th2 regs preds flags :=
  ⟨h2.rest.trans (congrArg (fun y : Thread => { y with v := th2.v, p := th2.p, sticky := th2.sticky }) h1.rest),
    fun r h => (h2.regs r h).trans (h1.regs r h), fun p h => (h2.preds p h).trans (h1.preds p h),
    fun h => (h2.flags h).trans (h1.flags h)⟩

theorem KeepsBut.mono (h : th.KeepsBut th1 regs preds false) (hr : regs ⊆ regs') (hp : preds ⊆ preds') :
    th.KeepsBut th1 regs' preds' flags :=
  ⟨h.rest, fun r hn => h.regs r fun hm => hn (hr hm), fun p hn => h.preds p fun hm => hn (hp hm), fun _ => h.flags rfl⟩

theorem keepsBut_setReg {n : Nat} (hn : n ∈ regs) (w : Word) : th.KeepsBut (th.setReg n w) regs preds flags :=
  KeepsBut.mono (Thread.keepsBut_setReg th n w) (by simpa using hn) (List.nil_subset _)

theorem keepsBut_setPair {n : Nat} (h : n ∈ regs) (h' : n + 1 ∈ regs) (d : DWord) : th.KeepsBut (th.setPair n d) regs preds flags :=
  KeepsBut.trans (keepsBut_setReg h _) (keepsBut_setReg h' _)

theorem keepsBut_setPred {n : Nat} (hn : n ∈ preds) (b : Bool) : th.KeepsBut (th.setPred n b) regs preds flags :=
  ⟨rfl, fun _ _ => rfl, fun _ hp => Thread.pred_setPred_ne th b fun e => hp (e ▸ hn), fun _ => rfl⟩

theorem keepsBut_addFlags (f : FlagSet) : th.KeepsBut (th.addFlags f) regs preds true :=
  ⟨rfl, fun _ _ => rfl, fun _ _ => rfl, nofun⟩

theorem keepsBut_dest (n : Nat) (w : Word) : th.KeepsBut (th.setReg n w) [n] preds flags := keepsBut_setReg (List.mem_singleton_self n) w

/-- A value and its flags: what every floating-point form leaves as it was. -/
theorem keepsBut_destFlags (n : Nat) (w : Word) (f : FlagSet) : th.KeepsBut ((th.setReg n w).addFlags f) [n] preds true :=
  KeepsBut.trans (keepsBut_dest n w) (keepsBut_addFlags f)

/-- A value whose flags are none. -/
theorem keepsBut_destNoFlags (n : Nat) (w : Word) : th.KeepsBut ((th.setReg n w).addFlags 0) [n] [] false := by
  have h : (th.setReg n w).addFlags 0 = th.setReg n w :=
    congrArg (fun f => { th.setReg n w with sticky := f }) (BitVec.or_zero (x := th.sticky))
  rw [h]
  exact keepsBut_setReg (List.mem_singleton_self n) w

/-- A thread whose predicates alone are replaced. -/
theorem keepsBut_preds (p' : BitVec 16) (hp : ∀ k, k ∉ preds → p'.getLsbD k = th.p.getLsbD k) :
    th.KeepsBut { th with p := p' } regs preds flags := ⟨rfl, fun _ _ => rfl, hp, fun _ => rfl⟩

end KeepsBut

/-! ## Frames -/

section Frames

variable {i : Instr} {regs preds : List Nat} {rs : Thread → List Nat} {ps : List Nat} {flags : Bool} {s s' : State} {t tid : Nat} {T : Team}
  {th : Thread}

/-- Whatever next state the common entry answers: a stop, or that of the effect behind it. -/
theorem laneRun_next {k : Nat → Team → Nat → Thread → Res} (hc : s.cur = some (.lane t tid)) (ht : s.team? t = some T)
    (hi : T.thread? tid = some th) (h : s.laneRun regs preds k = .next s') :
    (∃ f, s' = s.stopLane t T tid th f) ∨ k t T tid th = .next s' := by
  rw [State.laneRun, State.lane_cur hc ht hi] at h
  split at h
  · exact .inl ⟨_, (Host.Outcome.next.inj h).symm⟩
  · split at h
    · exact .inl ⟨_, (Host.Outcome.next.inj h).symm⟩
    · exact .inr h

/-- An effect on the performing thread alone leaves everything but that thread as it was. -/
theorem onlyThread_of_next {th' : Thread} (ht : s.team? t = some T) (h : Host.Outcome.next (s.setThread t T tid th') = (.next s' : Res)) :
    OnlyThread s s' t tid ∧ ∃ T', s'.team? t = some T' ∧ T'.thread? tid = some th' := by
  obtain rfl := Host.Outcome.next.inj h
  exact ⟨onlyThread_setThread ht th', _, State.team?_setThread .., Team.thread?_setThread ..⟩

theorem laneFrame_of_laneRun {f : Team → Thread → Thread}
    (he : ∀ s, exec i s = s.laneRun regs preds fun t T tid th => .next (s.setThread t T tid (f T th)))
    (hf : ∀ T (th : Thread), th.KeepsBut (f T th) (rs th) ps flags) : LaneFrame i rs ps flags := fun s _ _ T _ th hc ht hi h =>
  (laneRun_next hc ht hi ((he s).symm.trans h)).imp id fun h =>
    have ⟨ho, T', hT, hth⟩ := onlyThread_of_next ht h
    ⟨ho, T', _, hT, hth, hf T th⟩

theorem laneFrame_of_laneEff {f : Thread → Thread} (he : ∀ s, exec i s = s.laneEff regs preds f)
    (hf : ∀ th : Thread, th.KeepsBut (f th) (rs th) ps flags) : LaneFrame i rs ps flags :=
  laneFrame_of_laneRun (f := fun _ => f) he fun _ => hf

theorem laneFrame_of_dest {n : Nat} {w : Thread → Word} (he : ∀ s, exec i s = s.laneEff regs preds fun th => th.setReg n (w th)) :
    LaneFrame i (fun _ => [n]) [] false := laneFrame_of_laneEff he fun _ => keepsBut_dest _ _

theorem laneFrame_of_value {n : Nat} {r : Thread → Nat × FlagSet}
    (he : ∀ s, exec i s = s.laneEff regs preds fun th => (th.setReg n (BitVec.ofNat 32 (r th).1)).addFlags (r th).2) :
    LaneFrame i (fun _ => [n]) [] true := laneFrame_of_laneEff he fun _ => keepsBut_destFlags _ _ _

end Frames

/-- Whatever next state an indexed access answers: a stop, or that of its effect on the register that the index names. -/
theorem indexed_next {s s' : State} {t tid : Nat} {T : Team} {th : Thread} {d : Reg} {n : BitVec 2} {b : Src} {k : Thread → Nat → Thread}
    (hc : s.cur = some (.lane t tid)) (ht : s.team? t = some T) (hi : T.thread? tid = some th) (h : s.indexed d n b k = .next s') :
    (∃ f, s' = s.stopLane t T tid th f) ∨
      Host.Outcome.next (s.setThread t T tid (k th ((th.index n.toNat).1 + (srcVal b th).toNat))) = (.next s' : Res) := by
  by_cases hr : ∃ r ∈ d.toNat :: srcRegs b, T.regCount th ≤ r
  · exact .inl ⟨_, Host.Outcome.next.inj (h.symm.trans (indexed_regRange k hc ht hi hr))⟩
  · push Not at hr
    rw [indexed_inRange k hc ht hi hr] at h
    split at h
    · exact .inl ⟨_, (Host.Outcome.next.inj h).symm⟩
    · split at h
      · exact .inl ⟨_, (Host.Outcome.next.inj h).symm⟩
      · split at h
        · exact .inl ⟨_, (Host.Outcome.next.inj h).symm⟩
        · exact .inr h

theorem laneFrame_of_indexed {i : Instr} {d : Reg} {n : BitVec 2} {b : Src} {k : Thread → Nat → Thread} {rs : Thread → List Nat}
    (he : ∀ s, exec i s = s.indexed d n b k)
    (hf : ∀ th : Thread, th.KeepsBut (k th ((th.index n.toNat).1 + (srcVal b th).toNat)) (rs th) [] false) :
    LaneFrame i rs [] false := fun s _ _ _ _ th hc ht hi h =>
  (indexed_next hc ht hi ((he s).symm.trans h)).imp id fun h =>
    have ⟨ho, T', hT, hth⟩ := onlyThread_of_next ht h
    ⟨ho, T', _, hT, hth, hf th⟩

/-- A predicate outside a mask of predicates is that of the masked value. -/
theorem getLsbD_masked (p v m : BitVec 16) {k : Nat} (h : k ∉ allPreds.filter m.getLsbD) :
    ((p &&& ~~~m) ||| (v &&& m)).getLsbD k = p.getLsbD k := by
  by_cases hk : k < 16
  · have hm : m.getLsbD k = false := by
      by_contra hm
      exact h (List.mem_filter.mpr ⟨by simpa using hk, by simpa using hm⟩)
    have hk' : k < 16 ∧ m.getLsbD k = false := ⟨hk, hm⟩
    simp only [BitVec.getLsbD_or, BitVec.getLsbD_and, BitVec.getLsbD_not, hk'.1, hk'.2]
    simp
  · rw [BitVec.getLsbD_of_ge _ k (by omega), BitVec.getLsbD_of_ge p k (by omega)]

theorem getLsbD_of_not_allPreds (p v : BitVec 16) {k : Nat} (h : k ∉ allPreds) : v.getLsbD k = p.getLsbD k := by
  have hk : 16 ≤ k := by
    by_contra hk
    exact h (by simpa using hk)
  rw [BitVec.getLsbD_of_ge v k hk, BitVec.getLsbD_of_ge p k hk]

/-- Of a thread whose index registers alone are replaced: SETX. -/
theorem setx_frame {i : Instr} {regs : List Nat} {x : BitVec 2} {val : Thread → BitVec 14}
    (he : ∀ s, exec i s = s.laneEff regs [] fun th => { th with x := Map.set 0 th.x x.toNat (val th) })
    {s s' : State} {t tid : Nat} {T : Team} {th : Thread} (hc : s.cur = some (.lane t tid)) (ht : s.team? t = some T)
    (hi : T.thread? tid = some th) (h : exec i s = .next s') :
    (∃ g, s' = s.stopLane t T tid th g) ∨
    (OnlyThread s s' t tid ∧ ∃ T' th', s'.team? t = some T' ∧ T'.thread? tid = some th' ∧ th' = { th with x := th'.x } ∧
      ∀ n : Nat, n ≠ x.toNat → th'.index n = th.index n) :=
  (laneRun_next hc ht hi ((he s).symm.trans h)).imp id fun h =>
    have ⟨ho, T', hT, hth⟩ := onlyThread_of_next ht h
    ⟨ho, T', _, hT, hth, rfl, fun n hn => by simp only [Thread.index, Map.get_set_ne 0 th.x (val th) hn]⟩

/-- Settles O9: the common entry makes the checks; MOVX and STX make them around the test of their index. -/
theorem laneRegisterChecks : Obligations.LaneRegisterChecks := by
  intro o f e q qd r fr c fc p p2 p3 d b n x w m rm op so dir k8 k4 kx b3 dl j tgt u v prop three two fthree one dot
  refine ⟨?_, ?_, ?_, ?_, laneStops_of_laneRun fun _ => rfl, laneStops_of_laneRun fun _ => rfl,
    laneStops_of_laneRun fun _ => rfl, laneStops_of_laneRun fun _ => rfl,
      laneStops_of_laneRun fun _ => rfl, laneStops_of_laneRun fun _ => rfl, laneStops_of_laneRun fun _ => rfl,
      laneStops_of_laneRun fun _ => rfl, laneStops_of_laneRun fun _ => rfl, laneStops_of_laneRun fun _ => rfl,
      laneStops_of_laneRun fun _ => rfl, laneStops_of_laneRun fun _ => rfl, laneStops_of_laneRun fun _ => rfl,
      laneStops_of_laneRun fun _ => rfl, laneStops_of_laneRun fun _ => rfl, laneStops_of_laneRun fun _ => rfl,
      laneStops_of_laneRun fun _ => rfl, laneStops_of_laneRun fun _ => rfl, ?_⟩
  · simp only [List.forall_mem_cons]
    exact ⟨laneStops_of_laneRun fun _ => rfl, laneStops_of_laneRun fun _ => rfl, laneStops_of_laneRun fun _ => rfl,
      laneStops_of_laneRun fun _ => rfl, laneStops_of_laneRun fun _ => rfl, laneStops_of_laneRun fun _ => rfl,
      laneStops_of_laneRun fun _ => rfl, laneStops_of_laneRun fun _ => rfl, laneStops_of_laneRun fun _ => rfl,
      laneStops_of_laneRun fun _ => rfl, laneStops_of_laneRun fun _ => rfl, laneStops_of_laneRun fun _ => rfl,
      laneStops_of_laneRun fun _ => rfl, laneStops_of_laneRun fun _ => rfl, laneStops_of_laneRun fun _ => rfl,
      laneStops_of_laneRun fun _ => rfl, laneStops_of_laneRun fun _ => rfl, List.forall_mem_nil _⟩
  · simp only [List.forall_mem_cons]
    exact ⟨laneStops_of_laneRun fun _ => rfl, laneStops_of_laneRun fun _ => rfl, laneStops_of_laneRun fun _ => rfl,
      laneStops_of_laneRun fun _ => rfl, laneStops_of_laneRun fun _ => rfl, laneStops_of_laneRun fun _ => rfl,
      laneStops_of_laneRun fun _ => rfl, laneStops_of_laneRun fun _ => rfl, laneStops_of_laneRun fun _ => rfl,
      laneStops_of_laneRun fun _ => rfl, laneStops_of_laneRun fun _ => rfl, laneStops_of_laneRun fun _ => rfl,
      laneStops_of_laneRun fun _ => rfl, List.forall_mem_nil _⟩
  · simp only [List.forall_mem_cons]
    exact ⟨laneStops_of_laneRun fun _ => rfl, laneStops_of_laneRun fun _ => rfl, laneStops_of_laneRun fun _ => rfl,
      laneStops_of_laneRun fun _ => rfl, laneStops_of_laneRun fun _ => rfl, laneStops_of_laneRun fun _ => rfl,
      laneStops_of_laneRun fun _ => rfl, laneStops_of_laneRun fun _ => rfl, laneStops_of_laneRun fun _ => rfl,
      laneStops_of_laneRun fun _ => rfl, laneStops_of_laneRun fun _ => rfl, laneStops_of_laneRun fun _ => rfl,
      laneStops_of_laneRun fun _ => rfl, laneStops_of_laneRun fun _ => rfl, laneStops_of_laneRun fun _ => rfl, List.forall_mem_nil _⟩
  · simp only [List.forall_mem_cons]
    exact ⟨laneStops_of_laneRun fun _ => rfl, laneStops_of_laneRun fun _ => rfl, laneStops_of_laneRun fun _ => rfl,
      laneStops_of_laneRun fun _ => rfl, laneStops_of_laneRun fun _ => rfl, laneStops_of_laneRun fun _ => rfl,
      laneStops_of_laneRun fun _ => rfl, List.forall_mem_nil _⟩
  · have stops (i : Instr) (k : Thread → Nat → Thread) (he : ∀ s, exec i s = s.indexed d x b k) (s : State) (t : Nat) (T : Team) (tid : Nat)
        (th : Thread) (hc : s.cur = some (.lane t tid)) (ht : s.team? t = some T) (hi : T.thread? tid = some th) := by
      have hrange := (he s).trans ∘ indexed_regRange (d := d) (n := x) (b := b) k hc ht hi
      have hin (hr) := (he s).trans (indexed_inRange (d := d) (n := x) (b := b) k hc ht hi hr)
      exact And.intro hrange fun hr h1 h2 h3 => (hin hr).trans <| (if_neg (Nat.not_le.mpr h1)).trans <|
        (if_neg (Nat.not_le.mpr h2)).trans (if_pos h3)
    exact List.forall_mem_cons.mpr ⟨stops _ (fun y r => y.setReg d.toNat (y.reg r)) fun _ => rfl, List.forall_mem_cons.mpr
      ⟨stops _ (fun y r => y.setReg r (y.reg d.toNat)) fun _ => rfl, List.forall_mem_nil _⟩⟩

/-- Settles O10: each effect's writes are its destinations and flags, and the common entry adds only the stops. -/
theorem laneRegisterFrames : Obligations.LaneRegisterFrames := by
  intro o f e g k r c fc p q z d b n x w m rm op so dir k8 k4 kx p3 dl u v prop h bs ln od ed fd two no
  refine ⟨⟨laneFrame_of_dest fun _ => rfl, laneFrame_of_dest fun _ => rfl, laneFrame_of_dest fun _ => rfl, laneFrame_of_dest fun _ => rfl,
    laneFrame_of_dest fun _ => rfl, laneFrame_of_dest fun _ => rfl, laneFrame_of_dest fun _ => rfl, laneFrame_of_dest fun _ => rfl,
    laneFrame_of_dest fun _ => rfl, laneFrame_of_dest fun _ => rfl, laneFrame_of_dest fun _ => rfl, laneFrame_of_dest fun _ => rfl,
    laneFrame_of_dest fun _ => rfl, laneFrame_of_dest fun _ => rfl, laneFrame_of_dest fun _ => rfl, laneFrame_of_dest fun _ => rfl,
    laneFrame_of_dest fun _ => rfl, laneFrame_of_dest fun _ => rfl, laneFrame_of_dest fun _ => rfl, laneFrame_of_dest fun _ => rfl,
    laneFrame_of_dest fun _ => rfl⟩,
    ⟨laneFrame_of_laneEff (fun _ => rfl) fun _ => keepsBut_setPred (List.mem_singleton_self _) _, laneFrame_of_dest fun _ => rfl,
    laneFrame_of_dest fun _ => rfl, laneFrame_of_laneRun (fun _ => rfl) fun _ _ => keepsBut_dest _ _,
    laneFrame_of_laneEff (fun _ => rfl) fun _ => keepsBut_setPair (List.mem_cons_self ..) (List.mem_cons_of_mem _ (List.mem_singleton_self _)) _,
    laneFrame_of_laneEff (fun _ => rfl) fun _ => keepsBut_setPair (List.mem_cons_self ..) (List.mem_cons_of_mem _ (List.mem_singleton_self _)) _,
    laneFrame_of_laneEff (fun _ => rfl) fun _ => keepsBut_setPred (List.mem_singleton_self _) _, laneFrame_of_dest fun _ => rfl,
    laneFrame_of_laneEff (fun _ => rfl) fun _ => keepsBut_preds _ fun _ => getLsbD_of_not_allPreds _ _,
    laneFrame_of_laneEff (fun _ => rfl) fun _ => keepsBut_preds _ fun _ => getLsbD_masked _ _ _,
    laneFrame_of_indexed (k := fun y r => y.setReg d.toNat (y.reg r)) (fun _ => rfl) fun _ => keepsBut_dest _ _,
    laneFrame_of_indexed (k := fun y r => y.setReg r (y.reg d.toNat)) (fun _ => rfl) fun _ => keepsBut_dest _ _⟩,
    ⟨laneFrame_of_value fun _ => rfl, laneFrame_of_value fun _ => rfl, laneFrame_of_value fun _ => rfl, laneFrame_of_value fun _ => rfl,
    laneFrame_of_value fun _ => rfl, laneFrame_of_value fun _ => rfl,
    laneFrame_of_laneEff (fun _ => rfl) fun _ => KeepsBut.trans (keepsBut_setPred (List.mem_singleton_self _) _) (keepsBut_addFlags _),
    laneFrame_of_dest fun _ => rfl, laneFrame_of_value fun _ => rfl, laneFrame_of_value fun _ => rfl, laneFrame_of_value fun _ => rfl,
    laneFrame_of_value fun _ => rfl, laneFrame_of_value fun _ => rfl, laneFrame_of_value fun _ => rfl, laneFrame_of_value fun _ => rfl,
    laneFrame_of_value fun _ => rfl,
    laneFrame_of_laneEff (fun _ => rfl) fun _ => KeepsBut.trans (KeepsBut.trans
      (keepsBut_setPred (List.mem_cons_self ..) _) (keepsBut_setPred (List.mem_cons_of_mem _ (List.mem_singleton_self _)) _)) (keepsBut_addFlags _),
    laneFrame_of_value fun _ => rfl, laneFrame_of_value fun _ => rfl, laneFrame_of_laneEff (fun _ => rfl) fun _ => keepsBut_destNoFlags _ _⟩,
    ⟨laneFrame_of_value fun _ => rfl, laneFrame_of_value fun _ => rfl, laneFrame_of_value fun _ => rfl, laneFrame_of_value fun _ => rfl,
    laneFrame_of_value fun _ => rfl, laneFrame_of_value fun _ => rfl, laneFrame_of_value fun _ => rfl, laneFrame_of_value fun _ => rfl,
    laneFrame_of_value fun _ => rfl⟩, ?_⟩
  exact List.forall_mem_cons.mpr ⟨fun _ _ _ _ _ _ => setx_frame fun _ => rfl, List.forall_mem_cons.mpr
    ⟨fun _ _ _ _ _ _ => setx_frame (val := fun _ => ln ++ bs) fun _ => rfl, List.forall_mem_nil _⟩⟩

end Sys2Proof.Laws.LaneForms
end


section
/-! Words that the spec writes out, the machine at reset, and the memory by itself. -/

namespace Sys2Proof.Laws.Basics

open Sys2Proof.Machine

/-- Settles O58: the decoder is evaluated on each word. -/
theorem decodingWords : Obligations.DecodingWords :=
  ⟨rfl, rfl, rfl, rfl, rfl, rfl, rfl, rfl, rfl, rfl, rfl, rfl, rfl, rfl, rfl, rfl, rfl, ⟨_, rfl⟩, ⟨_, rfl⟩⟩

/-- Settles O11: what a store writes and leaves, the canonical form, and the numbers of little-endian bytes. -/
theorem memoryReadsWhatWasWritten : Obligations.MemoryReadsWhatWasWritten := by
  intro m m' a n v bs
  have hval : Memory.val (Memory.store m a (leBytes n v)) a n = v % 256 ^ n := by
    have h := Memory.bytes_store m a (leBytes n v)
    rw [leBytes_length] at h
    rw [Memory.val, h, leNat_leBytes]
  exact ⟨Memory.bytes_store m a bs, fun _ => Memory.get_store_out m a bs, hval,
    fun h => ⟨Memory.wf_store a bs h, Memory.wf_clear a n h, Memory.wf_copy a v n h⟩, Memory.wf_ext⟩

/-! ## The registers at reset -/

theorem ring_read_reset (a b c d e off : Nat) : Ring.reset.read a b c d e off = 0 := by
  simp [Ring.read, Ring.reset]

theorem slotmap_reset (k : Nat) : (State.reset.pod.slotmap.getD k 0).toNat = 0 := by
  match k with
  | 0 | 1 | 2 | 3 => rfl
  | k + 4 => rfl

/-- Every register below 0x1000 but those of the rails reads 0 at reset. -/
theorem regRead_reset {off : Nat} (h : off < 0x1000) (hr : ¬(0x200 ≤ off ∧ off < 0x220)) : State.reset.regRead off = 0 := by
  have hrrq : State.reset.rrq = .reset := rfl
  have hflt : State.reset.flt = .reset := rfl
  have hph : ¬(0x10000 ≤ off ∧ off < 0x18000) := by omega
  simp only [State.regRead, hrrq, hflt, ring_read_reset, slotmap_reset, if_neg hr, if_neg hph]
  simp [State.reset, Ctl.reset, CmdStat.reset, CmdStat.value, Cfg.reset, Pod.reset, Ring.reset]

theorem ctlByte_reset {off : Nat} (h : off < 0x1000) (hr : ¬(0x200 ≤ off ∧ off < 0x220)) : State.reset.ctlByte off = 0 := by
  rw [State.ctlByte, if_neg (by omega), if_neg (by omega), regRead_reset (by omega) (by omega)]
  simp

/-- Settles O55: the tables of the machine are empty, so every read of them gives the reset value. -/
theorem resetState : Obligations.ResetState :=
  ⟨rfl, rfl, rfl, rfl, rfl, rfl, rfl, rfl, rfl, fun _ => ⟨rfl, rfl, rfl⟩, fun _ => rfl, rfl, rfl,
    fun _ h h' => ctlByte_reset (by omega) (by omega), fun _ h h' hr => ctlByte_reset h' hr, fun _ => rfl, rfl⟩

end Sys2Proof.Laws.Basics
end


section
/-! The system instructions of the lane stream, the scalar instructions of the steering stream, and the events that write late results. -/

namespace Sys2Proof.Laws.SteerForms

open Sys2Proof.Machine Sys2Proof.Laws.PairsAndCounts Sys2Proof.Laws.LaneForms Sys2Proof.Laws.Rules

/-! ## Lane system instructions -/

theorem srd_dtime (d : Reg) (s : State) : exec (.srd d .dtime) s =
    s.laneRun [d.toNat, d.toNat + 1] [] fun t T tid th => .next (s.setThread t T tid (th.setPair d.toNat (BitVec.ofNat 64 s.dtime.toNat))) := rfl

theorem srd_of_ne {sel : Special} (h : sel ≠ .dtime) (d : Reg) (s : State) : exec (.srd d sel) s =
    s.laneRun [d.toNat] [] fun t T tid th =>
      .next (s.setThread t T tid (th.setReg d.toNat (BitVec.ofNat 32 (s.laneSpecial t T tid th sel)))) := by
  change s.laneRun _ _ _ = _
  simp only [if_neg h]
  rfl

/-- Settles O26: each is one effect behind the common entry. -/
theorem laneSystemResults : Obligations.LaneSystemResults := by
  intro code d sel clr
  refine ⟨laneDoes_of_laneRun fun _ => rfl, laneDoes_of_laneRun fun _ => rfl, laneDoes_of_laneRun fun _ => rfl,
    laneDoes_of_laneRun fun _ => rfl, ?_, fun h => ?_, laneSets_of_laneEff fun _ => rfl⟩
  · exact laneDoes_of_laneRun fun s => (srd_dtime d s).trans (by rw [BitVec.ofNat_toNat, BitVec.setWidth_eq])
  · refine laneDoes_of_laneRun fun s => (srd_of_ne h d s).trans ?_
    cases sel with
    | dtime => exact absurd rfl h
    | _ => rfl

/-! ## Steering scalar instructions -/

section Forms

variable {i : Instr} {regs : List Nat}

theorem steerDoes_of_steerRun {k : State → Nat → Team → State} (he : ∀ s, exec i s = s.steerRun regs fun t T _ => .next (k s t T)) :
    SteerDoes i regs k := fun s _ _ h => (he s).trans (State.steerRun_ready h _)

variable {rs cs : List Nat} {st st1 : Steer}

theorem steerKeepsBut_setReg {n : Nat} (h : n ∈ rs) (w : Word) : st.KeepsBut ({ st with st := .running }.setReg n w) rs cs :=
  ⟨rfl, fun _ hr => Steer.reg_setReg_ne _ _ fun e => hr (e ▸ h), fun _ _ => rfl⟩

theorem steerKeepsBut_setPair {n : Nat} (h : n ∈ rs) (h' : n + 1 ∈ rs) (d : DWord) :
    st.KeepsBut ({ st with st := .running }.setPair n d) rs cs :=
  ⟨rfl, fun _ hr => (Steer.reg_setReg_ne _ _ (ne_of_mem_of_not_mem h' hr).symm).trans
    (Steer.reg_setReg_ne _ _ (ne_of_mem_of_not_mem h hr).symm), fun _ _ => rfl⟩

theorem steerKeepsBut_setCond {n : Nat} (h : n ∈ cs) (b : Bool) : st.KeepsBut ({ st with st := .running }.setCond n b) rs cs :=
  ⟨rfl, fun _ _ => rfl, fun _ hc => Steer.cond_setCond_ne _ b fun e => hc (e ▸ h)⟩

/-- The frame of an effect on the steering thread alone: it waits for a late result, or that effect takes place. -/
theorem steerFrame_of_steerEff {f : Steer → Steer} (he : ∀ s, exec i s = s.steerEff regs f)
    (hf : ∀ st : Steer, st.KeepsBut (f { st with st := .running }) rs cs) : SteerFrame i rs cs := by
  intro s s' t T hc ht h
  by_cases hl : T.steer.late.any (fun l => regs.any l.dregs.contains) = true
  · exact .inl (Host.Outcome.next.inj (h.symm.trans ((he s).trans (State.steerRun_stall hc ht hl _))))
  · have hr : s.SteerReady t T regs := ⟨hc, ht, Bool.eq_false_iff.mpr hl⟩
    obtain rfl := Host.Outcome.next.inj (h.symm.trans ((he s).trans (State.steerEff_ready hr f)))
    exact .inr (.inr ⟨onlyTeam_setTeam s t _, _, State.team?_setTeam .., hf T.steer⟩)

theorem steerFrame_of_dest {n : Nat} {w : Steer → Word} (he : ∀ s, exec i s = s.steerEff regs fun st => st.setReg n (w st)) :
    SteerFrame i [n] [] := steerFrame_of_steerEff he fun _ => steerKeepsBut_setReg (List.mem_singleton_self n) _

theorem steerFrame_of_sint3 {o : S3} {f : Word → Word → Word} (he : ∀ s, exec i s = s.sint3 o f) : SteerFrame i [o.d.toNat] [] :=
  steerFrame_of_dest he

theorem steerFrame_of_sint2 {o : S2} {f : Word → Word} (he : ∀ s, exec i s = s.sint2 o f) : SteerFrame i [o.d.toNat] [] :=
  steerFrame_of_dest he

theorem steerFrame_of_cond {n : Nat} {b : Steer → Bool} (he : ∀ s, exec i s = s.steerEff regs fun st => st.setCond n (b st)) :
    SteerFrame i [] [n] := steerFrame_of_steerEff he fun _ => steerKeepsBut_setCond (List.mem_singleton_self n) _

theorem steerFrame_of_none (he : ∀ s, exec i s = s.steerEff regs fun st => st) : SteerFrame i [] [] :=
  steerFrame_of_steerEff he fun _ => ⟨rfl, fun _ _ => rfl, fun _ _ => rfl⟩

end Forms

/-- Settles O29: each is one effect on the steering thread; a division enters its quotient or remainder as a late result. -/
theorem steerScalarResults : Obligations.SteerScalarResults := by
  intro o e rev u n c p q z a d b op three late
  exact ⟨steerSets_of_steerEff fun _ => rfl, steerSets_of_steerEff fun _ => rfl, steerSets_of_steerEff fun _ => rfl,
    steerSets_of_steerEff fun _ => rfl, steerSets_of_steerEff fun _ => rfl, steerSets_of_steerEff fun _ => rfl,
    steerSets_of_steerEff fun _ => rfl, steerSets_of_steerEff fun _ => rfl, steerSets_of_steerEff fun _ => rfl,
    steerSets_of_steerEff fun _ => rfl, steerSets_of_steerEff fun _ => rfl, steerSets_of_steerEff fun _ => rfl,
    steerSets_of_steerEff fun _ => rfl, steerSets_of_steerEff fun _ => rfl, steerSets_of_steerEff fun _ => rfl,
    steerSets_of_steerEff fun _ => rfl, steerSets_of_steerEff fun _ => rfl, steerSets_of_steerEff fun _ => rfl,
    steerSets_of_steerEff fun _ => rfl, steerSets_of_steerEff fun _ => rfl,
    steerDoes_of_steerRun fun _ => rfl, steerDoes_of_steerRun fun _ => rfl⟩

/-- Settles O30: the common entry waits, or the effect writes its destination. -/
theorem steerScalarFrames : Obligations.SteerScalarFrames := by
  intro o e rev u n c p q z a d b op
  exact ⟨steerFrame_of_sint3 (f := fun a b => a + b) fun _ => rfl, steerFrame_of_sint3 (f := fun a b => if rev then b - a else a - b) fun _ => rfl,
    steerFrame_of_sint3 (f := fun a b => a * b) fun _ => rfl,
    steerFrame_of_sint3 (f := fun a b => if u then Alu.mulhu a b else Alu.mulhs a b) fun _ => rfl,
    steerFrame_of_sint3 (f := Alu.min u) fun _ => rfl, steerFrame_of_sint3 (f := Alu.max u) fun _ => rfl,
    steerFrame_of_sint3 (f := fun a b => a &&& b) fun _ => rfl, steerFrame_of_sint3 (f := fun a b => a ||| b) fun _ => rfl,
    steerFrame_of_sint3 (f := fun a b => a ^^^ b) fun _ => rfl, steerFrame_of_sint3 (f := Alu.shl) fun _ => rfl,
    steerFrame_of_sint3 (f := Alu.shr) fun _ => rfl, steerFrame_of_sint3 (f := Alu.sar) fun _ => rfl,
    steerFrame_of_sint3 (f := Alu.bfx) fun _ => rfl, steerFrame_of_sint2 (f := Alu.popc) fun _ => rfl,
    steerFrame_of_sint2 (f := Alu.clz) fun _ => rfl,
    steerFrame_of_cond (b := fun st => Alu.icmp c (st.reg a.toNat) (ssrcVal b st)) fun _ => rfl,
    steerFrame_of_dest (w := fun st => if st.cond p.toNat != n then st.reg o.a.toNat else ssrcVal o.b st) fun _ => rfl,
    steerFrame_of_dest (w := fun st => ssrcVal b st) fun _ => rfl,
    steerFrame_of_steerEff (f := fun st => st.setPair o.d.toNat (st.pairAt o.a.toNat + ssrcPair o.b st)) (fun _ => rfl) fun _ =>
          steerKeepsBut_setPair (List.mem_cons_self ..) (List.mem_cons_of_mem _ (List.mem_singleton_self _)) _,
    steerFrame_of_cond (b := fun st => Alu.plop op (st.cond q.toNat) (st.cond z.toNat)) fun _ => rfl, steerFrame_of_none fun _ => rfl,
    steerFrame_of_none fun _ => rfl⟩

/-! ## Late results land -/

section Land

variable {th : Thread} {id : Nat} {l : Late}

/-- The thread with the registers of a late result written in turn. -/
def writeRegs (l : Late) (th : Thread) : Thread := l.regs.foldl (fun y e => y.setReg e.1 e.2) th

/-- The thread with the predicates of a late result written in turn. -/
def writePreds (l : Late) (th : Thread) : Thread := l.preds.foldl (fun y e => y.setPred e.1 e.2) th

/-- The late results behind the landing of one: it is done, and what is done and out of its shadow leaves. -/
def landed (id : Nat) (ls : List Late) : List Late :=
  (ls.map fun x => if x.id = id then { x with st := .done } else x).filter fun x => !(x.st == .done && x.shadow == 0)

/-- A due result is written: its registers, then its predicates, then its flags; the result is done. -/
theorem landLate_due (h : List.find? (fun (x : Late) => x.id == id && x.st == .due) th.late = some l) :
    th.landLate id = { th with
      v := (writeRegs l th).v, p := (writePreds l (writeRegs l th)).p, sticky := th.sticky ||| l.flags, late := landed id th.late } := by
  have hb : writePreds l (writeRegs l th) = { th with v := (writeRegs l th).v, p := (writePreds l (writeRegs l th)).p } :=
    (foldl_setPred_rest _ l.preds).trans (congrArg (fun y : Thread => { y with p := (writePreds l (writeRegs l th)).p })
      (foldl_setReg_rest th l.regs))
  simp only [Thread.landLate, h]
  exact congrArg (fun y : Thread => { y.addFlags l.flags with late := landed id y.late }) hb

theorem done_of_mem_landed {ls : List Late} {x : Late} (hx : x ∈ landed id ls) (hid : x.id = id) : x.st = .done := by
  obtain ⟨y, _, rfl⟩ := List.mem_map.mp (List.mem_of_mem_filter hx)
  by_cases hy : y.id = id
  · rw [if_pos hy]
  · rw [if_neg hy] at hid
    exact absurd hid hy

theorem landLate_not_due (h : List.find? (fun (x : Late) => x.id == id && x.st == .due) th.late = none) : th.landLate id = th := by
  simp only [Thread.landLate, h]

theorem steerLandLate_due {st : Steer} (h : List.find? (fun (x : Late) => x.id == id && x.st == .due) st.late = some l) :
    st.landLate id = { l.regs.foldl (fun y e => y.setReg e.1 e.2) st with late := st.late.filter fun x => x.id != id } := by
  simp only [Steer.landLate, h]

/-- What a due result writes and what it leaves as it was. -/
theorem landLate_writes (h : List.find? (fun (x : Late) => x.id == id && x.st == .due) th.late = some l) :
    (∀ r, r ∉ l.regs.map Prod.fst → (th.landLate id).reg r = th.reg r) ∧
    ((l.regs.map Prod.fst).Nodup → ∀ e ∈ l.regs, (th.landLate id).reg e.1 = e.2) ∧
    (∀ p, p ∉ l.preds.map Prod.fst → (th.landLate id).pred p = th.pred p) ∧ (th.landLate id).sticky = th.sticky ||| l.flags ∧
    (∀ x ∈ (th.landLate id).late, x.id = id → x.st = .done) ∧ (th.landLate id).st = th.st ∧ (th.landLate id).pos = th.pos := by
  have hp (p : Nat) : (writeRegs l th).pred p = th.pred p := by rw [writeRegs, foldl_setReg_rest th l.regs]; rfl
  rw [landLate_due h]
  exact ⟨fun r hr => reg_foldl_setReg_of_not_mem th _ hr, fun hn e he => reg_foldl_setReg_of_mem th _ hn he,
    fun p hn => (pred_foldl_setPred_of_not_mem _ _ hn).trans (hp p), rfl, fun x => done_of_mem_landed, rfl, rfl⟩

end Land

/-- The event that writes a late result of a lane thread changes that thread and the wait latches of its partition. -/
theorem exec_lateResultWrite_lane {s : State} {t tid : Nat} {T : Team} {th : Thread} (id : Nat) (ht : s.team? t = some T)
    (hi : T.thread? tid = some th) :
    ∃ s', exec (.lateResultWrite (.lane t tid) id) s = .next s' ∧ s'.team? t = some (T.modThread tid fun y => y.landLate id) ∧
      s'.mem = s.mem := by
  have h1 : (s.modThread t tid fun y => y.landLate id).team? t = some (T.modThread tid fun y => y.landLate id) := by simp [ht]
  change ∃ s', execLateResultWrite (.lane t tid) id s = .next s' ∧ _
  simp only [execLateResultWrite, ht, hi]
  split
  · exact ⟨_, rfl, h1, rfl⟩
  · exact ⟨_, rfl, h1, rfl⟩

theorem exec_lateResultWrite_next (s : State) (t tid id : Nat) : ∃ s', exec (.lateResultWrite (.lane t tid) id) s = .next s' := by
  change ∃ s', execLateResultWrite (.lane t tid) id s = .next s'
  simp only [execLateResultWrite]
  split
  · exact ⟨_, rfl⟩
  · split
    · exact ⟨_, rfl⟩
    · exact ⟨_, rfl⟩

/-- What a late result of the steering thread writes and leaves as it was. -/
theorem steerLandLate_writes {st : Steer} {id : Nat} {l : Late}
    (h : List.find? (fun (x : Late) => x.id == id && x.st == .due) st.late = some l) :
    (∀ r, r ∉ l.regs.map Prod.fst → (st.landLate id).reg r = st.reg r) ∧
    ((l.regs.map Prod.fst).Nodup → ∀ e ∈ l.regs, (st.landLate id).reg e.1 = e.2) ∧ ∀ x ∈ (st.landLate id).late, x.id ≠ id := by
  rw [steerLandLate_due h]
  exact ⟨fun _ hr => steerReg_foldl_of_not_mem st _ hr, fun hn _ he => steerReg_foldl_of_mem st _ hn he,
    fun x hx => by simpa using (List.mem_filter.mp hx).2⟩

theorem exec_lateResultWrite_steer (s : State) (t id : Nat) :
    exec (.lateResultWrite (.steer t) id) s = .next (s.modTeam t fun T => { T with steer := T.steer.landLate id }) := rfl

theorem exec_reservedEncoding_lane {s : State} {t tid : Nat} {T : Team} {th : Thread} (code : BitVec 8) (hc : s.cur = some (.lane t tid))
    (ht : s.team? t = some T) (hi : T.thread? tid = some th) :
    exec (.reservedEncoding code) s = .next (s.stopLane t T tid th { code := code }) := by
  change execReservedEncoding code s = _
  simp only [execReservedEncoding, hc]
  exact State.lane_cur hc ht hi _

theorem exec_reservedEncoding_steer {s : State} {t : Nat} {T : Team} (code : BitVec 8) (hc : s.cur = some (.steer t))
    (ht : s.team? t = some T) :
    exec (.reservedEncoding code) s = .next (s.stopSteer t { T with steer := T.steer.useLatches } { code := code }) := by
  change execReservedEncoding code s = _
  simp only [execReservedEncoding, hc, State.steer, ht]

/-- Settles O36: the event's effect on its party, whichever of the outstanding results it names. -/
theorem lateResultsLand : Obligations.LateResultsLand := by
  intro s t tid id T th l code ht
  refine ⟨fun hi hl => ?_, ?_, exec_lateResultWrite_steer s t id, fun hi hl => ?_, fun hl => ?_,
    fun hc hi => exec_reservedEncoding_lane code hc ht hi, fun hc => exec_reservedEncoding_steer code hc ht⟩
  · obtain ⟨s', he, hT, hm⟩ := exec_lateResultWrite_lane id ht hi
    obtain ⟨hreg, hval, hpred, hst, hlate, hs, hp⟩ := landLate_writes hl
    exact ⟨s', _, th.landLate id, he, hT, by simp [hi], hreg, hval, hpred, hst, hlate, hs, hp, fun a => by rw [hm]⟩
  · exact exec_lateResultWrite_next s t tid id
  · obtain ⟨s', he, hT, _⟩ := exec_lateResultWrite_lane id ht hi
    exact ⟨s', _, he, hT, by simp [hi, landLate_not_due hl]⟩
  · exact ⟨_, _, exec_lateResultWrite_steer s t id, (team?_modTeam ..).trans (congrArg _ ht), steerLandLate_writes hl⟩

end Sys2Proof.Laws.SteerForms
end


section
/-! The memory accesses of this K9 of a lane thread (R325-R334): what a judged load or store answers, and what a store does when it takes its place in
the order of memory. -/

namespace Sys2Proof.Laws.LocalAccess

open Sys2Proof.Machine Sys2Proof.Laws.Rules

/-! ## What stores do to memory -/

@[simp] theorem spoilMem_mem (s : State) (pa n : Nat) : (s.spoilMem pa n).mem = s.mem := rfl

@[simp] theorem spoilScr_mem (s : State) (t off n : Nat) : (s.spoilScr t off n).mem = s.mem := rfl

@[simp] theorem store_mem (s : State) (a : Nat) (bs : List Byte) : (s.store a bs).mem = Memory.store s.mem a bs := rfl

@[simp] theorem lateLane_mem (s : State) (t : Nat) (T : Team) (tid : Nat) (th : Thread) (la : Nat) (dregs dpreds : List Nat)
    (regs : List (Nat × Word)) (preds : List (Nat × Bool)) (flags : FlagSet) :
    (s.lateLane t T tid th la dregs dpreds regs preds flags).mem = s.mem := rfl

/-- A state whose memory is another's with bytes stored in it: they are read there, and every other byte reads as before. -/
theorem reads_of_stored {s s' : State} {a : Nat} {bs : List Byte} (h : s'.mem = Memory.store s.mem a bs) :
    s'.bytes a bs.length = bs ∧ SameMemoryBut s s' a bs.length :=
  ⟨by rw [State.bytes, h, Memory.bytes_store], fun x hx => by rw [h, Memory.get_store_out _ _ _ hx]⟩

theorem sameMemory_of_mem {s s' : State} (h : s'.mem = s.mem) : SameMemory s s' := fun a => by rw [h]

/-- The bytes of a store or an atomic in memory are stored, and nothing else of memory changes. -/
theorem performBytes_mem {p : Pending} (h : p.scr = false) (s : State) (data : List Byte) :
    (s.performBytes p data).mem = Memory.store s.mem p.addr data := by simp [State.performBytes, h]

theorem performBytes_scr_mem {p : Pending} (h : p.scr = true) (s : State) (data : List Byte) : (s.performBytes p data).mem = s.mem := by
  simp [State.performBytes, h]

theorem performOne_store {p : Pending} (h : p.rmw = none) (s : State) : s.performOne p = s.performBytes p p.data := by
  simp only [State.performOne, h]

theorem performOne_rmw {p : Pending} {o : Todo} {late : Nat} {T : Team} {s : State} (h : p.rmw = some (o, late)) (ht : s.team? p.team = some T) :
    s.performOne p =
      let r := o.rmw (if p.scr then T.sbytes p.addr o.width else s.bytes p.addr o.width)
      (s.performBytes p r.1).modThread p.team p.tid fun th => th.due late r.2.1 [] r.2.2 := by
  simp only [State.performOne, h, ht]

theorem performOne_scr_mem {p : Pending} (h : p.scr = true) (s : State) : (s.performOne p).mem = s.mem := by
  unfold State.performOne
  split
  · exact performBytes_scr_mem h s _
  · split
    · rfl
    · exact performBytes_scr_mem h s _

theorem place_holding {s : State} (h : s.holding = true) (p : Pending) : s.place p = { s with pending := s.pending ++ [p] } := by
  simp [State.place, h]

theorem place_not_holding {s : State} (h : s.holding = false) (p : Pending) : s.place p = s.performOne p := by
  simp [State.place, h]

theorem place_scr_mem (s : State) {p : Pending} (h : p.scr = true) : (s.place p).mem = s.mem := by
  unfold State.place
  split
  · rfl
  · exact performOne_scr_mem h s

/-! ## Loads -/

section Load

variable {s s1 : State} {t tid : Nat} {T : Team} {th : Thread} {a : DWord} {z : Size} {d la : Nat}

theorem gLoad_fault {k : BitVec 8} (h : s.locate T (some tid) a z.bytes = .inr k) :
    s.gLoad t T tid th a z d la = s.stopLane t T tid th (trapAt k 0 a) := by simp only [State.gLoad, h]

theorem gLoad_scr {off : Nat} (h : s.locate T (some tid) a z.bytes = .inl (.scr off)) :
    s.gLoad t T tid th a z d la = s.scrLoad t T tid th off z d la true := by simp only [State.gLoad, h]

theorem gLoad_mem {priv : Bool} {va : Nat} (h : s.locate T (some tid) a z.bytes = .inl (.mem priv va)) :
    s.gLoad t T tid th a z d la =
      match s.judgeLoad T.ctx T.cluster priv va with
      | (s1, .bad k q) => s1.stopLane t T tid th (trapAt k q a)
      | (s1, .nonres) => s1.lateLane t T tid th la (span d z.regs) [15] (loadVals z d []) [(15, true)] 0
      | (s1, .ok pa _) => s1.lateLane t T tid th la (span d z.regs) [15] (loadVals z d (s1.bytes pa z.bytes)) [] 0 := by
  simp only [State.gLoad, h] <;> rfl

theorem scrLoad_present {off : Nat} {r15 : Bool} (h : T.lineAbsent (off / 128) = false) :
    s.scrLoad t T tid th off z d la r15 =
      s.lateLane t T tid th la (span d z.regs) (if r15 then [15] else []) (loadVals z d (T.sbytes off z.bytes)) [] 0 := by
  simp [State.scrLoad, h]

theorem scrLoad_absent {off : Nat} {r15 : Bool} (h : T.lineAbsent (off / 128) = true) :
    s.scrLoad t T tid th off z d la r15 = s.park t T tid th (.line (off / 128) (.load z d la off r15)) := by
  simp [State.scrLoad, h]

/-- A judged load reads the bytes as they stood before it was judged. -/
theorem bytes_of_judgeLoad {c : CtxId} {cl : Option Nat} {priv : Bool} {va : Nat} {acc : Acc} (h : s.judgeLoad c cl priv va = (s1, acc))
    (pa n : Nat) : s1.bytes pa n = s.bytes pa n :=
  State.bytes_of_mem (by simpa [h] using State.judgeLoad_mem s c cl priv va) pa n

end Load

theorem exec_eq_ld (m : MArgs) (s : State) : exec (.ld m) s = execLd m s := rfl

theorem mAddr_unfenced (m : MArgs) (th : Thread) : mAddr m { th with fenced := false } = mAddr m th := rfl

theorem mSaddr_unfenced (m : MArgs) (th : Thread) : mSaddr m { th with fenced := false } = mSaddr m th := rfl

theorem exec_ld {s : State} {t tid : Nat} {T : Team} {th : Thread} {m : MArgs}
    (h : s.LaneReady t T tid th (span m.d.toNat m.sz.regs ++ mRegs m) [15]) :
    exec (.ld m) s = .next (s.gLoad t T tid { th with fenced := false } (mAddr m th) m.sz m.d.toNat m.la.toNat) := by
  rw [exec_eq_ld, execLd, State.memRun_ready h, mAddr_unfenced]

theorem exec_eq_lds (m : MArgs) (s : State) : exec (.lds m) s = execLds m s := rfl

section Lds

variable {s : State} {t tid : Nat} {T : Team} {th : Thread} {m : MArgs} (h : s.LaneReady t T tid th (span m.d.toNat m.sz.regs ++ [m.a.toNat]) [])
include h

theorem exec_lds_fault {k : BitVec 8} (hk : s.locate T (some tid) (mSaddr m th) m.sz.bytes = .inr k) :
    exec (.lds m) s = .next (s.stopLane t T tid { th with fenced := false } (trapAt k 0 (mSaddr m th))) := by
  rw [← mSaddr_unfenced] at hk ⊢
  rw [exec_eq_lds, execLds, State.memRun_ready h]
  simp only [hk]

theorem exec_lds_scr {off : Nat} (ho : s.locate T (some tid) (mSaddr m th) m.sz.bytes = .inl (.scr off)) :
    exec (.lds m) s = .next (s.scrLoad t T tid { th with fenced := false } off m.sz m.d.toNat m.la.toNat false) := by
  rw [← mSaddr_unfenced] at ho
  rw [exec_eq_lds, execLds, State.memRun_ready h]
  simp only [ho]

end Lds

/-- Settles O12: the address is located, then judged; each answer of the two has its outcome. -/
theorem loadOutcomes : Obligations.LoadOutcomes := by
  intro s t tid T th m z d la th0
  refine ⟨fun h => ?_, fun h => ?_, fun c cl priv va => State.judgeLoad_mem s c cl priv va⟩
  · intro a
    refine ⟨fun k hk => ?_, fun off ho => ⟨fun hp => ?_, fun hp => ?_⟩, fun priv va s1 hl => ⟨fun pa q hj => ?_, fun hj => ?_, fun k q hj => ?_⟩⟩
    · rw [exec_ld h, gLoad_fault hk]
    · rw [exec_ld h, gLoad_scr ho, scrLoad_present hp, if_pos rfl]
    · rw [exec_ld h, gLoad_scr ho, scrLoad_absent hp]
    · rw [exec_ld h, gLoad_mem hl, hj, ← bytes_of_judgeLoad hj]
    · rw [exec_ld h, gLoad_mem hl, hj]
    · rw [exec_ld h, gLoad_mem hl, hj]
  · intro a
    refine ⟨fun k hk => ?_, fun off ho => ⟨fun hp => ?_, fun hp => ?_⟩⟩
    · rw [exec_lds_fault h hk]
    · rw [exec_lds_scr h ho, scrLoad_present hp, if_neg Bool.false_ne_true]
    · rw [exec_lds_scr h ho, scrLoad_absent hp]

/-! ## Stores -/

section Store

variable {s s1 : State} {t tid : Nat} {T : Team} {th : Thread} {a : DWord} {data : List Byte}

theorem gStore_fault {k : BitVec 8} (h : s.locate T (some tid) a data.length = .inr k) :
    s.gStore t T tid th a data = s.stopLane t T tid th (trapAt k 0 a) := by simp only [State.gStore, h]

theorem gStore_scr {off : Nat} (h : s.locate T (some tid) a data.length = .inl (.scr off)) :
    s.gStore t T tid th a data = s.scrStore t T tid th off data := by simp only [State.gStore, h]

theorem gStore_ok {priv q : Bool} {va pa : Nat} (h : s.locate T (some tid) a data.length = .inl (.mem priv va))
    (hj : s.judgeStore T.ctx T.cluster priv va false = (s1, .ok pa q)) :
    s.gStore t T tid th a data = (s1.setThread t T tid th).place ⟨t, tid, false, pa, data, none⟩ := by simp only [State.gStore, h, hj]

theorem gStore_bad {priv : Bool} {va : Nat} {k : BitVec 8} {q : BitVec 4} (h : s.locate T (some tid) a data.length = .inl (.mem priv va))
    (hj : s.judgeStore T.ctx T.cluster priv va false = (s1, .bad k q)) :
    s.gStore t T tid th a data = s1.stopLane t T tid th (trapAt k q a) := by simp only [State.gStore, h, hj]

theorem scrStore_absent {off : Nat} (h : T.lineAbsent (off / 128) = true) :
    s.scrStore t T tid th off data = s.park t T tid th (.line (off / 128) (.store off data)) := by simp [State.scrStore, h]

theorem scrStore_present {off : Nat} (h : T.lineAbsent (off / 128) = false) :
    s.scrStore t T tid th off data = (s.setThread t T tid th).place ⟨t, tid, true, off, data, none⟩ := by simp [State.scrStore, h]

/-- A store that is not held takes its place at once: its bytes stand in memory, and every other byte as before. -/
theorem place_store_reads (hh : s1.holding = false) (pa : Nat) :
    ((s1.setThread t T tid th).place ⟨t, tid, false, pa, data, none⟩).bytes pa data.length = data ∧
      SameMemoryBut s1 ((s1.setThread t T tid th).place ⟨t, tid, false, pa, data, none⟩) pa data.length := by
  rw [place_not_holding (by simpa using hh), performOne_store rfl]
  exact reads_of_stored (performBytes_mem rfl (s1.setThread t T tid th) data)

end Store

theorem exec_eq_st (m : MArgs) (s : State) : exec (.st m) s = execSt m s := rfl

theorem exec_eq_sts (m : MArgs) (s : State) : exec (.sts m) s = execSts m s := rfl

theorem storeBytes_unfenced (th : Thread) (z : Size) (d : Nat) : Thread.storeBytes { th with fenced := false } z d = th.storeBytes z d :=
  Thread.storeBytes_congr (th := th) (th' := { th with fenced := false }) rfl z d

theorem exec_st {s : State} {t tid : Nat} {T : Team} {th : Thread} {m : MArgs}
    (h : s.LaneReady t T tid th (span m.d.toNat m.sz.regs ++ mRegs m) []) :
    exec (.st m) s = .next (s.gStore t T tid { th with fenced := false } (mAddr m th) (th.storeBytes m.sz m.d.toNat)) := by
  rw [exec_eq_st, execSt, State.memRun_ready h, mAddr_unfenced, storeBytes_unfenced]

theorem exec_sts {s : State} {t tid : Nat} {T : Team} {th : Thread} {m : MArgs}
    (h : s.LaneReady t T tid th (span m.d.toNat m.sz.regs ++ [m.a.toNat]) []) :
    exec (.sts m) s = .next (s.gStore t T tid { th with fenced := false } (mSaddr m th) (th.storeBytes m.sz m.d.toNat)) := by
  rw [exec_eq_sts, execSts, State.memRun_ready h, mSaddr_unfenced, storeBytes_unfenced]

/-! ### Judging a store (R58, R60, R62) -/

theorem bank_setBank (s : State) (k j : Nat) (b : Bank) : (s.setBank k b).bank j = if j = k then b else s.bank j := by
  by_cases h : j = k
  · rw [if_pos h, h]
    exact Map.get_set_self ..
  · rw [if_neg h]
    exact Map.get_set_ne _ _ _ h

/-- A line access leaves whether each line can be accessed as it was. -/
theorem lineFault_touch (s : State) (c : Option CtxId) (pa x : Nat) : (s.touch c pa).lineFault x = s.lineFault x := by
  have held (b : Bank) (hc : b.clr = (s.bank (setOf pa)).clr) (hs : b.state = (s.bank (setOf pa)).state) :
      (s.setBank (setOf pa) b).lineFault x = s.lineFault x := by
    simp only [State.lineFault, bank_setBank]
    by_cases hx : setOf x = setOf pa
    · simp only [hx, if_true, hc, hs]
      rfl
    · simp only [if_neg hx]
      rfl
  unfold State.touch
  dsimp only
  split
  · rfl
  · split
    · exact held _ rfl rfl
    · split
      · exact held _ rfl rfl
      · exact held _ rfl rfl

section Judge

variable {s s1 : State} {c : CtxId} {cl : Option Nat} {va : Nat} {full : Bool} {e : Pte} (h : s.translate c cl va = (s1, .entry e))
include h

theorem mem_of_translate : s1.mem = s.mem := by simpa [h] using State.translate_mem s c cl va

theorem judgeStore_nonres (he : e.res = false) : s.judgeStore c cl false va full = (s1, .bad Code.storeNonres 0) := by
  simp [State.judgeStore, State.judgeStoreOnce, h, he]

theorem judgeStore_protected (he : e.res = true) (hw : (e.w && !e.sro) = false) (hc : (e.cow && !e.w && e.size == 0) = false) :
    s.judgeStore c cl false va full = (s1, .bad Code.protection 0) := by
  simp [State.judgeStore, State.judgeStoreOnce, h, he, hw, hc]

theorem judgeStore_dirty (he : e.res = true) (hw : (e.w && !e.sro) = true) (hd : e.d = true) (hl : s1.lineFault (e.pa va) = none) :
    ∃ s2, s.judgeStore c cl false va full = (s2, .ok (e.pa va) e.rrc) ∧ s2.mem = s.mem := by
  have hline : (s1.touch (some c) (e.pa va)).atLine (e.pa va) e.rrc full = .ok (e.pa va) e.rrc := by
    simp only [State.atLine, lineFault_touch, hl]
  refine ⟨s1.touch (some c) (e.pa va), ?_, by rw [State.touch_mem, mem_of_translate h]⟩
  simp [State.judgeStore, State.judgeStoreOnce, h, he, hw, hd, hline]

end Judge

/-- Settles O13: the address is located, then judged; a judged store is placed, and what a placed store writes is read back. -/
theorem storeOutcomes : Obligations.StoreOutcomes := by
  refine ⟨fun s t tid T th m => ?_, fun s p => ⟨fun hs hr => ?_, fun hs => sameMemory_of_mem (performOne_scr_mem hs s)⟩,
    fun s s1 c cl va full e h => ?_⟩
  · intro data th0 outcomes
    have outcomes_of (i : Instr) (a : DWord) (he : exec i s = .next (s.gStore t T tid th0 a data)) : outcomes i a := by
      refine ⟨fun k hk => ?_, fun off ho => ⟨fun hp => ?_, fun hp => ?_⟩, fun priv va s1 hl => ⟨fun pa q hj => ?_, fun k q hj => ?_⟩⟩
      · rw [he, gStore_fault hk]
      · rw [he, gStore_scr ho, scrStore_absent hp]
      · exact ⟨_, by rw [he, gStore_scr ho, scrStore_present hp], rfl, sameMemory_of_mem (place_scr_mem _ rfl)⟩
      · refine ⟨_, by rw [he, gStore_ok hl hj], rfl, fun hh => place_store_reads hh pa, fun hh => ?_⟩
        rw [place_holding (by simpa using hh)]
        exact ⟨rfl, fun _ => rfl⟩
      · rw [he, gStore_bad hl hj]
    exact ⟨fun h => outcomes_of _ _ (exec_st h), fun h => outcomes_of _ _ (exec_sts h)⟩
  · rw [performOne_store hr]
    exact reads_of_stored (performBytes_mem hs s p.data)
  · intro r
    refine ⟨fun he => ?_, fun he hw hc => ?_, fun he hw hd hl => ?_⟩
    · have hr : r = (s1, .bad Code.storeNonres 0) := judgeStore_nonres h he
      exact ⟨by rw [hr], by rw [hr]; exact mem_of_translate h⟩
    · have hr : r = (s1, .bad Code.protection 0) := judgeStore_protected h he hw hc
      exact ⟨by rw [hr], by rw [hr]; exact mem_of_translate h⟩
    · obtain ⟨s2, hr, hm⟩ := judgeStore_dirty (full := full) h he hw hd hl
      have hr : r = (s2, .ok (e.pa va) e.rrc) := hr
      exact ⟨by rw [hr], by rw [hr]; exact hm⟩

/-! ## Atomics -/

section Atomic

variable {s s1 : State} {t tid : Nat} {T : Team} {th : Thread} {a : DWord} {la : Nat} {r : Rmw}

theorem gRmw_fault {k : BitVec 8} (h : s.locate T (some tid) a r.n = .inr k) :
    s.gRmw t T tid th a la r = s.stopLane t T tid th (trapAt k 0 a) := by simp only [State.gRmw, h]

theorem gRmw_absent {off : Nat} (h : s.locate T (some tid) a r.n = .inl (.scr off)) (hp : T.lineAbsent (off / 128) = true) :
    s.gRmw t T tid th a la r = s.park t T tid (th.addFlags r.now) (.line (off / 128) (r.todo off)) := by
  simp only [State.gRmw, h, hp, if_true]

theorem gRmw_scr_held {off : Nat} (h : s.locate T (some tid) a r.n = .inl (.scr off)) (hp : T.lineAbsent (off / 128) = false)
    (hh : s.holding = true) : s.gRmw t T tid th a la r = s.holdRmw t T tid (th.addFlags r.now) la r.dregs true off (r.todo off) := by
  simp [State.gRmw, h, hp, hh]

theorem gRmw_scr {off : Nat} (h : s.locate T (some tid) a r.n = .inl (.scr off)) (hp : T.lineAbsent (off / 128) = false)
    (hh : s.holding = false) :
    s.gRmw t T tid th a la r =
      (s.lateLane t (T.sstore off (r.f (T.sbytes off r.n))) tid (th.addFlags r.now) la r.dregs []
        (r.dregs.zip (wordsOf (T.sbytes off r.n) r.dregs.length)) [] (r.flags (T.sbytes off r.n))).spoilScr t off r.n := by
  simp only [State.gRmw, h, hp, hh, Bool.false_eq_true, if_false]

theorem gRmw_held {priv q : Bool} {va pa : Nat} (h : s.locate T (some tid) a r.n = .inl (.mem priv va))
    (hj : s.judgeStore T.ctx T.cluster priv va false = (s1, .ok pa q)) (hh : s1.holding = true) :
    s.gRmw t T tid th a la r = s1.holdRmw t T tid (th.addFlags r.now) la r.dregs false pa (r.todo pa) := by
  simp only [State.gRmw, h, hj, hh, if_true]

theorem gRmw_ok {priv q : Bool} {va pa : Nat} (h : s.locate T (some tid) a r.n = .inl (.mem priv va))
    (hj : s.judgeStore T.ctx T.cluster priv va false = (s1, .ok pa q)) (hh : s1.holding = false) :
    s.gRmw t T tid th a la r =
      ((s1.store pa (r.f (s1.bytes pa r.n))).lateLane t T tid (th.addFlags r.now) la r.dregs []
        (r.dregs.zip (wordsOf (s1.bytes pa r.n) r.dregs.length)) [] (r.flags (s1.bytes pa r.n))).spoilMem pa r.n := by
  simp only [State.gRmw, h, hj, hh, Bool.false_eq_true, if_false]

theorem gRmw_bad {priv : Bool} {va : Nat} {k : BitVec 8} {q : BitVec 4} (h : s.locate T (some tid) a r.n = .inl (.mem priv va))
    (hj : s.judgeStore T.ctx T.cluster priv va false = (s1, .bad k q)) :
    s.gRmw t T tid th a la r = s1.stopLane t T tid th (trapAt k q a) := by simp only [State.gRmw, h, hj]

theorem exec_atom {m : MArgs} (h : s.LaneReady t T tid th (atomNames (Size.wide m.sz) m.d.toNat (ctlOp (th.reg m.d.toNat)) ++ mRegs m) []) :
    exec (.atom m) s = .next (s.gRmw t T tid { th with fenced := false } (mAddr m th) m.la.toNat
      (Thread.atomRmw { th with fenced := false } (Size.wide m.sz) m.d.toNat m.la.toNat)) := by
  change execAtom m s = _
  rw [execAtom, State.lane_ready h, State.memRun_ready h, mAddr_unfenced]

theorem exec_atomf {m : MArgs} (h : s.LaneReady t T tid th (m.d.toNat :: mRegs m) []) :
    exec (.atomf m) s = .next (s.gRmw t T tid { th with fenced := false } (mAddr m th) m.la.toNat
      (atomfRmw (th.reg m.d.toNat) m.d.toNat m.la.toNat)) := by
  change execAtomf m s = _
  rw [execAtomf, State.memRun_ready h, mAddr_unfenced]
  rfl

/-- The read-modify-write of ATOMX: the addend in fixed point, whose flags are set at issue (R334). -/
def atomxRmw (m : MArgs) (th : Thread) : Rmw :=
  let d := m.d.toNat
  let n := fxEnc (Fmt.fp32.decode (th.reg d).toNat) ((th.reg (d + 1)).extractLsb' 0 7).toInt
  ⟨8, atomBytes .add false true n.1 0, [d, d + 1], n.2, (fun _ => 0), (fun off => .atom .add false true off n.1 0 [d, d + 1] m.la.toNat)⟩

theorem exec_atomx {m : MArgs} (h : s.LaneReady t T tid th ([m.d.toNat, m.d.toNat + 1] ++ mRegs m) []) :
    exec (.atomx m) s = .next (s.gRmw t T tid { th with fenced := false } (mAddr m th) m.la.toNat (atomxRmw m th)) := by
  change execAtomx m s = _
  rw [execAtomx, State.memRun_ready h, mAddr_unfenced]
  rfl

end Atomic

/-! ### What an atomic leaves, as numbers of its width (R332) -/

section Values

variable {w : Nat}

/-- The number that `n` stands for as a signed value of `w` bits. -/
def signedOf (w n : Nat) : Int := if 2 ^ (w - 1) ≤ n then (n : Int) - (2 : Int) ^ w else (n : Int)

theorem toInt_eq_signedOf (hw : 0 < w) (v : BitVec w) : v.toInt = signedOf w v.toNat := by
  have h2 : 2 ^ (w - 1) * 2 = 2 ^ w := Nat.two_pow_pred_mul_two hw
  rw [BitVec.toInt_eq_toNat_cond, signedOf]
  by_cases h : 2 ^ (w - 1) ≤ v.toNat
  · rw [if_neg (by omega), if_pos h]
    norm_cast
  · rw [if_pos (by omega), if_neg h]

theorem slt_eq_signedOf (hw : 0 < w) (a b : BitVec w) : a.slt b = decide (signedOf w a.toNat < signedOf w b.toNat) := by
  rw [BitVec.slt_eq_decide, toInt_eq_signedOf hw, toInt_eq_signedOf hw]

/-- The value that an operation leaves, at one width. -/
def atomVal (op : AtomOp) (u : Bool) (o v y : BitVec w) : BitVec w :=
  let lt := fun (a b : BitVec w) => if u then a.ult b else a.slt b
  match op with
  | .add => o + v
  | .min => if lt v o then v else o
  | .max => if lt o v then v else o
  | .and => o &&& v
  | .or => o ||| v
  | .xor => o ^^^ v
  | .exch => v
  | .cas => if o == v then y else o

theorem atomFn_wide (op : AtomOp) (u : Bool) (old x y : DWord) : atomFn op u true old x y = atomVal op u old x y := by
  cases op <;> rfl

theorem atomFn_narrow (op : AtomOp) (u : Bool) (old x y : DWord) :
    (atomFn op u false old x y).toNat = (atomVal op u (old.truncate 32) (x.truncate 32) (y.truncate 32) : Word).toNat := by
  have hz (v : Word) : (v.zeroExtend 64 : DWord).toNat = v.toNat := BitVec.toNat_setWidth_of_le (by decide)
  cases op with
  | add | and | or | xor | exch => simp [atomFn, atomVal, hz]
  | min | max | cas =>
    simp only [atomFn, atomVal, Bool.false_eq_true, if_false, hz, apply_ite (BitVec.truncate (w := 64) 32)]

variable (op : AtomOp) (u : Bool) (o v y : BitVec w)

theorem atomVal_values (hw : 0 < w) :
    (op = .add → (atomVal op u o v y).toNat = (o.toNat + v.toNat) % 2 ^ w) ∧
    (op = .and → (atomVal op u o v y).toNat = o.toNat &&& v.toNat) ∧ (op = .or → (atomVal op u o v y).toNat = o.toNat ||| v.toNat) ∧
    (op = .xor → (atomVal op u o v y).toNat = o.toNat ^^^ v.toNat) ∧ (op = .exch → (atomVal op u o v y).toNat = v.toNat) ∧
    (op = .cas → (atomVal op u o v y).toNat = if o.toNat = v.toNat then y.toNat else o.toNat) ∧
    (op = .min → (atomVal op u o v y).toNat =
      if u then min o.toNat v.toNat else if signedOf w v.toNat < signedOf w o.toNat then v.toNat else o.toNat) ∧
    (op = .max → (atomVal op u o v y).toNat =
      if u then max o.toNat v.toNat else if signedOf w o.toNat < signedOf w v.toNat then v.toNat else o.toNat) := by
  refine ⟨?_, ?_, ?_, ?_, ?_, ?_, ?_, ?_⟩
  · rintro rfl; exact BitVec.toNat_add o v
  · rintro rfl; exact BitVec.toNat_and o v
  · rintro rfl; exact BitVec.toNat_or o v
  · rintro rfl; exact BitVec.toNat_xor o v
  · rintro rfl; rfl
  · rintro rfl
    simp only [atomVal, beq_iff_eq, ← BitVec.toNat_inj]
    split <;> rfl
  · rintro rfl
    cases u with
    | true => simp only [atomVal, BitVec.ult, if_true, decide_eq_true_eq]; split <;> omega
    | false => simp only [atomVal, slt_eq_signedOf hw, Bool.false_eq_true, if_false, decide_eq_true_eq]; split <;> rfl
  · rintro rfl
    cases u with
    | true => simp only [atomVal, BitVec.ult, if_true, decide_eq_true_eq]; split <;> omega
    | false => simp only [atomVal, slt_eq_signedOf hw, Bool.false_eq_true, if_false, decide_eq_true_eq]; split <;> rfl

end Values

/-- Settles O14: the address is located, then judged; the atomic is performed at once or held, and takes its place in one step. -/
theorem atomicOutcomes : Obligations.AtomicOutcomes := by
  refine ⟨fun s t tid T th m => ?_, fun s t tid pa late T o ht => ?_, fun op u wide old x y => ?_⟩
  · intro d la a th0 performs
    have performs_of (i : Instr) (r : Rmw) (he : exec i s = .next (s.gRmw t T tid th0 a la r)) : performs i r := by
      refine ⟨fun k hk => ?_, fun off ho hp hh => ?_, fun off ho hp hh => ?_, fun off ho hp => ?_,
        fun priv va s1 hl => ⟨fun pa q hj hh => ?_, fun pa q hj hh => ?_, fun k q hj => ?_⟩⟩
      · rw [he, gRmw_fault hk]
      · rw [he, gRmw_scr_held ho hp hh]
      · exact he.trans (congrArg _ (gRmw_scr ho hp hh))
      · rw [he, gRmw_absent ho hp]
      · rw [he, gRmw_held hl hj hh]
      · have hstored : (((s1.store pa (r.f (s1.bytes pa r.n))).lateLane t T tid (th0.addFlags r.now) la r.dregs []
            (r.dregs.zip (wordsOf (s1.bytes pa r.n) r.dregs.length)) [] (r.flags (s1.bytes pa r.n))).spoilMem pa r.n).mem =
            Memory.store s1.mem pa (r.f (s1.bytes pa r.n)) := rfl
        obtain ⟨hr, hb⟩ := reads_of_stored hstored
        exact ⟨_, by rw [he, gRmw_ok hl hj hh], hb, hr, rfl⟩
      · rw [he, gRmw_bad hl hj]
    exact ⟨fun h => performs_of _ _ (exec_atom h), fun h => performs_of _ _ (exec_atomf h), fun h => performs_of _ _ (exec_atomx h)⟩
  · intro old r s'
    have hs : s' = (s.performBytes ⟨t, tid, false, pa, [], some (o, late)⟩ r.1).modThread t tid (fun th => th.due late r.2.1 [] r.2.2) :=
      performOne_rmw rfl ht
    have hstored : s'.mem = Memory.store s.mem pa r.1 := by rw [hs]; rfl
    obtain ⟨hr, hb⟩ := reads_of_stored hstored
    refine ⟨hs, hr, hb, ?_, ?_⟩
    · rintro op u w off x y dregs la rfl; rfl
    · rintro off x d la rfl; rfl
  · cases wide with
    | true =>
      intro w r o v signed
      have hr : r = (atomVal op u old x y).toNat := congrArg BitVec.toNat (atomFn_wide op u old x y)
      have ho : o = old.toNat := Nat.mod_eq_of_lt old.isLt
      have hv : v = x.toNat := Nat.mod_eq_of_lt x.isLt
      have hy : y.toNat % 2 ^ w = y.toNat := Nat.mod_eq_of_lt y.isLt
      rw [hr, ho, hv, hy]
      exact atomVal_values op u old x y (by decide)
    | false =>
      intro w r o v signed
      have hr : r = (atomVal op u (old.truncate 32) (x.truncate 32) (y.truncate 32) : Word).toNat := atomFn_narrow op u old x y
      have ho : o = (old.truncate 32 : Word).toNat := (BitVec.toNat_setWidth 32 old).symm
      have hv : v = (x.truncate 32 : Word).toNat := (BitVec.toNat_setWidth 32 x).symm
      have hy : y.toNat % 2 ^ w = (y.truncate 32 : Word).toNat := (BitVec.toNat_setWidth 32 y).symm
      rw [hr, ho, hv, hy]
      exact atomVal_values op u _ _ _ (by decide)

end Sys2Proof.Laws.LocalAccess
end


section
/-! The window accesses and their check (R64-R66, R335-R337), the rings (R331, R472), requests, fences and the counts of feeds (R330,
R338-R342). -/

namespace Sys2Proof.Laws.Windows

open Sys2Proof.Machine Sys2Proof.Laws.Rules Sys2Proof.Laws.LocalAccess

/-! ## Window accesses -/

/-! What a memory instruction reads of its thread does not depend on the mark that its fences have been met. -/

theorem pairAt_unfenced (th : Thread) (n : Nat) : Thread.pairAt { th with fenced := false } n = th.pairAt n := rfl

theorem atomArgs_unfenced (th : Thread) (wide : Bool) (d : Nat) : Thread.atomArgs { th with fenced := false } wide d = th.atomArgs wide d := rfl

section Access

variable {s s1 : State} {t tid : Nat} {T : Team} {th : Thread} {m : WArgs}

section Ldw

variable (h : s.LaneReady t T tid th (span m.d.toNat m.sz.regs ++ [m.a.toNat, m.a.toNat + 1]) [15])
include h

theorem exec_ldw_bad {f : Trap} (hw : s.winCheck T ⟨m.handle, (th.pairAt m.a.toNat).toNat, m.sz.bytes, 0, [1, 2], m.sz.bytes⟩ = (s1, .bad f)) :
    exec (.ldw m) s = .next (s1.stopLane t T tid { th with fenced := false } f) := by
  change execLdw m s = _
  rw [execLdw, State.memRun_ready h]
  simp only [pairAt_unfenced, hw]

theorem exec_ldw_one {aid : Aid} {dest : TxDest} {cls wver : Nat} {rrc : Bool}
    (hw : s.winCheck T ⟨m.handle, (th.pairAt m.a.toNat).toNat, m.sz.bytes, 0, [1, 2], m.sz.bytes⟩ = (s1, .ok (.one aid dest cls rrc wver))) :
    exec (.ldw m) s =
      match (if rrc && !m.acq then s1.rrcHit T.ctx m.handle wver (th.pairAt m.a.toNat).toNat else none) with
      | some l => .next (s1.lateLane t T tid { th with fenced := false } m.la.toNat (span m.d.toNat m.sz.regs) [15]
          (loadVals m.sz m.d.toNat ((l.data.drop ((th.pairAt m.a.toNat).toNat % 2048)).take m.sz.bytes)) [] 0)
      | none => .next ((s1.sendLoad t (.load tid T.lateCtr m.sz m.d.toNat) m.handle aid dest (th.pairAt m.a.toNat).toNat m.sz.bytes cls m.acq rrc
          wver th.pos).lateWait t T tid { th with fenced := false } m.la.toNat (span m.d.toNat m.sz.regs) [15]) := by
  change execLdw m s = _
  rw [execLdw, State.memRun_ready h]
  simp only [pairAt_unfenced, hw] <;> rfl

end Ldw

section Stw

variable (h : s.LaneReady t T tid th (span m.d.toNat m.sz.regs ++ [m.a.toNat, m.a.toNat + 1]) [])
include h

theorem exec_stw_bad {f : Trap} (hw : s.winCheck T ⟨m.handle, (th.pairAt m.a.toNat).toNat, m.sz.bytes, 1, [1, 2], m.sz.bytes⟩ = (s1, .bad f)) :
    exec (.stw m) s = .next (s1.stopLane t T tid { th with fenced := false } f) := by
  change execStw m s = _
  rw [execStw, State.memRun_ready h]
  simp only [pairAt_unfenced, hw]

theorem exec_stw_one {aid : Aid} {dest : TxDest} {cls wver : Nat} {rrc : Bool}
    (hw : s.winCheck T ⟨m.handle, (th.pairAt m.a.toNat).toNat, m.sz.bytes, 1, [1, 2], m.sz.bytes⟩ = (s1, .ok (.one aid dest cls rrc wver))) :
    exec (.stw m) s = .next (((s1.rrcWrite T.ctx m.handle (th.pairAt m.a.toNat).toNat m.sz.bytes).newTx
      (mkTx s t (.store tid) m.handle aid dest (.store (th.storeBytes m.sz m.d.toNat)) (th.pairAt m.a.toNat).toNat m.sz.bytes cls m.acq m.rel none
        th.pos)).setThread t T tid { th with fenced := false }) := by
  change execStw m s = _
  rw [execStw, State.memRun_ready h]
  simp only [pairAt_unfenced, storeBytes_unfenced, hw]

theorem exec_mcst_bad {f : Trap} (hw : s.winCheck T ⟨m.handle, (th.pairAt m.a.toNat).toNat, m.sz.bytes, 1, [3], m.sz.bytes⟩ = (s1, .bad f)) :
    exec (.mcst m) s = .next (s1.stopLane t T tid { th with fenced := false } f) := by
  change execMcst m s = _
  rw [execMcst, State.memRun_ready h]
  simp only [pairAt_unfenced, hw]

theorem exec_mcst_many {ranks : List (Aid × TxDest)} {cls : Nat}
    (hw : s.winCheck T ⟨m.handle, (th.pairAt m.a.toNat).toNat, m.sz.bytes, 1, [3], m.sz.bytes⟩ = (s1, .ok (.many ranks cls))) :
    exec (.mcst m) s = .next (((s1.rrcWrite T.ctx m.handle (th.pairAt m.a.toNat).toNat m.sz.bytes).sendRanks t tid s1.txCtr m
      (th.storeBytes m.sz m.d.toNat) (th.pairAt m.a.toNat).toNat cls th.pos 0 ranks).setThread t T tid { th with fenced := false }) := by
  change execMcst m s = _
  rw [execMcst, State.memRun_ready h]
  simp only [pairAt_unfenced, storeBytes_unfenced, hw]

end Stw

section Atw

variable (h : s.LaneReady t T tid th (atomNames (Size.wide m.sz) m.d.toNat (ctlOp (th.reg m.d.toNat)) ++ [m.a.toNat, m.a.toNat + 1]) [])
include h

theorem exec_atw_bad {f : Trap} (hw : s.winCheck T ⟨m.handle, (th.pairAt m.a.toNat).toNat, m.sz.bytes, 2, [1, 2], m.sz.bytes⟩ = (s1, .bad f)) :
    exec (.atw m) s = .next (s1.stopLane t T tid { th with fenced := false } f) := by
  change execAtw m s = _
  rw [execAtw, State.lane_ready h, State.memRun_ready h]
  simp only [pairAt_unfenced, hw]

theorem exec_atw_one {aid : Aid} {dest : TxDest} {cls wver : Nat} {rrc : Bool}
    (hw : s.winCheck T ⟨m.handle, (th.pairAt m.a.toNat).toNat, m.sz.bytes, 2, [1, 2], m.sz.bytes⟩ = (s1, .ok (.one aid dest cls rrc wver))) :
    exec (.atw m) s = .next (((s1.rrcWrite T.ctx m.handle (th.pairAt m.a.toNat).toNat m.sz.bytes).newTx
      (mkTx s t (.atomic tid T.lateCtr (Size.wide m.sz) m.d.toNat) m.handle aid dest
        (.atomic (ctlOp (th.reg m.d.toNat)) ((th.reg m.d.toNat).getLsbD 3) (Size.wide m.sz) (th.atomArgs (Size.wide m.sz) m.d.toNat).1
          (th.atomArgs (Size.wide m.sz) m.d.toNat).2)
        (th.pairAt m.a.toNat).toNat m.sz.bytes cls m.acq m.rel none th.pos)).lateWait
      t T tid { th with fenced := false } m.la.toNat (atomRegs (Size.wide m.sz) m.d.toNat) []) := by
  change execAtw m s = _
  rw [execAtw, State.lane_ready h, State.memRun_ready h]
  simp only [pairAt_unfenced, atomArgs_unfenced, hw]

end Atw

end Access

/-- Settles O15: each access checks its window first; what passes is read from the cache or sent. -/
theorem windowAccessOutcomes : Obligations.WindowAccessOutcomes := by
  intro s s1 t tid T th m n d base off th0 data s2
  refine ⟨fun h => ⟨fun f hw => exec_ldw_bad h hw, fun aid dest cls rrc wver hw => ?_⟩,
    fun h => ⟨fun f hw => exec_stw_bad h hw, fun aid dest cls rrc wver hw => exec_stw_one h hw, fun f hw => exec_mcst_bad h hw,
      fun ranks cls hw => exec_mcst_many h hw⟩,
    fun h => ⟨fun f hw => exec_atw_bad h hw, fun aid dest cls rrc wver hw => exec_atw_one h hw⟩⟩
  intro cached
  refine ⟨fun l hc hl => ?_, fun hc => ?_⟩
  · have hit : (if rrc && !m.acq then s1.rrcHit T.ctx m.handle wver off else none) = some l := by rw [if_pos hc, hl]
    exact (exec_ldw_one h hw).trans (by rw [hit])
  · have miss : (if rrc && !m.acq then s1.rrcHit T.ctx m.handle wver off else none) = none := by
      rcases hc with hc | hc
      · exact if_neg (by simp [cached] at hc; simpa using hc)
      · rw [hc, ite_self]
    exact (exec_ldw_one h hw).trans (by rw [miss])

/-! ## The check of a window (R64-R66) -/

section Check

variable {s s0 : State} {T : Team} {q : WinReq} {e : WinEntry}

/-- The state behind the reading of an entry: the lines of its handle that another WVER cached are dropped (R350). -/
def afterEntry (s0 : State) (T : Team) (q : WinReq) (e : WinEntry) : State :=
  s0.rrcDrop fun l => l.ctx == T.ctx && l.handle == q.handle && l.wver != field e 48 8

/-- What a check that fails answers. -/
def failed (q : WinReq) (k : BitVec 8) : WinRes := .bad { code := k, addr := BitVec.ofNat 64 q.off, handle := q.handle }

variable (h : s.winEntry T.ctx T.cluster q.handle.toNat = (s0, .inl e))
include h

theorem winCheck_handle (hk : field e 0 2 = 0 ∨ winReservedOk e = false ∨ field e 0 2 ∉ q.kinds) :
    s.winCheck T q = (afterEntry s0 T q e, failed q Code.windowHandle) := by
  have hk' : field e 0 2 = 0 ∨ (!winReservedOk e) = true ∨ (!q.kinds.contains (field e 0 2)) = true := by simpa using hk
  simp only [State.winCheck, h, if_pos hk']
  rfl

theorem winCheck_mem (h1 : field e 0 2 = 1) (hr : winReservedOk e = true) (hq : 1 ∈ q.kinds) :
    s.winCheck T q =
      if !flag e (2 + q.right) then (afterEntry s0 T q e, failed q Code.protection)
      else if field e 128 56 < q.off + q.len then (afterEntry s0 T q e, failed q Code.windowLimit)
      else if q.off % q.align ≠ 0 ∨ (field e 64 56 + q.off) % q.align ≠ 0 then (afterEntry s0 T q e, failed q Code.align)
      else (afterEntry s0 T q e, .ok (.one (BitVec.ofNat 10 (field e 16 10))
        (.ctx (BitVec.ofNat 12 (field e 32 12)) (BitVec.ofNat 32 (field e 192 32)) (field e 64 56 + q.off)) 3 (flag e 5) (field e 48 8))) := by
  simp [State.winCheck, h, h1, hr, hq]
  rfl

theorem winCheck_gang_handle (h2 : field e 0 2 = 2) (hr : winReservedOk e = true) (hq : 2 ∈ q.kinds)
    (hg : T.gang.isNone ∨ T.gsize * 2 ^ 20 < field e 128 56) :
    s.winCheck T q = (afterEntry s0 T q e, failed q Code.windowHandle) := by
  have hq' : ¬(field e 0 2 = 0 ∨ (!winReservedOk e) = true ∨ (!q.kinds.contains (field e 0 2)) = true) := by simp [h2, hr, hq]
  simp only [State.winCheck, h, if_neg hq']
  rw [if_neg (by omega), if_pos h2, if_pos hg]
  rfl

end Check

/-! ## The key check at the target (R68) -/

section Key

variable {s : State} {ctx : CtxId} {key : Word} {right : Nat}

/-- A key is right when the context has it, it is not zero, and it gives the right. -/
theorem keyOk_eq_true (h : s.keyOk ctx key right = true) : ∃ c, Map.find? s.ctxs ctx.toNat = some c ∧ key ≠ 0 ∧
    ∃ k ∈ c.keys, k.extractLsb' 0 32 = key ∧ k.getLsbD (32 + right) = true := by
  unfold State.keyOk at h
  split at h
  · exact absurd h Bool.false_ne_true
  · simp only [Bool.and_eq_true, bne_iff_ne, List.any_eq_true, beq_iff_eq] at h
    exact ⟨_, ‹_›, h⟩

theorem keyOk_zero (s : State) (ctx : CtxId) (right : Nat) : s.keyOk ctx 0 right = false := by
  unfold State.keyOk
  split
  · rfl
  · rfl

variable {sender : Aid} {cl : BitVec 5} {va : Nat} {op : TxOp}

theorem inbound_of_not_keyOk (h : s.keyOk ctx key op.right = false) :
    s.inbound ⟨sender, cl, .ctx ctx key va, op⟩ = (s, some (.fault Code.windowKey 0)) := by
  simp [State.inbound, h]

theorem inbound_arena {c : Ctx} (h : s.keyOk ctx key op.right = true) (hc : Map.find? s.ctxs ctx.toNat = some c)
    (ha : c.arena va op.len = true) : s.inbound ⟨sender, cl, .ctx ctx key va, op⟩ = (s, some (.fault Code.protection 0)) := by
  simp [State.inbound, h, hc, ha]

end Key

/-- Settles O16: the tests of the entry in their order, and the test of the key before any other at the target. -/
theorem windowCheckOrder : Obligations.WindowCheckOrder := by
  refine ⟨fun s s0 T q e h => ?_, fun s sender cl ctx key va op => ?_⟩
  · intro s1 at0 kind limit fails
    refine ⟨fun hk => winCheck_handle h hk, fun h1 hr hq => ⟨fun hf => ?_, fun hf hl => ?_, fun hf hl ha => ?_, fun hf hl ha hb => ?_⟩,
      fun h2 hr hq hg => winCheck_gang_handle h h2 hr hq hg⟩
    · exact (winCheck_mem h h1 hr hq).trans (if_pos (by simp [hf]))
    · exact (winCheck_mem h h1 hr hq).trans ((if_neg (by simp [hf])).trans (if_pos hl))
    · exact (winCheck_mem h h1 hr hq).trans ((if_neg (by simp [hf])).trans ((if_neg (Nat.not_lt.mpr hl)).trans (if_pos ha)))
    · exact (winCheck_mem h h1 hr hq).trans ((if_neg (by simp [hf])).trans ((if_neg (Nat.not_lt.mpr hl)).trans
        (if_neg (not_or.mpr ⟨not_not.mpr ha, not_not.mpr hb⟩))))
  · intro x
    refine ⟨fun h => inbound_of_not_keyOk h, fun h => ?_, keyOk_zero s ctx op.right⟩
    obtain ⟨c, hc, hz, hk⟩ := keyOk_eq_true h
    exact ⟨c, hc, hz, hk, fun ha => inbound_arena h hc ha⟩

/-! ## Rings (R331, R472) -/

section Ring

variable {s : State} {a n : Nat}

/-- A ring that takes a record is enabled and not full, and the record's slot is that of its tail. -/
theorem ringSlot_eq_some {q : Ring} (h : s.ringSlot q n = some a) :
    a = q.base + n * (q.tail % 2 ^ q.log) ∧ 4 ≤ q.log ∧ q.log ≤ 16 ∧ (q.tail + 2 ^ 32 - q.head) % 2 ^ 32 ≠ 2 ^ q.log := by
  unfold State.ringSlot at h
  split at h
  · simp at h
  · split at h
    · simp at h
    · dsimp only at h
      split at h
      · simp at h
      · exact ⟨(Option.some.inj h).symm, by omega, by omega, ‹_›⟩

theorem bytes_length (r : FaultRec) : r.bytes.length = 32 := by simp [FaultRec.bytes]

theorem report_of_slot (h : s.ringSlot s.flt 32 = some a) (r : FaultRec) :
    s.report r = { (s.touch none a).store a r.bytes with flt := { s.flt with tail := (s.flt.tail + 1) % 2 ^ 32 } } := by
  simp only [State.report, h]

theorem report_of_no_slot (h : s.ringSlot s.flt 32 = none) (r : FaultRec) :
    s.report r = { s with flt := { s.flt with lost := min (s.flt.lost + 1) (2 ^ 32 - 1) } } := by
  simp only [State.report, h]

theorem report_mem_of_slot (h : s.ringSlot s.flt 32 = some a) (r : FaultRec) : (s.report r).mem = Memory.store s.mem a r.bytes := by
  rw [report_of_slot h]
  exact congrArg (Memory.store · a r.bytes) (State.touch_mem s none a)

theorem rrqRecord_length (va : Nat) (ctx : CtxId) (team n : Nat) : (rrqRecord va ctx team n).length = 16 := by simp [rrqRecord]

theorem request_of_slot (h : s.ringSlot s.rrq 16 = some a) (va : Nat) (ctx : CtxId) (team : Nat) :
    s.request va ctx team = ({ (s.touch none a).store a (rrqRecord va ctx team s.rrq.tail) with
      rrq := { s.rrq with tail := (s.rrq.tail + 1) % 2 ^ 32 } }, 0) := by
  simp only [State.request, h]

theorem request_mem_of_slot (h : s.ringSlot s.rrq 16 = some a) (va : Nat) (ctx : CtxId) (team : Nat) :
    (s.request va ctx team).1.mem = Memory.store s.mem a (rrqRecord va ctx team s.rrq.tail) := by
  rw [request_of_slot h]
  exact congrArg (Memory.store · a _) (State.touch_mem s none a)

end Ring

/-- Settles O18: a record is one store at the slot that the ring answers. -/
theorem ringRecords : Obligations.RingRecords := by
  intro s r va ctx team a
  refine ⟨fun h => ?_, fun h => ?_, fun h => ?_, fun h => ?_⟩
  · obtain ⟨ha, hlo, hhi, hfull⟩ := ringSlot_eq_some h
    have hm := reads_of_stored (report_mem_of_slot h r)
    rw [bytes_length] at hm
    exact ⟨ha, hlo, hhi, hfull, hm.1, hm.2, by rw [report_of_slot h]⟩
  · rw [report_of_no_slot h]
    exact ⟨fun _ => rfl, rfl, rfl⟩
  · have hm := reads_of_stored (request_mem_of_slot h va ctx team)
    rw [rrqRecord_length] at hm
    exact ⟨by rw [request_of_slot h], hm.1, hm.2, by rw [request_of_slot h]⟩
  · simp only [State.request, h]

/-! ## Counts of feeds (R341, R342) -/

/-- A team's lane thread at reset values. -/
def bareThread : Thread where
  role := 0
  part := 0
  st := .wave
  pos := ⟨0, 0⟩
  nextPos := ⟨0, 0⟩
  g := true
  v := []
  p := 0
  x := []
  link := []
  depth := 0
  sticky := 0
  reported := 0
  late := []
  dpos := 0
  nxt := []
  stamp := 0
  fenced := false

/-- A team with one thread of a role without registers, and no feed. -/
def bareTeam : Team where
  ctx := 0
  grid := 0
  gridNo := 0
  index := 0
  prio := 0
  accepted := 0
  depth := 0
  img := ⟨0, 0, 0, 0, 0, 0, 0⟩
  place := .saved
  phase := .running
  placedAt := 0
  roles := []
  threads := [(0, bareThread)]
  steer := ⟨.running, ⟨0, 0⟩, ⟨0, 0⟩, true, none, [], 0, [], none, none, [], (0, 0), []⟩
  q := []
  scratch := []
  sold := []
  sseq := 0
  slines := 0
  sbase := 0
  absent := []
  tiles := []
  feeds := []
  bars := []
  joins := []
  reserve := 0
  xmask := 0
  priv := 0
  lspill := 0
  eng := []
  ready := []
  dead := false
  arith := false
  killed := false
  children := []
  away := []
  gang := none
  pblk := none
  sslot := none
  stuckSince := none
  waitchSince := none
  mheld := false
  inWaitch := false
  lateCtr := 0

/-- The machine whose only team is that one, at its thread's turn. -/
def bareState : State := { State.reset with teams := [(0, bareTeam)], cur := some (.lane 0 0) }

theorem touch_teams (s : State) (c : Option CtxId) (pa : Nat) : (s.touch c pa).teams = s.teams := by
  unfold State.touch
  dsimp only
  split
  · rfl
  · split
    · rfl
    · split <;> rfl

@[simp] theorem report_teams (s : State) (r : FaultRec) : (s.report r).teams = s.teams := by
  unfold State.report
  split
  · exact touch_teams s none _
  · rfl

@[simp] theorem team?_report (s : State) (r : FaultRec) (u : Nat) : (s.report r).team? u = s.team? u := by rw [State.team?, report_teams, State.team?]

/-- A thread that stops stands as it did, with its record. -/
theorem team?_stopLane (s : State) (t : Nat) (T : Team) (tid : Nat) (th : Thread) (f : Trap) :
    (s.stopLane t T tid th f).team? t = some (T.setThread tid { th with st := .stopped (T.laneRec tid th.pos f) }) := by
  simp [State.stopLane]

/-- Two stops of a thread with different codes differ. -/
theorem stopLane_code_inj {s : State} {t : Nat} {T : Team} {tid : Nat} {th : Thread} {f f' : Trap}
    (h : s.stopLane t T tid th f = s.stopLane t T tid th f') : f.code = f'.code := by
  have hT := congrArg (State.team? · t) h
  simp only [team?_stopLane, Option.some.injEq] at hT
  have hth := congrArg (Team.thread? · tid) hT
  simp only [Team.thread?_setThread, Option.some.injEq, Thread.mk.injEq, TState.stopped.injEq, Team.laneRec, FaultRec.mk.injEq] at hth
  tauto

/-- FCNT with its register out of range: the check of the register comes before that of the feed (R193). -/
theorem fcnt_regRange {s : State} {t : Nat} {T : Team} {tid : Nat} {th : Thread} {d : Reg} (hc : s.cur = some (.lane t tid))
    (ht : s.team? t = some T) (hi : T.thread? tid = some th) (hr : T.regCount th ≤ d.toNat) (f : Obj) (sel : FcntSel) :
    exec (.fcnt d f sel) s = .next (s.stopLane t T tid th { code := Code.regRange }) := by
  change execFcnt d f sel s = _
  rw [execFcnt, State.feedRun, State.lane_cur hc ht hi, if_pos (by simpa using hr)]

/-- Refutes O17: FCNT of a feed that the image does not have, into a register that the thread does not have either, stops with REG_RANGE. -/
theorem not_requestsFencesAndFeeds : ¬ Obligations.RequestsFencesAndFeeds := by
  intro h
  obtain ⟨_, _, _, _, _, hout⟩ := h ⟨0, 0, 0, .b32, 0, none⟩ .dev 0 (.imm 0) 0 .p
  have hstop : exec (.fcnt 0 0 .p) bareState = .next (bareState.stopLane 0 bareTeam 0 bareThread { code := Code.feedRange }) :=
    (hout bareState 0 bareTeam 0 bareThread rfl rfl rfl (Nat.zero_le _)).2.2
  have hreg : exec (.fcnt 0 0 .p) bareState = .next (bareState.stopLane 0 bareTeam 0 bareThread { code := Code.regRange }) :=
    fcnt_regRange (d := 0) rfl rfl rfl (Nat.zero_le _) 0 .p
  exact absurd (stopLane_code_inj (Host.Outcome.next.inj (hreg.symm.trans hstop))) (by decide)

end Sys2Proof.Laws.Windows
end


section
/-! Control transfers and the link stack (R265-R267), JOIN (R226, R271), SPAWN (R230, R273) and the synchronising instructions of the lane
stream. -/

namespace Sys2Proof.Laws.LaneControl

open Sys2Proof.Machine Sys2Proof.Laws.PairsAndCounts Sys2Proof.Laws.Rules Sys2Proof.Laws.LaneForms Sys2Proof.Laws.LocalAccess

variable {s s1 : State} {t tid : Nat} {T : Team} {th : Thread}

/-! ## The link stack -/

section Link

variable {ret : Tgt} {priv q : Bool} {va pa : Nat}

theorem linkPush_room (h : th.link.length < 4) : s.linkPush T tid th ret = .ok s { th with link := ret :: th.link } 0 := if_pos h

theorem linkPush_full (h : 4 ≤ th.link.length) (hd : th.depth = 16 * T.lspill) :
    s.linkPush T tid th ret = .bad s (trapAt Code.aperture 0 (spillAddr th.depth)) :=
  (if_neg (Nat.not_lt.mpr h)).trans (if_pos hd)

section Spill

variable (h : 4 ≤ th.link.length) (hd : th.depth ≠ 16 * T.lspill) (hr : s.resolve T (some tid) (spillAddr th.depth) 4 = .mem priv va)
include h hd hr

theorem linkPush_spill (hj : s.judgeStore T.ctx T.cluster priv va false = (s1, .ok pa q)) :
    s.linkPush T tid th ret = .ok (s1.store pa (leBytes 4 (th.link.getLastD 0).toNat))
      { th with link := ret :: th.link.dropLast, depth := th.depth + 1 } 0 := by
  refine (if_neg (Nat.not_lt.mpr h)).trans ((if_neg hd).trans ?_)
  simp only [hr, hj]

theorem linkPush_bad {k : BitVec 8} {c : BitVec 4} (hj : s.judgeStore T.ctx T.cluster priv va false = (s1, .bad k c)) :
    s.linkPush T tid th ret = .bad s1 (trapAt k c (spillAddr th.depth)) := by
  refine (if_neg (Nat.not_lt.mpr h)).trans ((if_neg hd).trans ?_)
  simp only [hr, hj]

end Spill

theorem linkPop_newest {e : Tgt} {r : List Tgt} (h : th.link = e :: r) :
    s.linkPop T tid th = .ok s { th with link := r } (e.zeroExtend 32) := by
  simp only [State.linkPop, h]

theorem linkPop_empty (h : th.link = []) (hd : th.depth = 0) : s.linkPop T tid th = .bad s { code := Code.badClause } := by
  simp only [State.linkPop, h, if_pos hd]

/-- A pop with no entry in registers loads the newest spilled word. -/
theorem linkPop_refill (h : th.link = []) (hd : 0 < th.depth) (hr : s.resolve T (some tid) (spillAddr (th.depth - 1)) 4 = .mem priv va) :
    s.linkPop T tid th =
      match s.judgeLoad T.ctx T.cluster priv va with
      | (s1, .ok pa _) => .ok s1 { th with depth := th.depth - 1 } (BitVec.ofNat 32 (s1.val pa 4))
      | (s1, .nonres) => .bad s1 (trapAt Code.storeNonres 2 (spillAddr (th.depth - 1)))
      | (s1, .bad k q) => .bad s1 (trapAt k q (spillAddr (th.depth - 1))) := by
  simp only [State.linkPop, h, if_neg (Nat.pos_iff_ne_zero.mp hd), hr] <;> rfl

/-- Four bytes of memory are a number of 32 bits. -/
theorem val_four_lt (s : State) (a : Nat) : s.val a 4 < 2 ^ 32 := by
  have h := leNat_lt (Memory.bytes s.mem a 4)
  rw [Memory.bytes_length] at h
  exact h

end Link

/-! ## Calls and returns -/

section Calls

variable {tgt : Tgt} {a : Reg} {j : Option (BitVec 4)} {th1 : Thread} {w : Word} {f : Trap}

theorem exec_call_ok (h : s.LaneReady t T tid th [] []) (hp : s.linkPush T tid th (BitVec.ofNat 24 th.nextPos.h) = .ok s1 th1 w) :
    exec (.call tgt) s = .next (s1.setThread t T tid (th1.goto tgt.toNat)) := by
  change execCall tgt s = _
  rw [execCall, State.laneRun_ready h]
  simp only [hp]

theorem exec_call_bad (h : s.LaneReady t T tid th [] []) (hp : s.linkPush T tid th (BitVec.ofNat 24 th.nextPos.h) = .bad s1 f) :
    exec (.call tgt) s = .next (s1.stopLane t T tid th f) := by
  change execCall tgt s = _
  rw [execCall, State.laneRun_ready h]
  simp only [hp]

theorem exec_calli_badTarget (h : s.LaneReady t T tid th [a.toNat] []) (hw : 2 ^ 24 ≤ (th.reg a.toNat).toNat) :
    exec (.calli a j) s = .next (s.stopLane t T tid th (badTarget (th.reg a.toNat))) := by
  change execCalli a j s = _
  rw [execCalli, State.laneRun_ready h]
  exact if_pos hw

theorem exec_calli_ok (h : s.LaneReady t T tid th [a.toNat] []) (hw : (th.reg a.toNat).toNat < 2 ^ 24)
    (hp : s.linkPush T tid th (BitVec.ofNat 24 th.nextPos.h) = .ok s1 th1 w) :
    exec (.calli a j) s = .next (s1.setThread t T tid (th1.goto (th.reg a.toNat).toNat)) := by
  change execCalli a j s = _
  rw [execCalli, State.laneRun_ready h]
  refine (if_neg (Nat.not_le.mpr hw)).trans ?_
  simp only [hp]

theorem exec_calli_bad (h : s.LaneReady t T tid th [a.toNat] []) (hw : (th.reg a.toNat).toNat < 2 ^ 24)
    (hp : s.linkPush T tid th (BitVec.ofNat 24 th.nextPos.h) = .bad s1 f) :
    exec (.calli a j) s = .next (s1.stopLane t T tid th f) := by
  change execCalli a j s = _
  rw [execCalli, State.laneRun_ready h]
  refine (if_neg (Nat.not_le.mpr hw)).trans ?_
  simp only [hp]

theorem exec_ret_ok (h : s.LaneReady t T tid th [] []) (hp : s.linkPop T tid th = .ok s1 th1 w) (hw : w.toNat < 2 ^ 24) :
    exec (.ret j) s = .next (s1.setThread t T tid (th1.goto w.toNat)) := by
  change execRet j s = _
  rw [execRet, State.laneRun_ready h]
  simp only [hp, if_neg (Nat.not_le.mpr hw)]

theorem exec_ret_badTarget (h : s.LaneReady t T tid th [] []) (hp : s.linkPop T tid th = .ok s1 th1 w) (hw : 2 ^ 24 ≤ w.toNat) :
    exec (.ret j) s = .next (s1.stopLane t T tid th (badTarget w)) := by
  change execRet j s = _
  rw [execRet, State.laneRun_ready h]
  simp only [hp, if_pos hw]

theorem exec_ret_bad (h : s.LaneReady t T tid th [] []) (hp : s.linkPop T tid th = .bad s1 f) :
    exec (.ret j) s = .next (s1.stopLane t T tid th f) := by
  change execRet j s = _
  rw [execRet, State.laneRun_ready h]
  simp only [hp]

end Calls

/-- Settles O19: calls push and returns pop by the two link operations, in registers or through the spill area. -/
theorem laneControlResults : Obligations.LaneControlResults := by
  refine ⟨fun p n j tgt a => ⟨laneSets_of_laneEff fun _ => rfl, laneSets_of_laneEff fun _ => rfl, fun s t T tid th h hl => ?_,
    fun s t T tid th h => ⟨fun hw hl => ?_, fun hw => ?_⟩, fun s t T tid th e r h hl => ?_, fun s t T tid th h hl hd => ?_,
    laneDoes_of_laneRun fun _ => rfl⟩, fun s s1 t tid T th tgt j a priv va h => ?_⟩
  · exact exec_call_ok h (linkPush_room hl)
  · exact exec_calli_ok h hw (linkPush_room hl)
  · exact exec_calli_badTarget h hw
  · have he : (e.zeroExtend 32 : Word).toNat = e.toNat := BitVec.toNat_setWidth_of_le (by decide)
    have := exec_ret_ok (j := j) h (linkPop_newest hl) (by rw [he]; exact e.isLt)
    rwa [he] at this
  · exact exec_ret_bad h (linkPop_empty hl hd)
  · intro here
    refine ⟨fun hl => ⟨fun hd => ?_, fun hd hr => ⟨fun pa q hj => ?_, fun k q hj => ?_⟩⟩,
      fun hl h' hw => ⟨fun hd => ?_, fun hd hr => ⟨fun pa q hj => ?_, fun k q hj => ?_⟩⟩,
      fun hl hd hr => ⟨fun pa q hj hv => ?_, fun pa q hj hv => ?_, fun hj => ?_, fun k q hj => ?_⟩⟩
    · exact exec_call_bad h (linkPush_full hl hd)
    · exact exec_call_ok h (linkPush_spill hl hd hr hj)
    · exact exec_call_bad h (linkPush_bad hl hd hr hj)
    · exact exec_calli_bad h' hw (linkPush_full hl hd)
    · exact exec_calli_ok h' hw (linkPush_spill hl hd hr hj)
    · exact exec_calli_bad h' hw (linkPush_bad hl hd hr hj)
    · have he : (BitVec.ofNat 32 (s1.val pa 4)).toNat = s1.val pa 4 := Nat.mod_eq_of_lt (val_four_lt s1 pa)
      have := exec_ret_ok (j := j) h ((linkPop_refill hl hd hr).trans (by rw [hj])) (by rw [he]; exact hv)
      rwa [he] at this
    · have he : (BitVec.ofNat 32 (s1.val pa 4)).toNat = s1.val pa 4 := Nat.mod_eq_of_lt (val_four_lt s1 pa)
      have ha : (BitVec.ofNat 32 (s1.val pa 4)).zeroExtend 64 = BitVec.ofNat 64 (s1.val pa 4) := by
        rw [BitVec.zeroExtend, BitVec.setWidth_ofNat_of_le_of_lt (by decide) (val_four_lt s1 pa)]
      have := exec_ret_badTarget (j := j) h ((linkPop_refill hl hd hr).trans (by rw [hj])) (by rw [he]; exact hv)
      rwa [badTarget, ha] at this
    · exact exec_ret_bad h ((linkPop_refill hl hd hr).trans (by rw [hj]; rfl))
    · exact exec_ret_bad h ((linkPop_refill hl hd hr).trans (by rw [hj]; rfl))

/-! ## JOIN -/

/-- Settles O20: the answer of a JOIN by its slot's mask, and the test of a slot by whether it is armed, complete or late. -/
theorem joinOutcomes : Obligations.JoinOutcomes := by
  refine ⟨fun s t tid T th a p j h => ?_, fun s t j T ht => ?_⟩
  · intro x w arrived x1
    have he := State.laneRun_ready h fun t T tid th =>
      let x := T.join j.toNat
      if !x.mask.contains tid then Host.Outcome.next (s.setThread t T tid (th.setPred p.toNat false))
      else
        let w := th.reg a.toNat
        let x1 : Join := { x with
          arrived := if x.arrived.contains tid then x.arrived else x.arrived ++ [tid],
          armed := true,
          deadline := if x.armed then x.deadline else if w = 0xFFFFFFFF then none
            else some ((s.clock / Config.ticksPerAclk + w.toNat) * Config.ticksPerAclk) }
        .next (s.park t (T.setJoin j.toNat x1) tid th (.join j.toNat p.toNat))
    refine ⟨fun hm => he.trans (if_pos (by simpa using hm)), fun hm => (he.trans (if_neg (by simpa using hm))).trans ?_⟩
    simp only [List.contains_iff_mem]
    rfl
  · intro x full
    have hfull : (x.mask.all fun i => x.arrived.contains i) = true ↔ full := by simp [full]
    refine ⟨fun ha => ?_, fun ha hf => ?_, fun ha hf d hd hle => ?_, fun ha hf hd => ?_⟩
    · simp [State.testJoin, ht, show (T.join j).armed = false from ha]
    · simp only [State.testJoin, ht, show (T.join j).armed = true from ha, Bool.not_true, Bool.false_eq_true, if_false]
      exact if_pos (hfull.mpr hf)
    · simp only [State.testJoin, ht, show (T.join j).armed = true from ha, Bool.not_true, Bool.false_eq_true, if_false]
      refine (if_neg fun hc => hf (hfull.mp hc)).trans ?_
      simp only [show (T.join j).deadline = some d from hd, if_pos hle]
    · simp only [State.testJoin, ht, show (T.join j).armed = true from ha, Bool.not_true, Bool.false_eq_true, if_false]
      refine (if_neg fun hc => hf (hfull.mp hc)).trans ?_
      split
      · exact if_neg (Nat.not_le.mpr (hd _ ‹_›))
      · rfl

/-! ## SPAWN -/

section Spawn

theorem reg_setRegs (th : Thread) (n : Nat) (ws : List Word) (r : Nat) :
    (th.setRegs n ws).reg r = if n ≤ r ∧ r < n + ws.length then ws.getD (r - n) 0 else th.reg r := by
  induction ws generalizing th n with
  | nil => simp [Thread.setRegs]
  | cons w ws ih =>
    rw [Thread.setRegs, ih]
    by_cases h : r = n
    · subst h
      rw [if_neg (by omega), if_pos (by simp), Thread.reg_setReg, Nat.sub_self, List.getD_cons_zero]
    · rw [Thread.reg_setReg_ne _ _ h]
      by_cases h' : n + 1 ≤ r ∧ r < n + 1 + ws.length
      · rw [if_pos h', if_pos (by simp only [List.length_cons]; omega), show r - n = r - (n + 1) + 1 by omega, List.getD_cons_succ]
      · rw [if_neg h', if_neg (by simp only [List.length_cons]; omega)]

/-- Writing several registers changes nothing but the registers. -/
theorem setRegs_rest (th : Thread) (n : Nat) (ws : List Word) : th.setRegs n ws = { th with v := (th.setRegs n ws).v } := by
  induction ws generalizing th n with
  | nil => rfl
  | cons w ws ih => exact ih (th.setReg n w) (n + 1)

variable {ws : List Word} {tgt : Nat}

theorem spawnLoop_le (s : State) (t : Nat) (th : Thread) (ws : List Word) (tgt n : Nat) : (s.spawnLoop t th ws tgt n).2 ≤ n := by
  induction n generalizing s with
  | zero => exact Nat.le_refl 0
  | succ n ih =>
    unfold State.spawnLoop
    split
    · exact Nat.zero_le _
    · split
      · exact Nat.succ_le_succ (ih _)
      · exact Nat.zero_le _

theorem spawnLoop_full (ht : s.team? t = some T) (hf : lowestFree T.usedTids 0 1024 = none) (n : Nat) :
    s.spawnLoop t th ws tgt n = (s, 0) := by
  cases n with
  | zero => rfl
  | succ n => simp only [State.spawnLoop, ht, hf]

theorem spawnLoop_one {i : Nat} {T1 : Team} (ht : s.team? t = some T) (hf : lowestFree T.usedTids 0 1024 = some i)
    (hc : s.takeContext T th.role th.part = some T1) :
    s.spawnLoop t th ws tgt 1 =
      ((s.setThread t T1 i (th.spawned ws tgt (s.clock / Config.ticksPerAclk * 1024))).formerAdd
        (T1.setThread i (th.spawned ws tgt (s.clock / Config.ticksPerAclk * 1024))) t [i] (atHeader tgt) th.part false, 1) := by
  simp only [State.spawnLoop, ht, hf, hc, State.team?_setThread]

end Spawn

/-- Settles O21: the loop creates at most as many as it is asked for; its first turn says when none or one is created. -/
theorem spawnOutcomes : Obligations.SpawnOutcomes := by
  intro s t tid T th a p tgt h c ws r done u
  have he : exec (.spawn a p tgt) s = .next (done r.1 r.2) := State.laneRun_ready h fun t _ tid th =>
    let c := (th.reg a.toNat).toNat
    let ws := (span (a.toNat + 1) 8).map th.reg
    let r := s.spawnLoop t th ws tgt.toNat (min c 32)
    .next (r.1.modThread t tid fun th => (th.setReg a.toNat (BitVec.ofNat 32 r.2)).setPred p.toNat (decide (r.2 = c)))
  have hreg (i : Nat) := reg_setRegs (Thread.spawned th [] tgt.toNat (s.clock / Config.ticksPerAclk * 1024)) 0 ws i
  have hlen : ws.length = 8 := by rw [List.length_map, span_length]
  have hrest := setRegs_rest (Thread.spawned th [] tgt.toNat (s.clock / Config.ticksPerAclk * 1024)) 0 ws
  refine ⟨⟨he, spawnLoop_le s t th ws tgt.toNat _⟩, fun hc => ?_, fun hf => ?_, fun i T1 hc hf hk => ?_, ?_, ?_, ?_, ?_, ?_, ?_, ?_, ?_,
    fun i hi => ?_, fun i hi => ?_⟩
  · have hr : r = (s, 0) := by simp only [r, hc]; rfl
    rw [he, hr]
  · have hr : r = (s, 0) := spawnLoop_full h.team hf _
    rw [he, hr]
  · intro s1
    have hr : r = (s1.formerAdd (T1.setThread i u) t [i] ⟨tgt.toNat, 0⟩ th.part false, 1) := by
      simp only [r, hc]
      exact spawnLoop_one h.team hf hk
    exact ⟨_, State.team?_setThread .., Team.thread?_setThread .., by rw [he, hr]⟩
  · exact (congrArg Thread.role hrest :)
  · exact (congrArg Thread.pos hrest :)
  · exact (congrArg Thread.p hrest :)
  · exact (congrArg Thread.link hrest :)
  · exact (congrArg Thread.depth hrest :)
  · exact (congrArg Thread.sticky hrest :)
  · exact (congrArg Thread.late hrest :)
  · exact (congrArg Thread.st hrest :)
  · refine (hreg i).trans ((if_pos (by omega)).trans ?_)
    simp [ws, span_eq_range', List.getD_eq_getElem?_getD, hi]
  · exact (hreg i).trans (if_neg (by omega))

/-! ## Synchronising instructions -/

theorem onThread_eq (ht : s.team? t = some T) (hi : T.thread? tid = some th) (k : Team → Thread → State) : s.onThread t tid k = k T th := by
  simp only [State.onThread, ht, hi]

section Queue

theorem popDq_entry (h : th.dpos < (T.role th.role).dq.tail) :
    T.popDq th = some (Map.get 0 (T.role th.role).dq.ent (th.dpos % 32), true) := if_pos h

theorem popDq_closed (h : (T.role th.role).dq.tail ≤ th.dpos) (hc : (T.role th.role).dq.closed = true) : T.popDq th = some (0, false) :=
  (if_neg (Nat.not_lt.mpr h)).trans (if_pos hc)

theorem popDq_waits (h : (T.role th.role).dq.tail ≤ th.dpos) (hc : (T.role th.role).dq.closed = false) : T.popDq th = none :=
  (if_neg (Nat.not_lt.mpr h)).trans (if_neg (by simp [hc]))

variable {d : Reg} {p : Option Pred} (h : s.LaneReady t T tid th [d.toNat] (p.map BitVec.toNat).toList)
include h

theorem exec_dqpop_some {v : Word × Bool} (hv : T.popDq th = some v) :
    exec (.dqpop d p) s = .next ((s.setThread t T tid (th.takeDq d.toNat (p.map BitVec.toNat) v)).modTeam t fun T => T.rehead th.role) := by
  change execDqpop d p s = _
  rw [execDqpop, State.laneRun_ready h]
  simp only [hv]

theorem exec_dqpop_none (hv : T.popDq th = none) : exec (.dqpop d p) s = .next (s.park t T tid th (.queue d.toNat (p.map BitVec.toNat))) := by
  change execDqpop d p s = _
  rw [execDqpop, State.laneRun_ready h]
  simp only [hv]

end Queue

section Claim

variable {p : Pred} {b : Src} (h : s.LaneReady t T tid th (srcRegs b) [p.toNat])
include h

theorem exec_rclaim : exec (.rclaim p b) s =
    if (srcVal b th).toNat = 0 then .next (s.setThread t T tid (th.setPred p.toNat true))
    else if (srcVal b th).toNat % 4 ≠ 0 ∨ 128 < (T.role th.role).nreg + (srcVal b th).toNat then
      .next (s.stopLane t T tid th { code := Code.regRange })
    else .next (s.claimArrive t T tid th ⟨tid, false, false, (srcVal b th).toNat, p.toNat⟩) := by
  change execRclaim p b s = _
  rw [execRclaim, State.laneRun_ready h]

theorem exec_rrel (pool : Bool) : exec (.rrel p b pool) s =
    if (srcVal b th).toNat = 0 then .next (s.setThread t T tid (th.setPred p.toNat true))
    else if (srcVal b th).toNat % 4 ≠ 0 ∨ (T.role th.role).nreg < (srcVal b th).toNat + 4 then
      .next (s.stopLane t T tid th { code := Code.regRange })
    else .next (s.claimArrive t T tid th ⟨tid, true, pool, (srcVal b th).toNat, p.toNat⟩) := by
  change execRrel p b pool s = _
  rw [execRrel, State.laneRun_ready h]

end Claim

theorem exec_redq {n : BitVec 3} {op : RedOp} {a : Reg} (ha : Bool) (h : s.LaneReady t T tid th [a.toNat] []) :
    exec (.redq n op a ha) s =
      if T.redFull th n.toNat then .next (s.park t T tid th (.redq n.toNat op (th.reg a.toNat)))
      else .next ((s.setTeam t (T.contribute tid th n.toNat op (th.reg a.toNat))).testRed t th.role n.toNat) := by
  change execRedq n op a ha s = _
  rw [execRedq, State.laneRun_ready h]

theorem exec_trdy {a : Reg} {b : Src} (ha : Bool) (h : s.LaneReady t T tid th (a.toNat :: srcRegs b) []) :
    exec (.trdy a ha b) s =
      if T.tileOk (th.reg a.toNat) (srcVal b th) then .next (s.setTeam t (T.setReady (th.reg a.toNat).toNat (srcVal b th).toNat))
      else .next (s.stopLane t T tid th { code := Code.indexRange }) := by
  change execTrdy a ha b s = _
  rw [execTrdy, State.laneRun_ready h]

/-- BARW with a token parks the thread while the barrier's phase is that of the token (R416). -/
theorem barw_token_does (k : Obj) (p : Pred) : LaneDoes (.barw k false p) [] [p.toNat] fun s t T tid th =>
    if (T.bar k.toNat).ph = th.pred p.toNat then s.park t T tid th (.barrier k.toNat (T.bar k.toNat).ph) else s := by
  intro s t T tid th h
  change execBarw k false p s = _
  have he : execBarw k false p s = .next (s.laneToken t tid k.toNat (th.pred p.toNat)) := State.laneRun_ready h _
  rw [he, State.laneToken, onThread_eq h.team h.thread]
  refine congrArg Host.Outcome.next ?_
  beta_reduce
  by_cases hp : (T.bar k.toNat).ph = th.pred p.toNat
  · rw [if_pos hp, if_pos hp, hp]
  · rw [if_neg hp, if_neg hp]

/-- BARW with ARV arrives first; it parks the thread while the phase is that before the arrival (R417). -/
theorem barw_arrive_does (k : Obj) (p : Pred) : LaneDoes (.barw k true p) [] [] fun s t T tid _ =>
    ((s.arithLane t tid).arriveBar t k.toNat (some tid)).laneToken t tid k.toNat (T.bar k.toNat).ph :=
  laneDoes_of_laneRun fun _ => rfl

/-- What a token does to a thread that may be gone. -/
theorem laneToken_eq (s : State) (t tid k : Nat) (tok : Bool) :
    s.laneToken t tid k tok =
      match s.team? t with
      | some T1 =>
        (match T1.thread? tid with
         | some th1 => if (T1.bar k).ph = tok then s.park t T1 tid th1 (.barrier k tok) else s
         | none => s)
      | none => s := by
  unfold State.laneToken State.onThread
  cases s.team? t with
  | none => rfl
  | some T1 => cases h : T1.thread? tid <;> simp only [h]

/-- Settles O22: each instruction's answer by its operands and by the object that it names. -/
theorem laneSyncOutcomes : Obligations.LaneSyncOutcomes := by
  intro n op a d ha pool k p b
  refine ⟨fun s t T tid th h => ⟨fun hf => ?_, fun hf => ?_⟩, fun s t T tid th h => ?_, fun s t T tid th h => ?_,
    laneDoes_of_laneRun fun _ => rfl, laneDoes_of_laneRun fun _ => rfl, barw_token_does k p,
    fun s t T tid th h => (barw_arrive_does k p s t T tid th h).trans (congrArg Host.Outcome.next (laneToken_eq ..)), fun s t T tid th h => ?_, fun s t T tid th h => ?_⟩
  · rw [exec_redq ha h, if_pos hf]
  · rw [exec_redq ha h, if_neg (Bool.eq_false_iff.mp hf)]
  · intro q
    exact ⟨fun hq => exec_dqpop_some h (popDq_entry hq), fun hq hc => exec_dqpop_some h (popDq_closed hq hc),
      fun hq hc => exec_dqpop_none h (popDq_waits hq hc)⟩
  · intro q
    exact ⟨fun hq => exec_dqpop_some (p := none) h (popDq_entry hq), fun hq hc => exec_dqpop_some (p := none) h (popDq_closed hq hc),
      fun hq hc => exec_dqpop_none (p := none) h (popDq_waits hq hc)⟩
  · intro m r
    refine ⟨fun hm => ⟨?_, ?_⟩, fun hm hbad => ?_, fun hm hbad => ?_, fun hm h4 hr => ?_, fun hm h4 hr => ?_⟩
    · rw [exec_rclaim h, if_pos hm]
    · rw [exec_rrel h, if_pos hm]
    · rw [exec_rclaim h, if_neg hm, if_pos hbad]
    · rw [exec_rrel h, if_neg hm, if_pos hbad]
    · rw [exec_rclaim h, if_neg hm, if_neg (by simp only [m, r] at *; omega)]
    · rw [exec_rrel h, if_neg hm, if_neg (by simp only [m, r] at *; omega)]
  · intro x y
    refine ⟨fun hx => ?_, fun hx => ?_⟩
    · rw [exec_trdy ha h, if_pos hx]
    · have hbad : ¬T.tileOk x y = true := by
        simp only [Team.tileOk, Bool.and_eq_true, decide_eq_true_eq]
        omega
      rw [exec_trdy ha h, if_neg hbad]

end Sys2Proof.Laws.LaneControl
end


section
/-! Ray queries (R404-R407) and the records of receive boxes (R411, R412). -/

namespace Sys2Proof.Laws.Rays

open Sys2Proof.Machine Sys2Proof.Laws.Rules Sys2Proof.Laws.LocalAccess Sys2Proof.Laws.Windows

variable {s s1 : State} {t tid : Nat} {T : Team} {th : Thread}

/-! ## Ray queries -/

theorem rayGo_done {q : RayRun} {la : Nat} {hit nr : Bool} {ws : List Word} (h : s.rayQuery T q = (s1, .done hit ws nr)) :
    s.rayGo t T tid th q la = s1.lateLane t T tid th la (span q.d 4) [q.p, 15] (q.vals ws) (q.preds hit nr) 0 := by
  simp only [State.rayGo, h]

theorem rayGo_fault {q : RayRun} {la : Nat} {k : Trap} (h : s.rayQuery T q = (s1, .stop (.fault k))) :
    s.rayGo t T tid th q la = s1.stopLane t T tid th k := by
  simp only [State.rayGo, h]

theorem reg_unfenced (th : Thread) : Thread.reg { th with fenced := false } = th.reg := rfl

theorem exec_rayq {d a b : Reg} {la : BitVec 4} {p : Pred} {any : Bool}
    (h : s.LaneReady t T tid th (span d.toNat 4 ++ span a.toNat 8 ++ [b.toNat, b.toNat + 1]) [p.toNat, 15]) :
    exec (.rayq d a la b p any) s = .next (s.rayGo t T tid { th with fenced := false }
      ⟨d.toNat, p.toNat, any, th.pairAt b.toNat, (span a.toNat 8).map th.reg, []⟩ la.toNat) := by
  change execRayq d a la b p any s = _
  rw [execRayq, State.memRun_ready h]
  simp only [pairAt_unfenced, reg_unfenced]

/-! ## Sending a record -/

/-- A check with an alignment that passes through a MEM window passes with any alignment that divides it, and the offset is aligned. -/
theorem winCheck_unaligned {q : WinReq} {aid : Aid} {dest : TxDest} {cls wver : Nat} {rrc : Bool} (hk : q.kinds = [1])
    (h : s.winCheck T q = (s1, .ok (.one aid dest cls rrc wver))) :
    q.off % q.align = 0 ∧ s.winCheck T { q with align := 1 } = (s1, .ok (.one aid dest cls rrc wver)) := by
  cases he : s.winEntry T.ctx T.cluster q.handle.toNat with
  | mk s0 r =>
    cases r with
    | inr f => simp [State.winCheck, he] at h
    | inl e =>
      by_cases hbad : field e 0 2 = 0 ∨ winReservedOk e = false ∨ field e 0 2 ∉ q.kinds
      · rw [winCheck_handle he hbad] at h
        simp [failed] at h
      · simp only [hk, List.mem_singleton, not_or, not_not, Bool.not_eq_false] at hbad
        obtain ⟨_, hres, hone⟩ := hbad
        have hany (q' : WinReq) (hk' : q'.kinds = [1]) (hh : q'.handle = q.handle) := winCheck_mem (s := s) (T := T) (q := q') (hh ▸ he) hone hres
          (by simp [hk'])
        rw [hany q hk rfl] at h
        rw [hany { q with align := 1 } hk rfl]
        split at h
        · simp [failed] at h
        · split at h
          · simp [failed] at h
          · split at h
            · simp [failed] at h
            · refine ⟨by tauto, ?_⟩
              rw [if_neg ‹_›, if_neg ‹_›, if_neg (by simp [Nat.mod_one])]
              exact h

section Send

variable {m : WArgs} (h : s.LaneReady t T tid th (span m.d.toNat 16 ++ [m.a.toNat, m.a.toNat + 1]) [])
include h

/-- RWSEND of an aligned offset whose window check passes: the box number's bound, then the credit. -/
theorem exec_rwsend {aid : Aid} {ctx : CtxId} {key : Word} {va cls wver : Nat} {rrc : Bool}
    (hw : s.winCheck T ⟨m.handle, (th.pairAt m.a.toNat).toNat, 64, 1, [1], 64⟩ = (s1, .ok (.one aid (.ctx ctx key va) cls rrc wver))) :
    let off := (th.pairAt m.a.toNat).toNat
    let th0 := { th with fenced := false }
    let s2 := s1.rrcWrite T.ctx m.handle off 64
    exec (.rwsend m) s =
      if 255 < off / 64 then .next (s1.stopLane t T tid th0 { code := Code.windowLimit, addr := BitVec.ofNat 64 off, handle := m.handle })
      else if (s2.credit aid ctx (off / 64)).1 = (s2.credit aid ctx (off / 64)).2 then .next (s2.park t T tid th0 (.send m aid ctx key (off / 64) va))
      else .next ((s2.sendRecord t tid th0 m aid ctx key (off / 64) va).setThread t T tid th0) := by
  intro off th0 s2
  obtain ⟨hoff, hw1⟩ := winCheck_unaligned (q := ⟨m.handle, (th.pairAt m.a.toNat).toNat, 64, 1, [1], 64⟩) rfl hw
  change execRwsend m s = _
  rw [execRwsend, State.memRun_ready h]
  simp only [pairAt_unfenced, hw1]
  exact if_neg (not_not.mpr hoff)

end Send

/-! ## Receiving a record -/

/-- The entry of an instruction on a feed that the image has, for a ready thread. -/
theorem feedRun_ready {f : Nat} {before after preds : List Nat} (h : s.LaneReady t T tid th (before ++ after) preds) (hf : f < T.img.nfeed)
    (k : Nat → Team → Nat → Thread → Res) : s.feedRun f before after preds k = k t T tid th := by
  have hb : before.any (fun r => decide (T.regCount th ≤ r)) = false := by
    rw [List.any_eq_false]
    exact fun r hr => by simpa using h.range r (List.mem_append_left _ hr)
  rw [State.feedRun, State.lane_ready h, hb, if_neg Bool.false_ne_true, if_neg (Nat.not_le.mpr hf), State.laneRun_ready h]

theorem exec_rwrecv {d : Reg} {f : Obj} (la : BitVec 4) (h : s.LaneReady t T tid th (span d.toNat 16) []) (hf : f.toNat < T.img.nfeed) :
    exec (.rwrecv d f la) s =
      if !s.feedBound t f.toNat then .next (s.stopLane t T tid th { code := Code.slotGrant })
      else if (T.feed f.toNat).fill < 64 then .next (s.park t T tid th (.recv f.toNat d.toNat la.toNat (s.issueMark th)))
      else .next (s.takeRecord t T tid th f.toNat d.toNat la.toNat []) :=
  feedRun_ready (by rwa [List.append_nil]) hf _

theorem exec_rwrecvNb {d : Reg} {f : Obj} {p : Pred} (la : BitVec 4) (h : s.LaneReady t T tid th (span d.toNat 16) [p.toNat])
    (hf : f.toNat < T.img.nfeed) :
    exec (.rwrecvNb d f la p) s =
      if !s.feedBound t f.toNat then .next (s.stopLane t T tid th { code := Code.slotGrant })
      else if (T.feed f.toNat).fill < 64 then
        .next (s.lateLane t T tid th la.toNat (span d.toNat 16) [p.toNat] ((span d.toNat 16).map fun r => (r, 0)) [(p.toNat, false)] 0)
      else .next (s.takeRecord t T tid th f.toNat d.toNat la.toNat [(p.toNat, true)]) :=
  feedRun_ready (by rwa [List.append_nil]) hf _

/-- Settles O25: a query that ends answers; a record is sent or taken when there is credit or a record, and waits otherwise. -/
theorem raysAndRecords : Obligations.RaysAndRecords := by
  intro s t tid T th d a b la p any m f th0
  refine ⟨fun h => ?_, fun h => ?_, fun h hf => ⟨fun hb => ?_, fun hb hn => ?_, fun hb hn => ?_⟩, fun h hf hb => ⟨fun hn => ?_, fun hn => ?_⟩⟩
  · intro q
    exact ⟨fun s1 hit ws nr hq => by rw [exec_rayq h, rayGo_done hq]; rfl, fun s1 k hq => by rw [exec_rayq h, rayGo_fault hq]⟩
  · intro off s1 aid ctx key va cls rrc wver hw s2 c
    refine ⟨fun hbox => ?_, fun hbox hc => ?_, fun hbox hc => ?_⟩
    · exact (exec_rwsend h hw).trans (if_pos (by omega))
    · exact (exec_rwsend h hw).trans ((if_neg (by omega)).trans (if_neg hc))
    · exact (exec_rwsend h hw).trans ((if_neg (by omega)).trans (if_pos hc))
  · rw [exec_rwrecv la h hf, hb, if_pos (by decide)]
  · rw [exec_rwrecv la h hf, hb, if_neg (by decide), if_neg (by omega)]
  · rw [exec_rwrecv la h hf, hb, if_neg (by decide), if_pos hn]
  · rw [exec_rwrecvNb la h hf, hb, if_neg (by decide), if_neg (by omega)]
  · rw [exec_rwrecvNb la h hf, hb, if_neg (by decide), if_pos hn]

end Sys2Proof.Laws.Rays
end


section
/-! Taking a fault (R465, R471): what the two stops leave in the teams and in memory, and the fields of a fault record (Table 20.2). -/

namespace Sys2Proof.Laws.Faults

open Sys2Proof Sys2Proof.Machine Sys2Proof.Laws.Rules Sys2Proof.Laws.LocalAccess Sys2Proof.Laws.Windows

theorem store_append (m : List Host.Cell) (a : Nat) (xs ys : List Byte) :
    Memory.store m a (xs ++ ys) = Memory.store (Memory.store m a xs) (a + xs.length) ys := by
  induction xs generalizing m a with
  | nil => rfl
  | cons x xs ih => simp only [List.cons_append, Memory.store, ih, List.length_cons]; congr 1; omega

/-- A number that is stored in front of other bytes is read back, cut to its width. -/
theorem val_store_leBytes (m : List Host.Cell) (a n v : Nat) (bs : List Byte) :
    Memory.val (Memory.store m a (leBytes n v ++ bs)) a n = v % 256 ^ n := by
  have hout := Memory.bytes_store_out (Memory.store m a (leBytes n v)) (a + n) bs (x := a) (n := n) (.inl le_rfl)
  have hin := Memory.bytes_store m a (leBytes n v)
  rw [leBytes_length] at hin
  rw [Memory.val, store_append, leBytes_length, hout, hin, leNat_leBytes]

/-- The number in a record behind its first bytes. -/
theorem val_store_skip (m : List Host.Cell) (a n v : Nat) (xs ys : List Byte) {k : Nat} (hk : xs.length = k) :
    Memory.val (Memory.store m a (xs ++ (leBytes n v ++ ys))) (a + k) n = v % 256 ^ n := by
  rw [store_append, hk, val_store_leBytes]

/-! ## Table 20.2 -/

variable (m : List Host.Cell) (a : Nat) (r : FaultRec)

theorem record_kind : Memory.val (Memory.store m a r.bytes) a 4 =
    r.code.toNat + r.src.toNat * 2 ^ 8 + r.cause.toNat * 2 ^ 12 + r.id.toNat * 2 ^ 16 := by
  have h := val_store_leBytes m a 4 (r.code.toNat + r.src.toNat * 2 ^ 8 + r.cause.toNat * 2 ^ 12 + r.id.toNat * 2 ^ 16)
  simp only [FaultRec.bytes, List.append_assoc, h]
  omega

theorem record_place (hh : r.h < 2 ^ 24) (hk : r.k < 16) :
    Memory.val (Memory.store m a r.bytes) (a + 4) 4 = r.h + r.k * 2 ^ 24 := by
  simp only [FaultRec.bytes, List.append_assoc]
  rw [val_store_skip m a 4 _ _ _ (by simp)]
  omega

theorem record_addr : Memory.val (Memory.store m a r.bytes) (a + 8) 8 = r.addr.toNat := by
  simp only [FaultRec.bytes, List.append_assoc]
  rw [← List.append_assoc, val_store_skip m a 8 _ _ _ (by simp)]
  omega

theorem record_info : Memory.val (Memory.store m a r.bytes) (a + 16) 4 = r.info.toNat := by
  simp only [FaultRec.bytes, List.append_assoc]
  rw [← List.append_assoc, ← List.append_assoc, val_store_skip m a 4 _ _ _ (by simp)]
  omega

theorem record_peer : Memory.val (Memory.store m a r.bytes) (a + 20) 4 = r.handle.toNat + r.peer.toNat * 2 ^ 16 := by
  simp only [FaultRec.bytes, List.append_assoc]
  rw [← List.append_assoc, ← List.append_assoc, ← List.append_assoc, val_store_skip m a 4 _ _ _ (by simp)]
  omega

theorem record_ctx : Memory.val (Memory.store m a r.bytes) (a + 24) 4 = r.ctx.toNat := by
  simp only [FaultRec.bytes, List.append_assoc]
  rw [← List.append_assoc, ← List.append_assoc, ← List.append_assoc, ← List.append_assoc, val_store_skip m a 4 _ _ _ (by simp)]
  omega

theorem record_team : Memory.val (Memory.store m a r.bytes) (a + 28) 4 = r.team.toNat := by
  rw [FaultRec.bytes, ← List.append_nil (leBytes 4 r.team.toNat), val_store_skip m a 4 _ _ _ (by simp)]
  omega

/-! ## The two stops -/

section
variable {s : State} {t : Nat} {T : Team}

theorem team?_stopSteer (s : State) (t : Nat) (T : Team) (f : Trap) :
    (s.stopSteer t T f).team? t = some { T with steer := { T.steer with st := .stopped (T.steerRec T.steer.pos f) } } := by
  rw [State.stopSteer, team?_report, State.team?_setTeam]

/-- A report changes no byte of memory but those of its slot, which holds the record then. -/
theorem reads_of_report {a : Nat} {s0 s1 : State} (hm : s1.mem = s0.mem) (h : s1.ringSlot s1.flt 32 = some a) (r : FaultRec) :
    SameMemoryBut s0 (s1.report r) a 32 ∧ (s1.report r).bytes a 32 = r.bytes := by
  have hs : (s1.report r).mem = Memory.store s0.mem a r.bytes := by rw [report_mem_of_slot h, hm]
  obtain ⟨hb, hf⟩ := reads_of_stored hs
  rw [bytes_length] at hb hf
  exact ⟨hf, hb⟩

theorem sameMemory_of_report {s0 s1 : State} (hm : s1.mem = s0.mem) (h : s1.ringSlot s1.flt 32 = none) (r : FaultRec) :
    SameMemory s0 (s1.report r) := sameMemory_of_mem (by rw [report_of_no_slot h]; exact hm)

theorem ringSlot_setTeam (s : State) (t : Nat) (T : Team) (q : Ring) (n : Nat) : (s.setTeam t T).ringSlot q n = s.ringSlot q n := rfl

theorem reads_of_stopLane {a : Nat} (h : s.ringSlot s.flt 32 = some a) (T : Team) (tid : Nat) (th : Thread) (f : Trap) :
    SameMemoryBut s (s.stopLane t T tid th f) a 32 ∧ (s.stopLane t T tid th f).bytes a 32 = (T.laneRec tid th.pos f).bytes :=
  reads_of_report (s1 := s.setThread t T tid _) rfl h _

theorem reads_of_stopSteer {a : Nat} (h : s.ringSlot s.flt 32 = some a) (T : Team) (f : Trap) :
    SameMemoryBut s (s.stopSteer t T f) a 32 ∧ (s.stopSteer t T f).bytes a 32 = (T.steerRec T.steer.pos f).bytes :=
  reads_of_report (s1 := s.setTeam t _) rfl h _

end

/-- Settles O27: a stop writes its party's state and its record, and the report writes the slot of the ring and no other byte. -/
theorem takingAFault : Obligations.TakingAFault := by
  refine ⟨fun s t tid T th f ht hth => ?_, fun m a r hh hk => ?_⟩
  · refine ⟨⟨_, team?_stopLane .., Team.thread?_setThread .., fun u hu => Team.thread?_setThread_ne _ _ hu, rfl⟩, team?_stopSteer ..,
      fun u hu => ⟨?_, ?_⟩, fun a ha => ?_, fun hn => ?_⟩
    · rw [State.stopLane, team?_report, State.team?_setThread_ne _ _ _ _ hu]
    · rw [State.stopSteer, team?_report, State.team?_setTeam_ne _ _ hu]
    · obtain ⟨hl, hlb⟩ := reads_of_stopLane (t := t) ha T tid th f
      obtain ⟨hs, hsb⟩ := reads_of_stopSteer (t := t) ha T f
      exact ⟨hl, hs, hlb, hsb⟩
    · exact ⟨sameMemory_of_report (s1 := s.setThread t T tid _) rfl hn _, sameMemory_of_report (s1 := s.setTeam t _) rfl hn _⟩
  · intro m1 w
    have hw : w = _ := record_kind m a r
    rw [hw, record_place m a r hh hk, record_addr, record_info, record_peer, record_ctx, record_team]
    refine ⟨bytes_length r, ?_⟩
    have field_lt (v lo n b : Nat) (h : v / 2 ^ lo % 2 ^ n = b) : field v lo n = b := h
    refine ⟨?_, ?_, ?_, ?_, ?_, ?_, rfl, rfl, ?_, ?_, rfl, rfl⟩ <;> apply field_lt <;> omega

/-! ## RESTART -/

section
variable {s : State} {x : FltTarget} {t : Nat} {T0 T : Team} {g : Word}

theorem exec_restart_behind (h : s.ctl.jobs ≠ []) :
    exec (.restart x) s = .next { s with ctl := { s.ctl with jobs := s.ctl.jobs ++ [.queued 1 x s.ctl.fltgrid] } } := by
  change Host.Outcome.next (s.fltCmd 1 x) = _
  rw [State.fltCmd, if_neg (by simpa using h)]

theorem exec_restart (h : s.ctl.jobs = []) : exec (.restart x) s = .next (s.runFlt 1 x s.ctl.fltgrid) := by
  change Host.Outcome.next (s.fltCmd 1 x) = _
  rw [State.fltCmd, if_pos (by simp [h])]

theorem runFlt_restart_none (h : s.fltTeam x g = none) : s.runFlt 1 x g = s.fltDone 1 := by
  simp only [State.runFlt, State.restartRun, State.fltOn, h]

/-- RESTART of a team that is there: its party is continued, or it is not stopped. -/
theorem runFlt_restart_some (h : s.fltTeam x g = some (t, T0)) (hT : (s.fromSlot t).team? t = some T) :
    s.runFlt 1 x g = (((s.fromSlot t).restartAt t T x).map fun s1 => (s1.resave t).fltDone 0).getD (s.fltDone 1) := by
  simp only [State.runFlt, State.restartRun, State.fltOn, h, hT, Option.bind_some]
  cases (s.fromSlot t).restartAt t T x <;> rfl

theorem fromSlot_of_not_saved (h0 : s.team? t = some T0) (hp : T0.place ≠ .saved) : s.fromSlot t = s := by
  simp only [State.fromSlot, h0, if_neg hp]

theorem stopsAfter_iff (c : BitVec 8) : stopsAfter c = true ↔ c = 0x50 ∨ c = 0x51 := by simp [stopsAfter, Code.trap, Code.brkpt]

theorem restartAt_lane {th : Thread} {r : FaultRec} (hs : x.src = 0) (hth : T.thread? x.id.toNat = some th) (hr : th.st = .stopped r) :
    s.restartAt t T x = some (s.restartLane t T x.id.toNat th r) := by simp [State.restartAt, hs, hth, hr]

theorem restartAt_lane_none {th : Thread} (hs : x.src = 0) (hth : T.thread? x.id.toNat = some th) (hr : ∀ q, th.st ≠ .stopped q) :
    s.restartAt t T x = none := by
  have h0 : x.src.toNat = 0 := by simp [hs]
  simp only [State.restartAt, h0, hth]

theorem restartAt_steer {r : FaultRec} (hs : x.src = 1) (hr : T.steer.st = .stopped r) :
    s.restartAt t T x = some (s.restartSteer t T r) := by simp [State.restartAt, hs, hr]

end

/-- Settles O28: the command by what its target names; a stopped party is found again in its team, and in the save area where the team is saved. -/
theorem returnFromAFault : Obligations.ReturnFromAFault := by
  intro s x t T0 T th r
  refine ⟨fun h => exec_restart_behind h, fun h => ⟨fun hn => ?_, fun h0 hT => ?_⟩⟩
  · rw [exec_restart h, runFlt_restart_none hn]
  · intro s0
    refine ⟨fun hp ht => fromSlot_of_not_saved ht hp, fun hs hth hr => ?_, fun hs hth hr => ?_, fun hs hr => ?_⟩
    · rw [exec_restart h, runFlt_restart_some h0 hT, restartAt_lane hs hth hr]
      simp only [State.restartLane, stopsAfter_iff]
      rfl
    · rw [exec_restart h, runFlt_restart_some h0 hT, restartAt_lane_none hs hth hr]
      rfl
    · rw [exec_restart h, runFlt_restart_some h0 hT, restartAt_steer hs hr]
      simp only [State.restartSteer, stopsAfter_iff]
      rfl

end Sys2Proof.Laws.Faults
end


section
/-! The steering stream's transfers of control, decision queues, result registers and traps (R307-R312, R323). -/

namespace Sys2Proof.Laws.SteerControl

open Sys2Proof Sys2Proof.Machine Sys2Proof.Laws.Rules Sys2Proof.Laws.PairsAndCounts Sys2Proof.Laws.SteerForms

variable {s : State} {t : Nat} {T : Team} {regs : List Nat}

theorem exec_scall (tgt : Tgt) (h : s.SteerReady t T []) :
    exec (.scall tgt) s = if 16 ≤ T.steer.link.length then .next (s.stopSteer t T { code := Code.aperture })
      else .next (s.setTeam t { T with steer :=
        { T.steer with st := .running, link := BitVec.ofNat 24 T.steer.nextPos.h :: T.steer.link, nextPos := ⟨tgt.toNat, 0⟩ } }) := by
  change execScall tgt s = _
  rw [execScall, State.steerRun_ready h]
  rfl

theorem exec_sret_pop {e : BitVec 24} {r : List (BitVec 24)} (h : s.SteerReady t T []) (hl : T.steer.link = e :: r) :
    exec .sret s = .next (s.setTeam t { T with steer := { T.steer with st := .running, link := r, nextPos := ⟨e.toNat, 0⟩ } }) := by
  change execSret s = _
  rw [execSret, State.steerRun_ready h]
  simp only [hl]
  rfl

theorem exec_sret_empty (h : s.SteerReady t T []) (hl : T.steer.link = []) :
    exec .sret s = .next (s.stopSteer t T { code := Code.badClause }) := by
  change execSret s = _
  rw [execSret, State.steerRun_ready h]
  simp only [hl]

theorem exec_sdone (h : s.SteerReady t T []) :
    exec .sdone s = if !T.steer.late.isEmpty then .next (s.steerWait t T .done)
      else .next ((span 0 T.roles.length).foldl (fun s k => s.serveQueue t k)
        (s.setTeam t { T with steer := { T.steer with st := .done, armt := none, blatch := none, fences := [] },
                              roles := T.roles.map fun r => { r with dq := { r.dq with closed := true } } })) := by
  change execSdone s = _
  rw [execSdone, State.steer_ready h]
  rfl

theorem exec_dqpush (role : BitVec 2) (b : SSrc) (h : s.SteerReady t T (ssrcRegs b)) :
    exec (.dqpush role b) s = if T.roles.length ≤ role.toNat then .next (s.setTeam t { T with steer := { T.steer with st := .running } })
      else if 32 ≤ (T.role role.toNat).dq.tail - (T.role role.toNat).dq.head then .next (s.steerWait t T (.dqpush role.toNat))
      else .next ((s.setTeam t (({ T with steer := { T.steer with st := .running } } : Team).modRole role.toNat fun r =>
        { r with dq := { (T.role role.toNat).dq with
          ent := Map.set 0 (T.role role.toNat).dq.ent ((T.role role.toNat).dq.tail % 32) (ssrcVal b T.steer),
          tail := (T.role role.toNat).dq.tail + 1 } })).serveQueue t role.toNat) := by
  change execDqpush role b s = _
  rw [execDqpush, State.steerRun_ready h]
  rfl

theorem exec_qrd (d : SReg) (q : BitVec 3) (b : SSrc) (h : s.SteerReady t T (d.toNat :: ssrcRegs b)) :
    exec (.qrd d q b) s = if ((Map.get (0, 0) T.q q.toNat).2 - (ssrcVal b T.steer).truncate 16).toNat < 2 ^ 15
      then .next (s.setTeam t { T with steer := { T.steer with st := .running }.setReg d.toNat (Map.get (0, 0) T.q q.toNat).1 })
      else .next (s.steerWait t T (.qrd q.toNat ((ssrcVal b T.steer).truncate 16))) := by
  change execQrd d q b s = _
  rw [execQrd, State.steerRun_ready h]
  rfl

/-- Settles O31: each form by its equation behind the common entry: the link stack, the decision queues and the result registers. -/
theorem steerControlResults : Obligations.SteerControlResults := by
  intro c n tgt d role q b code
  refine ⟨steerSets_of_steerEff fun _ => rfl, steerSets_of_steerEff fun _ => rfl, fun s t T h => ?_, steerSets_of_steerEff fun _ => rfl,
    fun s t T h => ?_, fun s t T h => ?_, steerDoes_of_steerRun fun _ => rfl, steerDoes_of_steerRun fun _ => rfl,
    steerSets_of_steerEff fun _ => rfl, steerSets_of_steerEff fun _ => rfl⟩
  · refine ⟨fun hl => ?_, fun hl => ?_, fun e r hl => exec_sret_pop h hl, fun hl => exec_sret_empty h hl, fun hl => ?_, fun hl => ?_⟩
    · rw [exec_scall tgt h, if_neg (by omega)]
    · rw [exec_scall tgt h, if_pos hl]
    · rw [exec_sdone h, if_neg (by simp [hl])]
    · rw [exec_sdone h, if_pos (by simpa using hl)]
  · refine ⟨fun hk => ?_, fun hk hq => ?_, fun hk hq => ?_⟩
    · rw [exec_dqpush role b h, if_pos hk]
    · rw [exec_dqpush role b h, if_neg (by omega), if_pos hq]
    · rw [exec_dqpush role b h, if_neg (by omega), if_neg (by omega)]
  · refine ⟨fun ha => ?_, fun ha => ?_⟩
    · rw [exec_qrd d q b h, if_pos ha]
    · rw [exec_qrd d q b h, if_neg (by omega)]

end Sys2Proof.Laws.SteerControl
end


section
/-! The memory instructions of the steering stream (R313-R316, R426): what each outcome of locating and judging its address answers. -/

namespace Sys2Proof.Laws.SteerMemory

open Sys2Proof Sys2Proof.Machine Sys2Proof.Laws.Rules Sys2Proof.Laws.LocalAccess Sys2Proof.Laws.SteerForms

/-! ## A store is never judged to be of a page that is not resident (R58) -/

section
variable (s : State) (c : CtxId) (cl : Option Nat) (priv : Bool) (va : Nat) (full : Bool)

theorem atLine_ne_nonres (pa : Nat) (rrc : Bool) : s.atLine pa rrc full ≠ .nonres := by
  unfold State.atLine
  repeat' split
  all_goals simp

theorem judgeStoreOnce_ne_nonres (retry : Bool) : (s.judgeStoreOnce c cl priv va full retry).2 ≠ some .nonres := by
  unfold State.judgeStoreOnce
  dsimp only
  repeat' split
  all_goals simp [atLine_ne_nonres]

theorem judgeStoreOnce_last : (s.judgeStoreOnce c cl priv va full false).2 ≠ none := by
  unfold State.judgeStoreOnce
  simp only [Bool.false_eq_true, if_false]
  repeat' split
  all_goals simp

theorem judgeStore_ne_nonres : (s.judgeStore c cl priv va full).2 ≠ .nonres := by
  unfold State.judgeStore
  split
  case h_1 s1 a h => exact fun ha => judgeStoreOnce_ne_nonres s c cl priv va full true (by rw [h, ← ha])
  case h_2 s1 h =>
    split
    case h_1 s2 a h => exact fun ha => judgeStoreOnce_ne_nonres s1 c cl priv va full true (by rw [h, ← ha])
    case h_2 s2 h =>
      split
      case h_1 s3 a h => exact fun ha => judgeStoreOnce_ne_nonres s2 c cl priv va full false (by rw [h, ← ha])
      case h_2 s3 h => exact absurd (by rw [h]) (judgeStoreOnce_last s2 c cl priv va full)

end

/-! ## SLD and SST -/

section
variable {s s1 : State} {t : Nat} {T : Team} {d a b : SReg} {z : Size} {sg : Bool} {hint : BitVec 2} {off : Option Word} {k : BitVec 8}

section
variable (h : s.SteerReady t T (sRegs d a z.regs))
include h

theorem exec_sld_fault (hl : s.locate T none (sAddr a off T.steer) z.bytes = .inr k) :
    exec (.sld d a z sg hint off) s = .next (s.stopSteer t T (trapAt k 0 (sAddr a off T.steer))) := by
  change execSld d a z sg hint off s = _
  rw [execSld, State.steerRun_ready h]
  simp only [hl]

theorem exec_sld_scr {o : Nat} (hl : s.locate T none (sAddr a off T.steer) z.bytes = .inl (.scr o)) :
    exec (.sld d a z sg hint off) s = if T.lineAbsent (o / 128) then .next (s.steerWait t T .line)
      else .next (s.lateSteer t T (span d.toNat z.regs) (sldVals z sg d.toNat (T.sbytes o z.bytes)) .due) := by
  change execSld d a z sg hint off s = _
  rw [execSld, State.steerRun_ready h]
  simp only [hl]

theorem exec_sld_mem {priv : Bool} {va : Nat} (hl : s.locate T none (sAddr a off T.steer) z.bytes = .inl (.mem priv va)) :
    exec (.sld d a z sg hint off) s =
      match s.judgeLoad T.ctx T.cluster false va with
      | (s1, .ok pa _) => .next (s1.lateSteer t T (span d.toNat z.regs) (sldVals z sg d.toNat (s1.bytes pa z.bytes)) .due)
      | (s1, .nonres) => .next (s1.stopSteer t T (trapAt Code.storeNonres 0 (sAddr a off T.steer)))
      | (s1, .bad k q) => .next (s1.stopSteer t T (trapAt k q (sAddr a off T.steer))) := by
  change execSld d a z sg hint off s = _
  rw [execSld, State.steerRun_ready h]
  simp only [hl] <;> rfl

theorem exec_sst_fault (hl : s.locate T none (sAddr a off T.steer) z.bytes = .inr k) :
    exec (.sst d a z hint off) s = .next (s.stopSteer t T (trapAt k 0 (sAddr a off T.steer))) := by
  change execSst d a z hint off s = _
  rw [execSst, State.steerRun_ready h]
  simp only [hl]

theorem exec_sst_scr {o : Nat} (hl : s.locate T none (sAddr a off T.steer) z.bytes = .inl (.scr o)) :
    exec (.sst d a z hint off) s = if T.lineAbsent (o / 128) then .next (s.steerWait t T .line)
      else .next ((s.setTeam t (({ T with steer := { T.steer with st := .running } } : Team).sstore o
        ((T.steer.regBytes d.toNat z.regs).take z.bytes))).spoilScr t o z.bytes) := by
  change execSst d a z hint off s = _
  rw [execSst, State.steerRun_ready h]
  simp only [hl]

theorem exec_sst_ok {priv q : Bool} {va pa : Nat} (hl : s.locate T none (sAddr a off T.steer) z.bytes = .inl (.mem priv va))
    (hj : s.judgeStore T.ctx T.cluster false va false = (s1, .ok pa q)) :
    exec (.sst d a z hint off) s = .next (((s1.store pa ((T.steer.regBytes d.toNat z.regs).take z.bytes)).setTeam t
      { T with steer := { T.steer with st := .running } }).spoilMem pa z.bytes) := by
  change execSst d a z hint off s = _
  rw [execSst, State.steerRun_ready h]
  simp only [hl, hj]

theorem exec_sst_bad {priv : Bool} {va : Nat} {q : BitVec 4} (hl : s.locate T none (sAddr a off T.steer) z.bytes = .inl (.mem priv va))
    (hj : s.judgeStore T.ctx T.cluster false va false = (s1, .bad k q)) :
    exec (.sst d a z hint off) s = .next (s1.stopSteer t T (trapAt k q (sAddr a off T.steer))) := by
  change execSst d a z hint off s = _
  rw [execSst, State.steerRun_ready h]
  simp only [hl, hj]

end

/-! ## SATOM -/

section
variable {op : AtomOp} {wide u : Bool} (h : s.SteerReady t T (sRegs d a (if wide then 2 else 1) ++ satomRegs b op wide))
include h

theorem exec_satom_fault (hl : s.locate T none (sAddr a none T.steer) (if wide then 8 else 4) = .inr k) :
    exec (.satom d a b op wide u) s = .next (s.stopSteer t T (trapAt k 0 (sAddr a none T.steer))) := by
  change execSatom d a b op wide u s = _
  rw [execSatom, State.steerRun_ready h]
  simp only [hl]

theorem exec_satom_ok {priv q : Bool} {va pa : Nat} (hl : s.locate T none (sAddr a none T.steer) (if wide then 8 else 4) = .inl (.mem priv va))
    (hj : s.judgeStore T.ctx T.cluster false va false = (s1, .ok pa q)) :
    exec (.satom d a b op wide u) s = .next (((s1.store pa (atomBytes op u wide (T.steer.atomArgs b.toNat wide).1
        (T.steer.atomArgs b.toNat wide).2 (s1.bytes pa (if wide then 8 else 4)))).lateSteer t T (span d.toNat (if wide then 2 else 1))
      ((span d.toNat (if wide then 2 else 1)).zip (wordsOf (s1.bytes pa (if wide then 8 else 4)) (if wide then 2 else 1))) .due).spoilMem pa
        (if wide then 8 else 4)) := by
  change execSatom d a b op wide u s = _
  rw [execSatom, State.steerRun_ready h]
  simp only [hl, hj]

theorem exec_satom_bad {priv : Bool} {va : Nat} {q : BitVec 4}
    (hl : s.locate T none (sAddr a none T.steer) (if wide then 8 else 4) = .inl (.mem priv va))
    (hj : s.judgeStore T.ctx T.cluster false va false = (s1, .bad k q)) :
    exec (.satom d a b op wide u) s = .next (s1.stopSteer t T (trapAt k q (sAddr a none T.steer))) := by
  change execSatom d a b op wide u s = _
  rw [execSatom, State.steerRun_ready h]
  simp only [hl, hj]

theorem exec_satom_scr {o : Nat} (hl : s.locate T none (sAddr a none T.steer) (if wide then 8 else 4) = .inl (.scr o)) :
    exec (.satom d a b op wide u) s = if T.lineAbsent (o / 128) then .next (s.steerWait t T .line)
      else .next ((s.lateSteer t (T.sstore o (atomBytes op u wide (T.steer.atomArgs b.toNat wide).1 (T.steer.atomArgs b.toNat wide).2
          (T.sbytes o (if wide then 8 else 4)))) (span d.toNat (if wide then 2 else 1))
        ((span d.toNat (if wide then 2 else 1)).zip (wordsOf (T.sbytes o (if wide then 8 else 4)) (if wide then 2 else 1))) .due).spoilScr t o
          (if wide then 8 else 4)) := by
  change execSatom d a b op wide u s = _
  rw [execSatom, State.steerRun_ready h]
  simp only [hl]

end

theorem atomBytes_length (op : AtomOp) (u wide : Bool) (x y : DWord) (old : List Byte) :
    (atomBytes op u wide x y old).length = if wide then 8 else 4 := by rw [atomBytes, leBytes_length]

/-! ## CWAIT -/

section
variable {g want : DWord} {next : Pos} {o : Nat} {priv : Bool} {va : Nat}

theorem cwaitRead_fault (hl : s.locate T none g 8 = .inr k) : s.cwaitRead t T g want next = s.stopSteer t T (trapAt k 0 g) := by
  simp only [State.cwaitRead, hl]

theorem cwaitRead_scr (hl : s.locate T none g 8 = .inl (.scr o)) : s.cwaitRead t T g want next =
    if T.lineAbsent (o / 128) then s.steerWait t T (.cwait g want next)
    else if want.toNat ≤ leNat (T.sbytes o 8) then s.setTeam t { T with steer := { T.steer with st := .running, nextPos := next } }
    else s.steerWait t T (.cwait g want next) := by
  simp only [State.cwaitRead, hl, State.setSteer]

theorem cwaitRead_mem (hl : s.locate T none g 8 = .inl (.mem priv va)) : s.cwaitRead t T g want next =
    match s.judgeLoad T.ctx T.cluster false va with
    | (s1, .ok pa _) => if want.toNat ≤ leNat (s1.bytes pa 8) then s1.setTeam t { T with steer := { T.steer with st := .running, nextPos := next } }
        else s1.steerWait t T (.cwait g want next)
    | (s1, .nonres) => s1.stopSteer t T (trapAt Code.storeNonres 0 g)
    | (s1, .bad k q) => s1.stopSteer t T (trapAt k q g) := by
  simp only [State.cwaitRead, hl, State.setSteer] <;> rfl

theorem exec_cwait (h : s.SteerReady t T [a.toNat, a.toNat + 1, b.toNat, b.toNat + 1]) :
    exec (.cwait a b) s = .next (s.cwaitRead t T (sAddr a none T.steer) (T.steer.pairAt b.toNat) T.steer.nextPos) := by
  change execCwait a b s = _
  rw [execCwait, State.steerRun_ready h]

end
/-! ## SRDS -/

theorem leBytes_add (n k v : Nat) : leBytes (n + k) v = leBytes n v ++ leBytes k (v / 256 ^ n) := by
  induction n generalizing v with
  | zero => simp [leBytes]
  | succ n ih =>
    rw [Nat.add_right_comm, leBytes, leBytes, ih, List.cons_append, Nat.div_div_eq_div_mul, ← Nat.pow_succ']

theorem wordsOf_leBytes (k v : Nat) : wordsOf (leBytes (4 * (k + 1)) v) (k + 1) = BitVec.ofNat 32 v :: wordsOf (leBytes (4 * k) (v / 2 ^ 32)) k := by
  rw [Nat.mul_succ, Nat.add_comm, leBytes_add, wordsOf, List.take_left' (leBytes_length ..), List.drop_left' (leBytes_length ..),
    leNat_leBytes]
  congr 1
  apply BitVec.eq_of_toNat_eq
  simp

theorem exec_srds_dtime (h : s.SteerReady t T [d.toNat, d.toNat + 1]) :
    exec (.srds d .dtime) s = .next (s.lateSteer t T [d.toNat, d.toNat + 1]
      [(d.toNat, s.dtime.extractLsb' 0 32), (d.toNat + 1, s.dtime.extractLsb' 32 32)] .due) := by
  change execSrds d .dtime s = _
  rw [execSrds, if_pos rfl, State.steerRun_ready (regs := span d.toNat 2) h, wordsOf_leBytes 1, wordsOf_leBytes 0]
  congr 2
  simp only [wordsOf, span, List.zip_cons_cons, List.zip_nil_right, State.teamSpecial, List.cons.injEq, Prod.mk.injEq, true_and, and_true]
  constructor <;> apply BitVec.eq_of_toNat_eq <;> simp [BitVec.extractLsb', Nat.shiftRight_eq_div_pow]

theorem exec_srds_of_ne {sel : Special} (h : s.SteerReady t T [d.toNat]) (hs : sel ≠ .dtime) :
    exec (.srds d sel) s = .next (s.lateSteer t T [d.toNat] [(d.toNat, BitVec.ofNat 32 (s.teamSpecial T sel))] .due) := by
  change execSrds d sel s = _
  rw [execSrds, if_neg hs, State.steerRun_ready (regs := span d.toNat 1) h, wordsOf_leBytes 0]
  rfl

end

/-- Settles O32: the address is located, then judged; each answer of the two has its outcome, for loads, stores and atomics alike. -/
theorem steerMemoryOutcomes : Obligations.SteerMemoryOutcomes := by
  intro s t T d a b z sg wide u hint off op sc sel run
  refine ⟨fun h => ?_, fun va => judgeStore_ne_nonres _ _ _ _ _ _, fun h => ?_, fun eng h => ?_, exec_srds_dtime, fun h hs => ?_, fun h => ?_⟩
  · intro g data
    refine ⟨fun k hl => ⟨exec_sld_fault h hl, exec_sst_fault h hl⟩, fun o hl => ⟨fun hp => ⟨?_, ?_⟩, fun hp => ⟨?_, ?_⟩⟩,
      fun priv va s1 hl => ⟨fun pa q hj => ⟨?_, ?_⟩, fun hj => ?_, fun k q hj => ?_, fun pa q hj => ?_, fun k q hj => exec_sst_bad h hl hj⟩⟩
    · rw [exec_sld_scr h hl, if_pos hp]
    · rw [exec_sst_scr h hl, if_pos hp]
    · rw [exec_sld_scr h hl, if_neg (by simp [hp])]
    · rw [exec_sst_scr h hl, if_neg (by simp [hp])]
    · simp only [exec_sld_mem h hl, hj, bytes_of_judgeLoad hj]
    · exact sameMemory_of_mem (by simpa [hj] using State.judgeLoad_mem s T.ctx T.cluster false va)
    · simp only [exec_sld_mem h hl, hj, g]
    · simp only [exec_sld_mem h hl, hj, g]
    · obtain ⟨hb, hf⟩ := reads_of_stored (s := s1) (s' := ((s1.store pa data).setTeam t run).spoilMem pa z.bytes) (a := pa) (bs := data) rfl
      exact ⟨_, exec_sst_ok h hl hj, rfl, hf, hb⟩
  · intro g n k xy
    refine ⟨fun e hl => exec_satom_fault h hl, fun priv va s1 pa q hl hj => ?_, fun priv va s1 hl e q hj => exec_satom_bad h hl hj,
      fun o hl => ⟨fun hp => ?_, fun hp => ?_⟩⟩
    · intro old
      obtain ⟨hb, hf⟩ := reads_of_stored (s := s1) (s' := (((s1.store pa (atomBytes op u wide xy.1 xy.2 old)).lateSteer t T (span d.toNat k)
            ((span d.toNat k).zip (wordsOf old k)) .due).spoilMem pa n)) (a := pa) (bs := atomBytes op u wide xy.1 xy.2 old) rfl
      rw [atomBytes_length] at hb hf
      exact ⟨_, exec_satom_ok h hl hj, hf, hb, rfl⟩
    · rw [exec_satom_scr h hl, if_pos hp]
    · rw [exec_satom_scr h hl, if_neg (by simp [hp])]
  · change execSfence sc eng s = _
    rw [execSfence, State.steerRun_ready h]
    rfl
  · rw [exec_srds_of_ne h hs]
    cases sel with
    | dtime => exact absurd rfl hs
    | _ => rfl
  · intro g want wait
    refine ⟨fun k hl => ?_, fun o hl => ⟨fun hp => ?_, fun hp => ⟨fun hw => ?_, fun hw => ?_⟩⟩,
      fun priv va s1 hl => ⟨fun pa q hj => ⟨fun hw => ?_, fun hw => ?_⟩, fun hj => ?_, fun k q hj => ?_⟩⟩
    · rw [exec_cwait h, cwaitRead_fault hl]
    · rw [exec_cwait h, cwaitRead_scr hl, if_pos hp]
    · rw [exec_cwait h, cwaitRead_scr hl, if_neg (by simp [hp]), if_pos hw]
    · rw [exec_cwait h, cwaitRead_scr hl, if_neg (by simp [hp]), if_neg (by omega)]
    · rw [exec_cwait h, cwaitRead_mem hl, hj]
      exact congrArg Host.Outcome.next (if_pos hw)
    · rw [exec_cwait h, cwaitRead_mem hl, hj]
      exact congrArg Host.Outcome.next (if_neg (by omega))
    · rw [exec_cwait h, cwaitRead_mem hl, hj]
    · rw [exec_cwait h, cwaitRead_mem hl, hj]

end Sys2Proof.Laws.SteerMemory
end


section
/-! The engine commands of the steering stream (R91, R344-R346, R381, R385-R389, R421, R439, R440) and its objects (R391-R393, R416-R423). -/

namespace Sys2Proof.Laws.SteerObjects

open Sys2Proof Sys2Proof.Machine Sys2Proof.Laws.Rules Sys2Proof.Laws.PairsAndCounts Sys2Proof.Laws.SteerForms

/-! ## Issue of engine commands -/

section
variable {s : State} {t : Nat} {T : Team}

/-- What issuing a command answers, by the two latches. -/
theorem issueCmd_armed (c : EngCmd) {b : Nat} (hb : T.steer.blatch = some b) : s.issueCmd t T c =
    if T.armFull b then s.steerWait t T .arming
    else (s.addEng t { T with steer := { T.steer with st := .running, armt := none, blatch := none } } c (.armed b) T.steer.armt).1 := by
  simp only [State.issueCmd, hb, Steer.unlatched]

theorem issueCmd_held (c : EngCmd) {x : DWord} (hb : T.steer.blatch = none) (ha : T.steer.armt = some x) : s.issueCmd t T c =
    if 8 ≤ T.countEng (fun y => y.st.isHeld) then s.steerWait t T .engine
    else (s.addEng t { T with steer := { T.steer with st := .running, armt := none, blatch := none } } c (.held x) (some x)).1 := by
  simp only [State.issueCmd, hb, ha, Steer.unlatched]
  rfl

theorem issueCmd_now (c : EngCmd) (hb : T.steer.blatch = none) (ha : T.steer.armt = none) : s.issueCmd t T c =
    if s.engRoom T c then
      (s.addEng t { T with steer := { T.steer with st := .running, armt := none, blatch := none } } c .queued none).1.issueEng t
        (s.addEng t { T with steer := { T.steer with st := .running, armt := none, blatch := none } } c .queued none).2
    else s.steerWait t T .engine := by
  simp only [State.issueCmd, hb, ha, Steer.unlatched]

/-- An instruction that issues its command does so by the latches. -/
theorem issues_of_issueCmd {i : Instr} {c : EngCmd} (he : exec i s = .next (s.issueCmd t T c)) :
    let off : Team := { T with steer := { T.steer with st := .running, armt := none, blatch := none } }
    (∀ b, T.steer.blatch = some b →
      (T.armFull b = false → exec i s = .next (s.addEng t off c (.armed b) T.steer.armt).1) ∧
      (T.armFull b = true → exec i s = .next (s.steerWait t T .arming))) ∧
    (∀ x, T.steer.blatch = none → T.steer.armt = some x →
      (T.countEng (fun y => y.st.isHeld) < 8 → exec i s = .next (s.addEng t off c (.held x) (some x)).1) ∧
      (8 ≤ T.countEng (fun y => y.st.isHeld) → exec i s = .next (s.steerWait t T .engine))) ∧
    (T.steer.blatch = none → T.steer.armt = none →
      (s.engRoom T c = true → exec i s = .next ((s.addEng t off c .queued none).1.issueEng t (s.addEng t off c .queued none).2)) ∧
      (s.engRoom T c = false → exec i s = .next (s.steerWait t T .engine))) := by
  intro off
  refine ⟨fun b hb => ⟨fun h => ?_, fun h => ?_⟩, fun x hb ha => ⟨fun h => ?_, fun h => ?_⟩, fun hb ha => ⟨fun h => ?_, fun h => ?_⟩⟩
  · rw [he, issueCmd_armed c hb, if_neg (by simp [h])]
  · rw [he, issueCmd_armed c hb, if_pos h]
  · rw [he, issueCmd_held c hb ha, if_neg (by omega)]
  · rw [he, issueCmd_held c hb ha, if_pos h]
  · rw [he, issueCmd_now c hb ha, if_pos h]
  · rw [he, issueCmd_now c hb ha, if_neg (by simp [h])]

variable {e : EArgs}

theorem exec_copy (h : s.SteerReady t T (span e.pb.toNat 8)) (sk dk : CopyKind) (sf df : Obj) :
    exec (.copy e sk dk sf df) s = .next (s.issueCmd t T (.copy e sk dk sf.toNat df.toNat ((span e.pb.toNat 8).map T.steer.reg))) := by
  change execCopy e sk dk sf df s = _
  rw [execCopy, State.steerRun_ready h, Steer.params]

theorem exec_cube (h : s.SteerReady t T (span e.pb.toNat 3)) (mode : CubeMode) (init : Bool) (fa fb fc : Obj) (k : BitVec 4) :
    exec (.cube e mode init fa fb fc k) s =
      .next (((T.cubeFault mode fa.toNat fb.toNat fc.toNat k.toNat ((span e.pb.toNat 8).map T.steer.reg)).map fun f =>
        s.failCmd t T { code := f }).getD
          (s.issueCmd t T (.cube e mode init fa.toNat fb.toNat fc.toNat k.toNat ((span e.pb.toNat 8).map T.steer.reg)))) := by
  change execCube e mode init fa fb fc k s = _
  rw [execCube, State.steerRun_ready h, ← Steer.params]
  cases hf : T.cubeFault mode fa.toNat fb.toNat fc.toNat k.toNat (T.steer.params e.pb) <;> simp only [hf] <;> rfl

theorem exec_cdrain (h : s.SteerReady t T [e.pb.toNat]) (f : DrainFmt) (clr : Bool) (df : Obj) (k delta : BitVec 4) :
    exec (.cdrain e f clr df k delta) s =
      .next (((T.drainFault f df.toNat k.toNat ((span e.pb.toNat 8).map T.steer.reg)).map fun x => s.failCmd t T { code := x }).getD
        (s.issueCmd t T (.cdrain e f clr df.toNat k.toNat delta.toNat ((span e.pb.toNat 8).map T.steer.reg)))) := by
  change execCdrain e f clr df k delta s = _
  rw [execCdrain, State.steerRun_ready h, ← Steer.params]
  cases hf : T.drainFault f df.toNat k.toNat (T.steer.params e.pb) <;> simp only [hf] <;> rfl

theorem exec_coll {c : Ctx} (h : s.SteerReady t T [e.pb.toNat, e.pb.toNat + 1]) (hc : Map.find? s.ctxs T.ctx.toNat = some c)
    (slot : BitVec 2) (grp : BitVec 8) :
    exec (.coll e slot grp) s = if c.ngrp ≤ grp.toNat then .next (s.failCmd t T { code := Code.collAbort })
      else .next (s.issueCmd t T (.coll e slot.toNat grp ((span e.pb.toNat 8).map T.steer.reg))) := by
  change execColl e slot grp s = _
  rw [execColl, State.steerRun_ready h, hc, Steer.params]

end

/-! ## The checks of CUBE and CDRAIN (R386, R389) -/

section
variable {T : Team} {mode : CubeMode} {fa fb fc k df : Nat} {par : List Word} {f : DrainFmt}

theorem noRepeats_iff {α : Type} [DecidableEq α] (l : List α) : noRepeats l = true ↔ l.Nodup := by
  induction l with
  | nil => simp [noRepeats]
  | cons a l ih => simp [noRepeats, ih]

/-- The feeds that a CUBE names. -/
def cubeFeeds (mode : CubeMode) (fa fb fc : Nat) : List Nat := if mode = .two then [fa, fb] else [fa, fb, fc]

theorem cubeFault_feeds (h : (∃ x ∈ cubeFeeds mode fa fb fc, T.img.nfeed ≤ x) ∨ ¬(cubeFeeds mode fa fb fc).Nodup) :
    T.cubeFault mode fa fb fc k par = some Code.feedRange := by
  rw [Team.cubeFault, ← cubeFeeds]
  refine if_pos ?_
  rw [← noRepeats_iff] at h
  simpa using h

theorem feeds_ok (hx : ∀ x ∈ cubeFeeds mode fa fb fc, x < T.img.nfeed) (hn : (cubeFeeds mode fa fb fc).Nodup) :
    ¬(((cubeFeeds mode fa fb fc).any fun f => decide (T.img.nfeed ≤ f)) || !noRepeats (cubeFeeds mode fa fb fc)) = true := by
  rw [← noRepeats_iff] at hn
  simpa [hn] using hx

theorem cubeFault_tile (hx : ∀ x ∈ cubeFeeds mode fa fb fc, x < T.img.nfeed) (hn : (cubeFeeds mode fa fb fc).Nodup) (hk : T.tiles.length ≤ k) :
    T.cubeFault mode fa fb fc k par = some Code.regRange := by
  rw [Team.cubeFault, ← cubeFeeds]
  exact (if_neg (feeds_ok hx hn)).trans (if_pos hk)

theorem cubeFault_none (h : T.cubeFault mode fa fb fc k par = none) : k < T.tiles.length ∧ (∀ x ∈ cubeFeeds mode fa fb fc, x < T.img.nfeed) ∧
    (cubeFeeds mode fa fb fc).Nodup ∧ blockLegal (parAt par 0) = true := by
  by_cases hf : (∃ x ∈ cubeFeeds mode fa fb fc, T.img.nfeed ≤ x) ∨ ¬(cubeFeeds mode fa fb fc).Nodup
  · rw [cubeFault_feeds hf] at h
    simp at h
  push Not at hf
  obtain ⟨hx, hn⟩ := hf
  by_cases hk : T.tiles.length ≤ k
  · rw [cubeFault_tile hx hn hk] at h
    simp at h
  refine ⟨by omega, hx, hn, ?_⟩
  rw [Team.cubeFault, ← cubeFeeds, if_neg (feeds_ok hx hn), if_neg hk] at h
  split at h
  · simp at h
  · split at h
    · simp at h
    · split at h
      · simp at h
      · simp_all

theorem drainFault_none (h : T.drainFault f df k par = none) :
    df < T.img.nfeed ∧ k < T.tiles.length ∧ blockLegal (parAt par 0) = true ∧ drainSize f (blockOf (parAt par 0)) ≤ (T.feed df).size := by
  unfold Team.drainFault at h
  dsimp only at h
  split at h
  · simp at h
  · split at h
    · simp at h
    · split at h
      · simp at h
      · split at h
        · simp at h
        · rename_i hd hk hb hs
          refine ⟨by omega, by omega, ?_, by omega⟩
          simp only [Bool.or_eq_true, not_or, Bool.not_eq_true, Bool.not_eq_eq_eq_not, Bool.not_false] at hb
          simpa using hb.1

end

/-- Settles O33: each command is its checks followed by the one issue that all of them share; the checks name their faults. -/
theorem engineCommandIssue : Obligations.EngineCommandIssue := by
  refine ⟨fun s t T e sk dk sf df fa fb fc mode init clr k delta f slot grp fault => ?_, fun T mode fa fb fc k par f df => ?_⟩
  · intro par off fails issues
    refine ⟨fun h => issues_of_issueCmd (exec_copy h ..), fun h => ⟨fun hf => ?_, fun hf => issues_of_issueCmd ?_⟩,
      fun h => ⟨fun hf => ?_, fun hf => issues_of_issueCmd ?_⟩, fun h c hc => ⟨fun hg hf => ?_, fun hg => issues_of_issueCmd ?_⟩⟩
    · change exec _ _ = _
      rw [exec_cube h, hf]
      rfl
    · rw [exec_cube h, hf]
      rfl
    · change exec _ _ = _
      rw [exec_cdrain h, hf]
      rfl
    · rw [exec_cdrain h, hf]
      rfl
    · change exec _ _ = _
      rw [exec_coll h hc, if_pos hg, hf]
      rfl
    · rw [exec_coll h hc, if_neg (by omega)]
  · intro fs
    exact ⟨cubeFault_feeds, cubeFault_tile, cubeFault_none, fun h => if_pos h, fun hd hk => (if_neg (by omega)).trans (if_pos hk), drainFault_none⟩

end Sys2Proof.Laws.SteerObjects
end


section
/-! The steering instructions on tiles, feeds, barriers and latches (R90, R91, R391-R393, R416-R423). -/

namespace Sys2Proof.Laws.SteerTiles

open Sys2Proof Sys2Proof.Machine Sys2Proof.Laws.Rules Sys2Proof.Laws.PairsAndCounts Sys2Proof.Laws.SteerForms

variable {s : State} {t : Nat} {T : Team} {b : SSrc}

theorem exec_aclaim (d : SReg) (h : s.SteerReady t T (d.toNat :: ssrcRegs b)) :
    exec (.aclaim d b) s =
      if (ssrcVal b T.steer).toNat = 0 then
        .next (s.setTeam t { T with steer := { T.steer with st := .running }.setReg d.toNat (BitVec.ofNat 32 T.tiles.length) })
      else if 16 < T.tiles.length + (ssrcVal b T.steer).toNat then
        .next (s.setTeam t { T with steer := { T.steer with st := .running }.setReg d.toNat 0xFFFFFFFF })
      else if (s.aclaims (T.core?.getD 0)).isEmpty && decide ((ssrcVal b T.steer).toNat ≤ (s.freeTiles (T.core?.getD 0)).length) then
        .next (s.setTeam t { T with
          tiles := T.tiles ++ ((s.freeTiles (T.core?.getD 0)).take (ssrcVal b T.steer).toNat).map Tile.fresh,
          steer := { T.steer with st := .running }.setReg d.toNat (BitVec.ofNat 32 T.tiles.length) })
      else .next { s.steerWait t T (.aclaim s.claimCtr d.toNat (ssrcVal b T.steer).toNat T.steer.nextPos) with claimCtr := s.claimCtr + 1 } := by
  change execAclaim d b s = _
  rw [execAclaim, State.steerRun_ready h]
  rfl

theorem exec_arel (h : s.SteerReady t T (ssrcRegs b)) :
    exec (.arel b) s =
      if T.tiles.length < (ssrcVal b T.steer).toNat then .next (s.stopSteer t T { code := Code.regRange })
      else if T.eng.any (fun e => match e.2.cmd.tile? with
          | some k => decide (T.tiles.length - (ssrcVal b T.steer).toNat ≤ k) | none => false) then .next (s.steerWait t T .arel)
      else .next ((s.setTeam t { T with tiles := T.tiles.take (T.tiles.length - (ssrcVal b T.steer).toNat),
                                        steer := { T.steer with st := .running } }).grantAclaims (T.core?.getD 0) 16) := by
  change execArel b s = _
  rw [execArel, State.steerRun_ready h]
  rfl

theorem exec_bari (k : Obj) (rst : Bool) (h : s.SteerReady t T (ssrcRegs b)) :
    exec (.bari k rst b) s = .next ((s.setTeam t { (T.setBar k.toNat { T.bar k.toNat with
        count := (ssrcVal b T.steer).toNat % 65536, arr := if rst then 0 else (T.bar k.toNat).arr }).recount k.toNat with
      steer := { T.steer with st := .running } }).testBar t k.toNat) := by
  change execBari k rst b s = _
  rw [execBari, State.steerRun_ready h]
  rfl

/-- FINIT with the register of its layout (R391). -/
theorem exec_finit_layout (f : Obj) (pb : SReg) (h : s.SteerReady t T [pb.toNat]) :
    exec (.finit f (some pb)) s =
      if T.img.nfeed ≤ f.toNat ∨ T.layoutOk (T.steer.reg pb.toNat).toNat = false then .next (s.stopSteer t T { code := Code.feedRange })
      else if T.eng.any (fun e => e.2.cmd.feeds.contains f.toNat) then .next (s.steerWait t T .finit)
      else .next (s.setTeam t { T.setFeed f.toNat ⟨(T.steer.reg pb.toNat).toNat % 2 ^ 13, (T.steer.reg pb.toNat).toNat / 2 ^ 13 % 2 ^ 5, 0, 0, []⟩ with
        steer := { T.steer with st := .running } }) := by
  change execFinit f (some pb) s = _
  rw [execFinit, State.steerRun_ready (regs := (Option.map BitVec.toNat (some pb)).toList) h]
  simp only [Option.map_some, field, Nat.pow_zero, Nat.div_one, Bool.or_eq_true, decide_eq_true_eq, Bool.not_eq_true', State.setSteer]

theorem exec_finit_plain (f : Obj) (h : s.SteerReady t T []) (hf : f.toNat < T.img.nfeed) :
    exec (.finit f none) s =
      if T.eng.any (fun e => e.2.cmd.feeds.contains f.toNat) then .next (s.steerWait t T .finit)
      else .next (s.setTeam t { T.setFeed f.toNat { T.feed f.toNat with pcnt := 0, ccnt := 0, recs := [] } with
        steer := { T.steer with st := .running } }) := by
  change execFinit f none s = _
  rw [execFinit, State.steerRun_ready (regs := (Option.map BitVec.toNat (none : Option SReg)).toList) h]
  simp only [Option.map_none, Bool.or_false, decide_eq_true_eq, if_neg (Nat.not_le.mpr hf), State.setSteer]

theorem steerToken_eq (ht : s.team? t = some T) (k : Nat) (tok : Bool) (next : Pos) :
    s.steerToken t k tok next = s.setTeam t { T with steer :=
      if (T.bar k).ph = tok then { T.steer with st := .blocked (.sbarw k tok next), nextPos := T.steer.pos }
      else { T.steer with st := .running, left := laterOf T.steer.left (T.bar k).flip } } := by
  rw [State.steerToken, modTeam_eq ht]

theorem exec_sbarw (k : Obj) (arv : Bool) (c : Cond) (h : s.SteerReady t T []) :
    exec (.sbarw k arv c) s =
      if arv then .next ((s.arriveBar t k.toNat none).steerToken t k.toNat (T.bar k.toNat).ph T.steer.nextPos)
      else .next (s.steerToken t k.toNat (T.steer.cond c.toNat) T.steer.nextPos) := by
  change execSbarw k arv c s = _
  rw [execSbarw, State.steerRun_ready h]

theorem exec_bararmTile (pb : SReg) (k : Obj) (h : s.SteerReady t T [pb.toNat, pb.toNat + 1]) :
    exec (.bararmTile pb k) s =
      if T.armFull k.toNat then .next (s.steerWait t T .arming)
      else .next (s.addEng t { T with steer := { T.steer with st := .running } }
        (.tile ((encode (.bararmTile pb k)).headD 0) (T.steer.reg pb.toNat) (T.steer.reg (pb.toNat + 1))) (.armed k.toNat) none).1 := by
  change execBararmTile pb k s = _
  rw [execBararmTile, State.steerRun_ready h]

theorem exec_attime (pb : SReg) (dt : Bool) (h : s.SteerReady t T [pb.toNat, pb.toNat + 1]) :
    exec (.attime pb dt) s = .next (s.setTeam t { T with steer :=
      { T.steer with st := .running, armt := some (if dt then s.dtime + T.steer.pairAt pb.toNat else T.steer.pairAt pb.toNat) } }) := by
  change execAttime pb dt s = _
  rw [execAttime, State.steerEff_ready h]
  rfl

/-- Settles O34: each form by its equation, one case for each answer of its test. -/
theorem steerObjectResults : Obligations.SteerObjectResults := by
  intro d pb b f k rst dt c
  refine ⟨fun s t T h => ?_, fun s t T h => ?_, fun s t T h => ?_, fun s t T h hf hb => ?_, steerDoes_of_steerRun fun _ => rfl,
    steerDoes_of_steerRun fun _ => rfl, fun s t T h => ?_, steerSets_of_steerEff fun _ => rfl, fun s t T h => ?_⟩
  · refine ⟨fun h0 => ?_, fun h0 h16 => ?_, fun h0 h16 hfree hcl => ?_, fun h0 h16 hw => ?_⟩
    · rw [exec_aclaim d h, if_pos h0]
    · rw [exec_aclaim d h, if_neg h0, if_pos h16]
    · rw [exec_aclaim d h, if_neg h0, if_neg (by omega), if_pos (by simp [hcl, hfree])]
    · refine (exec_aclaim d h).trans ?_
      rw [if_neg h0, if_neg (by omega), if_neg]
      simp only [Bool.and_eq_true, List.isEmpty_iff, decide_eq_true_eq, not_and, Nat.not_le]
      exact fun hcl => hw.resolve_right (fun hn => hn hcl)
  · refine ⟨fun hn => ?_, fun hn hu => ?_, fun hn hu => ?_, exec_bari k rst h⟩
    · rw [exec_arel h, if_pos hn]
    · exact (exec_arel h).trans ((if_neg (by omega)).trans (if_pos hu))
    · exact (exec_arel h).trans ((if_neg (by omega)).trans (if_neg fun e => Bool.false_ne_true (hu.symm.trans e)))
  · refine ⟨fun hb => ?_, fun hf hl hu => ?_, fun hf hl hu => ?_⟩
    · rw [exec_finit_layout f pb h, if_pos hb]
    · rw [exec_finit_layout f pb h, if_neg (by simp [hl, hf]), if_pos hu]
    · rw [exec_finit_layout f pb h, if_neg (by simp [hl, hf]), if_neg (by simpa using hu)]
  · rw [exec_finit_plain f h hf, if_neg (by simpa using hb)]
  · refine ⟨fun hp => ?_, fun hp => ?_, ?_⟩
    · rw [exec_sbarw k false c h, if_neg (by simp), steerToken_eq h.team, if_neg (Ne.symm hp)]
    · rw [exec_sbarw k false c h, if_neg (by simp), steerToken_eq h.team, if_pos hp.symm, hp]
      rfl
    · rw [exec_sbarw k true c h, if_pos rfl]
  · refine ⟨fun hf => ?_, fun hf => ?_, exec_attime pb dt h⟩
    · rw [exec_bararmTile pb k h, if_pos hf]
    · rw [exec_bararmTile pb k h, if_neg (by simp [hf])]

end Sys2Proof.Laws.SteerTiles
end


section
/-! What reading through a context changes: the queues of the banks, the sets that a context holds and the translation buffers, nothing else. -/

namespace Sys2Proof.Laws.Reading

open Sys2Proof Sys2Proof.Machine Sys2Proof.Laws.Rules

/-- `s'` is `s` after line accesses and translations. -/
def OnlyReads (s s' : State) : Prop := ∃ b h t, s' = { s with banks := b, held := h, tlbs := t }

section
variable {s s1 s2 : State}

theorem OnlyReads.refl (s : State) : OnlyReads s s := ⟨_, _, _, rfl⟩

theorem OnlyReads.trans (h : OnlyReads s s1) (h' : OnlyReads s1 s2) : OnlyReads s s2 := by
  obtain ⟨b, x, t, rfl⟩ := h
  obtain ⟨b', x', t', rfl⟩ := h'
  exact ⟨b', x', t', rfl⟩

theorem OnlyReads.mem (h : OnlyReads s s1) : s1.mem = s.mem := by obtain ⟨_, _, _, rfl⟩ := h; rfl

theorem OnlyReads.team? (h : OnlyReads s s1) (t : Nat) : s1.team? t = s.team? t := by obtain ⟨_, _, _, rfl⟩ := h; rfl

theorem OnlyReads.teams (h : OnlyReads s s1) : s1.teams = s.teams := by obtain ⟨_, _, _, rfl⟩ := h; rfl

theorem OnlyReads.grids (h : OnlyReads s s1) : s1.grids = s.grids := by obtain ⟨_, _, _, rfl⟩ := h; rfl

theorem OnlyReads.ctl (h : OnlyReads s s1) : s1.ctl = s.ctl := by obtain ⟨_, _, _, rfl⟩ := h; rfl

theorem OnlyReads.mgmt (h : OnlyReads s s1) : s1.mgmt = s.mgmt := by obtain ⟨_, _, _, rfl⟩ := h; rfl

theorem OnlyReads.lineJobs (h : OnlyReads s s1) : s1.lineJobs = s.lineJobs := by obtain ⟨_, _, _, rfl⟩ := h; rfl

theorem OnlyReads.queues (h : OnlyReads s s1) : s1.queues = s.queues := by obtain ⟨_, _, _, rfl⟩ := h; rfl

theorem OnlyReads.ctxs (h : OnlyReads s s1) : s1.ctxs = s.ctxs := by obtain ⟨_, _, _, rfl⟩ := h; rfl

theorem OnlyReads.cfg (h : OnlyReads s s1) : s1.cfg = s.cfg := by obtain ⟨_, _, _, rfl⟩ := h; rfl

theorem OnlyReads.bytes (h : OnlyReads s s1) (a n : Nat) : s1.bytes a n = s.bytes a n := by obtain ⟨_, _, _, rfl⟩ := h; rfl

theorem onlyReads_touch (s : State) (c : Option CtxId) (pa : Nat) : OnlyReads s (s.touch c pa) := by
  unfold State.touch
  dsimp only
  split
  · exact .refl s
  · split
    · exact ⟨_, _, _, rfl⟩
    · split <;> exact ⟨_, _, _, rfl⟩

theorem onlyReads_touchAll (s : State) (c : Option CtxId) (pas : List Nat) : OnlyReads s (s.touchAll c pas) := by
  unfold State.touchAll
  induction pas generalizing s with
  | nil => exact .refl s
  | cons a r ih => exact (onlyReads_touch s c a).trans (ih _)

theorem onlyReads_tlbFill (s : State) (k : Nat) (c : CtxId) (va : Nat) (e : Pte) : OnlyReads s (s.tlbFill k c va e) := ⟨_, _, _, rfl⟩

theorem onlyReads_translate (s : State) (c : CtxId) (cl : Option Nat) (va : Nat) : OnlyReads s (s.translate c cl va).1 := by
  unfold State.translate
  split
  · exact .refl s
  · split
    · exact .refl s
    · dsimp only
      split
      · exact onlyReads_touchAll ..
      · exact onlyReads_touchAll ..
      · split
        · split
          · exact (onlyReads_touchAll ..).trans (onlyReads_tlbFill ..)
          · exact onlyReads_touchAll ..
        · exact onlyReads_touchAll ..

theorem onlyReads_judgeLoad (s : State) (c : CtxId) (cl : Option Nat) (p : Bool) (va : Nat) : OnlyReads s (s.judgeLoad c cl p va).1 := by
  unfold State.judgeLoad
  dsimp only
  split
  · exact onlyReads_translate ..
  · exact onlyReads_translate ..
  · split
    · exact onlyReads_translate ..
    · split
      · exact onlyReads_translate ..
      · dsimp only
        exact (onlyReads_translate s c cl va).trans (onlyReads_touch ..)

theorem onlyReads_readCtx (s : State) (c : CtxId) (cl : Option Nat) (fuel va n b : Nat) : OnlyReads s (s.readCtx c cl fuel va n b).1 := by
  induction fuel generalizing s va n with
  | zero => exact .refl s
  | succ fuel ih =>
    rw [State.readCtx]
    split
    · exact .refl s
    · dsimp only
      split
      · exact onlyReads_judgeLoad ..
      · exact onlyReads_judgeLoad ..
      · split
        · exact (onlyReads_judgeLoad ..).trans (ih ..)
        · exact (onlyReads_judgeLoad ..).trans (ih ..)

theorem onlyReads_readGlobal (s : State) (c : CtxId) (va n : Nat) : OnlyReads s (s.readGlobal c va n).1 := by
  unfold State.readGlobal
  split
  · exact .refl s
  · rename_i x _
    split
    · exact .refl s
    · have hr := onlyReads_readCtx s c none (linesFor n) va n 0
      split <;> rename_i h <;> rw [h] at hr <;> exact hr

theorem onlyReads_waitMet (s : State) (c : CtxId) (w : DWord × DWord) : OnlyReads s (s.waitMet c w).1 := by
  have hr := onlyReads_readGlobal s c w.1.toNat 8
  unfold State.waitMet
  split <;> rename_i h <;> rw [h] at hr <;> exact hr

theorem onlyReads_waitsMet (s : State) (c : CtxId) (ws : List (DWord × DWord)) (ms : List Bool) : OnlyReads s (s.waitsMet c ws ms).1 := by
  induction ws generalizing s ms with
  | nil => exact .refl s
  | cons w ws ih =>
    rw [State.waitsMet]
    refine OnlyReads.trans ?_ (ih _ _)
    split
    · exact .refl s
    · exact onlyReads_waitMet ..

end

/-! ## Grids -/

section
variable {s : State} {k : Nat} {g : Grid}

theorem find?_modGrid (s : State) (k : Nat) (f : Grid → Grid) : Map.find? (s.modGrid k f).grids k = (Map.find? s.grids k).map f := find?_modify_self ..

theorem testEligible_find (h : Map.find? s.grids k = some g) : ∃ e, Map.find? (s.testEligible k).grids k = some { g with eligible := e } := by
  simp only [State.testEligible, h]
  split
  · exact ⟨true, by rw [find?_modGrid, h]; rfl⟩
  · exact ⟨g.eligible, h⟩

/-- What reading a grid's counters again leaves of it: all but what is met, when it was read and whether it is eligible. -/
theorem rereadGrid_find (h : Map.find? s.grids k = some g) :
    ∃ m r e, Map.find? (s.rereadGrid k).grids k = some { g with met := m, reread := r, eligible := e } := by
  simp only [State.rereadGrid, h]
  split
  · exact ⟨_, _, _, h⟩
  · have hw := (onlyReads_waitsMet s g.ctx g.desc.waits g.met).grids
    have hm : Map.find? ((s.waitsMet g.ctx g.desc.waits g.met).1.modGrid k fun x =>
        { x with met := (s.waitsMet g.ctx g.desc.waits g.met).2, reread := s.clock }).grids k =
          some { g with met := (s.waitsMet g.ctx g.desc.waits g.met).2, reread := s.clock } := by
      rw [find?_modGrid, hw, h]
      rfl
    obtain ⟨e, he⟩ := testEligible_find hm
    exact ⟨_, _, e, he⟩

end

end Sys2Proof.Laws.Reading
end


section
/-! The services of the steering stream (R82, R96, R145, R318-R322, R410). -/

namespace Sys2Proof.Laws.SteerServices

open Sys2Proof Sys2Proof.Machine Sys2Proof.Laws.Rules Sys2Proof.Laws.PairsAndCounts Sys2Proof.Laws.SteerForms Sys2Proof.Laws.Reading

theorem put_put {α : Type} (m : Map α) (k : Nat) (v w : α) : Map.put (Map.put m k v) k w = Map.put m k w := by
  induction m with
  | nil => simp [Map.put]
  | cons e r ih =>
    by_cases h : k < e.1
    · simp [Map.put, h]
    · by_cases h' : e.1 = k
      · simp [Map.put, h']
      · simp [Map.put, h, h', ih]

theorem setTeam_setTeam (s : State) (t : Nat) (T U : Team) : (s.setTeam t T).setTeam t U = s.setTeam t U := by
  simp only [State.setTeam, put_put]

/-- Changing a team that has just been replaced. -/
theorem modTeam_setTeam (s : State) (t : Nat) (T : Team) (f : Team → Team) : (s.setTeam t T).modTeam t f = s.setTeam t (f T) := by
  rw [modTeam_eq (State.team?_setTeam s t T), setTeam_setTeam]

variable {s s1 : State} {t : Nat} {T : Team} {d a : SReg} {b : SSrc}

/-! ## LAUNCH (R82) -/

section
variable (h : s.SteerReady t T [d.toNat, d.toNat + 1, a.toNat, a.toNat + 1])
include h

theorem exec_launch_path (hp : s.pathStatus T ≠ 0) :
    exec (.launch d a) s = .next (s.lateSteer t { T with steer := { T.steer with armt := none } } [d.toNat, d.toNat + 1]
      [(d.toNat, BitVec.ofNat 32 (s.pathStatus T)), (d.toNat + 1, 0xFFFFFFFF)] .due) := by
  change execLaunch d a s = _
  rw [execLaunch, State.steerRun_ready h]
  exact if_pos hp

theorem exec_launch_refused {raw : List Byte} {st : Nat} (hp : s.pathStatus T = 0)
    (hj : s.judgeLaunch T.ctx (T.steer.pairAt a.toNat).toNat = (s1, raw, .refused st)) :
    exec (.launch d a) s = .next (s1.lateSteer t { T with steer := { T.steer with armt := none } } [d.toNat, d.toNat + 1]
      [(d.toNat, BitVec.ofNat 32 (256 * st)), (d.toNat + 1, 0xFFFFFFFF)] .due) := by
  change execLaunch d a s = _
  rw [execLaunch, State.steerRun_ready h]
  simp only [hp, ne_eq, not_true_eq_false, if_false, hj, Nat.zero_add]

/-- Where an accepted launch comes from. -/
def launchSource (s : State) (t : Nat) (T : Team) : Source :=
  { pcap := match Map.find? s.grids T.grid with | some g => g.pcap | none => 15, depth := T.depth + 1, d0 := (T.core?.getD 0) / 64, host := false,
    who := T.core?.getD 0, parent := some (t, T.grid), queue := none, serialOn := none, tfire := T.steer.armt, notify := none }

theorem exec_launch_ok {raw : List Byte} {ds : Desc} {i : Image} (hp : s.pathStatus T = 0)
    (hj : s.judgeLaunch T.ctx (T.steer.pairAt a.toNat).toNat = (s1, raw, .ok ds i)) :
    exec (.launch d a) s =
      .next (((s1.acceptGrid T.ctx raw ds i (launchSource s t T)).1.rereadGrid s1.gridCtr).lateSteer t
        { T with steer := { T.steer with armt := none }, children := T.children ++ [s1.gridCtr] } [d.toNat, d.toNat + 1]
        [(d.toNat, 0), (d.toNat + 1, s1.gridNumber T.ctx ds.gang)] .due) := by
  change execLaunch d a s = _
  rw [execLaunch, State.steerRun_ready h]
  simp only [hp, ne_eq, not_true_eq_false, if_false, hj, State.acceptGrid, Map.find?_put_self]
  rfl

end

/-- The grid that a launch has made, after the first reading of its counters. -/
theorem launched_grid (s1 : State) (ctx : CtxId) (raw : List Byte) (ds : Desc) (i : Image) (src : Source) :
    ∃ g, Map.find? ((s1.acceptGrid ctx raw ds i src).1.rereadGrid s1.gridCtr).grids s1.gridCtr = some g ∧ g.ctx = ctx ∧ g.depth = src.depth ∧
      g.parentTeam = src.parent.map Prod.fst ∧ g.tfire = src.tfire ∧ g.no = s1.gridNumber ctx ds.gang := by
  obtain ⟨m, r, e, hg⟩ := rereadGrid_find (s := (s1.acceptGrid ctx raw ds i src).1) (k := s1.gridCtr) (Map.find?_put_self ..)
  exact ⟨_, hg, rfl, rfl, rfl, rfl, rfl⟩

/-! ## WAITCH, BWP, GDETACH and RRINV -/

theorem exec_waitch (one : Option SReg) (h : s.SteerReady t T (one.map BitVec.toNat).toList) :
    exec (.waitch one) s =
      if s.childLive T (one.map fun r => T.steer.reg r.toNat) then .next (s.setTeam t
        { T with steer := { T.steer with st := .blocked (.waitch (one.map fun r => T.steer.reg r.toNat)), nextPos := T.steer.pos },
                 waitchSince := T.waitchSince.or (some s.clock) })
      else .next (s.setTeam t { T with steer := { T.steer with st := .running }, waitchSince := none }) := by
  change execWaitch one s = _
  rw [execWaitch, State.steerRun_ready h]
  simp only [State.steerWait, State.setSteer, modTeam_setTeam]

theorem exec_bwp (h : s.SteerReady t T (ssrcRegs b)) :
    exec (.bwp b) s = .next ((s.setTeam t { T with steer := { T.steer with st := .running } }).writePhase T.ctx
      (field (ssrcVal b T.steer).toNat 0 2) (field (ssrcVal b T.steer).toNat 16 16)) := by
  change execBwp b s = _
  rw [execBwp, State.steerRun_ready h]
  rfl

theorem exec_gdetach_alone (h : s.SteerReady t T []) (hg : T.gang = none) :
    exec .gdetach s = .next (s.setTeam t { T with steer := { T.steer with st := .running } }) := by
  change execGdetach s = _
  rw [execGdetach, State.steerRun_ready h]
  simp only [hg, State.setSteer]

theorem exec_gdetach {g : GangMem} (h : s.SteerReady t T []) (hg : T.gang = some g) :
    exec .gdetach s =
      if g.state ≠ .attached then .next (s.setTeam t { T with steer := { T.steer with st := .running } })
      else if s.windowsOpen t then .next (s.steerWait t T .gdetach)
      else .next (((s.setTeam t { T with steer := { T.steer with st := .running }, gang := some { g with state := .detached } }).modGrid T.grid
        fun G => { G with members := Map.put G.members g.rank 1 }).toGang T.grid (.gangDetach T.gridNo g.rank false)) := by
  change execGdetach s = _
  rw [execGdetach, State.steerRun_ready h]
  simp only [hg, State.setSteer]

theorem exec_rrinv_all (h : s.SteerReady t T []) :
    exec (.rrinv none) s = .next ((s.setTeam t { T with steer := { T.steer with st := .running } }).rrcDrop fun l => l.ctx == T.ctx) := by
  change execRrinv none s = _
  rw [execRrinv, State.steerRun_ready (regs := ((none : Option HSrc).map hsrcRegs).getD []) h]
  rfl

theorem exec_rrinv_entry {x : HSrc} {e : Nat} (h : s.SteerReady t T (hsrcRegs x))
    (hw : s.winEntry T.ctx T.cluster (hsrcVal x T.steer).toNat = (s1, .inl e)) :
    exec (.rrinv (some x)) s =
      if field e 0 2 ≠ 1 ∨ winReservedOk e = false then
        .next (s1.stopSteer t T { code := Code.windowHandle, handle := hsrcVal x T.steer })
      else .next ((s1.setTeam t { T with steer := { T.steer with st := .running } }).rrcDrop fun l =>
        l.ctx == T.ctx && l.handle == hsrcVal x T.steer) := by
  change execRrinv (some x) s = _
  rw [execRrinv, State.steerRun_ready (regs := ((some x).map hsrcRegs).getD []) h]
  simp only [hw, State.setSteer, Bool.not_eq_true']

theorem exec_rrinv_fault {x : HSrc} {f : BitVec 8 × BitVec 4} (h : s.SteerReady t T (hsrcRegs x))
    (hw : s.winEntry T.ctx T.cluster (hsrcVal x T.steer).toNat = (s1, .inr f)) :
    exec (.rrinv (some x)) s = .next (s1.stopSteer t T { code := Code.windowHandle, handle := hsrcVal x T.steer }) := by
  change execRrinv (some x) s = _
  rw [execRrinv, State.steerRun_ready (regs := ((some x).map hsrcRegs).getD []) h]
  simp only [hw]

theorem find?_map {α : Type} (m : Map α) (f : Nat × α → Nat × α) (hf : ∀ x, (f x).1 = x.1) (k : Nat) :
    Map.find? (m.map f) k = (Map.find? m k).map fun v => (f (k, v)).2 := by
  induction m with
  | nil => rfl
  | cons e r ih =>
    rw [List.map_cons, Map.find?, Map.find?, hf, ih]
    split
    · rename_i h
      subst h
      rfl
    · rfl

/-- A line of a handle that is being fetched when its cached lines are dropped is marked stale (R350). -/
theorem rrcDrop_tx {bad : RrcLine → Bool} {id w : Nat} {x : Tx} (hx : Map.find? s.txs id = some x) (hf : x.fill = some w)
    (ht : s.team? x.team = some T) (hb : bad ⟨T.ctx, x.handle, w, x.lo / 2048 * 2048, []⟩ = true) :
    Map.find? (s.rrcDrop bad).txs id = some { x with stale := true } := by
  refine (find?_map s.txs _ (fun e => ?_) id).trans ?_
  · dsimp only
    split
    · split <;> rfl
    · rfl
  · rw [hx]
    simp only [Option.map_some, hf, ht, hb, if_true]

/-! ## WPROBE and RWGRANT -/

theorem exec_wprobe_bad {x : HSrc} {f : Trap} (h : s.SteerReady t T (d.toNat :: hsrcRegs x))
    (hw : s.winCheck T ⟨hsrcVal x T.steer, 0, 1, 0, [1, 2], 1⟩ = (s1, .bad f)) :
    exec (.wprobe d x) s = .next (s1.lateSteer t T [d.toNat] [(d.toNat, f.code.zeroExtend 32)] .due) := by
  change execWprobe d x s = _
  rw [execWprobe, State.steerRun_ready h]
  simp only [hw]

theorem exec_wprobe_one {x : HSrc} {aid : Aid} {dest : TxDest} {cls wver : Nat} {rrc : Bool} (h : s.SteerReady t T (d.toNat :: hsrcRegs x))
    (hw : s.winCheck T ⟨hsrcVal x T.steer, 0, 1, 0, [1, 2], 1⟩ = (s1, .ok (.one aid dest cls rrc wver))) :
    exec (.wprobe d x) s = .next ((s1.newTx (mkTx s1 t (.probe T.lateCtr d.toNat) (hsrcVal x T.steer) aid dest .probe 0 1 cls false false none
      T.steer.pos)).lateSteer t T [d.toNat] [] .waiting) := by
  change execWprobe d x s = _
  rw [execWprobe, State.steerRun_ready h]
  simp only [hw]

/-- A message that is not cut goes out whole, and stands under the next number. -/
theorem newTx_find {x : Tx} (hc : x.cut s.cfg.aid = []) (hs : x.isSplit s.cfg.aid = false) :
    Map.find? (s.newTx x).txs s.txCtr = some { x with split := false } := by
  have hsg : x.single s.cfg.aid = { x with split := false } := by simp only [Tx.single, hc]
  simp only [State.newTx, State.launchTx, hs, Bool.false_eq_true, if_false, hsg, State.putTx]
  split
  · split
    · split
      · exact Map.find?_put_self ..
      · exact Map.find?_put_self ..
    · exact Map.find?_put_self ..
  · split
    · exact Map.find?_put_self ..
    · exact Map.find?_put_self ..

theorem newTx_boxes {x : Tx} (hc : x.cut s.cfg.aid = []) (hs : x.isSplit s.cfg.aid = false) : (s.newTx x).boxes = s.boxes := by
  simp only [State.newTx, State.launchTx, hs, Bool.false_eq_true, if_false, State.putTx]
  split
  · split
    · split <;> rfl
    · rfl
  · split <;> rfl

section
variable {f : Obj}

theorem exec_rwgrant_feed (hc : s.cur = some (.steer t)) (ht : s.team? t = some T) (hf : T.img.nfeed ≤ f.toNat) :
    exec (.rwgrant d a b f) s = .next (s.stopSteer t T { code := Code.feedRange }) := by
  change execRwgrant d a b f s = _
  simp only [execRwgrant, State.steer, hc, ht, if_pos hf]

variable (h : s.SteerReady t T ([d.toNat, a.toNat] ++ ssrcRegs b)) (hf : f.toNat < T.img.nfeed)
include h hf

theorem exec_rwgrant_over (hn : 1024 < (ssrcVal b T.steer).toNat) :
    exec (.rwgrant d a b f) s = .next (s.stopSteer t T { code := Code.slotGrant }) := by
  change execRwgrant d a b f s = _
  rw [execRwgrant, State.steer_ready h, if_neg (by omega), State.steerRun_ready h]
  refine if_pos ?_
  rw [Bool.or_eq_true]
  exact .inr (decide_eq_true (.inl hn))

variable (hs : s.grantSum t f.toNat + (ssrcVal b T.steer).toNat ≤ (T.feed f.toNat).size / 64)
  (hb : Map.find? s.boxes (boxKey T.ctx (field (T.steer.reg a.toNat).toNat 16 8)) = none)
include hs hb

/-- RWGRANT of no slots makes its box. -/
theorem exec_rwgrant_none (hn : (ssrcVal b T.steer).toNat = 0) :
    exec (.rwgrant d a b f) s = .next
      ({ s with boxes := Map.put s.boxes (boxKey T.ctx (field (T.steer.reg a.toNat).toNat 16 8)) ⟨t, f.toNat, []⟩ }.lateSteer t T [d.toNat]
        [(d.toNat, 0)] .due) := by
  change execRwgrant d a b f s = _
  rw [execRwgrant, State.steer_ready h, if_neg (by omega), State.steerRun_ready h]
  simp only [hb, Bool.false_or]
  refine (if_neg ?_).trans (if_pos hn)
  rw [decide_eq_true_eq, ← Feed.size]
  omega

/-- RWGRANT of slots to another K9 makes its box, counts them and sends the grant. -/
theorem exec_rwgrant_other (h0 : (ssrcVal b T.steer).toNat ≠ 0) (hn : (ssrcVal b T.steer).toNat ≤ 1024)
    (haid : BitVec.ofNat 10 (field (T.steer.reg a.toNat).toNat 0 10) ≠ s.cfg.aid) :
    let sender := field (T.steer.reg a.toNat).toNat 0 10
    let box := field (T.steer.reg a.toNat).toNat 16 8
    let n := (ssrcVal b T.steer).toNat
    let s0 : State := { s with boxes := Map.put s.boxes (boxKey T.ctx box) ⟨t, f.toNat, []⟩ }
    let s1 := s0.modGrant (boxKey T.ctx box) sender (· + n)
    exec (.rwgrant d a b f) s = .next ((s1.newTx (mkTx s1 t (.grant T.lateCtr d.toNat box sender n) 0 (BitVec.ofNat 10 sender)
      (.box T.ctx 0 box (64 * box)) (.grant n) 0 0 1 false false none T.steer.pos)).lateSteer t T [d.toNat] [] .waiting) := by
  intro sender box n s0 s1
  change execRwgrant d a b f s = _
  rw [execRwgrant, State.steer_ready h, if_neg (by omega), State.steerRun_ready h]
  simp only [hb, Bool.false_or]
  refine (if_neg ?_).trans ((if_neg h0).trans (if_neg haid))
  rw [decide_eq_true_eq, ← Feed.size]
  omega

end

/-- A new box that has been given slots counts them for their sender. -/
theorem modGrant_new {key sender n : Nat} {f : Nat} (s : State) :
    Map.find? ({ s with boxes := Map.put s.boxes key ⟨t, f, []⟩ }.modGrant key sender (· + n)).boxes key =
      some ⟨t, f, Map.set 0 [] sender n⟩ := by
  refine (find?_modify_self ..).trans ?_
  rw [Map.find?_put_self]
  simp [Map.get]

/-- Settles O35: each service by its equation; the grid that a LAUNCH accepts is found in the device's list. -/
theorem steerServices : Obligations.SteerServices := by
  intro s s1 t T d a b f h one run
  refine ⟨fun hr => ?_, fun hr => ?_, exec_bwp, fun hr => ?_, fun hr => ?_, fun bad => ?_, fun hr => ?_, fun hr => ?_⟩
  · refine ⟨exec_launch_path hr, fun hp raw st hj => exec_launch_refused hr hp hj, fun hp raw ds i hj => ?_⟩
    obtain ⟨g, hg, hctx, hdepth, hparent, hfire, hno⟩ := launched_grid s1 T.ctx raw ds i (launchSource s t T)
    refine ⟨_, exec_launch_ok hr hp hj, _, State.team?_setTeam .., rfl, rfl, g, hg, hctx, hdepth, hparent, hfire, _,
      List.mem_append_right _ (List.mem_singleton_self _), ?_⟩
    rw [hno]
  · refine ⟨fun hl => ?_, fun hl => ?_⟩
    · rw [exec_waitch one hr, if_neg (by simpa using hl)]
    · rw [exec_waitch one hr, if_pos hl]
  · refine ⟨exec_gdetach_alone hr, fun g hg hs => ?_, fun g hg hs => ⟨fun hw => ?_, fun hw => ?_⟩, exec_rrinv_all hr⟩
    · rw [exec_gdetach hr hg, if_pos hs]
    · rw [exec_gdetach hr hg, if_neg (by simpa using hs), if_pos hw]
    · rw [exec_gdetach hr hg, if_neg (by simpa using hs), if_neg (by simpa using hw)]
  · refine ⟨fun e hw => ⟨fun hk hv => ?_, fun hk => ?_⟩, fun x hw => exec_rrinv_fault hr hw⟩
    · rw [exec_rrinv_entry hr hw, if_neg (by simp [hk, hv])]
    · rw [exec_rrinv_entry hr hw, if_pos hk]
  · exact ⟨rfl, fun _ => rfl, rfl, fun id x w hx hf hxt ht hb => ⟨_, rrcDrop_tx hx hf (hxt ▸ ht) hb, rfl⟩⟩
  · exact ⟨fun x hw => exec_wprobe_bad hr hw, fun aid dest cls rrc wver hw => exec_wprobe_one hr hw⟩
  · refine ⟨exec_rwgrant_feed hr.cur hr.team, fun hf hn => exec_rwgrant_over hr hf hn,
      fun hf hn hs hb => exec_rwgrant_none hr hf (by omega) hb hn, fun hf h0 hn hs haid hb => ⟨_, exec_rwgrant_other hr hf hs hb (by omega) hn haid, ?_, ?_⟩⟩
    · exact ⟨_, newTx_find rfl rfl, rfl, rfl, rfl, rfl⟩
    · refine ⟨_, (congrArg (Map.find? · _) (newTx_boxes rfl rfl)).trans (modGrant_new s), rfl, rfl, Map.get_set_self ..⟩

end Sys2Proof.Laws.SteerServices
end


section
/-! The step: what each turn runs (R4, R32, R34, R168-R174, R192-R194, R204, R205, R212, R316). -/

namespace Sys2Proof.Laws.Steps

open Sys2Proof Sys2Proof.Machine Sys2Proof.Laws.Rules

section
variable {s s1 s2 : State} {r : List Turn} {i : Instr}

theorem step_plan (h : s.agenda = []) : step s = .next { s with agenda := s.plan ++ [.elapse Config.ticksPerAclk] } := by
  simp only [step, h]

theorem step_turn {x : Turn} (h : s.agenda = x :: r) : step s = State.turn { s with agenda := r } x := by simp only [step, h]

theorem step_event (h : s.agenda = .event i :: r) :
    step s = if isEvent i then exec i (State.before { s with agenda := r } i) else .next { s with agenda := r } := step_turn h

theorem step_behind_event {a b : Nat} (h : s.agenda = .behind a b i :: r) (hi : isEvent i = true)
    (he : exec i { State.before { s with agenda := r } i with view := (a, b) } = .next s2) : step s = .next { s2 with view := (0, 0) } := by
  rw [step_turn h]
  simp only [State.turn, hi, if_true, he]

theorem step_behind_other {a b : Nat} (h : s.agenda = .behind a b i :: r) (hi : isEvent i = false) : step s = .next { s with agenda := r } := by
  rw [step_turn h]
  simp only [State.turn, hi, Bool.false_eq_true, if_false]

theorem isEvent_of_stream (hs : i.stream = .event) (hf : isFault i = false) (hj : ∀ u j, i ≠ .joinTimeout u j) : isEvent i = true := by
  unfold isEvent
  rw [hs, hf]
  split
  · exact absurd rfl (hj _ _)
  · rfl

/-! ## Stores that are held -/

theorem performWhere_of_none (h : s.pending = []) (mine : Pending → Bool) : s.performWhere mine = s := by
  simp only [State.performWhere, h, List.filter_nil, List.foldl_nil]
  rw [← h]

theorem before_of_none (h : s.pending = []) (i : Instr) : s.before i = s := by
  simp only [State.before, State.performAll, performWhere_of_none h]
  split <;> rfl

theorem settle_of_none (h : s.pending = []) (t tid : Nat) (th : Thread) (i : Instr) : s.settle t tid th i = s := by
  unfold State.settle
  split
  · rfl
  · exact performWhere_of_none h _

/-! ## Clauses and their words -/

theorem fetchClause_words {T : Team} {st : Stream} {h : Nat} {hd : Word} {ws : List Word} {l : List Slot} {s3 : State} (hc : T.img.inCode h = true)
    (hw : s.codeWord T (T.img.kimg + 4 * h) = (s2, .inl hd)) (ho : headOk st hd = true) (hp : flag hd.toNat 4 = false)
    (hl : h + 1 + headLen hd ≤ T.img.codeoff / 4 + T.img.codelen)
    (hb : s2.codeWords T (T.img.kimg + 4 * (h + 1)) (headLen hd) = (s3, .inl ws)) (hs : wordSlots st ws = some l) :
    s.fetchClause T st h = (s3, .inl (clauseOf h hd l)) := by
  have hbw : bodyWords hd = headLen hd := by rw [bodyWords, hp]; rfl
  have hlt : ¬T.img.codeoff / 4 + T.img.codelen < h + 1 + headLen hd := by omega
  simp only [State.fetchClause, hc, hw, ho, hbw, hb, hp, hs, hlt, Bool.not_true, Bool.false_eq_true, if_false, or_self]

section
variable {T : Team} {va pa : Nat} {f : Bool} (h : s.judgeLoad T.ctx T.cluster false (va % 2 ^ 56) = (s1, .ok pa f))
include h

theorem codeWord_ok : s.codeWord T va = ((s1.readCode T.grid pa).1, .inl (s1.readCode T.grid pa).2) := by
  simp only [State.codeWord, h]

end

theorem readCode_now {grid pa : Nat} (h : ∀ o ∈ s.oldCode, o.grid = grid → o.word ≠ pa / 4) :
    s.readCode grid pa = (s, BitVec.ofNat 32 (leNat (s.bytes pa 4))) := by
  have hn : s.oldCode.filter (fun o => o.grid == grid && o.word == pa / 4) = [] := by
    rw [List.filter_eq_nil_iff]
    intro o ho
    simpa using h o ho
  simp only [State.readCode, hn, List.map_nil]
  rfl

theorem getD_cons_mod {α : Type} (x : α) (l : List α) (n : Nat) :
    (x :: l).getD (n % (l.length + 1)) x = x ∨ (x :: l).getD (n % (l.length + 1)) x ∈ l := by
  have hlt : n % (l.length + 1) < (x :: l).length := Nat.mod_lt _ (by simp)
  rw [List.getD_eq_getElem _ _ hlt]
  exact List.mem_cons.mp (List.getElem_mem hlt)

/-- A word of code is read as it stands, or as one of its old values (log entry 16). -/
theorem readCode_choice (s : State) (grid pa : Nat) :
    (s.readCode grid pa).1.mem = s.mem ∧
      ((s.readCode grid pa).2 = BitVec.ofNat 32 (leNat (s.bytes pa 4)) ∨ (⟨grid, pa / 4, (s.readCode grid pa).2⟩ : OldWord) ∈ s.oldCode) := by
  unfold State.readCode
  dsimp only
  generalize hl : (s.oldCode.filter fun o => o.grid == grid && o.word == pa / 4).map OldWord.val = l
  cases l with
  | nil => exact ⟨rfl, .inl rfl⟩
  | cons y l =>
    refine ⟨rfl, (getD_cons_mod (BitVec.ofNat 32 (s.val pa 4)) (y :: l) (Config.codeChoice s.freeCtr)).imp id fun hm => ?_⟩
    dsimp only
    generalize (BitVec.ofNat 32 (s.val pa 4) :: y :: l).getD (Config.codeChoice s.freeCtr % ((y :: l).length + 1)) (BitVec.ofNat 32 (s.val pa 4)) = v at hm ⊢
    rw [← hl, List.mem_map] at hm
    obtain ⟨o, ho, hv⟩ := hm
    rw [List.mem_filter, Bool.and_eq_true, beq_iff_eq, beq_iff_eq] at ho
    obtain ⟨ho, hg, hw⟩ := ho
    rw [← hv, ← hg, ← hw]
    exact ho

theorem mem_foldl_new {α : Type} [BEq α] [LawfulBEq α] (xs l : List α) (o : α) :
    o ∈ xs.foldl (fun l o => if l.contains o then l else l ++ [o]) l ↔ o ∈ l ∨ o ∈ xs := by
  induction xs generalizing l with
  | nil => simp
  | cons x xs ih =>
    rw [List.foldl_cons, ih]
    by_cases h : l.contains x
    · rw [if_pos h, List.mem_cons]
      constructor
      · rintro (h' | h')
        · exact .inl h'
        · exact .inr (.inr h')
      · rintro (h' | rfl | h')
        · exact .inl h'
        · exact .inl (List.contains_iff_mem.mp h)
        · exact .inr h'
    · rw [if_neg h, List.mem_append, List.mem_singleton, List.mem_cons, or_assoc]

theorem codeAmong_subset {c : CtxId} {x : Nat × Nat} {ws : List Nat} {w : Nat} (h : w ∈ s.codeAmong c x ws) : w ∈ ws := by
  unfold State.codeAmong at h
  obtain ⟨p, _, hp⟩ := List.mem_flatMap.mp h
  split at hp
  · simp at hp
  · exact List.mem_of_mem_filter hp

/-- What a store keeps as an old word: a word that it touches, of the code of a resident team. -/
theorem overwritten_spec {a n : Nat} {o : OldWord} (h : o ∈ s.overwritten a n) :
    a / 4 ≤ o.word ∧ o.word < (a + n + 3) / 4 ∧ o.val = BitVec.ofNat 32 (leNat (s.bytes (4 * o.word) 4)) ∧
      ∃ e ∈ s.teams, e.2.grid = o.grid ∧ ∃ c k, e.2.place = .resident c k := by
  unfold State.overwritten at h
  obtain ⟨e, he, ho⟩ := List.mem_flatMap.mp h
  split at ho
  · simp at ho
  · rename_i c k hp
    obtain ⟨w, hw, rfl⟩ := List.mem_map.mp ho
    obtain ⟨x, _, hx⟩ := List.mem_flatMap.mp hw
    have hm := mem_span.mp (codeAmong_subset hx)
    exact ⟨hm.1, by dsimp only; omega, rfl, e, he, rfl, c, k, hp⟩

/-! ## The turn of a wave -/

theorem insertBy_perm {α : Type} (key : α → Nat) (x : α) (l : List α) : (insertBy key x l).Perm (x :: l) := by
  induction l with
  | nil => exact .refl _
  | cons y l ih =>
    rw [insertBy]
    split
    · exact .refl _
    · exact (ih.cons y).trans (.swap x y l)

theorem sortBy_perm {α : Type} (key : α → Nat) (l : List α) : (sortBy key l).Perm l := by
  induction l with
  | nil => exact .refl _
  | cons x l ih => exact (insertBy_perm key x _).trans (ih.cons x)

theorem waveOrder_perm (s : State) (i : Instr) (tids : List Nat) : (s.waveOrder i tids).Perm tids := by
  unfold State.waveOrder
  split
  · exact (sortBy_perm ..).trans (sortBy_perm ..)
  · exact sortBy_perm ..

section
variable {c p k : Nat} {hold : Bool} {w : Wave} {T : Team}

theorem turn_wave (h : s.agenda = (if hold then .hold c p k else .issue c p k) :: r) : step s = State.issueWave { s with agenda := r } c p k hold := by
  rw [step_turn h]
  cases hold <;> rfl

variable (hw : Map.find? (s.part c p).waves k = some w) (hT : s.team? w.team = some T) (ha : w.active = true)
include hw hT ha

theorem issueWave_not (hm : s.mayIssue T = false) : s.issueWave c p k hold = .next s := by
  simp only [State.issueWave, hw, hT, ha, hm, Bool.not_true, Bool.not_false, Bool.or_true, if_true]

/-- The issue of a wave whose clause has been read and whose word decodes. -/
theorem issueWave_word {cl : Clause} {x : Word} {e : Option Word} (hm : s.mayIssue T = true) (hc : s.waveClause T w = (s1, .inl cl))
    (hx : cl.slots[w.pos.k]? = some (.word x e)) (hd : decode .lane x e = .ok i) :
    s.issueWave c p k hold =
      if !w.tids.all (s1.threadReady w.team T cl w.pos.k i) then .next s
      else match ({ s1.orderUsed i with holding := hold }).issueAll w.team cl w.pos.k (guardBit .lane x) i (s1.waveOrder i w.tids) with
        | .next s2 => .next (({ s2 with holding := false } : State).regroup c p k w cl i
            (if T.performing w cl (guardBit .lane x) = [] then w.latch
             else latchAfter w.latch i ((T.performing w cl (guardBit .lane x)).filterMap fun y => y.reached i)))
        | r => r := by
  have hi : (Slot.word x e).instr .lane = i := by simp only [Slot.instr, hd]
  have hg : (Slot.word x e).guarded .lane = guardBit .lane x := rfl
  simp only [State.issueWave, hw, hT, ha, hm, hc, hx, hi, hg, Bool.not_true, Bool.or_self, Bool.false_eq_true, if_false, List.isEmpty_iff] <;> rfl

theorem issueWave_issued {cl : Clause} {x : Word} {e : Option Word} (hm : s.mayIssue T = true) (hc : s.waveClause T w = (s1, .inl cl))
    (hx : cl.slots[w.pos.k]? = some (.word x e)) (hd : decode .lane x e = .ok i)
    (hr : ∀ y ∈ w.tids, s1.threadReady w.team T cl w.pos.k i y = true)
    (he : ({ s1.orderUsed i with holding := hold }).issueAll w.team cl w.pos.k (guardBit .lane x) i (s1.waveOrder i w.tids) = .next s2) :
    s.issueWave c p k hold = .next (({ s2 with holding := false } : State).regroup c p k w cl i
      (if T.performing w cl (guardBit .lane x) = [] then w.latch
       else latchAfter w.latch i ((T.performing w cl (guardBit .lane x)).filterMap fun y => y.reached i))) := by
  rw [issueWave_word hw hT ha hm hc hx hd, if_neg (by simpa using hr), he]

end

section
variable {t tid k : Nat} {T : Team} {th : Thread} {cl : Clause} {guarded : Bool}

/-- The state in which a thread that issues performs its instruction. -/
def issuing (s : State) (t tid : Nat) (T : Team) (th : Thread) (cl : Clause) (k : Nat) : State :=
  { s.setThread t T tid { th with g := th.guard cl k, pos := ⟨cl.h, k⟩, nextPos := cl.after k } with cur := some (.lane t tid) }

/-- A thread has done with its instruction. -/
def issued (s : State) (t tid : Nat) (th : Thread) : State :=
  { s.modThread t tid (fun x => x.counted (th.late.map Late.id) (s.accessHolds t tid)) with cur := none }

variable (hT : s.team? t = some T) (hth : T.thread? tid = some th) (hw : th.st = .wave)
include hT hth hw

theorem issueThread_eq : s.issueThread t cl k guarded i tid =
    if cl.gen && guarded && !th.guard cl k && !isFault i then .next (issued (issuing s t tid T th cl k) t tid th)
    else match exec i ((issuing s t tid T th cl k).settle t tid th i) with
      | .next s2 =>
        if th.guardLate cl k && !s2.stoppedEarly t tid T th i then .next (issued ((issuing s t tid T th cl k).stopAt t tid ⟨cl.h, k⟩
            { code := Code.lookahead }) t tid th)
        else .next (issued s2 t tid th)
      | r => r := by
  unfold State.issueThread
  rw [hT]
  dsimp only
  rw [hth]
  dsimp only
  rw [if_neg (not_not.mpr hw)]
  rfl

theorem issueThread_skipped (hg : cl.gen = true) (hb : guarded = true) (hf : th.guard cl k = false) (hi : isFault i = false) :
    s.issueThread t cl k guarded i tid = .next (issued (issuing s t tid T th cl k) t tid th) := by
  rw [issueThread_eq hT hth hw, if_pos (by simp [hg, hb, hf, hi])]

theorem issueThread_performed (hg : cl.gen = false ∨ guarded = false ∨ th.guard cl k = true) (hl : th.guardLate cl k = false)
    (he : exec i ((issuing s t tid T th cl k).settle t tid th i) = .next s2) :
    s.issueThread t cl k guarded i tid = .next (issued s2 t tid th) := by
  rw [issueThread_eq hT hth hw, if_neg (by rcases hg with hg | hg | hg <;> simp [hg]), he]
  exact if_neg (by simp [hl])

end

theorem issueAll_one {t k tid : Nat} {cl : Clause} {g : Bool} (h : s.issueThread t cl k g i tid = .next s1) :
    s.issueAll t cl k g i [tid] = .next s1 := by simp only [State.issueAll, h]

theorem team?_orderUsed (s : State) (i : Instr) (hold : Bool) (t : Nat) : State.team? { s.orderUsed i with holding := hold } t = s.team? t := by
  unfold State.orderUsed
  split <;> rfl

/-! ## The turn of a steering thread -/

section
variable {c k t : Nat} {T : Team} {cl : Clause} {x : Word} {e : Option Word}

theorem steerTurn_word (hf : List.find? (fun (y : Nat × Team) => y.2.place == .resident c k) s.teams = some (t, T))
    (hp : (Map.get (0, 0) s.steerPtr c).2 ≠ s.clock + 1) (hr : T.steer.st = .running) (hm : s.mayIssue T = true)
    (hc : s.steerClause T = (s1, .inl cl)) (hx : cl.slots[T.steer.pos.k]? = some (.word x e)) (hi : s1.issueSteer t T cl (.word x e) = .next s2) :
    s.steerTurn c k = .next (if (s2.team? t).any (fun U => U.served T.steer)
      then { s2 with steerPtr := Map.set (0, 0) s2.steerPtr c ((k + 1) % Config.teamSlots, s2.clock + 1) } else s2) := by
  simp only [State.steerTurn, hf, hp, hr, hm, hc, hx, hi, decide_false, Bool.not_true, Bool.or_self, beq_self_eq_true, Bool.true_or,
    Bool.false_eq_true, if_false]

section
variable (hr : T.steer.st = .running) (hd : decode .steer x e = .ok i)
  (hw : T.steer.pos.k ≠ 0 ∨ cl.waitll = 15 ∨ T.steer.late.length ≤ cl.waitll)
include hr hd hw

/-- What the issue of a steering instruction answers that need not wait for late results. -/
theorem issueSteer_word : s.issueSteer t T cl (.word x e) =
    if cl.gen && guardBit .steer x && !T.steer.guard cl T.steer.pos.k && !isFault i then
      .next ((s.setTeam t { T with steer :=
        { T.steer with clause := some cl, g := T.steer.guard cl T.steer.pos.k, nextPos := cl.after T.steer.pos.k } }).steerOn t)
    else if Instr.fenced i && T.steer.fences.any (s.fenceOpen t T) then
      .next (s.steerWait t { T with steer :=
        { T.steer with clause := some cl, g := T.steer.guard cl T.steer.pos.k, nextPos := cl.after T.steer.pos.k } } .fence)
    else match exec i { s.setTeam t { T with steer := if Instr.fenced i
        then { T.steer with clause := some cl, g := T.steer.guard cl T.steer.pos.k, nextPos := cl.after T.steer.pos.k, fences := [] }
        else { T.steer with clause := some cl, g := T.steer.guard cl T.steer.pos.k, nextPos := cl.after T.steer.pos.k } } with
          cur := some (.steer t) } with
      | .next s2 => .next { s2.steerOn t with cur := none }
      | r => r := by
  have hi : (Slot.word x e).instr .steer = i := by simp only [Slot.instr, hd]
  have hg : (Slot.word x e).guarded .steer = guardBit .steer x := rfl
  have hk : ¬(T.steer.pos.k = 0 ∧ T.steer.fresh = true ∧ cl.waitll ≠ 15 ∧ cl.waitll < T.steer.late.length) := by
    rintro ⟨h0, _, h15, hlt⟩
    rcases hw with h | h | h
    · exact h h0
    · exact h15 h
    · omega
  have hrun : ({ T.steer with clause := some cl, g := T.steer.guard cl T.steer.pos.k, nextPos := cl.after T.steer.pos.k, st := .running } : Steer) =
      { T.steer with clause := some cl, g := T.steer.guard cl T.steer.pos.k, nextPos := cl.after T.steer.pos.k } := by rw [← hr]
  unfold State.issueSteer
  dsimp only
  rw [if_neg hk, hi, hg, hrun]
  split
  · rfl
  · split
    · rfl
    · cases Instr.fenced i <;> rfl

theorem issueSteer_performed (hg : ¬(cl.gen && guardBit .steer x && !T.steer.guard cl T.steer.pos.k && !isFault i) = true)
    (hf : ¬(Instr.fenced i && T.steer.fences.any (s.fenceOpen t T)) = true)
    (he : exec i { s.setTeam t { T with steer := if Instr.fenced i
        then { T.steer with clause := some cl, g := T.steer.guard cl T.steer.pos.k, nextPos := cl.after T.steer.pos.k, fences := [] }
        else { T.steer with clause := some cl, g := T.steer.guard cl T.steer.pos.k, nextPos := cl.after T.steer.pos.k } } with
          cur := some (.steer t) } = .next s2) :
    s.issueSteer t T cl (.word x e) = .next { s2.steerOn t with cur := none } := by
  rw [issueSteer_word hr hd hw, if_neg hg, if_neg hf, he]

end
end

end

/-- Settles O54: a step is its next turn; each turn by its equation, and the clause by the words that are read. -/
theorem stepRunsTheDecodedInstruction : Obligations.StepRunsTheDecodedInstruction := by
  intro s s1 r i c p k n h t tid w T th cl x e st hold s0
  refine ⟨step_plan, step_turn, fun ha => ⟨fun hi => ?_, fun hi => ?_⟩, isEvent_of_stream,
    fun hp => ⟨before_of_none (s := s0) hp i, settle_of_none (s := s0) hp t tid th i⟩, step_turn, step_turn, step_turn, step_turn, step_turn,
    fun pa bad => step_turn, fun a b ha => ⟨fun s2 => step_behind_event ha, step_behind_other ha⟩, fun ha hw hT hac => ⟨fun hm => ?_, fun hm hc hx hd => ?_⟩,
    fun g y l => ?_, fun ha hf hp hr hm hc hx hd hw => ?_, fun hd ws l s2 s3 => fetchClause_words, fun va pa f hj => ⟨fun ho => ?_, ?_⟩,
    fun a bs => ⟨fun o ho => ?_, fun o ho => ?_⟩, fun a n o => overwritten_spec⟩
  · rw [step_event ha, if_pos hi]
  · rw [step_event ha, if_neg (by simp [hi])]
  · rw [turn_wave ha, issueWave_not hw hT hac hm]
  · intro who latch go
    have hs : step s = _ := (turn_wave ha).trans (issueWave_word hw hT hac hm hc hx hd)
    refine ⟨fun hn => ?_, fun hall => ⟨waveOrder_perm .., fun s2 h2 => ?_, fun hone hT1 hth hst => ?_⟩⟩
    · rw [hs, if_pos]
      rw [Bool.not_eq_true', ← Bool.not_eq_true, List.all_eq_true]
      intro hall
      obtain ⟨y, hy, hn⟩ := hn
      exact Bool.false_ne_true (hn.symm.trans (hall y hy))
    · exact (turn_wave ha).trans (issueWave_issued hw hT hac hm hc hx hd hall h2)
    · intro g on done
      have hgo : State.team? go w.team = some T := (team?_orderUsed s1 i hold w.team).trans hT1
      have hord : s1.waveOrder i w.tids = [tid] := List.perm_singleton.mp (hone ▸ waveOrder_perm s1 i w.tids)
      refine ⟨fun hg hb hf hi => ?_, fun hg hl s2 he => ?_⟩
      · refine (turn_wave ha).trans (issueWave_issued hw hT hac hm hc hx hd hall (s2 := issued on w.team tid th) ?_)
        rw [hord]
        exact issueAll_one (issueThread_skipped hgo hth hst hg hb hf hi)
      · refine (turn_wave ha).trans (issueWave_issued hw hT hac hm hc hx hd hall (s2 := issued s2 w.team tid th) ?_)
        rw [hord]
        exact issueAll_one (issueThread_performed hgo hth hst hg hl he)
  · rfl
  · intro g st1 serve done
    have hrun {s2 : State} (hi : s1.issueSteer t T cl (.word x e) = .next s2) : step s = .next (done s2) :=
      (step_turn ha).trans (steerTurn_word hf hp hr hm hc hx hi)
    have hword := issueSteer_word (s := s1) (t := t) hr hd hw
    refine ⟨fun hg hb hgf hi => hrun ?_, fun hg => ?_⟩
    · rw [hword, if_pos]
      simpa [hg, hb, hi] using hgf
    · have hskip : ¬(cl.gen && guardBit .steer x && !T.steer.guard cl T.steer.pos.k && !isFault i) = true := by
        rcases hg with hg | hg | hg
        · simp [hg]
        · simp [hg]
        · have hg' : T.steer.guard cl T.steer.pos.k = true := hg
          simp [hg']
      refine ⟨fun hfe hop => hrun ?_, ?_⟩
      · rw [hword, if_neg hskip, if_pos (by rw [hfe, hop]; rfl)]
      · intro hfe T1 s2 he
        exact hrun (issueSteer_performed hr hd hw hskip (by rcases hfe with h | h <;> simp [h]) he)
  · rw [codeWord_ok hj, readCode_now ho]
  · exact ⟨_, _, codeWord_ok hj, readCode_choice s1 T.grid pa⟩
  · exact (mem_foldl_new ..).mpr (.inr ho)
  · exact ((mem_foldl_new ..).mp ho).imp (fun h => List.mem_of_mem_filter h) id

end Sys2Proof.Laws.Steps
end


section
/-! The bank sets of main memory: their commands (Table 7.3, R153, R155), their power states (R149-R159), the patrol and its errors (R161-R167). -/

namespace Sys2Proof.Laws.Banks

open Sys2Proof Sys2Proof.Machine Sys2Proof.Laws.Rules Sys2Proof.Laws.LocalAccess

variable {s : State} {n op : Nat}

@[simp] theorem bank_setBank_self (s : State) (n : Nat) (b : Bank) : (s.setBank n b).bank n = b := by rw [bank_setBank, if_pos rfl]

@[simp] theorem bank_bankDone (s : State) (x : BitVec 8) (k : Nat) : (s.bankDone x).bank k = s.bank k := rfl

/-! ## Commands -/

theorem bankIssue_waits (h : (s.bank n).offAfter ≠ none) (op : Nat) :
    s.bankIssue n op = s.setBank n { s.bank n with cmds := (s.bank n).cmds ++ [op] } := by
  rw [State.bankIssue, if_pos (Option.isSome_iff_ne_none.mpr h), State.modBank]

theorem bankIssue_now (h : (s.bank n).offAfter = none) (op : Nat) : s.bankIssue n op = s.bankOp n op := by
  rw [State.bankIssue, h]
  rfl

theorem bankOff_refused (h : (s.bank n).inuse = true ∨ (s.bank n).state = 4 ∨ (s.bank n).clr = true) : s.bankOff n = s.bankDone 1 := by
  rw [State.bankOff]
  exact if_pos h

section
variable (hi : (s.bank n).inuse = false) (h4 : (s.bank n).state ≠ 4) (hc : (s.bank n).clr = false)
include hi h4 hc

theorem bankOff_off (h0 : (s.bank n).state = 0) : s.bankOff n = s.bankDone 0 := by
  rw [State.bankOff]
  exact (if_neg (by simp [hi, h4, hc])).trans (if_pos h0)

theorem bankOff_on (h0 : (s.bank n).state ≠ 0) : s.bankOff n =
    if (s.bank n).queue.isEmpty then (s.setBank n (s.bank n).off).bankDone 0
    else s.setBank n { s.bank n with offAfter := some (s.bank n).queue.length } := by
  rw [State.bankOff]
  exact (if_neg (by simp [hi, h4, hc])).trans (if_neg h0)

end

theorem setOf_eq {a : Nat} (h : a < 2 ^ 39) : Machine.setOf a = a / 2 ^ 30 := by
  have : a / 2 ^ 30 < 512 := by omega
  exact Nat.mod_eq_of_lt this

theorem get_clear_in (m : List Host.Cell) {a x n : Nat} (h : a ≤ x) (h' : x < a + n) : Memory.get (Memory.clear m a n) x = 0 :=
  Map.get_filter_drop (0 : Byte) m (fun j => decide (j < a ∨ a + n ≤ j)) (by rw [decide_eq_false_iff_not]; omega)

theorem get_clear_out (m : List Host.Cell) {a x n : Nat} (h : x < a ∨ a + n ≤ x) : Memory.get (Memory.clear m a n) x = Memory.get m x :=
  Map.get_filter_keep (0 : Byte) m (fun j => decide (j < a ∨ a + n ≤ j)) (decide_eq_true h)

/-- What the end of the clearing of a set leaves (R153). -/
def cleared (s : State) (n : Nat) : State :=
  ((({ s with mem := Memory.clear s.mem (n * 2 ^ 30) (2 ^ 30),
              poison := s.poison.filter (fun l => decide (Machine.setOf (l * 128) ≠ n)) } : State).setBank n
    { s.bank n with state := if (s.bank n).rlost then 4 else 2, clr := false }).bankDone 0)

theorem exec_clearingEnd (k : BitVec 9) (s : State) : exec (.clearingEnd k) s =
    if (s.bank k.toNat).clr && decide ((s.bank k.toNat).lastAccess + clearTicks ≤ s.clock) then .next (cleared s k.toNat) else .next s := rfl

theorem cleared_in {a : Nat} (h : Machine.setOf a = n) (ha : a < 2 ^ 39) : Memory.get (cleared s n).mem a = 0 := by
  rw [setOf_eq ha] at h
  exact get_clear_in s.mem (by omega) (by omega)

theorem cleared_out {a : Nat} (ha : a < 2 ^ 39) (h : Machine.setOf a ≠ n) : Memory.get (cleared s n).mem a = Memory.get s.mem a := by
  rw [setOf_eq ha] at h
  exact get_clear_out s.mem (by omega)

/-- Settles O39: a command waits behind an OFF, or is its operation on the state of its set. -/
theorem bankCommands : Obligations.BankCommands := by
  intro s k n b
  refine ⟨fun h y hy => ?_, fun op hop => ⟨fun h => bankIssue_waits h op, fun h => ?_⟩, fun h => ?_, fun hc ht => ?_, fun hn => ?_⟩
  · have hw (op : Nat) : (.next (s.bankIssue n op) : Res) = .next (s.setBank n { b with cmds := b.cmds ++ [op] }) :=
      congrArg _ (bankIssue_waits h op)
    simp only [List.mem_cons, List.not_mem_nil, or_false] at hy
    rcases hy with rfl | rfl | rfl | rfl | rfl | rfl <;> exact hw _
  · rw [bankIssue_now h]
    simp only [List.mem_cons, List.not_mem_nil, or_false] at hop
    rcases hop with rfl | rfl <;> rfl
  · have hop (op : Nat) : (.next (s.bankIssue n op) : Res) = .next (s.bankOp n op) := congrArg _ (bankIssue_now h op)
    refine ⟨fun h0 hc => ?_, fun h0 => ?_, fun hr => ?_, fun hi h4 hc => ⟨fun h0 => ?_, fun h0 hq => ?_, fun h0 hq => ?_⟩, fun h0 => ?_,
      fun h0 hc => ?_, hop 4, hop 5, hop 6⟩
    · exact (hop 1).trans (congrArg _ (if_pos ⟨h0, hc⟩))
    · exact (hop 1).trans (congrArg _ (if_neg fun ⟨h1, h2⟩ => h0.elim (fun h => h h1) fun h => Bool.false_ne_true (h2.symm.trans h)))
    · exact (hop 2).trans (congrArg _ (bankOff_refused hr))
    · exact (hop 2).trans (congrArg _ (bankOff_off hi h4 hc h0))
    · refine ⟨_, (hop 2).trans (congrArg _ ((bankOff_on hi h4 hc h0).trans (if_pos (List.isEmpty_iff.mpr hq)))), ?_, rfl, rfl⟩
      rw [bank_bankDone, bank_setBank_self]
      rfl
    · exact ⟨_, (hop 2).trans (congrArg _ ((bankOff_on hi h4 hc h0).trans (if_neg (by simpa using hq)))), bank_setBank_self .., rfl⟩
    · exact (hop 3).trans (congrArg _ (if_pos h0))
    · exact (hop 3).trans (congrArg _ (if_neg fun hx => hx.elim h0 fun h => Bool.false_ne_true (hc.symm.trans h)))
  · have he : exec (.clearingEnd k) s = .next (cleared s n) := by rw [exec_clearingEnd, if_pos (Bool.and_eq_true_iff.mpr ⟨hc, decide_eq_true ht⟩)]
    refine ⟨_, he, fun a => cleared_in, fun a => cleared_out, fun l hl => ?_, bank_setBank_self .., rfl⟩
    simpa using (List.mem_filter.mp hl).2
  · rw [exec_clearingEnd, if_neg]
    rw [Bool.and_eq_true, decide_eq_true_eq]
    rintro ⟨hc, ht⟩
    rcases hn with hn | hn
    · exact Bool.false_ne_true (hn.symm.trans hc)
    · exact absurd ht (Nat.not_le.mpr hn)

/-! ## Power states -/

/-- A set that has served its oldest request (R151). -/
def served (b : Bank) (clock : Nat) : Bank := { b with queue := b.queue.drop 1, lastAccess := clock, offAfter := b.offAfter.map (· - 1) }

theorem exec_memoryLineAccess {k : BitVec 9} (h3 : (s.bank k.toNat).state = 3) (hq : (s.bank k.toNat).queue ≠ []) :
    exec (.memoryLineAccess k) s = .next ((s.setBank k.toNat (served (s.bank k.toNat) s.clock)).offNow k.toNat) := if_pos ⟨h3, hq⟩

theorem offNow_waits (h : (s.bank n).offAfter ≠ some 0) : s.offNow n = s := by
  rw [State.offNow]
  exact if_neg h

theorem offNow_off (h : (s.bank n).offAfter = some 0) (hc : (s.bank n).cmds = []) : s.offNow n = (s.setBank n (s.bank n).off).bankDone 0 := by
  rw [State.offNow]
  refine (if_pos h).trans ?_
  rw [hc]
  rfl

theorem phase_setPhase (s : State) (c : CtxId) (p : PhaseReg) : (s.setPhase c p).phase c = p := Map.get_set_self ..

theorem settlePhase_due {c : CtxId} {x p : Nat} (h : (s.phase c).change = some (x, p)) (ht : x ≤ s.dtime.toNat) : s.settlePhase c =
    if p < 2 then { s.setPhase c { s.phase c with force := p, change := none } with
      held := (s.setPhase c { s.phase c with force := p, change := none }).held.filter (fun h => h.1 ≠ c.toNat) }
    else s.setPhase c { s.phase c with force := p, change := none } := by
  simp only [State.settlePhase, h, if_pos ht]

/-- Settles O40: each event by the guard under which it acts; only the record of one set changes, never a line of memory. -/
theorem bankPowerEvents : Obligations.BankPowerEvents := by
  intro s k c x p d n b
  refine ⟨fun h3 hq => ⟨fun w hw h1 h0 => ?_, fun h1 hc => ?_⟩, fun h => ?_, fun h3 hq hp ht hg => if_pos ⟨h3, hq, hp, ht, hg⟩,
    fun h2 hq hp hw hr ht => ?_, fun hg => ?_, fun h12 hw => ?_, fun h1 hw hg => ?_, fun hc ht => ?_, fun hc ht => ?_⟩
  · have hoff : ((s.setBank n (served b s.clock)).bank n).offAfter ≠ some 0 := by
      rw [bank_setBank_self]
      intro h
      obtain ⟨j, hj, hj0⟩ := Option.map_eq_some_iff.mp h
      have : w = some j := hw.symm.trans hj
      rcases (by omega : j = 0 ∨ j = 1) with rfl | rfl
      · exact h0 this
      · exact h1 this
    exact ⟨_, (exec_memoryLineAccess h3 hq).trans (congrArg _ (offNow_waits hoff)), by rw [bank_setBank_self, ← hw]; rfl, fun _ => rfl⟩
  · have hoff := offNow_off (s := s.setBank n (served b s.clock)) (n := n) (by rw [bank_setBank_self, served, h1]; rfl) (by rw [bank_setBank_self]; exact hc)
    refine ⟨_, (exec_memoryLineAccess h3 hq).trans (congrArg _ hoff), ?_, ?_, rfl, fun _ => rfl⟩ <;> rw [bank_bankDone, bank_setBank_self] <;> rfl
  · exact if_neg fun ⟨h3, hq⟩ => h.elim (fun h => h h3) hq
  · have hr' : retTicks (s.governing k.toNat) = some d := hr
    change execRetEntryTimeout k s = _
    simp only [execRetEntryTimeout, hr']
    exact if_pos ⟨h2, hq, hp, hw, ht⟩
  · have hr : retTicks (s.governing k.toNat) = none := by
      have hg' : 2 ≤ s.governing k.toNat := hg
      have h01 : s.governing k.toNat ≠ 0 ∧ s.governing k.toNat ≠ 1 := by omega
      unfold retTicks
      split
      · exact absurd ‹_› h01.1
      · exact absurd ‹_› h01.2
      · rfl
    change execRetEntryTimeout k s = _
    simp only [execRetEntryTimeout, hr]
  · exact (if_neg fun ⟨h1, h2⟩ => h12.elim h1 h2).trans (if_pos hw)
  · refine (if_neg fun ⟨h, _⟩ => h h1).trans ((if_neg ?_).trans (if_pos ⟨h1, hg⟩))
    rintro (h | h)
    · exact Bool.false_ne_true (hw.symm.trans h)
    · exact absurd (h.symm.trans hg) (by decide)
  · refine ⟨_, congrArg Host.Outcome.next (settlePhase_due hc ht), ?_, ?_, ?_⟩
    · split <;> exact phase_setPhase ..
    · split <;> exact fun _ => rfl
    · intro hp h hh
      rw [if_pos hp] at hh
      simpa using (List.mem_filter.mp hh).2
  · change Host.Outcome.next (s.settlePhase c) = _
    rw [State.settlePhase, hc]
    exact congrArg _ (if_neg (Nat.not_le.mpr ht))

/-! ## Errors and the patrol -/

theorem remapRow_state (b : Bank) (row : Nat) : (b.remapRow row).state = b.state ∧ (b.remapRow row).clr = b.clr := by
  unfold Bank.remapRow
  split <;> exact ⟨rfl, rfl⟩

theorem corrected_state (b : Bank) (row : Nat) : (b.corrected row).state = b.state ∧ (b.corrected row).clr = b.clr := by
  unfold Bank.corrected
  dsimp only
  split
  · exact remapRow_state _ _
  · exact ⟨rfl, rfl⟩

theorem spoiled_state (b : Bank) (row : Nat) : (b.spoiled row).state = b.state ∧ (b.spoiled row).clr = b.clr := remapRow_state _ _

/-- What the errors that a read finds leave of a set: it is neither cleared nor put into another state. -/
theorem findError_bank (s : State) (line : Nat) (bad : Bool) (k : Nat) :
    ((s.findError line bad).bank k).state = (s.bank k).state ∧ ((s.findError line bad).bank k).clr = (s.bank k).clr := by
  have kept (b : Bank) (s0 : State) (h0 : s0.banks = s.banks) (hs : b.state = (s.bank (Machine.setOf (line * 128))).state)
      (hc : b.clr = (s.bank (Machine.setOf (line * 128))).clr) :
      ((s0.setBank (Machine.setOf (line * 128)) b).bank k).state = (s.bank k).state ∧
        ((s0.setBank (Machine.setOf (line * 128)) b).bank k).clr = (s.bank k).clr := by
    rw [bank_setBank]
    split
    · rename_i h
      rw [h]
      exact ⟨hs, hc⟩
    · rw [State.bank, h0]
      exact ⟨rfl, rfl⟩
  unfold State.findError
  dsimp only
  split
  · exact ⟨rfl, rfl⟩
  · split
    · exact kept _ { s with poison := s.poison ++ [line] } rfl (spoiled_state _ _).1 (spoiled_state _ _).2
    · exact kept _ s rfl (corrected_state _ _).1 (corrected_state _ _).2

theorem findError_mem (s : State) (line : Nat) (bad : Bool) : (s.findError line bad).mem = s.mem := by
  unfold State.findError
  dsimp only
  split
  · rfl
  · split <;> rfl

theorem findError_poison_bad {line : Nat} (hc : (s.bank (Machine.setOf (line * 128))).clr = false)
    (h0 : (s.bank (Machine.setOf (line * 128))).state ≠ 0) (h4 : (s.bank (Machine.setOf (line * 128))).state ≠ 4) (l : Nat) :
    l ∈ (s.findError line true).poison ↔ l ∈ s.poison ∨ l = line := by
  by_cases hp : s.poison.contains line
  · have : s.findError line true = s := if_pos (.inr (.inr (.inr hp)))
    rw [this]
    exact ⟨.inl, fun h => h.elim id fun h => h ▸ List.contains_iff_mem.mp hp⟩
  · have : s.findError line true = ({ s with poison := s.poison ++ [line] } : State).setBank (Machine.setOf (line * 128))
        ((s.bank (Machine.setOf (line * 128))).spoiled (Config.rowOf line)) := by
      refine (if_neg ?_).trans (if_pos rfl)
      rintro (h | h | h | h)
      · exact Bool.false_ne_true (hc.symm.trans h)
      · exact h0 h
      · exact h4 h
      · exact hp h
    rw [this]
    simp [State.setBank]

theorem findError_poison_fixed (s : State) (line : Nat) : (s.findError line false).poison = s.poison := by
  unfold State.findError
  dsimp only
  split <;> rfl

/-- A read of lines of one set finds the uncorrectable errors among them. -/
theorem findErrors_bad {ls : List Nat} (hl : ∀ x ∈ ls, Machine.setOf (x * 128) = n) (hc : (s.bank n).clr = false) (h0 : (s.bank n).state ≠ 0)
    (h4 : (s.bank n).state ≠ 4) (l : Nat) : l ∈ (ls.foldl (fun s x => s.findError x true) s).poison ↔ l ∈ s.poison ∨ l ∈ ls := by
  induction ls generalizing s with
  | nil => simp
  | cons x ls ih =>
    have hx := hl x (List.mem_cons_self ..)
    obtain ⟨hbs, hbc⟩ := findError_bank s x true n
    rw [List.foldl_cons, ih (fun y hy => hl y (List.mem_cons_of_mem _ hy)) (hbc.trans hc) (hbs ▸ h0) (hbs ▸ h4),
      findError_poison_bad (hx ▸ hc) (hx ▸ h0) (hx ▸ h4), List.mem_cons, or_assoc]

theorem findErrors_fixed (ls : List Nat) (s : State) : let s1 := ls.foldl (fun s x => s.findError x false) s
    s1.poison = s.poison ∧ (s1.bank n).state = (s.bank n).state ∧ (s1.bank n).clr = (s.bank n).clr ∧ s1.mem = s.mem := by
  induction ls generalizing s with
  | nil => exact ⟨rfl, rfl, rfl, rfl⟩
  | cons x ls ih =>
    obtain ⟨hp, hs, hc, hm⟩ := ih (s.findError x false)
    obtain ⟨hbs, hbc⟩ := findError_bank s x false n
    exact ⟨hp.trans (findError_poison_fixed s x), hs.trans hbs, hc.trans hbc, hm.trans (findError_mem s x false)⟩

theorem findErrors_mem (ls : List Nat) (s : State) (bad : Bool) : (ls.foldl (fun s x => s.findError x bad) s).mem = s.mem := by
  induction ls generalizing s with
  | nil => rfl
  | cons x ls ih => rw [List.foldl_cons, ih, findError_mem]

/-- The lines of a granule (R161). -/
def granuleLines (k g : BitVec 9) (l : List Nat) : List Nat :=
  l.filter fun x => decide ((k.toNat * 2 ^ 30 + g.toNat * 2 ^ 21) / 128 ≤ x ∧ x < (k.toNat * 2 ^ 30 + g.toNat * 2 ^ 21) / 128 + 16384)

theorem setOf_granuleLines {k g : BitVec 9} {l : List Nat} {x : Nat} (h : x ∈ granuleLines k g l) : Machine.setOf (x * 128) = k.toNat := by
  have hx := of_decide_eq_true (List.mem_filter.mp h).2
  rw [setOf_eq (by omega)]
  omega

/-- The set after a read of a granule has found what it found. -/
def patrolled (k g : BitVec 9) (fixed bad : List Nat) (s : State) : State :=
  ((granuleLines k g bad).foldl (fun s x => s.findError x true) ((granuleLines k g fixed).foldl (fun s x => s.findError x false) s)).modBank k.toNat
    fun c => { c with granules := (s.bank k.toNat).granules ++ [g.toNat], lastAccess := s.clock,
                      state := if (s.bank k.toNat).state = 1 then 3 else c.state,
                      patrol := ((s.bank k.toNat).patrol || (s.bank k.toNat).state == 1) &&
                        decide (((s.bank k.toNat).granules ++ [g.toNat]).length < 512) }

theorem exec_patrolRead (k g : BitVec 9) (fixed bad : List Nat) (s : State) : exec (.patrolRead k g fixed bad) s =
    if (s.bank k.toNat).clr ∨ (s.bank k.toNat).state = 0 ∨ (s.bank k.toNat).state = 4 ∨ (s.bank k.toNat).granules.contains g.toNat then .next s
    else .next (patrolled k g fixed bad s) := rfl

theorem patrolled_poison {k g : BitVec 9} (hc : (s.bank k.toNat).clr = false) (h0 : (s.bank k.toNat).state ≠ 0) (h4 : (s.bank k.toNat).state ≠ 4)
    (fixed bad : List Nat) (l : Nat) : l ∈ (patrolled k g fixed bad s).poison ↔ l ∈ s.poison ∨ l ∈ granuleLines k g bad := by
  obtain ⟨hp, hs, hcl, _⟩ := findErrors_fixed (n := k.toNat) (granuleLines k g fixed) s
  have h := findErrors_bad (ls := granuleLines k g bad) (fun x => setOf_granuleLines) (hcl.trans hc) (hs ▸ h0) (hs ▸ h4) l
  rw [hp] at h
  exact h

theorem patrolled_mem (k g : BitVec 9) (fixed bad : List Nat) (s : State) : (patrolled k g fixed bad s).mem = s.mem :=
  (findErrors_mem ..).trans (findErrors_mem ..)

/-! ## A lost remap -/

/-- A command of a set that is LOST changes no byte and no state of it, and no entry of the log. -/
theorem bankOp_lost (h : (s.bank n).state = 4) (op : Nat) :
    ((s.bankOp n op).bank n).state = 4 ∧ ((s.bankOp n op).bank n).clr = (s.bank n).clr ∧ ((s.bankOp n op).bank n).rlost = (s.bank n).rlost ∧
      (s.bankOp n op).mgmt = s.mgmt ∧ (s.bankOp n op).mem = s.mem := by
  have h0 : (s.bank n).state ≠ 0 := by omega
  unfold State.bankOp
  split
  · rw [State.bankOn, if_neg fun hx => h0 hx.1]
    exact ⟨h, rfl, rfl, rfl, rfl⟩
  · rw [bankOff_refused (.inr (.inl h))]
    exact ⟨h, rfl, rfl, rfl, rfl⟩
  · rw [State.bankInuse]
    split
    · exact ⟨h, rfl, rfl, rfl, rfl⟩
    · simp [h]
  all_goals simp [h, State.modBank]

theorem bankOps_lost (ops : List Nat) (h : (s.bank n).state = 4) : let s1 := ops.foldl (fun s op => s.bankOp n op) s
    (s1.bank n).state = 4 ∧ (s1.bank n).clr = (s.bank n).clr ∧ (s1.bank n).rlost = (s.bank n).rlost ∧ s1.mgmt = s.mgmt ∧ s1.mem = s.mem := by
  induction ops generalizing s with
  | nil => exact ⟨h, rfl, rfl, rfl, rfl⟩
  | cons op ops ih =>
    obtain ⟨h4, hc, hr, hg, hm⟩ := bankOp_lost h op
    obtain ⟨i4, ic, ir, ig, im⟩ := ih h4
    exact ⟨i4, ic.trans hc, ir.trans hr, ig.trans hg, im.trans hm⟩

/-- Settles O41: the patrol adds its granule and marks the lines found bad; a lost remap and a new interval by their equations. -/
theorem patrolAndErrors : Obligations.PatrolAndErrors := by
  intro s k g fixed bad low n b lo
  refine ⟨fun hc h0 h4 hg => ?_, fun h => ?_, ⟨_, rfl, fun _ => rfl, fun e he => ?_⟩, ?_, rfl⟩
  · have hexec : exec (.patrolRead k g fixed bad) s = .next (patrolled k g fixed bad s) := by
      rw [exec_patrolRead, if_neg]
      rintro (h | h | h | h)
      · exact Bool.false_ne_true (hc.symm.trans h)
      · exact h0 h
      · exact h4 h
      · exact hg (List.contains_iff_mem.mp h)
    have hp := patrolled_poison hc h0 h4 fixed bad (g := g)
    refine ⟨_, hexec, sameMemory_of_mem (patrolled_mem ..), congrArg Bank.granules (bank_setBank_self ..), fun l hl => (hp l).mpr (.inl hl),
      fun l hl h1 h2 => (hp l).mpr (.inr (List.mem_filter.mpr ⟨hl, decide_eq_true ⟨h1, h2⟩⟩)), fun l hl hn => ?_⟩
    obtain ⟨hb, hr⟩ := List.mem_filter.mp (((hp l).mp hl).resolve_left hn)
    exact ⟨hb, of_decide_eq_true hr⟩
  · rw [exec_patrolRead, if_pos]
    exact h.imp id (.imp id (.imp id List.contains_iff_mem.mpr))
  · obtain ⟨x, _, rfl⟩ := List.mem_map.mp (List.mem_filter.mp he).1
    exact ⟨rfl, rfl⟩
  · by_cases h0 : b.state = 0
    · refine ⟨_, if_pos h0, ?_, ?_, ?_, rfl, fun _ => rfl⟩ <;> rw [bank_setBank_self]
      rw [if_pos h0]
      exact h0
    · let s1 : State := { s with mgmt := { s.mgmt with log := s.mgmt.log ++ [(Code.remapLost, n)] } }
      let s2 := s1.setBank n { b with state := 4, rlost := true, queue := [], waking := false, patrol := false, offAfter := none, cmds := [] }
      have lost (s3 : State) (hb : s3.bank n = s2.bank n) (hg : s3.mgmt = s2.mgmt) (hm : s3.mem = s2.mem) : let s4 := b.cmds.foldl (fun s op => s.bankOp n op) s3
          (s4.bank n).state = 4 ∧ (s4.bank n).clr = b.clr ∧ (s4.bank n).rlost = true ∧
            s4.mgmt.log = s.mgmt.log ++ [(0x1B, n)] ∧ SameMemory s s4 := by
        have hs2 : s2.bank n = _ := bank_setBank_self ..
        obtain ⟨h4, hc, hr, hl, hmem⟩ := bankOps_lost (s := s3) b.cmds (n := n) (by rw [hb, hs2])
        exact ⟨h4, by rw [hc, hb, hs2], by rw [hr, hb, hs2], by rw [hl, hg]; rfl, sameMemory_of_mem (hmem.trans hm)⟩
      refine ⟨_, if_neg h0, ?_⟩
      rw [if_neg h0]
      split
      · exact lost (s2.bankDone 1) rfl rfl rfl
      · exact lost s2 rfl rfl rfl

end Sys2Proof.Laws.Banks
end


section
/-! The context commands (R51, R53, R54, R73): what each answers by whether its context is active and has work. -/

namespace Sys2Proof.Laws.Contexts

open Sys2Proof Sys2Proof.Machine Sys2Proof.Laws.Rules Sys2Proof.Laws.LocalAccess Sys2Proof.Laws.Reading

variable {s : State} {c : CtxId}

theorem find?_erase_self {α : Type} (m : Map α) (k : Nat) : Map.find? (Map.erase m k) k = none := by
  induction m with
  | nil => rfl
  | cons e r ih =>
    by_cases h : e.1 = k
    · simpa [Map.erase, h] using ih
    · simpa [Map.erase, Map.find?, h] using ih

theorem not_mem_tlbDrop {bad : TlbEntry → Bool} {e : Nat × List TlbEntry} {x : TlbEntry} (he : e ∈ (s.tlbDrop bad).tlbs) (hx : x ∈ e.2) :
    bad x = false := by
  obtain ⟨p, _, rfl⟩ := List.mem_map.mp he
  simpa using (List.mem_filter.mp hx).2

theorem not_mem_rrcDrop {bad : RrcLine → Bool} {l : RrcLine} (h : l ∈ (s.rrcDrop bad).rrc) : bad l = false := by
  simpa using (List.mem_filter.mp h).2

theorem exec_activate_active (h : (Map.find? s.ctxs c.toNat).isSome) : exec (.activate c) s = .next (s.ctxDone 1) := if_pos h

/-- The state behind an accepted ACTIVATE. -/
def activated (s : State) (c : CtxId) : State :=
  let a := s.cfg.ctxtab + 128 * c.toNat
  let s1 := s.touch none a
  ({ s1 with ctxs := Map.put s1.ctxs c.toNat (ctxOf (s.bytes a 128)), phases := Map.set PhaseReg.reset s1.phases c.toNat PhaseReg.reset,
             opal := ⟨dropCtxKeys c s1.opal.seqs, dropCtxKeys c s1.opal.outcomes⟩ } : State).ctxDone 0

theorem exec_activate (h : (Map.find? s.ctxs c.toNat).isSome = false) : exec (.activate c) s =
    if (s.lineFault (s.cfg.ctxtab + 128 * c.toNat)).isSome ∨ blockOk (s.bytes (s.cfg.ctxtab + 128 * c.toNat) 128) = false then
      .next ((s.touch none (s.cfg.ctxtab + 128 * c.toNat)).ctxDone 2)
    else .next (activated s c) := by
  change execActivate c s = _
  rw [execActivate, if_neg (by simp [h])]
  simp only [State.lineOpen, lineFault_touch, Bool.not_eq_true', Option.isNone_eq_false_iff]
  rfl

/-- The state behind an accepted DESTROY. -/
def destroyed (s : State) (c : CtxId) : State :=
  let s1 := ((s.clearBlocks c).tlbDrop fun e => e.ctx == c).rrcDrop fun l => l.ctx == c
  ({ s1 with ctxs := Map.erase s1.ctxs c.toNat, held := s1.held.filter (fun h => h.1 ≠ c.toNat),
             phases := Map.set PhaseReg.reset s1.phases c.toNat PhaseReg.reset } : State).ctxDone 0

theorem exec_destroy (c : CtxId) (s : State) : exec (.destroy c) s =
    if (Map.find? s.ctxs c.toNat).isNone ∨ s.ctxBusy c then .next (s.ctxDone 1) else .next (destroyed s c) := rfl

theorem clearBlocks_none {C : Ctx} (h : Map.find? s.ctxs c.toNat = some C) (hc : C.clearing = []) : s.clearBlocks c = s := by
  simp only [State.clearBlocks, h, hc, List.foldl_nil]

/-- Settles O38: each command by the tests of its context in their order; what is dropped are the entries that a filter leaves out. -/
theorem contextCommands : Obligations.ContextCommands := by
  intro s c a bs active
  refine ⟨fun h => ?_, fun h => ⟨fun i hi => ?_, fun hf => ?_, fun hf hb => ?_⟩⟩
  · have hn : ¬(Map.find? s.ctxs c.toNat).isNone = true := fun hx => by
      have h' : (Map.find? s.ctxs c.toNat).isSome = true := h
      rw [Option.isNone_iff_eq_none.mp hx] at h'
      exact Bool.false_ne_true h'
    refine ⟨exec_activate_active h, ⟨_, if_neg hn, fun e he x hx => by simpa using not_mem_tlbDrop he hx, fun _ => rfl, rfl⟩, ?_, fun hb => ?_, fun hb => ?_⟩
    · intro va size
      refine ⟨_, if_neg hn, fun _ => rfl, rfl, fun e he x hx => ?_⟩
      have hbad := not_mem_tlbDrop he hx
      rintro ⟨h1, h2, h3⟩
      have hva : va < 2 ^ 56 := Nat.mod_lt _ (by decide)
      rw [h1, h2, h3, vpnOf, Nat.mod_eq_of_lt hva] at hbad
      simp only [BEq.rfl, Bool.true_and, Bool.and_eq_false_iff, beq_eq_false_iff_ne] at hbad
      exact hbad.elim (fun h => h rfl) fun h => h rfl
    · rw [exec_destroy, if_pos (.inr hb)]
    · have he : exec (.destroy c) s = .next (destroyed s c) := by rw [exec_destroy, if_neg (by simpa [hb] using hn)]
      refine ⟨_, he, find?_erase_self .., fun e he x hx => by simpa using not_mem_tlbDrop (s := s.clearBlocks c) he hx,
        fun l hl => by simpa using not_mem_rrcDrop (s := (s.clearBlocks c).tlbDrop _) hl, rfl, fun C hC hcl => ?_, rfl⟩
      refine sameMemory_of_mem ?_
      change (s.clearBlocks c).mem = s.mem
      rw [clearBlocks_none hC hcl]
  · have hn : (Map.find? s.ctxs c.toNat).isNone = true := by simpa [active] using h
    simp only [List.mem_cons, List.not_mem_nil, or_false] at hi
    rcases hi with rfl | rfl | rfl
    · rw [exec_destroy, if_pos (.inl hn)]
    · exact if_pos hn
    · exact if_pos hn
  · rw [exec_activate h, if_pos hf]
  · have he : exec (.activate c) s = .next (activated s c) := by
      rw [exec_activate h, if_neg]
      rintro (hx | hx)
      · exact Bool.false_ne_true (by rw [← hx]; exact (Option.isSome_eq_false_iff.mpr (Option.isNone_iff_eq_none.mpr hf)).symm)
      · exact Bool.false_ne_true (hx.symm.trans hb)
    refine ⟨_, he, Map.find?_put_self .., ?_, sameMemory_of_mem (State.touch_mem s none a), rfl, ?_⟩
    · change Map.get PhaseReg.reset (Map.set PhaseReg.reset (s.touch none a).phases c.toNat PhaseReg.reset) c.toNat = _
      exact Map.get_set_self ..
    · change (s.touch none a).ctl.ctxstat.seq + 1 = _
      rw [(onlyReads_touch s none a).ctl]

end Sys2Proof.Laws.Contexts
end


section
/-! The work queues (R75-R81, R85, R86, R88): doorbells behind the writes of their connection, queue commands, records, and when a grid is eligible. -/

namespace Sys2Proof.Laws.WorkQueues

open Sys2Proof Sys2Proof.Machine Sys2Proof.Laws.Rules Sys2Proof.Laws.LocalAccess Sys2Proof.Laws.Reading

variable {s s1 : State} {conn k : Nat} {j : LineJob}

/-! ## The writes that a doorbell stands behind (R81) -/

theorem writePart_jobs (s : State) (a : Nat) (bs : List Byte) :
    (s.writePart a bs).1.lineJobs = s.lineJobs ∧ (s.writePart a bs).1.mgmt = s.mgmt := by
  have hr := onlyReads_touch s none a
  have kept (s1 : State) (hj : s1.lineJobs = (s.touch none a).lineJobs) (hm : s1.mgmt = (s.touch none a).mgmt) :
      s1.lineJobs = s.lineJobs ∧ s1.mgmt = s.mgmt := ⟨hj.trans hr.lineJobs, hm.trans hr.mgmt⟩
  unfold State.writePart
  dsimp only
  split
  · split
    · exact kept _ rfl rfl
    · exact kept _ rfl rfl
  · exact kept _ rfl rfl

theorem who_beq_inl (w : Nat ⊕ Nat) (c : Nat) : (w == .inl c) = true ↔ w = .inl c := by
  cases w with
  | inl a =>
    change (a == c) = true ↔ _
    simp
  | inr a =>
    change false = true ↔ _
    simp

/-- A write request of a connection that still has lines. -/
def isWriteOf (conn : Nat) (j : LineJob) : Bool := j.write && j.who == .inl conn

/-- The lines that a request still takes. -/
def linesOf (j : LineJob) : Nat := max 1 ((j.addr % 128 + j.left + 127) / 128)

theorem linesOf_le (j : LineJob) : linesOf j ≤ j.left / 128 + 2 := by unfold linesOf; omega

/-- One line of a write: the request has ended, or it has a line less. -/
theorem line_write (hp : s.portsOpen = true) (hk : s.lineJobs[k]? = some j) (hj : isWriteOf conn j = true) :
    (s.line k).mgmt = s.mgmt ∧ ((s.line k).lineJobs = s.lineJobs.eraseIdx k ∨
      ∃ j', linesOf j' + 1 = linesOf j ∧ (s.line k).lineJobs = s.lineJobs.set k j') := by
  obtain ⟨hw, ho⟩ := Bool.and_eq_true_iff.mp hj
  have hwho : j.who = .inl conn := (who_beq_inl ..).mp ho
  have hlen := lineRest j.addr
  obtain ⟨hl, hm⟩ := writePart_jobs s j.addr (j.data.take (min (lineRest j.addr) j.left))
  unfold State.line
  rw [hk]
  dsimp only
  rw [hwho]
  simp only [hp, Bool.not_true, Bool.false_eq_true, if_false, hw, if_true]
  split
  · rename_i s2 he
    rw [he] at hl hm
    split
    · simp only [State.lineAnswer, hwho]
      exact ⟨hm, .inl (congrArg (List.eraseIdx · k) hl)⟩
    · refine ⟨hm, .inr ⟨_, ?_, congrArg (List.set · k _) hl⟩⟩
      simp only [linesOf, lineRest] at *
      omega
  · rename_i s2 he
    rw [he] at hl hm
    simp only [State.lineAnswer, hwho]
    exact ⟨hm, .inl (congrArg (List.eraseIdx · k) hl)⟩

/-- The lines that the writes of a connection still take. -/
def linesAhead (conn : Nat) (l : List LineJob) : Nat := ((l.filter (isWriteOf conn)).map linesOf).sum

theorem linesAhead_le (l : List LineJob) : linesAhead conn l ≤ ((l.filter (isWriteOf conn)).map fun j => j.left / 128 + 2).sum :=
  List.sum_le_sum fun j _ => linesOf_le j

theorem linesAhead_eraseIdx {l : List LineJob} (h : l[k]? = some j) (hj : isWriteOf conn j = true) :
    linesAhead conn (l.eraseIdx k) + linesOf j = linesAhead conn l := by
  induction l generalizing k with
  | nil => simp at h
  | cons x l ih =>
    cases k with
    | zero =>
      obtain rfl : x = j := by simpa using h
      simp [linesAhead, List.filter_cons, hj, Nat.add_comm]
    | succ k =>
      have := ih (k := k) (by simpa using h)
      by_cases hx : isWriteOf conn x = true
      · simp only [linesAhead, List.eraseIdx_cons_succ, List.filter_cons, hx, if_true, List.map_cons, List.sum_cons] at this ⊢
        omega
      · simpa only [linesAhead, List.eraseIdx_cons_succ, List.filter_cons, hx, Bool.false_eq_true, if_false] using this

theorem linesAhead_set {l : List LineJob} {j' : LineJob} (h : l[k]? = some j) (hj : isWriteOf conn j = true) :
    linesAhead conn (l.set k j') ≤ linesAhead conn (l.eraseIdx k) + linesOf j' := by
  induction l generalizing k with
  | nil => simp at h
  | cons x l ih =>
    cases k with
    | zero =>
      by_cases hx : isWriteOf conn j' = true <;> simp [linesAhead, List.filter_cons, hx] <;> omega
    | succ k =>
      have := ih (k := k) (by simpa using h)
      by_cases hx : isWriteOf conn x = true
      · simp only [linesAhead, List.eraseIdx_cons_succ, List.set_cons_succ, List.filter_cons, hx, if_true, List.map_cons, List.sum_cons] at this ⊢
        omega
      · simpa only [linesAhead, List.eraseIdx_cons_succ, List.set_cons_succ, List.filter_cons, hx, Bool.false_eq_true, if_false] using this

theorem line_ahead (hp : s.portsOpen = true) (hk : s.lineJobs[k]? = some j) (hj : isWriteOf conn j = true) :
    linesAhead conn (s.line k).lineJobs < linesAhead conn s.lineJobs := by
  have he := linesAhead_eraseIdx hk hj
  have h1 : 1 ≤ linesOf j := le_max_left ..
  rcases (line_write hp hk hj).2 with h | ⟨j', hj', h⟩
  · rw [h]
    omega
  · have := linesAhead_set (j' := j') hk hj
    rw [h]
    omega

theorem linesOut_none (fuel : Nat) (hp : s.portsOpen = true) (hf : linesAhead conn s.lineJobs ≤ fuel) :
    ∀ j ∈ (s.linesOut conn fuel).lineJobs, isWriteOf conn j = false := by
  induction fuel generalizing s with
  | zero =>
    intro j hj
    by_contra hn
    have hpos : linesOf j ≤ linesAhead conn s.lineJobs :=
      List.single_le_sum (by simp) _ (List.mem_map_of_mem (List.mem_filter.mpr ⟨hj, by simpa using hn⟩))
    have h1 : 1 ≤ linesOf j := le_max_left ..
    omega
  | succ fuel ih =>
    rw [State.linesOut]
    split
    · rename_i h
      simpa [isWriteOf] using List.findIdx?_eq_none_iff.mp h
    · rename_i k h
      obtain ⟨hlt, hj, _⟩ := List.findIdx?_eq_some_iff_getElem.mp h
      have hk := List.getElem?_eq_getElem hlt
      have ha := line_ahead hp hk hj
      refine ih ?_ (by omega)
      rw [State.portsOpen, (line_write hp hk hj).1]
      exact hp

theorem linesDone_none (hp : s.portsOpen = true) (conn : Nat) : ∀ j ∈ (s.linesDone conn).lineJobs, j.write = true → j.who ≠ Sum.inl conn := by
  intro j hj hw hc
  have hn := linesOut_none (s.linesLeft conn) hp (linesAhead_le s.lineJobs) j hj
  rw [isWriteOf, hw, Bool.true_and] at hn
  exact Bool.false_ne_true (hn.symm.trans ((who_beq_inl ..).mpr hc))

theorem linesDone_of_none (h : ∀ j ∈ s.lineJobs, j.write = true → j.who ≠ Sum.inl conn) : s.linesDone conn = s := by
  have hl : s.lineJobs.filter (fun j => j.write && j.who == .inl conn) = [] := by
    rw [List.filter_eq_nil_iff]
    intro j hj hw
    rw [Bool.and_eq_true, who_beq_inl] at hw
    exact h j hj hw.1 hw.2
  rw [State.linesDone, State.linesLeft, hl]
  rfl

/-! ## Queue commands and doorbells -/

section
variable {Q : Queue}

theorem ringBell_none {q : BitVec 14} (h : Map.find? s.queues q.toNat = none) (v : DWord) : s.ringBell q v = s := by simp only [State.ringBell, h]

theorem ringBell_some {q : BitVec 14} (h : Map.find? s.queues q.toNat = some Q) (v : DWord) : s.ringBell q v =
    (if (Q.tail + 2 ^ 32 - Q.head) % 2 ^ 32 ≤ (v.toNat % 2 ^ 32 + 2 ^ 32 - Q.head) % 2 ^ 32 then
      s.putQueue q.toNat { Q with tail := v.toNat % 2 ^ 32,
                                  qerr := if Q.qerr = 0 ∧ 2 ^ Q.qlog < (v.toNat % 2 ^ 32 + 2 ^ 32 - Q.head) % 2 ^ 32 then 2 else Q.qerr }
    else s).rereadCtx Q.ctx := by simp only [State.ringBell, h]

theorem exec_doorbell (q : BitVec 14) (c : BitVec 16) (v : DWord) (s : State) : exec (.doorbell ⟨q, c⟩ v) s =
    if s.portsOpen then .next ((s.linesDone c.toNat).ringBell q v) else .next s := rfl

theorem exec_bind {q : BitVec 14} {a : Nat} (ha : a = s.cfg.qtab + 64 * q.toNat) : exec (.bind q) s =
    if (s.lineFault a).isSome ∨ queueOk (s.bytes a 64) = false then .next ((s.touch none a).queueDone 2)
    else if (Map.find? s.queues q.toNat).isSome ∨ Map.find? s.ctxs (queueOf (s.bytes a 64)).ctx.toNat = none then
      .next ((s.touch none a).queueDone 1)
    else .next (((s.touch none a).putQueue q.toNat (queueOf (s.bytes a 64))).queueDone 0) := by
  subst ha
  have hr := onlyReads_touch s none (s.cfg.qtab + 64 * q.toNat)
  change execBind q s = _
  rw [execBind, State.queueAt]
  simp only [State.lineOpen, lineFault_touch, hr.queues, hr.ctxs, Bool.not_eq_true', Option.isNone_eq_false_iff, Option.isNone_iff_eq_none]

theorem exec_unbind (q : BitVec 14) (s : State) : exec (.unbind q) s =
    if (Map.find? s.queues q.toNat).isNone then .next (s.queueDone 1)
    else .next ({ s with queues := Map.erase s.queues q.toNat }.queueDone 0) := rfl

/-! ## Records (R79) -/

theorem nextRecord_addr {a : Nat} (h : s.nextRecord Q = some a) : a = Q.ringpa + 128 * (Q.head % 2 ^ Q.qlog) := by
  unfold State.nextRecord at h
  split at h
  · simp at h
  · exact (Option.some.inj h).symm

theorem consume_eq {q a : Nat} (hq : Map.find? s.queues q = some Q) (ha : s.nextRecord Q = some a) (ty : Nat)
    (f : State → Queue → List Byte → State) : s.consume q ty f =
      if ((s.touch none a).lineFault a).isSome ∨ recordOk (s.bytes a 128) Q.head = false then (s.touch none a).putQueue q { Q with qerr := 1 }
      else if fld (s.bytes a 128) 1 1 ≠ ty then s
      else f ((s.touch none a).putQueue q { Q with head := (Q.head + 1) % 2 ^ 32 }) { Q with head := (Q.head + 1) % 2 ^ 32 } (s.bytes a 128) := by
  have hb := (onlyReads_touch s none a).bytes a 128
  simp only [State.consume, hq, ha, hb, State.lineOpen, Bool.not_eq_true', Option.isNone_eq_false_iff]

section
variable {q : BitVec 14} {a : Nat} (hq : Map.find? s.queues q.toNat = some Q) (ha : s.nextRecord Q = some a)
include hq ha

theorem exec_record_bad (hb : ((s.touch none a).lineFault a).isSome ∨ recordOk (s.bytes a 128) Q.head = false) {i : Instr}
    (hi : i ∈ [Instr.nopRecord q, .launchRecord q, .signalRecord q]) :
    exec i s = .next ((s.touch none a).putQueue q.toNat { Q with qerr := 1 }) := by
  have hc (ty : Nat) (f : State → Queue → List Byte → State) :
      (.next (s.consume q.toNat ty f) : Res) = .next ((s.touch none a).putQueue q.toNat { Q with qerr := 1 }) := by
    rw [consume_eq hq ha, if_pos hb]
  simp only [List.mem_cons, List.not_mem_nil, or_false] at hi
  rcases hi with rfl | rfl | rfl
  · exact hc 0 _
  · exact hc 1 _
  · exact hc 2 _

theorem consume_taken {ty : Nat} (hl : (s.touch none a).lineFault a = none) (ho : recordOk (s.bytes a 128) Q.head = true)
    (ht : fld (s.bytes a 128) 1 1 = ty) (f : State → Queue → List Byte → State) :
    s.consume q.toNat ty f =
      f ((s.touch none a).putQueue q.toNat { Q with head := (Q.head + 1) % 2 ^ 32 }) { Q with head := (Q.head + 1) % 2 ^ 32 } (s.bytes a 128) := by
  rw [consume_eq hq ha, if_neg (by simp [hl, ho]), if_neg (by simp [ht])]

end
end

/-- Where the launch of a record comes from (R80). -/
def recordSource (s : State) (q : BitVec 14) (Q : Queue) (bs : List Byte) : Source :=
  { pcap := Q.pcap, depth := 0, d0 := q.toNat % 4, host := true, who := q.toNat, parent := none, queue := some q.toNat,
    serialOn := if flag (fld bs 4 4) 2 then Map.find? s.lastLaunch q.toNat else none,
    tfire := if flag (fld bs 4 4) 0 then some (BitVec.ofNat 64 (fld bs 0x10 8)) else none,
    notify := if flag (fld bs 4 4) 1 then some (BitVec.ofNat 64 (fld bs 0x18 8), BitVec.ofNat 64 (fld bs 0x20 8), Q.nqp) else none }

/-- The state in which the launch of a record has just been accepted. -/
def accepted (s : State) (q : BitVec 14) (Q : Queue) (bs raw : List Byte) (d : Desc) (i : Image) : State :=
  let r := s.acceptGrid Q.ctx raw d i (recordSource s q Q bs)
  { r.1 with lastLaunch := Map.put r.1.lastLaunch q.toNat r.2 }

/-! ## Eligibility (R85, R86, R89) -/

theorem ripe_iff (g : Grid) : s.ripe g = true ↔ (∀ m ∈ g.met, m = true) ∧ (∀ x, g.tfire = some x → x.toNat ≤ s.dtime.toNat) ∧
    (∀ p, g.serialOn = some p → Map.find? s.grids p = none) ∧ (Map.find? s.ctxs g.ctx.toNat).isSome := by
  have hf : (match g.tfire with | some t => t.ule s.dtime | none => true) = true ↔ ∀ x, g.tfire = some x → x.toNat ≤ s.dtime.toNat := by
    cases g.tfire <;> simp [BitVec.ule]
  have hs : (match g.serialOn with | some k => (Map.find? s.grids k).isNone | none => true) = true ↔
      ∀ p, g.serialOn = some p → Map.find? s.grids p = none := by
    cases g.serialOn <;> simp
  unfold State.ripe
  rw [Bool.and_eq_true, Bool.and_eq_true, Bool.and_eq_true, and_assoc, and_assoc]
  exact and_congr (by simp) (and_congr hf (and_congr hs Iff.rfl))

/-- Settles O37: the doorbell behind the writes before it, the next record by its type, and the moments at which a pending grid is read again. -/
theorem workQueueEvents : Obligations.WorkQueueEvents := by
  refine ⟨fun s q c v => ?_, fun s q Q a => ?_, fun s k g hg => ?_⟩
  · intro go sD
    refine ⟨fun hp => (exec_doorbell q c v s).trans (if_neg (by simp [hp])), fun hp => ⟨linesDone_none hp _, linesDone_of_none, ?_⟩⟩
    have hgo : go = .next (sD.ringBell q v) := (exec_doorbell q c v s).trans (if_pos hp)
    refine ⟨fun hn => by rw [hgo, ringBell_none hn], fun Q hQ => ?_⟩
    intro m far
    rw [hgo, ringBell_some hQ]
    refine ⟨fun h1 h2 => ?_, fun h1 h2 h0 => ?_, fun h1 => ?_⟩
    · rw [if_pos h1, if_neg fun h => Nat.not_lt.mpr h2 h.2]
    · rw [if_pos h1, if_pos ⟨h0, h2⟩]
    · rw [if_neg (Nat.not_le.mpr h1)]
  · intro n at0 entry sB
    have readable (hl : s.lineFault at0 = none) (ho : queueOk entry = true) : ¬((s.lineFault at0).isSome = true ∨ queueOk entry = false) := by
      simp [hl, ho]
    refine ⟨fun h => ?_, fun hl ho => ⟨fun h => ?_, fun hq hc => ?_⟩, fun hq => ?_, fun hq => ⟨?_, fun ha => ?_⟩⟩
    · exact (exec_bind rfl).trans (if_pos h)
    · exact (exec_bind rfl).trans ((if_neg (readable hl ho)).trans (if_pos h))
    · refine (exec_bind rfl).trans ((if_neg (readable hl ho)).trans (if_neg ?_))
      rintro (h | h)
      · rw [show Map.find? s.queues q.toNat = none from hq] at h
        exact Bool.false_ne_true h
      · rw [h] at hc
        exact Bool.false_ne_true hc
    · exact if_pos (Option.isNone_iff_eq_none.mpr hq)
    · refine if_neg ?_
      rw [show Map.find? s.queues q.toNat = some Q from hq]
      exact Bool.false_ne_true
    · intro bs s0 taken
      refine ⟨nextRecord_addr ha, fun hb i hi => exec_record_bad hq ha hb hi, fun hl ho => ⟨fun ht => ?_, fun ht => ?_, fun ht => ⟨?_, ?_⟩⟩⟩
      · exact congrArg Host.Outcome.next (consume_taken hq ha hl ho ht _)
      · exact congrArg Host.Outcome.next (consume_taken hq ha hl ho ht _)
      · intro s1 raw st hj hf
        refine congrArg Host.Outcome.next ((consume_taken hq ha hl ho ht _).trans ?_)
        dsimp only
        rw [hj, if_neg fun h => Bool.false_ne_true (hf.symm.trans h)]
        rfl
      · intro s1 raw d i hj
        have he : exec (.launchRecord q) s = .next ((accepted s1 q Q bs raw d i).rereadGrid s1.gridCtr) := by
          refine congrArg Host.Outcome.next ((consume_taken hq ha hl ho ht _).trans ?_)
          dsimp only
          rw [hj]
          rfl
        obtain ⟨m, r, e, hg⟩ := rereadGrid_find (s := accepted s1 q Q bs raw d i) (k := s1.gridCtr) (Map.find?_put_self ..)
        exact ⟨_, _, he, hg, rfl, rfl, rfl, rfl, rfl, rfl⟩
  · have htimer : exec (.waitRereadTimer k) s = if g.reread + 10000 * Config.ticksPerNs ≤ s.clock then .next (s.rereadGrid k) else .next s := by
      change execWaitRereadTimer k s = _
      simp only [execWaitRereadTimer, hg]
    have htest : exec (.tfireReached k) s =
        .next (if !g.eligible && s.ripe g then s.modGrid k fun g => { g with eligible := true } else s) := by
      change Host.Outcome.next (s.testEligible k) = _
      simp only [State.testEligible, hg]
    refine ⟨fun h => htimer.trans (if_pos h), fun h => htimer.trans (if_neg (Nat.not_le.mpr h)), fun h => ?_, fun h hr => ?_, ripe_iff g⟩
    · rw [htest, h]
      rfl
    · rw [htest, h, hr]
      rfl

end Sys2Proof.Laws.WorkQueues
end


section
/-! Placement (R93-R96, R121-R123, R132-R136, R475-R477): the placement unit, its time limits, staging, saving and resumption. -/

namespace Sys2Proof.Laws.Placement

open Sys2Proof Sys2Proof.Machine Sys2Proof.Laws.Rules Sys2Proof.Laws.Reading

/-! ## What the wave former leaves of the teams (R222, R223) -/

/-- Every team of `s` is a team of `s'`, with other threads at most. -/
structure KeepsTeams (s s' : State) : Prop where
  same : ∀ t T, s.team? t = some T → ∃ l, s'.team? t = some { T with threads := l }

section
variable {s s1 s2 : State} {t tid c p : Nat} {T : Team}

theorem KeepsTeams.of_teams (h : s1.teams = s.teams) : KeepsTeams s s1 :=
  ⟨fun t T ht => ⟨T.threads, by rw [State.team?, h]; exact ht⟩⟩

theorem KeepsTeams.trans (h : KeepsTeams s s1) (h' : KeepsTeams s1 s2) : KeepsTeams s s2 := by
  refine ⟨fun t T ht => ?_⟩
  obtain ⟨l, hl⟩ := h.same t T ht
  obtain ⟨l', hl'⟩ := h'.same t _ hl
  exact ⟨l', hl'⟩

theorem keepsTeams_foldl {α : Type} {f : State → α → State} (h : ∀ s x, KeepsTeams s (f s x)) (xs : List α) (s : State) :
    KeepsTeams s (xs.foldl f s) := by
  induction xs generalizing s with
  | nil => exact .of_teams rfl
  | cons x xs ih => exact (h s x).trans (ih _)

theorem keepsTeams_setThread (ht : s.team? t = some T) (th : Thread) : KeepsTeams s (s.setThread t T tid th) := by
  refine ⟨fun u U hu => ?_⟩
  by_cases h : u = t
  · subst h
    obtain rfl := Option.some.inj (ht.symm.trans hu)
    exact ⟨_, State.team?_setThread ..⟩
  · exact ⟨U.threads, by rw [State.team?_setThread_ne _ _ _ _ h]; exact hu⟩

theorem putLine_teams (s : State) (a : Nat) (bs : List Byte) : (s.putLine a bs).teams = s.teams := rfl

theorem putRecord_teams (s : State) (j tid : Nat) (ps : List Piece) : (s.putRecord j tid ps).teams = s.teams := by
  unfold State.putRecord
  dsimp only
  split
  · rfl
  · rw [putLine_teams, putLine_teams, (onlyReads_touchAll ..).teams]

theorem keepsTeams_spillThread (s : State) (t tid : Nat) : KeepsTeams s (s.spillThread t tid) := by
  unfold State.spillThread
  split
  · exact .of_teams rfl
  · rename_i T ht
    split
    · exact .of_teams rfl
    · dsimp only
      split
      · exact keepsTeams_setThread ht _
      · exact (keepsTeams_setThread ht _).trans (.of_teams (putRecord_teams ..))

theorem keepsTeams_spillOldest (s : State) (c p : Nat) : KeepsTeams s (s.spillOldest c p) := by
  unfold State.spillOldest
  dsimp only
  split
  · exact .of_teams rfl
  · split
    · exact .of_teams rfl
    · rename_i g _
      exact KeepsTeams.trans (s1 := s.setPart c p _) (.of_teams rfl) (keepsTeams_foldl (fun s u => keepsTeams_spillThread s g.team u) _ _)

theorem keepsTeams_formerOne (s : State) (c p t : Nat) (pos : Pos) (joined : Bool) (tid : Nat) : KeepsTeams s (s.formerOne c p t pos joined tid) := by
  unfold State.formerOne
  dsimp only
  split
  · exact .of_teams rfl
  · split
    · exact .of_teams rfl
    · exact (keepsTeams_spillOldest s c p).trans (.of_teams rfl)

theorem keepsTeams_formerAdd (s : State) (T : Team) (t : Nat) (tids : List Nat) (pos : Pos) (part : Nat) (joined : Bool) :
    KeepsTeams s (s.formerAdd T t tids pos part joined) := by
  unfold State.formerAdd
  split
  · exact .of_teams rfl
  · exact keepsTeams_foldl (fun s u => keepsTeams_formerOne s ..) _ _

theorem foldl_enterFormer_rest (ids : List Nat) (T : Team) :
    ∃ l, ids.foldl (fun T i => T.modThread i fun th => th.enterFormer th.pos) T = { T with threads := l } := by
  induction ids generalizing T with
  | nil => exact ⟨T.threads, rfl⟩
  | cons i ids ih => exact ih (T.modThread i fun th => th.enterFormer th.pos)

theorem keepsTeams_enterAll (s : State) (t : Nat) (but : List Nat) : KeepsTeams s (s.enterAll t but) := by
  unfold State.enterAll
  split
  · exact .of_teams rfl
  · rename_i T ht
    dsimp only
    refine KeepsTeams.trans (s1 := s.setTeam t _) ⟨fun u U hu => ?_⟩
      (keepsTeams_foldl (fun s pp => keepsTeams_foldl (fun s g => keepsTeams_formerAdd ..) _ _) _ _)
    by_cases h : u = t
    · subst h
      obtain rfl := Option.some.inj (ht.symm.trans hu)
      obtain ⟨l, hl⟩ := foldl_enterFormer_rest (T.readyTids.filter fun i => !but.contains i) T
      exact ⟨l, by rw [State.team?_setTeam, hl]⟩
    · exact ⟨U.threads, by rw [State.team?_setTeam_ne _ _ h]; exact hu⟩

/-! ## A team that is placed without regions to stage -/

theorem modBanks_teams (ks : List Nat) (f : Bank → Bank) (s : State) : (ks.foldl (fun s k => s.modBank k f) s).teams = s.teams := by
  induction ks generalizing s with
  | nil => rfl
  | cons k ks ih => exact ih _

theorem wakeRegions_team? (s : State) (t u : Nat) : (s.wakeRegions t).team? u = s.team? u := by
  unfold State.wakeRegions
  split
  · rfl
  · rw [State.team?, modBanks_teams, (onlyReads_touchAll ..).teams, State.team?]

/-- Such a team runs. -/
theorem bringUp_running {d : Desc} (ht : s.team? t = some T) (hr : d.regions = []) (hp : T.phase = .staging) (he : T.eng = []) (hg : T.gang = none) :
    ∃ l, (s.bringUp t d).team? t =
      some { T with threads := l, steer := { T.steer with left := (s.wakeRegions t).point T }, phase := .running } := by
  have h1 : (s.wakeRegions t).team? t = some T := (wakeRegions_team? ..).trans ht
  have hb : s.bringUp t d = (s.wakeRegions t).startTeam t := by
    simp only [State.bringUp, hr, List.length_nil, span, List.zip_nil_left, List.filter_nil, List.foldl_nil, State.afterStage, h1, hp, hg,
      Team.beforeDone, he, List.all_nil, Bool.not_true, Bool.false_eq_true, ne_eq, not_true_eq_false, or_self, if_false]
  have hm : ((s.wakeRegions t).modTeam t fun T => { (s.wakeRegions t).acquireAll T with phase := .running }).team? t =
      some { (s.wakeRegions t).acquireAll T with phase := .running } := by rw [team?_modTeam, h1]; rfl
  obtain ⟨l, hl⟩ := (keepsTeams_enterAll _ t []).same t _ hm
  refine ⟨l, ?_⟩
  rw [hb, State.startTeam, hl]
  simp only [State.acquireAll, he, List.map_nil]

/-! ## Time limits of waiting teams -/

/-- A candidate has waited for some microseconds since it fitted nowhere. -/
def waited (s : State) (e : Nat) (c : Cand) (us : Nat) : Prop := ∃ y ∈ (s.die e).waits, y.1 = c ∧ y.2 + usTicks us ≤ s.clock

theorem any_waits (s : State) (e us : Nat) (c : Cand) :
    ((s.die e).waits.any fun x => x.1 == c && decide (x.2 + usTicks us ≤ s.clock)) = true ↔ waited s e c us := by
  simp [waited]

theorem die_setDie (s : State) (e : Nat) (d : Die) : (s.setDie e d).die e = d := Map.get_set_self ..

theorem longWait_iff (s : State) (e : Nat) (c : Cand) : s.longWait e c = true ↔ waited s e c 20 := any_waits s e 20 c

variable {e : Nat}

theorem no_longWait (h : ∀ x ∈ s.waiting e, ¬waited s e x.cand 20) : (s.waiting e).filter (fun w => s.longWait e w.cand) = [] := by
  rw [List.filter_eq_nil_iff]
  exact fun w hw hl => h w hw ((longWait_iff ..).mp hl)

theorem no_longRefused (h : ∀ r ∈ s.refused, s.clock < r.since + usTicks 20) : s.longRefused = [] := by
  have hn : s.refused.filter (fun r => decide (r.since + usTicks 20 ≤ s.clock) && (Map.find? s.ctxs r.req.ctx.toNat).isSome) = [] := by
    rw [List.filter_eq_nil_iff]
    intro r hr hl
    have := h r hr
    simp only [Bool.and_eq_true, decide_eq_true_eq] at hl
    omega
  rw [State.longRefused, hn]
  rfl

theorem exec_preemptTimeout (d : BitVec 2) (s : State) : exec (.preemptTimeout d) s =
    .next (s.longRefused.foldl (fun s r => s.preempt d.toNat r.1.prio r.2)
      (((s.waiting d.toNat).filter fun w => s.longWait d.toNat w.cand).foldl (fun s w => s.preempt d.toNat w.prio w.demand) s)) := rfl

theorem longRefused_one {r : Refused} (hr : s.refused = [r]) (ht : r.since + usTicks 20 ≤ s.clock) (hc : (Map.find? s.ctxs r.req.ctx.toNat).isSome) :
    s.longRefused = ((s.needs r.req).map fun d => (r.req, d)).toList := by
  simp only [State.longRefused, hr, List.filter_cons, ht, hc, decide_true, Bool.and_self, if_true, List.filter_nil, List.filterMap_cons, List.filterMap_nil]
  cases s.needs r.req <;> rfl

theorem exec_waitchSaveTimeout (d : BitVec 2) (s : State) : exec (.waitchSaveTimeout d) s =
    match (s.longPending d.toNat).findSome? fun w => List.find? (fun t => s.waitchSave d.toNat w t) s.teams with
    | some t => .next ((s.startSaves t.1).modTeam t.1 fun T => { T with inWaitch := true })
    | none => .next s := rfl

/-! ## The first team of its rank -/

theorem placeFrom_fits {w : Wait} {ws : List Wait} {f : Fit} {head : Bool} (h : s.choose e w head = some f) (hp : s.placeAt e w f = some s1) :
    s.placeFrom e head (w :: ws) = s1 := by
  simp only [State.placeFrom, h, hp]

/-- A candidate that has been placed waits no longer. -/
def settled (s : State) (e : Nat) (c : Cand) : State :=
  s.setDie e ⟨(s.die e).waits.filter fun x => decide (x.1 ≠ c), (s.die e).blocked.filter fun x => decide (x ≠ c)⟩

/-- The placement of a fresh team whose block and save slot are free. -/
theorem placeAt_fresh {w : Wait} {f : Fit} {k i : Nat} {g : Grid} {blk : Option Nat} {j : Nat} (hc : w.cand = .fresh k i)
    (hg : Map.find? s.grids k = some g) (hb : s.takeBlock g.ctx g.desc.priv = some blk) (hj : s.takeSlot = some j) (hr : g.desc.regions = []) :
    ∃ s' T', s.placeAt e w f = some s' ∧ s'.team? s.teamCtr = some T' ∧ T'.place = .resident f.core f.slot ∧ T'.ctx = g.ctx ∧ T'.index = i ∧
      T'.phase = .running ∧ T'.pblk = blk ∧ T'.sslot = some j := by
  let s1 : State := (({ s with teams := Map.put s.teams s.teamCtr (g.team k i g.ctx f none blk (some j) s.clock), teamCtr := s.teamCtr + 1 } : State).modGrid k
      fun g => { g with live := g.live + 1 }).modGrid k fun g => { g with next := g.next.modify e (· + 4) }
  have hT : s1.team? s.teamCtr = some (g.team k i g.ctx f none blk (some j) s.clock) := Map.find?_put_self ..
  obtain ⟨l, hl⟩ := bringUp_running hT hr rfl rfl rfl
  have he : s.placeAt e w f = some (settled (s1.bringUp s.teamCtr g.desc) e w.cand) := by
    simp only [State.placeAt, hc, hg, State.reserve, hb, hj, Option.map_some]
    rfl
  exact ⟨_, _, he, hl, rfl, rfl, rfl, rfl, rfl, rfl⟩

/-! ## Saving and staging -/

theorem exec_saveComplete_not (ht : s.team? t = some T) (h : s.saveDrained t T = false) : exec (.saveComplete t) s = .next s := by
  change execSaveComplete t s = _
  simp only [execSaveComplete, ht, h, Bool.not_false, if_true]

theorem exec_saveComplete (ht : s.team? t = some T) (h : s.saveDrained t T = true) : exec (.saveComplete t) s =
    .next (if (if T.gang.isSome then s.saveStep T.gridNo else s).mayWrite T then (if T.gang.isSome then s.saveStep T.gridNo else s).saveNow t T
      else (if T.gang.isSome then s.saveStep T.gridNo else s)) := by
  change execSaveComplete t s = _
  simp only [execSaveComplete, ht, h, Bool.not_true, Bool.false_eq_true, if_false]

theorem mayWrite_alone (h : T.gang = none) (s : State) : s.mayWrite T = true := by simp [State.mayWrite, h]

theorem mayWrite_iff (h : T.gang.isSome) (s : State) : s.mayWrite T = true ↔ ∀ g, Map.find? s.grids T.grid = some g → g.saveGo = true := by
  have hn : T.gang.isNone = false := by rw [← Option.not_isSome, h]; rfl
  rw [State.mayWrite, hn, Bool.false_or]
  cases Map.find? s.grids T.grid <;> simp

theorem exec_stageLineLand {i u r va so n : Nat} {b : Bool} {y : Eng} (ht : s.team? t = some T) (hy : Map.find? T.eng i = some y)
    (hc : y.cmd = .stage r b va so n) (hs : T.staging = true) (hw : y.wants u n = true) (hh : T.stageHead = some i) :
    exec (.stageLineLand t i u) s = match s.streamRead T true (0, 0) (BitVec.ofNat 64 (va + 128 * u)) with
      | (s1, .inl bs) => .next (s1.stageLand t i so n u bs)
      | (s1, .inr (some f)) => .next (s1.unitFault t i y u f)
      | (s1, .inr none) => .next s1 := by
  change execStageLineLand t i u s = _
  simp only [execStageLineLand, ht, hy, hc, hs, hw, hh, beq_self_eq_true, Bool.and_self, if_true] <;> rfl

end

/-- Settles O42: each event by its equation; the waits of an engine by who is chosen, blocked and waiting. -/
theorem placementEvents : Obligations.PlacementEvents := by
  intro s e t i u T w ws f k idx g d long
  refine ⟨rfl, ⟨_, rfl, ?_⟩, fun hw hr => ?_, fun hr hs hl => ?_, fun r hr hw ht hc => ?_, fun hw => ?_, fun hw => ?_, fun ht => ?_⟩
  · refine ⟨by rw [die_setDie], fun j hj => Map.get_set_ne _ _ _ hj, fun _ => rfl, rfl, fun c => ?_⟩
    rw [die_setDie, List.mem_append, List.mem_filter, Bool.and_eq_true, any_waits, Bool.not_eq_true', ← Bool.not_eq_true, List.contains_iff_mem]
    exact ⟨fun h => h.imp id fun h => ⟨h.1, h.2.2⟩, fun h => or_iff_not_imp_left.mpr fun hn => ⟨(h.resolve_left hn).1, hn, (h.resolve_left hn).2⟩⟩
  · rw [exec_preemptTimeout, no_longWait hw, no_longRefused hr]
    rfl
  · rw [exec_preemptTimeout, no_longRefused (by simp [hr]), hs, List.filter_cons, if_pos ((longWait_iff ..).mpr hl)]
    rfl
  · refine ⟨fun need hn => ?_, fun hn => ?_⟩
    · rw [exec_preemptTimeout, no_longWait hw, longRefused_one hr ht hc, hn]
      rfl
    · rw [exec_preemptTimeout, no_longWait hw, longRefused_one hr ht hc, hn]
      rfl
  · change Host.Outcome.next (s.placeFrom e.toNat true (s.waiting e.toNat)) = _
    rw [hw]
    rfl
  · refine ⟨fun hc hg hch blk j hb hj hreg => ?_, fun hn hr => ?_, fun h1 hl hk one rest hts hcore hst hph hkill hdesc hfit0 hfit1 => ?_⟩
    · obtain ⟨s', T', hp, hT'⟩ := placeAt_fresh (e := e.toNat) (f := f) hc hg hb hj hreg
      refine ⟨s', T', ?_, hT'⟩
      change Host.Outcome.next (s.placeFrom e.toNat true (s.waiting e.toNat)) = _
      rw [hw, placeFrom_fits hch hp]
    · rw [exec_waitchSaveTimeout, State.longPending, no_longWait (hw ▸ hn), no_longRefused hr]
      rfl
    · have hp : s.longPending e.toNat = [(k, w.demand)] ++ s.longRefused.filterMap fun r => (s.gangOfNo r.1.grid).map fun g => (g.1, r.2) := by
        rw [State.longPending, hw, h1, List.filter_cons, if_pos ((longWait_iff ..).mpr hl)]
        simp [hk]
      have hs : s.waitchSave e.toNat (k, w.demand) (t, T) = true := by
        simp [State.waitchSave, hcore, hst, hph, hkill, hdesc, hfit0, hfit1]
      rw [exec_waitchSaveTimeout, hp, hts]
      simp only [List.singleton_append, List.findSome?_cons, List.find?_cons, hs]
  · refine ⟨fun hn => exec_saveComplete_not ht ?_, fun hph hco hdr hla => ?_, rfl, rfl, fun hm => ?_, fun G hG hm => ?_,
      fun y r b va so n bs hy hc hs hw hh => ⟨fun s1 hr => ?_, fun s1 x hr hu => ?_⟩⟩
    · rw [State.saveDrained]
      rcases hn with h | h | h | h <;> simp [h]
    · have hd : s.saveDrained t T = true := by simp [State.saveDrained, hph, hco, hdr, hla]
      intro done
      refine ⟨fun hg => ?_, fun hg => ?_⟩
      · rw [exec_saveComplete ht hd, hg]
        exact congrArg _ (if_pos (mayWrite_alone hg s)) |>.trans (by simp [State.saveNow, hg, done])
      · intro s1
        refine ⟨fun hm => ?_, fun hm => ?_, mayWrite_iff hg s1⟩
        · rw [exec_saveComplete ht hd, hg]
          exact congrArg _ (if_neg (by simp [s1] at hm; simp [hm]))
        · rw [exec_saveComplete ht hd, hg]
          exact congrArg _ ((if_pos hm).trans (by simp [State.saveNow, hg, done]; rfl))
    · change execTeamResume t s = _
      simp only [execTeamResume, ht, hm, Bool.false_and, Bool.false_eq_true, if_false]
    · intro home s1 hT1
      obtain ⟨T1, h1, hc⟩ := hT1
      change execTeamResume t s = _
      simp only [execTeamResume, ht, hG, hm, Bool.true_and]
      exact congrArg _ (if_pos (by rw [show State.team? _ t = some T1 from h1, Option.map_some, hc]; rfl))
    · rw [exec_stageLineLand ht hy hc hs hw hh, hr]
    · rw [exec_stageLineLand ht hy hc hs hw hh, hr]
      exact congrArg _ (if_pos hu)

end Sys2Proof.Laws.Placement
end


section
/-! Gangs (R137-R147, R478): the coordinator's rounds, a member's broker, breaks and notices. -/

namespace Sys2Proof.Laws.Gangs

open Sys2Proof Sys2Proof.Machine Sys2Proof.Laws.Rules Sys2Proof.Laws.Reading Sys2Proof.Laws.SteerServices Sys2Proof.Laws.Placement

/-! ## What the wave former changes beside the teams (R222-R225) -/

/-- At most memory, what it remembers, the banks' queues, the teams and the scheduler partitions have changed. -/
structure FormsWaves (s s' : State) : Prop where
  rest : ∃ mem old past ctr poison banks held teams cores,
    s' = { s with mem := mem, oldCode := old, past := past, pastCtr := ctr, poison := poison, banks := banks, held := held, teams := teams, cores := cores }

section
variable {s s1 s2 : State}

theorem FormsWaves.refl (s : State) : FormsWaves s s := ⟨_, _, _, _, _, _, _, _, _, rfl⟩

theorem FormsWaves.trans (h : FormsWaves s s1) (h' : FormsWaves s1 s2) : FormsWaves s s2 := by
  obtain ⟨_, _, _, _, _, _, _, _, _, rfl⟩ := h
  obtain ⟨_, _, _, _, _, _, _, _, _, rfl⟩ := h'
  exact ⟨_, _, _, _, _, _, _, _, _, rfl⟩

theorem FormsWaves.resvs (h : FormsWaves s s1) : s1.resvs = s.resvs := by
  obtain ⟨_, _, _, _, _, _, _, _, _, rfl⟩ := h
  rfl

theorem formsWaves_foldl {α : Type} {f : State → α → State} (h : ∀ s x, FormsWaves s (f s x)) (xs : List α) (s : State) :
    FormsWaves s (xs.foldl f s) := by
  induction xs generalizing s with
  | nil => exact .refl s
  | cons x xs ih => exact (h s x).trans (ih _)

theorem formsWaves_setTeam (s : State) (t : Nat) (T : Team) : FormsWaves s (s.setTeam t T) := ⟨_, _, _, _, _, _, _, _, _, rfl⟩

theorem formsWaves_setPart (s : State) (c p : Nat) (x : Part) : FormsWaves s (s.setPart c p x) := ⟨_, _, _, _, _, _, _, _, _, rfl⟩

theorem formsWaves_putLine (s : State) (a : Nat) (bs : List Byte) : FormsWaves s (s.putLine a bs) := ⟨_, _, _, _, _, _, _, _, _, rfl⟩

theorem formsWaves_touch (s : State) (c : Option CtxId) (pa : Nat) : FormsWaves s (s.touch c pa) := by
  unfold State.touch
  dsimp only
  split
  · exact .refl s
  · split
    · exact ⟨_, _, _, _, _, _, _, _, _, rfl⟩
    · split <;> exact ⟨_, _, _, _, _, _, _, _, _, rfl⟩

theorem formsWaves_putRecord (s : State) (j tid : Nat) (ps : List Piece) : FormsWaves s (s.putRecord j tid ps) := by
  unfold State.putRecord
  dsimp only
  split
  · exact .refl s
  · exact ((formsWaves_foldl (fun s a => formsWaves_touch s none a) _ s).trans (formsWaves_putLine ..)).trans (formsWaves_putLine ..)

theorem formsWaves_spillThread (s : State) (t tid : Nat) : FormsWaves s (s.spillThread t tid) := by
  unfold State.spillThread
  split
  · exact .refl s
  · split
    · exact .refl s
    · dsimp only
      split
      · exact formsWaves_setTeam ..
      · exact (formsWaves_setTeam ..).trans (formsWaves_putRecord ..)

theorem formsWaves_spillOldest (s : State) (c p : Nat) : FormsWaves s (s.spillOldest c p) := by
  unfold State.spillOldest
  dsimp only
  split
  · exact .refl s
  · split
    · exact .refl s
    · rename_i g _
      exact (formsWaves_setPart ..).trans (formsWaves_foldl (fun s u => formsWaves_spillThread s g.team u) _ _)

theorem formsWaves_formerOne (s : State) (c p t : Nat) (pos : Pos) (joined : Bool) (tid : Nat) : FormsWaves s (s.formerOne c p t pos joined tid) := by
  unfold State.formerOne
  dsimp only
  split
  · exact formsWaves_setPart ..
  · split
    · exact formsWaves_setPart ..
    · exact (formsWaves_spillOldest s c p).trans (formsWaves_setPart ..)

theorem formsWaves_formerAdd (s : State) (T : Team) (t : Nat) (tids : List Nat) (pos : Pos) (part : Nat) (joined : Bool) :
    FormsWaves s (s.formerAdd T t tids pos part joined) := by
  unfold State.formerAdd
  split
  · exact .refl s
  · exact formsWaves_foldl (fun s u => formsWaves_formerOne s ..) _ _

theorem formsWaves_enterAll (s : State) (t : Nat) (but : List Nat) : FormsWaves s (s.enterAll t but) := by
  unfold State.enterAll
  split
  · exact .refl s
  · exact (formsWaves_setTeam ..).trans (formsWaves_foldl (fun s pp => formsWaves_foldl (fun s g => formsWaves_formerAdd ..) _ _) _ _)

theorem formsWaves_modTeam (s : State) (t : Nat) (f : Team → Team) : FormsWaves s (s.modTeam t f) := ⟨_, _, _, _, _, _, _, _, _, rfl⟩

theorem startTeam_resvs (s : State) (t : Nat) : (s.startTeam t).resvs = s.resvs :=
  ((formsWaves_modTeam ..).trans (formsWaves_enterAll ..)).resvs

theorem startTeam_team? {t : Nat} {T : Team} (h : s.team? t = some T) :
    ∃ T', (s.startTeam t).team? t = some T' ∧ T'.phase = .running ∧ T'.mheld = T.mheld := by
  have hm : (s.modTeam t fun T => { s.acquireAll T with phase := .running }).team? t = some { s.acquireAll T with phase := .running } := by
    rw [team?_modTeam, h]
    rfl
  obtain ⟨l, hl⟩ := (keepsTeams_enterAll _ t []).same t _ hm
  exact ⟨_, hl, rfl, rfl⟩

end

/-! ## The coordinator's rounds -/

section
variable {s : State} {k m since : Nat} {g : Grid} {no : Word} {got : List Nat}

theorem exec_gangRound (hg : Map.find? s.grids k = some g) : exec (.gangRound k) s =
    if g.desc.gang && g.eligible && g.coord == s.cfg.aid && g.gang == .idle && (span 0 g.desc.nteam).any g.wants then .next (s.startRound k g)
    else .next s := by
  change execGangRound k s = _
  rw [execGangRound, hg]

theorem exec_gangRoundTimeout (hg : Map.find? s.grids k = some g) (hr : g.gang = .round since got) : exec (.gangRoundTimeout k) s =
    if since + usTicks 50 ≤ s.clock then .next (s.failRound k g) else .next s := by
  change execGangRoundTimeout k s = _
  simp only [execGangRoundTimeout, hg, hr]

theorem exec_gangRetry_freed {a : Aid} (hg : Map.find? s.grids k = some g) (hr : g.gang = .failed since) : exec (.gangRetry ⟨k, some a⟩) s =
    if g.peers.any fun p => p.2 == a then .next (s.startRound k g) else .next s := by
  change execGangRetry ⟨k, some a⟩ s = _
  simp only [execGangRetry, hg, hr]

theorem exec_gangRetry_late (hg : Map.find? s.grids k = some g) (hr : g.gang = .failed since) : exec (.gangRetry ⟨k, none⟩) s =
    if since + usTicks 100 ≤ s.clock then .next (s.startRound k g) else .next s := by
  change execGangRetry ⟨k, none⟩ s = _
  simp only [execGangRetry, hg, hr, decide_eq_true_eq]

/-- The members that have been granted when one more answer has come. -/
def granted (got : List Nat) (m : Nat) : List Nat := if got.contains m then got else got ++ [m]

theorem granted_contains (got : List Nat) (m n : Nat) : (granted got m).contains n = true ↔ n = m ∨ n ∈ got := by
  unfold granted
  split
  case isTrue h =>
    rw [List.contains_iff_mem] at h ⊢
    exact ⟨.inr, fun h' => h'.elim (fun e => e ▸ h) id⟩
  case isFalse h => simp [or_comm]

theorem exec_gangReservationAnswer (ho : s.ownGang no = some (k, g)) (hr : g.gang = .round since got) (ok : Bool) :
    exec (.gangReservationAnswer no m ok) s =
      if !ok || decide (since + usTicks 50 < s.clock) then .next (s.failRound k g)
      else if g.peers.all fun p => (granted got m).contains p.1 then
        .next (g.brokers.foldl (fun s a => s.post a (.gangCommit a no) (.gangCommit no))
          (s.modGrid k fun g => { g with gang := .committed s.clock [], failing := none, drained := [], saveGo := false, savedAt := [], allSaved := false,
                                          owing := (g.owing ++ (g.brokers.filter (fun a => a != s.cfg.aid))).eraseDups }))
      else .next (s.modGrid k fun g => { g with gang := .round since (granted got m) }) := by
  change execGangReservationAnswer no m ok s = _
  simp only [execGangReservationAnswer, ho, hr] <;> rfl

end

/-! ## A member's broker -/

section
variable {s : State} {r : GangReq} {no : Word} {m : Nat} {x : Resv}

/-- The answer of a broker to a request. -/
def answered (s : State) (r : GangReq) (ok : Bool) : State :=
  s.post r.coord (.gangAnswer r.coord r.grid r.member ok) (.gangReservationAnswer r.grid r.member ok)

/-- A request that was refused is remembered once, one for a member that stays saved is not. -/
def noted (s : State) (r : GangReq) : State :=
  if (s.refused.any fun (x : Refused) => x.req.grid == r.grid && x.req.member == r.member) || s.staysSaved r then s
  else { s with refused := s.refused ++ [(⟨r, s.clock - r.failing⟩ : Refused)] }

theorem exec_request_elsewhere (h : r.home ≠ s.cfg.aid) : exec (.gangReservationRequest r) s = .next (s.forward r) := if_pos h

theorem exec_request_granted {s1 : State} (h : r.home = s.cfg.aid) (hg : s.grantMember r = some s1) :
    exec (.gangReservationRequest r) s = .next (answered s1 r true) := by
  change execGangReservationRequest r s = _
  simp only [execGangReservationRequest, h, hg, ne_eq, not_true_eq_false, if_false] <;> rfl

theorem exec_request_refused (h : r.home = s.cfg.aid) (hg : s.grantMember r = none) :
    exec (.gangReservationRequest r) s = .next (answered (noted s r) r false) := by
  change execGangReservationRequest r s = _
  simp only [execGangReservationRequest, h, hg, ne_eq, not_true_eq_false, if_false] <;> rfl

theorem noted_rest (s : State) (r : GangReq) : ∃ l, noted s r = { s with refused := l } := by
  unfold noted
  split
  · exact ⟨_, rfl⟩
  · exact ⟨_, rfl⟩

theorem noted_stays (h : s.staysSaved r = true) : noted s r = s := by rw [noted, h, Bool.or_true, if_pos rfl]

theorem noted_mem (h : s.staysSaved r = false) : ∃ y ∈ (noted s r).refused, y.req.grid = r.grid ∧ y.req.member = r.member := by
  unfold noted
  rw [h, Bool.or_false]
  split
  case isTrue hk => simpa using hk
  case isFalse => exact ⟨⟨r, s.clock - r.failing⟩, List.mem_append_right _ (List.mem_singleton_self _), rfl, rfl⟩

theorem answered_teams (s : State) (r : GangReq) (ok : Bool) : (answered s r ok).teams = s.teams := by
  unfold answered State.post
  split <;> rfl

theorem answered_refused (s : State) (r : GangReq) (ok : Bool) : (answered s r ok).refused = s.refused := by
  unfold answered State.post
  split <;> rfl

theorem exec_gangRelease : exec (.gangRelease no m) s = match s.resvs.find? fun (y : Resv) => y.grid == no && y.member == m with
    | some r => .next (s.undoResv r)
    | none => .next s := rfl

/-- The state in which a commit brings its members up: R497's marks of an earlier save are gone, its reservations stand. -/
def committing (s : State) (no : Word) (l : List Resv) : State :=
  { s with
    grids := s.grids.map (fun (g : Nat × Grid) =>
      if g.2.no = no ∧ g.2.desc.gang then (g.1, { g.2 with drained := [], saveGo := false, savedAt := [], allSaved := false }) else g)
    resvs := l }

theorem exec_gangCommit (hx : s.resvs = [x]) (hn : x.grid = no) :
    exec (.gangCommit no) s = .next ((committing s no [{ x with committed := true }]).bringMember x) := by
  change execGangCommit no s = _
  simp only [execGangCommit, hx, List.filter_cons, hn, beq_self_eq_true, if_true, List.filter_nil, List.foldl_cons, List.foldl_nil, List.map_cons,
    List.map_nil] <;> rfl

theorem committing_grid {l : List Resv} {j : Nat} {G : Grid} (h : Map.find? s.grids j = some G) :
    ∃ G', Map.find? (committing s no l).grids j = some G' := by
  refine ⟨_, (find?_map s.grids _ (fun y => ?_) j).trans (by rw [h]; rfl)⟩
  dsimp only
  split <;> rfl

theorem bringMember_fresh {T : Team} {G : Grid} (ht : s.team? x.team = some T) (hr : x.resumed = false) (hb : x.brought = false)
    (hg : Map.find? s.grids T.grid = some G) :
    s.bringMember x = (s.modTeam x.team fun T => { T with phase := .staging }).bringUp x.team x.desc := by
  simp only [State.bringMember, ht, hr, hb, hg, Bool.or_self, Bool.false_eq_true, if_false]

theorem dropMoved_none (h : ∀ y ∈ s.teams, y.2.gang.isSome = true → y.2.gridNo = no → y.2.place ≠ .saved) : s.dropMoved no = s := by
  have hn : (s.teams.filter fun e => e.2.gang.isSome && e.2.gridNo == no && decide (e.2.place = .saved) && !e.2.killed) = [] := by
    rw [List.filter_eq_nil_iff]
    intro y hy hl
    simp only [Bool.and_eq_true, beq_iff_eq, decide_eq_true_eq] at hl
    obtain ⟨⟨⟨hg, hno⟩, hs⟩, -⟩ := hl
    exact h y hy hg hno hs
  rw [State.dropMoved, hn]
  rfl

/-- The state in which an open starts its members: their reservations are over. -/
def opening (s : State) (no : Word) : State :=
  { s with resvs := s.resvs.filter (fun (x : Resv) => x.grid != no),
           grids := s.grids.map (fun (g : Nat × Grid) =>
             if g.2.no = no ∧ g.2.coord ≠ s.cfg.aid then (g.1, { g.2 with gang := .opened, begun := true }) else g) }

theorem exec_gangOpen_one {T : Team} (hx : s.resvs = [x]) (hn : x.grid = no) (hr : x.resumed = false) (hb : x.brought = false)
    (hd : ∀ y ∈ s.teams, y.2.gang.isSome = true → y.2.gridNo = no → y.2.place ≠ .saved) (ht : s.team? x.team = some T) (hp : T.phase = .gangWait)
    (hk : T.killed = false) (hm : T.mheld = false) : exec (.gangOpen no) s = .next ((opening s no).startTeam x.team) := by
  have hdm : (opening s no).dropMoved no = opening s no := dropMoved_none hd
  have ho : (opening s no).team? x.team = some T := ht
  obtain ⟨T', hT', -, hm'⟩ := startTeam_team? ho
  have he : exec (.gangOpen no) s = .next ((s.resvs.filter fun (y : Resv) => y.grid == no).foldl
      (fun s r => if (s.team? r.team).any (fun T => T.mheld) then s.startSaves r.team else s)
      ((s.resvs.filter fun (y : Resv) => y.grid == no).foldl (fun s r =>
        match s.team? r.team with
        | none => s
        | some T =>
          if T.phase ≠ .gangWait ∨ T.killed then s
          else if r.resumed || r.brought then s.resumeHere r.team T r.brought
          else s.startTeam r.team) ((opening s no).dropMoved no))) := rfl
  have hf : (s.resvs.filter fun (y : Resv) => y.grid == no) = [x] := by simp [hx, hn]
  rw [he, hf, hdm]
  simp [ho, hp, hk, hr, hb, hT', hm', hm]

end

/-- Settles O43: the coordinator by the phase of its gang, the broker by the reservation that it holds or can make. -/
theorem gangRounds : Obligations.GangRounds := by
  intro s k m since g no got staged r s1 x a
  refine ⟨fun hg => ⟨fun h1 h2 h3 h4 ⟨i, hi, hw⟩ => ?_, fun hn => ?_, fun hr ht => ?_, fun hr ht => ?_, fun hf => ⟨fun ⟨p, hp, he⟩ => ?_, fun hn => ?_,
      fun ht => ?_, fun ht => ?_⟩⟩, fun ho => ⟨fun hr => ⟨fun ht hall => ?_, fun ht hm ⟨p, hp, hpm, hpg⟩ => ?_, ?_⟩, fun hc hm => ?_⟩, exec_request_elsewhere,
      exec_request_granted, fun hh hg => ⟨_, exec_request_refused hh hg, ?_, fun hs => ?_, fun hs => ?_, fun hc => ?_, fun hc => ?_⟩, fun h => ?_, fun h => ?_,
      ?_, fun hx hn hr hb hd T ht hp hk hm => ?_⟩
  · rw [exec_gangRound hg, h1, h2, h3, h4]
    have hany : (span 0 g.desc.nteam).any g.wants = true := List.any_eq_true.mpr ⟨i, hi, hw⟩
    rw [hany]
    exact if_pos (by simp)
  · rw [exec_gangRound hg]
    exact if_neg (by simp [hn])
  · rw [exec_gangRoundTimeout hg hr, if_pos ht]
  · rw [exec_gangRoundTimeout hg hr, if_neg (by omega)]
  · rw [exec_gangRetry_freed hg hf, if_pos (List.any_eq_true (p := fun (p : Nat × Aid) => p.2 == a).mpr ⟨p, hp, beq_iff_eq.mpr he⟩)]
  · rw [exec_gangRetry_freed hg hf, if_neg (by simpa using fun n hb => hn (n, a) hb rfl)]
  · rw [exec_gangRetry_late hg hf, if_pos ht]
  · rw [exec_gangRetry_late hg hf, if_neg (by omega)]
  · rw [exec_gangReservationAnswer ho hr, if_neg (by simpa using ht), if_pos (List.all_eq_true.mpr fun p hp => (granted_contains ..).mpr (hall p hp))]
  · have hn : ¬(g.peers.all fun p => (granted got m).contains p.1) = true := fun h =>
      ((granted_contains ..).mp (List.all_eq_true.mp h p hp)).elim hpm hpg
    rw [exec_gangReservationAnswer ho hr, if_neg (by simpa using ht), if_neg hn, granted, if_neg (by simpa using hm)]
  · rw [exec_gangReservationAnswer ho hr]
    rfl
  · change execGangStagedReport no m s = _
    rw [execGangStagedReport, if_neg (by omega), ho]
    simp only [hc]
  · obtain ⟨l, hl⟩ := noted_rest s r
    rw [answered_teams, hl]
  · rw [answered_refused]
    exact noted_mem hs
  · rw [answered_refused, noted_stays hs]
  · obtain ⟨l, hl⟩ := noted_rest s r
    rw [hl, answered, State.post, if_neg hc]
    exact ⟨_, rfl, rfl, rfl⟩
  · obtain ⟨l, hl⟩ := noted_rest s r
    rw [hl, answered, State.post, if_pos hc]
  · rw [exec_gangRelease, h]
  · rw [exec_gangRelease, h]
  · intro s0 hx hn T ht
    have h0 : (committing s no [{ x with committed := true }]).team? x.team = some T := ht
    refine ⟨fun hr hb G hG => ?_, fun hrb => ?_⟩
    · obtain ⟨G', hG'⟩ := committing_grid (no := no) (l := [{ x with committed := true }]) hG
      rw [exec_gangCommit hx hn, bringMember_fresh h0 hr hb hG']
      rfl
    · have hrb' : (x.resumed || x.brought) = true := Bool.or_eq_true_iff.mpr hrb
      rw [exec_gangCommit hx hn]
      simp only [State.bringMember, h0, hrb', if_true] <;> rfl
  · have ho : (opening s no).team? x.team = some T := ht
    obtain ⟨T', hT', hrun, -⟩ := startTeam_team? ho
    refine ⟨_, T', exec_gangOpen_one hx hn hr hb hd ht hp hk hm, ?_, hT', hrun⟩
    rw [startTeam_resvs]
    simp [opening, hx, hn]

end Sys2Proof.Laws.Gangs
end


section
/-! Breaks and notices of gangs (R140, R144-R147, R478). -/

namespace Sys2Proof.Laws.Breaks

open Sys2Proof Sys2Proof.Machine Sys2Proof.Laws.Rules Sys2Proof.Laws.Reading Sys2Proof.Laws.SteerServices Sys2Proof.Laws.Placement

/-! ## What the progress of a gang's save changes (R497) -/

/-- At most the grids' marks and what is to be sent have changed. -/
structure Tells (s s' : State) : Prop where
  rest : ∃ grids agenda cells out mgmt, s' = { s with grids := grids, agenda := agenda, cells := cells, out := out, mgmt := mgmt }

/-- At most what is to be sent has changed. -/
structure Sends (s s' : State) : Prop where
  rest : ∃ agenda cells, s' = { s with agenda := agenda, cells := cells }

section
variable {s s1 s2 : State} {no : Word} {k : Nat} {g : Grid}

theorem Tells.refl (s : State) : Tells s s := ⟨_, _, _, _, _, rfl⟩

theorem Tells.trans (h : Tells s s1) (h' : Tells s1 s2) : Tells s s2 := by
  obtain ⟨_, _, _, _, _, rfl⟩ := h
  obtain ⟨_, _, _, _, _, rfl⟩ := h'
  exact ⟨_, _, _, _, _, rfl⟩

theorem Tells.teams (h : Tells s s1) : s1.teams = s.teams := by
  obtain ⟨_, _, _, _, _, rfl⟩ := h
  rfl

theorem Tells.mem (h : Tells s s1) : s1.mem = s.mem := by
  obtain ⟨_, _, _, _, _, rfl⟩ := h
  rfl

theorem Sends.refl (s : State) : Sends s s := ⟨_, _, rfl⟩

theorem Sends.trans (h : Sends s s1) (h' : Sends s1 s2) : Sends s s2 := by
  obtain ⟨_, _, rfl⟩ := h
  obtain ⟨_, _, rfl⟩ := h'
  exact ⟨_, _, rfl⟩

theorem Sends.tells (h : Sends s s1) : Tells s s1 := by
  obtain ⟨_, _, rfl⟩ := h
  exact ⟨_, _, _, _, _, rfl⟩

theorem Sends.grids (h : Sends s s1) : s1.grids = s.grids := by
  obtain ⟨_, _, rfl⟩ := h
  rfl

theorem sends_foldl {α : Type} {f : State → α → State} (h : ∀ s x, Sends s (f s x)) (xs : List α) (s : State) : Sends s (xs.foldl f s) := by
  induction xs generalizing s with
  | nil => exact .refl s
  | cons x xs ih => exact (h s x).trans (ih _)

theorem sends_post (s : State) (a : Aid) (m : Out) (i : Instr) : Sends s (s.post a m i) := by
  unfold State.post
  split <;> exact ⟨_, _, rfl⟩

theorem sends_toOther (a : Aid) (m : Out) (s : State) : Sends s (if a = s.cfg.aid then s else s.toBroker a m) := by
  split <;> exact ⟨_, _, rfl⟩

theorem tells_modGrid (s : State) (k : Nat) (f : Grid → Grid) : Tells s (s.modGrid k f) := ⟨_, _, _, _, _, rfl⟩

theorem tells_flushMgmt (s : State) : Tells s s.flushMgmt := ⟨_, _, _, _, _, rfl⟩

/-- A mark that R497's progress sets on a gang's record: neither its number, its descriptor nor its members' states. -/
structure Marks (f : Grid → Grid) : Prop where
  no : ∀ g, (f g).no = g.no
  desc : ∀ g, (f g).desc = g.desc
  members : ∀ g, (f g).members = g.members

/-- The record of the gang `no`, under key `k`, is the one that a reading of the key finds. -/
structure GangAt (s : State) (no : Word) (k : Nat) : Prop where
  found : ∃ g, s.gangOfNo no = some (k, g) ∧ Map.find? s.grids k = some g

/-- Every record of `s` stands in `s'` with its members; only that under key `k` may have other marks. -/
structure KeepsGrids (k : Nat) (s s' : State) : Prop where
  keep : ∀ j G, Map.find? s.grids j = some G → ∃ G', Map.find? s'.grids j = some G' ∧ G'.members = G.members ∧ (j ≠ k → G' = G)

theorem KeepsGrids.of_grids (h : s1.grids = s.grids) : KeepsGrids k s s1 := ⟨fun _ G hG => ⟨G, by rw [h]; exact hG, rfl, fun _ => rfl⟩⟩

theorem KeepsGrids.trans (h : KeepsGrids k s s1) (h' : KeepsGrids k s1 s2) : KeepsGrids k s s2 := by
  refine ⟨fun j G hG => ?_⟩
  obtain ⟨G1, hG1, hm1, he1⟩ := h.keep j G hG
  obtain ⟨G2, hG2, hm2, he2⟩ := h'.keep j G1 hG1
  exact ⟨G2, hG2, hm2.trans hm1, fun hj => (he2 hj).trans (he1 hj)⟩

theorem GangAt.of_grids (hk : GangAt s no k) (h : s1.grids = s.grids) : GangAt s1 no k := by
  obtain ⟨g, hg, hf⟩ := hk.found
  exact ⟨g, by rw [State.gangOfNo, h]; exact hg, by rw [h]; exact hf⟩

/-- The list's first match is replaced by a match under its own key. -/
theorem find?_put {α : Type} {p : Nat × α → Bool} {m : Map α} {v w : α} (h : List.find? p m = some (k, v)) (hw : p (k, w) = true) :
    List.find? p (Map.put m k w) = some (k, w) := by
  induction m with
  | nil => simp at h
  | cons e r ih =>
    rw [Map.put]
    split
    · exact List.find?_cons_of_pos hw
    · split
      · exact List.find?_cons_of_pos hw
      · rename_i hne
        by_cases hp : p e = true
        · rw [List.find?_cons_of_pos hp] at h
          exact absurd (congrArg Prod.fst (Option.some.inj h)) hne
        · rw [List.find?_cons_of_neg hp] at h ⊢
          exact ih h

theorem find?_of_nodup {α : Type} {m : Map α} {e : Nat × α} (hn : (m.map Prod.fst).Nodup) (he : e ∈ m) : Map.find? m e.1 = some e.2 := by
  induction m with
  | nil => simp at he
  | cons y r ih =>
    rw [List.map_cons, List.nodup_cons] at hn
    rw [Map.find?]
    rcases List.mem_cons.mp he with rfl | hr
    · rw [if_pos rfl]
    · rw [if_neg fun h : y.1 = e.1 => hn.1 (h ▸ List.mem_map_of_mem hr)]
      exact ih hn.2 hr

theorem gangAt_of_nodup (hn : (s.grids.map Prod.fst).Nodup) (hg : s.gangOfNo no = some (k, g)) : GangAt s no k :=
  ⟨g, hg, find?_of_nodup hn (List.mem_of_find?_eq_some hg)⟩

theorem GangAt.modGrid {f : Grid → Grid} (hf : Marks f) (h : GangAt s no k) : GangAt (s.modGrid k f) no k := by
  obtain ⟨g, hg, hk⟩ := h.found
  have hp := List.find?_some hg
  refine ⟨f g, ?_, by rw [find?_modGrid, hk]; rfl⟩
  change List.find? _ (Map.modify s.grids k f) = _
  rw [Map.modify, hk]
  exact find?_put hg (by simpa [hf.no, hf.desc] using hp)

theorem keepsGrids_modGrid {f : Grid → Grid} (hf : Marks f) (s : State) (k : Nat) : KeepsGrids k s (s.modGrid k f) := by
  refine ⟨fun j G hG => ?_⟩
  by_cases hj : j = k
  · subst hj
    exact ⟨f G, by rw [find?_modGrid, hG]; rfl, hf.members G, fun h => absurd rfl h⟩
  · exact ⟨G, (Map.find?_modify_ne s.grids f hj).trans hG, rfl, fun _ => rfl⟩

/-- A step of a gang's save: told, with nothing but marks of its record changed. -/
structure SaveTold (no : Word) (k : Nat) (s s' : State) : Prop where
  tells : Tells s s'
  keeps : KeepsGrids k s s'
  gang : GangAt s no k → GangAt s' no k

theorem SaveTold.refl (s : State) : SaveTold no k s s := ⟨.refl s, .of_grids rfl, id⟩

theorem SaveTold.trans (h : SaveTold no k s s1) (h' : SaveTold no k s1 s2) : SaveTold no k s s2 :=
  ⟨h.tells.trans h'.tells, h.keeps.trans h'.keeps, fun x => h'.gang (h.gang x)⟩

theorem SaveTold.of_sends (h : Sends s s1) : SaveTold no k s s1 := ⟨h.tells, .of_grids h.grids, fun x => x.of_grids h.grids⟩

theorem saveTold_modGrid {f : Grid → Grid} (hf : Marks f) (s : State) : SaveTold no k s (s.modGrid k f) :=
  ⟨tells_modGrid .., keepsGrids_modGrid hf s k, .modGrid hf⟩

theorem SaveTold.ite {p : Prop} [Decidable p] (h : SaveTold no k s s1) : SaveTold no k s (if p then s1 else s) := by
  split
  · exact h
  · exact .refl s

/-- A part of a gang's save is marked and told to the coordinator, unless there is nothing to tell. -/
def tellUnless (s : State) (k : Nat) (g : Grid) (b : Bool) (f : Grid → Grid) (n : Nat) : State :=
  if b then s else if g.coord = s.cfg.aid then s.modGrid k f else (s.modGrid k f).tellCoord g n

theorem saveTold_tellUnless {f : Grid → Grid} (hf : Marks f) (s : State) (g : Grid) (b : Bool) (n : Nat) : SaveTold no k s (tellUnless s k g b f n) := by
  unfold tellUnless
  split
  · exact .refl s
  · split
    · exact saveTold_modGrid hf s
    · exact (saveTold_modGrid hf s).trans (.of_sends (sends_post ..))

theorem tellSave_eq (h : s.gangOfNo no = some (k, g)) : s.tellSave no =
    tellUnless (tellUnless s k g (g.drained.contains s.cfg.aid || !s.drainedHere no) (fun g => { g with drained := g.drained ++ [s.cfg.aid] })
      (drainMark s.cfg.aid)) k g (g.savedAt.contains s.cfg.aid || !g.saveGo || !s.savedHere no) (fun g => { g with savedAt := g.savedAt ++ [s.cfg.aid] })
      (savedMark s.cfg.aid) := by
  simp only [State.tellSave, h] <;> rfl

theorem saveTold_tellSave (h : s.gangOfNo no = some (k, g)) : SaveTold no k s (s.tellSave no) := by
  rw [tellSave_eq h]
  refine .trans (saveTold_tellUnless ?_ s g ..) (saveTold_tellUnless ?_ _ g ..) <;> exact ⟨fun _ => rfl, fun _ => rfl, fun _ => rfl⟩

theorem saveTold_saveGo (s : State) : SaveTold no k s (s.saveGo k) := by
  unfold State.saveGo
  split
  · exact .refl s
  · exact .ite ((saveTold_modGrid (f := fun g => { g with saveGo := true }) ⟨fun _ => rfl, fun _ => rfl, fun _ => rfl⟩ s).trans
      (.of_sends (sends_foldl (fun s a => sends_toOther a _ s) _ _)))

theorem saveTold_allSaved (s : State) : SaveTold no k s (s.allSaved k) := by
  unfold State.allSaved
  split
  · exact .refl s
  · exact .ite (((saveTold_modGrid (f := fun g => { g with allSaved := true }) ⟨fun _ => rfl, fun _ => rfl, fun _ => rfl⟩ s).trans
      (.of_sends (sends_foldl (fun s a => sends_toOther a _ s) _ _))).trans ⟨tells_flushMgmt _, .of_grids rfl, fun x => x.of_grids rfl⟩)

/-- The progress of the save of a gang whose record is the one under its key. -/
theorem saveTold_saveStep (h : GangAt s no k) : SaveTold no k s (s.saveStep no) := by
  obtain ⟨g, hg, -⟩ := h.found
  have h1 : SaveTold no k s (s.tellSave no) := saveTold_tellSave hg
  obtain ⟨g1, hg1, -⟩ := (h1.gang h).found
  have h2 : SaveTold no k s ((s.tellSave no).saveGo k) := h1.trans (saveTold_saveGo _)
  obtain ⟨g2, hg2, -⟩ := (h2.gang h).found
  rw [State.saveStep, hg1]
  exact (h2.trans (saveTold_tellSave hg2)).trans (saveTold_allSaved _)

theorem saveStep_none (h : s.gangOfNo no = none) : s.saveStep no = s := by
  rw [State.saveStep, State.tellSave, h]
  dsimp only
  rw [h]

theorem tells_tellSave (s : State) (no : Word) : Tells s (s.tellSave no) := by
  cases h : s.gangOfNo no with
  | none =>
    rw [State.tellSave, h]
    exact .refl s
  | some e => exact (saveTold_tellSave h).tells

theorem tells_saveStep (s : State) (no : Word) : Tells s (s.saveStep no) := by
  unfold State.saveStep
  split
  · rename_i k _ _
    exact (((tells_tellSave s no).trans (saveTold_saveGo (no := no) (k := k) _).tells).trans (tells_tellSave _ no)).trans
      (saveTold_allSaved (no := no) (k := k) _).tells
  · exact .refl s

end

/-! ## A member that has broken its gang -/

section
variable {s : State} {no : Word} {m : Nat}

theorem writeSlotAt_teams (s : State) (T : Team) (d : DWord) : (s.writeSlotAt T d).teams = s.teams := by
  unfold State.writeSlotAt
  split
  · rfl
  · dsimp only
    split
    · rfl
    · rw [(onlyReads_touch ..).teams]
      rfl

theorem keepsTeams_resave (s : State) (t : Nat) : KeepsTeams s (s.resave t) := by
  unfold State.resave
  split
  · rename_i T ht
    split
    · refine KeepsTeams.trans (s1 := s.setTeam t { T with threads := T.threads.map fun e => (e.1, e.2.landAll) }) ⟨fun u U hu => ?_⟩
        (.of_teams (writeSlotAt_teams ..))
      by_cases h : u = t
      · subst h
        obtain rfl := Option.some.inj (ht.symm.trans hu)
        exact ⟨_, State.team?_setTeam ..⟩
      · exact ⟨U.threads, by rw [State.team?_setTeam_ne _ _ h]; exact hu⟩
    · exact .of_teams rfl
  · exact .of_teams rfl

/-- A gang's member as its gang is broken. -/
def broken (no : Word) (T : Team) : Team :=
  if T.gridNo = no then { T with gang := T.gang.map fun (g : GangMem) => { g with broken := true } } else T

theorem recordBreak_team? {t : Nat} {T : Team} (h : s.team? t = some T) (m : Nat) :
    ∃ l, (s.recordBreak no m).team? t = some { broken no T with threads := l } := by
  let s1 : State := { s with
    teams := s.teams.map (fun (e : Nat × Team) =>
      if e.2.gridNo = no then (e.1, { e.2 with gang := e.2.gang.map fun (g : GangMem) => { g with broken := true } }) else e),
    grids := s.grids.map (fun (e : Nat × Grid) =>
      if e.2.no = no ∧ e.2.desc.gang then (e.1, { e.2 with members := Map.put e.2.members m 3, killedTeam := true }) else e),
    refused := s.refused.filter (fun (r : Refused) => !(r.req.grid == no && r.req.member == m)) }
  have h1 : s1.team? t = some (broken no T) := by
    change Map.find? (s.teams.map _) t = _
    rw [find?_map _ _ (fun y => by split <;> rfl), show Map.find? s.teams t = some T from h, Option.map_some, broken]
    dsimp only
    split <;> rfl
  obtain ⟨l, hl⟩ := (keepsTeams_foldl (fun s (e : Nat × Team) => keepsTeams_resave s e.1) (s1.teams.filter fun e => e.2.gridNo == no && e.2.gang.isSome) s1).same
    t _ h1
  refine ⟨l, ?_⟩
  rw [State.recordBreak, State.team?, (tells_saveStep ..).teams]
  exact hl

theorem exec_gangBringupTimeout {k since : Nat} {g : Grid} {staged : List Nat} (hg : Map.find? s.grids k = some g) (hc : g.gang = .committed since staged) :
    exec (.gangBringupTimeout k m) s =
      if decide (since + usTicks 100 ≤ s.clock) && (g.peers.any fun p => p.1 == m) && !staged.contains m && Map.get 0 g.members m != 3 then
        .next (((s.breakGang g.no m).breakMember g.no m).tryOpen k)
      else .next s := by
  change execGangBringupTimeout k m s = _
  simp only [execGangBringupTimeout, hg, hc]

/-- The state in which a member's notice has been recorded (R144, R145). -/
def noticed (s : State) (no : Word) (m : Nat) (done : Bool) : State :=
  { s with grids := s.grids.map (fun (g : Nat × Grid) =>
      if g.2.no = no ∧ g.2.desc.gang then (g.1, { g.2 with members := Map.put g.2.members m (max (Map.get 0 g.2.members m) (if done then 2 else 1)) })
      else g) }

theorem noticed_keys (s : State) (no : Word) (m : Nat) (done : Bool) : (noticed s no m done).grids.map Prod.fst = s.grids.map Prod.fst := by
  rw [noticed, List.map_map]
  refine List.map_congr_left fun e _ => ?_
  rw [Function.comp]
  split <;> rfl

theorem noticed_find (s : State) (no : Word) (m : Nat) (done : Bool) (j : Nat) : Map.find? (noticed s no m done).grids j = (Map.find? s.grids j).map fun G =>
    if G.no = no ∧ G.desc.gang then { G with members := Map.put G.members m (max (Map.get 0 G.members m) (if done then 2 else 1)) } else G := by
  rw [noticed]
  refine (find?_map _ _ (fun y => by split <;> rfl) j).trans ?_
  congr 1
  funext G
  dsimp only
  split <;> rfl

/-- After a notice every record of another grid stands as it was, and the gang's counts the member as detached or done at least. -/
theorem noticed_saveStep (done : Bool) (hn : (s.grids.map Prod.fst).Nodup) {j : Nat} {G : Grid} (hG : Map.find? s.grids j = some G) :
    ∃ G', Map.find? ((noticed s no m done).saveStep no).grids j = some G' ∧
      (G.no = no → G.desc.gang = true → Map.get 0 G'.members m = max (Map.get 0 G.members m) (if done then 2 else 1)) ∧
      (G.no ≠ no ∨ G.desc.gang = false → G' = G) := by
  have hj := noticed_find s no m done j
  rw [hG, Option.map_some] at hj
  cases hf : (noticed s no m done).gangOfNo no with
  | none =>
    rw [saveStep_none hf]
    refine ⟨_, hj, fun h1 h2 => ?_, fun h => if_neg fun h' => h.elim (· h'.1) fun h => by simp [h] at h'⟩
    rw [if_pos ⟨h1, h2⟩]
    simp only [Map.get_put_self]
  | some e =>
    obtain ⟨k, g⟩ := e
    have hk : GangAt (noticed s no m done) no k := gangAt_of_nodup (by rw [noticed_keys]; exact hn) hf
    obtain ⟨G', hG', hm, he⟩ := (saveTold_saveStep hk).keeps.keep j _ hj
    refine ⟨G', hG', fun h1 h2 => ?_, fun h => ?_⟩
    · rw [hm, if_pos ⟨h1, h2⟩]
      simp only [Map.get_put_self]
    · have hng : ¬(G.no = no ∧ G.desc.gang = true) := fun h' => h.elim (· h'.1) fun h => by simp [h] at h'
      rw [if_neg hng] at hj he
      refine he fun hjk => hng ?_
      subst hjk
      obtain ⟨g', hg', hf'⟩ := hk.found
      obtain rfl := Option.some.inj (hf'.symm.trans hj)
      simpa using List.find?_some hg'

theorem exec_brokerSilence : exec (.brokerSilenceTimeout no m) s =
    if s.grids.any fun (g : Nat × Grid) => g.2.no == no && g.2.desc.gang && Map.get 0 g.2.members m != 3 then
      .next (match (s.breakGang no m).ownGang no with
        | some (k, _) => (s.breakGang no m).tryOpen k
        | none => match (s.breakGang no m).gangOfNo no with
          | some (k, g) => if (g.ranks[m % g.ranks.length]?).any (fun r => (gRankOf r.toNat).aid == g.coord) then
              ((s.breakGang no m).modGrid k fun g => { g with saveGo := true, allSaved := true }).flushMgmt else s.breakGang no m
          | none => s.breakGang no m)
    else .next s := rfl

end

/-- Settles O44: each break by the record that it leaves and by the member that it kills; a notice never lowers what is recorded. -/
theorem gangBreaks : Obligations.GangBreaks := by
  intro s k m since g no staged done
  refine ⟨fun hg hc ht ⟨p, hp, hpm⟩ hs h3 => ?_, fun hg hc ht => ?_, fun hn => ⟨_, rfl, ?_, (tells_saveStep ..).teams, fun j G hG => noticed_saveStep done hn hG⟩, ?_,
    fun t T ht hno => ?_, fun ⟨e, he, hno, hgang, h3⟩ => ?_, fun hall => ?_, rfl⟩
  · have hany : (g.peers.any fun p => p.1 == m) = true := List.any_eq_true.mpr ⟨p, hp, beq_iff_eq.mpr hpm⟩
    rw [exec_gangBringupTimeout hg hc]
    exact if_pos (by simp [ht, hany, hs, h3])
  · rw [exec_gangBringupTimeout hg hc]
    refine if_neg fun h => ?_
    simp only [Bool.and_eq_true, decide_eq_true_eq] at h
    omega
  · intro a
    exact congrArg (Memory.get · a) (tells_saveStep ..).mem
  · intro s1
    have he : exec (.gangBreak no m) s = .next (match s1.ownGang no with | some (k, _) => s1.tryOpen k | none => s1) := rfl
    exact ⟨fun j G h => by rw [he, h], fun h => by rw [he, h]⟩
  · obtain ⟨l, hl⟩ := recordBreak_team? (no := no) ht m
    refine ⟨_, hl, fun x hx => ?_⟩
    rw [broken, if_pos hno] at hx
    obtain ⟨y, -, rfl⟩ := Option.map_eq_some_iff.mp hx
    rfl
  · have hany : (s.grids.any fun (g : Nat × Grid) => g.2.no == no && g.2.desc.gang && Map.get 0 g.2.members m != 3) = true :=
      List.any_eq_true.mpr ⟨e, he, by simp [hno, hgang, h3]⟩
    intro s1
    have hex := exec_brokerSilence (s := s) (no := no) (m := m)
    rw [if_pos hany] at hex
    refine ⟨fun j G h => ?_, fun h j G h' => ?_⟩
    · rw [hex, show (s.breakGang no m).ownGang no = _ from h]
    · rw [hex, show (s.breakGang no m).ownGang no = _ from h]
      dsimp only
      rw [show (s.breakGang no m).gangOfNo no = _ from h']
      refine ⟨fun hne => congrArg _ (if_neg ?_), fun heq => congrArg _ (if_pos ?_)⟩
      · cases hr : G.ranks[m % G.ranks.length]? with
        | none => simp
        | some r =>
          rw [hr] at hne
          simpa using hne
      · obtain ⟨r, hr, he⟩ := Option.map_eq_some_iff.mp heq
        rw [hr]
        simpa using he
  · rw [exec_brokerSilence]
    refine if_neg fun h => ?_
    obtain ⟨e, he, hp⟩ := List.any_eq_true.mp h
    simp only [Bool.and_eq_true, beq_iff_eq, bne_iff_ne] at hp
    obtain ⟨⟨h1, h2⟩, h3⟩ := hp
    rcases hall e he with h | h | h
    · exact h h1
    · simp [h] at h2
    · exact h3 h

end Sys2Proof.Laws.Breaks
end


section
/-! Scheduling (R209-R211, R222, R226): the waves of a partition, its former, the slots that are reclaimed, joins. -/

namespace Sys2Proof.Laws.Scheduling

open Sys2Proof Sys2Proof.Machine Sys2Proof.Laws.Rules

section
variable {s : State} {c p t : Nat}

@[simp] theorem part_setPart (s : State) (c p : Nat) (x : Part) : (s.setPart c p x).part c p = x := by
  simp only [State.part, State.setPart, Map.get_set_self]

/-- The state in which the `i`-th group of a former, `y`, has become the wave of slot `k`. -/
def emitted (s : State) (c p i k : Nat) (y : Group) : State :=
  let x := s.part c p
  (s.setPart c p { x with
    waves := Map.put x.waves k ⟨y.team, y.tids, y.pos, none, decide ((x.waves.filter fun w => w.2.active).length < Config.activeWaves), false,
      s.clock, s.clock, []⟩
    former := x.former.eraseIdx i }).modTeam y.team fun T => T.toWave y.tids

theorem unspill_none (h : (s.part c p).spilled = []) : s.unspill c p = s := by
  simp only [State.unspill, h, List.take_nil, List.isEmpty_nil, if_true]

theorem part_emitted {i k : Nat} {y : Group} : (emitted s c p i k y).part c p =
    { s.part c p with
      waves := Map.put (s.part c p).waves k ⟨y.team, y.tids, y.pos, none,
        decide (((s.part c p).waves.filter fun w => w.2.active).length < Config.activeWaves), false, s.clock, s.clock, []⟩
      former := (s.part c p).former.eraseIdx i } := part_setPart ..

theorem emit_eq {i k : Nat} {y : Group} (hy : (s.part c p).former[i]? = some y) (hk : s.slotFor c p y.team = some k) (hs : (s.part c p).spilled = []) :
    s.emit c p i = emitted s c p i k y := by
  have hu : (emitted s c p i k y).unspill c p = emitted s c p i k y := unspill_none (by rw [part_emitted]; exact hs)
  simp only [State.emit, State.emitAt, hy, hk]
  exact hu

/-- A search over an interval from 0 finds what its first hit gives. -/
theorem findSome?_span {α : Type} {f : Nat → Option α} {n len : Nat} {v : α} (hb : ∀ m, m < n → f m = none) (hn : n < len) (hf : f n = some v) :
    (span 0 len).findSome? f = some v := by
  obtain ⟨r, rfl⟩ := Nat.exists_eq_add_of_lt hn
  have hnone : (List.range' 0 n).findSome? f = none := List.findSome?_eq_none_iff.mpr fun m hm => hb m (by simpa using hm)
  rw [span_eq_range', show n + r + 1 = n + (r + 1) by omega, ← List.range'_append_1, List.findSome?_append, hnone, Option.none_or, Nat.zero_add,
    List.range'_succ, List.findSome?_cons, hf]

theorem findSome?_span_none {α : Type} {f : Nat → Option α} {len : Nat} (h : ∀ m, m < len → f m = none) : (span 0 len).findSome? f = none :=
  List.findSome?_eq_none_iff.mpr fun m hm => h m (by simpa using hm)

/-- What a ripe group without a slot may reclaim: the slot held longest, if it is held long enough and its wave stands at a clause. -/
theorem reclaimFor_ripe {n : Nat} {y : Group} {e : Nat × Wave} (hy : (s.part c p).former[n]? = some y) (hr : s.ripeGroup y = true)
    (hs : s.slotFor c p y.team = none) (he : (sortBy (fun (w : Nat × Wave) => w.2.heldSince) (s.mayTake c p y.team)).head? = some e) :
    s.reclaimFor c p n = if e.2.heldSince + aclkTicks 4096 ≤ s.clock ∧ e.2.pos.k = 0 then some e else none := by
  simp only [State.reclaimFor, hy, Option.bind_some, hr, hs, Option.isNone_none, Bool.and_self, if_true, he, Option.filter_some, decide_eq_true_eq]

end

section
variable {s : State} {c : BitVec 8} {p : BitVec 2}

theorem exec_slotReclaim : exec (.slotReclaim c p) s =
    match (span 0 (s.part c.toNat p.toNat).former.length).findSome? fun i => (s.reclaimFor c.toNat p.toNat i).map fun w => (i, w) with
    | none => .next s
    | some (i, k, w) => .next (((s.setPart c.toNat p.toNat { s.part c.toNat p.toNat with
        waves := Map.erase (s.part c.toNat p.toNat).waves k }).emitAt c.toNat p.toNat i k).requeue p.toNat w) := rfl

theorem exec_joinTimeout {t : Nat} {j : BitVec 4} {T : Team} (ht : s.team? t = some T) :
    exec (.joinTimeout t j) s = if T.core?.isSome && T.phase == .running then .next (s.testJoin t j.toNat) else .next s := by
  change execJoinTimeout t j s = _
  simp only [execJoinTimeout, ht]

end

end Sys2Proof.Laws.Scheduling

namespace Sys2Proof.Laws.Scheduling

open Sys2Proof Sys2Proof.Machine

/-- Settles O45: each event by the wave or group that its search finds first. -/
theorem schedulerEvents : Obligations.SchedulerEvents := by
  intro s c p a b i t T j x ws ready out swapped
  refine ⟨fun hb ha => ?_, fun hb ha hl => ?_, fun hb => ?_, fun hb ha => ?_, fun hb => ?_, fun y k hi hy hk hs => ?_, fun h => ?_,
    fun n y k w hbefore hy hr hs he => ⟨fun ht hp => ?_, fun hnot => ?_⟩, fun hf => ?_, fun ht => ⟨fun hc hp => ?_, fun hn => ?_⟩⟩
  · change execWaveSwap c p s = _
    rw [execWaveSwap, show List.find? _ (s.wavesByAge (s.part c.toNat p.toNat)) = some b from hb,
      show List.find? _ (s.wavesByAge (s.part c.toNat p.toNat)).reverse = some a from ha]
  · change execWaveSwap c p s = _
    rw [execWaveSwap, show List.find? _ (s.wavesByAge (s.part c.toNat p.toNat)) = some b from hb,
      show List.find? _ (s.wavesByAge (s.part c.toNat p.toNat)).reverse = none from ha]
    exact if_pos hl
  · change execWaveSwap c p s = _
    rw [execWaveSwap, show List.find? _ (s.wavesByAge (s.part c.toNat p.toNat)) = none from hb]
  · change execStarvationPromote c p s = _
    rw [execStarvationPromote, show List.find? _ (s.wavesByAge (s.part c.toNat p.toNat)) = some b from hb,
      show List.find? _ (s.wavesByAge (s.part c.toNat p.toNat)).reverse = some a from ha]
  · change execStarvationPromote c p s = _
    rw [execStarvationPromote, show List.find? _ (s.wavesByAge (s.part c.toNat p.toNat)) = none from hb]
  · refine ⟨emitted s c.toNat p.toNat i k y, ?_, by rw [part_emitted], _, by rw [part_emitted]; exact Map.find?_put_self .., rfl, rfl, rfl⟩
    change execFormerEmitTimeout c p s = _
    rw [execFormerEmitTimeout, hi, ← emit_eq hy hk hs]
  · change execFormerEmitTimeout c p s = _
    rw [execFormerEmitTimeout, h]
  · have hrec := reclaimFor_ripe hy hr hs he
    rw [if_pos ⟨ht, hp⟩] at hrec
    have hfs : (span 0 x.former.length).findSome? (fun i => (s.reclaimFor c.toNat p.toNat i).map fun w => (i, w)) = some (n, k, w) :=
      findSome?_span (fun m hm => by rw [hbefore m hm]; rfl) (List.getElem?_eq_some_iff.mp hy).1 (by rw [hrec]; rfl)
    rw [exec_slotReclaim, hfs]
  · have hrec : s.reclaimFor c.toNat p.toNat n = none := by
      rw [reclaimFor_ripe hy hr hs he]
      refine if_neg fun h => hnot.elim (fun h' => ?_) fun h' => h' h.2
      have := h.1
      dsimp only at this
      omega
    refine ⟨hrec, fun hn => ?_⟩
    have hfs : (span 0 x.former.length).findSome? (fun i => (s.reclaimFor c.toNat p.toNat i).map fun w => (i, w)) = none := by
      refine findSome?_span_none fun m hm => ?_
      rcases Nat.lt_or_ge m n with h | h
      · rw [hbefore m h]
        rfl
      · rw [show m = n by omega, hrec]
        rfl
    rw [exec_slotReclaim, hfs]
  · rw [exec_slotReclaim, show (s.part c.toNat p.toNat).former = [] from hf]
    rfl
  · rw [exec_joinTimeout ht, if_pos (by simp [hc, hp])]
  · rw [exec_joinTimeout ht, if_neg]
    rcases hn with h | h <;> simp [h]

end Sys2Proof.Laws.Scheduling
end


section
/-! Deadlocks and polls (R426, R433, R434). -/

namespace Sys2Proof.Laws.Deadlocks

open Sys2Proof Sys2Proof.Machine Sys2Proof.Laws.Rules Sys2Proof.Laws.Windows Sys2Proof.Laws.Faults

section
variable {s : State} {t c : Nat} {T : Team}

/-! ## Pending ACLAIMs (R391) -/

/-- Team `t` has no pending ACLAIM, under whichever entry the list of teams holds it. -/
def NoAclaim (s : State) (t : Nat) : Prop := ∀ e ∈ s.teams, e.1 = t → e.2.aclaims = false

/-- A pending ACLAIM of a team. -/
def aclaimOf (e : Nat × Team) : Option (Nat × Nat × Nat × Nat × Pos) :=
  match e.2.steer.st with
  | .blocked (.aclaim o d n next) => if e.2.phase = .running ∧ e.2.killed = false then some (o, e.1, d, n, next) else none
  | _ => none

theorem aclaims_eq (s : State) (c : Nat) : s.aclaims c = sortBy Prod.fst ((s.teamsOn c).filterMap aclaimOf) := by
  rw [State.aclaims]
  congr 2

theorem aclaimOf_some {e : Nat × Team} {x : Nat × Nat × Nat × Nat × Pos} (h : aclaimOf e = some x) : x.2.1 = e.1 ∧ e.2.aclaims = true := by
  unfold aclaimOf at h
  split at h
  · rename_i o d n next hs
    split at h
    · obtain rfl := Option.some.inj h
      exact ⟨rfl, by simp only [Team.aclaims, hs]⟩
    · simp at h
  · simp at h

theorem aclaimOf_none {e : Nat × Team} (h : e.2.aclaims = false) : aclaimOf e = none := by
  cases hx : aclaimOf e with
  | none => rfl
  | some x => exact absurd (aclaimOf_some hx).2 (by simp [h])

theorem mem_insertBy {α : Type} {key : α → Nat} {a x : α} {l : List α} : x ∈ insertBy key a l ↔ x = a ∨ x ∈ l := by
  induction l with
  | nil => simp [insertBy]
  | cons b r ih =>
    rw [insertBy]
    split
    · exact List.mem_cons
    · rw [List.mem_cons, ih, List.mem_cons, or_left_comm]

theorem mem_sortBy {α : Type} {key : α → Nat} {x : α} {l : List α} : x ∈ sortBy key l ↔ x ∈ l := by
  induction l with
  | nil => rfl
  | cons b r ih =>
    change x ∈ insertBy key b (sortBy key r) ↔ _
    rw [mem_insertBy, ih, List.mem_cons]

theorem aclaims_team {x : Nat × Nat × Nat × Nat × Pos} (h : x ∈ s.aclaims c) : ∃ e ∈ s.teams, x.2.1 = e.1 ∧ e.2.aclaims = true := by
  rw [aclaims_eq, mem_sortBy, List.mem_filterMap] at h
  obtain ⟨e, he, hx⟩ := h
  exact ⟨e, (List.mem_filter.mp he).1, aclaimOf_some hx⟩

theorem mem_put {α : Type} {m : Map α} {k : Nat} {v : α} {e : Nat × α} (h : e ∈ Map.put m k v) : e ∈ m ∨ e = (k, v) := by
  induction m with
  | nil => exact .inr (List.mem_singleton.mp h)
  | cons y r ih =>
    rw [Map.put] at h
    split at h
    · exact (List.mem_cons.mp h).symm
    · split at h
      · exact (List.mem_cons.mp h).symm.imp_left (List.mem_cons_of_mem _)
      · rcases List.mem_cons.mp h with rfl | hr
        · exact .inl List.mem_cons_self
        · exact (ih hr).imp_left (List.mem_cons_of_mem _)

theorem noAclaim_modTeam {u : Nat} (h : NoAclaim s t) (hu : u ≠ t) (f : Team → Team) : NoAclaim (s.modTeam u f) t := by
  intro e he het
  change e ∈ Map.modify s.teams u f at he
  unfold Map.modify at he
  split at he
  · exact h e he het
  · rcases mem_put he with h' | rfl
    · exact h e h' het
    · exact absurd het hu

/-- Grants leave a team that has no pending ACLAIM as it is. -/
theorem grantAclaims_team? (n : Nat) (h : NoAclaim s t) : (s.grantAclaims c n).team? t = s.team? t := by
  induction n generalizing s with
  | zero => rfl
  | succ n ih =>
    rw [State.grantAclaims]
    split
    · rename_i o u d k next r hx
      split
      · have hu : u ≠ t := by
          obtain ⟨e, he, h1, h2⟩ := aclaims_team (s := s) (c := c) (x := (o, u, d, k, next)) (by rw [hx]; exact List.mem_cons_self)
          intro hut
          exact absurd h2 (by simp [h e he (h1.symm.trans hut)])
        rw [ih (noAclaim_modTeam h hu _), team?_modTeam_ne _ _ hu.symm]
      · rfl
    · rfl

/-- While the oldest ACLAIM does not find its tiles, nothing is granted. -/
theorem grantAclaims_unfit (h : s.aclaimFits c = false) (n : Nat) : s.grantAclaims c n = s := by
  cases n with
  | zero => rfl
  | succ n =>
    rw [State.grantAclaims]
    unfold State.aclaimFits at h
    split
    · rename_i hx
      rw [hx] at h
      exact if_neg (of_decide_eq_false h)
    · rfl

end

/-! ## A team whose ACLAIM has failed -/

section
variable {s s1 : State} {t c : Nat} {T U : Team}

theorem split_of_find? {α : Type} {m : Map α} {k : Nat} {v : α} (h : Map.find? m k = some v) : ∃ b d, m = b ++ (k, v) :: d := by
  induction m with
  | nil => simp [Map.find?] at h
  | cons y r ih =>
    rw [Map.find?] at h
    split at h
    · rename_i hy
      obtain rfl := Option.some.inj h
      exact ⟨[], r, by rw [← hy]; rfl⟩
    · obtain ⟨b, d, h'⟩ := ih h
      exact ⟨y :: b, d, by rw [h']; rfl⟩

/-- An entry put into a list of distinct keys stands in the place of the old one, or before it. -/
theorem put_cases {α : Type} {m : Map α} {k : Nat} {v w : α} (hn : (m.map Prod.fst).Nodup) (h : Map.find? m k = some v) :
    (∀ e ∈ Map.put m k w, e.1 = k → e.2 = w) ∨ ∃ a b d, m = a ++ b ++ (k, v) :: d ∧ Map.put m k w = a ++ (k, w) :: b ++ (k, v) :: d := by
  induction m with
  | nil => simp [Map.find?] at h
  | cons y r ih =>
    rw [List.map_cons, List.nodup_cons] at hn
    rw [Map.find?] at h
    rw [Map.put]
    split
    · rename_i hlt
      rw [if_neg (by omega)] at h
      obtain ⟨b, d, hr⟩ := split_of_find? h
      exact .inr ⟨[], y :: b, d, by rw [hr]; rfl, by rw [hr]; rfl⟩
    · split
      · rename_i hy
        refine .inl fun e he hek => ?_
        rcases List.mem_cons.mp he with rfl | hr
        · rfl
        · exact absurd (hy.trans hek.symm ▸ List.mem_map_of_mem hr) hn.1
      · rename_i hy
        rw [if_neg hy] at h
        rcases ih hn.2 h with h' | ⟨a, b, d, h1, h2⟩
        · refine .inl fun e he hek => ?_
          rcases List.mem_cons.mp he with rfl | hr
          · exact absurd hek hy
          · exact h' e hr hek
        · exact .inr ⟨y :: a, b, d, by rw [h1]; rfl, by rw [h2]; rfl⟩

/-- An entry without an ACLAIM before that of the same team changes neither the pending ACLAIMs nor the free tiles. -/
theorem aclaimFits_insert {a b d : Map Team} (h : s.teams = a ++ b ++ (t, T) :: d) (h1 : s1.teams = a ++ (t, U) :: b ++ (t, T) :: d)
    (hu : U.aclaims = false) (hc : U.core? = T.core?) (ht : U.tiles = T.tiles) (c : Nat) : s1.aclaimFits c = s.aclaimFits c := by
  have hon : s.teamsOn c = a.filter (fun e => e.2.core? == some c) ++ b.filter (fun e => e.2.core? == some c) ++
      List.filter (fun e => e.2.core? == some c) [(t, T)] ++ d.filter (fun e => e.2.core? == some c) := by
    rw [State.teamsOn, h, show (t, T) :: d = [(t, T)] ++ d from rfl]
    simp only [List.filter_append, List.append_assoc]
  have hon1 : s1.teamsOn c = a.filter (fun e => e.2.core? == some c) ++ List.filter (fun e => e.2.core? == some c) [(t, U)] ++
      b.filter (fun e => e.2.core? == some c) ++ List.filter (fun e => e.2.core? == some c) [(t, T)] ++ d.filter (fun e => e.2.core? == some c) := by
    rw [State.teamsOn, h1, show (t, U) :: b = [(t, U)] ++ b from rfl, show (t, T) :: d = [(t, T)] ++ d from rfl]
    simp only [List.filter_append, List.append_assoc]
  have hn : (List.filter (fun e => e.2.core? == some c) [(t, U)]).filterMap aclaimOf = [] := by
    rw [List.filter_cons]
    split
    · simp [aclaimOf_none (e := (t, U)) hu]
    · rfl
  have hcl : s1.aclaims c = s.aclaims c := by
    rw [aclaims_eq, aclaims_eq, hon, hon1]
    simp only [List.filterMap_append, hn, List.append_assoc, List.nil_append]
  have hus : (List.filter (fun e => e.2.core? == some c) [(t, U)]).flatMap (fun e => e.2.tiles.map Tile.phys) =
      (List.filter (fun e => e.2.core? == some c) [(t, T)]).flatMap (fun e => e.2.tiles.map Tile.phys) := by
    rw [List.filter_cons, List.filter_cons]
    dsimp only
    rw [hc]
    split
    · simp [ht]
    · rfl
  have hfr : s1.freeTiles c = s.freeTiles c := by
    rw [State.freeTiles, State.freeTiles]
    refine List.filter_congr fun k _ => ?_
    rw [hon, hon1, Bool.eq_iff_iff]
    simp only [List.flatMap_append, hus, Bool.not_eq_true', ← Bool.not_eq_true, List.contains_iff_mem, List.mem_append]
    tauto
  rw [State.aclaimFits, State.aclaimFits, hcl, hfr]

/-- The team in which a stuck ACLAIM has failed. -/
def failed (T : Team) : Team := { T with steer := T.steer.failAclaim, dead := true, stuckSince := none }

theorem failed_aclaims (T : Team) : (failed T).aclaims = false := by
  unfold Team.aclaims
  split
  · rename_i o d n next h
    exfalso
    change T.steer.failAclaim.st = _ at h
    unfold Steer.failAclaim at h
    split at h
    · simp [Steer.goOn] at h
    · rename_i hno
      exact hno _ _ _ _ h
  · rfl

theorem reportDead_teams (s : State) (t : Nat) : (s.reportDead t).teams = s.teams := by
  unfold State.reportDead
  split
  · exact report_teams ..
  · rfl

theorem reportDead_team? (s : State) (t u : Nat) : (s.reportDead t).team? u = s.team? u := by rw [State.team?, reportDead_teams, State.team?]

/-- Whatever another team is granted by it, a failed team stays as it failed. -/
theorem failed_team? (ht : s.team? t = some T) (hn : (s.teams.map Prod.fst).Nodup) (hf : s.aclaimFits c = false) (n : Nat) :
    (((s.modTeam t failed).reportDead t).grantAclaims c n).team? t = some (failed T) := by
  have hm : ((s.modTeam t failed).reportDead t).team? t = some (failed T) := by rw [reportDead_team?, team?_modTeam, ht]; rfl
  have hteams : ((s.modTeam t failed).reportDead t).teams = Map.put s.teams t (failed T) := by
    rw [reportDead_teams, modTeam_eq ht]
    rfl
  rcases put_cases (w := failed T) hn ht with h | ⟨a, b, d, h0, h1⟩
  · rw [grantAclaims_team? n fun e he het => ?_, hm]
    rw [h e (hteams ▸ he) het]
    exact failed_aclaims T
  · rw [grantAclaims_unfit ((aclaimFits_insert h0 (hteams.trans h1) (failed_aclaims T) rfl rfl c).trans hf), hm]

end

/-! ## The polls of CWAIT (R426) -/

section
variable {s s1 : State} {t : Nat} {T : Team} {g want : DWord} {next : Pos}

theorem exec_cwaitPoll (ht : s.team? t = some T) (hb : T.steer.st = .blocked (.cwait g want next)) : exec (.cwaitPoll t) s =
    .next (if T.phase ≠ .running ∨ T.core?.isNone ∨ T.killed then s else (s.cwaitRead t T g want next).steerOn t) := by
  change execCwaitPoll t s = _
  simp only [execCwaitPoll, State.pollCwait, ht, hb]

theorem exec_cwaitPoll_idle (ht : s.team? t = some T) (hb : ∀ g want next, T.steer.st ≠ .blocked (.cwait g want next)) : exec (.cwaitPoll t) s = .next s := by
  change execCwaitPoll t s = _
  simp only [execCwaitPoll, State.pollCwait, ht]

theorem cwaitRead_mem {lv m : Bool} {va pa : Nat} (hl : s.locate T none g 8 = .inl (.mem lv va)) (hj : s.judgeLoad T.ctx T.cluster false va = (s1, .ok pa m)) :
    s.cwaitRead t T g want next = if want.toNat ≤ leNat (s1.bytes pa 8) then s1.setSteer t T { T.steer with st := .running, nextPos := next }
      else s1.steerWait t T (.cwait g want next) := by
  simp only [State.cwaitRead, hl, hj]

end

/-! ## Claims that wait (R433, R434) -/

section
variable {s : State} {t : Nat} {T : Team}

theorem exec_claimDeadlock (ht : s.team? t = some T) : exec (.claimDeadlock t) s =
    if !T.stuck || !T.claims then .next (s.modTeam t fun T => { T with stuckSince := none })
    else if (span 0 T.roles.length).any (fun k => (s.claimStep t k).isSome) then .next (s.reconsiderFor t)
    else if T.aclaims && s.aclaimFits (T.core?.getD 0) then .next ((s.modTeam t fun T => { T with stuckSince := none }).grantAclaims (T.core?.getD 0) 16)
    else
      match T.stuckSince with
      | none => .next (s.modTeam t fun T => { T with stuckSince := some s.clock })
      | some x => if x + usTicks 10 ≤ s.clock then .next (s.failClaims t) else .next s := by
  change execClaimDeadlock t s = _
  simp only [execClaimDeadlock, ht] <;> rfl

theorem no_claimStep (h : ∀ k ∈ span 0 T.roles.length, s.claimStep t k = none) :
    ((span 0 T.roles.length).any fun k => (s.claimStep t k).isSome) = false := by
  rw [List.any_eq_false]
  intro k hk
  simp [h k hk]

theorem core_of_stuck (h : T.stuck = true) : ∃ c, T.core? = some c := by
  simp only [Team.stuck, Bool.and_eq_true] at h
  exact Option.isSome_iff_exists.mp h.1.1.1.1.1

/-- The condition under which a stuck team's claims wait out their time. -/
theorem waits_on (hst : T.stuck = true) (h : T.aclaims = false ∨ ∀ core, T.core? = some core → s.aclaimFits core = false) :
    (T.aclaims && s.aclaimFits (T.core?.getD 0)) = false := by
  obtain ⟨c, hc⟩ := core_of_stuck hst
  rcases h with h | h
  · rw [h, Bool.false_and]
  · rw [hc, Option.getD_some, h c hc, Bool.and_false]

theorem no_claim_role (h : ∀ r ∈ T.roles, r.claim = []) (k : Nat) : (T.role k).claim = [] := by
  rw [Team.role, List.getD_eq_getElem?_getD]
  cases hk : T.roles[k]? with
  | none => rfl
  | some r => exact h r (List.mem_of_getElem? hk)

/-- The failure of a team that waits only in ACLAIM. -/
theorem failClaims_aclaim {c : Nat} (ht : s.team? t = some T) (hc : T.core? = some c) (h : ∀ r ∈ T.roles, r.claim = []) :
    s.failClaims t = ((s.modTeam t failed).reportDead t).grantAclaims c 16 := by
  have hf : (span 0 T.roles.length).filter (fun k => !(T.role k).claim.isEmpty) = [] := by
    rw [List.filter_eq_nil_iff]
    intro k _
    simp [no_claim_role h k]
  simp only [State.failClaims, ht, hf, List.foldl_nil, hc] <;> rfl

theorem exec_tileDeadlock (c : BitVec 8) (s : State) : exec (.tileDeadlock c) s =
    if (s.tileHolders c.toNat).isEmpty || !(s.tileHolders c.toNat).all (fun e => e.2.aclaims && e.2.phase == .running && !e.2.killed) || s.aclaimFits c.toNat
    then .next s
    else
      match (sortBy (fun (e : Nat × Team) => e.2.placedAt) (s.tileHolders c.toNat)).getLast? with
      | some e => .next (((s.modTeam e.1 failed).reportDead e.1).grantAclaims c.toNat 16)
      | none => .next s := rfl

end

/-- Settles O46: the claims of a stuck team by what its roles wait for; the poll by the word that it reads. -/
theorem deadlocksAndPolls : Obligations.DeadlocksAndPolls := by
  intro s t x T c e
  refine ⟨fun ht => ⟨fun h => ?_, fun hst hcl ⟨k, hk, hs⟩ => ?_, fun hst ha hno core hc hfit => ?_, fun hst hcl hno hfit => ⟨fun hx => ?_, fun hx hlt => ?_,
      fun hx hge hr hn => ?_⟩, fun h => exec_cwaitPoll_idle ht h, fun h => ?_, fun hp hc hk g want next hb => ⟨?_, fun lv va s1 pa m hl hj hT1 =>
        ⟨fun hle => ?_, fun hlt => ?_⟩⟩⟩, fun hne hall hfit hlast => ?_, fun h => ?_⟩
  · rw [exec_claimDeadlock ht, if_pos (by rcases h with h | h <;> simp [h])]
  · rw [exec_claimDeadlock ht, if_neg (by simp [hst, hcl]), if_pos (List.any_eq_true.mpr ⟨k, hk, hs⟩)]
  · have hcl : T.claims = true := by rw [Team.claims, ha, Bool.true_or]
    rw [exec_claimDeadlock ht, if_neg (by simp [hst, hcl]), no_claimStep hno, ha, hc, Option.getD_some, hfit]
    rfl
  · rw [exec_claimDeadlock ht, if_neg (by simp [hst, hcl]), no_claimStep hno, waits_on hst hfit, hx]
    rfl
  · rw [exec_claimDeadlock ht, if_neg (by simp [hst, hcl]), no_claimStep hno, waits_on hst hfit, hx]
    exact if_neg (Nat.not_le.mpr hlt)
  · obtain ⟨core, hcore⟩ := core_of_stuck hst
    have ha : T.aclaims = true := by
      have hrn : (T.roles.any fun r => !r.claim.isEmpty) = false := by
        rw [List.any_eq_false]
        intro r hr'
        simp [hr r hr']
      rwa [Team.claims, hrn, Bool.or_false] at hcl
    have hf : s.aclaimFits core = false := hfit.elim (fun h => absurd (ha.symm.trans h) (by decide)) fun h => h core hcore
    refine ⟨_, failed T, ?_, failed_team? ht hn hf 16, rfl, rfl⟩
    rw [exec_claimDeadlock ht, if_neg (by simp [hst, hcl]), no_claimStep hno, waits_on hst hfit, hx, ← failClaims_aclaim ht hcore hr]
    exact if_pos hge
  · change Host.Outcome.next (s.pollCwait t) = _
    rw [State.pollCwait, ht]
    dsimp only
    split
    · exact congrArg _ (if_pos (by rcases h with h | h | h <;> simp [h]))
    · rfl
  · rw [exec_cwaitPoll ht hb, if_neg (by simp [hp, Option.isNone_eq_false_iff.mpr hc, hk])]
  · rw [exec_cwaitPoll ht hb, if_neg (by simp [hp, Option.isNone_eq_false_iff.mpr hc, hk]), cwaitRead_mem hl hj, if_pos hle]
    refine ⟨_, { T with steer := { T.steer with st := .running, pos := next, nextPos := next }, stuckSince := none }, rfl, ?_, rfl, rfl, fun _ => rfl⟩
    rw [State.steerOn, team?_modTeam, State.setSteer, State.team?_setTeam]
    rfl
  · rw [exec_cwaitPoll ht hb, if_neg (by simp [hp, Option.isNone_eq_false_iff.mpr hc, hk]), cwaitRead_mem hl hj, if_neg (by omega)]
    refine ⟨_, { T with steer := { T.steer with st := .blocked (.cwait g want next), nextPos := T.steer.pos } }, rfl, ?_, rfl, fun _ => rfl⟩
    rw [State.steerOn, team?_modTeam, State.steerWait, State.team?_setTeam]
    rfl
  · rw [exec_tileDeadlock, if_neg, hlast]
    · rfl
    · have ha : (s.tileHolders c.toNat).all (fun e => e.2.aclaims && e.2.phase == .running && !e.2.killed) = true :=
        List.all_eq_true.mpr fun y hy => by simp [hall y hy]
      simp [List.isEmpty_iff, hne, ha, hfit]
  · rw [exec_tileDeadlock, if_pos]
    rcases h with h | h | ⟨y, hy, h⟩
    · simp [h]
    · simp [h]
    · have ha : (s.tileHolders c.toNat).all (fun e => e.2.aclaims && e.2.phase == .running && !e.2.killed) = false := by
        rw [List.all_eq_false]
        exact ⟨y, hy, by rcases h with h | h | h <;> simp [h]⟩
      simp [ha]

end Sys2Proof.Laws.Deadlocks
end


section
/-! Engine events (R91, R345, R379, R382, R384, R389, R424): held and waiting commands, the units of a COPY, the steps of the cube. -/

namespace Sys2Proof.Laws.Engines

open Sys2Proof Sys2Proof.Machine Sys2Proof.Laws.Rules

section
variable {s s1 s2 : State} {t i u : Nat} {T : Team} {y : Eng}

/-! ## Commands that are held or wait (R91, R424) -/

theorem exec_attimeFire {x : DWord} (ht : s.team? t = some T) (hy : Map.find? T.eng i = some y) (hx : y.st = .held x) : exec (.attimeFire t i) s =
    if x.ule s.dtime && T.working && s.engRoom T y.cmd then
      .next ((({ s with orderCtr := s.orderCtr + 1 }.modEng t i fun e => { e with order := s.orderCtr }).issueEng t i).drainWaiting)
    else .next s := by
  change execAttimeFire t i s = _
  simp only [execAttimeFire, ht, hy, hx]

theorem exec_firedCommand (ht : s.team? t = some T) (hy : Map.find? T.eng i = some y) : exec (.firedCommandEnqueue t i) s =
    .next (if y.st ≠ .waiting ∨ T.place = .saved then s
      else match y.attime with
        | some x => if T.heldCount < 8 then s.modEng t i fun e => { e with st := .held x } else s
        | none => if s.engRoom T y.cmd then s.issueEng t i else s) := by
  change Host.Outcome.next (s.tryWaiting t i) = _
  rw [State.tryWaiting, ht]
  simp only [hy] <;> rfl

/-- An issued COPY is queued. -/
theorem issueEng_copy (ht : s.team? t = some T) (hy : Map.find? T.eng i = some y) (hc : y.cmd.isCopy = true) :
    ∃ T' y', (s.issueEng t i).team? t = some T' ∧ Map.find? T'.eng i = some y' ∧ y'.st = .queued ∧ y'.cmd = y.cmd := by
  cases hcmd : y.cmd with
  | copy a sk dk sf df par =>
    simp only [State.issueEng, ht, hy, hcmd, State.team?_setTeam]
    exact ⟨_, _, rfl, Map.find?_put_self .., rfl, rfl⟩
  | _ => simp [EngCmd.isCopy, hcmd] at hc

/-! ## The units of a COPY (R345) -/

section
variable {a : EArgs} {sf df : Nat} {par : List Word}

theorem exec_copyLineLand (ht : s.team? t = some T) (hy : Map.find? T.eng i = some y) (hc : y.cmd = .copy a .mem .mem sf df par) (hok : copyRowOk par = true)
    (hm : s.unitMay t T i u y = true) (hq : s.acqHeld t y = false) (ha : T.copiesActive.contains i = true) (hw : y.wants u (copyUnits par) = true) :
    exec (.copyLineLand t i u) s = .next (s.copyUnit t T i y a .mem .mem sf df par u) := by
  change execCopyLineLand t i u s = _
  simp only [execCopyLineLand, ht, hy, hc, hm, hq, ha, hok, hw, Bool.not_false, Bool.and_self, if_true]

/-- A unit between two places of memory, whose line has been read and whose destination may be written. -/
theorem copyUnit_mem {bs : List Byte} {f : Bool} {va pa : Nat} {lv : Bool} (hok : copyRowOk par = true) (ho : T.copyOpen y .mem df par u = true)
    (hx : s.unitTxs t i u y.order = [])
    (hr : s.streamRead T true (s.behind T y) (BitVec.ofNat 64 (copySrcAt par u)) = (s1, .inl bs))
    (hl : (s1.modEng t i fun e => e.startUnit u).resolve T none (BitVec.ofNat 64 (copyDstAt par u)) 128 = .mem f va) (hva : va % 128 = 0)
    (hj : (s1.modEng t i fun e => e.startUnit u).judgeStore T.ctx T.cluster false va true = (s2, .ok pa lv)) :
    s.copyUnit t T i y a .mem .mem sf df par u = ((s2.putLine pa bs).spoilMem pa 128).copyLanded t i .mem .mem sf df par u := by
  have hs : sentState (s.unitTxs t i u y.order) = none := by rw [hx]; rfl
  have hb : ((CopyKind.mem == .feed && T.feedBad sf par) || (CopyKind.mem == .feed && T.feedBad df par)) = false := rfl
  simp only [State.copyUnit, hok, hb, hs, ho, State.copyRead, hr, State.copyWrite, hl, hva, hj, Bool.not_true, Bool.false_eq_true, ne_eq,
    not_true_eq_false, if_false]

/-- What a unit that has landed changes beside its command: neither memory nor poison. -/
theorem copyLanded_rest (s : State) : ∃ l, s.copyLanded t i .mem .mem sf df par u = { s with teams := l } := by
  unfold State.copyLanded
  split
  · exact ⟨_, rfl⟩
  · dsimp only
    split
    · exact ⟨_, rfl⟩
    · exact ⟨_, rfl⟩

theorem exec_copyComplete (ht : s.team? t = some T) (hy : Map.find? T.eng i = some y) (hc : y.cmd = .copy a .mem .mem sf df par) :
    exec (.copyComplete t i) s =
      if T.core?.isSome && !T.killed && y.st.inQueue && !y.st.isFaulted && copyRowOk par && decide (copyUnits par ≤ y.cpos) then .next (s.finishCmd t i y)
      else .next s := by
  change execCopyComplete t i s = _
  simp only [execCopyComplete, ht, hy, hc]

end

/-! ## The cube (R379, R382-R384) -/

theorem exec_cubeComplete (ht : s.team? t = some T) (hy : Map.find? T.eng i = some y) : exec (.cubeComplete t i) s =
    if y.cmd.isCube && y.st.inQueue && T.core?.isSome && !T.killed && decide (y.cmd.steps ≤ y.cpos) then .next (s.finishCmd t i y) else .next s := by
  change execCubeComplete t i s = _
  simp only [execCubeComplete, ht, hy]

end

/-! ### Tiles -/

section
variable {x : Tile} {b : Block} {m n : Nat}

/-- Row and column of an element that lies in a block. -/
def InBlock (b : Block) (m n : Nat) : Prop := b.om ≤ m ∧ m < b.om + b.m ∧ b.on ≤ n ∧ n < b.on + b.n

theorem zero_at (hn : n < 64) (h : ¬InBlock b m n) : (x.zero b).at m n = x.at m n := by
  refine Map.get_filter_keep _ _ (fun k => !decide (b.om ≤ k / 64 ∧ k / 64 < b.om + b.m ∧ b.on ≤ k % 64 ∧ k % 64 < b.on + b.n)) ?_
  rw [show (64 * m + n) / 64 = m by omega, show (64 * m + n) % 64 = n by omega, Bool.not_eq_true']
  exact decide_eq_false h

theorem wipe_at (hn : n < 64) (h : ¬InBlock b m n) : (x.wipe b).at m n = x.at m n := by
  unfold Tile.wipe
  split
  · exact zero_at hn h
  · exact zero_at hn h

theorem put_at {p q : Nat} (w : Word) (hn : n < 64) (h : ¬(p = m ∧ q = n)) : (x.put p q w).at m n = x.at m n := by
  unfold Tile.put
  split
  · exact Map.get_set_ne _ _ _ (by omega)
  · rfl

theorem foldl_put_at {l : List (Nat × Nat × Word)} (hn : n < 64) (h : ∀ e ∈ l, ¬(e.1 = m ∧ e.2.1 = n)) :
    (l.foldl (fun x e => x.put e.1 e.2.1 e.2.2) x).at m n = x.at m n := by
  induction l generalizing x with
  | nil => rfl
  | cons e r ih =>
    rw [List.foldl_cons, ih fun y hy => h y (List.mem_cons_of_mem _ hy)]
    exact put_at _ hn (h e List.mem_cons_self)

end

section
variable {o : CubeOp} {T : Team} {fa fb fc k p : Nat} {init : Bool}

/-- The results of a pass lie in its block. -/
theorem results_in_block {x : Tile} {e : Nat × Nat × Word} (h : e ∈ (o.results T x fa fb fc p).1) : InBlock o.b e.1 e.2.1 := by
  simp only [CubeOp.results, List.mem_map, List.mem_flatMap, mem_span] at h
  obtain ⟨_, ⟨m, hm, _, ⟨n, hn, rfl⟩, rfl⟩, rfl⟩ := h
  simp only [InBlock]
  omega

theorem tile_modTile_ne {j : Nat} (f : Tile → Tile) (h : j ≠ k) : (T.modTile k f).tile j = T.tile j := by
  simp only [Team.tile, Team.modTile, List.getD_eq_getElem?_getD, List.getElem?_modify, if_neg h.symm, Option.map_eq_map, Option.map_id']

theorem tile_modTile {f : Tile → Tile} (h : k < T.tiles.length) : (T.modTile k f).tile k = f (T.tile k) := by
  simp [Team.tile, Team.modTile, List.getElem?_modify, List.getElem?_eq_getElem h]

/-- A pass at its start: its block is wiped by the first one of a command with INIT. -/
def passStart (o : CubeOp) (T : Team) (init : Bool) (k p : Nat) : Team := if init && p == 0 then T.modTile k (fun x => x.wipe o.b) else T

/-- The tiles after a pass. -/
def passTiles (o : CubeOp) (T : Team) (init : Bool) (fa fb fc k p : Nat) : Team :=
  let T0 := passStart o T init k p
  let r := o.results T0 (T0.tile k) fa fb fc p
  T0.modTile k fun x => (r.1.foldl (fun x e => x.put e.1 e.2.1 e.2.2) x).addFlags r.2

theorem pass_eq : (o.pass T init fa fb fc k p).1 =
    let T2 := ((passTiles o T init fa fb fc k p).eat fa (o.eats p * o.sizeA)).eat fb (o.eats p * o.sizeB)
    if o.mode = .two then T2 else T2.eat fc (o.eats p * o.sizeC) := rfl

/-- A pass changes nothing of its team but tiles and feeds. -/
theorem pass_rest : ∃ l f, (o.pass T init fa fb fc k p).1 = { T with tiles := l, feeds := f } ∧ l = (passTiles o T init fa fb fc k p).tiles := by
  have hs : ∃ l, passStart o T init k p = { T with tiles := l } := by
    unfold passStart
    split
    · exact ⟨_, rfl⟩
    · exact ⟨_, rfl⟩
  have ht : ∃ l, passTiles o T init fa fb fc k p = { T with tiles := l } := by
    obtain ⟨l, hl⟩ := hs
    unfold passTiles
    rw [hl]
    exact ⟨_, rfl⟩
  obtain ⟨l, hl⟩ := ht
  rw [pass_eq, hl]
  dsimp only
  split
  · exact ⟨_, _, rfl, rfl⟩
  · exact ⟨_, _, rfl, rfl⟩

theorem passStart_length : (passStart o T init k p).tiles.length = T.tiles.length := by
  unfold passStart
  split
  · exact List.length_modify ..
  · rfl

theorem passTiles_tile_ne {j : Nat} (h : j ≠ k) : (passTiles o T init fa fb fc k p).tile j = T.tile j := by
  rw [passTiles, tile_modTile_ne _ h, passStart]
  split
  · exact tile_modTile_ne _ h
  · rfl

theorem passTiles_at {m n : Nat} (hk : k < T.tiles.length) (hn : n < 64) (h : ¬InBlock o.b m n) :
    ((passTiles o T init fa fb fc k p).tile k).at m n = (T.tile k).at m n := by
  rw [passTiles, tile_modTile (by rw [passStart_length]; exact hk)]
  refine (foldl_put_at hn fun e he hmn => h ?_).trans ?_
  · rw [← hmn.1, ← hmn.2]
    exact results_in_block he
  · unfold passStart
    split
    · rw [tile_modTile hk]
      exact wipe_at hn h
    · rfl

theorem feed_setFeed (T : Team) (f : Nat) (F : Feed) : (T.setFeed f F).feed f = F := Map.get_set_self ..

theorem feed_setFeed_ne (T : Team) {f g : Nat} (F : Feed) (h : g ≠ f) : (T.setFeed f F).feed g = T.feed g := Map.get_set_ne _ _ _ h

theorem passTiles_feed (f : Nat) : (passTiles o T init fa fb fc k p).feed f = T.feed f := by
  unfold passTiles passStart
  dsimp only
  split <;> rfl

/-- A pass of two operands consumes its z-blocks from both feeds (R383). -/
theorem pass_feeds (hm : o.mode = .two) (hf : fa ≠ fb) :
    ((o.pass T init fa fb fc k p).1.feed fa).ccnt = ((T.feed fa).ccnt + o.eats p * o.sizeA) % 2 ^ 32 ∧
      ((o.pass T init fa fb fc k p).1.feed fb).ccnt = ((T.feed fb).ccnt + o.eats p * o.sizeB) % 2 ^ 32 := by
  rw [pass_eq]
  dsimp only
  rw [if_pos hm]
  simp only [Team.eat, feed_setFeed, feed_setFeed_ne _ _ hf, feed_setFeed_ne _ _ hf.symm, passTiles_feed, and_self]

theorem cubeOp_mode {mode : CubeMode} {par : List Word} (h : cubeOp mode par = some o) : o.mode = mode := by
  obtain ⟨q, -, rfl⟩ := Option.map_eq_some_iff.mp h
  rfl

/-! ### Drains (R387-R389) -/

theorem foldl_spoil_rest (l : List (Nat × Byte)) (f : Nat → Nat) (T : Team) :
    ∃ g, l.foldl (fun T e => T.spoil (f e.1) 1) T = { T with eng := g } := by
  induction l generalizing T with
  | nil => exact ⟨T.eng, rfl⟩
  | cons e r ih =>
    obtain ⟨g, hg⟩ := ih (T.spoil (f e.1) 1)
    exact ⟨g, hg⟩

theorem ringWrite_feed (T : Team) (F : Feed) (c : Nat) (bs : List (Nat × Byte)) (f : Nat) : (T.ringWrite F c bs).feed f = T.feed f := by
  obtain ⟨g, hg⟩ := foldl_spoil_rest bs (fun j => F.byteAt (c + j))
    { T with scratch := bs.foldl (fun m e => Memory.set m (F.byteAt (c + e.1)) e.2) T.scratch }
  rw [Team.ringWrite, hg]
  rfl

/-- What a drain step leaves of the producer's count: the last one moves it by the whole output. -/
theorem drainPart_feed (T : Team) (f : DrainFmt) (clr : Bool) (df delta : Nat) (b : Block) (j : Nat) :
    ((T.drainPart f clr df k delta b j).1.feed df).pcnt =
      if drainSteps b ≤ j + 1 then ((T.feed df).pcnt + ((T.tile k).drain f delta b).1.length) % 2 ^ 32 else (T.feed df).pcnt := by
  unfold Team.drainPart
  by_cases h : drainSteps b ≤ j + 1
  · simp only [h, decide_true, if_true, feed_setFeed]
  · simp only [h, decide_false, Bool.false_eq_true, if_false, ringWrite_feed]
    rfl

end

/-- Settles O47: each event by the command of its entry; a unit of a COPY by the address that its store is judged to. -/
theorem engineEvents : Obligations.EngineEvents := by
  intro s t i u x T y c
  refine ⟨fun ht hy => ⟨fun hst hx => ?_, fun hst hp ha hr => ?_, fun hst hp w hw hh => ?_, fun h => ?_, issueEng_copy ht hy,
      fun a par sf df hc hok => ⟨fun hm hq hca hw ho hx s1 s2 bs va pa lv f hr hlen => ?_, fun hnf hq hcore hk hle => ?_, fun hlt => ?_⟩,
      fun hcube hq hcore hk hle => ?_, fun hlt => ?_, fun hn => ⟨fun a mode init fa fb fc k par o hc ho hk => ?_, fun a f clr df k delta par hc => ?_⟩⟩,
    fun hn => ⟨?_, ?_⟩⟩
  · have hule : (BitVec.ofNat 64 x).ule s.dtime = decide (x ≤ s.dtime.toNat) := by
      rw [BitVec.ule, BitVec.toNat_ofNat, Nat.mod_eq_of_lt hx]
    refine ⟨fun hle hwk hroom => ?_, fun hlt => ?_, fun hroom => ?_⟩
    · rw [exec_attimeFire ht hy hst, hule, decide_eq_true hle, hwk, hroom]
      rfl
    · rw [exec_attimeFire ht hy hst, hule, decide_eq_false (by omega)]
      rfl
    · rw [exec_attimeFire ht hy hst, hroom, Bool.and_false]
      rfl
  · rw [exec_firedCommand ht hy, if_neg (by simp [hst, hp]), ha]
    exact congrArg _ (if_pos hr)
  · rw [exec_firedCommand ht hy, if_neg (by simp [hst, hp]), hw]
    exact congrArg _ (if_pos hh)
  · rw [exec_firedCommand ht hy]
    split
    · rfl
    · rename_i hn
      rcases h with h | h | ⟨ha, hr⟩ | ⟨ha, hh⟩
      · exact absurd (.inl h) hn
      · exact absurd (.inr h) hn
      · rw [ha]
        exact congrArg _ (if_neg (by simp [hr]))
      · obtain ⟨w, hw⟩ := Option.isSome_iff_exists.mp ha
        rw [hw]
        exact congrArg _ (if_neg (by omega))
  · intro s0 hl hva hj
    obtain ⟨l, hl'⟩ := copyLanded_rest (t := t) (i := i) (u := u) (sf := sf) (df := df) (par := par) ((s2.putLine pa bs).spoilMem pa 128)
    refine ⟨_, exec_copyLineLand ht hy hc hok hm hq hca hw, ?_⟩
    rw [copyUnit_mem hok ho hx hr hl hva hj, hl']
    refine ⟨?_, fun z hz => Memory.get_store_out s2.mem pa bs (hlen ▸ hz), fun hp => ?_⟩
    · rw [← hlen]
      exact Memory.bytes_store s2.mem pa bs
    · exact absurd rfl (of_decide_eq_true (List.mem_filter.mp hp).2)
  · rw [exec_copyComplete ht hy hc, if_pos (by simp [hnf, hq, hcore, hk, hok, hle])]
  · rw [exec_copyComplete ht hy hc, if_neg (by simp [Nat.not_le.mpr hlt])]
  · rw [exec_cubeComplete ht hy, if_pos (by simp [hcube, hq, hcore, hk, hle])]
  · rw [exec_cubeComplete ht hy, if_neg (by simp [Nat.not_le.mpr hlt])]
  · obtain ⟨l, F, hrest, hl⟩ := pass_rest (o := o) (T := T) (init := init) (fa := fa) (fb := fb) (fc := fc) (k := k) (p := y.cpos)
    let r := o.pass T init fa fb fc k y.cpos
    have he : exec (.cubePass c) s = .next ((s.setTeam t r.1).modEng t i fun e => e.stepped r.2) := by
      change execCubePass c s = _
      simp only [execCubePass, hn, ht, hy, hc, ho] <;> rfl
    have hfe : Map.find? r.1.eng i = some y := by rw [show r.1 = _ from hrest]; exact hy
    have htile (j : Nat) : r.1.tile j = (passTiles o T init fa fb fc k y.cpos).tile j := by
      rw [show r.1 = _ from hrest, Team.tile, Team.tile, hl]
    refine ⟨_, { r.1 with eng := Map.modify r.1.eng i fun e => e.stepped r.2 }, y.stepped r.2, he, ?_, ?_, rfl, fun j hj => ?_, fun m n _ hn' hb => ?_,
      fun hm hf => pass_feeds ((cubeOp_mode ho).trans hm) hf, fun _ => rfl⟩
    · rw [State.modEng, team?_modTeam, State.team?_setTeam]
      rfl
    · rw [find?_modify_self, hfe]
      rfl
    · exact (htile j).trans (passTiles_tile_ne hj)
    · exact (congrArg (Tile.at · m n) (htile k)).trans (passTiles_at hk hn' hb)
  · intro r
    have hsteps : y.cmd.steps = drainSteps (blockOf (parAt par 0)) := by rw [hc]; rfl
    have hfeed := drainPart_feed (k := k) T f clr df delta (blockOf (parAt par 0)) y.cpos
    refine ⟨?_, fun hlt => ?_, fun hle => ?_⟩
    · change execCdrainStep c s = _
      simp only [execCdrainStep, hn, ht, hy, hc] <;> rfl
    · exact hfeed.trans (if_neg (by omega))
    · exact hfeed.trans (if_pos (by omega))
  · change execCubePass c s = _
    rw [execCubePass, hn]
  · change execCdrainStep c s = _
    rw [execCdrainStep, hn]

end Sys2Proof.Laws.Engines
end


section
/-! What a store may change (R60-R62, R163, R363): memory, what is kept of its past, poison, the banks' queues, cached translations, the fault ring. The
canonical form of memory is kept. -/

namespace Sys2Proof.Laws.Storing

open Sys2Proof Sys2Proof.Machine Sys2Proof.Laws.Rules Sys2Proof.Laws.Reading Sys2Proof.Laws.Windows Sys2Proof.Laws.Placement

/-- At most memory and what goes with it has changed, and memory has its canonical form if it had it. -/
structure Stores (s s' : State) : Prop where
  rest : ∃ mem old past ctr poison banks held tlbs flt,
    s' = { s with mem := mem, oldCode := old, past := past, pastCtr := ctr, poison := poison, banks := banks, held := held, tlbs := tlbs, flt := flt }
  wf : Memory.wf s.mem = true → Memory.wf s'.mem = true

section
variable {s s1 s2 : State}

theorem Stores.refl (s : State) : Stores s s := ⟨⟨_, _, _, _, _, _, _, _, _, rfl⟩, id⟩

theorem Stores.trans (h : Stores s s1) (h' : Stores s1 s2) : Stores s s2 := by
  refine ⟨?_, fun hw => h'.wf (h.wf hw)⟩
  obtain ⟨⟨_, _, _, _, _, _, _, _, _, rfl⟩, -⟩ := h
  obtain ⟨⟨_, _, _, _, _, _, _, _, _, rfl⟩, -⟩ := h'
  exact ⟨_, _, _, _, _, _, _, _, _, rfl⟩

theorem Stores.of_onlyReads (h : OnlyReads s s1) : Stores s s1 := by
  obtain ⟨_, _, _, rfl⟩ := h
  exact ⟨⟨_, _, _, _, _, _, _, _, _, rfl⟩, id⟩

theorem Stores.teams (h : Stores s s1) : s1.teams = s.teams := by
  obtain ⟨⟨_, _, _, _, _, _, _, _, _, rfl⟩, -⟩ := h
  rfl

theorem Stores.team? (h : Stores s s1) (t : Nat) : s1.team? t = s.team? t := by rw [State.team?, h.teams, State.team?]

theorem Stores.opal (h : Stores s s1) : s1.opal = s.opal := by
  obtain ⟨⟨_, _, _, _, _, _, _, _, _, rfl⟩, -⟩ := h
  rfl

theorem stores_touch (s : State) (c : Option CtxId) (pa : Nat) : Stores s (s.touch c pa) := .of_onlyReads (onlyReads_touch ..)

theorem stores_touchAll (s : State) (c : Option CtxId) (pas : List Nat) : Stores s (s.touchAll c pas) := .of_onlyReads (onlyReads_touchAll ..)

theorem stores_store (s : State) (a : Nat) (bs : List Byte) : Stores s (s.store a bs) := ⟨⟨_, _, _, _, _, _, _, _, _, rfl⟩, Memory.wf_store a bs⟩

theorem stores_seen (s : State) (a n : Nat) : Stores s (s.seen a n) := ⟨⟨_, _, _, _, _, _, _, _, _, rfl⟩, id⟩

theorem stores_tlbDrop (s : State) (bad : TlbEntry → Bool) : Stores s (s.tlbDrop bad) := ⟨⟨_, _, _, _, _, _, _, _, _, rfl⟩, id⟩

theorem stores_putLine (s : State) (a : Nat) (bs : List Byte) : Stores s (s.putLine a bs) := ⟨⟨_, _, _, _, _, _, _, _, _, rfl⟩, Memory.wf_store a bs⟩

theorem wf_foldl_clear {α : Type} (f : α → Nat) (n : Nat) (l : List α) (m : List Host.Cell) (h : Memory.wf m = true) :
    Memory.wf (l.foldl (fun m x => Memory.clear m (f x) n) m) = true := by
  induction l generalizing m with
  | nil => exact h
  | cons x r ih => exact ih _ (Memory.wf_clear (f x) n h)

theorem stores_copyPage (s : State) (src dst : Nat) : Stores s (s.copyPage src dst) :=
  ⟨⟨_, _, _, _, _, _, _, _, _, rfl⟩, fun h => wf_foldl_clear (fun l => l * 128 - src + dst) 128 _ _ (Memory.wf_copy src dst 65536 h)⟩

theorem stores_translate (s : State) (c : CtxId) (cl : Option Nat) (va : Nat) : Stores s (s.translate c cl va).1 := .of_onlyReads (onlyReads_translate ..)

theorem stores_setMem (s : State) (a : Nat) (b : Byte) : Stores s { s with mem := Memory.set s.mem a b } :=
  ⟨⟨_, _, _, _, _, _, _, _, _, rfl⟩, Memory.wf_set a b⟩

theorem stores_setD (s : State) (c : CtxId) (va : Nat) : Stores s (s.setD c va) := by
  unfold State.setD
  split
  · exact .refl s
  · split
    · exact ((stores_setMem s _ _).trans (stores_touch ..)).trans ⟨⟨_, _, _, _, _, _, _, _, _, rfl⟩, id⟩
    · exact .refl s

theorem stores_cowPage (s : State) (ctx : CtxId) (cl : Option Nat) (c : Ctx) (va : Nat) (e : Pte) : Stores s (s.cowPage ctx cl c va e).1 := by
  unfold State.cowPage
  dsimp only
  split
  · exact .refl s
  · have h0 := stores_touch s (some ctx) (s.cownAt ctx)
    split
    · exact h0
    · have h1 := h0.trans (.of_onlyReads (onlyReads_judgeLoad (s.touch (some ctx) (s.cownAt ctx)) ctx cl false
        (c.cowfl + 8 * ((s.touch (some ctx) (s.cownAt ctx)).val ((s.touch (some ctx) (s.cownAt ctx)).cownAt ctx) 4 - 1))))
      split
      · rename_i hj
        rw [hj] at h1
        split
        · exact h1
        · split
          · exact h1
          · split
            · exact ((((((h1.trans (stores_store ..)).trans (stores_touchAll ..)).trans (stores_copyPage ..)).trans (stores_seen ..)).trans
                (stores_store ..)).trans (stores_tlbDrop ..))
            · exact h1
      · rename_i hj
        rw [hj] at h1
        exact h1

theorem stores_judgeStoreOnce (s : State) (ctx : CtxId) (cl : Option Nat) (priv : Bool) (va : Nat) (full retry : Bool) :
    Stores s (s.judgeStoreOnce ctx cl priv va full retry).1 := by
  unfold State.judgeStoreOnce
  dsimp only
  have h0 := stores_translate s ctx cl va
  split
  · exact h0
  · exact h0
  · rename_i e _
    split
    · exact h0
    · split
      · exact h0
      · split
        · have h1 := h0.trans (stores_touch (s.translate ctx cl va).1 (some ctx) (e.pa va))
          split
          · dsimp only
            split
            · exact h1
            · exact h1.trans (stores_setD ..)
          · exact h1
        · split
          · split
            · exact h0
            · rename_i c _
              split
              · split
                · have h1 := h0.trans (stores_cowPage (s.translate ctx cl va).1 ctx cl c va e)
                  split
                  · rename_i hc
                    rw [hc] at h1
                    exact h1
                  · rename_i hc
                    rw [hc] at h1
                    exact h1
                · exact h0.trans (stores_tlbDrop ..)
              · exact h0.trans (stores_tlbDrop ..)
          · exact h0

/-- What judging a store changes (R60, R62): at most a copied page, marks of the page tables and cached translations. -/
theorem stores_judgeStore (s : State) (ctx : CtxId) (cl : Option Nat) (priv : Bool) (va : Nat) (full : Bool) :
    Stores s (s.judgeStore ctx cl priv va full).1 := by
  have h1 := stores_judgeStoreOnce s ctx cl priv va full true
  unfold State.judgeStore
  split
  · rename_i e1
    rw [e1] at h1
    exact h1
  · rename_i s1 e1
    rw [e1] at h1
    have h2 := h1.trans (stores_judgeStoreOnce s1 ctx cl priv va full true)
    split
    · rename_i e2
      rw [e2] at h2
      exact h2
    · rename_i s2 e2
      rw [e2] at h2
      have h3 := h2.trans (stores_judgeStoreOnce s2 ctx cl priv va full false)
      split
      · rename_i e3
        rw [e3] at h3
        exact h3
      · rename_i e3
        rw [e3] at h3
        exact h3

theorem stores_report (s : State) (r : FaultRec) : Stores s (s.report r) := by
  unfold State.report
  split
  · exact ((stores_touch ..).trans (stores_store ..)).trans ⟨⟨_, _, _, _, _, _, _, _, _, rfl⟩, id⟩
  · exact ⟨⟨_, _, _, _, _, _, _, _, _, rfl⟩, id⟩

end

/-! ## Teams that stay (R415, R424) -/

/-- Every team of `s` is still there. -/
structure HasTeams (s s' : State) : Prop where
  has : ∀ u, (s.team? u).isSome → (s'.team? u).isSome

section
variable {s s1 s2 : State} {t : Nat}

theorem HasTeams.refl (s : State) : HasTeams s s := ⟨fun _ => id⟩

theorem HasTeams.trans (h : HasTeams s s1) (h' : HasTeams s1 s2) : HasTeams s s2 := ⟨fun u hu => h'.has u (h.has u hu)⟩

theorem HasTeams.of_teams (h : s1.teams = s.teams) : HasTeams s s1 := ⟨fun u hu => by rw [State.team?, h]; exact hu⟩

theorem KeepsTeams.has (h : KeepsTeams s s1) : HasTeams s s1 := by
  refine ⟨fun u hu => ?_⟩
  obtain ⟨T, hT⟩ := Option.isSome_iff_exists.mp hu
  obtain ⟨l, hl⟩ := h.same u T hT
  rw [hl]
  rfl

theorem hasTeams_foldl {α : Type} {f : State → α → State} (h : ∀ s x, HasTeams s (f s x)) (xs : List α) (s : State) : HasTeams s (xs.foldl f s) := by
  induction xs generalizing s with
  | nil => exact .refl s
  | cons x xs ih => exact (h s x).trans (ih _)

theorem hasTeams_setTeam (s : State) (t : Nat) (T : Team) : HasTeams s (s.setTeam t T) := by
  refine ⟨fun u hu => ?_⟩
  by_cases h : u = t
  · rw [h, State.team?_setTeam]
    rfl
  · rwa [State.team?_setTeam_ne _ _ h]

theorem hasTeams_modTeam (s : State) (t : Nat) (f : Team → Team) : HasTeams s (s.modTeam t f) := by
  refine ⟨fun u hu => ?_⟩
  by_cases h : u = t
  · rw [h] at hu ⊢
    rwa [team?_modTeam, Option.isSome_map]
  · rwa [team?_modTeam_ne _ _ h]

theorem hasTeams_report (s : State) (r : FaultRec) : HasTeams s (s.report r) := .of_teams (stores_report s r).teams

theorem hasTeams_arithEng (s : State) (t i : Nat) (src : BitVec 4) (f : BitVec 5) (w : Word) : HasTeams s (s.arithEng t i src f w) := by
  unfold State.arithEng
  split
  · exact .refl s
  · split
    · exact .refl s
    · exact (hasTeams_setTeam ..).trans (hasTeams_report ..)

theorem hasTeams_stopEng (s : State) (t i : Nat) (f : Trap) : HasTeams s (s.stopEng t i f) := by
  unfold State.stopEng
  split
  · exact .refl s
  · split
    · exact .refl s
    · exact (hasTeams_modTeam ..).trans (hasTeams_report ..)

theorem hasTeams_issueEng (s : State) (t i : Nat) : HasTeams s (s.issueEng t i) := by
  unfold State.issueEng
  split
  · exact .refl s
  · split
    · exact .refl s
    · dsimp only
      split
      · exact hasTeams_setTeam ..
      · refine .trans ?_ (hasTeams_modTeam ..)
        exact .of_teams rfl
      · exact hasTeams_modTeam ..

theorem hasTeams_tryWaiting (s : State) (t i : Nat) : HasTeams s (s.tryWaiting t i) := by
  unfold State.tryWaiting
  split
  · exact .refl s
  · split
    · split
      · exact .refl s
      · split
        · split
          · exact hasTeams_modTeam ..
          · exact .refl s
        · split
          · exact hasTeams_issueEng ..
          · exact .refl s
    · exact .refl s

theorem hasTeams_fire (s : State) (t i : Nat) : HasTeams s (s.fire t i) := by
  unfold State.fire
  split
  · exact .refl s
  · split
    · exact .refl s
    · split
      · split
        · exact (hasTeams_modTeam ..).trans (hasTeams_modTeam ..)
        · split
          · exact (hasTeams_modTeam ..).trans (hasTeams_modTeam ..)
          · exact hasTeams_stopEng ..
      · dsimp only
        refine .trans ?_ (hasTeams_tryWaiting ..)
        exact ⟨fun u hu => (hasTeams_modTeam s t _).has u hu⟩

theorem hasTeams_unpark (s : State) (t : Nat) (T : Team) (tid : Nat) (th : Thread) : HasTeams s (s.unpark t T tid th) :=
  (hasTeams_setTeam ..).trans (KeepsTeams.has (keepsTeams_formerAdd ..))

theorem hasTeams_release (s : State) (t tid : Nat) (f : Thread → Thread) : HasTeams s (s.release t tid f) := by
  unfold State.release State.onThread
  split
  · exact .refl s
  · split
    · exact .refl s
    · dsimp only
      split
      · exact hasTeams_unpark ..
      · exact .refl s

theorem hasTeams_flip (s : State) (t k : Nat) : HasTeams s (s.flip t k) := by
  unfold State.flip
  split
  · exact .refl s
  · exact (((hasTeams_setTeam ..).trans (hasTeams_foldl (fun s i => hasTeams_fire s t i) _ _)).trans (hasTeams_modTeam ..)).trans
      (hasTeams_foldl (fun s tid => hasTeams_release s t tid id) _ _)

theorem hasTeams_arriveBar (s : State) (t k : Nat) (who : Option Nat) : HasTeams s (s.arriveBar t k who) := by
  refine (hasTeams_modTeam s t fun T => T.arrive k who).trans ?_
  unfold State.arriveBar State.testBar
  split
  · exact .refl _
  · split
    · exact hasTeams_flip ..
    · exact .refl _

theorem hasTeams_arriveCmd (s : State) (t : Nat) (a : EArgs) : HasTeams s (s.arriveCmd t a) := by
  unfold State.arriveCmd
  split
  · exact hasTeams_arriveBar ..
  · exact .refl s

end

/-! ## Commands that wait for room (R424) -/

/-- Waiting commands have been issued: no entry is taken, no ready map and no outcome of a collective changes. -/
structure Issued (s s' : State) : Prop where
  team : ∀ t T, s.team? t = some T → ∃ T', s'.team? t = some T' ∧ T'.ready = T.ready ∧ ∀ i, Map.find? T.eng i = none → Map.find? T'.eng i = none
  outcomes : s'.opal.outcomes = s.opal.outcomes

section
variable {s s1 s2 : State} {t i : Nat} {T : Team}

theorem Issued.refl (s : State) : Issued s s := ⟨fun _ T h => ⟨T, h, rfl, fun _ => id⟩, rfl⟩

theorem Issued.trans (h : Issued s s1) (h' : Issued s1 s2) : Issued s s2 := by
  refine ⟨fun t T hT => ?_, h'.outcomes.trans h.outcomes⟩
  obtain ⟨T1, h1, hr1, he1⟩ := h.team t T hT
  obtain ⟨T2, h2, hr2, he2⟩ := h'.team t T1 h1
  exact ⟨T2, h2, hr2.trans hr1, fun i hi => he2 i (he1 i hi)⟩

theorem find?_modify_none {α : Type} {m : Map α} {j : Nat} (k : Nat) (f : α → α) (h : Map.find? m j = none) : Map.find? (Map.modify m k f) j = none := by
  by_cases hj : j = k
  · rw [← hj, find?_modify_self, h]
    rfl
  · rw [Map.find?_modify_ne _ _ hj, h]

theorem issued_modEng (s : State) (t i : Nat) (f : Eng → Eng) : Issued s (s.modEng t i f) := by
  refine ⟨fun u U hU => ?_, rfl⟩
  by_cases h : u = t
  · subst h
    exact ⟨{ U with eng := Map.modify U.eng i f }, by rw [State.modEng, team?_modTeam, hU]; rfl, rfl, fun j hj => find?_modify_none i f hj⟩
  · exact ⟨U, by rw [State.modEng, team?_modTeam_ne _ _ h]; exact hU, rfl, fun _ => id⟩

theorem clearPresence_rest (T : Team) (c : EngCmd) : ∃ l, T.clearPresence c = { T with absent := l } := by
  unfold Team.clearPresence
  generalize span 0 c.units = us
  suffices h : ∀ U : Team, (∃ l, U = { T with absent := l }) → ∃ l, us.foldl (fun T u => match c.unitLine T u with | some l => T.owe l | none => T) U =
      { T with absent := l } from h T ⟨_, rfl⟩
  induction us with
  | nil => exact fun U h => h
  | cons u us ih =>
    intro U ⟨l, hl⟩
    refine ih _ ?_
    dsimp only
    split
    · exact ⟨_, by rw [hl]; rfl⟩
    · exact ⟨l, hl⟩

theorem issued_issueEng (s : State) (t i : Nat) : Issued s (s.issueEng t i) := by
  unfold State.issueEng
  split
  · exact .refl s
  · rename_i T hT
    split
    · exact .refl s
    · rename_i e0 he0
      dsimp only
      split
      · refine ⟨fun u U hU => ?_, rfl⟩
        by_cases h : u = t
        · subst h
          obtain rfl := Option.some.inj (hT.symm.trans hU)
          obtain ⟨l, hl⟩ := clearPresence_rest T e0.cmd
          refine ⟨_, State.team?_setTeam .., ?_, fun j hj => ?_⟩
          · rw [hl]
          · rw [hl]
            exact (Map.find?_put_ne T.eng _ fun hji => by rw [hji, he0] at hj; simp at hj).trans hj
        · exact ⟨U, by rw [State.team?_setTeam_ne _ _ h]; exact hU, rfl, fun _ => id⟩
      · refine .trans ?_ (issued_modEng ..)
        exact ⟨fun _ T h => ⟨T, h, rfl, fun _ => id⟩, rfl⟩
      · exact issued_modEng ..

theorem issued_tryWaiting (s : State) (t i : Nat) : Issued s (s.tryWaiting t i) := by
  unfold State.tryWaiting
  split
  · exact .refl s
  · split
    · split
      · exact .refl s
      · split
        · split
          · exact issued_modEng ..
          · exact .refl s
        · split
          · exact issued_issueEng ..
          · exact .refl s
    · exact .refl s

theorem issued_drainWaiting (s : State) : Issued s s.drainWaiting := by
  unfold State.drainWaiting
  generalize s.waitingEng = l
  induction l generalizing s with
  | nil => exact .refl s
  | cons e r ih => exact (issued_tryWaiting ..).trans (ih _)

end

end Sys2Proof.Laws.Storing
end


section
/-! Opal's events (R437-R462): the start of a collective, rendezvous, transfers, queries, aborts, completion, the tree's schedule. -/

namespace Sys2Proof.Laws.Collectives

open Sys2Proof Sys2Proof.Machine Sys2Proof.Laws.Rules Sys2Proof.Laws.Storing

/-! ## The start of a collective (R437, R438) -/

section
variable {s s1 s2 s3 : State} {t i k : Nat} {T : Team} {y : Eng} {r : CollRun} {a : EArgs} {grp : BitVec 8} {par : List Word}

theorem exec_collStart (ht : s.team? t = some T) (hy : Map.find? T.eng i = some y) (hc : y.cmd = .coll a k grp par) (hr : y.run = some r) :
    exec (.collStart t i) s =
      if !T.working || y.st.isFaulted || !y.st.inQueue || s.acqHeld t y then .next s
      else if r.started then .next (s.collGo t i)
      else .next (((s.collBegin t T y i k grp r.seq par).spoilEarly t i r.wrote).collGo t i) := by
  change execCollStart t i s = _
  simp only [execCollStart, ht, hy, hc, hr]

/-- A collective that is legal is known from its block and its ranks. -/
theorem collBegin_legal {hd : List Byte} {es : List (List Nat)} {n me : Nat} {ranks : List GRank} {pm : List Nat} {seq : BitVec 16}
    (hal : opalAddr (pair (par.getD 0 0) (par.getD 1 0)) 128 = true)
    (hb : s.collBlock T (s.behind T y) (pair (par.getD 0 0) (par.getD 1 0)) = (s1, .inl (hd, es)))
    (hg : s1.readGroup T.ctx T.cluster grp.toNat (s.behind T y).1 = (s2, .ok n ranks)) (hme : s2.ownRank T.ctx ranks = some me)
    (he : ∀ o, s2.endOf T.ctx grp seq ≠ some (some o))
    (hl : collLegal hd es ranks.length { collRunOf seq (.inl (hd, es)) ranks with me := me } = true)
    (hp : s2.collPerm T (s.behind T y) (collRunOf seq (.inl (hd, es)) ranks).hdr (BitVec.ofNat 64 (recAt hd 24 8)) ranks.length = (s3, .inl pm))
    (hx : ∀ x ∈ pm, x < ranks.length) (hn : noRepeats pm = true) (hready : T.readyAbove k (hdrTiles (collRunOf seq (.inl (hd, es)) ranks).hdr) = false) :
    s.collBegin t T y i k grp seq par = s3.putRun t i { collRunOf seq (.inl (hd, es)) ranks with me := me, perm := pm, started := true } := by
  have hall : (pm.all fun x => decide (x < ranks.length)) = true := List.all_eq_true.mpr fun x h => decide_eq_true (hx x h)
  rcases hE : s2.endOf T.ctx grp seq with _ | _ | o
  case some.some => exact absurd hE (he o)
  all_goals
    simp only [State.collBegin, hal, if_true, hb, hg, State.collJudge, hme, hE, hl, hp, hall, hn, hready, Bool.not_true, Bool.or_self, Bool.false_eq_true,
      if_false]

end

/-! ## Rendezvous and transfers (R441, R450, R451, R460) -/

section
variable {s : State} {m : CollMsg} {t i : Nat} {y : Eng} {v : CollView} {data : List Byte}

theorem rtrArrive_noContext (h : Map.find? s.ctxs m.ctx.toNat = none) : s.rtrArrive m = (s, .fault Code.collAbort 4) := by
  simp only [State.rtrArrive, h, Option.isNone_none, if_true]

theorem rtrArrive_eq (h : (Map.find? s.ctxs m.ctx.toNat).isSome) : s.rtrArrive m =
    match s.endOf m.ctx m.grp m.seq with
    | some (some o) => (s, .aborted o.others.cause o.others.code o.others.rank o.others.norank)
    | some none => (s, .ack)
    | none =>
      match s.findColl m.ctx m.grp m.seq with
      | none => (s, .wait)
      | some (t, i, _) =>
        match s.coll? t i with
        | none => (s, .wait)
        | some v =>
          if !v.T.takesIn then (s, .wait)
          else if m.hdr ≠ v.r.hdr ∨ m.ctl ≠ (v.r.tile m.tile).ctl then (s.collFail t i 2 { code := Code.collMismatch } none, .ack)
          else
            ((s.modRun t i fun r =>
              { r with sends := if r.sends.any (fun q => q.1 == m.tile && q.2.1 == m.step) then r.sends else r.sends ++ [(m.tile, m.step, m.stage)] }).collTileGo
                t i m.tile, .ack) := by
  rw [State.rtrArrive, if_neg (by rw [← Option.not_isSome, h]; decide)] <;> rfl

theorem coll?_run (h : s.coll? t i = some v) :
    ∃ T e, s.team? t = some T ∧ Map.find? T.eng i = some e ∧ e.run = some v.r ∧ v.T = T ∧ v.e = e := by
  unfold State.coll? at h
  split at h
  · simp at h
  · rename_i T hT
    split at h
    · simp at h
    · rename_i e he
      split at h
      · rename_i r k g hr hc
        split at h
        · obtain rfl := Option.some.inj h
          exact ⟨T, e, hT, he, hr, rfl, rfl⟩
        · simp at h
      · simp at h

theorem modEng_congr {f g : Eng → Eng} {T : Team} {e : Eng} (ht : s.team? t = some T) (he : Map.find? T.eng i = some e) (h : f e = g e) :
    s.modEng t i f = s.modEng t i g := by
  rw [State.modEng, State.modEng, modTeam_eq ht, modTeam_eq ht, Map.modify, Map.modify, he]
  dsimp only
  rw [h]

theorem modRun_congr {f g : CollRun → CollRun} (hv : s.coll? t i = some v) (h : f v.r = g v.r) : s.modRun t i f = s.modRun t i g := by
  obtain ⟨T, e, ht, he, hr, -, -⟩ := coll?_run hv
  exact modEng_congr ht he (by rw [hr, Option.map_some, Option.map_some, h])

theorem transferArrive_eq (hf : s.findColl m.ctx m.grp m.seq = some (t, i, y)) (hv : s.coll? t i = some v) : s.transferArrive m data =
    if !v.T.takesIn then (s, .wait)
    else
      match List.find? (fun (q : Nat × Nat × Nat) => q.1 == m.tile && q.2.1 == m.step) v.r.asked, (v.r.mine m.tile)[(v.r.tile m.tile).step]? with
      | some (k, g, slot), some (g', st) =>
        if g = g' ∧ st.dst = v.r.pos then
          s.collTake t i k g slot st.mode (!((v.r.mine k).drop ((v.r.tile k).step + 1)).any v.r.recvs) v data
        else (s, .ack)
      | _, _ => (s, .ack) := by
  simp only [State.transferArrive, hf, hv] <;> rfl

end

/-! ## Queries and aborts (R441, R460) -/

section
variable {s s1 : State} {ctx : CtxId} {grp : BitVec 8} {seq : BitVec 16}

theorem collState_eq (h : (Map.find? s.ctxs ctx.toNat).isSome) : s.collState ctx grp seq =
    match s.endOf ctx grp seq with
    | some (some o) => .aborted o.others.cause o.others.code o.others.rank o.others.norank
    | some none => .ack
    | none =>
      match s.findColl ctx grp seq with
      | none => .wait
      | some (t, _, e) => if e.run.any CollRun.started && !(s.team? t).any (fun T => decide (T.place = .saved)) then .ack else .wait := by
  rw [State.collState, if_neg (by rw [← Option.not_isSome, h]; decide)] <;> rfl

theorem endOf_keepEnd (s : State) (e : Option CollEnd) : (s.keepEnd ctx grp seq e).endOf ctx grp seq = some e := by
  simp only [State.endOf, State.keepEnd, Map.get_set_self, List.take_succ_cons]
  rw [List.find?_cons_of_pos (by simp)]
  rfl

/-- The outcomes of other sequence numbers stay while there are fewer than 16. -/
theorem endOf_keepEnd_ne {q : BitVec 16} (s : State) (e : Option CollEnd) (hq : q ≠ seq) (hl : (Map.get [] s.opal.outcomes (groupKey ctx grp)).length < 16) :
    (s.keepEnd ctx grp seq e).endOf ctx grp q = s.endOf ctx grp q := by
  have hle := List.length_filter_le (fun e : BitVec 16 × Option CollEnd => e.1 != seq) (Map.get [] s.opal.outcomes (groupKey ctx grp))
  simp only [State.endOf, State.keepEnd, Map.get_set_self]
  rw [List.take_of_length_le (by simp only [List.length_cons]; omega), List.find?_cons_of_neg (by simpa using hq.symm), List.find?_filter]
  congr 2
  funext x
  by_cases hx : x.1 = q
  · simp [hx, hq]
  · simp [hx]

end

/-! ## Completion (R456-R458) -/

section
variable {s s1 : State} {t i : Nat} {v : CollView}

theorem exec_collComplete (h : s.coll? t i = some v) : exec (.collComplete t i) s =
    if !v.T.working || !v.r.tiles.all CollTile.done then .next s
    else
      match s.opalPut t v.T (v.r.stat + 128) 8 fun _ => leBytes 8 (collStatus 1 v.e.flags v.r.seq).toNat with
      | (s1, .wait) => .next s1
      | (s1, .bad f) => .next (s1.collFailQ t i 3 f none true)
      | (s1, .ok) =>
        let s2 := s1.arithEng t i 4 v.e.flags ((v.e.flags &&& v.T.xmask).zeroExtend 32)
        let s3 := match v.e.cmd.args? with | some a => s2.arriveCmd t a | none => s2
        let s4 := (s3.modTeam t fun T => { T with ready := Map.set [] T.ready v.slot [] }).dropEng t i
        .next ((s4.keepEnd v.T.ctx v.grp v.r.seq none).drainWaiting) := by
  change execCollComplete t i s = _
  simp only [execCollComplete, h] <;> rfl

theorem hasTeams_opalPut (s : State) (t : Nat) (T : Team) (a : DWord) (n : Nat) (f : List Byte → List Byte) : HasTeams s (s.opalPut t T a n f).1 := by
  unfold State.opalPut
  split
  · exact .refl s
  · split
    · exact .refl s
    · exact hasTeams_modTeam ..
  · rename_i va _
    have h := stores_judgeStore s T.ctx T.cluster false va (n == 128)
    split
    · rename_i s1 pa _ hj
      rw [hj] at h
      dsimp only
      split
      · exact .of_teams (h.trans (stores_putLine ..)).teams
      · exact .of_teams (h.trans (stores_store ..)).teams
    · rename_i hj
      rw [hj] at h
      exact .of_teams h.teams
    · rename_i hj
      rw [hj] at h
      exact .of_teams h.teams

/-- A collective that has left its slot: its entry and the slot's ready map are free, its outcome is kept, whatever is issued next. -/
theorem freed_slot {g : BitVec 8} {seq : BitVec 16} {ctx : CtxId} {k : Nat} {T : Team} (h : s.team? t = some T) :
    ∃ T', (((s.modTeam t fun T => { T with ready := Map.set [] T.ready k [] }).dropEng t i).keepEnd ctx g seq none).drainWaiting.team? t = some T' ∧
      Map.find? T'.eng i = none ∧ Map.get [] T'.ready k = [] ∧
      (((s.modTeam t fun T => { T with ready := Map.set [] T.ready k [] }).dropEng t i).keepEnd ctx g seq none).drainWaiting.endOf ctx g seq = some none := by
  have h1 : (((s.modTeam t fun T => { T with ready := Map.set [] T.ready k [] }).dropEng t i).keepEnd ctx g seq none).team? t =
      some { T with ready := Map.set [] T.ready k [], eng := Map.erase T.eng i } := by
    change ((s.modTeam t fun T => { T with ready := Map.set [] T.ready k [] }).dropEng t i).team? t = _
    rw [State.dropEng, team?_modTeam, team?_modTeam, h]
    rfl
  have hd := issued_drainWaiting (((s.modTeam t fun T => { T with ready := Map.set [] T.ready k [] }).dropEng t i).keepEnd ctx g seq none)
  obtain ⟨T', hT', hr, he⟩ := hd.team t _ h1
  refine ⟨T', hT', he i ?_, ?_, ?_⟩
  · exact Contexts.find?_erase_self T.eng i
  · rw [hr]
    exact Map.get_set_self [] T.ready k []
  · rw [State.endOf, hd.outcomes]
    exact endOf_keepEnd _ none

end

/-! ## The tree (R447) -/

theorem mem_treeLevel {n l : Nat} {p : Nat × Nat} : p ∈ treeLevel n l ↔ p.1 % 2 ^ (l + 1) = 0 ∧ p.1 + 2 ^ l < n ∧ p.2 = p.1 + 2 ^ l := by
  simp only [treeLevel, List.mem_map, List.mem_filter, mem_span, Bool.and_eq_true, beq_iff_eq, decide_eq_true_eq]
  constructor
  · rintro ⟨j, ⟨-, hm, hl⟩, rfl⟩
    exact ⟨hm, hl, rfl⟩
  · rintro ⟨hm, hl, he⟩
    have := Nat.two_pow_pos l
    exact ⟨p.1, ⟨⟨by omega, by omega⟩, hm, hl⟩, by rw [← he]⟩

theorem mem_treeSteps {n : Nat} (hn : 2 ≤ n) (x : CollStep) : x ∈ treeSteps 0 n ↔
    x.mode = .right ∧ ∃ l, 2 ^ l < n ∧ x.dst % 2 ^ (l + 1) = 0 ∧ x.dst + 2 ^ l < n ∧ x.src = x.dst + 2 ^ l := by
  have hl (l : Nat) : l < Nat.log2 (n - 1) + 1 ↔ 2 ^ l < n := by
    rw [Nat.lt_succ_iff, Nat.le_log2 (by omega)]
    omega
  simp only [treeSteps, Nat.zero_ne_one, if_false, List.append_nil, List.mem_flatMap, List.mem_map, mem_span, mem_treeLevel, Nat.zero_add, Nat.zero_le,
    true_and, hl]
  constructor
  · rintro ⟨l, hlt, p, ⟨hm, hl, he⟩, rfl⟩
    exact ⟨rfl, l, hlt, hm, hl, he⟩
  · rintro ⟨hmode, l, hlt, hm, hl, he⟩
    refine ⟨l, hlt, (x.dst, x.src), ⟨hm, hl, he⟩, ?_⟩
    rw [← hmode]

/-- Settles O48: each event by how far its collective has come; the steps of the tree by the levels of its ranks. -/
theorem collectiveEvents : Obligations.CollectiveEvents := by
  refine ⟨fun s t i k T y r a grp par ht hy hc hr => ⟨fun hw hnf hq hacq => ⟨fun hst => ?_, fun hst => ?_⟩, fun h => ?_⟩,
    fun s m t i y v data o => ⟨fun hx => ⟨?_, ?_⟩, fun hx hp => ⟨?_, ?_⟩, fun a cl c x g q b => ⟨rfl, rfl⟩, rtrArrive_noContext,
      fun hctx => ⟨fun he => ?_, fun he => ?_, fun he => ⟨fun hf => ?_, fun hf => ⟨fun hv => ?_, fun hv => ⟨fun hti => ?_, fun hti hdiff => ?_,
        fun hti hh hctl hs => ?_⟩⟩⟩⟩, fun hf => ?_, fun hf => ⟨fun hv => ?_, fun hv => ⟨fun hti => ?_, fun hti hno => ?_,
        fun hti slot st hasked hmine hdst => ?_⟩⟩⟩,
    fun s s1 ctx grp seq asker src o t i y r v k x => ⟨fun hv => ?_, fun hv hp => ?_, fun _ _ _ _ => rfl, fun hre => ⟨fun e he hp => ?_, fun he hf hr hst => ?_⟩,
      fun h => ?_, fun h => ⟨fun he => ?_, fun he => ?_, fun he hf => ?_⟩, rfl, fun _ _ _ _ => rfl, fun he => ?_, fun he hf => ?_, fun he hf hr => ?_,
      fun e => ⟨endOf_keepEnd s e, fun q hq hl => endOf_keepEnd_ne s e hq hl⟩, fun hv => ?_, fun hv => ⟨fun h => ?_, fun hw hd s1 hput => ?_⟩⟩,
    fun n x hn => mem_treeSteps hn x⟩
  · rw [exec_collStart ht hy hc hr, if_neg (by simp [hw, hnf, hq, hacq]), if_pos hst]
  · intro blk b s1 s2 s3 hd es n ranks me pm hal hb hg hme he r2 hl hp hx hn hready
    rw [exec_collStart ht hy hc hr, if_neg (by simp [hw, hnf, hq, hacq]), if_neg (by simp [hst]), collBegin_legal hal hb hg hme he hl hp hx hn hready]
  · rw [exec_collStart ht hy hc hr, if_pos (by rcases h with h | h | h <;> simp [h])]
  · change execReadyToReceive m s = _
    rw [execReadyToReceive, hx]
    rfl
  · change execTransferDone m data s = _
    rw [execTransferDone, hx]
    rfl
  · change execReadyToReceive m s = _
    rw [execReadyToReceive, hx, hp]
    rfl
  · change execTransferDone m data s = _
    rw [execTransferDone, hx, hp]
    rfl
  · rw [rtrArrive_eq hctx, he]
  · rw [rtrArrive_eq hctx, he]
  · rw [rtrArrive_eq hctx, he, hf]
  · rw [rtrArrive_eq hctx, he, hf]
    dsimp only
    rw [hv]
  · rw [rtrArrive_eq hctx, he, hf]
    dsimp only
    rw [hv]
    simp only [hti, Bool.not_false, if_true]
  · rw [rtrArrive_eq hctx, he, hf]
    dsimp only
    rw [hv]
    simp only [hti, Bool.not_true, Bool.false_eq_true, if_false, if_pos hdiff]
  · have hany : (v.r.sends.any fun q => q.1 == m.tile && q.2.1 == m.step) = false := by
      rw [List.any_eq_false]
      intro q hq h
      simp only [Bool.and_eq_true, beq_iff_eq] at h
      exact (hs q hq).elim (· h.1) (· h.2)
    rw [rtrArrive_eq hctx, he, hf]
    dsimp only
    rw [hv]
    simp only [hti, hh, hctl, ne_eq, not_true_eq_false, or_self, Bool.not_true, Bool.false_eq_true, if_false]
    rw [modRun_congr hv (g := fun r => { r with sends := r.sends ++ [(m.tile, m.step, m.stage)] }) (by simp only [hany, Bool.false_eq_true, if_false])]
  · simp only [State.transferArrive, hf]
  · simp only [State.transferArrive, hf, hv]
  · rw [transferArrive_eq hf hv, hti]
    rfl
  · have hnone : List.find? (fun (q : Nat × Nat × Nat) => q.1 == m.tile && q.2.1 == m.step) v.r.asked = none := by
      rw [List.find?_eq_none]
      intro q hq h
      simp only [Bool.and_eq_true, beq_iff_eq] at h
      exact (hno q hq).elim (· h.1) (· h.2)
    rw [transferArrive_eq hf hv, hti, hnone]
    rfl
  · have hfind : List.find? (fun (q : Nat × Nat × Nat) => q.1 == m.tile && q.2.1 == m.step) v.r.asked = some (m.tile, m.step, slot) := by
      rw [hasked, List.find?_cons_of_pos (by simp)]
    rw [transferArrive_eq hf hv, hti, hfind, hmine]
    simp only [Bool.not_true, Bool.false_eq_true, if_false, hdst, and_self, if_true]
  · change execCollQuery ctx grp seq asker s = _
    rw [execCollQuery, hv]
    rfl
  · change execCollQuery ctx grp seq asker s = _
    rw [execCollQuery, hv, hp]
    rfl
  · simp only [State.answerFar, hre, he, hp, if_true]
  · simp only [State.answerFar, hre, he, hf, hr, Option.any_some, hst, if_true]
  · simp only [State.collState, h, Option.isNone_none, if_true]
  · rw [collState_eq h, he]
  · rw [collState_eq h, he]
  · rw [collState_eq h, he, hf]
  · change Host.Outcome.next (s.abortArrive ctx grp seq o) = _
    rw [State.abortArrive, if_pos he]
  · change Host.Outcome.next (s.abortArrive ctx grp seq o) = _
    rw [State.abortArrive, if_neg (by simp [he]), hf]
  · change Host.Outcome.next (s.abortArrive ctx grp seq o) = _
    rw [State.abortArrive, if_neg (by simp [he]), hf]
    simp only [hr]
  · change execCollComplete t i s = _
    rw [execCollComplete, hv]
  · rw [exec_collComplete hv, if_pos (by rcases h with h | h <;> simp [h])]
  · obtain ⟨T, e, hT, -, -, -, -⟩ := coll?_run hv
    have hs1 : HasTeams s s1 := by
      have := hasTeams_opalPut s t v.T (v.r.stat + 128) 8 fun _ => leBytes 8 (collStatus 1 v.e.flags v.r.seq).toNat
      rwa [hput] at this
    have hs2 := hs1.trans (hasTeams_arithEng s1 t i 4 v.e.flags ((v.e.flags &&& v.T.xmask).zeroExtend 32))
    have hs3 : ∃ T3, (match v.e.cmd.args? with
        | some a => (s1.arithEng t i 4 v.e.flags ((v.e.flags &&& v.T.xmask).zeroExtend 32)).arriveCmd t a
        | none => s1.arithEng t i 4 v.e.flags ((v.e.flags &&& v.T.xmask).zeroExtend 32) : State).team? t = some T3 := by
      refine Option.isSome_iff_exists.mp ?_
      split
      · exact (hs2.trans (hasTeams_arriveCmd ..)).has t (by rw [hT]; rfl)
      · exact hs2.has t (by rw [hT]; rfl)
    obtain ⟨T3, hT3⟩ := hs3
    obtain ⟨T', h1, h2, h3, h4⟩ := freed_slot (i := i) (g := v.grp) (seq := v.r.seq) (ctx := v.T.ctx) (k := v.slot) hT3
    refine ⟨_, T', ?_, h1, h2, h3, h4⟩
    rw [exec_collComplete hv, if_neg (by simp [hw, hd]), hput]

end Sys2Proof.Laws.Collectives
end


section
/-! Kills (R474): where the device's list of teams holds an identifier twice, a killed team's pending ACLAIM is still found under the second entry, and
granted: its steering thread goes on. -/

namespace Sys2Proof.Laws.Kills

open Sys2Proof Sys2Proof.Machine Sys2Proof.Laws.Windows

/-- A resident team whose steering thread waits in ACLAIM for no tiles. -/
def askingTeam : Team :=
  { bareTeam with place := .resident 0 0, threads := [], steer := { bareTeam.steer with st := .blocked (.aclaim 0 0 0 ⟨0, 0⟩) } }

/-- The machine that holds that team under one identifier twice. -/
def twiceState : State := { State.reset with teams := [(0, askingTeam), (0, askingTeam)] }

/-- A grid without teams. -/
def bareGrid : Grid where
  ctx := 0
  no := 0
  desc := descOf []
  raw := []
  img := ⟨0, 0, 0, 0, 0, 0, 0⟩
  parentTeam := none
  parentGrid := none
  depth := 0
  pcap := 0
  prio := 0
  accepted := 0
  d0 := 0
  queue := none
  serialOn := none
  tfire := none
  met := []
  eligible := true
  notify := none
  next := []
  live := 0
  killedTeam := false
  gang := .idle
  reread := 0
  born := 0
  coord := 0
  members := []
  begun := false
  peers := []
  ranks := []
  holders := []
  failing := none
  owing := []
  parentAway := none
  drained := []
  saveGo := false
  savedAt := []
  allSaved := false

/-- After the kill the ACLAIM of the second entry is granted to the team. -/
theorem killed_runs : ((twiceState.killTeam 0).team? 0).map (fun T => T.steer.st) = some .running := rfl

/-- Refutes O49: nothing in the statement says that a team stands once in the device's list, and in `twiceState` the steering thread of the killed team
runs on. -/
theorem not_retirement : ¬ Obligations.Retirement := by
  rintro ⟨-, h⟩
  have hkill := (h twiceState ⟨0, 0, 0, 0⟩ 0 0 askingTeam askingTeam bareGrid (Eng.fresh (.tile 0 0 0) .queued none 0) bareThread).2.1 rfl
  obtain ⟨-, hfound, -⟩ := hkill
  obtain ⟨-, -, -, -, -, hteam⟩ := hfound rfl rfl
  obtain ⟨T', hT', -, -, -, hdone, -⟩ := hteam rfl rfl
  have hrun := killed_runs
  rw [hT'] at hrun
  exact absurd (hdone.symm.trans (Option.some.inj hrun)) (by decide)

end Sys2Proof.Laws.Kills
end


section
/-! Returned slots of a receive box (R411, R412): a thread that is parked in RWSEND goes on, and where the former of its partition is full the oldest group
is spilled to its team's save slot, which lies in memory (R223). -/

namespace Sys2Proof.Laws.SlotReturns

open Sys2Proof Sys2Proof.Machine Sys2Proof.Laws.Windows

/-- A resident team with a save slot, one thread parked in RWSEND and one in the former. -/
def sendingTeam : Team :=
  { bareTeam with
    place := .resident 0 0, sslot := some 0
    threads := [(0, { bareThread with st := .parked (.send ⟨0, 0, 0, .b32, 0, 0, false, false⟩ 0 0 0 0 0) }), (1, { bareThread with st := .former })] }

/-- The machine that holds that team: its one slot is in use, the former of the partition holds as many groups as it can. -/
def fullState : State :=
  { State.reset with
    teams := [(0, sendingTeam)], credits := [⟨0, 0, 0, 1, 1⟩]
    cores := [(0, [(0, ⟨[], List.replicate 32 ⟨0, [1], ⟨1, 0⟩, 0, false⟩, []⟩)])] }

/-- The spilled thread's record stands in the save slot. -/
theorem spilled_record : Memory.get ((fullState.uncredit 0 0 0).serveSend 0 0 0).mem 541166010624 = 17 := by decide +kernel

/-- Refutes O51: in `fullState` the return of a slot changes a byte of memory. -/
theorem not_podTransactions : ¬ Obligations.PodTransactions := by
  rintro ⟨-, -, h⟩
  obtain ⟨-, -, -, -, -, -, -, -, -, ⟨s', harr, hmem, -⟩, -⟩ := h fullState ⟨0, 0⟩ 0 0 0 0 0 0 [] (0, 0)
  have hs : (fullState.uncredit 0 0 0).serveSend 0 0 0 = s' := congrArg Prod.fst harr
  have hget := hmem 541166010624
  rw [← hs, spilled_record] at hget
  exact absurd hget (by decide)

end Sys2Proof.Laws.SlotReturns
end


section
/-! The exit of a thread at a barrier in live mode (R414): in a team whose list of threads is out of order, the entry of the thread that has ended stands
before its old one, which still counts as live. -/

namespace Sys2Proof.Laws.LiveBarriers

open Sys2Proof Sys2Proof.Machine Sys2Proof.Laws.Windows

/-- A team with the threads 5 and 3, in this order, whose barrier 0 is in live mode; thread 5 has arrived. -/
def unorderedTeam : Team :=
  { bareTeam with threads := [(5, bareThread), (3, bareThread)], bars := [(0, ⟨0, 1, false, [5], (0, 0)⟩)] }

/-- The machine whose only team is that one. -/
def unorderedState : State := { State.reset with teams := [(0, unorderedTeam)] }

/-- The exit of thread 3 does not invert the phase. -/
theorem phase_stands : ((unorderedState.endThread 0 3).team? 0).map (fun T => (T.bar 0).ph) = some false := by decide +kernel

/-- Refutes O23: in `unorderedState` thread 3 is the last live thread that had not arrived, and its exit leaves the phase. -/
theorem not_barrierPhases : ¬ Obligations.BarrierPhases := by
  rintro ⟨-, h⟩
  obtain ⟨-, -, hexit⟩ := h unorderedState 0 0 unorderedTeam rfl rfl
  obtain ⟨T', hT', hph, -⟩ := hexit 3 bareThread (by decide) (by decide) rfl (by decide) (by decide)
  have hstands := phase_stands
  rw [hT'] at hstands
  exact absurd (hph.symm.trans (Option.some.inj hstands)) (by decide)

end Sys2Proof.Laws.LiveBarriers
end


section
/-! The pod: stations, slots, the slot map and device time (R103-R118). -/

namespace Sys2Proof.Laws.Pods

open Sys2Proof Sys2Proof.Machine Sys2Proof.Laws.Rules

/-! ## Transactions that are sent again (R106) -/

/-- What sending transactions again changes: transactions, cells and what is sent, which grows. -/
structure Resends (s s' : State) : Prop where
  pod : s'.pod = s.pod
  mem : s'.mem = s.mem
  out : ∃ more, s'.out = s.out ++ more

theorem Resends.refl (s : State) : Resends s s := ⟨rfl, rfl, [], (List.append_nil _).symm⟩

theorem Resends.trans {a b c : State} (h : Resends a b) (h' : Resends b c) : Resends a c := by
  obtain ⟨m, hm⟩ := h.out
  obtain ⟨m', hm'⟩ := h'.out
  exact ⟨h'.pod.trans h.pod, h'.mem.trans h.mem, m ++ m', by rw [hm', hm, List.append_assoc]⟩

theorem Resends.putTx (s : State) (id : Nat) (x : Tx) : Resends s (s.putTx id x) := by
  unfold State.putTx
  split
  · split
    · split
      · exact ⟨rfl, rfl, _, rfl⟩
      · exact ⟨rfl, rfl, [], (List.append_nil _).symm⟩
    · exact ⟨rfl, rfl, [], (List.append_nil _).symm⟩
  · split <;> exact ⟨rfl, rfl, [], (List.append_nil _).symm⟩

theorem txs_putTx (s : State) (id : Nat) (x : Tx) : (s.putTx id x).txs = Map.put s.txs id x := by
  unfold State.putTx
  split
  · split
    · split <;> rfl
    · rfl
  · split <;> rfl

/-- A transaction that is sent again stands on no station yet. -/
def resend (s : State) (e : Nat × Tx) : State := s.putTx e.1 { e.2 with station := none }

theorem reroute_eq (s : State) (n : Nat) : s.reroute n =
    (s.txs.filter fun x => x.2.station == some n && x.2.answer.isNone && !s.reach n x.2.target).foldl resend s := rfl

theorem Resends.resendAll (l : List (Nat × Tx)) (s : State) : Resends s (l.foldl resend s) := by
  induction l generalizing s with
  | nil => exact .refl s
  | cons e l ih => exact (Resends.putTx ..).trans (ih _)

/-- After all are sent again, a transaction stands on no station, or as before if its number is none of theirs. -/
theorem find?_resendAll (l : List (Nat × Tx)) (s : State) {id : Nat} {x : Tx} (hx : Map.find? (l.foldl resend s).txs id = some x) :
    x.station = none ∨ (Map.find? s.txs id = some x ∧ ∀ e ∈ l, e.1 ≠ id) := by
  induction l generalizing s with
  | nil => exact .inr ⟨hx, fun _ h => nomatch h⟩
  | cons e l ih =>
    rcases ih _ hx with h | ⟨h, hl⟩
    · exact .inl h
    · rw [resend, txs_putTx] at h
      by_cases he : id = e.1
      · subst he
        rw [Map.find?_put_self, Option.some.injEq] at h
        exact .inl (by rw [← h])
      · rw [Map.find?_put_ne _ _ he] at h
        exact .inr ⟨h, List.forall_mem_cons.2 ⟨fun h' => he h'.symm, hl⟩⟩

theorem mem_of_find? {α : Type} {m : Map α} {k : Nat} {v : α} (h : Map.find? m k = some v) : (k, v) ∈ m := by
  induction m with
  | nil => exact nomatch h
  | cons e m ih =>
    rw [Map.find?] at h
    split at h
    · next he => exact List.mem_cons.2 (.inl (by rw [← he, ← Option.some.inj h]))
    · exact List.mem_cons_of_mem _ (ih h)

/-- R106: behind the rerouting of a station it holds no unanswered transaction to a peer that it does not reach. -/
theorem reroute_reach {s : State} {n id : Nat} {x : Tx} (hx : Map.find? (s.reroute n).txs id = some x) (ha : x.answer = none)
    (hs : x.station = some n) : s.reach n x.target = true := by
  rw [reroute_eq] at hx
  rcases find?_resendAll _ _ hx with h | ⟨h, hl⟩
  · exact nomatch hs.symm.trans h
  · by_contra hr
    exact hl (id, x) (List.mem_filter.2 ⟨mem_of_find? h, by simp [ha, hs, hr]⟩) rfl

theorem resends_reroute (s : State) (n : Nat) : Resends s (s.reroute n) := .resendAll ..

/-! ## Stations and slots (R103-R111) -/

section Stations
variable (s : State) (i : BitVec 4)

theorem exec_stationTrain (dup : Bool) (delay : Nat) (h : s.portsOpen = true) :
    ∃ s', exec (.stationTrain i ⟨dup, delay⟩) s = .next s' ∧ s'.pod.up.getLsbD i.toNat = !dup ∧ s'.pod.dup.getLsbD i.toNat = dup ∧
      Map.get 0 s'.pod.delay i.toNat = delay ∧ Out.aidReport i.toNat s.cfg.aid ∈ s'.out ∧
      (∀ j, j ≠ i.toNat → s'.pod.up.getLsbD j = s.pod.up.getLsbD j ∧ s'.pod.dup.getLsbD j = s.pod.dup.getLsbD j) ∧ SameMemory s s' := by
  set p : Pod := { s.pod with
    up := setBit s.pod.up i.toNat (!dup), dup := setBit s.pod.dup i.toNat dup, delay := Map.set 0 s.pod.delay i.toNat delay }
  set s1 : State := ({ s with pod := p } : State).send (.aidReport i.toNat s.cfg.aid)
  obtain ⟨hp, hm, more, ho⟩ := resends_reroute s1 i.toNat
  refine ⟨s1.reroute i.toNat, ?_, ?_, ?_, ?_, ?_, ?_, ?_⟩
  · change execStationTrain .. = _
    simp only [execStationTrain, h, Bool.not_true, Bool.false_eq_true, if_false]
    rfl
  · rw [hp]; exact setBit_self _ _ i.isLt
  · rw [hp]; exact setBit_self _ _ i.isLt
  · rw [hp]; exact Map.get_set_self ..
  · rw [ho]; exact List.mem_append_left _ (List.mem_append_right _ (List.mem_singleton.2 rfl))
  · intro j hj
    rw [hp]
    exact ⟨setBit_ne _ _ hj, setBit_ne _ _ hj⟩
  · intro a; rw [hm]; rfl

theorem exec_stationUp : exec (.stationUp i) s =
    if !s.portsOpen || s.pod.dup.getLsbD i.toNat then .next s else .next (s.modPod fun p => { p with up := setBit p.up i.toNat true }) := rfl

theorem exec_slotTransmit : exec (.slotTransmit i) s =
    if !s.portsOpen || !s.pod.up.getLsbD i.toNat || Map.get 0 s.pod.lastSlot i.toNat == slotAt s.dtime.toNat + 1 then .next s
    else match s.settleCells.slotCell i.toNat (slotAt s.dtime.toNat) with
    | none => .next s
    | some (c, unres) => .next ((s.settleCells.sendCell i.toNat c).modPod fun p =>
        { p with lastSlot := Map.set 0 p.lastSlot i.toNat (slotAt s.dtime.toNat + 1)
                 lastClass := if unres then Map.set 3 p.lastClass i.toNat c.cls else p.lastClass }) := by
  change execSlotTransmit i s = _
  simp only [execSlotTransmit] <;> rfl

/-- The state after a cell has left in a slot. -/
def slotSent (n : Nat) (c : Cell) (u : Bool) : State :=
  (s.settleCells.sendCell n c).modPod fun p =>
    { p with lastSlot := Map.set 0 p.lastSlot n (slotAt s.dtime.toNat + 1), lastClass := if u then Map.set 3 p.lastClass n c.cls else p.lastClass }

theorem slotSent_lastSlot (n : Nat) (c : Cell) (u : Bool) : Map.get 0 (slotSent s n c u).pod.lastSlot n = slotAt s.dtime.toNat + 1 := by
  rw [slotSent, State.modPod, Map.get_set_self]

theorem exec_slotTransmit_some {c : Cell} {u : Bool} (h : s.portsOpen = true) (hu : s.pod.up.getLsbD i.toNat = true)
    (hl : Map.get 0 s.pod.lastSlot i.toNat ≠ slotAt s.dtime.toNat + 1) (hc : s.settleCells.slotCell i.toNat (slotAt s.dtime.toNat) = some (c, u)) :
    exec (.slotTransmit i) s = .next (slotSent s i.toNat c u) := by
  rw [exec_slotTransmit, if_neg (by simp [h, hl, ← BitVec.getLsbD_eq_getElem, hu]), hc]
  rfl

theorem readyCell_mem {n cls : Nat} {y : Cell} (h : s.readyCell n cls = some y) : y ∈ s.cells ∧ y.ready = true ∧ s.cellStation y = some n := by
  have hp := List.find?_some h
  simp only [Bool.and_eq_true, beq_iff_eq] at hp
  obtain ⟨⟨hr, -⟩, hs⟩ := hp
  exact ⟨List.mem_of_find?_eq_some h, hr, hs⟩

theorem slotCell_reserved {n slot c : Nat} {y : Cell} (he : slotEntry (s.pod.mapAt s.dtime.toNat) (slot % 64) = some c)
    (hy : s.readyCell n c = some y) : s.slotCell n slot = some (y, false) := by
  simp only [State.slotCell, he, hy]

/-- R111: what a slot carries is a ready cell of the station. -/
theorem slotCell_mem {n slot : Nat} {y : Cell} {u : Bool} (h : s.slotCell n slot = some (y, u)) :
    y ∈ s.cells ∧ y.ready = true ∧ s.cellStation y = some n := by
  have hfree : ((span 1 4).findSome? fun d => s.readyCell n ((Map.get 3 s.pod.lastClass n + d) % 4)).map (fun x => (x, true)) = some (y, u) →
      y ∈ s.cells ∧ y.ready = true ∧ s.cellStation y = some n := by
    intro hf
    obtain ⟨x, hx, hxy⟩ := Option.map_eq_some_iff.1 hf
    obtain ⟨d, -, hd⟩ := List.exists_of_findSome?_eq_some hx
    obtain ⟨rfl, -⟩ := Prod.mk.inj hxy
    exact readyCell_mem s hd
  simp only [State.slotCell] at h
  split at h
  · split at h
    · next c _ x hx =>
      obtain ⟨rfl, -⟩ := Prod.mk.inj (Option.some.inj h)
      exact readyCell_mem s hx
    · exact hfree h
  · exact hfree h

end Stations

section
variable {s : State} {c : Cell} (n : Nat)

theorem sendCell_reply {r : TxReply} (h : c.item = .reply r) :
    s.sendCell n c = ({ s with cells := s.cells.erase c } : State).send (.txReply n c.cls c.peer r) := by
  simp only [State.sendCell, h]

theorem sendCell_message {m : Out} (h : c.item = .message m) :
    s.sendCell n c = ({ s with cells := s.cells.erase c } : State).send (.message n c.cls c.peer m) := by
  simp only [State.sendCell, h]

theorem sendCell_tx {id : Nat} {x : Tx} (h : c.item = .tx id) (hx : Map.find? s.txs id = some x) :
    s.sendCell n c = (({ s with cells := s.cells.erase c } : State).modTx id fun y => { y with station := some n }).send
      (.cell n c.cls c.peer id x.dest x.op) := by
  simp only [State.sendCell, h, hx]

end

/-! ## The slot map (R112) -/

/-- Entries of a slot map in the order of their times: those that have come into force are the first. -/
theorem foldl_mapAt_later {l : List (Nat × List DWord)} {now x : Nat} (hl : l.Pairwise fun a b => a.1 ≤ b.1) (hx : now ≤ x) (m : List DWord) :
    (l.filter fun w => decide (now < w.1)).foldl (fun m w => if w.1 ≤ x then w.2 else m) (l.foldl (fun m w => if w.1 ≤ now then w.2 else m) m) =
      l.foldl (fun m w => if w.1 ≤ x then w.2 else m) m := by
  induction l generalizing m with
  | nil => rfl
  | cons e l ih =>
    obtain ⟨he, hl⟩ := List.pairwise_cons.1 hl
    by_cases hn : e.1 ≤ now
    · rw [List.filter_cons_of_neg (by simpa using hn), List.foldl_cons, if_pos hn, List.foldl_cons, if_pos (hn.trans hx)]
      exact ih hl _
    · have hlate : ∀ w ∈ l, ¬w.1 ≤ now := fun w hw => by have := he w hw; omega
      have hfix : ∀ m' : List DWord, l.foldl (fun m w => if w.1 ≤ now then w.2 else m) m' = m' := fun m' => by
        refine List.foldlRecOn (motive := (· = m')) l _ rfl fun b hb w hw => ?_
        rw [if_neg (hlate w hw), hb]
      have hall : l.filter (fun w => decide (now < w.1)) = l := List.filter_eq_self.2 fun w hw => by simpa using hlate w hw
      rw [List.filter_cons_of_pos (by simpa using hn), hall, List.foldl_cons (b := m), if_neg hn, hfix]

theorem mapAt_settle (p : Pod) {now x : Nat} (hp : p.slotPending.Pairwise fun a b => a.1 ≤ b.1) (hx : now ≤ x) :
    (p.settle now).mapAt x = p.mapAt x := foldl_mapAt_later hp hx _

theorem frameAfter_bounds (t : Nat) : frameAfter t % 96 = 0 ∧ t + 96 ≤ frameAfter t ∧ frameAfter t < t + 192 := by
  unfold frameAfter
  omega

/-- A slot map that is written stands behind those that are still to come. -/
theorem mapAt_write (p : Pod) (m sm : List DWord) (f x : Nat) :
    ({ p with slotmap := sm, slotPending := p.slotPending ++ [(f, m)] } : Pod).mapAt x = if f ≤ x then m else p.mapAt x := by
  simp only [Pod.mapAt, List.foldl_append, List.foldl_cons, List.foldl_nil]

/-! ## Device time (R116-R118) -/

section Time
variable {s : State} {m l : DWord} {bs : List (Nat × DWord)} {xp : Bool}

theorem median_one {p : Pod} {k : Nat} (h : p.up.getLsbD k = true) (m : DWord) :
    p.median [(k, m)] = some (m + BitVec.ofNat 64 (Map.get 0 p.delay k)) := by
  have hf : ([(k, m)] : List (Nat × DWord)).filter (fun b => p.up.getLsbD b.1) = [(k, m)] := List.filter_cons_of_pos h
  have hone : ∀ a : Nat, medianOf [a] = some a := fun a => by
    simp only [medianOf, sortBy, insertBy, List.foldr_cons, List.foldr_nil, List.length_singleton, Nat.sub_self, Nat.zero_div, Nat.div_eq_of_lt,
      Nat.one_lt_two, List.getElem?_cons_zero, Option.some.injEq]
    omega
  rw [Pod.median, hf, List.map_singleton, hone, Option.map_some, BitVec.ofNat_toNat, BitVec.setWidth_eq]

theorem median_none {p : Pod} (h : ∀ b ∈ bs, p.up.getLsbD b.1 = false) : p.median bs = none := by
  have hf : bs.filter (fun b => p.up.getLsbD b.1) = [] := List.filter_eq_nil_iff.2 fun b hb => by rw [h b hb]; exact Bool.false_ne_true
  rw [Pod.median, hf]
  rfl

theorem exec_timeBeacon_none (h : s.portsOpen = false ∨ s.pod.median bs = none) : exec (.timeBeacon bs xp) s = .next s := by
  have hn : (if s.portsOpen then s.pod.median bs else none) = none := by
    rcases h with h | h <;> simp [h]
  change execTimeBeacon bs xp s = _
  rw [execTimeBeacon, hn]

/-- The machine after a period's beacons have been taken, before the count is tracked: a missed period starts the run of good ones again. -/
def heard (s : State) (m : DWord) (xp : Bool) : State :=
  (if s.missedBeacon then s.modPod fun p => { p with goodRun := 0, lastMedian := none } else s).modPod fun p =>
    { p with xpod := xp, lastBeacon := s.clock, offs := (s.dtime - m).truncate 32 }

/-- The good periods in a row before acquisition. -/
def heardRun (s : State) (m : DWord) : Nat :=
  if (match (heard s m false).pod.lastMedian with | some l => l.ult m && within (m - l) 1000 20 | none => false) then
    (heard s m false).pod.goodRun + 1 else 0

theorem exec_timeBeacon (h : s.portsOpen = true) (hm : s.pod.median bs = some m) : exec (.timeBeacon bs xp) s =
    if s.pod.acquired then .next ((heard s m xp).track m)
    else if heardRun s m = 4 then .next ((heard s m xp).acquire m)
    else .next ((heard s m xp).modPod fun p => { p with lastMedian := some m, goodRun := heardRun s m }) := by
  have hn : (if s.portsOpen then s.pod.median bs else none) = some m := by rw [h, if_pos rfl, hm]
  change execTimeBeacon bs xp s = _
  rw [execTimeBeacon, hn]
  cases hb : s.missedBeacon <;> simp only [heard, heardRun, hb, if_true, if_false, Bool.false_eq_true, State.modPod] <;> rfl


theorem heard_known (hb : s.missedBeacon = false) : heard s m xp = s.modPod fun p =>
    { p with xpod := xp, lastBeacon := s.clock, offs := (s.dtime - m).truncate 32 } := by
  rw [heard, hb, if_neg Bool.false_ne_true]

theorem heardRun_lt (h : s.pod.goodRun < 3 ∨ s.missedBeacon = true) : heardRun s m < 4 := by
  have hg : (heard s m false).pod.goodRun < 3 := by
    rcases h with h | h
    · simp only [heard, State.modPod]
      split <;> [exact Nat.zero_lt_succ _; exact h]
    · rw [heard, h, if_pos rfl]
      exact Nat.zero_lt_succ _
  unfold heardRun
  split_ifs <;> [exact Nat.succ_lt_succ hg; exact Nat.zero_lt_succ _]

/-- R116: the fourth good period in a row. -/
theorem heardRun_good (hl : s.pod.lastMedian = some l) (hg : s.pod.goodRun = 3) (hb : s.missedBeacon = false) (h : l.toNat + 980 ≤ m.toNat)
    (h' : m.toNat ≤ l.toNat + 1020) : heardRun s m = 4 := by
  have hlt : l.ult m = true := by rw [BitVec.ult_eq_decide, decide_eq_true_eq]; omega
  have hsub : (m - l).toNat = m.toNat - l.toNat := BitVec.toNat_sub_of_le (by rw [BitVec.le_def]; omega)
  have hw : within (m - l) 1000 20 = true := by
    have h1000 : (1000 : DWord).toNat = 1000 := rfl
    rw [within, hsub, h1000, decide_eq_true_eq]
    omega
  simp only [heardRun, heard_known hb, State.modPod, hl, hg, hlt, hw, Bool.and_self, if_true]

/-- What stands in the pod registers however a period's beacons are used. -/
structure Hears (s s' : State) (m : DWord) (xp : Bool) : Prop where
  offs : s'.pod.offs = (s.dtime - m).truncate 32
  xpod : s'.pod.xpod = xp
  lastBeacon : s'.pod.lastBeacon = s.clock
  mem : s'.mem = s.mem
  lock : s.pod.lock = true → s'.pod.lock = true

theorem Hears.heard (s : State) (m : DWord) (xp : Bool) : Hears s (heard s m xp) m xp := by
  unfold Pods.heard
  split <;> exact ⟨rfl, rfl, rfl, rfl, id⟩

theorem heard_same (s : State) (m : DWord) (xp : Bool) : (heard s m xp).dtime = s.dtime ∧ (heard s m xp).clock = s.clock ∧
    (heard s m xp).pod.slewAt = s.pod.slewAt ∧ (heard s m xp).pod.lock = s.pod.lock ∧ (heard s m xp).pod.acquired = s.pod.acquired ∧
    (heard s m xp).pod.steps = s.pod.steps := by
  unfold heard
  split <;> exact ⟨rfl, rfl, rfl, rfl, rfl, rfl⟩

/-- A period that is tracked: its median is kept and it counts to the run of good ones (R117). -/
def tracked (a : State) (m : DWord) : State :=
  a.modPod fun p =>
    { p with lastMedian := some m, goodRun := if within m a.dtime 20 then a.pod.goodRun + 1 else 0
             lock := p.lock || decide (4 ≤ if within m a.dtime 20 then a.pod.goodRun + 1 else 0) }

theorem track_eq (a : State) (m : DWord) : a.track m =
    if (!(decide (a.pod.slewAt + usTicks 5 ≤ a.clock) && a.pod.hold.isNone && m != a.dtime)) = true then tracked a m
    else if a.dtime.ult m then { tracked a m with dtime := a.dtime + 1, pod := { (tracked a m).pod with slewAt := a.clock } }
    else (tracked a m).modPod fun p => { p with slewAt := a.clock, hold := some (a.dtime - 1) } := rfl

theorem Hears.track {a : State} (h : Hears s a m xp) : Hears s (a.track m) m xp := by
  obtain ⟨ho, hx, hl, hm, hk⟩ := h
  have hlock : s.pod.lock = true → (tracked a m).pod.lock = true := fun hs => Bool.or_eq_true_iff.2 (.inl (hk hs))
  rw [track_eq]
  split_ifs <;> exact ⟨ho, hx, hl, hm, hlock⟩

theorem Hears.acquire {a : State} (h : Hears s a m xp) : Hears s (a.acquire m) m xp := by
  obtain ⟨ho, hx, hl, hm, hk⟩ := h
  unfold State.acquire
  split <;> exact ⟨ho, hx, hl, hm, hk⟩

/-- R117: tracking moves the count by one at most, toward a later median and not twice in 5 µs. -/
theorem track_dtime (a : State) (m : DWord) : (a.track m).dtime = a.dtime ∨
    ((a.track m).dtime = a.dtime + 1 ∧ a.dtime.toNat < m.toNat ∧ a.pod.slewAt + usTicks 5 ≤ a.clock) := by
  rw [track_eq]
  split_ifs with hd hu
  · exact .inl rfl
  · simp only [Bool.not_eq_true', Bool.not_eq_false, Bool.and_eq_true, decide_eq_true_eq] at hd
    exact .inr ⟨rfl, by simpa [BitVec.ult_eq_decide] using hu, hd.1.1⟩
  · exact .inl rfl

theorem track_lock (a : State) (m : DWord) :
    (a.track m).pod.lock = (a.pod.lock || decide (4 ≤ if within m a.dtime 20 then a.pod.goodRun + 1 else 0)) := by
  have hlock : (tracked a m).pod.lock = (a.pod.lock || decide (4 ≤ if within m a.dtime 20 then a.pod.goodRun + 1 else 0)) := rfl
  rw [track_eq, ← hlock]
  split_ifs <;> rfl

theorem acquire_later (a : State) (h : a.dtime.toNat < m.toNat) : (a.acquire m).dtime = m ∧ (a.acquire m).pod.steps = a.pod.steps + 1 := by
  have hu : a.dtime.ult m = true := by rw [BitVec.ult_eq_decide, decide_eq_true_eq]; exact h
  rw [State.acquire, if_pos hu]
  exact ⟨rfl, rfl⟩

theorem acquire_earlier (a : State) (h : m.toNat ≤ a.dtime.toNat) : (a.acquire m).dtime = a.dtime := by
  have hu : ¬a.dtime.ult m = true := by rw [BitVec.ult_eq_decide, decide_eq_true_eq]; omega
  rw [State.acquire, if_neg hu]
  rfl

theorem acquire_acquired (a : State) (m : DWord) : (a.acquire m).pod.acquired = true := by
  unfold State.acquire
  split <;> rfl

end Time

/-! ## The three parts of the obligation -/

section
variable {s : State} {i : BitVec 4} {u : Bool}

/-- A cell that leaves in a slot. -/
theorem slotTransmit_cell {c : Cell} (h : s.portsOpen = true) (hu : s.pod.up.getLsbD i.toNat = true)
    (hl : Map.get 0 s.pod.lastSlot i.toNat ≠ slotAt s.dtime.toNat + 1) (hc : s.settleCells.slotCell i.toNat (slotAt s.dtime.toNat) = some (c, u)) :
    (∀ r, c.item = .reply r → ∃ s', exec (.slotTransmit i) s = .next s' ∧ s'.out = s.out ++ [.txReply i.toNat c.cls c.peer r] ∧
      s'.cells = s.settleCells.cells.erase c ∧ s'.txs = s.txs ∧ Map.get 0 s'.pod.lastSlot i.toNat = slotAt s.dtime.toNat + 1) ∧
    (∀ m, c.item = .message m → ∃ s', exec (.slotTransmit i) s = .next s' ∧ s'.out = s.out ++ [.message i.toNat c.cls c.peer m] ∧
      s'.cells = s.settleCells.cells.erase c ∧ s'.txs = s.txs ∧ Map.get 0 s'.pod.lastSlot i.toNat = slotAt s.dtime.toNat + 1) ∧
    (∀ id x, c.item = .tx id → Map.find? s.txs id = some x →
      ∃ s', exec (.slotTransmit i) s = .next s' ∧ s'.out = s.out ++ [.cell i.toNat c.cls c.peer id x.dest x.op] ∧
        s'.cells = s.settleCells.cells.erase c ∧ Map.find? s'.txs id = some { x with station := some i.toNat } ∧
        Map.get 0 s'.pod.lastSlot i.toNat = slotAt s.dtime.toNat + 1) := by
  have hex := exec_slotTransmit_some s i h hu hl hc
  have hls := slotSent_lastSlot s i.toNat c u
  have hsent : ∀ s1, s.settleCells.sendCell i.toNat c = s1 → (slotSent s i.toNat c u).out = s1.out ∧ (slotSent s i.toNat c u).cells = s1.cells ∧
      (slotSent s i.toNat c u).txs = s1.txs := by
    rintro _ rfl
    exact ⟨rfl, rfl, rfl⟩
  refine ⟨fun r hr => ?_, fun m hr => ?_, fun id x hr hx => ?_⟩
  · obtain ⟨ho, hcells, htxs⟩ := hsent _ (sendCell_reply (s := s.settleCells) i.toNat hr)
    exact ⟨_, hex, ho, hcells, htxs, hls⟩
  · obtain ⟨ho, hcells, htxs⟩ := hsent _ (sendCell_message (s := s.settleCells) i.toNat hr)
    exact ⟨_, hex, ho, hcells, htxs, hls⟩
  · obtain ⟨ho, hcells, htxs⟩ := hsent _ (sendCell_tx (s := s.settleCells) i.toNat hr hx)
    refine ⟨_, hex, ho, hcells, ?_, hls⟩
    rw [htxs]
    exact (find?_modify_self ..).trans (congrArg (Option.map _) hx)

end

theorem exec_stationDown (s : State) (i : BitVec 4) : ∃ s', exec (.stationDown i) s = .next s' ∧ s'.pod.up.getLsbD i.toNat = false ∧
    (∀ j, j ≠ i.toNat → s'.pod.up.getLsbD j = s.pod.up.getLsbD j) ∧
    (∀ id x, Map.find? s'.txs id = some x → x.answer = none → x.station ≠ some i.toNat) ∧ SameMemory s s' := by
  set s1 : State := s.modPod fun p => { p with up := setBit p.up i.toNat false }
  have hup : s1.pod.up.getLsbD i.toNat = false := setBit_self _ _ i.isLt
  have hr := resends_reroute s1 i.toNat
  refine ⟨s1.reroute i.toNat, rfl, hr.pod ▸ hup, fun j hj => hr.pod ▸ setBit_ne _ _ hj, fun id x hx ha hs => ?_, fun a => by rw [hr.mem]; rfl⟩
  have hreach := reroute_reach hx ha hs
  rw [State.reach, hup, Bool.false_and] at hreach
  exact nomatch hreach

theorem exec_reachReport (s : State) (i : BitVec 4) (aids : List Nat) : ∃ s', exec (.reachReport i aids) s = .next s' ∧
    Map.get [] s'.pod.reach i.toNat = aids ∧
    (∀ id x, Map.find? s'.txs id = some x → x.answer = none → x.station = some i.toNat → s'.reach i.toNat x.target = true) ∧ SameMemory s s' := by
  set s1 : State := s.modPod fun p => { p with reach := Map.set [] p.reach i.toNat aids }
  have hr := resends_reroute s1 i.toNat
  refine ⟨s1.reroute i.toNat, rfl, hr.pod ▸ Map.get_set_self .., fun id x hx ha hs => ?_, fun a => by rw [hr.mem]; rfl⟩
  have hreach := reroute_reach hx ha hs
  rwa [State.reach, hr.pod]

theorem exec_slotmapWrite (s : State) (k : BitVec 2) (v : DWord) (hp : s.pod.slotPending.Pairwise fun a b => a.1 ≤ b.1) :
    ∃ s', exec (.slotmapWrite k v) s = .next s' ∧ s'.pod.slotmap = s.pod.slotmap.set k.toNat (v &&& 0x7777777777777777) ∧
      (∀ x, s.dtime.toNat ≤ x → x < frameAfter s.dtime.toNat → s'.pod.mapAt x = s.pod.mapAt x) ∧
      s'.pod.mapAt (frameAfter s.dtime.toNat) = s'.pod.slotmap := by
  set m := s.pod.slotmap.set k.toNat (v &&& 0x7777777777777777)
  set q : Pod := { s.pod.settle s.dtime.toNat with
    slotmap := m, slotPending := (s.pod.settle s.dtime.toNat).slotPending ++ [(frameAfter s.dtime.toNat, m)] }
  have hq : ∀ x, q.mapAt x = if frameAfter s.dtime.toNat ≤ x then m else (s.pod.settle s.dtime.toNat).mapAt x := mapAt_write _ m m _
  refine ⟨{ s with pod := q }, rfl, rfl, fun x hx hlt => ?_, ?_⟩
  · change q.mapAt x = _
    rw [hq, if_neg (by omega), mapAt_settle _ hp hx]
  · change q.mapAt _ = m
    rw [hq, if_pos le_rfl]

section
variable {s : State} {bs : List (Nat × DWord)} {m : DWord} {xp : Bool}

/-- What a period's beacons do to a count that has been acquired (R117). -/
theorem timeBeacon_acquired (ha : s.pod.acquired = true) (s' : State) (hs : s' = (heard s m xp).track m) :
    (s'.dtime = s.dtime ∨ (s'.dtime = s.dtime + 1 ∧ s.dtime.toNat < m.toNat ∧ s.pod.slewAt + usTicks 5 ≤ s.clock)) ∧
    (s.dtime.toNat ≤ m.toNat + 20 → m.toNat ≤ s.dtime.toNat + 20 → 3 ≤ s.pod.goodRun → s.missedBeacon = false → s'.pod.lock = true) ∧
    (s.pod.lock = false → s.pod.goodRun < 3 ∨ s.missedBeacon = true → s'.pod.lock = false) := by
  subst hs
  obtain ⟨hd, hc, hsl, hl, -, -⟩ := heard_same s m xp
  refine ⟨?_, fun h1 h2 h3 hb => ?_, fun h1 h2 => ?_⟩
  · have := track_dtime (heard s m xp) m
    rwa [hd, hc, hsl] at this
  · have hw : within m s.dtime 20 = true := decide_eq_true ⟨h2, h1⟩
    rw [track_lock, hd, hw, if_pos rfl, heard_known hb]
    exact Bool.or_eq_true_iff.2 (.inr (decide_eq_true (Nat.succ_le_succ h3)))
  · have hg : (heard s m xp).pod.goodRun < 3 := by
      rcases h2 with h | h
      · simp only [heard, State.modPod]
        split <;> [exact Nat.zero_lt_succ _; exact h]
      · rw [heard, h, if_pos rfl]
        exact Nat.zero_lt_succ _
    rw [track_lock, hl, h1, Bool.false_or, decide_eq_false_iff_not]
    split <;> omega

end

/-- Settles O50: each event by its equation; what R106 sends again by the transactions that stand on the station, the slot map by the order of its
entries, device time by the run of good periods. -/
theorem podEvents : Obligations.PodEvents := by
  refine ⟨fun s i dup delay aids u => ?_, fun s k v _ hp => ?_, fun s bs m l xp => ?_⟩
  · refine ⟨fun h => ⟨?_, ?_, ?_⟩, fun h => ⟨exec_stationTrain s i dup delay h, fun hd => ?_, fun hd => ?_, fun hu hl => ⟨fun c hc => ?_, fun hc => ?_⟩,
      fun hu => ?_⟩, fun c y => slotCell_reserved s, fun y => slotCell_mem s, exec_stationDown s i, exec_reachReport s i aids⟩
    · exact if_pos (by rw [h]; rfl)
    · exact if_pos (by rw [h]; rfl)
    · exact if_pos (by rw [h]; rfl)
    · exact if_pos (by rw [hd, Bool.or_true])
    · refine ⟨_, (exec_stationUp s i).trans (if_neg (by rw [h, hd]; decide)), setBit_self _ _ i.isLt, rfl, fun j hj => setBit_ne _ _ hj⟩
    · exact slotTransmit_cell h hu hl hc
    · rw [exec_slotTransmit, hc]
      exact ite_self _
    · exact if_pos (by rw [hu, Bool.not_false, Bool.or_true, Bool.true_or])
  · obtain ⟨s', he, hm, hbefore, hat⟩ := exec_slotmapWrite s k v hp
    obtain ⟨hf, hlo, hhi⟩ := frameAfter_bounds s.dtime.toNat
    exact ⟨s', he, hm, hf, hlo, hhi, hbefore, hat⟩
  · refine ⟨exec_timeBeacon_none, fun k hk => median_one hk m, median_none, fun h hm => ?_, fun h => ⟨_, if_pos h, rfl, rfl, fun _ => rfl⟩,
      fun h => if_neg (by omega)⟩
    rw [exec_timeBeacon h hm]
    have hh := Hears.heard s m xp
    obtain ⟨hd, -, -, -, hac, hst⟩ := heard_same s m xp
    cases ha : s.pod.acquired
    · rw [if_neg Bool.false_ne_true]
      by_cases h4 : heardRun s m = 4
      · obtain ⟨ho, hx, hl, hmem, hk⟩ := hh.acquire
        rw [if_pos h4]
        refine ⟨_, rfl, ho, hx, hl, fun a => by rw [hmem], hk, nofun, fun _ _ _ _ _ _ => ⟨acquire_acquired .., fun hlt => ?_, fun hge => ?_⟩,
          fun _ hlow => ?_⟩
        · rw [← hd] at hlt
          rw [← hst]
          exact acquire_later _ hlt
        · rw [← hd] at hge ⊢
          exact acquire_earlier _ hge
        · exact absurd h4 (heardRun_lt hlow).ne
      · obtain ⟨ho, hx, hl, hmem, hk⟩ := hh
        rw [if_neg h4]
        exact ⟨_, rfl, ho, hx, hl, fun a => congrArg (Memory.get · a) hmem, hk, nofun,
          fun _ h1 h2 h3 h5 h6 => absurd (heardRun_good h1 h2 h3 h5 h6) h4, fun _ _ => ⟨hac.trans ha, hd⟩⟩
    · obtain ⟨ho, hx, hl, hmem, hk⟩ := hh.track
      rw [if_pos rfl]
      exact ⟨_, rfl, ho, hx, hl, fun a => by rw [hmem], hk, fun _ => timeBeacon_acquired ha _ rfl, nofun, nofun⟩

end Sys2Proof.Laws.Pods
end


section
/-! The host's requests (4.8): its reads and writes of device memory, line by line or at once (R99, R368), the registers of the control space (R100), the
status query (R101) and the tail notices (R331, R472). -/

namespace Sys2Proof.Laws.HostRequests

open Sys2Proof Sys2Proof.Machine Sys2Proof.Laws.Rules Sys2Proof.Laws.Reading Sys2Proof.Laws.Storing Sys2Proof.Laws.LocalAccess

/-! ## A part of one line -/

/-- What writing a part of a line leaves. -/
structure WritesPart (s s' : State) (a : Nat) (bs : List Byte) : Prop where
  mem : s'.mem = Memory.store s.mem a bs
  out : s'.out = s.out
  lineJobs : s'.lineJobs = s.lineJobs

theorem mem_touch (s : State) (c : Option CtxId) (pa : Nat) : (s.touch c pa).mem = s.mem := by
  obtain ⟨_, _, _, h⟩ := onlyReads_touch s c pa
  rw [h]

theorem out_touch (s : State) (c : Option CtxId) (pa : Nat) : (s.touch c pa).out = s.out := by
  obtain ⟨_, _, _, h⟩ := onlyReads_touch s c pa
  rw [h]

theorem lineJobs_touch (s : State) (c : Option CtxId) (pa : Nat) : (s.touch c pa).lineJobs = s.lineJobs := by
  obtain ⟨_, _, _, h⟩ := onlyReads_touch s c pa
  rw [h]

section
variable {s : State} {a : Nat} {bs : List Byte}

theorem writePart_open (h : s.lineFault a = none) (bs : List Byte) : ∃ s', s.writePart a bs = (s', true) ∧ WritesPart s s' a bs := by
  have hl : (s.touch none a).atLine a false (decide (bs.length = 128)) = .ok a false := by
    rw [State.atLine, lineFault_touch, h]
  refine ⟨_, by rw [State.writePart, hl], ?_⟩
  by_cases hb : bs.length = 128
  · simp only [hb, decide_true, if_true]
    exact ⟨congrArg (Memory.store · a bs) (mem_touch ..), out_touch .., lineJobs_touch ..⟩
  · simp only [hb, decide_false, Bool.false_eq_true, if_false]
    exact ⟨congrArg (Memory.store · a bs) (mem_touch ..), out_touch .., lineJobs_touch ..⟩

theorem writePart_bad {f : BitVec 8 × BitVec 4} (h : s.lineFault a = some f) (hb : bs.length < 128) :
    s.writePart a bs = (s.touch none a, false) := by
  have hf : decide (bs.length = 128) = false := decide_eq_false (by omega)
  have hl : (s.touch none a).atLine a false (decide (bs.length = 128)) = .bad f.1 f.2 := by
    rw [State.atLine, lineFault_touch, h, hf]
    rfl
  rw [State.writePart, hl]

/-- A range within one line is written by its one part. -/
theorem writeLines_one (hn : bs ≠ []) (hl : a % 128 + bs.length ≤ 128) : s.writeLines a bs (bs.length + 1) = s.writePart a bs := by
  have hk : bs.take (lineRest a) = bs := List.take_of_length_le (by rw [lineRest]; omega)
  have hd : bs.drop (lineRest a) = [] := List.drop_of_length_le (by rw [lineRest]; omega)
  have hne : bs.isEmpty = false := List.isEmpty_eq_false_iff.2 hn
  obtain ⟨k, hlen⟩ := Nat.exists_eq_succ_of_ne_zero (List.length_pos_iff.2 hn).ne'
  rw [hlen, State.writeLines, hne, hk, hd]
  rcases s.writePart a bs with ⟨s1, _ | _⟩ <;> rfl

end

/-! ## The registers (R100) -/

section
variable (s : State) (v : DWord)

theorem regWrite_flt : s.regWrite 0x170 v = s.fltCmd (v.extractLsb' 12 4).toNat (fltTarget v) := rfl

theorem regWrite_slotmap (k : BitVec 2) : s.regWrite (0xA0 + 8 * k.toNat) v = Res.state (execSlotmapWrite k v s) s := by
  have hk := k.isLt
  have hdiv : BitVec.ofNat 2 ((0xA0 + 8 * k.toNat - 0xA0) / 8) = k := by
    rw [Nat.add_sub_cancel_left, Nat.mul_div_cancel_left _ (by decide), BitVec.ofNat_toNat, BitVec.setWidth_eq]
  rw [State.regWrite, if_neg (by omega), if_neg (by omega), if_neg (by omega), if_pos (by omega), hdiv]

/-- A doorbell register, where the doorbells lie behind the control page. -/
theorem regWrite_doorbell (d : BitVec 14) (hb : 0x4000000 ≤ s.cfg.dbbase) : s.regWrite (s.cfg.dbbase + 4096 * d.toNat) v = s.ringBell d v := by
  have hd := d.isLt
  have hdiv : BitVec.ofNat 14 ((s.cfg.dbbase + 4096 * d.toNat - s.cfg.dbbase) / 4096) = d := by
    rw [Nat.add_sub_cancel_left, Nat.mul_div_cancel_left _ (by decide), BitVec.ofNat_toNat, BitVec.setWidth_eq]
  rw [State.regWrite, if_neg (by omega), if_neg (by omega), if_neg (by omega), if_neg (by omega), if_neg (by omega), if_neg (by omega), if_pos (by omega),
    if_pos (by omega), hdiv]

theorem controlWrite_aligned {off : Nat} (h : off % 8 = 0) : s.controlWrite off (leBytes 8 v.toNat) = s.regWrite off v := by
  have h0 : (off + 7) / 8 * 8 = off := by omega
  have hv : BitVec.ofNat 64 (leNat (leBytes 8 v.toNat)) = v := by
    rw [leNat_leBytes, Nat.mod_eq_of_lt (show v.toNat < 256 ^ 8 from v.isLt), BitVec.ofNat_toNat, BitVec.setWidth_eq]
  have ht : (leBytes 8 v.toNat).take 8 = leBytes 8 v.toNat := List.take_of_length_le (by rw [leBytes_length])
  have hd : (leBytes 8 v.toNat).drop 8 = [] := List.drop_of_length_le (by rw [leBytes_length])
  rw [State.controlWrite, h0, Nat.sub_self, List.drop_zero, leBytes_length, State.regWrites, if_neg (by rw [leBytes_length]; decide), ht, hv, hd]
  rfl

theorem controlWrite_unaligned {off : Nat} (h : off % 8 ≠ 0) : s.controlWrite off (leBytes 8 v.toNat) = s := by
  have hl : ((leBytes 8 v.toNat).drop ((off + 7) / 8 * 8 - off)).length < 8 := by
    rw [List.length_drop, leBytes_length]
    omega
  rw [State.controlWrite, leBytes_length, State.regWrites, if_pos hl]

/-- A command register performs what its operation names. -/
theorem state_of_next {r : Res} {s s' : State} (h : r = .next s') : r.state s = s' := by rw [h]; rfl

theorem registers (s' : State) (k : BitVec 2) :
    let c : CtxId := v.extractLsb' 0 12
    let q : BitVec 14 := v.extractLsb' 0 14
    let b : BitVec 9 := v.extractLsb' 0 9
    let x : FltTarget := ⟨v.extractLsb' 0 12, v.extractLsb' 16 4, v.extractLsb' 20 10, v.extractLsb' 32 24⟩
    (∀ e ∈ [(1, Instr.activate c), (2, .destroy c), (3, .invalPage c), (4, .invalAll c)],
      v.extractLsb' 12 4 = BitVec.ofNat 4 e.1 → exec e.2 s = .next s' → s.regWrite 0x08 v = s') ∧
    (∀ e ∈ [(1, Instr.bind q), (2, .unbind q)], v.extractLsb' 14 2 = BitVec.ofNat 2 e.1 → exec e.2 s = .next s' → s.regWrite 0x20 v = s') ∧
    (∀ e ∈ [(1, Instr.bankOn b), (2, .bankOff b), (3, .bankInuse b), (4, .bankNotuse b), (5, .bankPres b), (6, .bankNopres b)],
      v.extractLsb' 9 3 = BitVec.ofNat 3 e.1 → exec e.2 s = .next s' → s.regWrite 0x40 v = s') ∧
    (∀ e ∈ [(1, Instr.restart x), (2, .discard x), (3, .killthread x), (4, .killteam x), (5, .killgrid x)],
      v.extractLsb' 12 4 = BitVec.ofNat 4 e.1 → exec e.2 s = .next s' → s.regWrite 0x170 v = s') ∧
    (exec (.slotmapWrite k v) s = .next s' → s.regWrite (0xA0 + 8 * k.toNat) v = s') ∧
    (exec (.tsq v) s = .next s' → s.regWrite 0x1C0 v = s') ∧
    (∀ d : BitVec 14, 0x4000000 ≤ s.cfg.dbbase → s.regWrite (s.cfg.dbbase + 4096 * d.toNat) v = s.ringBell d v) := by
  refine ⟨?_, ?_, ?_, ?_, fun h => (regWrite_slotmap s v k).trans (state_of_next h), fun h => Host.Outcome.next.inj h, regWrite_doorbell s v⟩
  · change ∀ e ∈ _, _ → _ → s.ctxCommand v = s'
    simp only [List.forall_mem_cons, List.not_mem_nil, false_imp_iff, implies_true, and_true, State.ctxCommand]
    refine ⟨fun hv h => ?_, fun hv h => ?_, fun hv h => ?_, fun hv h => ?_⟩ <;> (rw [hv]; exact state_of_next h)
  · change ∀ e ∈ _, _ → _ → s.queueCommand v = s'
    simp only [List.forall_mem_cons, List.not_mem_nil, false_imp_iff, implies_true, and_true, State.queueCommand]
    refine ⟨fun hv h => ?_, fun hv h => ?_⟩ <;> (rw [hv]; exact state_of_next h)
  · change ∀ e ∈ _, _ → _ → s.bankCommand v = s'
    simp only [List.forall_mem_cons, List.not_mem_nil, false_imp_iff, implies_true, and_true, State.bankCommand]
    refine ⟨fun hv h => ?_, fun hv h => ?_, fun hv h => ?_, fun hv h => ?_, fun hv h => ?_, fun hv h => ?_⟩ <;> (rw [hv]; exact state_of_next h)
  · rw [regWrite_flt]
    simp only [List.forall_mem_cons, List.not_mem_nil, false_imp_iff, implies_true, and_true]
    refine ⟨fun hv h => ?_, fun hv h => ?_, fun hv h => ?_, fun hv h => ?_, fun hv h => ?_⟩ <;> (rw [hv]; exact Host.Outcome.next.inj h)

end

/-! ## The requests of a connection -/

theorem conn?_zero (s : State) : s.conn? 0 = none := rfl

section
variable {s : State} {q : BitVec 16} {key off : Word} {a n : Nat} {data : List Byte} {v : DWord} {c : Conn}

theorem region_ambiguous (h : c.dmr = true) (h' : c.dcs = true) (hk : c.dmrkey = c.dcskey) : c.region key = none := by
  rw [Conn.region, h, h', hk, beq_self_eq_true]
  rfl

theorem region_memory (h : c.dmr = true) (h' : c.dcs = false) : c.region c.dmrkey = some .memory := by
  rw [Conn.region, h, h', beq_self_eq_true]
  rfl

theorem region_control (h : c.dcs = true) (h' : c.dmr = false) : c.region c.dcskey = some .control := by
  rw [Conn.region, h, h', beq_self_eq_true]
  rfl

/-- R98: a packet for no connection is dropped. -/
theorem exec_no_connection (h : s.portsOpen = false ∨ s.conn? q.toNat = none) :
    ∀ x ∈ [Instr.unsupportedRdmaRequest q, .rdmaWrite q key a data, .registerWrite q key off v, .rdmaRead q key a n], exec x s = .next s := by
  simp only [List.forall_mem_cons, List.not_mem_nil, false_imp_iff, implies_true, and_true]
  refine ⟨?_, ?_, ?_, ?_⟩
  · refine if_neg ?_
    rcases h with h | h <;> simp [h]
  · change execRdmaWrite .. = _
    rcases h with h | h <;> simp [execRdmaWrite, h]
  · change execRegisterWrite .. = _
    rcases h with h | h <;> simp [execRegisterWrite, h]
  · change execRdmaRead .. = _
    rcases h with h | h <;> simp [execRdmaRead, h]

section
variable (hp : s.portsOpen = true) (hc : s.conn? q.toNat = some c)
include hp hc

theorem exec_no_region (hr : c.region key = none) :
    ∀ x ∈ [Instr.rdmaWrite q key a data, .registerWrite q key off v, .rdmaRead q key a n], exec x s = .next (s.send (.rdmaReply q.toNat false [])) := by
  simp only [List.forall_mem_cons, List.not_mem_nil, false_imp_iff, implies_true, and_true]
  refine ⟨?_, ?_, ?_⟩
  · change execRdmaWrite .. = _
    simp only [execRdmaWrite, hp, hc, hr, Bool.not_true, Bool.false_eq_true, if_false]
  · change execRegisterWrite .. = _
    simp only [execRegisterWrite, hp, hc, hr, Bool.not_true, Bool.false_eq_true, if_false, reduceCtorEq]
  · change execRdmaRead .. = _
    simp only [execRdmaRead, hp, hc, hr, Bool.not_true, Bool.false_eq_true, if_false]

theorem exec_unsupported : exec (.unsupportedRdmaRequest q) s = .next (s.send (.rdmaRefused q.toNat)) :=
  if_pos (by rw [hp, hc]; rfl)

theorem exec_write_memory (hr : c.region key = some .memory) : exec (.rdmaWrite q key a data) s =
    if !c.dmrw || decide (2 ^ 39 < a + data.length) then .next (s.send (.rdmaReply q.toNat false []))
    else .next ((s.writeLines a data (data.length + 1)).1.send (.rdmaReply q.toNat (s.writeLines a data (data.length + 1)).2 [])) := by
  change execRdmaWrite .. = _
  simp only [execRdmaWrite, hp, hc, hr, Bool.not_true, Bool.false_eq_true, if_false]

/-- R99: a write within one line changes its bytes and no other. -/
theorem exec_write_line (hr : c.region key = some .memory) (hw : c.dmrw = true) (hb : a + data.length ≤ 2 ^ 39) (hn : data ≠ [])
    (hl : a % 128 + data.length ≤ 128) :
    (s.lineFault a = none → ∃ s', exec (.rdmaWrite q key a data) s = .next s' ∧ s'.bytes a data.length = data ∧ SameMemoryBut s s' a data.length ∧
      s'.out = s.out ++ [.rdmaReply q.toNat true []]) ∧
    (∀ f, s.lineFault a = some f → data.length < 128 → ∃ s', exec (.rdmaWrite q key a data) s = .next s' ∧ SameMemory s s' ∧
      s'.out = s.out ++ [.rdmaReply q.toNat false []]) := by
  have hex := exec_write_memory hp hc (a := a) (data := data) hr
  rw [if_neg (by rw [hw]; simpa using hb), writeLines_one hn hl] at hex
  refine ⟨fun hf => ?_, fun f hf h128 => ?_⟩
  · obtain ⟨s1, hs1, hmem, hout, -⟩ := writePart_open hf data
    rw [hs1] at hex
    obtain ⟨hbytes, hbut⟩ := reads_of_stored (s' := s1.send (.rdmaReply q.toNat true [])) hmem
    exact ⟨_, hex, hbytes, hbut, congrArg (· ++ _) hout⟩
  · rw [writePart_bad hf h128] at hex
    exact ⟨_, hex, sameMemory_of_mem (mem_touch ..), congrArg (· ++ _) (out_touch ..)⟩

theorem exec_read_memory (hr : c.region key = some .memory) (hb : a + n ≤ 2 ^ 39) {s1 : State} {r : Option (List Byte)} (h : s.readPhys a n = (s1, r)) :
    exec (.rdmaRead q key a n) s = .next (s1.send (.rdmaReply q.toNat r.isSome (r.getD []))) := by
  change execRdmaRead .. = _
  cases r <;> simp only [execRdmaRead, hp, hc, hr, Bool.not_true, Bool.false_eq_true, if_false, if_neg (Nat.not_lt.2 hb), h] <;> rfl

theorem exec_read_beyond (hr : c.region key = some .memory) (hb : 2 ^ 39 < a + n) :
    exec (.rdmaRead q key a n) s = .next (s.send (.rdmaReply q.toNat false [])) := by
  change execRdmaRead .. = _
  simp only [execRdmaRead, hp, hc, hr, Bool.not_true, Bool.false_eq_true, if_false, if_pos hb]

theorem exec_register_memory (hr : c.region key = some .memory) : exec (.registerWrite q key off v) s = .next (s.send (.rdmaReply q.toNat false [])) := by
  change execRegisterWrite .. = _
  simp only [execRegisterWrite, hp, hc, hr, Bool.not_true, Bool.false_eq_true, if_false, Option.some.injEq, reduceCtorEq]

theorem exec_read_control (hr : c.region key = some .control) : exec (.rdmaRead q key a n) s =
    if 2 ^ 32 < a + n then .next (s.send (.rdmaReply q.toNat false [])) else .next (s.send (.rdmaReply q.toNat true (s.ctlBytes a n))) := by
  change execRdmaRead .. = _
  simp only [execRdmaRead, hp, hc, hr, Bool.not_true, Bool.false_eq_true, if_false]

theorem exec_write_control (hr : c.region key = some .control) : exec (.rdmaWrite q key a data) s =
    if 2 ^ 32 < a + data.length then .next (s.send (.rdmaReply q.toNat false []))
    else .next (((s.linesDone q.toNat).controlWrite a data).send (.rdmaReply q.toNat true [])) := by
  change execRdmaWrite .. = _
  simp only [execRdmaWrite, hp, hc, hr, Bool.not_true, Bool.false_eq_true, if_false]

theorem exec_register_control (hr : c.region key = some .control) (hb : off.toNat + 8 ≤ 2 ^ 32) : exec (.registerWrite q key off v) s =
    .next (((s.linesDone q.toNat).controlWrite off.toNat (leBytes 8 v.toNat)).send (.rdmaReply q.toNat true [])) := by
  change execRegisterWrite .. = _
  simp only [execRegisterWrite, hp, hc, hr, Bool.not_true, Bool.false_eq_true, if_false, if_true, if_neg (Nat.not_lt.2 hb)]

theorem spread_read (hr : c.region key = some .memory) (hn : 0 < n) (hb : a + n ≤ 2 ^ 39) :
    s.spread (.rdmaRead q key a n) = { s with lineJobs := s.lineJobs ++ [⟨.inl q.toNat, false, a, [], n⟩] } := by
  change s.spreadRdma .. = _
  simp only [State.spreadRdma, hp, hc, if_true]
  exact if_pos ⟨hr, .inl rfl, hn, hb⟩

theorem spread_write (hr : c.region key = some .memory) (hn : 0 < data.length) (hb : a + data.length ≤ 2 ^ 39) (hw : c.dmrw = true) :
    s.spread (.rdmaWrite q key a data) = { s with lineJobs := s.lineJobs ++ [⟨.inl q.toNat, true, a, data, data.length⟩] } := by
  change s.spreadRdma .. = _
  simp only [State.spreadRdma, hp, hc, if_true]
  exact if_pos ⟨hr, .inr hw, hn, hb⟩

end
end

/-! ## Requests served line by line (R368) -/

section
variable {s : State} {a n conn : Nat} {data done : List Byte}

theorem line_one (hp : s.portsOpen = true) (j : LineJob) (hj : s.lineJobs = [j]) (hw : j.who = .inl conn) : s.line 0 =
    if j.write then
      match s.writePart j.addr (j.data.take (min (lineRest j.addr) j.left)) with
      | (s1, true) =>
        if j.left = min (lineRest j.addr) j.left then ({ s1 with lineJobs := s1.lineJobs.eraseIdx 0 } : State).lineAnswer j true []
        else { s1 with lineJobs := s1.lineJobs.set 0 { j with addr := j.addr + min (lineRest j.addr) j.left, data := j.data.drop (min (lineRest j.addr) j.left)
                                                              left := j.left - min (lineRest j.addr) j.left } }
      | (s1, false) => ({ s1 with lineJobs := s1.lineJobs.eraseIdx 0 } : State).lineAnswer j false []
    else
      match s.readPhys j.addr (min (lineRest j.addr) j.left) with
      | (s1, some bs) =>
        if j.left = min (lineRest j.addr) j.left then ({ s1 with lineJobs := s1.lineJobs.eraseIdx 0 } : State).lineAnswer j true (j.data ++ bs)
        else { s1 with lineJobs := s1.lineJobs.set 0 { j with addr := j.addr + min (lineRest j.addr) j.left, data := j.data ++ bs
                                                              left := j.left - min (lineRest j.addr) j.left } }
      | (s1, none) => ({ s1 with lineJobs := s1.lineJobs.eraseIdx 0 } : State).lineAnswer j false [] := by
  have h0 : s.lineJobs[0]? = some j := by rw [hj]; rfl
  simp only [State.line, h0, hw, hp, Bool.not_true, Bool.false_eq_true, if_false] <;> rfl

theorem line_write (hp : s.portsOpen = true) (hj : s.lineJobs = [⟨.inl conn, true, a, data, data.length⟩]) (hf : s.lineFault a = none) :
    ∃ s1, WritesPart s s1 a (data.take (min (lineRest a) data.length)) ∧ s.line 0 =
      if data.length = min (lineRest a) data.length then ({ s1 with lineJobs := [] } : State).send (.rdmaReply conn true [])
      else { s1 with lineJobs := [⟨.inl conn, true, a + min (lineRest a) data.length, data.drop (min (lineRest a) data.length),
        data.length - min (lineRest a) data.length⟩] } := by
  obtain ⟨s1, hs1, hpart⟩ := writePart_open hf (data.take (min (lineRest a) data.length))
  refine ⟨s1, hpart, ?_⟩
  rw [line_one hp _ hj rfl, if_pos rfl]
  simp only [hs1, hpart.lineJobs, hj]
  rfl

theorem line_written (hp : s.portsOpen = true) (hj : s.lineJobs = [⟨.inl conn, true, a, data, data.length⟩]) (hf : s.lineFault a = none) {k : Nat}
    (hk : k = min (lineRest a) data.length) :
    (s.line 0).bytes a k = data.take k ∧ SameMemoryBut s (s.line 0) a k ∧
    (k < data.length → (s.line 0).lineJobs = [⟨.inl conn, true, a + k, data.drop k, data.length - k⟩] ∧ (s.line 0).out = s.out) ∧
    (data.length ≤ k → (s.line 0).lineJobs = [] ∧ (s.line 0).out = s.out ++ [.rdmaReply conn true []]) := by
  obtain ⟨s1, hpart, hline⟩ := line_write hp hj hf
  rw [← hk] at hpart hline
  have hmem : (s.line 0).mem = Memory.store s.mem a (data.take k) := by
    rw [hline, ← hpart.mem]
    split <;> rfl
  have hlen : (data.take k).length = k := by
    rw [List.length_take]
    omega
  have hreads := reads_of_stored hmem
  rw [hlen] at hreads
  refine ⟨hreads.1, hreads.2, fun hlt => ?_, fun hle => ?_⟩
  · rw [hline, if_neg (by omega)]
    exact ⟨rfl, hpart.out⟩
  · rw [hline, if_pos (by omega)]
    exact ⟨rfl, congrArg (· ++ _) hpart.out⟩

theorem line_read (hp : s.portsOpen = true) (hj : s.lineJobs = [⟨.inl conn, false, a, done, n⟩]) {k : Nat} (hk : k = min (lineRest a) n) {s1 : State}
    {bs : List Byte} (h : s.readPhys a k = (s1, some bs)) :
    (k < n → (s.line 0).lineJobs = [⟨.inl conn, false, a + k, done ++ bs, n - k⟩] ∧ (s.line 0).out = s.out) ∧
    (n ≤ k → (s.line 0).lineJobs = [] ∧ (s.line 0).out = s.out ++ [.rdmaReply conn true (done ++ bs)]) := by
  have hs1 : s1 = s.touchAll none (linesOf a k) := by
    rw [State.readPhys] at h
    split at h
    · exact (Prod.mk.inj h).1.symm
    · exact nomatch (Prod.mk.inj h).2
  obtain ⟨_, _, _, hrest⟩ := onlyReads_touchAll s none (linesOf a k)
  have hjobs : s1.lineJobs = s.lineJobs := by rw [hs1, hrest]
  have hout : s1.out = s.out := by rw [hs1, hrest]
  have hline := line_one hp _ hj rfl
  rw [if_neg Bool.false_ne_true] at hline
  simp only [← hk, h, hjobs, hj] at hline
  refine ⟨fun hlt => ?_, fun hle => ?_⟩
  · rw [hline, if_neg (by omega)]
    exact ⟨rfl, hout⟩
  · rw [hline, if_pos (by omega)]
    exact ⟨rfl, congrArg (· ++ _) hout⟩

end

/-! ## Tail notices (R331, R472) -/

theorem sendRdma_out (s : State) (hp : s.portsOpen = true) (conn : Nat) (addr : DWord) (data : List Byte) :
    (∀ c, s.conn? conn = some c → (s.sendRdma conn addr data).out = s.out ++ [.rdma conn c.hostkey addr data]) ∧
    (s.conn? conn = none → (s.sendRdma conn addr data).out = s.out) ∧ (s.sendRdma conn addr data).mem = s.mem := by
  rw [State.conn?, State.sendRdma]
  by_cases h0 : conn = 0
  · rw [if_pos h0, h0]
    refine ⟨nofun, fun _ => ?_, ?_⟩ <;> (split <;> [(rw [if_neg (by simp)]); rfl])
  · rw [if_neg h0]
    cases hf : Map.find? s.conns conn with
    | none => exact ⟨nofun, fun _ => rfl, rfl⟩
    | some x =>
      cases hv : x.valid
      · simp [hv]
      · simp [hv, hp, h0]

/-- The state after a sample of a team's status (R101). -/
theorem sample_some {s : State} {v : DWord} {e : Nat × Team} (h : s.named (v.extractLsb' 0 12) s.ctl.tsqgrid (v.extractLsb' 32 24).toNat = some e) :
    s.sample v = { s with ctl := { s.ctl with tsqval := e.2.stat.zeroExtend 64 ||| 0x100 ||| (if e.2.place = .saved then 0x200 else 0) } } := by
  simp only [State.sample, h, Team.tsq]
  cases e.2.place <;> rfl

theorem sample_none {s : State} {v : DWord} (h : s.named (v.extractLsb' 0 12) s.ctl.tsqgrid (v.extractLsb' 32 24).toNat = none) :
    s.sample v = { s with ctl := { s.ctl with tsqval := 0 } } := by
  simp only [State.sample, h]

theorem not_and_of_false {a b : Bool} (h : a = false ∨ b = false) : ¬(a && b) = true := by
  rcases h with rfl | rfl <;> simp

/-- Settles O52: each request by its equation for its region, a write within a line by the one part that it stores, a request served line by line by the
part that its next line is. -/
theorem hostEvents : Obligations.HostEvents := by
  refine ⟨fun s q key off a n data v c => ⟨exec_no_connection, conn?_zero s, fun hp hc => ⟨exec_no_region hp hc,
      ⟨region_ambiguous, region_memory, region_control⟩, exec_unsupported hp hc, fun hr => ⟨fun h => ?_, fun h => exec_read_beyond hp hc hr h,
        exec_register_memory hp hc hr, fun hw hb hn hl => exec_write_line hp hc hr hw hb hn hl, fun hb => ⟨fun s1 bs h => ⟨?_, ?_⟩, fun s1 h => ?_⟩⟩,
      fun hr => ⟨fun h => ?_, fun h => ?_, fun h => ?_, fun h => ?_, fun hb h => ?_, fun hb h => ?_⟩⟩⟩,
    fun s s' v k => registers s v s' k, fun s v e => ⟨fun h => ?_, fun h => ?_, fun hp hd => ?_, fun hp hd => ?_, fun h => ?_, fun h => ?_⟩,
    fun s q key a n conn data done c => ⟨fun hp hc hr => ⟨fun hn hb => spread_read hp hc hr hn hb, fun hn hb hw => spread_write hp hc hr hn hb hw⟩,
      fun hp hj _ hf => line_written hp hj hf rfl, fun hp hj _ => fun s1 h => line_read hp hj rfl h⟩⟩
  · rw [exec_write_memory hp hc hr, if_pos (by simpa using h)]
  · exact exec_read_memory hp hc hr hb h
  · rw [State.readPhys] at h
    split at h
    · exact (Option.some.inj (Prod.mk.inj h).2).symm
    · exact nomatch (Prod.mk.inj h).2
  · exact exec_read_memory hp hc hr hb h
  · rw [exec_read_control hp hc hr, if_pos h]
  · rw [exec_read_control hp hc hr, if_neg (by omega)]
  · rw [exec_write_control hp hc hr, if_pos h]
  · rw [exec_write_control hp hc hr, if_neg (by omega)]
  · rw [exec_register_control hp hc hr hb, controlWrite_aligned _ _ h]
  · rw [exec_register_control hp hc hr hb, controlWrite_unaligned _ _ h]
  · exact congrArg Host.Outcome.next (sample_none h)
  · exact congrArg Host.Outcome.next (sample_some h)
  · obtain ⟨hsome, hnone, hmem⟩ := sendRdma_out s hp s.rrq.nqp s.rrq.naddr (leBytes 8 s.rrq.tail)
    exact ⟨_, if_pos (by rw [hp, hd]; rfl), rfl, sameMemory_of_mem hmem, hsome, hnone⟩
  · obtain ⟨hsome, hnone, hmem⟩ := sendRdma_out s hp s.flt.nqp s.flt.naddr (leBytes 8 s.flt.tail)
    exact ⟨_, if_pos (by rw [hp, hd]; rfl), rfl, sameMemory_of_mem hmem, hsome, hnone⟩
  · exact if_neg (not_and_of_false h)
  · exact if_neg (not_and_of_false h)

end Sys2Proof.Laws.HostRequests
end


section
/-! What a start leaves (R499-R503), and power and heat (R504, R505). -/

namespace Sys2Proof.Laws.Starts

open Sys2Proof Sys2Proof.Machine Sys2Proof.Laws.Rules Sys2Proof.Laws.Gangs

/-! ## The bank sets of a start -/

/-- The entries of a map, each changed, without those that have become the default. -/
theorem get_changed {α : Type} [DecidableEq α] (d : α) (f : α → α) (m : Map α) (hn : (m.map Prod.fst).Nodup) (k : Nat) :
    Map.get d ((m.map fun e => (e.1, f e.2)).filter fun e => decide (e.2 ≠ d)) k = if k ∈ m.map Prod.fst then f (Map.get d m k) else d := by
  induction m with
  | nil => rfl
  | cons e m ih =>
    obtain ⟨he, hm⟩ := List.nodup_cons.1 hn
    have ihm := ih hm
    rw [List.map_cons, List.map_cons, List.filter_cons]
    by_cases hk : e.1 = k
    · subst hk
      rw [if_neg he] at ihm
      rw [if_pos List.mem_cons_self]
      by_cases hf : f e.2 = d
      · rw [if_neg (by simpa using hf), ihm, Map.get, if_pos rfl, hf]
      · rw [if_pos (by simpa using hf), Map.get, if_pos rfl, Map.get, if_pos rfl]
    · have hmem : k ∈ e.1 :: m.map Prod.fst ↔ k ∈ m.map Prod.fst := by
        rw [List.mem_cons, or_iff_right (Ne.symm hk)]
      rw [Map.get, if_neg hk, if_congr hmem rfl rfl]
      split
      · rw [Map.get, if_neg hk, ihm]
      · exact ihm

theorem get_absent {α : Type} {d : α} {m : Map α} {k : Nat} (h : k ∉ m.map Prod.fst) : Map.get d m k = d := by
  induction m with
  | nil => rfl
  | cons e m ih =>
    obtain ⟨h1, h2⟩ := not_or.1 (List.mem_cons.not.1 h)
    rw [Map.get, if_neg (Ne.symm h1), ih h2]

section
variable {s : State} {c : Cfg} (hn : (s.banks.map Prod.fst).Nodup) (k : Nat)
include hn

theorem bank_restarted (w : Bool) : (s.restarted w c).bank k =
    if k ∈ s.banks.map Prod.fst then (if w then (s.bank k).warm s.clock else (s.bank k).cold) else Bank.reset :=
  get_changed Bank.reset (fun b => if w then b.warm s.clock else b.cold) s.banks hn k

theorem bank_cold : (s.restarted false c).bank k = { Bank.reset with remap := (s.bank k).remap } := by
  rw [bank_restarted hn]
  split
  · rfl
  · next h =>
    rw [State.bank, get_absent h]

/-- A bank set after a warm start is what R503 makes of it; of a set that has never been used, but for the time of its last access. -/
theorem bank_warm : (s.restarted true c).bank k = (s.bank k).warm s.clock ∨ (s.bank k = Bank.reset ∧ (s.restarted true c).bank k = Bank.reset) := by
  rw [bank_restarted hn]
  split
  · exact .inl rfl
  · next h => exact .inr ⟨get_absent h, rfl⟩

end

/-- R503: what a warm start makes of a bank set. -/
structure WarmOf (b b' : Bank) : Prop where
  kept : b.state ≠ 4 → b.rlost = false → b.pres = true → b'.state = 1 ∧ b'.pres = true ∧ b'.inuse = b.inuse
  lost : b.state = 4 ∨ b.rlost = true → b'.state = 4 ∧ b'.pres = b.pres ∧ b'.inuse = b.inuse
  ended : b.state ≠ 4 → b.rlost = false → b.pres = false → b'.state = 2 ∧ b'.pres = false ∧ b'.inuse = false
  rest : b'.clr = false ∧ b'.patrol = false ∧ b'.cecnt = b.cecnt ∧ b'.uecnt = b.uecnt ∧ b'.rows = b.rows ∧ b'.remaps = b.remaps ∧ b'.remap = b.remap

theorem warmOf_warm (b : Bank) (now : Nat) : WarmOf b (b.warm now) := by
  have hlost : b.state ≠ 4 → b.rlost = false → (b.state == 4 || b.rlost) = false := fun h h' => by
    rw [h', Bool.or_false]
    exact beq_eq_false_iff_ne.2 h
  refine ⟨fun h h' hp => ?_, fun h => ?_, fun h h' hp => ?_, rfl, rfl, rfl, rfl, rfl, rfl, rfl⟩
  · simp [Bank.warm, hlost h h', hp]
  · have hl : (b.state == 4 || b.rlost) = true := by
      rcases h with h | h <;> simp [h]
    simp [Bank.warm, hl]
  · simp [Bank.warm, hlost h h', hp]

theorem warmOf_reset : WarmOf Bank.reset Bank.reset :=
  ⟨nofun, fun h => (by rcases h with h | h <;> cases h), fun _ _ _ => ⟨rfl, rfl, rfl⟩, rfl, rfl, rfl, rfl, rfl, rfl, rfl⟩

theorem restarted_warmOf {s : State} {c : Cfg} (hn : (s.banks.map Prod.fst).Nodup) (k : Nat) : WarmOf (s.bank k) ((s.restarted true c).bank k) := by
  rcases bank_warm (c := c) hn k with h | ⟨h, h'⟩
  · rw [h]
    exact warmOf_warm ..
  · rw [h, h']
    exact warmOf_reset

/-- A warm start keeps the bytes of a set that is preserved. -/
theorem mem_warm {s : State} {c : Cfg} {a : Nat} (hp : (s.bank (Machine.setOf a)).pres = true) (hl : (s.bank (Machine.setOf a)).rlost = false)
    (hs : (s.bank (Machine.setOf a)).state = 1 ∨ (s.bank (Machine.setOf a)).state = 2 ∨ (s.bank (Machine.setOf a)).state = 3) :
    Memory.get (s.restarted true c).mem a = Memory.get s.mem a := by
  have hk : (true && (s.bank (Machine.setOf a)).kept) = true := by
    simp only [Bank.kept, hp, hl, Bool.not_false, Bool.and_true, Bool.true_and]
    rcases hs with h | h | h <;> rw [h] <;> rfl
  exact Map.get_filter_keep 0 s.mem (fun pa => true && (s.bank (Machine.setOf pa)).kept) hk

/-! ## Training, registers, and a start that ends -/

theorem get_foldl_put {α : Type} (d v : α) (l : List Nat) (m : Map α) (k : Nat) :
    Map.get d (l.foldl (fun m j => Map.put m j v) m) k = if k ∈ l then v else Map.get d m k := by
  induction l generalizing m with
  | nil => rfl
  | cons j l ih =>
    rw [List.foldl_cons, ih]
    by_cases hl : k ∈ l
    · rw [if_pos hl, if_pos (List.mem_cons_of_mem _ hl)]
    · rw [if_neg hl]
      by_cases hj : k = j
      · subst hj
        rw [Map.get_put_self, if_pos List.mem_cons_self]
      · rw [Map.get_put_ne _ _ _ hj, if_neg fun h => (List.mem_cons.1 h).elim hj hl]

theorem trained_warm (s : State) (c : Cfg) {ch : Nat} (hc : ch < channels) : (s.restarted true c).mgmt.trainedAt ch =
    if Config.trainingFails ch (s.mgmt.trainedAt ch) (s.mgmt.starts + 1) = true then s.mgmt.starts + 1 else s.mgmt.trainedAt ch := by
  change Map.get s.mgmt.trained (((span 0 channels).filter fun ch => Config.trainingFails ch (s.mgmt.trainedAt ch) (s.mgmt.starts + 1)).foldl
    (fun r ch => Map.put r ch (s.mgmt.starts + 1)) s.mgmt.retrained) ch = _
  rw [get_foldl_put]
  refine if_congr ?_ rfl rfl
  rw [List.mem_filter, mem_span]
  exact and_iff_right ⟨Nat.zero_le _, by omega⟩

/-- The rails after a start: uncapped, without a load. -/
theorem rails_restarted (s : State) (w : Bool) (c : Cfg) : (s.restarted w c).mgmt.rails = List.replicate 4 ⟨0xFFFF, 0, s.mgmt.hot⟩ := by
  cases h : s.mgmt.hot <;> cases w <;> simp [State.restarted, Mgmt.afterStart, Mgmt.train, Mgmt.limit, railsReset, h, Rail.over, span, List.replicate]

theorem perform_good {s : State} {c : Cfg} {w : Bool} (hv : s.mgmt.verified = true) (hc : s.startCfg = some c) : s.perform w = s.restarted w c := by
  rw [State.perform, hv, if_pos rfl, hc]

theorem perform_bad {s : State} (w : Bool) (h : s.mgmt.verified = false ∨ s.startCfg = none) :
    (s.perform w).mgmt.accepted = false ∧ (s.perform w).mgmt.starting = none ∧ (s.perform w).portsOpen = false := by
  have hn : (if s.mgmt.verified then s.startCfg else none) = none := by
    rcases h with h | h <;> simp [h]
  rw [State.perform, hn]
  exact ⟨rfl, rfl, rfl⟩

/-! ## Time passes -/

theorem formsWaves_releaseJoin (s : State) (t j : Nat) (b : Bool) : FormsWaves s (s.releaseJoin t j b) := by
  unfold State.releaseJoin
  split
  · exact .refl s
  · exact (formsWaves_setTeam ..).trans (formsWaves_foldl (fun s _ => formsWaves_foldl (fun s _ => formsWaves_formerAdd s ..) _ s) _ _)

theorem formsWaves_testJoin (s : State) (t j : Nat) : FormsWaves s (s.testJoin t j) := by
  unfold State.testJoin
  split
  · exact .refl s
  · dsimp only
    split
    · exact .refl s
    · split
      · exact formsWaves_releaseJoin ..
      · split
        · split
          · exact formsWaves_releaseJoin ..
          · exact .refl s
        · exact .refl s

theorem formsWaves_endJoins (s : State) : FormsWaves s s.endJoins := by
  refine formsWaves_foldl (fun s e => ?_) s.teams s
  split
  · exact formsWaves_foldl (fun s j => formsWaves_testJoin s ..) _ s
  · exact .refl s

/-- What stands in a machine in which only time has passed, before a start in progress ends. -/
structure SameControl (s s' : State) : Prop where
  mgmt : s'.mgmt = s.mgmt
  cfg : s'.cfg = s.cfg
  ctl : s'.ctl = s.ctl

theorem SameControl.of_formsWaves {s s' : State} (h : FormsWaves s s') : SameControl s s' := by
  obtain ⟨_, _, _, _, _, _, _, _, _, rfl⟩ := h
  exact ⟨rfl, rfl, rfl⟩

theorem SameControl.trans {a b c : State} (h : SameControl a b) (h' : SameControl b c) : SameControl a c :=
  ⟨h'.mgmt.trans h.mgmt, h'.cfg.trans h.cfg, h'.ctl.trans h.ctl⟩

theorem sameControl_foldl {α : Type} {f : State → α → State} (h : ∀ s x, SameControl s (f s x)) (l : List α) (s : State) : SameControl s (l.foldl f s) := by
  induction l generalizing s with
  | nil => exact ⟨rfl, rfl, rfl⟩
  | cons x l ih => exact (h s x).trans (ih _)

theorem sameControl_timePasses (s : State) (ns : Nat) : SameControl s (s.timePasses ns) := by
  unfold State.timePasses
  split
  · exact ⟨rfl, rfl, rfl⟩
  · dsimp only
    split <;> exact ⟨rfl, rfl, rfl⟩

/-- The machine when a start in progress ends. -/
def waited (s : State) (n : Nat) : State :=
  ({ ((s.joinEnds n).foldl (fun s a => State.endJoins { s with clock := max s.clock (a * Config.ticksPerAclk) }) s).noteReady with
      clock := s.clock + n } : State).timePasses ((s.clock + n) / Config.ticksPerNs - s.clock / Config.ticksPerNs)

theorem elapse_eq (s : State) (n : Nat) :
    s.elapse n = (waited s n).finishStart.settleCells.fltGo ((waited s n).finishStart.ctl.jobs.length + 1) := rfl

theorem sameControl_waited (s : State) (n : Nat) : SameControl s (waited s n) := by
  have hjoin : ∀ (s : State) (a : Nat), SameControl s (State.endJoins { s with clock := max s.clock (a * Config.ticksPerAclk) }) := fun s a => by
    obtain ⟨hm, hc, hk⟩ := SameControl.of_formsWaves (formsWaves_endJoins { s with clock := max s.clock (a * Config.ticksPerAclk) })
    exact ⟨hm, hc, hk⟩
  obtain ⟨hm, hc, hk⟩ := sameControl_foldl hjoin (s.joinEnds n) s
  refine SameControl.trans ?_ (sameControl_timePasses ..)
  exact ⟨hm, hc, hk⟩

theorem fltGo_idle {s : State} (h : s.ctl.jobs = []) (n : Nat) : s.fltGo n = s := by
  cases n with
  | zero => rfl
  | succ n => rw [State.fltGo, h]

theorem elapse_mgmt {s : State} (hs : s.mgmt.starting = none) (hj : s.ctl.jobs = []) (n : Nat) : (s.elapse n).mgmt = s.mgmt := by
  obtain ⟨hm, -, hk⟩ := sameControl_waited s n
  have hf : (waited s n).finishStart = waited s n := by rw [State.finishStart, hm, hs]
  have hjobs : (waited s n).settleCells.ctl.jobs = [] := (congrArg Ctl.jobs hk).trans hj
  rw [elapse_eq, hf, fltGo_idle hjobs]
  exact hm

/-- A start in progress ends as time passes. -/
theorem elapse_start {s : State} {c : Cfg} {w : Bool} (hs : s.mgmt.starting = some w) (hv : s.mgmt.verified = true) (hc : s.startCfg = some c) (n : Nat) :
    (s.elapse n).mgmt.starting = none ∧ (s.elapse n).cfg = c ∧ (s.elapse n).teams = [] := by
  obtain ⟨hm, hcfg, -⟩ := sameControl_waited s n
  have hc' : (waited s n).startCfg = some c := by rw [State.startCfg, hm, hcfg, ← State.startCfg, hc]
  have hf : (waited s n).finishStart = (waited s n).restarted w c := by
    rw [State.finishStart, hm, hs]
    exact perform_good (by rw [hm, hv]) hc'
  have hjobs : ((waited s n).restarted w c).settleCells.ctl.jobs = [] := rfl
  rw [elapse_eq, hf, fltGo_idle hjobs]
  exact ⟨rfl, rfl, rfl⟩

/-! ## Power and heat (R504, R505) -/

theorem limit_rail (m : Mgmt) (j : Nat) : m.limit.rails[j]? = (m.rails[j]?).map fun r =>
    { r with lim := m.hot || decide (4800 < (m.rails.map fun r => r.meas.toNat).sum) || r.over j } := by
  by_cases hj : j < m.rails.length
  · simp [Mgmt.limit, span_eq_range', hj]
  · simp [Mgmt.limit, span_eq_range', hj]

theorem limit_meas (m : Mgmt) : (m.limit.rails.map fun r => r.meas.toNat) = m.rails.map fun r => r.meas.toNat := by
  refine List.ext_getElem? fun j => ?_
  rw [List.getElem?_map, List.getElem?_map, limit_rail, Option.map_map]
  rfl

/-- What is true of the rails after one of them has changed and the limits are judged again. -/
structure Relimited (m m' : Mgmt) (k : Nat) (f : Rail → Rail) : Prop where
  rest : m' = { m with rails := m'.rails }
  length : m'.rails.length = m.rails.length
  lim : ∀ j y, m'.rails[j]? = some y →
    (y.lim = true ↔ (m'.hot = true ∨ 4800 < (m'.rails.map fun y => y.meas.toNat).sum) ∨ min y.cap.toNat (Config.railRating j) < y.meas.toNat)
  other : ∀ j, j ≠ k → m'.rails[j]?.map (fun y => (y.cap, y.meas)) = m.rails[j]?.map fun y => (y.cap, y.meas)
  changed : m'.rails[k]?.map (fun y => (y.cap, y.meas)) = m.rails[k]?.map fun y => ((f y).cap, (f y).meas)

theorem relimited (m : Mgmt) (k : Nat) (f : Rail → Rail) : Relimited m { m with rails := m.rails.modify k f }.limit k f := by
  refine ⟨rfl, ?_, fun j y hy => ?_, fun j hj => ?_, ?_⟩
  · simp [Mgmt.limit]
  · rw [limit_rail] at hy
    obtain ⟨r, -, rfl⟩ := Option.map_eq_some_iff.1 hy
    rw [limit_meas]
    simp only [Rail.over, Bool.or_eq_true, decide_eq_true_eq]
    rfl
  · rw [limit_rail, Option.map_map, List.getElem?_modify_ne _ _ (Ne.symm hj)]
    rfl
  · rw [limit_rail, Option.map_map, List.getElem?_modify_eq, Option.map_eq_map, Option.map_map]
    rfl

theorem regWrite_cap (s : State) (k : BitVec 2) (v : DWord) (h : 0x4000000 ≤ s.cfg.dbbase) : s.regWrite (0x200 + 8 * k.toNat) v =
    { s with mgmt := ({ s.mgmt with rails := s.mgmt.rails.modify k.toNat fun r => { r with cap := v.extractLsb' 0 16 } } : Mgmt).limit } := by
  have hk := k.isLt
  have hdiv : (0x200 + 8 * k.toNat - 0x200) / 8 = k.toNat := by omega
  rw [State.regWrite, if_neg (by omega), if_neg (by omega), if_neg (by omega), if_neg (by omega), if_neg (by omega), if_neg (by omega),
    if_neg (by omega), State.regPlain, if_neg (by omega), if_neg (by omega), if_neg (by omega), if_neg (by omega), if_neg (by omega),
    if_pos (by omega), hdiv]

/-- The fifth part of O53: the caps of Table 24.3, the limits and the trip. -/
theorem power_and_heat (s s' : State) (k : BitVec 2) (watts : BitVec 16) (celsius : Nat) (v : DWord) :
    let hot := fun (s : State) => s.mgmt.hot = true ∨ 4800 < (s.mgmt.rails.map fun y => y.meas.toNat).sum
    (s.mgmt.rails.length = 4 →
      exec (.powerCapLimit k watts) s = .next s' ∨ (0x4000000 ≤ s.cfg.dbbase ∧ s.regWrite (0x200 + 8 * k.toNat) v = s') →
        s' = { s with mgmt := { s.mgmt with rails := s'.mgmt.rails } } ∧ s'.mgmt.rails.length = 4 ∧
        (∀ j y, s'.mgmt.rails[j]? = some y → (y.lim = true ↔ hot s' ∨ min y.cap.toNat (Config.railRating j) < y.meas.toNat)) ∧
        ∀ j, j ≠ k.toNat → s'.mgmt.rails[j]?.map (fun y => (y.cap, y.meas)) = s.mgmt.rails[j]?.map fun y => (y.cap, y.meas)) ∧
    (s.mgmt.rails.length = 4 →
      (∃ s', exec (.powerCapLimit k watts) s = .next s' ∧
        s'.mgmt.rails[k.toNat]?.map (fun y => (y.cap, y.meas)) = s.mgmt.rails[k.toNat]?.map fun y => (y.cap, watts)) ∧
      (0x4000000 ≤ s.cfg.dbbase → (s.regWrite (0x200 + 8 * k.toNat) v).mgmt.rails[k.toNat]?.map (fun y => (y.cap, y.meas)) =
        s.mgmt.rails[k.toNat]?.map fun y => (v.extractLsb' 0 16, y.meas))) ∧
    (∃ s', exec (.thermalLimit celsius) s = .next s' ∧ s'.teams = s.teams ∧ SameMemory s s' ∧ s'.mgmt.hot = decide (105 ≤ celsius) ∧
      (105 ≤ celsius → ∀ y ∈ s'.mgmt.rails, y.lim = true)) ∧
    (115 ≤ celsius → ∃ s', exec (.thermalTrip celsius) s = .next s' ∧ s'.mgmt.trip = true ∧ s'.portsOpen = false ∧ (∀ T, s'.mayIssue T = false) ∧
      s'.mgmt.log.length = s.mgmt.log.length + 1) ∧
    (celsius < 115 → exec (.thermalTrip celsius) s = .next s) := by
  have hmeas := relimited s.mgmt k.toNat fun r => { r with meas := watts }
  have hcap := relimited s.mgmt k.toNat fun r => { r with cap := v.extractLsb' 0 16 }
  refine ⟨fun h4 h => ?_, fun _ => ⟨⟨_, rfl, hmeas.changed⟩, fun hb => ?_⟩, ⟨_, rfl, rfl, fun _ => rfl, rfl, fun hc y hy => ?_⟩, fun hc => ?_,
    fun hc => if_neg (by omega)⟩
  · rcases h with h | ⟨hb, h⟩
    · rw [← Host.Outcome.next.inj h]
      exact ⟨rfl, hmeas.length.trans h4, hmeas.lim, hmeas.other⟩
    · rw [← h, regWrite_cap s k v hb]
      exact ⟨rfl, hcap.length.trans h4, hcap.lim, hcap.other⟩
  · rw [regWrite_cap s k v hb]
    exact hcap.changed
  · obtain ⟨j, hj⟩ := List.getElem?_of_mem hy
    obtain ⟨r, -, rfl⟩ := Option.map_eq_some_iff.1 ((limit_rail _ j).symm.trans hj)
    simp [hc]
  · have hp : ({ s with mgmt := { s.mgmt with trip := true, log := s.mgmt.log ++ [(tripCode, celsius)] } } : State).portsOpen = false :=
      Bool.and_false _
    refine ⟨_, if_pos hc, rfl, hp, fun T => ?_, List.length_append⟩
    simp only [State.mayIssue, State.modMgmt, hp, Bool.false_and]

end Sys2Proof.Laws.Starts
end


section
/-! The management port (R506-R511): its requests, the order of its responses, its connections. -/

namespace Sys2Proof.Laws.ManagementPort

open Sys2Proof Sys2Proof.Machine Sys2Proof.Laws.Rules Sys2Proof.Laws.Contexts Sys2Proof.Laws.Starts

/-! ## How a request is served -/

theorem exec_eq_status (s : State) (r : MgmtReq) : exec (.status r) s = execStatus r s := rfl

theorem exec_eq_quote (s : State) (r : MgmtReq) : exec (.quote r) s = execQuote r s := rfl

theorem exec_eq_flashwr (s : State) (r : MgmtReq) : exec (.flashwr r) s = execFlashwr r s := rfl

theorem exec_eq_flashseal (s : State) (r : MgmtReq) : exec (.flashseal r) s = execFlashseal r s := rfl

theorem exec_eq_start (s : State) (r : MgmtReq) : exec (.start r) s = execStart r s := rfl

theorem exec_eq_read (s : State) (r : MgmtReq) : exec (.read r) s = execRead r s := rfl

theorem exec_eq_connset (s : State) (r : MgmtReq) : exec (.connset r) s = execConnset r s := rfl

theorem exec_eq_epset (s : State) (r : MgmtReq) : exec (.epset r) s = execEpset r s := rfl

theorem exec_eq_msave (s : State) (r : MgmtReq) : exec (.msave r) s = execMsave r s := rfl

theorem exec_eq_mresume (s : State) (r : MgmtReq) : exec (.mresume r) s = execMresume r s := rfl

section
variable {s : State} {r : MgmtReq} {op : BitVec 16} {ok : Bool} {f : State → Res}

theorem onConn_closed (h : s.peerOf r.conn = none) (f : State → Res) : s.onConn r f = .next s := by
  rw [State.onConn, h]
  rfl

theorem onConn_open (h : (s.peerOf r.conn).isSome) (f : State → Res) : s.onConn r f = f s := if_pos h

theorem serveAny_starting (h : (s.peerOf r.conn).isSome) (hs : s.mgmt.starting.isSome) : s.serveAny op r ok f = .next (s.reply op r 5 []) := by
  rw [State.serveAny, onConn_open h, if_pos hs]

theorem serveAny_idle (h : (s.peerOf r.conn).isSome) (hs : s.mgmt.starting = none) :
    s.serveAny op r ok f = if ok then f s else .next (s.reply op r 2 []) := by
  rw [State.serveAny, onConn_open h, hs, if_neg (by decide)]
  cases ok <;> rfl

theorem serveListed_starting (h : (s.peerOf r.conn).isSome) (hs : s.mgmt.starting.isSome) : s.serveListed op r ok f = .next (s.reply op r 5 []) := by
  rw [State.serveListed, onConn_open h, if_pos hs]

theorem serveListed_denied (h : (s.peerOf r.conn).isSome) (hs : s.mgmt.starting = none) (hl : s.listed r.conn = false) :
    s.serveListed op r ok f = .next (s.reply op r 3 []) := by
  rw [State.serveListed, onConn_open h, hs, if_neg (by decide), hl, if_pos (by decide)]

theorem serveListed_listed (h : (s.peerOf r.conn).isSome) (hs : s.mgmt.starting = none) (hl : s.listed r.conn = true) :
    s.serveListed op r ok f = if ok then f s else .next (s.reply op r 2 []) := by
  rw [State.serveListed, onConn_open h, hs, if_neg (by decide), hl, if_neg (by decide)]
  cases ok <;> rfl

theorem listed_iff : s.listed r.conn = true ↔ s.mgmt.accepted = true ∧ ∃ a, s.peerOf r.conn = some a ∧ a ≠ 0 ∧ a ∈ s.cfg.hosts := by
  simp only [State.listed, Bool.and_eq_true, Option.any_eq_true, bne_iff_ne, List.contains_eq_mem, decide_eq_true_eq]

/-- The requests of Table 24.5 that a start in progress refuses, with their OP. -/
noncomputable def requests (r : MgmtReq) : List (Nat × Instr) :=
  [(2, .quote r), (3, .flashwr r), (4, .flashseal r), (5, .start r), (6, .read r), (7, .connset r), (8, .epset r), (9, .msave r), (10, .mresume r)]

theorem served_status (s : State) (r : MgmtReq) : ∃ f, exec (.status r) s = s.onConn r f := ⟨_, (exec_eq_status s r)⟩

/-- Requests that are served for any peer, and for listed ones. -/
theorem served_requests (s : State) (r : MgmtReq) : ∀ e ∈ requests r,
    (e.1 < 5 ∧ ∃ ok f, exec e.2 s = s.serveAny (BitVec.ofNat 16 e.1) r ok f) ∨ (∃ ok f, exec e.2 s = s.serveListed (BitVec.ofNat 16 e.1) r ok f) := by
  simp only [requests, List.forall_mem_cons, List.not_mem_nil, false_imp_iff, implies_true, and_true]
  exact ⟨.inl ⟨by decide, _, _, (exec_eq_quote s r)⟩, .inl ⟨by decide, _, _, (exec_eq_flashwr s r)⟩,
    .inl ⟨by decide, _, _, (exec_eq_flashseal s r)⟩, .inr ⟨_, _, (exec_eq_start s r)⟩,
    .inr ⟨_, _, (exec_eq_read s r)⟩, .inr ⟨_, _, (exec_eq_connset s r)⟩,
    .inr ⟨_, _, (exec_eq_epset s r)⟩, .inr ⟨_, _, (exec_eq_msave s r)⟩,
    .inr ⟨_, _, (exec_eq_mresume s r)⟩⟩

theorem exec_unconnected (h : s.peerOf r.conn = none) : ∀ e ∈ (1, Instr.status r) :: requests r, exec e.2 s = .next s := by
  refine List.forall_mem_cons.2 ⟨?_, fun e he => ?_⟩
  · obtain ⟨f, hf⟩ := served_status s r
    exact hf.trans (onConn_closed h f)
  · rcases served_requests s r e he with ⟨-, ok, f, hf⟩ | ⟨ok, f, hf⟩
    · exact hf.trans (onConn_closed h _)
    · exact hf.trans (onConn_closed h _)

theorem exec_busy (h : (s.peerOf r.conn).isSome) (hs : s.mgmt.starting.isSome) :
    ∀ e ∈ requests r, exec e.2 s = .next (s.reply (BitVec.ofNat 16 e.1) r 5 []) := by
  intro e he
  rcases served_requests s r e he with ⟨-, ok, f, hf⟩ | ⟨ok, f, hf⟩
  · exact hf.trans (serveAny_starting h hs)
  · exact hf.trans (serveListed_starting h hs)

theorem exec_denied (h : (s.peerOf r.conn).isSome) (hs : s.mgmt.starting = none) (hl : s.listed r.conn = false) :
    ∀ e ∈ requests r, 5 ≤ e.1 → exec e.2 s = .next (s.reply (BitVec.ofNat 16 e.1) r 3 []) := by
  intro e he h5
  rcases served_requests s r e he with ⟨hlt, -⟩ | ⟨ok, f, hf⟩
  · omega
  · exact hf.trans (serveListed_denied h hs hl)

theorem shape_true {n : Nat} {z : Bool} (h : r.payload.length = n) (hz : z = true) : MgmtReq.shape r n z = true := by
  rw [MgmtReq.shape, decide_eq_true h, hz]
  rfl

theorem shape_false {n : Nat} {z : Bool} (h : r.payload.length ≠ n ∨ z = false) : MgmtReq.shape r n z = false := by
  rw [MgmtReq.shape]
  rcases h with h | h
  · rw [decide_eq_false h, Bool.false_and]
  · rw [h, Bool.and_false]

/-! ## Requests of any peer (R506, R508-R510) -/

/-- Bytes that are written into a list stand there. -/
theorem overwrite_read (bs data : List Byte) {off : Nat} (h : off ≤ bs.length) : ((overwrite bs off data).drop off).take data.length = data := by
  have hl : (bs.take off).length = off := by
    rw [List.length_take]
    omega
  rw [overwrite, List.append_assoc, List.drop_append, hl, Nat.sub_self, List.drop_zero, List.drop_of_length_le hl.le, List.nil_append,
    List.take_append_of_le_length le_rfl, List.take_length]

theorem exec_status (h : (s.peerOf r.conn).isSome) :
    exec (.status r) s = .next (if r.payload = [] then s.reply 1 r 0 s.statusBytes else s.reply 1 r 2 []) := by
  change execStatus r s = _
  refine (onConn_open h _).trans ?_
  by_cases hp : r.payload = []
  · rw [shape_true (by rw [hp]; rfl) rfl, if_pos rfl, if_pos hp]
  · rw [shape_false (.inl fun hl => hp (List.length_eq_zero_iff.1 hl)), if_neg Bool.false_ne_true, if_neg hp]

section
variable (h : (s.peerOf r.conn).isSome) (hs : s.mgmt.starting = none)
include h hs

theorem exec_quote_bad (hp : r.payload.length ≠ 32) : exec (.quote r) s = .next (s.reply 2 r 2 []) :=
  (exec_eq_quote s r).trans <| (serveAny_idle h hs).trans (if_neg (by rw [shape_false (.inl hp)]; decide))

theorem exec_quote (hp : r.payload.length = 32) :
    exec (.quote r) s = .next (s.reply 2 r 0 (s.quoteHead r.payload ++ exactly 29792 (Config.slhSign (s.quoteHead r.payload)))) :=
  (exec_eq_quote s r).trans <| (serveAny_idle h hs).trans (if_pos (shape_true hp rfl))

theorem exec_flashwr_bad (hp : r.payload.length < 8 ∨ 65536 < r.payload.length ∨ 2 < fld r.payload 0 4) :
    exec (.flashwr r) s = .next (s.reply 3 r 2 []) := by
  refine (exec_eq_flashwr s r).trans ((serveAny_idle h hs).trans (if_neg ?_))
  simp only [MgmtReq.flash, Bool.and_eq_true, decide_eq_true_eq]
  omega

theorem exec_flashwr (h8 : 8 ≤ r.payload.length) (hn : r.payload.length ≤ 65536) (hk : fld r.payload 0 4 ≤ 2) :
    ∃ bs, exec (.flashwr r) s = .next ((s.modMgmt fun m => { m with staged := Map.put m.staged (fld r.payload 0 1) bs }).reply 3 r 0 []) ∧
      (bs.drop (fld r.payload 4 4)).take (r.payload.length - 8) = r.payload.drop 8 := by
  have hok : (decide (8 ≤ r.payload.length ∧ r.payload.length ≤ 65536) && (MgmtReq.flash r).2.2) = true := by
    simp only [MgmtReq.flash, Bool.and_eq_true, decide_eq_true_eq]
    omega
  refine ⟨_, (exec_eq_flashwr s r).trans ((serveAny_idle h hs).trans (if_pos hok)), ?_⟩
  rw [← List.length_drop]
  refine overwrite_read _ _ ?_
  simp only [stagedTo, List.length_append, List.length_map, span_length, MgmtReq.flash]
  omega

theorem exec_flashseal (h8 : r.payload.length = 8) (hk : fld r.payload 0 4 ≤ 2) : exec (.flashseal r) s =
    match Map.find? s.mgmt.staged (fld r.payload 0 1) with
    | none => .next (s.reply 4 r 2 [])
    | some bs =>
      if s.mgmt.sealOk (fld r.payload 0 1) ((stagedTo (fld r.payload 0 1) (fld r.payload 4 4) bs).take (fld r.payload 4 4)) then
        .next ((s.modMgmt fun m => { m with
          flash := Map.put m.flash (fld r.payload 0 1) ((stagedTo (fld r.payload 0 1) (fld r.payload 4 4) bs).take (fld r.payload 4 4)) }).reply 4 r 0 [])
      else .next (s.reply 4 r 2 []) := by
  refine (exec_eq_flashseal s r).trans <| (serveAny_idle h hs).trans ((if_pos (shape_true h8 (decide_eq_true hk))).trans ?_)
  rfl

theorem exec_flashseal_none (h8 : r.payload.length = 8) (hk : fld r.payload 0 4 ≤ 2) (hf : Map.find? s.mgmt.staged (fld r.payload 0 1) = none) :
    exec (.flashseal r) s = .next (s.reply 4 r 2 []) := by
  rw [exec_flashseal h hs h8 hk, hf]

theorem exec_flashseal_some (h8 : r.payload.length = 8) (hk : fld r.payload 0 4 ≤ 2) {bs : List Byte}
    (hf : Map.find? s.mgmt.staged (fld r.payload 0 1) = some bs) (hl : fld r.payload 4 4 ≤ bs.length) :
    exec (.flashseal r) s = .next (if s.mgmt.sealOk (fld r.payload 0 1) (bs.take (fld r.payload 4 4)) then
      (s.modMgmt fun m => { m with flash := Map.put m.flash (fld r.payload 0 1) (bs.take (fld r.payload 4 4)) }).reply 4 r 0 []
      else s.reply 4 r 2 []) := by
  have ht : (stagedTo (fld r.payload 0 1) (fld r.payload 4 4) bs).take (fld r.payload 4 4) = bs.take (fld r.payload 4 4) :=
    List.take_append_of_le_length hl
  rw [exec_flashseal h hs h8 hk, hf]
  simp only [ht]
  split <;> rfl

end

/-! ## Requests of a listed peer (R507, R510, R511) -/

theorem foldl_tcpEnd {α : Type} (l : List (Nat × α)) (s : State) :
    l.foldl (fun s c => s.send (.tcpEnd c.1)) s = { s with out := s.out ++ l.map fun c => .tcpEnd c.1 } := by
  induction l generalizing s with
  | nil => rw [List.foldl_nil, List.map_nil, List.append_nil]
  | cons c l ih => rw [List.foldl_cons, ih, State.send, List.append_assoc, List.map_cons, List.singleton_append]

theorem endConnection_none {n : Nat} (h : s.conn? n = none) : s.endConnection n = s := if_neg (by rw [h]; decide)

theorem endConnection_some {n : Nat} (h : (s.conn? n).isSome) : s.endConnection n =
    { s with lineJobs := s.lineJobs.filter (fun j => j.who != Sum.inl n), rrq := s.rrq.unpend n, flt := s.flt.unpend n } := if_pos h

theorem endConnection_conns (s : State) (n : Nat) : (s.endConnection n).conns = s.conns := by
  unfold State.endConnection
  split <;> rfl

theorem ne_of_bne {x : Nat ⊕ Nat} {n : Nat} (h : (x != Sum.inl n) = true) : x ≠ Sum.inl n := by
  rintro rfl
  have hn : (Sum.inl n == (Sum.inl n : Nat ⊕ Nat)) = (n == n) := rfl
  rw [bne, hn, beq_self_eq_true] at h
  exact nomatch h

/-- R510: the notice of a connection that ends is not due any more. -/
theorem due_unpend (x : Ring) {n : Nat} (h : x.nqp = n) (now : Nat) : (x.unpend n).due now = false := by
  rw [Ring.unpend, if_pos h, Ring.due, decide_eq_false (fun h => h rfl), Bool.false_and]

/-- A READ of device memory that ends within it is none that the space refuses. -/
theorem read_memory_ok {space a n : Nat} (h0 : space = 0) (hb : a + n ≤ 2 ^ 39) :
    ¬(s.spaceEnd space < a + n ∨ (space ≠ 0 ∧ (a % 8 ≠ 0 ∨ n % 8 ≠ 0))) := by
  subst h0
  have hend : s.spaceEnd 0 = 2 ^ 39 := rfl
  rintro (h | ⟨h, -⟩)
  · rw [hend] at h
    exact absurd hb (Nat.not_le.2 h)
  · exact h rfl

theorem withGang_alone {T : Team} (h : T.gang = none) (s : State) (t : Nat) : s.withGang t T = [t] := if_pos (by rw [h]; rfl)

section
variable (h : (s.peerOf r.conn).isSome) (hs : s.mgmt.starting = none) (hl : s.listed r.conn = true)
include h hs hl

theorem exec_start_bad (hp : r.payload.length ≠ 8 ∨ 2 ≤ fld r.payload 0 8) : exec (.start r) s = .next (s.reply 5 r 2 []) :=
  (exec_eq_start s r).trans <| (serveListed_listed h hs hl).trans (if_neg (by rw [shape_false (hp.imp_right fun h => decide_eq_false (by omega))]; decide))

theorem exec_read (hn : r.payload.length = 16) (hz : fld r.payload 1 3 = 0) (h1 : 1 ≤ fld r.payload 4 4) (h2 : fld r.payload 4 4 ≤ 65536) :
    exec (.read r) s =
      if s.spaceEnd (fld r.payload 0 1) < fld r.payload 8 8 + fld r.payload 4 4 ∨
          (fld r.payload 0 1 ≠ 0 ∧ (fld r.payload 8 8 % 8 ≠ 0 ∨ fld r.payload 4 4 % 8 ≠ 0)) then .next (s.reply 6 r 2 [])
      else if fld r.payload 0 1 = 0 then
        match s.readPhys (fld r.payload 8 8) (fld r.payload 4 4) with
        | (s1, some bs) => .next (s1.reply 6 r 0 bs)
        | (s1, none) => .next (s1.reply 6 r 4 [])
      else .next (s.reply 6 r 0 (s.spaceBytes (fld r.payload 0 1) (fld r.payload 8 8) (fld r.payload 4 4))) := by
  refine (exec_eq_read s r).trans <| (serveListed_listed h hs hl).trans ((if_pos (shape_true hn (decide_eq_true ⟨hz, h1, h2⟩))).trans ?_)
  rfl

/-- The machine after a START that is served (R510). -/
def startBegun (s : State) (r : MgmtReq) : State :=
  { s.answerAll.reply 5 r 0 [] with
    out := (s.answerAll.reply 5 r 0 []).out ++ s.mgmt.conns.map fun c => .tcpEnd c.1
    mgmt := { (s.answerAll.reply 5 r 0 []).mgmt with conns := [], starting := some (fld r.payload 0 8 == 1) } }

omit h hs hl in
theorem startBegun_spec (s : State) (r : MgmtReq) : (startBegun s r).mgmt.starting = some (fld r.payload 0 8 == 1) ∧ (startBegun s r).mgmt.conns = [] ∧
    (startBegun s r).portsOpen = false ∧ (startBegun s r).teams = s.teams ∧ ∀ c ∈ s.mgmt.conns, Out.tcpEnd c.1 ∈ (startBegun s r).out := by
  refine ⟨by rw [startBegun], by rw [startBegun], ?_, by rw [startBegun]; rfl, fun c hc => ?_⟩
  · rw [State.portsOpen, startBegun, Option.isNone_some, Bool.and_false, Bool.false_and]
  · rw [startBegun]
    exact List.mem_append_right _ (List.mem_map_of_mem hc)

theorem exec_start (hp : r.payload.length = 8) (hn : fld r.payload 0 8 < 2) : exec (.start r) s = .next (startBegun s r) := by
  refine (exec_eq_start s r).trans <| (serveListed_listed h hs hl).trans ((if_pos (shape_true hp (decide_eq_true hn))).trans ?_)
  dsimp only
  rw [foldl_tcpEnd]
  rfl

theorem exec_connset (hp : r.payload.length = 72) (h1 : 1 ≤ fld r.payload 0 8) (h2 : fld r.payload 0 8 ≤ 65535) : exec (.connset r) s =
    .next ({ s.endConnection (fld r.payload 0 8) with conns := Map.put s.conns (fld r.payload 0 8) (connOf (r.payload.drop 8)) }.reply 7 r 0 []) := by
  refine (exec_eq_connset s r).trans <| (serveListed_listed h hs hl).trans ((if_pos (shape_true hp (decide_eq_true ⟨h1, h2⟩))).trans ?_)
  simp only [endConnection_conns]

theorem exec_connset_bad (hp : r.payload.length ≠ 72 ∨ fld r.payload 0 8 = 0 ∨ 65535 < fld r.payload 0 8) :
    exec (.connset r) s = .next (s.reply 7 r 2 []) :=
  (exec_eq_connset s r).trans <| (serveListed_listed h hs hl).trans
    (if_neg (by rw [shape_false (hp.imp_right fun h => decide_eq_false (by omega))]; decide))

theorem exec_epset (hp : r.payload.length = 40) (hn : fld r.payload 0 8 ≤ 4095) : exec (.epset r) s =
    .next ({ s with endps := Map.put s.endps (fld r.payload 0 8) (endpOf (r.payload.drop 8)) }.reply 8 r 0 []) :=
  (exec_eq_epset s r).trans <| (serveListed_listed h hs hl).trans (if_pos (shape_true hp (decide_eq_true hn)))

section
variable (hp : r.payload.length = 16) (hk : MgmtReq.teamOk r = true)
include hp hk

theorem exec_msave_none (ht : s.mgmtTeam r = none) : exec (.msave r) s = .next (s.reply 9 r 4 []) := by
  refine (exec_eq_msave s r).trans <| (serveListed_listed h hs hl).trans ((if_pos (shape_true hp hk)).trans ?_)
  rw [ht]

theorem exec_mresume_none (ht : s.mgmtTeam r = none) : exec (.mresume r) s = .next (s.reply 10 r 4 []) := by
  refine (exec_eq_mresume s r).trans <| (serveListed_listed h hs hl).trans ((if_pos (shape_true hp hk)).trans ?_)
  rw [ht]

section
variable {t : Nat} {T : Team} (ht : s.mgmtTeam r = some (t, T)) (hg : T.gang = none)
include ht hg

theorem exec_msave_saved (hc : T.core? = none) : exec (.msave r) s = .next ((s.modTeam t fun U => { U with mheld := true }).modMgmt fun m =>
    { m with answers := m.answers ++ [⟨r.conn, r.tag, 9, [], none, none, 0, []⟩] }).flushMgmt := by
  refine (exec_eq_msave s r).trans <| (serveListed_listed h hs hl).trans ((if_pos (shape_true hp hk)).trans ?_)
  rw [ht]
  simp only [withGang_alone hg, hc, hg, List.foldl_cons, List.foldl_nil, Option.isSome_none, Bool.false_eq_true, if_false]

theorem exec_msave_resident (hc : T.core?.isSome) : exec (.msave r) s =
    .next ((((s.modTeam t fun U => { U with mheld := true }).startSaves t).modMgmt fun m =>
      { m with answers := m.answers ++ [⟨r.conn, r.tag, 9, [t], none, none, 0, []⟩] }).flushMgmt) := by
  refine (exec_eq_msave s r).trans <| (serveListed_listed h hs hl).trans ((if_pos (shape_true hp hk)).trans ?_)
  rw [ht]
  simp only [withGang_alone hg, hc, hg, List.foldl_cons, List.foldl_nil, Option.isSome_none, Bool.false_eq_true, if_false, if_true]

omit hg in
theorem exec_mresume_free (hm : T.mheld = false) : exec (.mresume r) s = .next (s.reply 10 r 4 []) := by
  refine (exec_eq_mresume s r).trans <| (serveListed_listed h hs hl).trans ((if_pos (shape_true hp hk)).trans ?_)
  rw [ht]
  simp only [hm, Bool.not_false, if_true]

theorem exec_mresume_held (hm : T.mheld = true) : exec (.mresume r) s =
    .next (((s.modTeam t fun U => { U with mheld := false }).freed none).reply 10 r 0 []) := by
  refine (exec_eq_mresume s r).trans <| (serveListed_listed h hs hl).trans ((if_pos (shape_true hp hk)).trans ?_)
  rw [ht]
  simp only [withGang_alone hg, hm, List.foldl_cons, List.foldl_nil, Bool.not_true, Bool.false_eq_true, if_false]

end
end
end

/-! ## The order of responses (R508) -/

/-- The response of a request that is answered at once. -/
def atOnce (op st : BitVec 16) (r : MgmtReq) (bs : List Byte) : MgmtAns := ⟨r.conn, r.tag, op, [], none, none, st, bs⟩

theorem reply_eq (s : State) (op st : BitVec 16) (r : MgmtReq) (bs : List Byte) : s.reply op r st bs =
    { s with out := s.out ++ (sendDue s.gangSaved (s.mgmt.answers ++ [atOnce op st r bs]) []).1
             mgmt := { s.mgmt with answers := (sendDue s.gangSaved (s.mgmt.answers ++ [atOnce op st r bs]) []).2 } } := rfl

theorem answers_empty {m : Mgmt} (h : m.answers = []) : { m with answers := [] } = m := by rw [← h]

/-- A response that is not due holds back the later ones of its connection and no other. -/
theorem sendDue_behind {a b : MgmtAns} {saved : Word → Bool} (ha : a.due saved = false) (hb : b.due saved = true) :
    (sendDue saved [a, b] []).1 = if a.conn = b.conn then [] else [.mgmt b.conn b.frame] := by
  by_cases h : a.conn = b.conn
  · simp [sendDue, ha, h]
  · simp [sendDue, ha, hb, h, Ne.symm h]

/-! ## Connections (R508) -/

theorem find?_erase_ne {α : Type} (m : Map α) {k j : Nat} (h : j ≠ k) : Map.find? (Map.erase m k) j = Map.find? m j := by
  induction m with
  | nil => rfl
  | cons e m ih =>
    rw [Map.erase] at ih ⊢
    by_cases he : e.1 = k
    · rw [List.filter_cons_of_neg (by simpa using he), ih, Map.find?, if_neg (by rw [he]; exact h.symm)]
    · rw [List.filter_cons_of_pos (by simpa using he), Map.find?, Map.find?, ih]

theorem exec_eq_tcp (e : TcpEvent) (s : State) : exec (.tcpConnection e) s = execTcpConnection e s := rfl

theorem openConn_full (s : State) (peer : BitVec 128) (h : ∀ n, n < 4 → (s.peerOf n).isSome) : s.openConn peer = s.send (.tcp none) := by
  have hn : (span 0 4).find? (fun n => (s.peerOf n).isNone) = none := List.find?_eq_none.2 fun n hn => by
    have := h n (by simpa using hn)
    simpa [← Option.isSome_iff_ne_none] using this
  rw [State.openConn, hn]

theorem openConn_free (s : State) (peer : BitVec 128) {m : Nat} (hm : m < 4) (h : s.peerOf m = none) : ∃ n, n < 4 ∧ s.peerOf n = none ∧
    s.openConn peer = (s.modMgmt fun m => { m with conns := Map.put m.conns n peer }).send (.tcp (some n)) := by
  cases hf : (span 0 4).find? fun n => (s.peerOf n).isNone with
  | none =>
    have := List.find?_eq_none.1 hf m (mem_span.2 ⟨Nat.zero_le _, by omega⟩)
    rw [h] at this
    exact absurd rfl this
  | some n =>
    have hn := mem_span.1 (List.mem_of_find?_eq_some hf)
    exact ⟨n, by omega, Option.isNone_iff_eq_none.1 (List.find?_some (p := fun n => (s.peerOf n).isNone) hf), by rw [State.openConn, hf]⟩

theorem exec_frame {conn : Nat} {op : BitVec 16} {tag : Word} {bs : List Byte} (h : (s.peerOf conn).isSome) :
    exec (.tcpConnection (.frame conn 0x4D51 op tag bs)) s = s.serveFrame op ⟨conn, tag, bs⟩ := by
  simp only [exec_eq_tcp, execTcpConnection, ne_eq, not_true_eq_false, if_false]
  exact if_neg (by rw [← Option.not_isSome, h]; decide)

end

theorem exec_bad_op {conn : Nat} {op : BitVec 16} {tag : Word} {bs : List Byte} (h : (s.peerOf conn).isSome) (ho : op = 0 ∨ 10 < op.toNat) :
    exec (.tcpConnection (.frame conn 0x4D51 op tag bs)) s = .next (s.reply op ⟨conn, tag, bs⟩ (if s.mgmt.starting.isSome then 5 else 1) []) := by
  have hbad : s.serveFrame op ⟨conn, tag, bs⟩ = s.badOp op ⟨conn, tag, bs⟩ := by
    have hn : op.toNat = 0 ∨ 10 < op.toNat := ho.imp_left fun h => by rw [h]; rfl
    unfold State.serveFrame
    split
    case h_11 => rfl
    all_goals omega
  rw [exec_frame h, hbad]
  exact onConn_open h _

theorem serveFrame_requests (s : State) (r : MgmtReq) : ∀ e ∈ (1, Instr.status r) :: requests r, s.serveFrame (BitVec.ofNat 16 e.1) r = exec e.2 s := by
  simp only [requests, List.forall_mem_cons, List.not_mem_nil, false_imp_iff, implies_true, and_true]
  exact ⟨rfl, rfl, rfl, rfl, rfl, rfl, rfl, rfl, rfl, rfl⟩

/-- Settles O53: a start by what it makes of each bank set, each request by its equation, the responses by what is due, the rails by the limits that are
judged again. -/
theorem managementEvents : Obligations.ManagementEvents := by
  refine ⟨fun s c w n => ?_, fun s r => ?_, fun s r op st bs => ?_, fun s peer conn magic op tag bs => ?_, power_and_heat⟩
  · refine ⟨fun hv hc => congrArg Host.Outcome.next (perform_good hv hc), ⟨List.filter_false _, rfl, rfl⟩, bank_cold, fun ch => trained_warm s c,
      fun h => ⟨_, rfl, perform_bad false h⟩, ⟨rfl, rfl, rfl, rfl, rfl, rfl, rfl, rfl, rfl, rfl, rfl, rfl, rfl, rfl, rfl, rfl, ?_, rails_restarted s w c, ?_, ?_⟩,
      fun hn k => ?_, fun a => mem_warm, fun hs hj => elapse_mgmt hs hj n, fun hs hv hc => elapse_start hs hv hc n⟩
    · cases w <;> rfl
    · cases w <;> rfl
    · cases w <;> rfl
    · obtain ⟨hkept, hlost, hended, hrest⟩ := restarted_warmOf (c := c) hn k
      exact ⟨hkept, hlost, hended, hrest⟩
  · dsimp only
    refine ⟨listed_iff, exec_unconnected, fun h => ⟨exec_status h, fun e he => ⟨fun hs => exec_busy h hs e he, fun hs hl => exec_denied h hs hl e he⟩,
      fun hs => ⟨exec_quote_bad h hs, exec_quote h hs, exec_flashwr_bad h hs, exec_flashwr h hs,
        fun h8 hk => ⟨exec_flashseal_none h hs h8 hk, fun bs => exec_flashseal_some h hs h8 hk⟩⟩, fun ⟨hs, hl⟩ => ?_⟩⟩
    refine ⟨fun hp hn => ⟨_, exec_start h hs hl hp hn, startBegun_spec s r⟩,
      exec_start_bad h hs hl, fun hp hz h1 h2 => ⟨fun hb => ?_, fun h0 hb => ⟨fun s1 bs hr => ?_, fun s1 hr => ?_⟩, fun h0 hb ha hn => ?_⟩,
      fun hp h1 h2 => ⟨exec_connset h hs hl hp h1 h2, endConnection_none, fun hc => ?_⟩, exec_connset_bad h hs hl, exec_epset h hs hl,
      fun hp hk => ⟨fun ht => ⟨exec_msave_none h hs hl hp hk ht, exec_mresume_none h hs hl hp hk ht⟩, fun t T ht hT hg =>
        ⟨fun hc => ⟨_, _, exec_msave_saved h hs hl hp hk ht hg hc, ?_, rfl⟩, fun hc => ⟨_, exec_msave_resident h hs hl hp hk ht hg hc, rfl⟩,
          exec_mresume_free h hs hl hp hk ht, exec_mresume_held h hs hl hp hk ht hg⟩⟩⟩
    · rw [exec_read h hs hl hp hz h1 h2, if_pos (.inl hb)]
    · rw [exec_read h hs hl hp hz h1 h2, if_neg (read_memory_ok h0 hb), if_pos h0, hr]
    · rw [exec_read h hs hl hp hz h1 h2, if_neg (read_memory_ok h0 hb), if_pos h0, hr]
    · rw [exec_read h hs hl hp hz h1 h2, if_neg (by omega), if_neg h0]
    · rw [endConnection_some hc]
      refine ⟨fun j hj => ?_, fun hq => due_unpend _ hq _, fun hq => due_unpend _ hq _⟩
      exact ne_of_bne (List.mem_filter.1 hj).2
    · exact (team?_modTeam ..).trans (congrArg (Option.map _) hT)
  · have hdue : (atOnce op st r bs).due s.gangSaved = true := rfl
    refine ⟨fun h => ?_, fun a h hc ha => ?_, fun a h hc ha => ?_⟩
    · rw [reply_eq, h]
      exact ⟨rfl, answers_empty h⟩
    · rw [reply_eq, h]
      exact (congrArg (s.out ++ ·) ((sendDue_behind ha hdue).trans (if_pos hc))).trans (List.append_nil _)
    · rw [reply_eq, h]
      exact congrArg (s.out ++ ·) ((sendDue_behind ha hdue).trans (if_neg hc))
  · refine ⟨fun h => congrArg Host.Outcome.next (openConn_full s peer h), fun m hm h => ?_, ?_, fun h => ?_, fun h => ⟨fun hm => ?_, fun e he ho => ?_,
      exec_bad_op h⟩⟩
    · obtain ⟨n, hn, hfree, ho⟩ := openConn_free s peer hm h
      exact ⟨n, _, hn, hfree, congrArg Host.Outcome.next ho, Map.find?_put_self .., fun j hj => Map.find?_put_ne _ _ hj, rfl⟩
    · exact ⟨_, exec_eq_tcp .., find?_erase_self .., rfl, fun a ha => by simpa using (List.mem_filter.1 ha).2, fun j hj => find?_erase_ne _ hj⟩
    · simp only [exec_eq_tcp, execTcpConnection, h, Option.isNone_none, if_true]
    · have hn : ¬(s.peerOf conn).isNone = true := by
        rw [← Option.not_isSome, h]
        decide
      exact ⟨_, (exec_eq_tcp ..).trans ((if_neg hn).trans (if_pos hm)), find?_erase_self .., rfl⟩
    · rw [ho, exec_frame h]
      exact serveFrame_requests s _ e he

end Sys2Proof.Laws.ManagementPort
end


section
/-! The exact numbers behind the formats (R233-R242): rounding to an integer, sums of exact terms, comparisons. -/

namespace Sys2Proof.Laws.Numbers

open Sys2Proof Sys2Proof.Machine

/-! ## Rounding to a multiple of a power of two -/

/-- Whether a mode moves a number between `fl` and `fl + 1` up: to nearest, ties to even, or as the direction says. -/
def MovesUp (rn up : Bool) (fl : Nat) (v : Rat) : Prop := if rn then (fl : Rat) + 1 / 2 < v ∨ (v = fl + 1 / 2 ∧ fl % 2 = 1) else up = true

theorem two_zpow_pos (k : Int) : (0 : Rat) < (2 : Rat) ^ k := zpow_pos (by norm_num) k

theorem cast_shift (m : Nat) {e q : Int} (h : q ≤ e) : ((m * 2 ^ (e - q).toNat : Nat) : Rat) = m * (2 : Rat) ^ (e - q) := by
  rw [Nat.cast_mul, Nat.cast_pow, Nat.cast_ofNat, ← zpow_natCast, Int.toNat_of_nonneg (by omega)]

theorem shift_down (m : Nat) {e q : Int} {d : Nat} (hd : (d : Int) = q - e) : (m : Rat) * (2 : Rat) ^ (e - q) = m / 2 ^ d := by
  have : e - q = -(d : Int) := by omega
  rw [this, zpow_neg, zpow_natCast, div_eq_mul_inv]

/-- R240: an exact value is rounded to the integer that it is, or to one of the two around it. -/
theorem roundInt_cases {rn up : Bool} (hr : rn = true → up = false) (m : Nat) (e q : Int) :
    ((roundInt rn up m e q).2 = true ∧ ((roundInt rn up m e q).1 : Rat) = m * (2 : Rat) ^ (e - q)) ∨
    ∃ fl : Nat, (fl : Rat) < m * (2 : Rat) ^ (e - q) ∧ (m : Rat) * (2 : Rat) ^ (e - q) < fl + 1 ∧ (roundInt rn up m e q).2 = false ∧
      ((MovesUp rn up fl (m * (2 : Rat) ^ (e - q)) ∧ (roundInt rn up m e q).1 = fl + 1) ∨
        (¬MovesUp rn up fl (m * (2 : Rat) ^ (e - q)) ∧ (roundInt rn up m e q).1 = fl)) := by
  unfold roundInt
  by_cases hq : q ≤ e
  · rw [if_pos hq]
    exact .inl ⟨rfl, cast_shift m hq⟩
  rw [if_neg hq]
  by_cases hm : m = 0
  · rw [if_pos hm, hm]
    exact .inl ⟨rfl, by simp⟩
  rw [if_neg hm]
  obtain ⟨d, hd⟩ := Int.eq_ofNat_of_zero_le (show 0 ≤ q - e by omega)
  have hv := shift_down m hd.symm
  have hdn : (q - e).toNat = d := by omega
  have hd1 : 1 ≤ d := by omega
  have hpow : (0 : Rat) < 2 ^ d := by positivity
  have hmpos : (0 : Rat) < m := by exact_mod_cast Nat.pos_of_ne_zero hm
  dsimp only
  rw [hdn, hv]
  by_cases hlog : Nat.log2 m + 2 < d
  · have hlt : m * 4 < 2 ^ d := by
      calc m * 4 < 2 ^ (Nat.log2 m + 1) * 4 := by have := Nat.lt_log2_self (n := m); omega
        _ = 2 ^ (Nat.log2 m + 3) := by ring
        _ ≤ 2 ^ d := Nat.pow_le_pow_right (by decide) hlog
    have hlt' : (m : Rat) * 4 < 2 ^ d := by exact_mod_cast hlt
    have hq4 : (m : Rat) / 2 ^ d < 1 / 4 := by
      rw [div_lt_iff₀ hpow]
      linarith
    have hpos : (0 : Rat) < m / 2 ^ d := by positivity
    rw [if_pos hlog]
    refine .inr ⟨0, by simpa using hpos, by norm_num; linarith, rfl, ?_⟩
    cases up
    · refine .inr ⟨fun h => ?_, rfl⟩
      cases rn
      · exact nomatch h
      · rcases h with h | ⟨-, h⟩
        · rw [Nat.cast_zero] at h
          linarith
        · exact nomatch h
    · cases rn
      · exact .inl ⟨rfl, rfl⟩
      · exact nomatch hr rfl
  rw [if_neg hlog]
  have hsplit : (m : Rat) = (m / 2 ^ d : Nat) * 2 ^ d + (m % 2 ^ d : Nat) := by
    have := Nat.div_add_mod m (2 ^ d)
    rw [mul_comm] at this
    exact_mod_cast this.symm
  have hval : (m : Rat) / 2 ^ d = (m / 2 ^ d : Nat) + (m % 2 ^ d : Nat) / 2 ^ d := by
    rw [div_eq_iff hpow.ne', add_mul, div_mul_cancel₀ _ hpow.ne', ← hsplit]
  by_cases hrem : m % 2 ^ d = 0
  · rw [if_pos hrem]
    exact .inl ⟨rfl, by rw [hval, hrem]; simp⟩
  rw [if_neg hrem]
  have hlt : ((m % 2 ^ d : Nat) : Rat) < 2 ^ d := by exact_mod_cast Nat.mod_lt m (by positivity)
  have hpos : (0 : Rat) < (m % 2 ^ d : Nat) := by exact_mod_cast Nat.pos_of_ne_zero hrem
  have hhalf : (2 : Rat) ^ d = 2 * 2 ^ (d - 1) := by
    rw [← pow_succ', Nat.sub_add_cancel hd1]
  have hmore : (m / 2 ^ d : Nat) + (1 : Rat) / 2 < m / 2 ^ d ↔ 2 ^ (d - 1) < m % 2 ^ d := by
    rw [hval, add_lt_add_iff_left, lt_div_iff₀ hpow, hhalf]
    have : (1 : Rat) / 2 * (2 * 2 ^ (d - 1)) = ((2 ^ (d - 1) : Nat) : Rat) := by push_cast; ring
    rw [this, Nat.cast_lt]
  have htie : (m : Rat) / 2 ^ d = (m / 2 ^ d : Nat) + 1 / 2 ↔ m % 2 ^ d = 2 ^ (d - 1) := by
    rw [hval, add_right_inj, div_eq_iff hpow.ne', hhalf]
    have : (1 : Rat) / 2 * (2 * 2 ^ (d - 1)) = ((2 ^ (d - 1) : Nat) : Rat) := by push_cast; ring
    rw [this, Nat.cast_inj]
  have hinc : (if rn then decide (2 ^ (d - 1) < m % 2 ^ d) || (decide (m % 2 ^ d = 2 ^ (d - 1)) && (m / 2 ^ d) % 2 == 1) else up) = true ↔
      MovesUp rn up (m / 2 ^ d) (m / 2 ^ d) := by
    cases rn
    · rfl
    · simp only [MovesUp, if_true, hmore, htie, Bool.or_eq_true, Bool.and_eq_true, decide_eq_true_eq, beq_iff_eq]
  refine .inr ⟨m / 2 ^ d, ?_, ?_, ?_⟩
  · rw [hval]
    exact lt_add_of_pos_right _ (by positivity)
  · rw [hval, add_lt_add_iff_left, div_lt_one hpow]
    exact hlt
  · by_cases hi : MovesUp rn up (m / 2 ^ d) (m / 2 ^ d)
    · rw [if_pos (hinc.2 hi)]
      exact ⟨rfl, .inl ⟨hi, rfl⟩⟩
    · rw [if_neg (mt hinc.1 hi)]
      exact ⟨rfl, .inr ⟨hi, rfl⟩⟩

/-- Refutes O8: 2^-10 in the nearest mode with `up` set rounds to 1, where the short way of `roundInt` for tiny values follows `up` alone. -/
theorem not_roundingIsNearestOrDirected : ¬ Obligations.RoundingIsNearestOrDirected := by
  rintro ⟨h, -⟩
  obtain ⟨hnear, -⟩ := h 1 0 10 true
  have hone : roundInt true true 1 0 10 = (1, false) := by decide
  rw [hone] at hnear
  norm_num [abs_le] at hnear

theorem roundsAway_rn (rm : RM) (n : Bool) : (rm == .rn) = true → roundsAway rm n = false := by
  cases rm <;> simp [roundsAway]

/-- The sign of a value, as a number. -/
def signOf (n : Bool) : Rat := if n then -1 else 1

theorem rat_fin (n : Bool) (m : Nat) (e : Int) : (FVal.fin n m e).rat = signOf n * (m * (2 : Rat) ^ e) := by
  rw [FVal.rat, signOf, mul_assoc]

theorem abs_rat_fin (n : Bool) (m : Nat) (e : Int) : |(FVal.fin n m e).rat| = m * (2 : Rat) ^ e := by
  have h : (0 : Rat) ≤ m * (2 : Rat) ^ e := mul_nonneg (Nat.cast_nonneg m) (two_zpow_pos e).le
  rw [rat_fin, abs_mul, abs_of_nonneg h]
  cases n <;> simp [signOf]

theorem rat_zero_iff (n : Bool) (m : Nat) (e : Int) : (FVal.fin n m e).rat = 0 ↔ m = 0 := by
  rw [← abs_eq_zero, abs_rat_fin, mul_eq_zero, Nat.cast_eq_zero, or_iff_left (two_zpow_pos e).ne']

theorem roundsTo_exact {rm : RM} {v : Rat} {z : Int} (h : (z : Rat) = v) : RoundsTo rm v z := by
  subst h
  cases rm <;> simp [RoundsTo]

/-- A number between two integers is rounded to the one that the mode chooses. -/
theorem roundsTo_between {rm : RM} {n : Bool} {v : Rat} {fl k : Nat} (hlo : (fl : Rat) < v) (hhi : v < fl + 1)
    (hk : (MovesUp (rm == .rn) (roundsAway rm n) fl v ∧ k = fl + 1) ∨ (¬MovesUp (rm == .rn) (roundsAway rm n) fl v ∧ k = fl)) :
    RoundsTo rm (signOf n * v) (if n then -(k : Int) else k) := by
  have hfl : (0 : Rat) ≤ fl := Nat.cast_nonneg fl
  cases rm with
  | rn =>
    have hz : ((if n then -(k : Int) else k : Int) : Rat) - signOf n * v = signOf n * (k - v) := by
      cases n <;> simp [signOf] <;> ring
    have hs : |signOf n| = 1 := by cases n <;> simp [signOf]
    rw [RoundsTo, hz, abs_mul, hs, one_mul]
    rcases hk with ⟨hm, rfl⟩ | ⟨hm, rfl⟩
    · have hup : (fl : Rat) + 1 / 2 < v ∨ (v = fl + 1 / 2 ∧ fl % 2 = 1) := hm
      have habs : |((fl + 1 : Nat) : Rat) - v| = fl + 1 - v := by
        push_cast
        exact abs_of_pos (by linarith)
      rw [habs]
      rcases hup with h | ⟨h, hodd⟩
      · exact ⟨by linarith, fun he => by linarith⟩
      · exact ⟨by linarith, fun _ => by split <;> omega⟩
    · have hup : ¬((k : Rat) + 1 / 2 < v ∨ (v = k + 1 / 2 ∧ k % 2 = 1)) := hm
      obtain ⟨h1, h2⟩ := not_or.1 hup
      have habs : |(k : Rat) - v| = v - k := by
        rw [abs_sub_comm]
        exact abs_of_pos (by linarith)
      rw [habs]
      refine ⟨by linarith, fun he => ?_⟩
      have hev : ¬k % 2 = 1 := fun h => h2 ⟨by linarith, h⟩
      split <;> omega
  | rz =>
    have hk' : k = fl := by rcases hk with ⟨h, -⟩ | ⟨-, h⟩ <;> [exact nomatch h; exact h]
    subst hk'
    cases n
    · simp only [RoundsTo, signOf, Bool.false_eq_true, if_false, one_mul, Int.cast_natCast, abs_of_nonneg hfl, abs_of_pos (hfl.trans_lt hlo)]
      exact ⟨hlo.le, by rw [abs_sub_comm, abs_of_pos (by linarith)]; linarith⟩
    · simp only [RoundsTo, signOf, if_true, neg_one_mul, Int.cast_neg, Int.cast_natCast, abs_neg, abs_of_nonneg hfl, abs_of_pos (hfl.trans_lt hlo)]
      exact ⟨hlo.le, by rw [abs_of_pos (by linarith)]; linarith⟩
  | ru =>
    cases n
    · have hk' : k = fl + 1 := by rcases hk with ⟨-, h⟩ | ⟨h, -⟩ <;> [exact h; exact absurd rfl h]
      subst hk'
      simp only [RoundsTo, signOf, Bool.false_eq_true, if_false, one_mul, Int.cast_natCast]
      push_cast
      exact ⟨hhi.le, by linarith⟩
    · have hk' : k = fl := by rcases hk with ⟨h, -⟩ | ⟨-, h⟩ <;> [exact nomatch h; exact h]
      subst hk'
      simp only [RoundsTo, signOf, if_true, neg_one_mul, Int.cast_neg, Int.cast_natCast]
      exact ⟨by linarith, by linarith⟩
  | rd =>
    cases n
    · have hk' : k = fl := by rcases hk with ⟨h, -⟩ | ⟨-, h⟩ <;> [exact nomatch h; exact h]
      subst hk'
      simp only [RoundsTo, signOf, Bool.false_eq_true, if_false, one_mul, Int.cast_natCast]
      exact ⟨hlo.le, hhi⟩
    · have hk' : k = fl + 1 := by rcases hk with ⟨-, h⟩ | ⟨h, -⟩ <;> [exact h; exact absurd rfl h]
      subst hk'
      simp only [RoundsTo, signOf, if_true, neg_one_mul, Int.cast_neg, Int.cast_natCast]
      push_cast
      exact ⟨by linarith, by linarith⟩

/-- R240, R242: the integer that a value is rounded to. -/
theorem toInt_rounds (rm : RM) (n : Bool) (m : Nat) (e : Int) :
    RoundsTo rm (FVal.fin n m e).rat (FVal.toInt rm n m e).1 ∧
      ((FVal.toInt rm n m e).2 = true ↔ ((FVal.toInt rm n m e).1 : Rat) = (FVal.fin n m e).rat) := by
  set r := roundInt (rm == .rn) (roundsAway rm n) m e 0 with hr
  have hz : (FVal.toInt rm n m e).1 = if n then -(r.1 : Int) else r.1 := rfl
  have hcast : (((FVal.toInt rm n m e).1 : Int) : Rat) = signOf n * r.1 := by
    rw [hz]
    cases n <;> simp [signOf]
  have h2 : (FVal.toInt rm n m e).2 = r.2 := rfl
  have hs : signOf n ≠ 0 := by cases n <;> simp [signOf]
  have hcases := roundInt_cases (roundsAway_rn rm n) m e 0
  rw [← hr, sub_zero] at hcases
  rw [h2, hcast, rat_fin, mul_right_inj' hs]
  set v : Rat := m * (2 : Rat) ^ e
  rcases hcases with ⟨hx, hv⟩ | ⟨fl, hlo, hhi, hx, hc⟩
  · exact ⟨roundsTo_exact (by rw [hcast, hv]), by simp [hx, hv]⟩
  · have hne : (r.1 : Rat) ≠ v := by
      rcases hc with ⟨-, h⟩ | ⟨-, h⟩ <;> rw [h]
      · push_cast
        exact hhi.ne'
      · exact hlo.ne
    refine ⟨?_, by simp [hx, hne]⟩
    rw [hz]
    exact roundsTo_between hlo hhi hc

/-! ## Exact sums -/

theorem scaled_rat (n : Bool) (m : Nat) {x e : Int} (h : e ≤ x) : (scaled n m x e : Rat) * (2 : Rat) ^ e = (FVal.fin n m x).rat := by
  have hm : ((m * 2 ^ (x - e).toNat : Nat) : Rat) * (2 : Rat) ^ e = m * (2 : Rat) ^ x := by
    rw [cast_shift m h, mul_assoc, ← zpow_add₀ (by norm_num), sub_add_cancel]
  rw [rat_fin, ← hm, scaled, signOf]
  cases n
  · rw [if_neg Bool.false_ne_true, if_neg Bool.false_ne_true, one_mul, Int.cast_natCast]
  · rw [if_pos rfl, if_pos rfl, Int.cast_neg, Int.cast_natCast, neg_one_mul, neg_mul]

theorem foldl_min_le (ts : List (Bool × Nat × Int)) (a : Int) :
    ts.foldl (fun a t => min a t.2.2) a ≤ a ∧ ∀ t ∈ ts, ts.foldl (fun a t => min a t.2.2) a ≤ t.2.2 := by
  induction ts generalizing a with
  | nil => exact ⟨le_rfl, fun _ h => nomatch h⟩
  | cons t ts ih =>
    obtain ⟨h1, h2⟩ := ih (min a t.2.2)
    exact ⟨h1.trans (min_le_left _ _), List.forall_mem_cons.2 ⟨h1.trans (min_le_right _ _), h2⟩⟩

theorem foldl_scaled (ts : List (Bool × Nat × Int)) {e : Int} (h : ∀ t ∈ ts, e ≤ t.2.2) (a : Int) :
    ((ts.foldl (fun a t => a + scaled t.1 t.2.1 t.2.2 e) a : Int) : Rat) * (2 : Rat) ^ e =
      a * (2 : Rat) ^ e + (ts.map fun t => (FVal.fin t.1 t.2.1 t.2.2).rat).sum := by
  induction ts generalizing a with
  | nil => simp
  | cons t ts ih =>
    obtain ⟨ht, hts⟩ := List.forall_mem_cons.1 h
    rw [List.foldl_cons, ih hts, Int.cast_add, add_mul, scaled_rat _ _ ht, List.map_cons, List.sum_cons, add_assoc]

/-- The integer and the exponent of an exact sum stand for the sum of its terms. -/
theorem exactSum_rat (ts : List (Bool × Nat × Int)) :
    ((exactSum ts).1 : Rat) * (2 : Rat) ^ (exactSum ts).2 = (ts.map fun t => (FVal.fin t.1 t.2.1 t.2.2).rat).sum := by
  have h := foldl_scaled ts (foldl_min_le ts 0).2 0
  rwa [Int.cast_zero, zero_mul, zero_add] at h

/-- The value that an integer times a power of two is. -/
theorem rat_of_int (z e : Int) : (FVal.fin (decide (z < 0)) z.natAbs e).rat = z * (2 : Rat) ^ e := by
  rw [rat_fin, ← mul_assoc]
  congr 1
  by_cases h : z < 0
  · rw [decide_eq_true h, signOf, if_pos rfl, Nat.cast_natAbs, abs_of_neg h]
    push_cast
    ring
  · rw [decide_eq_false h, signOf, if_neg Bool.false_ne_true, Nat.cast_natAbs, abs_of_nonneg (not_lt.1 h), one_mul]

theorem term_rat {v : FVal} (hn : v.isNan = false) (hi : v.isInf = false) : (FVal.fin v.term.1 v.term.2.1 v.term.2.2).rat = v.rat := by
  cases v with
  | nan s => exact nomatch hn
  | inf n => exact nomatch hi
  | fin n m e => rfl

theorem sum_terms {vs : List FVal} (h : ∀ v ∈ vs, v.isNan = false ∧ v.isInf = false) :
    ((exactSum (vs.map FVal.term)).1 : Rat) * (2 : Rat) ^ (exactSum (vs.map FVal.term)).2 = (vs.map FVal.rat).sum := by
  rw [exactSum_rat, List.map_map]
  exact congrArg List.sum (List.map_congr_left fun v hv => term_rat (h v hv).1 (h v hv).2)

/-! ## Comparisons -/

theorem flip_rat (v : FVal) : v.flip.rat = -v.rat := by
  cases v with
  | nan s => exact neg_zero.symm
  | inf n => exact neg_zero.symm
  | fin n m e =>
    rw [FVal.flip, rat_fin, rat_fin, ← neg_mul]
    congr 1
    cases n <;> simp [signOf]

theorem cmp_fin (n n' : Bool) (m m' : Nat) (e e' : Int) :
    ((FVal.fin n m e).cmp (.fin n' m' e') < 0 ↔ (FVal.fin n m e).rat < (FVal.fin n' m' e').rat) ∧
      (0 < (FVal.fin n m e).cmp (.fin n' m' e') ↔ (FVal.fin n' m' e').rat < (FVal.fin n m e).rat) := by
  set d := exactSum [(FVal.fin n m e).term, (FVal.fin n' m' e').flip.term]
  have hd : (d.1 : Rat) * (2 : Rat) ^ d.2 = (FVal.fin n m e).rat - (FVal.fin n' m' e').rat := by
    rw [exactSum_rat, sub_eq_add_neg, ← flip_rat]
    simp [FVal.term, FVal.flip]
  have hcmp : (FVal.fin n m e).cmp (.fin n' m' e') = if d.1 < 0 then -1 else if d.1 = 0 then 0 else 1 := rfl
  have hneg : d.1 < 0 ↔ (FVal.fin n m e).rat < (FVal.fin n' m' e').rat := by
    rw [← Int.cast_lt_zero (R := Rat), ← mul_lt_mul_iff_of_pos_right (two_zpow_pos d.2), zero_mul, hd, sub_neg]
  have hpos : 0 < d.1 ↔ (FVal.fin n' m' e').rat < (FVal.fin n m e).rat := by
    rw [← Int.cast_pos (R := Rat), ← mul_lt_mul_iff_of_pos_right (two_zpow_pos d.2), zero_mul, hd, sub_pos]
  rw [hcmp, ← hneg, ← hpos]
  constructor <;> split_ifs <;> omega

/-- The comparison of values that are no NaN is the order of the numbers that they stand for. -/
theorem cmp_iff {v w : FVal} (hv : v.isNan = false) (hw : w.isNan = false) : (v.cmp w < 0 ↔ v.lt w) ∧ (0 < v.cmp w ↔ w.lt v) := by
  cases v with
  | nan s => exact nomatch hv
  | inf n =>
    cases w with
    | nan s => exact nomatch hw
    | inf n' => cases n <;> cases n' <;> simp [FVal.cmp, FVal.lt]
    | fin n' m' e' => cases n <;> simp [FVal.cmp, FVal.lt]
  | fin n m e =>
    cases w with
    | nan s => exact nomatch hw
    | inf n' => cases n' <;> simp [FVal.cmp, FVal.lt]
    | fin n' m' e' => exact cmp_fin n n' m m' e e'

theorem cmp_zero_iff {v w : FVal} (hv : v.isNan = false) (hw : w.isNan = false) : v.cmp w = 0 ↔ ¬v.lt w ∧ ¬w.lt v := by
  obtain ⟨h1, h2⟩ := cmp_iff hv hw
  rw [← h1, ← h2]
  omega

end Sys2Proof.Laws.Numbers
end


section
/-! Sums of values, rounded once (R241, R278), and what a result register takes from the contributions of a step (R427, R428, Table 18.4). -/

namespace Sys2Proof.Laws.Sums

open Sys2Proof Sys2Proof.Machine Sys2Proof.Laws.Numbers

/-! ## Sums of values -/

section
variable {t : Fmt} {rm : RM} {vs : List FVal}

theorem sum_nan (h : ∃ v ∈ vs, v.isNan = true) : t.sum rm vs = (t.nan, FlagSet.when (vs.any FVal.signalling) FlagSet.inv) :=
  if_pos (List.any_eq_true.2 h)

theorem any_isNan_false (h : ∀ v ∈ vs, v.isNan = false) : vs.any FVal.isNan = false :=
  List.any_eq_false.2 fun v hv => by rw [h v hv]; exact Bool.false_ne_true

theorem isInf_iff {v : FVal} {n : Bool} : (v.isInf = true ∧ v.neg = n) ↔ v = .inf n := by
  cases v <;> simp [FVal.isInf, FVal.neg]

/-- There are infinities of both signs among some values. -/
theorem bothInf_iff : (vs.any (fun v => v.isInf && v.neg) && vs.any (fun v => v.isInf && !v.neg)) = true ↔ .inf true ∈ vs ∧ .inf false ∈ vs := by
  have hone : ∀ n, (∃ v ∈ vs, v.isInf = true ∧ v.neg = n) ↔ .inf n ∈ vs := fun n => by simp only [isInf_iff, exists_eq_right]
  simp only [Bool.and_eq_true, List.any_eq_true, Bool.not_eq_true', hone]

theorem sum_infs (h : ∀ v ∈ vs, v.isNan = false) (h1 : .inf true ∈ vs) (h0 : .inf false ∈ vs) : t.sum rm vs = (t.nan, FlagSet.inv) := by
  rw [Fmt.sum, any_isNan_false h, if_neg Bool.false_ne_true, if_pos (bothInf_iff.2 ⟨h1, h0⟩)]

theorem not_bothInf {n : Bool} (h : .inf n ∉ vs) :
    ¬(vs.any (fun v => v.isInf && v.neg) && vs.any (fun v => v.isInf && !v.neg)) = true := fun hb => by
  obtain ⟨h1, h0⟩ := bothInf_iff.1 hb
  cases n <;> exact h (by assumption)

theorem sum_inf (h : ∀ v ∈ vs, v.isNan = false) {n : Bool} (hn : .inf n ∈ vs) (h0 : .inf (!n) ∉ vs) : t.sum rm vs = t.roundInf n := by
  rw [Fmt.sum, any_isNan_false h, if_neg Bool.false_ne_true, if_neg (not_bothInf h0)]
  cases hf : vs.find? FVal.isInf with
  | none => exact absurd rfl (List.find?_eq_none.1 hf _ hn)
  | some v =>
    have hv : v = .inf v.neg := isInf_iff.1 ⟨List.find?_some hf, rfl⟩
    have hne : v.neg = n := by
      by_contra hne
      have : v.neg = !n := Bool.eq_not_of_ne hne
      exact h0 (this ▸ hv ▸ List.mem_of_find?_eq_some hf)
    exact congrArg t.roundInf hne

theorem sum_finite (h : ∀ v ∈ vs, v.isNan = false ∧ v.isInf = false) : t.sum rm vs = t.roundSum rm (vs.map FVal.term) := by
  have hinf : ∀ n, FVal.inf n ∉ vs := fun n hn => nomatch (h _ hn).2
  have hf : vs.find? FVal.isInf = none := List.find?_eq_none.2 fun v hv => by rw [(h v hv).2]; exact Bool.false_ne_true
  rw [Fmt.sum, any_isNan_false fun v hv => (h v hv).1, if_neg Bool.false_ne_true, if_neg (not_bothInf (hinf true)), hf]

/-- An exact sum that is not zero is rounded once. -/
theorem sum_nonzero (h : ∀ v ∈ vs, v.isNan = false ∧ v.isInf = false) (hx : (vs.map FVal.rat).sum ≠ 0) :
    ∃ n m e, (FVal.fin n m e).rat = (vs.map FVal.rat).sum ∧ t.sum rm vs = t.round rm n m e := by
  have hsum := sum_terms h
  have hz : (exactSum (vs.map FVal.term)).1 ≠ 0 := fun hz => hx (by rw [← hsum, hz, Int.cast_zero, zero_mul])
  exact ⟨_, _, _, (rat_of_int _ _).trans hsum, (sum_finite h).trans (if_neg hz)⟩

/-- The sign of an exact sum that is zero (R241). -/
def zeroSum (rm : RM) (vs : List FVal) : Bool :=
  if vs.all (fun v => v.isZero && v.neg) then true else if vs.all (fun v => v.isZero && !v.neg) then false else rm == .rd

theorem zeroSign_terms (h : ∀ v ∈ vs, v.isNan = false ∧ v.isInf = false) (rm : RM) : zeroSign rm (vs.map FVal.term) = zeroSum rm vs := by
  have hterm : ∀ v ∈ vs, v.term.1 = v.neg ∧ (v.term.2.1 == 0) = v.isZero := fun v hv => by
    obtain ⟨hn, hi⟩ := h v hv
    cases v with
    | nan s => exact nomatch hn
    | inf n => exact nomatch hi
    | fin n m e => exact ⟨rfl, rfl⟩
  have h1 : (vs.map FVal.term).all (fun t => t.1 && t.2.1 == 0) = vs.all fun v => v.isZero && v.neg := by
    rw [List.all_map, Bool.eq_iff_iff, List.all_eq_true, List.all_eq_true]
    exact forall₂_congr fun v hv => by rw [Function.comp_apply, (hterm v hv).1, (hterm v hv).2, Bool.and_comm]
  have h0 : (vs.map FVal.term).all (fun t => !t.1 && t.2.1 == 0) = vs.all fun v => v.isZero && !v.neg := by
    rw [List.all_map, Bool.eq_iff_iff, List.all_eq_true, List.all_eq_true]
    exact forall₂_congr fun v hv => by rw [Function.comp_apply, (hterm v hv).1, (hterm v hv).2, Bool.and_comm]
  rw [zeroSign, h1, h0, zeroSum]

theorem sum_zero (h : ∀ v ∈ vs, v.isNan = false ∧ v.isInf = false) (hx : (vs.map FVal.rat).sum = 0) :
    t.sum rm vs = (t.signed (zeroSum rm vs) 0, 0) := by
  have hz : (exactSum (vs.map FVal.term)).1 = 0 := by
    have := (sum_terms h).trans hx
    rw [mul_eq_zero, Int.cast_eq_zero] at this
    exact this.resolve_right (two_zpow_pos _).ne'
  rw [sum_finite h, Fmt.roundSum, if_pos hz, zeroSign_terms h]

end

/-! ## The smaller and the larger (R279) -/

/-- The number that a value stands for, the infinities at the ends. -/
def extended (v : FVal) : WithBot (WithTop Rat) :=
  match v with
  | .nan _ => ⊥
  | .inf true => ⊥
  | .inf false => ⊤
  | v => ((v.rat : WithTop Rat) : WithBot (WithTop Rat))

theorem lt_iff_extended {v w : FVal} (hv : v.isNan = false) (hw : w.isNan = false) : v.lt w ↔ extended v < extended w := by
  have htop : ∀ x : Rat, ((x : WithTop Rat) : WithBot (WithTop Rat)) < ⊤ := fun x => WithBot.coe_lt_coe.2 (WithTop.coe_lt_top x)
  have hbot : ∀ x : Rat, (⊥ : WithBot (WithTop Rat)) < ((x : WithTop Rat) : WithBot (WithTop Rat)) := fun x => WithBot.bot_lt_coe _
  cases v with
  | nan s => exact nomatch hv
  | inf n =>
    cases w with
    | nan s => exact nomatch hw
    | inf n' => cases n <;> cases n' <;> simp [FVal.lt, extended]
    | fin n' m' e' =>
      cases n
      · exact iff_of_false Bool.false_ne_true (htop _).not_gt
      · exact iff_of_true rfl (hbot _)
  | fin n m e =>
    cases w with
    | nan s => exact nomatch hw
    | inf n' =>
      cases n'
      · exact iff_of_true rfl (htop _)
      · exact iff_of_false (fun h => nomatch h) not_lt_bot
    | fin n' m' e' => simp [FVal.lt, extended, WithBot.coe_lt_coe, WithTop.coe_lt_coe]

/-- The order of R279: by the number, and -0 below +0. -/
def rank (v : FVal) : WithBot (WithTop Rat) ×ₗ Bool := toLex (extended v, !v.neg)

theorem below_iff {t : Fmt} {a b : Nat} (ha : (t.decode a).isNan = false) (hb : (t.decode b).isNan = false) :
    t.below a b = true ↔ rank (t.decode a) < rank (t.decode b) := by
  have hz : (t.decode a).cmp (t.decode b) = 0 ↔ extended (t.decode a) = extended (t.decode b) := by
    rw [cmp_zero_iff ha hb, lt_iff_extended ha hb, lt_iff_extended hb ha, not_lt, not_lt, and_comm]
    exact le_antisymm_iff.symm
  have hl : (t.decode a).cmp (t.decode b) < 0 ↔ extended (t.decode a) < extended (t.decode b) := by
    rw [(cmp_iff ha hb).1, lt_iff_extended ha hb]
  have hneg : ((t.decode a).neg && !(t.decode b).neg) = true ↔ (!(t.decode a).neg) < !(t.decode b).neg := by
    cases (t.decode a).neg <;> cases (t.decode b).neg <;> decide
  rw [rank, rank, Prod.Lex.toLex_lt_toLex, ← hl, ← hz, ← hneg]
  simp only [Fmt.below, Bool.or_eq_true, Bool.and_eq_true, decide_eq_true_eq, and_assoc]

/-- R279: of two values that are no NaN, the smaller or the larger in the order that puts -0 below +0, without a flag. -/
theorem minmax_numbers {t : Fmt} {a b : Nat} (ha : (t.decode a).isNan = false) (hb : (t.decode b).isNan = false) (mx prop : Bool) :
    ∃ k, t.minmax mx prop a b = (k, 0) ∧ (k = a ∨ k = b) ∧
      (mx = false → rank (t.decode k) ≤ rank (t.decode a) ∧ rank (t.decode k) ≤ rank (t.decode b)) ∧
      (mx = true → rank (t.decode a) ≤ rank (t.decode k) ∧ rank (t.decode b) ≤ rank (t.decode k)) := by
  have heq : t.minmax mx prop a b = if mx then (if t.below a b then b else a, 0) else (if t.below b a then b else a, 0) := by
    simp only [Fmt.minmax, ha, hb, Bool.and_false, Bool.or_false, Bool.false_eq_true, if_false]
  rw [heq]
  cases mx
  · by_cases h : t.below b a = true
    · refine ⟨b, by rw [if_neg Bool.false_ne_true, if_pos h], .inr rfl, fun _ => ⟨((below_iff hb ha).1 h).le, le_rfl⟩, nofun⟩
    · refine ⟨a, by rw [if_neg Bool.false_ne_true, if_neg h], .inl rfl, fun _ => ⟨le_rfl, not_lt.1 (mt (below_iff hb ha).2 h)⟩, nofun⟩
  · by_cases h : t.below a b = true
    · refine ⟨b, by rw [if_pos rfl, if_pos h], .inr rfl, nofun, fun _ => ⟨((below_iff ha hb).1 h).le, le_rfl⟩⟩
    · refine ⟨a, by rw [if_pos rfl, if_neg h], .inl rfl, nofun, fun _ => ⟨le_rfl, not_lt.1 (mt (below_iff ha hb).2 h)⟩⟩

/-- What the order of R279 says of two values. -/
theorem of_rank_le {v w : FVal} (hv : v.isNan = false) (hw : w.isNan = false) (h : rank v ≤ rank w) :
    ¬w.lt v ∧ (v.isZero = true → w.isZero = true → w.neg = true → v.neg = true) := by
  have h' : extended v < extended w ∨ (extended v = extended w ∧ (!v.neg) ≤ !w.neg) := Prod.Lex.toLex_le_toLex.1 h
  refine ⟨fun hl => ?_, fun zv zw hn => ?_⟩
  · have := (lt_iff_extended hw hv).1 hl
    rcases h' with h | ⟨h, -⟩
    · exact lt_asymm h this
    · exact this.ne h.symm
  · have hzero : ∀ x : FVal, x.isZero = true → extended x = ((0 : Rat) : WithTop Rat) := fun x hx => by
      cases x with
      | nan s => exact nomatch hx
      | inf n => exact nomatch hx
      | fin n m e =>
        have : (FVal.fin n m e).rat = 0 := (rat_zero_iff n m e).2 (by simpa [FVal.isZero] using hx)
        exact congrArg (fun x : Rat => ((x : WithTop Rat) : WithBot (WithTop Rat))) this
    rcases h' with h | ⟨-, h⟩
    · rw [hzero v zv, hzero w zw] at h
      exact absurd h (lt_irrefl _)
    · rw [hn] at h
      cases hv' : v.neg
      · rw [hv'] at h
        exact absurd h (by decide)
      · rfl

/-! ## Contributions of a step (R427, R428) -/

/-- An operation that picks one of two, the one that comes first in an order, picks over a list the one that comes first. -/
theorem foldl_picks {α : Type} {p : α → Prop} {le : α → α → Prop} {f : α → α → α} (hrefl : ∀ x, le x x)
    (htrans : ∀ x y z, le x y → le y z → le x z)
    (hf : ∀ m x, p m → p x → (f m x = m ∨ f m x = x) ∧ le (f m x) m ∧ le (f m x) x) (xs : List α) (a : α) (hp : ∀ x ∈ a :: xs, p x) :
    xs.foldl f a ∈ a :: xs ∧ ∀ x ∈ a :: xs, le (xs.foldl f a) x := by
  induction xs generalizing a with
  | nil => exact ⟨List.mem_singleton.2 rfl, fun x hx => by rw [List.mem_singleton.1 hx]; exact hrefl a⟩
  | cons b xs ih =>
    obtain ⟨ha, hb, hxs⟩ : p a ∧ p b ∧ ∀ x ∈ xs, p x := by simpa using hp
    obtain ⟨hpick, hla, hlb⟩ := hf a b ha hb
    have hpf : p (f a b) := by rcases hpick with h | h <;> rw [h] <;> assumption
    obtain ⟨hmem, hall⟩ := ih (f a b) (List.forall_mem_cons.2 ⟨hpf, hxs⟩)
    obtain ⟨hfirst, hrest⟩ := List.forall_mem_cons.1 hall
    refine ⟨?_, List.forall_mem_cons.2 ⟨htrans _ _ _ hfirst hla, List.forall_mem_cons.2 ⟨htrans _ _ _ hfirst hlb, hrest⟩⟩⟩
    rcases List.mem_cons.1 hmem with h | h
    · rw [List.foldl_cons, h]
      rcases hpick with h | h <;> rw [h] <;> simp
    · exact List.mem_cons_of_mem _ (List.mem_cons_of_mem _ h)

theorem foldl_add_toNat (xs : List Word) (a : Word) : (xs.foldl (· + ·) a).toNat = ((a :: xs).map BitVec.toNat).sum % 2 ^ 32 := by
  induction xs generalizing a with
  | nil => simp [Nat.mod_eq_of_lt a.isLt]
  | cons b xs ih =>
    rw [List.foldl_cons, ih]
    simp only [List.map_cons, List.sum_cons, BitVec.toNat_add]
    omega

section
variable (xs : List Word) (a : Word)

theorem foldl_umin : xs.foldl (Alu.min true) a ∈ a :: xs ∧ ∀ x ∈ a :: xs, (xs.foldl (Alu.min true) a).toNat ≤ x.toNat := by
  refine foldl_picks (p := fun _ => True) (le := fun x y => x.toNat ≤ y.toNat) (fun _ => le_rfl) (fun _ _ _ => le_trans) (fun m x _ _ => ?_) xs a
    fun _ _ => trivial
  simp only [Alu.min, if_true, BitVec.ult_eq_decide, decide_eq_true_eq]
  split
  · exact ⟨.inr rfl, by omega, le_rfl⟩
  · exact ⟨.inl rfl, le_rfl, by omega⟩

theorem foldl_umax : xs.foldl (Alu.max true) a ∈ a :: xs ∧ ∀ x ∈ a :: xs, x.toNat ≤ (xs.foldl (Alu.max true) a).toNat := by
  refine foldl_picks (p := fun _ => True) (le := fun x y => y.toNat ≤ x.toNat) (fun _ => le_rfl) (fun _ _ _ h h' => le_trans h' h)
    (fun m x _ _ => ?_) xs a fun _ _ => trivial
  simp only [Alu.max, if_true, BitVec.ult_eq_decide, decide_eq_true_eq]
  split
  · exact ⟨.inr rfl, by omega, le_rfl⟩
  · exact ⟨.inl rfl, le_rfl, by omega⟩

theorem foldl_smin : xs.foldl (Alu.min false) a ∈ a :: xs ∧ ∀ x ∈ a :: xs, (xs.foldl (Alu.min false) a).toInt ≤ x.toInt := by
  refine foldl_picks (p := fun _ => True) (le := fun x y => x.toInt ≤ y.toInt) (fun _ => le_rfl) (fun _ _ _ => le_trans) (fun m x _ _ => ?_) xs a
    fun _ _ => trivial
  simp only [Alu.min, Bool.false_eq_true, if_false, BitVec.slt_eq_decide, decide_eq_true_eq]
  split
  · exact ⟨.inr rfl, by omega, le_rfl⟩
  · exact ⟨.inl rfl, le_rfl, by omega⟩

theorem foldl_smax : xs.foldl (Alu.max false) a ∈ a :: xs ∧ ∀ x ∈ a :: xs, x.toInt ≤ (xs.foldl (Alu.max false) a).toInt := by
  refine foldl_picks (p := fun _ => True) (le := fun x y => y.toInt ≤ x.toInt) (fun _ => le_rfl) (fun _ _ _ h h' => le_trans h' h)
    (fun m x _ _ => ?_) xs a fun _ _ => trivial
  simp only [Alu.max, Bool.false_eq_true, if_false, BitVec.slt_eq_decide, decide_eq_true_eq]
  split
  · exact ⟨.inr rfl, by omega, le_rfl⟩
  · exact ⟨.inl rfl, le_rfl, by omega⟩

theorem foldl_and (i : Nat) : (xs.foldl (· &&& ·) a).getLsbD i = (a :: xs).all fun x => x.getLsbD i := by
  induction xs generalizing a with
  | nil => simp
  | cons b xs ih => rw [List.foldl_cons, ih]; simp [Bool.and_assoc]

theorem foldl_or (i : Nat) : (xs.foldl (· ||| ·) a).getLsbD i = (a :: xs).any fun x => x.getLsbD i := by
  induction xs generalizing a with
  | nil => simp
  | cons b xs ih => rw [List.foldl_cons, ih]; simp [Bool.or_assoc]

theorem foldl_xor (i : Nat) : (xs.foldl (· ^^^ ·) a).getLsbD i = decide (((a :: xs).countP fun x => x.getLsbD i) % 2 = 1) := by
  induction xs generalizing a with
  | nil => cases h : a.getLsbD i <;> simp [h]
  | cons b xs ih =>
    rw [List.foldl_cons, ih]
    simp only [List.countP_cons, BitVec.getLsbD_xor]
    cases a.getLsbD i <;> cases b.getLsbD i <;> simp <;> omega

end

theorem exponent_toNat (x : Word) : (x.extractLsb' 23 8).toNat = x.toNat % 2 ^ 31 / 2 ^ 23 := by
  rw [BitVec.extractLsb'_toNat, Nat.shiftRight_eq_div_pow]
  omega

theorem fraction_toNat (x : Word) : (x.extractLsb' 0 23).toNat = x.toNat % 2 ^ 31 % 2 ^ 23 := by
  rw [BitVec.extractLsb'_toNat, Nat.shiftRight_eq_div_pow]
  omega

/-- R233: an FP32 register by its sign, its exponent and its fraction. -/
theorem f32_eq (x : Word) : f32 x =
    if (x.extractLsb' 23 8).toNat = 255 then
      (if (x.extractLsb' 0 23).toNat = 0 then .inf x.msb else .nan ((x.extractLsb' 0 23).toNat / 2 ^ 22 == 0))
    else if (x.extractLsb' 23 8).toNat = 0 then .fin x.msb (x.extractLsb' 0 23).toNat (-149)
    else .fin x.msb (2 ^ 23 + (x.extractLsb' 0 23).toNat) ((x.extractLsb' 23 8).toNat - 150) := by
  have hx := x.isLt
  have hs : (x.toNat / 2 ^ 31 % 2 == 1) = x.msb := by
    rw [BitVec.msb_eq_decide, beq_eq_decide]
    exact decide_eq_decide.2 (by omega)
  have hmag : Fmt.fp32.mag = 31 := rfl
  rw [f32, Fmt.decode, hmag]
  rw [hs, exponent_toNat, fraction_toNat]
  change (if 0x7F7FFFFF < x.toNat % 2 ^ 31 then if x.toNat % 2 ^ 31 = 0x7F800000 then _ else _ else if _ then _ else _) = _
  by_cases h255 : x.toNat % 2 ^ 31 / 2 ^ 23 = 255
  · have hk : x.toNat % 2 ^ 31 = 0x7F800000 ↔ x.toNat % 2 ^ 31 % 2 ^ 23 = 0 := by omega
    rw [if_pos (by omega), if_pos h255]
    exact if_congr hk rfl rfl
  · rw [if_neg (by omega), if_neg h255]
    refine if_congr Iff.rfl rfl ?_
    refine congrArg (FVal.fin _ _) ?_
    change (1 : Int) - 127 - 23 + ((x.toNat % 2 ^ 31 / 2 ^ 23 : Nat) : Int) - 1 = _
    ring

/-- The one code of -0. -/
theorem negZero_iff (x : Word) : ((f32 x).isZero && (f32 x).neg) = true ↔ x = 0x80000000 := by
  constructor
  · intro h
    rw [f32_eq] at h
    split_ifs at h with h255 hF h0
    · exact nomatch h
    · exact nomatch h
    · simp only [FVal.isZero, FVal.neg, Bool.and_eq_true, beq_iff_eq] at h
      obtain ⟨hF, hs⟩ := h
      rw [exponent_toNat] at h0
      rw [fraction_toNat] at hF
      rw [BitVec.msb_eq_decide, decide_eq_true_eq] at hs
      have h80 : (0x80000000 : Word).toNat = 2 ^ 31 := rfl
      have hx := x.isLt
      exact BitVec.eq_of_toNat_eq (by omega)
    · simp only [FVal.isZero, FVal.neg, Bool.and_eq_true, beq_iff_eq] at h
      omega
  · rintro rfl
    decide

/-- The floating-point sum of a step. -/
theorem fadd_values (all : List Word) :
    let has := fun (p : FVal → Prop) => ∃ x ∈ all, p (f32 x)
    (has (fun v => v.isNan = true) ∨ (has (fun v => v = .inf true) ∧ has fun v => v = .inf false) → redCombine .fadd all = 0x7FC00000) ∧
    (∀ n, has (fun v => v = .inf n) → ¬has (fun v => v = .inf (!n)) → ¬has (fun v => v.isNan = true) →
      redCombine .fadd all = if n then 0xFF800000 else 0x7F800000) ∧
    (¬has (fun v => v.isNan = true ∨ v.isInf = true) →
      let sum := (all.map fun x => (f32 x).rat).sum
      (sum = 0 → redCombine .fadd all = if ∀ x ∈ all, x = 0x80000000 then 0x80000000 else 0) ∧
      (sum ≠ 0 → ∃ n m e, (FVal.fin n m e).rat = sum ∧ redCombine .fadd all = BitVec.ofNat 32 (Fmt.fp32.round .rn n m e).1)) := by
  have hred : redCombine .fadd all = BitVec.ofNat 32 (Fmt.fp32.sum .rn (all.map f32)).1 := by
    cases all <;> rfl
  have hmem : ∀ v, (∃ x ∈ all, f32 x = v) ↔ v ∈ all.map f32 := fun v => List.mem_map.symm
  rw [hred]
  refine ⟨fun h => ?_, fun n hn h0 hnan => ?_, fun hfin => ?_⟩
  · by_cases hnan : ∃ v ∈ all.map f32, v.isNan = true
    · rw [sum_nan hnan]
      rfl
    · rcases h with ⟨x, hx, h⟩ | ⟨h1, h0⟩
      · exact absurd ⟨_, List.mem_map_of_mem hx, h⟩ hnan
      · rw [sum_infs (fun v hv => Bool.eq_false_iff.2 fun h => hnan ⟨v, hv, h⟩) ((hmem _).1 h1) ((hmem _).1 h0)]
        rfl
  · have hno : ∀ v ∈ all.map f32, v.isNan = false := List.forall_mem_map.2 fun x hx => Bool.eq_false_iff.2 fun h => hnan ⟨x, hx, h⟩
    rw [sum_inf hno ((hmem _).1 hn) (mt (hmem _).2 h0)]
    cases n <;> rfl
  · have hall : ∀ v ∈ all.map f32, v.isNan = false ∧ v.isInf = false := List.forall_mem_map.2 fun x hx =>
      ⟨Bool.eq_false_iff.2 fun h => hfin ⟨x, hx, .inl h⟩, Bool.eq_false_iff.2 fun h => hfin ⟨x, hx, .inr h⟩⟩
    have hsum : ((all.map f32).map FVal.rat).sum = (all.map fun x => (f32 x).rat).sum := by
      rw [List.map_map]
      rfl
    refine ⟨fun h0 => ?_, fun h0 => ?_⟩
    · have hz : (all.map f32).all (fun v => v.isZero && v.neg) = true ↔ ∀ x ∈ all, x = 0x80000000 := by
        rw [List.all_map, List.all_eq_true]
        exact forall₂_congr fun x _ => negZero_iff x
      rw [sum_zero hall (hsum.trans h0), zeroSum, if_congr hz rfl rfl]
      split
      · rfl
      · split <;> rfl
    · obtain ⟨n, m, e, hr, hs⟩ := sum_nonzero (t := Fmt.fp32) (rm := .rn) hall (by rwa [hsum])
      exact ⟨n, m, e, hr.trans hsum, by rw [hs]⟩

/-- The floating-point extremes of a step. -/
theorem redFm_values (mx : Bool) (all : List Word) :
    ((∀ x ∈ all, (f32 x).isNan = true) → redFm mx all = 0x7FC00000) ∧
    ((∃ x ∈ all, (f32 x).isNan = false) → redFm mx all ∈ all ∧ (f32 (redFm mx all)).isNan = false ∧
      ∀ x ∈ all, (f32 x).isNan = false →
        if mx then rank (f32 x) ≤ rank (f32 (redFm mx all)) else rank (f32 (redFm mx all)) ≤ rank (f32 x)) := by
  have hmem : ∀ x, x ∈ all.filter (fun x => !(f32 x).isNan) ↔ x ∈ all ∧ (f32 x).isNan = false := fun x => by
    rw [List.mem_filter, Bool.not_eq_true']
  refine ⟨fun h => ?_, fun ⟨y, hy, hyn⟩ => ?_⟩
  · have : all.filter (fun x => !(f32 x).isNan) = [] := List.filter_eq_nil_iff.2 fun x hx => by rw [h x hx]; decide
    rw [redFm, this]
  · rw [redFm]
    cases hf : all.filter fun x => !(f32 x).isNan with
    | nil => exact nomatch hf ▸ (hmem y).2 ⟨hy, hyn⟩
    | cons a r =>
      rw [hf] at hmem
      obtain ⟨hin, hle⟩ := foldl_picks (p := fun x => (f32 x).isNan = false)
        (le := fun x y => if mx then rank (f32 y) ≤ rank (f32 x) else rank (f32 x) ≤ rank (f32 y))
        (f := fun m x => BitVec.ofNat 32 (Fmt.fp32.minmax mx false m.toNat x.toNat).1) (fun x => by split <;> exact le_rfl)
        (fun x y z h h' => by cases mx <;> [exact le_trans h h'; exact le_trans h' h]) (fun m x hm hx => by
          obtain ⟨k, hk, hor, hmin, hmax⟩ := minmax_numbers (t := Fmt.fp32) hm hx mx false
          have hback : f32 (BitVec.ofNat 32 k) = Fmt.fp32.decode k := by
            rcases hor with rfl | rfl <;> rw [BitVec.ofNat_toNat, BitVec.setWidth_eq, f32]
          refine ⟨?_, ?_, ?_⟩
          · rcases hor with rfl | rfl
            · exact .inl (by simp [hk])
            · exact .inr (by simp [hk])
          · simp only [hk, hback]
            cases mx
            · exact (hmin rfl).1
            · exact (hmax rfl).1
          · simp only [hk, hback]
            cases mx
            · exact (hmin rfl).2
            · exact (hmax rfl).2) r a fun x hx => ((hmem x).1 hx).2
      exact ⟨((hmem _).1 hin).1, ((hmem _).1 hin).2, fun x hx hxn => hle x ((hmem x).2 ⟨hx, hxn⟩)⟩

/-- Settles O24: each operation over the list of contributions, the extremes as what an operation picks that picks one of two. -/
theorem reductionsCombine : Obligations.ReductionsCombine := by
  intro a xs
  refine ⟨BitVec.toNat_ofNat .., foldl_add_toNat xs a, foldl_umin xs a, foldl_umax xs a, foldl_smin xs a, foldl_smax xs a, fun i _ => foldl_and xs a i,
    fun i _ => foldl_or xs a i, fun i _ => foldl_xor xs a i, ?_⟩
  obtain ⟨h1, h2, h3⟩ := fadd_values (a :: xs)
  refine ⟨h1, h2, h3, fun y hy => ?_⟩
  have hred : redCombine y.1 (a :: xs) = redFm y.2 (a :: xs) := by
    rcases List.mem_cons.1 hy with rfl | hy
    · rfl
    · rw [List.mem_singleton.1 hy]
      rfl
  rw [hred]
  obtain ⟨hall, hsome⟩ := redFm_values y.2 (a :: xs)
  refine ⟨hall, fun h => ?_⟩
  obtain ⟨hw, hwn, hle⟩ := hsome h
  refine ⟨hw, hwn, fun x hx hxn => ?_⟩
  have hx := hle x hx hxn
  cases hmx : y.2 <;> rw [hmx] at hx hwn
  · obtain ⟨hl, hz⟩ := of_rank_le hwn hxn hx
    exact ⟨hl, fun zx zw => hz zw zx⟩
  · obtain ⟨hl, hz⟩ := of_rank_le hxn hwn hx
    exact ⟨hl, fun zx zw hn => Bool.eq_false_iff.2 fun h => Bool.eq_false_iff.1 hn (hz zx zw h)⟩

end Sys2Proof.Laws.Sums
end


section
/-! The integer functions of both streams are arithmetic on the numbers that words stand for (Tables 11.1, 11.3, 13.3, R252-R256). -/

namespace Sys2Proof.Laws.Integers

open Sys2Proof Sys2Proof.Machine

/-! ## Products -/

theorem toInt_bounds (a : Word) : -2 ^ 31 ≤ a.toInt ∧ a.toInt < 2 ^ 31 := ⟨BitVec.le_toInt a, BitVec.toInt_lt⟩

theorem toInt_mul_signExtend (a b : Word) : (a.signExtend 64 * b.signExtend 64).toInt = a.toInt * b.toInt := by
  obtain ⟨ha, ha'⟩ := toInt_bounds a
  obtain ⟨hb, hb'⟩ := toInt_bounds b
  have hlo : -2 ^ 62 ≤ a.toInt * b.toInt := by nlinarith
  have hhi : a.toInt * b.toInt ≤ 2 ^ 62 := by nlinarith
  rw [BitVec.toInt_mul, BitVec.toInt_signExtend_of_le (by decide), BitVec.toInt_signExtend_of_le (by decide)]
  exact Int.bmod_eq_of_le (by omega) (by omega)

theorem toInt_highWord (p : BitVec 64) : (p.extractLsb' 32 32).toInt = p.toInt / 2 ^ 32 := by
  have hp := p.isLt
  rw [BitVec.toInt_eq_toNat_cond, BitVec.toInt_eq_toNat_cond, BitVec.extractLsb'_toNat, Nat.shiftRight_eq_div_pow]
  split_ifs <;> omega

theorem mulhs_toInt (a b : Word) : (Alu.mulhs a b).toInt = a.toInt * b.toInt / 2 ^ 32 := by
  rw [Alu.mulhs, toInt_highWord, toInt_mul_signExtend]

theorem mulhu_toNat (a b : Word) : (Alu.mulhu a b).toNat = a.toNat * b.toNat / 2 ^ 32 := by
  have hlt : a.toNat * b.toNat < 2 ^ 64 := by
    have := a.isLt
    have := b.isLt
    nlinarith
  rw [Alu.mulhu, BitVec.extractLsb'_toNat, BitVec.toNat_mul, BitVec.toNat_setWidth, BitVec.toNat_setWidth, Nat.shiftRight_eq_div_pow]
  have ha := a.isLt
  have hb := b.isLt
  rw [Nat.mod_eq_of_lt (show a.toNat < 2 ^ 64 by omega), Nat.mod_eq_of_lt (show b.toNat < 2 ^ 64 by omega), Nat.mod_eq_of_lt hlt]
  exact Nat.mod_eq_of_lt (by omega)

/-! ## Extremes, absolute value, shifts -/

theorem min_toInt (a b : Word) : (Alu.min false a b).toInt = min a.toInt b.toInt := by
  simp only [Alu.min, Bool.false_eq_true, if_false, BitVec.slt_eq_decide, decide_eq_true_eq]
  split <;> omega

theorem max_toInt (a b : Word) : (Alu.max false a b).toInt = max a.toInt b.toInt := by
  simp only [Alu.max, Bool.false_eq_true, if_false, BitVec.slt_eq_decide, decide_eq_true_eq]
  split <;> omega

theorem min_toNat (a b : Word) : (Alu.min true a b).toNat = min a.toNat b.toNat := by
  simp only [Alu.min, if_true, BitVec.ult_eq_decide, decide_eq_true_eq]
  split <;> omega

theorem max_toNat (a b : Word) : (Alu.max true a b).toNat = max a.toNat b.toNat := by
  simp only [Alu.max, if_true, BitVec.ult_eq_decide, decide_eq_true_eq]
  split <;> omega

theorem abs_eq (a : Word) : Alu.abs a = BitVec.ofInt 32 a.toInt.natAbs := by
  have ha := a.isLt
  refine BitVec.eq_of_toNat_eq ?_
  rw [Alu.abs, BitVec.toNat_ofInt]
  by_cases h : a.msb = true
  · have h' := BitVec.msb_eq_true_iff_two_mul_ge.1 h
    rw [if_pos h, show (0 : Word) - a = -a from BitVec.zero_sub a, BitVec.toNat_neg, BitVec.toInt_eq_toNat_cond, if_neg (by omega)]
    omega
  · have h' := BitVec.msb_eq_false_iff_two_mul_lt.1 (Bool.eq_false_iff.2 h)
    rw [if_neg h, BitVec.toInt_eq_toNat_cond, if_pos (by omega)]
    omega

theorem shl_toNat (a b : Word) : (Alu.shl a b).toNat = if 32 ≤ b.toNat then 0 else a.toNat * 2 ^ b.toNat % 2 ^ 32 := by
  rw [Alu.shl]
  split
  · rfl
  · rw [BitVec.toNat_shiftLeft, Nat.shiftLeft_eq]

theorem shr_toNat (a b : Word) : (Alu.shr a b).toNat = if 32 ≤ b.toNat then 0 else a.toNat / 2 ^ b.toNat := by
  rw [Alu.shr, BitVec.toNat_ushiftRight, Nat.shiftRight_eq_div_pow]
  split
  · next h => exact Nat.div_eq_of_lt (a.isLt.trans_le (Nat.pow_le_pow_right (by decide) h))
  · rfl

theorem sar_toInt (a b : Word) : (Alu.sar a b).toInt = a.toInt / 2 ^ min b.toNat 31 := by
  rw [Alu.sar, BitVec.toInt_sshiftRight, Int.shiftRight_eq_div_pow]
  by_cases h : b.toNat ≤ 31
  · rw [min_eq_left h]
    norm_cast
  · obtain ⟨hlo, hhi⟩ := toInt_bounds a
    have hbig : (2 : Int) ^ 31 ≤ 2 ^ b.toNat := pow_le_pow_right₀ (by decide) (by omega)
    rw [min_eq_right (by omega)]
    rcases lt_or_ge a.toInt 0 with hn | hn
    · have h1 : a.toInt / 2 ^ 31 = -1 := by omega
      rw [h1]
      push_cast
      exact Int.ediv_eq_neg_one_of_neg_of_le hn (by omega)
    · have h1 : a.toInt / 2 ^ 31 = 0 := by omega
      rw [h1]
      push_cast
      exact Int.ediv_eq_zero_of_lt hn (by omega)

/-! ## Counts and bits -/

theorem popFrom_eq (a : Word) (n : Nat) : Alu.popFrom a n = (List.range n).countP a.getLsbD := by
  induction n with
  | zero => rfl
  | succ n ih =>
    rw [Alu.popFrom, ih, List.range_succ, List.countP_append, List.countP_singleton, Nat.add_comm]

theorem clzFrom_le (a : Word) (n : Nat) : Alu.clzFrom a n ≤ n := by
  induction n with
  | zero => exact le_rfl
  | succ n ih =>
    rw [Alu.clzFrom]
    split <;> omega

/-- The highest 1 bit of the lowest `n` bits. -/
theorem clzFrom_bounds (a : Word) (n : Nat) : a.toNat % 2 ^ n < 2 ^ (n - Alu.clzFrom a n) ∧
    (a.toNat % 2 ^ n ≠ 0 → 2 ^ (n - 1 - Alu.clzFrom a n) ≤ a.toNat % 2 ^ n) := by
  induction n with
  | zero => exact ⟨by rw [pow_zero, Nat.mod_one]; exact Nat.two_pow_pos _, fun h => absurd (by rw [pow_zero, Nat.mod_one]) h⟩
  | succ n ih =>
    have hmod : a.toNat % 2 ^ (n + 1) = a.toNat % 2 ^ n + 2 ^ n * (if a.getLsbD n then 1 else 0) := by
      rw [Nat.mod_pow_succ, BitVec.getLsbD, Nat.testBit_eq_decide_div_mod_eq]
      congr 2
      split <;> simp_all
    have hlt := Nat.mod_lt a.toNat (Nat.two_pow_pos n)
    rw [Alu.clzFrom, hmod]
    by_cases hb : a.getLsbD n = true
    · rw [if_pos hb, if_pos hb, mul_one, Nat.sub_zero, Nat.sub_zero, pow_succ]
      exact ⟨by omega, fun _ => by rw [Nat.add_sub_cancel]; omega⟩
    · rw [if_neg hb, if_neg hb, mul_zero, add_zero]
      have h1 : n + 1 - (1 + Alu.clzFrom a n) = n - Alu.clzFrom a n := by omega
      have h2 : n + 1 - 1 - (1 + Alu.clzFrom a n) = n - 1 - Alu.clzFrom a n := by omega
      rw [h1, h2]
      exact ih

theorem clz_toNat (a : Word) : (Alu.clz a).toNat = Alu.clzFrom a 32 := by
  rw [Alu.clz, BitVec.toNat_ofNat]
  exact Nat.mod_eq_of_lt (by have := clzFrom_le a 32; omega)

theorem rol_getLsbD (a b : Word) {i : Nat} (hi : i < 32) : (Alu.rol a b).getLsbD ((i + b.toNat) % 32) = a.getLsbD i := by
  rw [Alu.rol, BitVec.getLsbD_rotateLeft, Nat.mod_mod]
  by_cases h : i + b.toNat % 32 < 32
  · have hj : (i + b.toNat) % 32 = i + b.toNat % 32 := by omega
    have hlt : decide ((i + b.toNat) % 32 < b.toNat % 32) = false := decide_eq_false (by omega)
    have hin : decide ((i + b.toNat) % 32 < 32) = true := decide_eq_true (by omega)
    rw [hlt, hin, cond_false, Bool.true_and]
    congr 1
    omega
  · have hlt : decide ((i + b.toNat) % 32 < b.toNat % 32) = true := decide_eq_true (by omega)
    rw [hlt, cond_true]
    congr 1
    omega

theorem icmp_values (a b : Word) :
    Alu.icmp .eq a b = decide (a = b) ∧ Alu.icmp .ne a b = decide (a ≠ b) ∧ Alu.icmp .lt a b = decide (a.toInt < b.toInt) ∧
      Alu.icmp .le a b = decide (a.toInt ≤ b.toInt) ∧ Alu.icmp .gt a b = decide (b.toInt < a.toInt) ∧
      Alu.icmp .ge a b = decide (b.toInt ≤ a.toInt) ∧ Alu.icmp .lo a b = decide (a.toNat < b.toNat) ∧
      Alu.icmp .hs a b = decide (b.toNat ≤ a.toNat) := by
  refine ⟨beq_eq_decide .., ?_, BitVec.slt_eq_decide, BitVec.sle_eq_decide, BitVec.slt_eq_decide, BitVec.sle_eq_decide, BitVec.ult_eq_decide,
    BitVec.ule_eq_decide⟩
  rw [Alu.icmp, bne, beq_eq_decide, decide_not]

theorem divisions {b : Word} (hb : b ≠ 0) (a : Word) : (Alu.sdiv true a b).toNat = a.toNat / b.toNat ∧ (Alu.srem true a b).toNat = a.toNat % b.toNat ∧
    Alu.sdiv false a b = BitVec.ofInt 32 (a.toInt.tdiv b.toInt) ∧ (Alu.srem false a b).toInt = a.toInt.tmod b.toInt := by
  refine ⟨?_, ?_, ?_, ?_⟩
  · rw [Alu.sdiv, if_neg hb, if_pos rfl]
    exact BitVec.toNat_udiv
  · rw [Alu.srem, if_neg hb, if_pos rfl]
    exact BitVec.toNat_umod
  · rw [Alu.sdiv, if_neg hb, if_neg Bool.false_ne_true]
    exact BitVec.eq_of_toInt_eq (by rw [BitVec.toInt_sdiv, BitVec.toInt_ofInt])
  · rw [Alu.srem, if_neg hb, if_neg Bool.false_ne_true]
    exact BitVec.toInt_srem a b

theorem plop_values (p q : Bool) :
    Alu.plop .and p q = (p && q) ∧ Alu.plop .or p q = (p || q) ∧ Alu.plop .xor p q = (p != q) ∧ Alu.plop .andn p q = (p && !q) ∧
    Alu.plop .orn p q = (p || !q) ∧ Alu.plop .nand p q = !(p && q) ∧ Alu.plop .nor p q = !(p || q) ∧ Alu.plop .xnor p q = (p == q) :=
  ⟨rfl, rfl, rfl, rfl, rfl, rfl, rfl, rfl⟩

/-! ## Fields (R252) -/

/-- A word that stands for a negative number of `w` bits. -/
theorem ofInt_negative {f w i : Nat} (hf : f < 2 ^ w) (hw : w ≤ 32) (hi : i < 32) :
    (BitVec.ofInt 32 ((f : Int) - 2 ^ w)).getLsbD i = if i < w then f.testBit i else true := by
  have hpow : 2 ^ w * (2 ^ (32 - w) - 1) + f = f + 2 ^ 32 - 2 ^ w := by
    have : 2 ^ w * 2 ^ (32 - w) = 2 ^ 32 := by rw [← pow_add, Nat.add_sub_cancel' hw]
    rw [Nat.mul_sub, mul_one, this]
    have := Nat.pow_le_pow_right (n := 2) (by decide) hw
    omega
  have hto : (BitVec.ofInt 32 ((f : Int) - 2 ^ w)).toNat = 2 ^ w * (2 ^ (32 - w) - 1) + f := by
    have hle := Nat.pow_le_pow_right (n := 2) (by decide) hw
    have hcast : ((2 : Int) ^ w) = ((2 ^ w : Nat) : Int) := by push_cast; rfl
    rw [hpow, BitVec.toNat_ofInt, hcast]
    omega
  rw [BitVec.getLsbD, hto, Nat.testBit_two_pow_mul_add _ hf, Nat.testBit_two_pow_sub_one]
  split
  · rfl
  · exact decide_eq_true (by omega)

theorem fieldWidth_eq (b : Word) : Alu.fieldWidth b = min (min (b.extractLsb' 8 6).toNat 32) (32 - (b.extractLsb' 0 5).toNat) := rfl

theorem bfx_getLsbD (a b : Word) {i : Nat} (hi : i < 32) : (Alu.bfx a b).getLsbD i =
    if i < Alu.fieldWidth b then a.getLsbD ((b.extractLsb' 0 5).toNat + i)
    else b.getLsbD 16 && decide (0 < Alu.fieldWidth b) && a.getLsbD ((b.extractLsb' 0 5).toNat + Alu.fieldWidth b - 1) := by
  set pos := (b.extractLsb' 0 5).toNat
  have hw32 : Alu.fieldWidth b ≤ 32 := by rw [fieldWidth_eq]; omega
  rw [Alu.bfx]
  dsimp only
  generalize Alu.fieldWidth b = w at hw32 ⊢
  by_cases hw : w = 0
  · subst hw
    simp
  rw [if_neg hw]
  set f := (a >>> pos).toNat % 2 ^ w
  have hbit : ∀ j, j < w → f.testBit j = a.getLsbD (pos + j) := fun j hj => by
    rw [Nat.testBit_mod_two_pow, decide_eq_true hj, Bool.true_and]
    exact BitVec.getLsbD_ushiftRight ..
  have hf : f < 2 ^ w := Nat.mod_lt _ (Nat.two_pow_pos w)
  have hsign : (f / 2 ^ (w - 1) % 2 == 1) = a.getLsbD (pos + w - 1) := by
    rw [Nat.add_sub_assoc (by omega), ← hbit _ (by omega), Nat.testBit_eq_decide_div_mod_eq]
    rfl
  rw [hsign, decide_eq_true (Nat.pos_of_ne_zero hw), Bool.and_true]
  by_cases hs : (b.getLsbD 16 && a.getLsbD (pos + w - 1)) = true
  · rw [if_pos hs, ofInt_negative hf hw32 hi, hs]
    refine if_ctx_congr Iff.rfl (fun h => hbit i h) fun _ => rfl
  · rw [if_neg hs, Bool.eq_false_iff.2 hs, BitVec.getLsbD_ofNat, decide_eq_true hi, Bool.true_and]
    split
    · next h => exact hbit i h
    · next h => exact Nat.testBit_lt_two_pow (hf.trans_le (Nat.pow_le_pow_right (by decide) (not_lt.1 h)))

theorem bfi_getLsbD (a b d : Word) {i : Nat} (hi : i < 32) : (Alu.bfi a b d).getLsbD i =
    if (b.extractLsb' 0 5).toNat ≤ i ∧ i < (b.extractLsb' 0 5).toNat + Alu.fieldWidth b then a.getLsbD (i - (b.extractLsb' 0 5).toNat)
    else d.getLsbD i := by
  have hw32 : Alu.fieldWidth b ≤ 32 := by rw [fieldWidth_eq]; omega
  rw [Alu.bfi]
  generalize (b.extractLsb' 0 5).toNat = pos
  generalize Alu.fieldWidth b = w at hw32 ⊢
  have hm : (BitVec.ofNat 32 (2 ^ w - 1) <<< pos).getLsbD i = decide (pos ≤ i ∧ i < pos + w) := by
    rw [BitVec.getLsbD_shiftLeft, BitVec.getLsbD_ofNat, Nat.testBit_two_pow_sub_one]
    by_cases h : pos ≤ i
    · by_cases h' : i < pos + w
      · rw [decide_eq_true hi, decide_eq_false (by omega), decide_eq_true (by omega), decide_eq_true (by omega), decide_eq_true ⟨h, h'⟩]
        rfl
      · rw [decide_eq_false (show ¬i - pos < w by omega), decide_eq_false (fun hh : pos ≤ i ∧ i < pos + w => h' hh.2), Bool.and_false, Bool.and_false]
    · rw [decide_eq_true (show i < pos by omega), decide_eq_false (fun hh : pos ≤ i ∧ i < pos + w => h hh.1), Bool.not_true, Bool.and_false, Bool.false_and]
  rw [BitVec.getLsbD_or, BitVec.getLsbD_and, BitVec.getLsbD_and, BitVec.getLsbD_not, hm]
  by_cases h : pos ≤ i ∧ i < pos + w
  · rw [decide_eq_true h, if_pos h, BitVec.getLsbD_shiftLeft, decide_eq_true hi, decide_eq_false (show ¬i < pos by omega)]
    simp
  · rw [decide_eq_false h, if_neg h, decide_eq_true hi]
    simp

/-- Settles O2: each function by the number of its result, or bit by bit. -/
theorem integerFunctionsAreArithmetic : Obligations.IntegerFunctionsAreArithmetic := by
  refine ⟨fun a b => ?_, plop_values, fun a b d i hi => ⟨bfx_getLsbD a b hi, bfi_getLsbD a b d hi⟩⟩
  have hclz := clzFrom_bounds a 32
  rw [Nat.mod_eq_of_lt a.isLt] at hclz
  refine ⟨mulhs_toInt a b, mulhu_toNat a b, ⟨min_toInt a b, max_toInt a b⟩, ⟨min_toNat a b, max_toNat a b⟩, abs_eq a, shl_toNat a b, shr_toNat a b,
    sar_toInt a b, ?_, ?_, ?_, fun ha => ?_, fun i hi => ?_, fun i hi => rol_getLsbD a b hi, icmp_values a b, fun hb => divisions hb a,
    fun u => ⟨if_pos rfl, if_pos rfl⟩⟩
  · rw [Alu.popc, BitVec.toNat_ofNat, popFrom_eq]
    have : (List.range 32).countP a.getLsbD ≤ (List.range 32).length := List.countP_le_length
    rw [List.length_range] at this
    exact Nat.mod_eq_of_lt (by omega)
  · rw [clz_toNat]
    exact clzFrom_le a 32
  · rw [clz_toNat]
    exact hclz.1
  · rw [clz_toNat]
    exact hclz.2 fun h => ha (BitVec.eq_of_toNat_eq h)
  · rw [Alu.brev, BitVec.getLsbD_reverse, BitVec.getMsbD, decide_eq_true hi, Bool.true_and]

end Sys2Proof.Laws.Integers
end


section
/-! The lane's floating-point instructions (R278-R288, Tables 10.4, 10.5, 12.1-12.3): sums, products, extremes, conditions, classes, conversions. -/

namespace Sys2Proof.Laws.LaneFloats

open Sys2Proof Sys2Proof.Machine Sys2Proof.Laws.PairsAndCounts Sys2Proof.Laws.LaneForms Sys2Proof.Laws.Numbers Sys2Proof.Laws.Sums

/-! ## Products (R278) -/

section Products
variable {t : Fmt} {rm : RM} {a b d : FVal}

theorem zeroInf_iff : a.zeroInf b = true ↔ (a.isZero = true ∧ b.isInf = true) ∨ (a.isInf = true ∧ b.isZero = true) := by
  rw [FVal.zeroInf, Bool.or_eq_true, Bool.and_eq_true, Bool.and_eq_true]

theorem mul_invalid (h : a.zeroInf b = true) : t.mul rm a b = (t.nan, FlagSet.inv) ∧ t.fma rm a b d = (t.nan, FlagSet.inv) :=
  ⟨if_pos h, if_pos h⟩

theorem mul_nan (h : ¬a.zeroInf b = true) (hn : a.isNan = true ∨ b.isNan = true) :
    t.mul rm a b = (t.nan, FlagSet.when ([a, b].any FVal.signalling) FlagSet.inv) := by
  have hany : [a, b].any FVal.signalling = (a.signalling || b.signalling) := by simp
  rw [hany]
  exact (if_neg h).trans (if_pos (by simpa using hn))

theorem fma_nan (h : ¬a.zeroInf b = true) (hn : a.isNan = true ∨ b.isNan = true ∨ d.isNan = true) :
    t.fma rm a b d = (t.nan, FlagSet.when ([a, b, d].any FVal.signalling) FlagSet.inv) := by
  have hany : [a, b, d].any FVal.signalling = (a.signalling || b.signalling || d.signalling) := by simp [Bool.or_assoc]
  rw [hany]
  exact (if_neg h).trans (if_pos (by simpa [or_assoc] using hn))

theorem mul_number (h : ¬a.zeroInf b = true) (ha : a.isNan = false) (hb : b.isNan = false) :
    t.mul rm a b = match a.mul b with | .fin n m e => t.round rm n m e | v => t.roundInf v.neg := by
  rw [Fmt.mul, if_neg h, ha, hb, Bool.or_false, if_neg Bool.false_ne_true] <;> rfl

theorem fma_number (h : ¬a.zeroInf b = true) (ha : a.isNan = false) (hb : b.isNan = false) (hd : d.isNan = false) :
    t.fma rm a b d = t.sum rm [a.mul b, d] := by
  rw [Fmt.fma, if_neg h, ha, hb, hd, Bool.or_false, Bool.or_false, if_neg Bool.false_ne_true]

theorem mul_inf (ha : a.isNan = false) (hb : b.isNan = false) (h : a.isInf = true ∨ b.isInf = true) : a.mul b = .inf (a.neg != b.neg) := by
  cases a with
  | nan s => exact nomatch ha
  | inf n => rfl
  | fin n m e =>
    cases b with
    | nan s => exact nomatch hb
    | inf n' => rfl
    | fin n' m' e' => rcases h with h | h <;> exact nomatch h

theorem roundInf_some {i : Nat} (h : t.inf = some i) (n : Bool) : t.roundInf n = (t.signed n i, 0) := by
  rw [Fmt.roundInf, h]

end Products

/-- What sums and products of a format with infinities are. -/
theorem sums_and_products (g : Fmt × Nat × Nat) (rm : RM) (vs : List FVal) (a b d : FVal)
    (hg : g ∈ [(Fmt.fp32, 0x7FC00000, 0x7F800000), (Fmt.fp16, 0x7E00, 0x7C00), (Fmt.bf16, 0x7FC0, 0x7F80)]) :
    let t := g.1
    let nan := g.2.1
    let inf := fun (n : Bool) => t.signed n g.2.2
    let sg := fun (l : List FVal) => FlagSet.when (l.any FVal.signalling) FlagSet.inv
    let finite := fun (v : FVal) => v.isNan = false ∧ v.isInf = false
    let zeroInf := (a.isZero = true ∧ b.isInf = true) ∨ (a.isInf = true ∧ b.isZero = true)
    ((∃ v ∈ vs, v.isNan = true) → t.sum rm vs = (nan, sg vs)) ∧
    ((∀ v ∈ vs, v.isNan = false) →
      (.inf true ∈ vs → .inf false ∈ vs → t.sum rm vs = (nan, FlagSet.inv)) ∧
      (∀ n, .inf n ∈ vs → .inf (!n) ∉ vs → t.sum rm vs = (inf n, 0))) ∧
    ((∀ v ∈ vs, finite v) →
      let x := (vs.map FVal.rat).sum
      (x ≠ 0 → ∃ n m e, (FVal.fin n m e).rat = x ∧ t.sum rm vs = t.round rm n m e) ∧
      (x = 0 → t.sum rm vs = (t.signed (if ∀ v ∈ vs, v.isZero = true ∧ v.neg = true then true
        else if ∀ v ∈ vs, v.isZero = true ∧ v.neg = false then false else rm == .rd) 0, 0))) ∧
    (zeroInf → t.mul rm a b = (nan, FlagSet.inv) ∧ t.fma rm a b d = (nan, FlagSet.inv)) ∧
    (¬zeroInf →
      (a.isNan = true ∨ b.isNan = true → t.mul rm a b = (nan, sg [a, b])) ∧
      (a.isNan = true ∨ b.isNan = true ∨ d.isNan = true → t.fma rm a b d = (nan, sg [a, b, d])) ∧
      (a.isNan = false → b.isNan = false →
        (a.isInf = true ∨ b.isInf = true → t.mul rm a b = (inf (a.neg != b.neg), 0) ∧
          (d.isNan = false → t.fma rm a b d = t.sum rm [.inf (a.neg != b.neg), d])) ∧
        ∀ n m e n' m' e', a = .fin n m e → b = .fin n' m' e' → t.mul rm a b = t.round rm (n != n') (m * m') (e + e') ∧
          (d.isNan = false → t.fma rm a b d = t.sum rm [.fin (n != n') (m * m') (e + e'), d]))) := by
  obtain ⟨hnan, hinf⟩ : g.1.nan = g.2.1 ∧ g.1.inf = some g.2.2 := by
    simp only [List.mem_cons, List.not_mem_nil, or_false] at hg
    rcases hg with rfl | rfl | rfl <;> exact ⟨rfl, rfl⟩
  obtain ⟨t, nan, inf⟩ := g
  dsimp only at hnan hinf ⊢
  subst hnan
  refine ⟨sum_nan, fun h => ⟨sum_infs h, fun n hn h0 => (sum_inf h hn h0).trans (roundInf_some hinf n)⟩,
    fun h => ⟨sum_nonzero h, fun hx => ?_⟩, fun h => mul_invalid (zeroInf_iff.2 h), fun h => ?_⟩
  · have h1 : vs.all (fun v => v.isZero && v.neg) = true ↔ ∀ v ∈ vs, v.isZero = true ∧ v.neg = true := by
      simp only [List.all_eq_true, Bool.and_eq_true]
    have h0 : vs.all (fun v => v.isZero && !v.neg) = true ↔ ∀ v ∈ vs, v.isZero = true ∧ v.neg = false := by
      simp only [List.all_eq_true, Bool.and_eq_true, Bool.not_eq_true']
    rw [sum_zero h hx, zeroSum, if_congr h1 rfl (if_congr h0 rfl rfl)]
  · have hz := mt zeroInf_iff.1 h
    refine ⟨mul_nan hz, fma_nan hz, fun ha hb => ⟨fun hi => ⟨?_, fun hd => ?_⟩, fun n m e n' m' e' hae hbe => ⟨?_, fun hd => ?_⟩⟩⟩
    · rw [mul_number hz ha hb, mul_inf ha hb hi]
      exact roundInf_some hinf _
    · rw [fma_number hz ha hb hd, mul_inf ha hb hi]
    · rw [mul_number hz ha hb, hae, hbe]
      rfl
    · rw [fma_number hz ha hb hd, hae, hbe]
      rfl

/-! ## Extremes and conditions (R279, Table 12.1) -/

theorem extremes (t : Fmt) (mx prop : Bool) (x y : Nat) :
    let v := t.decode x
    let w := t.decode y
    let r := t.minmax mx prop x y
    let z := t.decode r.1
    let sg := FlagSet.when (v.signalling || w.signalling) FlagSet.inv
    (v.isNan = true → w.isNan = true → r = (t.nan, sg)) ∧ (v.isNan = true ∨ w.isNan = true → prop = true → r = (t.nan, sg)) ∧
    (prop = false → (v.isNan = true → w.isNan = false → r = (y, sg)) ∧ (v.isNan = false → w.isNan = true → r = (x, sg))) ∧
    (v.isNan = false → w.isNan = false → r.2 = 0 ∧ (r.1 = x ∨ r.1 = y) ∧
      (mx = false → ¬v.lt z ∧ ¬w.lt z) ∧ (mx = true → ¬z.lt v ∧ ¬z.lt w) ∧
      (v.isZero = true → w.isZero = true → v.neg ≠ w.neg → z.neg = !mx)) := by
  dsimp only
  refine ⟨fun hv hw => ?_, fun h hp => ?_, fun hp => ⟨fun hv hw => ?_, fun hv hw => ?_⟩, fun hv hw => ?_⟩
  · simp only [Fmt.minmax, hv, hw, Bool.and_self, if_true]
  · have hor : ((t.decode x).isNan || (t.decode y).isNan) = true := Bool.or_eq_true_iff.2 h
    simp only [Fmt.minmax, hor, hp, Bool.and_self, if_true, ite_self]
  · simp only [Fmt.minmax, hv, hw, hp, Bool.and_false, Bool.false_and, Bool.false_eq_true, if_false, if_true]
  · simp only [Fmt.minmax, hv, hw, hp, Bool.false_and, Bool.false_eq_true, if_false, if_true]
  · obtain ⟨k, hk, hor, hmin, hmax⟩ := minmax_numbers hv hw mx prop
    have hz : (t.decode k).isNan = false := by rcases hor with rfl | rfl <;> assumption
    rw [hk]
    refine ⟨rfl, hor, fun h => ?_, fun h => ?_, fun zv zw hne => ?_⟩
    · obtain ⟨h1, h2⟩ := hmin h
      exact ⟨(of_rank_le hz hv h1).1, (of_rank_le hz hw h2).1⟩
    · obtain ⟨h1, h2⟩ := hmax h
      exact ⟨(of_rank_le hv hz h1).1, (of_rank_le hw hz h2).1⟩
    · have zz : (t.decode k).isZero = true := by rcases hor with rfl | rfl <;> assumption
      cases mx
      · obtain ⟨h1, h2⟩ := hmin rfl
        have hv' := (of_rank_le hz hv h1).2 zz zv
        have hw' := (of_rank_le hz hw h2).2 zz zw
        cases hvn : (t.decode x).neg
        · exact hw' (by rw [hvn] at hne; exact Bool.eq_true_of_not_eq_false (Ne.symm hne))
        · exact hv' hvn
      · obtain ⟨h1, h2⟩ := hmax rfl
        have hv' := (of_rank_le hv hz h1).2 zv zz
        have hw' := (of_rank_le hw hz h2).2 zw zz
        refine Bool.eq_false_iff.2 fun hn => hne ?_
        rw [hv' hn, hw' hn]

theorem conditions (c : FCond) (v w : FVal) :
    let un := v.isNan = true ∨ w.isNan = true
    (un → fcmpHolds c v w = decide (c = .ne ∨ c = .un)) ∧
    (¬un → (fcmpHolds .lt v w = true ↔ v.lt w) ∧ (fcmpHolds .gt v w = true ↔ w.lt v) ∧ (fcmpHolds .le v w = true ↔ ¬w.lt v) ∧
      (fcmpHolds .ge v w = true ↔ ¬v.lt w) ∧ (fcmpHolds .eq v w = true ↔ ¬v.lt w ∧ ¬w.lt v) ∧ (fcmpHolds .ne v w = true ↔ v.lt w ∨ w.lt v) ∧
      fcmpHolds .un v w = false ∧ fcmpHolds .ord v w = true) := by
  refine ⟨fun h => ?_, fun h => ?_⟩
  · have hun : (v.isNan || w.isNan) = true := Bool.or_eq_true_iff.2 h
    cases c <;> simp [fcmpHolds, hun]
  · obtain ⟨hv, hw⟩ := not_or.1 h
    have hv := Bool.eq_false_iff.2 hv
    have hw := Bool.eq_false_iff.2 hw
    obtain ⟨hlt, hgt⟩ := cmp_iff hv hw
    have heq := cmp_zero_iff hv hw
    have hun : (v.isNan || w.isNan) = false := by rw [hv, hw]; rfl
    simp only [fcmpHolds, hun, Bool.not_false, Bool.true_and, Bool.false_or, decide_eq_true_eq]
    refine ⟨hlt, hgt, ?_, ?_, heq, ?_, trivial, trivial⟩
    · rw [← hgt, not_lt]
    · rw [← hlt, not_lt]
    · rw [ne_eq, heq]
      tauto

/-! ## Conversions and classes (Tables 10.4, 10.5, 12.2, 12.3) -/

/-- The largest and the smallest integer of a conversion. -/
def topInt (u : Bool) : Int := if u then 0xFFFFFFFF else 0x7FFFFFFF

def botInt (u : Bool) : Int := if u then 0 else -0x80000000

theorem f2i_special (rm : RM) (u : Bool) (a : Word) :
    ((∃ q, f32 a = .nan q) → f2i rm u a = (0, FlagSet.inv)) ∧
    (f32 a = .inf false → f2i rm u a = ((topInt u).toNat, FlagSet.inv)) ∧
    (f32 a = .inf true → f2i rm u a = ((BitVec.ofInt 32 (botInt u)).toNat, FlagSet.inv)) := by
  refine ⟨fun ⟨q, h⟩ => ?_, fun h => ?_, fun h => ?_⟩
  · simp only [f2i, h]
  · simp only [f2i, h, Bool.false_eq_true, if_false]
    cases u <;> rfl
  · simp only [f2i, h, if_true]
    cases u <;> rfl

theorem f2i_number (rm : RM) (u : Bool) {a : Word} {n : Bool} {m : Nat} {e : Int} (h : f32 a = .fin n m e) : f2i rm u a =
    if topInt u < (FVal.toInt rm n m e).1 then ((topInt u).toNat, FlagSet.inv)
    else if (FVal.toInt rm n m e).1 < botInt u then ((BitVec.ofInt 32 (botInt u)).toNat, FlagSet.inv)
    else ((BitVec.ofInt 32 (FVal.toInt rm n m e).1).toNat, FlagSet.when (!(FVal.toInt rm n m e).2) FlagSet.nx) := by
  simp only [f2i, h]
  cases u <;> rfl

theorem frnd_number (rm : RM) {a : Word} {n : Bool} {m : Nat} {e : Int} (h : f32 a = .fin n m e) :
    frnd rm a = ((Fmt.fp32.round .rn n (FVal.toInt rm n m e).1.natAbs 0).1, 0) := by
  have habs : (FVal.toInt rm n m e).1.natAbs = (roundInt (rm == .rn) (roundsAway rm n) m e 0).1 := by
    rw [FVal.toInt]
    cases n <;> simp
  simp only [frnd, h, habs]

theorem i2f_eq (rm : RM) (u : Bool) (a : Word) :
    i2f rm u a = Fmt.fp32.round rm (!u && a.msb) (if u then a.toNat else a.toInt.natAbs) 0 := by
  cases u <;> rfl

theorem fclassBit_eq (a : Word) :
    let s := a.msb
    let E := (a.extractLsb' 23 8).toNat
    let F := (a.extractLsb' 0 23).toNat
    fclassBit a = if E = 255 then (if F = 0 then (if s then 0 else 7) else if a.getLsbD 22 then 9 else 8)
      else if E = 0 then (if F = 0 then (if s then 3 else 4) else if s then 2 else 5) else if s then 1 else 6 := by
  have hF := (a.extractLsb' 0 23).isLt
  have hq : a.getLsbD 22 = decide (¬(a.extractLsb' 0 23).toNat / 2 ^ 22 = 0) := by
    have hbit : a.getLsbD 22 = (a.extractLsb' 0 23).getLsbD 22 := by simp
    rw [hbit, BitVec.getLsbD, Nat.testBit_eq_decide_div_mod_eq]
    exact decide_eq_decide.2 (by omega)
  dsimp only
  rw [fclassBit, f32_eq, hq]
  generalize (a.extractLsb' 23 8).toNat = E
  generalize (a.extractLsb' 0 23).toNat = F at hF ⊢
  by_cases h255 : E = 255
  · rw [if_pos h255, if_pos h255]
    by_cases hF0 : F = 0
    · rw [if_pos hF0, if_pos hF0]
    · rw [if_neg hF0, if_neg hF0]
      by_cases hs : F / 2 ^ 22 = 0
      · rw [hs]
        rfl
      · rw [beq_false_of_ne hs, decide_eq_true hs]
        rfl
  · rw [if_neg h255, if_neg h255]
    by_cases h0 : E = 0
    · rw [if_pos h0, if_pos h0]
      exact if_congr Iff.rfl rfl (if_pos ⟨hF, rfl⟩)
    · rw [if_neg h0, if_neg h0]
      exact (if_neg (by omega)).trans (if_neg (by omega))

/-- The sign that FSGN gives. -/
def signGiven (op : SgnOp) (a b : Word) : Bool := match op with | .copy => b.msb | .ncopy => !b.msb | .xor => a.msb != b.msb

theorem fsgn_eq (op : SgnOp) (a b : Word) : fsgn op a b = BitVec.ofBool (signGiven op a b) ++ a.extractLsb' 0 31 := rfl

theorem fsgn_msb (op : SgnOp) (a b : Word) : (fsgn op a b).msb = signGiven op a b := by
  rw [fsgn_eq]
  refine (BitVec.msb_append (x := BitVec.ofBool (signGiven op a b)) (y := a.extractLsb' 0 31)).trans ?_
  cases signGiven op a b <;> rfl

theorem fsgn_low (op : SgnOp) (a b : Word) {i : Nat} (hi : i < 31) : (fsgn op a b).getLsbD i = a.getLsbD i := by
  rw [fsgn_eq]
  refine (BitVec.getLsbD_append (x := BitVec.ofBool (signGiven op a b)) (y := a.extractLsb' 0 31)).trans ?_
  rw [if_pos hi, BitVec.getLsbD_extractLsb', decide_eq_true hi, Nat.zero_add, Bool.true_and]

theorem conversions (g : Fmt × Nat × Nat × Bool) (rm : RM)
    (hg : g ∈ [(Fmt.fp32, 0x7FC00000, 0x7F7FFFFF, true), (Fmt.fp16, 0x7E00, 0x7BFF, true), (Fmt.bf16, 0x7FC0, 0x7F7F, true), (Fmt.e5m2, 0x7E, 0x7B, true),
      (Fmt.e4m3, 0x7F, 0x7E, false), (Fmt.e2m1, 0, 7, false)]) :
    let t := g.1
    (∀ sg, t.convert rm (.nan sg) = (g.2.1, FlagSet.when (sg || t == Fmt.e2m1) FlagSet.inv)) ∧
    (∀ n, t.convert rm (.inf n) = if g.2.2.2 then (t.signed n (g.2.2.1 + 1), 0) else (t.signed n g.2.2.1, FlagSet.ovf)) ∧
    ∀ n m e, t.convert rm (.fin n m e) = t.round rm n m e := by
  simp only [List.mem_cons, List.not_mem_nil, or_false] at hg
  rcases hg with rfl | rfl | rfl | rfl | rfl | rfl <;> exact ⟨fun _ => rfl, fun _ => rfl, fun _ _ _ => rfl⟩

/-- Settles O5: the forms by the common effect, sums and products by their operands, conversions by the integer that a value is rounded to. -/
theorem laneFloatResults : Obligations.LaneFloatResults := by
  refine ⟨fun o r e rm c p dir op prop u hi bf nb mx md => ?_, sums_and_products, fun t mx prop x y _ => extremes t mx prop x y, conditions,
    fun rm u a b => ?_, conversions, fun rm hi a d => ⟨rfl, rfl, rfl, rfl⟩⟩
  · exact ⟨laneSets_of_laneEff fun _ => rfl, laneSets_of_laneEff fun _ => rfl, laneSets_of_laneEff fun _ => rfl,
      laneSets_of_laneEff fun _ => rfl, laneSets_of_laneEff fun _ => rfl, laneSets_of_laneEff fun _ => rfl,
      laneSets_of_laneEff fun _ => rfl, laneSets_of_laneEff fun _ => rfl, laneSets_of_laneEff fun _ => rfl,
      laneSets_of_laneEff fun _ => rfl, laneSets_of_laneEff fun _ => rfl, laneSets_of_laneEff fun _ => rfl,
      laneSets_of_laneEff fun _ => rfl, laneSets_of_laneEff fun _ => rfl, laneSets_of_laneEff fun _ => rfl,
      laneSets_of_laneEff fun _ => rfl, laneSets_of_laneEff fun _ => rfl, laneSets_of_laneEff fun _ => rfl,
      laneSets_of_laneEff fun _ => rfl, laneSets_of_laneEff fun _ => rfl⟩
  · obtain ⟨h1, h2, h3⟩ := f2i_special rm u a
    refine ⟨h1, h2, h3, fun n m e h => ⟨(FVal.toInt rm n m e).1, ?_, ?_, frnd_number rm h⟩, i2f_eq rm u a, fclassBit_eq a, fsgn_msb .copy a b,
      fsgn_msb .ncopy a b, fsgn_msb .xor a b, fun op i hi => fsgn_low op a b hi⟩
    · rw [h]
      exact (toInt_rounds rm n m e).1
    · have hexact : (!(FVal.toInt rm n m e).2) = decide ((((FVal.toInt rm n m e).1 : Int) : Rat) ≠ (f32 a).rat) := by
        have hiff := (toInt_rounds rm n m e).2
        rw [h, Bool.eq_iff_iff, Bool.not_eq_true', decide_eq_true_eq, ne_eq, ← hiff, Bool.not_eq_true]
      rw [f2i_number rm u h, hexact]
      rfl

end Sys2Proof.Laws.LaneFloats
end


section
/-! Narrow elements and blocks (R236-R238, R243, R244, R290-R297): the encoders, the exact values of elements, dot products and folds. -/

namespace Sys2Proof.Laws.Narrow

open Sys2Proof Sys2Proof.Machine Sys2Proof.Laws Sys2Proof.Laws.PairsAndCounts Sys2Proof.Laws.LaneForms Sys2Proof.Laws.Numbers

/-! ## The largest magnitude of a block -/

/-- The number that a magnitude stands for. -/
def magRat (a : Nat × Int) : Rat := a.1 * (2 : Rat) ^ a.2

/-- A magnitude that no value of a block exceeds and that, unless it is 0, a finite value has. -/
def LargestMag (vs : List FVal) (a : Nat × Int) : Prop :=
  (∀ v ∈ vs, |v.rat| ≤ magRat a) ∧ (a.1 = 0 ∨ ∃ v ∈ vs, v.isInf = false ∧ |v.rat| = magRat a)

/-- The largest magnitude as both encoders find it. -/
def foldMag (vs : List FVal) : Nat × Int := vs.foldl (fun a v => magMax a v.finMag) (0, 0)

theorem magRat_fin (a : Nat × Int) : (FVal.fin false a.1 a.2).rat = magRat a := by
  rw [rat_fin]
  exact one_mul _

theorem magRat_finMag (v : FVal) : magRat v.finMag = |v.rat| := by
  cases v with
  | fin n m e => exact (abs_rat_fin n m e).symm
  | inf n => simp [FVal.finMag, magRat, FVal.rat]
  | nan q => simp [FVal.finMag, magRat, FVal.rat]

theorem magMax_eq (a b : Nat × Int) : magMax a b = if magRat a < magRat b then b else a := by
  rw [← magRat_fin, ← magRat_fin, magMax]
  exact if_congr (cmp_fin false false a.1 b.1 a.2 b.2).1 rfl rfl

theorem magRat_magMax (a b : Nat × Int) : magRat (magMax a b) = max (magRat a) (magRat b) := by
  rw [magMax_eq]
  split_ifs with h
  · exact (max_eq_right h.le).symm
  · exact (max_eq_left (not_lt.1 h)).symm

theorem magMax_picks (a b : Nat × Int) : magMax a b = a ∨ magMax a b = b := by
  rw [magMax_eq]
  split_ifs
  · exact .inr rfl
  · exact .inl rfl

theorem foldl_magMax (vs : List FVal) (a : Nat × Int) :
    let r := vs.foldl (fun a v => magMax a v.finMag) a
    magRat a ≤ magRat r ∧ (∀ v ∈ vs, |v.rat| ≤ magRat r) ∧ (r = a ∨ ∃ v ∈ vs, r = v.finMag) := by
  induction vs generalizing a with
  | nil => exact ⟨le_rfl, nofun, .inl rfl⟩
  | cons w ws ih =>
    obtain ⟨hstart, hall, hpick⟩ := ih (magMax a w.finMag)
    rw [magRat_magMax, max_le_iff, magRat_finMag] at hstart
    refine ⟨hstart.1, List.forall_mem_cons.2 ⟨hstart.2, hall⟩, ?_⟩
    rw [List.foldl_cons]
    rcases hpick with h | ⟨v, hv, h⟩
    · exact (magMax_picks a w.finMag).imp h.trans fun hw => ⟨w, List.mem_cons_self, h.trans hw⟩
    · exact .inr ⟨v, List.mem_cons_of_mem w hv, h⟩

theorem largestMag_foldMag (vs : List FVal) : LargestMag vs (foldMag vs) := by
  obtain ⟨-, hall, hpick⟩ := foldl_magMax vs (0, 0)
  refine ⟨hall, ?_⟩
  rcases hpick with h | ⟨v, hv, h⟩
  · exact .inl (congrArg Prod.fst h)
  · have hrat : |v.rat| = magRat (foldMag vs) := (magRat_finMag v).symm.trans (congrArg magRat h.symm)
    cases hinf : v.isInf with
    | false => exact .inr ⟨v, hv, hinf, hrat⟩
    | true =>
      refine .inl ((congrArg Prod.fst h).trans ?_)
      cases v with
      | inf n => rfl
      | nan q => rfl
      | fin n m e => exact nomatch hinf

/-! ## The encoders (R243, R244) -/

theorem any_isNan {vs : List FVal} : vs.any FVal.isNan = true ↔ ∃ v ∈ vs, v.isNan = true := List.any_eq_true

theorem foldl_flags (rs : List (Nat × FlagSet)) (f : FlagSet) (j : Nat) :
    (rs.foldl (fun f r => f ||| r.2) f).getLsbD j = (f.getLsbD j || rs.any fun r => r.2.getLsbD j) := by
  induction rs generalizing f with
  | nil => simp
  | cons r rs ih => rw [List.foldl_cons, ih, BitVec.getLsbD_or, List.any_cons, Bool.or_assoc]

theorem flagsOf_getLsbD (vs : List FVal) (f : FVal → Nat × FlagSet) (j : Nat) :
    (flagsOf (vs.map f)).getLsbD j = vs.any fun v => (f v).2.getLsbD j := by
  rw [flagsOf, foldl_flags, List.any_map]
  simp [Function.comp_def]

/-- The exponent of a magnitude is that of its number, wherever the point of its whole part stands. -/
theorem log2_of_binade {a : Nat × Int} {k : Int} (hlo : (2 : Rat) ^ k ≤ magRat a) (hhi : magRat a < (2 : Rat) ^ (k + 1)) :
    a.1 ≠ 0 ∧ (Nat.log2 a.1 : Int) + a.2 = k := by
  have h0 : a.1 ≠ 0 := fun h => by
    have hpos := two_zpow_pos k
    rw [magRat, h, Nat.cast_zero, zero_mul] at hlo
    exact absurd hlo (not_le.2 hpos)
  have hl : (2 : Rat) ^ (Nat.log2 a.1 : Int) ≤ a.1 := by
    rw [zpow_natCast]
    exact_mod_cast Nat.log2_self_le h0
  have hu : (a.1 : Rat) < (2 : Rat) ^ ((Nat.log2 a.1 : Int) + 1) := by
    exact_mod_cast Nat.lt_log2_self
  have hml := mul_le_mul_of_nonneg_right hl (two_zpow_pos a.2).le
  have hmu := mul_lt_mul_of_pos_right hu (two_zpow_pos a.2)
  rw [← zpow_add₀ two_ne_zero] at hml hmu
  have hlt1 := (zpow_lt_zpow_iff_right₀ (one_lt_two (α := Rat))).1 (hml.trans_lt hhi)
  have hlt2 := (zpow_lt_zpow_iff_right₀ (one_lt_two (α := Rat))).1 (hlo.trans_lt hmu)
  exact ⟨h0, by omega⟩

theorem mxScale_zero (t : Fmt) {a : Nat × Int} (h : a.1 = 0) : mxScale t a = 0 := if_pos h

theorem mxScale_binade {t : Fmt} {a : Nat × Int} {k : Int} (hlo : (2 : Rat) ^ k ≤ magRat a) (hhi : magRat a < (2 : Rat) ^ (k + 1)) :
    mxScale t a = (max (-127) (min 127 (k - mxEmax t)) + 127).toNat := by
  obtain ⟨h0, hk⟩ := log2_of_binade hlo hhi
  rw [mxScale, if_neg h0, hk]

theorem mxEnc_nan (t : Fmt) {vs : List FVal} (h : ∃ v ∈ vs, v.isNan = true) :
    mxEnc t vs = (vs.map fun _ => 0, 255, FlagSet.when (vs.any FVal.signalling) FlagSet.inv) := if_pos (any_isNan.2 h)

theorem mxEnc_numbers (t : Fmt) {vs : List FVal} (h : ¬∃ v ∈ vs, v.isNan = true) :
    mxEnc t vs = ((vs.map (mxElem t (mxScale t (foldMag vs)))).map Prod.fst, mxScale t (foldMag vs),
      flagsOf (vs.map (mxElem t (mxScale t (foldMag vs))))) := if_neg (mt any_isNan.1 h)

theorem dxEnc_nan (four : Bool) (delta : Nat) {vs : List FVal} (h : ∃ v ∈ vs, v.isNan = true) :
    dxEnc four delta vs = (vs.map fun _ => 0, 255, 255, FlagSet.when (vs.any FVal.signalling) FlagSet.inv) := if_pos (any_isNan.2 h)

theorem dxEnc_numbers (four : Bool) (delta : Nat) {vs : List FVal} (h : ¬∃ v ∈ vs, v.isNan = true) :
    dxEnc four delta vs = ((vs.map (dxElem four (dxHi four (foldMag vs)) (dxHi four (foldMag vs) - delta))).map Prod.fst, dxHi four (foldMag vs),
      dxHi four (foldMag vs) - delta, flagsOf (vs.map (dxElem four (dxHi four (foldMag vs)) (dxHi four (foldMag vs) - delta)))) :=
  if_neg (mt any_isNan.1 h)

theorem dxSearch_spec (M : Nat) (a : Nat × Int) (e n : Nat) :
    let r := dxSearch M a e n
    e ≤ r ∧ r ≤ e + n ∧ (r < e + n → (dxRne a r).1 ≤ M) ∧ ∀ E, e ≤ E → E < r → M < (dxRne a E).1 := by
  induction n generalizing e with
  | zero => exact ⟨le_rfl, le_rfl, fun h => absurd h (lt_irrefl _), fun E h1 h2 => absurd h2 (not_lt.2 h1)⟩
  | succ n ih =>
    rw [dxSearch]
    by_cases hfit : (dxRne a e).1 ≤ M
    · rw [if_pos hfit]
      exact ⟨le_rfl, by omega, fun _ => hfit, fun E h1 h2 => absurd h2 (not_lt.2 h1)⟩
    · rw [if_neg hfit]
      obtain ⟨hlo, hhi, hfits, hbelow⟩ := ih (e + 1)
      refine ⟨by omega, by omega, fun h => hfits (by omega), fun E h1 h2 => ?_⟩
      rcases Nat.eq_or_lt_of_le h1 with rfl | hlt
      · exact Nat.lt_of_not_le hfit
      · exact hbelow E hlt h2

theorem dxHi_spec (four : Bool) {a : Nat × Int} (h0 : a.1 ≠ 0) :
    dxHi four a ≤ dxEmax four ∧ (dxHi four a < dxEmax four → (dxRne a (dxHi four a)).1 ≤ dxM four) ∧
      ∀ E, E < dxHi four a → dxM four < (dxRne a E).1 := by
  obtain ⟨-, hhi, hfits, hbelow⟩ := dxSearch_spec (dxM four) a 0 (dxEmax four)
  rw [Nat.zero_add] at hhi hfits
  rw [dxHi, if_neg h0]
  exact ⟨hhi, hfits, fun E h => hbelow E (Nat.zero_le E) h⟩

/-- The fold over one value gives its magnitude, or 0. -/
theorem foldMag_singleton (v : FVal) : foldMag [v] = v.finMag ∨ (foldMag [v]).1 = 0 ∧ v.finMag.1 = 0 := by
  have hfold : foldMag [v] = if magRat (0, 0) < magRat v.finMag then v.finMag else (0, 0) := magMax_eq (0, 0) v.finMag
  rw [hfold]
  split_ifs with h
  · exact .inl rfl
  · refine .inr ⟨rfl, ?_⟩
    rw [magRat, Nat.cast_zero, zero_mul, magRat, not_lt] at h
    by_contra hm
    exact absurd h (not_le.2 (mul_pos (Nat.cast_pos.2 (Nat.pos_of_ne_zero hm)) (two_zpow_pos _)))

theorem mxScale_singleton (t : Fmt) (v : FVal) : mxScale t (foldMag [v]) = mxScale t v.finMag := by
  rcases foldMag_singleton v with h | ⟨h, h'⟩
  · rw [h]
  · rw [mxScale_zero t h, mxScale_zero t h']

theorem dxHi_singleton (four : Bool) (v : FVal) : dxHi four (foldMag [v]) = dxHi four v.finMag := by
  rcases foldMag_singleton v with h | ⟨h, h'⟩
  · rw [h]
  · exact (if_pos h).trans (if_pos h').symm

/-! ## The values of elements (R236-R238) -/

theorem scale_number {x : FVal} (h : x.isNan = false) (k : Int) :
    (x.scale k).isNan = false ∧ (x.scale k).neg = x.neg ∧ (x.scale k).rat = x.rat * (2 : Rat) ^ k := by
  cases x with
  | nan q => exact nomatch h
  | inf n => exact ⟨rfl, rfl, (zero_mul _).symm⟩
  | fin n m e =>
    refine ⟨rfl, rfl, ?_⟩
    change (FVal.fin n m (e + k)).rat = _
    rw [rat_fin, rat_fin, zpow_add₀ two_ne_zero, mul_assoc, mul_assoc]

theorem scale_isNan (x : FVal) (k : Int) : (x.scale k).isNan = x.isNan := by
  cases x <;> rfl

theorem mul_finite {x y : FVal} (hx : x.isNan = false) (hx' : x.isInf = false) (hy : y.isNan = false) (hy' : y.isInf = false) :
    (x.mul y).rat = x.rat * y.rat ∧ (x.mul y).neg = (x.neg != y.neg) := by
  cases x with
  | nan q => exact nomatch hx
  | inf n => exact nomatch hx'
  | fin n m e =>
    cases y with
    | nan q => exact nomatch hy
    | inf n => exact nomatch hy'
    | fin n' m' e' =>
      refine ⟨?_, rfl⟩
      change (FVal.fin (n != n') (m * m') (e + e')).rat = _
      have hsign : signOf (n != n') = signOf n * signOf n' := by cases n <;> cases n' <;> simp [signOf]
      rw [rat_fin, rat_fin, rat_fin, hsign, zpow_add₀ two_ne_zero, Nat.cast_mul]
      ring

theorem mxVal_nan (t : Fmt) (c : Nat) : mxVal t 255 c = .nan false := if_pos rfl

theorem mxVal_scale (t : Fmt) {X : Nat} (h : X ≠ 255) (c : Nat) : mxVal t X c = (t.decode c).scale ((X : Int) - 127) := if_neg h

theorem dxVal_nan (four : Bool) {hi lo : Nat} (h : hi = 255 ∨ lo = 255) (c : Nat) : dxVal four hi lo c = .nan false := if_pos h

theorem dxVal_number (four : Bool) {hi lo : Nat} (h : ¬(hi = 255 ∨ lo = 255)) (c : Nat) :
    dxVal four hi lo c = .fin (decide (c / (dxM four + 1) % 2 = 1)) (c % (dxM four + 1))
      ((if c / (2 * (dxM four + 1)) % 2 = 1 then (hi : Int) else lo) - 127) := by
  refine (if_neg h).trans ?_
  rw [beq_eq_decide]

/-! ## The obligation -/

/-- The element of R243 under a scale: a finite value is rounded, an infinity saturates. -/
def mxGiven (t : Fmt) (X : Nat) (v : FVal) : Nat × FlagSet := match v with
  | .nan _ => (0, 0)
  | .inf n => (t.signed n t.maxCode, FlagSet.ovf)
  | .fin n m e => t.round .rn n m (e + (127 - (X : Int)))

theorem mxElem_eq {t : Fmt} (ht : t.inf = none) (X : Nat) {v : FVal} (hv : v.isNan = false) : mxElem t X v = mxGiven t X v := by
  cases v with
  | nan q => exact nomatch hv
  | inf n =>
    change (if t.inf.isSome then t.roundInf n else (t.signed n t.maxCode, FlagSet.ovf)) = _
    rw [ht]
    rfl
  | fin n m e => rfl

theorem mxEncoder (t : Fmt) (emax : Int) (vs : List FVal) (h : (t, emax) ∈ [(Fmt.e4m3, 8), (Fmt.e2m1, 2)]) :
    let r := mxEnc t vs
    let nan := ∃ v ∈ vs, v.isNan = true
    (nan → r = (vs.map fun _ => 0, 255, FlagSet.when (vs.any FVal.signalling) FlagSet.inv)) ∧
    (¬nan → r.1 = vs.map (fun v => (mxGiven t r.2.1 v).1) ∧ (∀ j, r.2.2.getLsbD j = vs.any fun v => (mxGiven t r.2.1 v).2.getLsbD j) ∧
      ∃ a, LargestMag vs a ∧ (a.1 = 0 → r.2.1 = 0) ∧
        ∀ k : Int, (2 : Rat) ^ k ≤ magRat a → magRat a < (2 : Rat) ^ (k + 1) → r.2.1 = (max (-127) (min 127 (k - emax)) + 127).toNat) := by
  obtain ⟨hinf, hemax⟩ : t.inf = none ∧ mxEmax t = emax := by
    simp only [List.mem_cons, Prod.mk.injEq, List.not_mem_nil, or_false] at h
    rcases h with ⟨rfl, rfl⟩ | ⟨rfl, rfl⟩ <;> exact ⟨rfl, rfl⟩
  dsimp only
  refine ⟨mxEnc_nan t, fun hn => ?_⟩
  have helem : ∀ v ∈ vs, mxElem t (mxScale t (foldMag vs)) v = mxGiven t (mxScale t (foldMag vs)) v :=
    fun v hv => mxElem_eq hinf _ (Bool.eq_false_iff.2 fun hnan => hn ⟨v, hv, hnan⟩)
  rw [mxEnc_numbers t hn]
  dsimp only
  refine ⟨?_, fun j => ?_, foldMag vs, largestMag_foldMag vs, mxScale_zero t, fun k hlo hhi => hemax ▸ mxScale_binade hlo hhi⟩
  · rw [List.map_map]
    exact List.map_congr_left fun v hv => congrArg Prod.fst (helem v hv)
  · rw [List.map_congr_left helem, flagsOf_getLsbD]

theorem dxEncoder (four : Bool) (delta : Nat) (vs : List FVal) :
    let r := dxEnc four delta vs
    let nan := ∃ v ∈ vs, v.isNan = true
    (nan → r = (vs.map fun _ => 0, 255, 255, FlagSet.when (vs.any FVal.signalling) FlagSet.inv)) ∧
    (¬nan → r.1 = vs.map (fun v => (dxElem four r.2.1 r.2.2.1 v).1) ∧
      (∀ j, r.2.2.2.getLsbD j = vs.any fun v => (dxElem four r.2.1 r.2.2.1 v).2.getLsbD j) ∧ r.2.2.1 = r.2.1 - delta ∧
      ∃ a, LargestMag vs a ∧ (a.1 = 0 → r.2.1 = 0) ∧
        (a.1 ≠ 0 → r.2.1 ≤ dxEmax four ∧ (r.2.1 < dxEmax four → (dxRne a r.2.1).1 ≤ dxM four) ∧ ∀ E, E < r.2.1 → dxM four < (dxRne a E).1)) := by
  dsimp only
  refine ⟨dxEnc_nan four delta, fun hn => ?_⟩
  rw [dxEnc_numbers four delta hn]
  refine ⟨?_, fun j => flagsOf_getLsbD vs _ j, rfl, foldMag vs, largestMag_foldMag vs, fun h => if_pos h, dxHi_spec four⟩
  dsimp only
  rw [List.map_map]
  rfl

theorem qdot_values (four dx : Bool) (rm : RM) (sa sb : Nat) (a b sc d : Word) :
    let el := fun (w : Word) (i j : Nat) => elemVal four dx w sc i j
    let r := qdot four dx rm sa sb a b sc d
    let n := if four then 8 else 4
    let nan := (∃ k, k < n ∧ ((el a k sa).isNan = true ∨ (el b k sb).isNan = true)) ∨ (f32 d).isNan = true
    (nan → r = (0x7FC00000, FlagSet.when (f32 d).signalling FlagSet.inv)) ∧ (¬nan → (f32 d).isInf = true → r = (d.toNat, 0)) ∧
    (¬nan → (f32 d).isInf = false → r = Fmt.fp32.sum rm (f32 d :: (span 0 n).map fun k => (el a k sa).mul (el b k sb))) := by
  dsimp only
  have hnan : (((span 0 (if four then 8 else 4)).map fun i => (elemVal four dx a sc i sa, elemVal four dx b sc i sb)).any
      (fun p => p.1.isNan || p.2.isNan) || (f32 d).isNan) = true ↔
      (∃ k, k < (if four then 8 else 4) ∧ ((elemVal four dx a sc k sa).isNan = true ∨ (elemVal four dx b sc k sb).isNan = true)) ∨
        (f32 d).isNan = true := by
    simp [Rules.mem_span]
  refine ⟨fun h => if_pos (hnan.2 h), fun h hi => (if_neg (mt hnan.1 h)).trans (if_pos hi), fun h hi => ?_⟩
  refine ((if_neg (mt hnan.1 h)).trans (if_neg (Bool.eq_false_iff.1 hi))).trans ?_
  rw [List.map_map]
  rfl

theorem bmax_values (a b : Word) :
    ((f32 a).isNan = true ∨ (f32 b).isNan = true → bmax a b = (0x7FC00000, FlagSet.when ((f32 a).signalling || (f32 b).signalling) FlagSet.inv)) ∧
    ((f32 a).isNan = false → (f32 b).isNan = false → ∃ m e, (FVal.fin false m e).rat = max |(f32 a).rat| |(f32 b).rat| ∧
      bmax a b = Fmt.fp32.round .rn false m e) := by
  refine ⟨fun h => if_pos (Bool.or_eq_true_iff.2 h), fun ha hb => ⟨_, _, ?_, if_neg (by rw [ha, hb]; exact Bool.false_ne_true)⟩⟩
  rw [magRat_fin, magRat_magMax, magRat_finMag, magRat_finMag]

theorem dxexp_values (delta : Nat) (a : Word) :
    (dxexp .mxfp8 delta a).1 = (mxEnc Fmt.e4m3 [f32 a]).2.1 ∧ (dxexp .mxfp4 delta a).1 = (mxEnc Fmt.e2m1 [f32 a]).2.1 ∧
    ∀ y ∈ [(DxKind.dxb8, false), (.dxb4, true)],
      (dxexp y.1 delta a).1 = (dxEnc y.2 delta [f32 a]).2.2.1 * 256 + (dxEnc y.2 delta [f32 a]).2.1 := by
  simp only [List.forall_mem_cons, List.not_mem_nil, false_implies, implies_true, and_true]
  cases hn : (f32 a).isNan with
  | true =>
    have hany : ∃ v ∈ [f32 a], v.isNan = true := ⟨f32 a, List.mem_singleton_self _, hn⟩
    simp [dxexp, hn, mxEnc_nan _ hany, dxEnc_nan _ _ hany]
  | false =>
    have hany : ¬∃ v ∈ [f32 a], v.isNan = true := by simp [hn]
    simp [dxexp, hn, mxEnc_numbers _ hany, dxEnc_numbers _ _ hany, mxScale_singleton, dxHi_singleton]

/-- Settles O6: the forms by the common effect, the encoders by the largest magnitude of a block, the rest by its exact values. -/
theorem laneNarrowResults : Obligations.LaneNarrowResults := by
  refine ⟨fun o e q rm k8 k4 kx rz e5 four p2 p3 delta sr => ?_, fun vs t emax four delta => ⟨mxEncoder t emax vs, ?_⟩,
    fun a b sc d four dx rm sa sb delta i j x y => ⟨?_, ?_, mul_finite, qdot_values four dx rm sa sb a b sc d, (bmax_values a b).1,
      (bmax_values a b).2, dxexp_values delta a⟩⟩
  · exact ⟨laneSets_of_laneEff fun _ => rfl, laneSets_of_laneEff fun _ => rfl, laneSets_of_laneEff fun _ => rfl,
      laneSets_of_laneEff fun _ => rfl, laneSets_of_laneEff fun _ => rfl, laneSets_of_laneEff fun _ => rfl,
      laneSets_of_laneEff fun _ => rfl, laneSets_of_laneEff fun _ => rfl, laneSets_of_laneEff fun _ => rfl⟩
  · exact dxEncoder four delta vs
  · intro hdx
    subst hdx
    refine ⟨fun hX => ?_, fun hX hdec hx => ?_, fun hX hdec hx => ?_⟩
    · exact congrArg FVal.isNan ((congrArg (mxVal _ · _) hX).trans (mxVal_nan _ _))
    · rw [← hdec] at hx
      exact (congrArg FVal.isNan (mxVal_scale _ hX _)).trans ((scale_isNan _ _).trans hx)
    · subst hdec
      have helem := mxVal_scale (if four then Fmt.e2m1 else Fmt.e4m3) hX (if four then field a.toNat (4 * i) 4 else field a.toNat (8 * i) 8)
      have hnum := scale_number hx ((byteOf sc j : Int) - 127)
      rw [← helem] at hnum
      exact hnum
  · intro hdx
    subst hdx
    refine ⟨fun h => congrArg FVal.isNan (dxVal_nan four h _), fun hX hY => ?_⟩
    have helem := dxVal_number four (not_or.2 ⟨hX, hY⟩) (if four then field a.toNat (4 * i) 4 else field a.toNat (8 * i) 8)
    refine ⟨congrArg FVal.isNan helem, congrArg FVal.neg helem, (congrArg FVal.rat helem).trans ((rat_fin _ _ _).trans ?_)⟩
    rw [signOf, ← mul_assoc]
    simp only [decide_eq_true_eq]
    rfl

end Sys2Proof.Laws.Narrow
end


section
/-! Memory is written by a few operations only: the accesses, the lane, the synchronising objects and launches leave it as it is. -/

namespace Sys2Proof.Laws.CanonicalForm

open Sys2Proof Sys2Proof.Machine Sys2Proof.Laws.Storing

/-! ## Folds and outcomes -/

/-- Whatever an outcome answers next has its memory in canonical form. -/
def ResWf (r : Res) : Prop := match r with | .next s => Memory.wf s.mem = true | _ => True

@[simp] theorem resWf_next (s : State) : ResWf (.next s) ↔ Memory.wf s.mem = true := Iff.rfl

@[simp] theorem resWf_fault (r) : ResWf (.fault r) := trivial

@[simp] theorem resWf_refused (r) : ResWf (.refused r) := trivial

theorem foldl_mem {α : Type*} {g : State → α → State} (h : ∀ s a, (g s a).mem = s.mem) (l : List α) (s : State) : (l.foldl g s).mem = s.mem := by
  induction l generalizing s with
  | nil => rfl
  | cons a r ih => rw [List.foldl_cons, ih, h]

theorem foldl_wf {α : Type*} {g : State → α → State} (hg : ∀ s a, Memory.wf s.mem = true → Memory.wf (g s a).mem = true) (l : List α) {s : State}
    (h : Memory.wf s.mem = true) : Memory.wf (l.foldl g s).mem = true := by
  induction l generalizing s with
  | nil => exact h
  | cons a r ih => exact ih (hg s a h)

/-! ## Accesses, stops, spilled threads, groups of the wave former -/

@[simp] theorem State.seen_mem (s : State) (pa n) : (s.seen pa n).mem = s.mem := rfl

@[simp] theorem State.unspillThread_mem (s : State) (t tid) : (s.unspillThread t tid).mem = s.mem := by
  simp only [State.unspillThread]
  repeat' split
  all_goals simp

@[simp] theorem State.restartSteer_mem (s : State) (t T r) : (s.restartSteer t T r).mem = s.mem := rfl

@[simp] theorem State.sendRdma_mem (s : State) (conn addr data) : (s.sendRdma conn addr data).mem = s.mem := by
  simp only [State.sendRdma]
  repeat' split
  all_goals simp

@[simp] theorem State.toBroker_mem (s : State) (peer m) : (s.toBroker peer m).mem = s.mem := rfl

@[simp] theorem State.post_mem (s : State) (peer m i) : (s.post peer m i).mem = s.mem := by
  unfold State.post
  split <;> simp

@[simp] theorem State.toGang_mem (s : State) (grid m) : (s.toGang grid m).mem = s.mem := by
  rw [State.toGang]
  split
  · exact foldl_mem (fun _ _ => State.toBroker_mem ..) _ _
  · rfl

/-! ## Banks and their power -/

@[simp] theorem State.modBank_mem (s : State) (k f) : (s.modBank k f).mem = s.mem := rfl

@[simp] theorem State.setPhase_mem (s : State) (c p) : (s.setPhase c p).mem = s.mem := rfl

@[simp] theorem State.settlePhase_mem (s : State) (ctx) : (s.settlePhase ctx).mem = s.mem := by
  simp only [State.settlePhase]
  repeat' split
  all_goals simp

@[simp] theorem State.writePhase_mem (s : State) (ctx ph lead) : (s.writePhase ctx ph lead).mem = s.mem := by
  simp only [State.writePhase]
  split_ifs
  · simp
  · exact (foldl_mem (fun _ _ => State.modBank_mem ..) _ _).trans (by simp)
  · simp
  · simp

@[simp] theorem State.bankOn_mem (s : State) (k) : (s.bankOn k).mem = s.mem := by
  simp only [State.bankOn]
  split <;> simp

@[simp] theorem State.bankOff_mem (s : State) (k) : (s.bankOff k).mem = s.mem := by
  simp only [State.bankOff]
  repeat' split
  all_goals simp

@[simp] theorem State.bankInuse_mem (s : State) (k) : (s.bankInuse k).mem = s.mem := by
  simp only [State.bankInuse]
  split <;> simp

@[simp] theorem State.bankOp_mem (s : State) (k op) : (s.bankOp k op).mem = s.mem := by
  unfold State.bankOp
  split <;> simp

@[simp] theorem State.bankIssue_mem (s : State) (k op) : (s.bankIssue k op).mem = s.mem := by
  unfold State.bankIssue
  split <;> simp

@[simp] theorem State.offNow_mem (s : State) (k) : (s.offNow k).mem = s.mem := by
  rw [State.offNow]
  split
  · exact foldl_mem (fun _ _ => State.bankOp_mem ..) _ _
  · rfl

@[simp] theorem State.findError_mem (s : State) (line bad) : (s.findError line bad).mem = s.mem := by
  simp only [State.findError]
  repeat' split
  all_goals simp

/-! ## Fetching -/

@[simp] theorem State.readCode_mem (s : State) (grid pa) : (s.readCode grid pa).1.mem = s.mem := by
  unfold State.readCode
  split <;> simp

@[simp] theorem State.codeWord_mem (s : State) (T va) : (s.codeWord T va).1.mem = s.mem := by
  grind [State.codeWord, State.judgeLoad_mem, State.readCode_mem]

@[simp] theorem State.codeWords_mem (s : State) (T va x) : (s.codeWords T va x).1.mem = s.mem := by
  induction x generalizing s va with
  | zero => rfl
  | succ n ih => grind [State.codeWords, State.codeWord_mem]

@[simp] theorem State.dictEntries_mem (s : State) (T x) : (s.dictEntries T x).1.mem = s.mem := by
  induction x generalizing s with
  | nil => rfl
  | cons c r ih => grind [State.dictEntries, State.codeWord_mem]

@[simp] theorem State.fetchClause_mem (s : State) (T st h) : (s.fetchClause T st h).1.mem = s.mem := by
  simp only [State.fetchClause]
  repeat' split
  all_goals grind [State.codeWord_mem, State.codeWords_mem, State.dictEntries_mem]

/-! ## The frames of the lane instructions -/

@[simp] theorem State.lateLane_mem (s : State) (t T tid th la dregs dpreds regs preds flags) :
    (s.lateLane t T tid th la dregs dpreds regs preds flags).mem = s.mem :=
  rfl

@[simp] theorem State.steerWait_mem (s : State) (t T b) : (s.steerWait t T b).mem = s.mem := rfl

@[simp] theorem State.steerOn_mem (s : State) (t) : (s.steerOn t).mem = s.mem := rfl

@[simp] theorem State.steerStall_mem (s : State) (t T) : (s.steerStall t T).mem = s.mem := rfl

@[simp] theorem State.lateSteer_mem (s : State) (t T dregs regs lst) : (s.lateSteer t T dregs regs lst).mem = s.mem := rfl

/-! ## Windows, transactions and requests -/

@[simp] theorem State.park_mem (s : State) (t T tid th o) : (s.park t T tid th o).mem = s.mem := rfl

@[simp] theorem State.readCtx_mem (s : State) (ctx cl fuel va n b) : (s.readCtx ctx cl fuel va n b).1.mem = s.mem := by
  induction fuel generalizing s va n with
  | zero => rfl
  | succ fuel ih =>
    simp only [State.readCtx]
    split
    · rfl
    · split
      · simp
      · simp
      · split <;> simp [ih]

@[simp] theorem State.readGroup_mem (s : State) (ctx cl g b) : (s.readGroup ctx cl g b).1.mem = s.mem := by grind [State.readGroup, State.readCtx_mem]

@[simp] theorem State.winEntry_mem (s : State) (ctx cl h) : (s.winEntry ctx cl h).1.mem = s.mem := by grind [State.winEntry, State.readCtx_mem]

@[simp] theorem State.winCheck_mem (s : State) (T q) : (s.winCheck T q).1.mem = s.mem := by
  have hentry := State.winEntry_mem s T.ctx T.cluster q.handle.toNat
  rw [State.winCheck]
  rcases hr : s.winEntry T.ctx T.cluster q.handle.toNat with ⟨s0, e | f⟩
  · rw [hr] at hentry
    dsimp only
    set s1 := s0.rrcDrop fun l => l.ctx == T.ctx && l.handle == q.handle && l.wver != field e 48 8
    have hgroup := State.readGroup_mem s1 T.ctx T.cluster (field e 56 8) 0
    split
    · exact hentry
    split
    · repeat' split
      all_goals exact hentry
    split
    · repeat' split
      all_goals exact hentry
    · split
      · rename_i heq
        rw [heq] at hgroup
        repeat' split
        all_goals exact hgroup.trans hentry
      · rename_i heq
        rw [heq] at hgroup
        exact hgroup.trans hentry
      · rename_i heq
        rw [heq] at hgroup
        exact hgroup.trans hentry
  · rw [hr] at hentry
    exact hentry

@[simp] theorem State.putTx_mem (s : State) (id x) : (s.putTx id x).mem = s.mem := by
  simp only [State.putTx]
  repeat' split
  all_goals simp

@[simp] theorem State.launchTx_mem (s : State) (id x) : (s.launchTx id x).mem = s.mem := by
  rw [State.launchTx]
  split
  · exact foldl_mem (fun _ _ => by simp) _ _
  · simp

@[simp] theorem State.newTx_mem (s : State) (x) : (s.newTx x).mem = s.mem := by simp [State.newTx]

@[simp] theorem State.accessDone_mem (s : State) (x tid) : (s.accessDone x tid).mem = s.mem := by
  unfold State.accessDone
  split <;> simp

@[simp] theorem State.goAhead_mem (s : State) (id) : (s.goAhead id).mem = s.mem := by
  simp only [State.goAhead]
  repeat' split
  all_goals simp

@[simp] theorem State.targetLoad_mem (s : State) (ctx cl va n fill b) : (s.targetLoad ctx cl va n fill b).1.mem = s.mem := by
  grind [State.targetLoad, State.judgeLoad_mem]

@[simp] theorem State.uncredit_mem (s : State) (aid ctx box) : (s.uncredit aid ctx box).mem = s.mem := rfl

@[simp] theorem State.sendRecord_mem (s : State) (t tid th m aid ctx key box at0) : (s.sendRecord t tid th m aid ctx key box at0).mem = s.mem := by
  simp [State.sendRecord]

@[simp] theorem State.rrcWrite_mem (s : State) (ctx h off len) : (s.rrcWrite ctx h off len).mem = s.mem := rfl

@[simp] theorem State.rrcFill_mem (s : State) (ctx h wver off data) : (s.rrcFill ctx h wver off data).mem = s.mem := by simp [State.rrcFill]

@[simp] theorem State.endTxs_mem (s : State) (ids) : (s.endTxs ids).mem = s.mem := rfl

@[simp] theorem State.dropAccess_mem (s : State) (id x) : (s.dropAccess id x).mem = s.mem := by
  unfold State.dropAccess
  split <;> simp

@[simp] theorem State.recordRefused_mem (s : State) (x r) : (s.recordRefused x r).mem = s.mem := by
  unfold State.recordRefused
  split <;> simp

/-! ## Rays -/

@[simp] theorem State.rayLocal_mem (s : State) (T a n al) : (s.rayLocal T a n al).1.mem = s.mem := by
  grind [State.rayLocal, State.readCtx_mem]

@[simp] theorem State.rayRemote_mem (s : State) (T known h paid a n al) : (s.rayRemote T known h paid a n al).1.mem = s.mem := by
  grind [State.rayRemote, State.winCheck_mem]

@[simp] theorem State.rayRecord_mem (s : State) (T known sp a n al) : (s.rayRecord T known sp a n al).1.mem = s.mem := by
  unfold State.rayRecord
  split <;> simp

theorem rayLeaf_mem (T known sp r any n a acc) : (rayLeaf T known sp r any n a acc).s.mem = acc.s.mem := by
  induction n generalizing a acc with
  | zero => rfl
  | succ n ih =>
    have hrec := State.rayRecord_mem acc.s T known sp a 48 16
    rw [rayLeaf]
    split
    · rfl
    · rcases hr : acc.s.rayRecord T known sp a 48 16 with ⟨s1, bs | x⟩
      · rw [hr] at hrec
        dsimp only
        rw [ih]
        split <;> exact hrec
      · rw [hr] at hrec
        exact hrec

/-- A fold of steps that keep the memory of a search keeps it. -/
theorem foldl_acc_mem {α : Type} {g : RayAcc → α → RayAcc} (h : ∀ acc a, (g acc a).s.mem = acc.s.mem) (l : List α) (acc : RayAcc) :
    (l.foldl g acc).s.mem = acc.s.mem := by
  induction l generalizing acc with
  | nil => rfl
  | cons a r ih => rw [List.foldl_cons, ih, h]

theorem rayNode_mem (T known any fuel sp r a acc) : (rayNode T known any fuel sp r a acc).s.mem = acc.s.mem := by
  induction fuel using Nat.strong_induction_on generalizing sp r a acc with
  | _ fuel ih =>
    cases fuel with
    | zero => rw [rayNode]
    | succ fuel =>
      have hrec := State.rayRecord_mem acc.s T known sp a 64 64
      rw [rayNode]
      split
      · rfl
      · rcases hr : acc.s.rayRecord T known sp a 64 64 with ⟨s1, bs | x⟩
        · rw [hr] at hrec
          refine (foldl_acc_mem (fun acc c => ?_) _ _).trans hrec
          have hmeet := State.rayRecord_mem acc.s T known sp (sp.base + 16 * (c.2 / 256)) 64 64
          dsimp only
          split
          · rfl
          split
          · exact ih fuel (by omega) ..
          · exact rayLeaf_mem ..
          · split
            · rfl
            · rcases hm : acc.s.rayRecord T known sp (sp.base + 16 * (c.2 / 256)) 64 64 with ⟨s2, ib | x⟩
              · rw [hm] at hmeet
                dsimp only
                split
                · exact hmeet
                · exact (ih (fuel - 1) (by omega) ..).trans hmeet
              · rw [hm] at hmeet
                exact hmeet
          · split
            · rfl
            · rcases hm : acc.s.rayRecord T known sp (sp.base + 16 * (c.2 / 256)) 64 64 with ⟨s2, pb | x⟩
              · rw [hm] at hmeet
                dsimp only
                split
                · exact (ih (fuel - 1) (by omega) ..).trans hmeet
                · exact hmeet
              · rw [hm] at hmeet
                exact hmeet
          · rfl
        · rw [hr] at hrec
          exact hrec

@[simp] theorem State.rayQuery_mem (s : State) (T q) : (s.rayQuery T q).1.mem = s.mem := by
  rw [State.rayQuery]
  split
  · rfl
  · dsimp only
    split <;> exact rayNode_mem ..

/-! ## Loads, stores and atomics -/

@[simp] theorem State.scrLoad_mem (s : State) (t T tid th off z d la r15) : (s.scrLoad t T tid th off z d la r15).mem = s.mem := by
  unfold State.scrLoad
  split <;> simp

@[simp] theorem State.lateWait_mem (s : State) (t T tid th la dregs dpreds) : (s.lateWait t T tid th la dregs dpreds).mem = s.mem := rfl

@[simp] theorem State.holdRmw_mem (s : State) (t T tid th la dregs scr addr o) : (s.holdRmw t T tid th la dregs scr addr o).mem = s.mem := rfl

@[simp] theorem State.sendLoad_mem (s : State) (t o h aid dest off len cls acq rrc wver pos) :
    (s.sendLoad t o h aid dest off len cls acq rrc wver pos).mem = s.mem := by
  unfold State.sendLoad
  split <;> simp

@[simp] theorem State.sendRay_mem (s : State) (t o h off len aid dest cls rrc wver pos) :
    (s.sendRay t o h off len aid dest cls rrc wver pos).mem = s.mem := by
  simp [State.sendRay]

/-! ## Waiting and waking -/

@[simp] theorem State.modEng_mem (s : State) (t idx f) : (s.modEng t idx f).mem = s.mem := rfl

@[simp] theorem State.dropEng_mem (s : State) (t idx) : (s.dropEng t idx).mem = s.mem := rfl

@[simp] theorem State.addEng_mem (s : State) (t T c st attime) : (s.addEng t T c st attime).1.mem = s.mem := rfl

@[simp] theorem State.issueEng_mem (s : State) (t idx) : (s.issueEng t idx).mem = s.mem := by
  simp only [State.issueEng]
  repeat' split
  all_goals simp

@[simp] theorem State.tryWaiting_mem (s : State) (t idx) : (s.tryWaiting t idx).mem = s.mem := by
  simp only [State.tryWaiting]
  repeat' split
  all_goals simp

@[simp] theorem State.drainWaiting_mem (s : State) : s.drainWaiting.mem = s.mem := foldl_mem (fun _ _ => State.tryWaiting_mem ..) _ _

/-! ## Launches, work queues and counters -/

@[simp] theorem State.readGlobal_mem (s : State) (ctx va n) : (s.readGlobal ctx va n).1.mem = s.mem := by grind [State.readGlobal, State.readCtx_mem]

@[simp] theorem State.judgeGang_mem (s : State) (ctx d i) : (s.judgeGang ctx d i).1.mem = s.mem := by grind [State.judgeGang, State.readGroup_mem]

@[simp] theorem State.judgeLayout_mem (s : State) (d i) : (s.judgeLayout d i).1.mem = s.mem := by
  simp only [State.judgeLayout]
  repeat' split
  all_goals simp

@[simp] theorem State.judgeDecl_mem (s : State) (ctx d i off nf nb) : (s.judgeDecl ctx d i off nf nb).1.mem = s.mem := by
  grind [State.judgeDecl, State.judgeLayout_mem, State.readGlobal_mem]

@[simp] theorem State.judgeImage_mem (s : State) (ctx d) : (s.judgeImage ctx d).1.mem = s.mem := by
  grind [State.judgeImage, State.readGlobal_mem, State.judgeDecl_mem]

@[simp] theorem State.judgeDesc_mem (s : State) (ctx bs) : (s.judgeDesc ctx bs).1.mem = s.mem := by
  grind [State.judgeDesc, State.judgeImage_mem, State.readGlobal_mem]

@[simp] theorem State.judgeLaunch_mem (s : State) (ctx ldesc) : (s.judgeLaunch ctx ldesc).1.mem = s.mem := by
  grind [State.judgeLaunch, State.readGlobal_mem, State.judgeDesc_mem, State.judgeGang_mem]

@[simp] theorem State.acceptGrid_mem (s : State) (ctx raw d i src) : (s.acceptGrid ctx raw d i src).1.mem = s.mem := rfl

@[simp] theorem State.waitMet_mem (s : State) (ctx w) : (s.waitMet ctx w).1.mem = s.mem := by grind [State.waitMet, State.readGlobal_mem]

@[simp] theorem State.waitsMet_mem (s : State) (ctx ws ms) : (s.waitsMet ctx ws ms).1.mem = s.mem := by
  induction ws generalizing s ms with
  | nil => rfl
  | cons w ws ih =>
    simp only [State.waitsMet, ih]
    split <;> simp

@[simp] theorem State.testEligible_mem (s : State) (k) : (s.testEligible k).mem = s.mem := by
  simp only [State.testEligible]
  repeat' split
  all_goals simp

@[simp] theorem State.rereadGrid_mem (s : State) (k) : (s.rereadGrid k).mem = s.mem := by
  simp only [State.rereadGrid]
  repeat' split
  all_goals simp

@[simp] theorem State.queueDone_mem (s : State) (last) : (s.queueDone last).mem = s.mem := rfl

@[simp] theorem State.notice_mem (s : State) (n lstat kind) : (s.notice n lstat kind).mem = s.mem := by
  unfold State.notice
  split <;> simp

/-! ## Contexts -/

@[simp] theorem State.ctxDone_mem (s : State) (last) : (s.ctxDone last).mem = s.mem := rfl

/-! ## Receive boxes -/

@[simp] theorem State.modGrant_mem (s : State) (key sender f) : (s.modGrant key sender f).mem = s.mem := rfl

@[simp] theorem State.grantAnswered_mem (s : State) (t late d box sender n status) : (s.grantAnswered t late d box sender n status).mem = s.mem :=
    by
  simp only [State.grantAnswered]
  repeat' split
  all_goals simp

/-! ## Lane synchronisation -/

@[simp] theorem State.laneToken_mem (s : State) (t tid k tok) : (s.laneToken t tid k tok).mem = s.mem := by
  simp only [State.laneToken, State.onThread]
  repeat' split
  all_goals simp

/-! ## Steering objects -/

@[simp] theorem State.grantAclaims_mem (s : State) (c x) : (s.grantAclaims c x).mem = s.mem := by
  induction x generalizing s with
  | zero => rfl
  | succ fuel ih =>
    rw [State.grantAclaims]
    repeat' split
    all_goals simp [ih]

@[simp] theorem State.steerToken_mem (s : State) (t k tok next) : (s.steerToken t k tok next).mem = s.mem := rfl

/-! ## Engine commands -/

@[simp] theorem State.issueCmd_mem (s : State) (t T c) : (s.issueCmd t T c).mem = s.mem := by
  simp only [State.issueCmd]
  repeat' split
  all_goals simp

end Sys2Proof.Laws.CanonicalForm
end


section
/-! The engines, collectives, gangs, the pod, the host and management: what leaves memory as it is. -/

namespace Sys2Proof.Laws.CanonicalForm

open Sys2Proof Sys2Proof.Machine Sys2Proof.Laws.Storing

/-! ## Engines -/

@[simp] theorem State.streamRead_mem (s : State) (T stager b a) : (s.streamRead T stager b a).1.mem = s.mem := by
  grind [State.streamRead, State.judgeLoad_mem, State.seen_mem]

@[simp] theorem State.copyRead_mem (s : State) (t T i e a sk sf par u) : (s.copyRead t T i e a sk sf par u).1.mem = s.mem := by
  simp only [State.copyRead]
  repeat' split
  all_goals grind [State.streamRead_mem, State.endTx_mem, State.sendLoad_mem, State.winCheck_mem]

@[simp] theorem State.copyRanks_mem (s : State) (t o h bs off cls rel ranks) : (s.copyRanks t o h bs off cls rel ranks).mem = s.mem :=
  foldl_mem (fun _ _ => by simp) _ _

/-! ## The save area -/

@[simp] theorem State.fromSlot_mem (s : State) (t) : (s.fromSlot t).mem = s.mem := by
  simp only [State.fromSlot]
  repeat' split
  all_goals simp

/-! ## Collectives -/

@[simp] theorem State.opalRead_mem (s : State) (T b a n) : (s.opalRead T b a n).1.mem = s.mem := by
  induction n generalizing s a with
  | zero => rfl
  | succ n ih =>
    have hline := State.streamRead_mem s T false b a
    rw [State.opalRead]
    split
    · next s1 bs heq =>
      rw [heq] at hline
      have hrest := (ih s1 (a + 128)).trans hline
      split
      · next heq => rwa [heq] at hrest
      · exact hrest
    · exact hline

@[simp] theorem State.keepEnd_mem (s : State) (ctx g seq o) : (s.keepEnd ctx g seq o).mem = s.mem := rfl

@[simp] theorem State.modRun_mem (s : State) (t i f) : (s.modRun t i f).mem = s.mem := rfl

@[simp] theorem State.dropRendezvous_mem (s : State) (t i) : (s.dropRendezvous t i).mem = s.mem := rfl

@[simp] theorem State.postAbort_mem (s : State) (k g seq p) : (s.postAbort k g seq p).mem = s.mem := by
  simp only [State.postAbort]
  repeat' split
  all_goals simp

@[simp] theorem State.tellRanks_mem (s : State) (g seq ranks me o) : (s.tellRanks g seq ranks me o).mem = s.mem :=
  foldl_mem (fun _ _ => by split <;> simp) _ _

@[simp] theorem State.collTell_mem (s : State) (g seq ranks me o) : (s.collTell g seq ranks me o).mem = s.mem := by simp [State.collTell]

@[simp] theorem State.collBlock_mem (s : State) (T b a) : (s.collBlock T b a).1.mem = s.mem := by grind [State.collBlock, State.opalRead_mem]

@[simp] theorem State.collPerm_mem (s : State) (T b h a n) : (s.collPerm T b h a n).1.mem = s.mem := by grind [State.collPerm, State.opalRead_mem]

@[simp] theorem State.putRun_mem (s : State) (t i r) : (s.putRun t i r).mem = s.mem := rfl

theorem foldl_fst_mem {α β : Type} {g : State × β → α → State × β} (h : ∀ r a, (g r a).1.mem = r.1.mem) (l : List α) (r : State × β) :
    (l.foldl g r).1.mem = r.1.mem := by
  induction l generalizing r with
  | nil => rfl
  | cons a l ih => rw [List.foldl_cons, ih, h]

@[simp] theorem State.ranksFound_mem (s : State) (ctx cl g b) : (s.ranksFound ctx cl g b).1.mem = s.mem := by
  rw [State.ranksFound]
  split
  · rfl
  · next c _ =>
    have hhead := State.readCtx_mem s ctx cl 2 (c.gdbase + 16384 * g) 64 b
    dsimp only
    split
    · next heq =>
      rw [heq] at hhead
      refine (foldl_fst_mem (fun r k => ?_) _ _).trans hhead
      have hrank := State.readCtx_mem r.1 ctx cl 2 (c.gdbase + 16384 * g + 64 + 8 * k) 8 b
      split <;> simp_all
    · simp_all

@[simp] theorem State.collKnown_mem (s : State) (t i) : (s.collKnown t i).mem = s.mem := by
  simp only [State.collKnown]
  repeat' split
  all_goals grind [State.collBlock_mem, State.modEng_mem, State.readGroup_mem]

@[simp] theorem State.readTile_mem (s : State) (T x a n) : (s.readTile T x a n).1.mem = s.mem := by grind [State.readTile, State.opalRead_mem]

@[simp] theorem State.collGet_mem (s : State) (T r x) : (s.collGet T r x).1.mem = s.mem := by grind [State.collGet, State.readTile_mem]

@[simp] theorem State.collTx_mem (s : State) (t i unit v peer a op) : (s.collTx t i unit v peer a op).mem = s.mem := by simp [State.collTx]

@[simp] theorem State.spoilEarly_mem (s : State) (t i wrote) : (s.spoilEarly t i wrote).mem = s.mem := by
  unfold State.spoilEarly
  split <;> simp

@[simp] theorem State.rankEntry_mem (s : State) (ctx g seq rank) : (s.rankEntry ctx g seq rank).1.mem = s.mem := by
  grind [State.rankEntry, State.readGroup_mem]

@[simp] theorem State.collEnd_mem (s : State) (t cause) : (s.collEnd t cause).mem = s.mem := by
  rw [State.collEnd]
  split
  · rfl
  · next T0 _ =>
    have hknown : (T0.eng.foldl (fun s e => if e.2.st.isFaulted then s else s.collKnown t e.1) s).mem = s.mem :=
      foldl_mem (fun _ _ => by split <;> simp) _ _
    dsimp only
    split
    · exact hknown
    · refine (foldl_mem (fun s e => ?_) _ _).trans hknown
      repeat' split
      all_goals simp

@[simp] theorem State.collKill_mem (s : State) (t) : (s.collKill t).mem = s.mem := by simp [State.collKill]

@[simp] theorem State.collFree_mem (s : State) (t i k) : (s.collFree t i k).mem = s.mem := by simp [State.collFree]

@[simp] theorem State.sendDone_mem (s : State) (id x m) : (s.sendDone id x m).mem = s.mem := by simp [State.sendDone]

/-! ## Retirement -/

@[simp] theorem State.answerSaves_mem (s : State) (t status) : (s.answerSaves t status).mem = s.mem := rfl

@[simp] theorem State.tellCoord_mem (s : State) (g mark) : (s.tellCoord g mark).mem = s.mem := by simp [State.tellCoord]

/-! ## Placement, saving and resumption -/

@[simp] theorem State.stageIn_mem (s : State) (t i r) : (s.stageIn t i r).mem = s.mem := by
  unfold State.stageIn
  split <;> simp

@[simp] theorem State.wakeRegions_mem (s : State) (t) : (s.wakeRegions t).mem = s.mem := by
  rw [State.wakeRegions]
  split
  · rfl
  · exact (foldl_mem (fun _ _ => by simp) _ _).trans (by simp)

theorem State.reserve_mem (s : State) (key idx g ctx f gang) : ∀ s', s.reserve key idx g ctx f gang = some s' → s'.mem = s.mem := by
  unfold State.reserve
  split <;> simp

@[simp] theorem State.saveGo_mem (s : State) (k) : (s.saveGo k).mem = s.mem := by
  rw [State.saveGo]
  split
  · rfl
  · dsimp only
    split_ifs
    · exact (foldl_mem (fun _ _ => by split <;> simp) _ _).trans (by simp)
    · rfl

@[simp] theorem State.allSaved_mem (s : State) (k) : (s.allSaved k).mem = s.mem := by
  rw [State.allSaved]
  split
  · rfl
  · split
    · rw [State.flushMgmt_mem]
      exact (foldl_mem (fun _ _ => by split <;> simp) _ _).trans (by simp)
    · rfl

@[simp] theorem State.tellSave_mem (s : State) (no) : (s.tellSave no).mem = s.mem := by
  simp only [State.tellSave]
  repeat' split
  all_goals simp

@[simp] theorem State.saveStep_mem (s : State) (no) : (s.saveStep no).mem = s.mem := by
  unfold State.saveStep
  split <;> simp

@[simp] theorem State.dropUnits_mem (s : State) (t) : (s.dropUnits t).mem = s.mem := rfl

@[simp] theorem State.steerAgain_mem (s : State) (t) : (s.steerAgain t).mem = s.mem := by
  simp only [State.steerAgain]
  repeat' split
  all_goals grind [State.fetchClause_mem, State.steerToken_mem]

@[simp] theorem State.touchSlot_mem (s : State) (T) : (s.touchSlot T).mem = s.mem := by
  unfold State.touchSlot
  split <;> simp

@[simp] theorem State.setDie_mem (s : State) (e d) : (s.setDie e d).mem = s.mem := rfl

/-! ## Fault commands and kills -/

@[simp] theorem State.dropUnsent_mem (s : State) (mine) : (s.dropUnsent mine).mem = s.mem :=
  foldl_mem (fun _ _ => by split <;> simp) _ _

@[simp] theorem State.dropLane_mem (s : State) (t tid) : (s.dropLane t tid).mem = s.mem := by simp [State.dropLane]

@[simp] theorem State.tellKill_mem (s : State) (k) : (s.tellKill k).mem = s.mem := by
  rw [State.tellKill]
  repeat' split
  · rfl
  · exact foldl_mem (fun _ _ => by simp) _ _
  · simp
  · rfl

/-! ## Gangs -/

@[simp] theorem State.roundRanks_mem (s : State) (g) : (s.roundRanks g).1.mem = s.mem := by grind [State.roundRanks, State.readGroup_mem]

@[simp] theorem State.startRound_mem (s : State) (k g) : (s.startRound k g).mem = s.mem := by
  have hranks := State.roundRanks_mem s g
  rw [State.startRound]
  split
  · next heq =>
    rw [heq] at hranks
    exact (foldl_mem (fun _ _ => by simp) _ _).trans hranks
  · next heq =>
    rw [heq] at hranks
    exact hranks

@[simp] theorem State.failRound_mem (s : State) (k g) : (s.failRound k g).mem = s.mem :=
  (foldl_mem (fun _ _ => by simp) _ _).trans (by simp)

@[simp] theorem State.tryOpen_mem (s : State) (k) : (s.tryOpen k).mem = s.mem := by
  rw [State.tryOpen]
  repeat' split
  · rfl
  · exact (foldl_mem (fun _ _ => by simp) _ _).trans (by simp)
  · rfl
  · rfl

@[simp] theorem State.dropResv_mem (s : State) (r) : (s.dropResv r).mem = s.mem := by
  simp only [State.dropResv]
  repeat' split
  all_goals simp

theorem State.gangRecord_mem (s : State) (r) : ∀ s', s.gangRecord r = some s' → s'.1.mem = s.mem := by
  grind [State.gangRecord, State.modGrid_mem, State.judgeDesc_mem]

@[simp] theorem State.tellUndone_mem (s : State) (x) : (s.tellUndone x).mem = s.mem := by simp [State.tellUndone]

@[simp] theorem State.forward_mem (s : State) (r) : (s.forward r).mem = s.mem := by
  simp only [State.forward]
  repeat' split
  all_goals simp

@[simp] theorem State.childrenMoved_mem (s : State) (t T) : (s.childrenMoved t T).mem = s.mem := rfl

/-! ## Pre-emption -/

@[simp] theorem State.without_mem (s : State) (ts) : (s.without ts).mem = s.mem := rfl

/-! ## The pod -/

@[simp] theorem State.reroute_mem (s : State) (i) : (s.reroute i).mem = s.mem := foldl_mem (fun _ _ => by simp) _ _

@[simp] theorem State.modPod_mem (s : State) (f) : (s.modPod f).mem = s.mem := rfl

@[simp] theorem State.settleCells_mem (s : State) : (s.settleCells).mem = s.mem := rfl

@[simp] theorem State.sendCell_mem (s : State) (i c) : (s.sendCell i c).mem = s.mem := by
  simp only [State.sendCell]
  repeat' split
  all_goals simp

@[simp] theorem State.fillLine_mem (s : State) (x bs) : (s.fillLine x bs).mem = s.mem := by
  simp only [State.fillLine]
  repeat' split
  all_goals simp

@[simp] theorem State.askPlain_mem (s : State) (id x) : (s.askPlain id x).mem = s.mem := by simp [State.askPlain]

@[simp] theorem State.acquire_mem (s : State) (m) : (s.acquire m).mem = s.mem := by
  unfold State.acquire
  split <;> simp

@[simp] theorem State.track_mem (s : State) (m) : (s.track m).mem = s.mem := by
  simp only [State.track]
  repeat' split
  all_goals simp

/-! ## The scheduler -/

@[simp] theorem State.waveClause_mem (s : State) (T w) : (s.waveClause T w).1.mem = s.mem := by
  unfold State.waveClause
  split <;> simp

/-! ## The host -/

@[simp] theorem State.readPhys_mem (s : State) (a n) : (s.readPhys a n).1.mem = s.mem := by
  unfold State.readPhys
  split <;> simp

@[simp] theorem State.sample_mem (s : State) (v) : (s.sample v).mem = s.mem := rfl

@[simp] theorem State.regPlain_mem (s : State) (off v) : (s.regPlain off v).mem = s.mem := by
  simp only [State.regPlain]
  repeat' split
  all_goals simp

@[simp] theorem State.lineAnswer_mem (s : State) (j ok bs) : (s.lineAnswer j ok bs).mem = s.mem := by
  simp only [State.lineAnswer]
  repeat' split
  all_goals simp

/-! ## Management -/

@[simp] theorem State.endConn_mem (s : State) (conn) : (s.endConn conn).mem = s.mem := rfl

@[simp] theorem State.reply_mem (s : State) (op r status payload) : (s.reply op r status payload).mem = s.mem := rfl

@[simp] theorem State.answerAll_mem (s : State) : (s.answerAll).mem = s.mem := rfl

@[simp] theorem State.endConnection_mem (s : State) (n) : (s.endConnection n).mem = s.mem := by
  unfold State.endConnection
  split <;> simp

@[simp] theorem State.openConn_mem (s : State) (peer) : (s.openConn peer).mem = s.mem := by
  unfold State.openConn
  split <;> simp

/-! ## Turns -/

@[simp] theorem State.orderUsed_mem (s : State) (i) : (s.orderUsed i).mem = s.mem := by
  unfold State.orderUsed
  split <;> simp

@[simp] theorem State.steerClause_mem (s : State) (T) : (s.steerClause T).1.mem = s.mem := by
  simp only [State.steerClause]
  repeat' split
  all_goals simp

@[simp] theorem State.timePasses_mem (s : State) (ns) : (s.timePasses ns).mem = s.mem := by
  simp only [State.timePasses]
  repeat' split
  all_goals simp

@[simp] theorem State.noteReady_mem (s : State) : (s.noteReady).mem = s.mem := rfl

end Sys2Proof.Laws.CanonicalForm
end


section
/-! The canonical form of memory is kept (log entry 13): the writers, stops, spills, banks, fetching and the frames of the lane. -/

namespace Sys2Proof.Laws.CanonicalForm

open Sys2Proof Sys2Proof.Machine Sys2Proof.Laws.Storing

/-! ## Accesses, stops, spilled threads, groups of the wave former -/

@[simp] theorem State.store_wf {s : State} (a bs) (hm : Memory.wf s.mem = true) : Memory.wf (s.store a bs).mem = true := (stores_store s a bs).wf hm

@[simp] theorem State.putLine_wf {s : State} (a bs) (hm : Memory.wf s.mem = true) : Memory.wf (s.putLine a bs).mem = true := by
  grind [State.putLine, State.store_wf]

@[simp] theorem State.setD_wf {s : State} (ctx va) (hm : Memory.wf s.mem = true) :
    Memory.wf (s.setD ctx va).mem = true := (stores_setD s ctx va).wf hm

@[simp] theorem State.copyPage_wf {s : State} (src dst) (hm : Memory.wf s.mem = true) : Memory.wf (s.copyPage src dst).mem = true :=
  (stores_copyPage s src dst).wf hm

@[simp] theorem State.cowPage_wf {s : State} (ctx cl c va e) (hm : Memory.wf s.mem = true) : Memory.wf (s.cowPage ctx cl c va e).1.mem = true := by
  grind [State.cowPage, State.touch_mem, State.judgeLoad_mem, State.touchAll_mem, State.store_wf, State.seen_mem, State.copyPage_wf,
    State.tlbDrop_mem]

@[simp] theorem State.judgeStoreOnce_wf {s : State} (ctx cl priv va full retry) (hm : Memory.wf s.mem = true) :
    Memory.wf (s.judgeStoreOnce ctx cl priv va full retry).1.mem = true := by
  simp only [State.judgeStoreOnce]
  repeat' split
  all_goals grind [State.translate_mem, State.touch_mem, State.setD_wf, State.cowPage_wf, State.tlbDrop_mem]

@[simp] theorem State.judgeStore_wf {s : State} (ctx cl priv va full) (hm : Memory.wf s.mem = true) :
    Memory.wf (s.judgeStore ctx cl priv va full).1.mem = true := by
  grind [State.judgeStore, State.judgeStoreOnce_wf]

@[simp] theorem State.report_wf {s : State} (r) (hm : Memory.wf s.mem = true) : Memory.wf (s.report r).mem = true := by
  grind [State.report, State.store_wf, State.touch_mem]

@[simp] theorem State.stopLane_wf {s : State} (t T tid th f) (hm : Memory.wf s.mem = true) : Memory.wf (s.stopLane t T tid th f).mem = true := by
  simp [State.stopLane, hm]

@[simp] theorem State.stopSteer_wf {s : State} (t T f) (hm : Memory.wf s.mem = true) : Memory.wf (s.stopSteer t T f).mem = true := by
  simp [State.stopSteer, hm]

@[simp] theorem State.putRecord_wf {s : State} (j tid ps) (hm : Memory.wf s.mem = true) : Memory.wf (s.putRecord j tid ps).mem = true := by
  simp only [State.putRecord]
  split <;> simp [hm]

@[simp] theorem State.spillThread_wf {s : State} (t tid) (hm : Memory.wf s.mem = true) : Memory.wf (s.spillThread t tid).mem = true := by
  simp only [State.spillThread]
  repeat' split
  all_goals simp [hm]

@[simp] theorem State.spillOldest_wf {s : State} (c p) (hm : Memory.wf s.mem = true) : Memory.wf (s.spillOldest c p).mem = true := by
  simp only [State.spillOldest]
  repeat' split
  · exact hm
  · exact hm
  · exact foldl_wf (fun _ _ h => by simp [h]) _ hm

@[simp] theorem State.formerOne_wf {s : State} (c p t pos joined tid) (hm : Memory.wf s.mem = true) :
    Memory.wf (s.formerOne c p t pos joined tid).mem = true := by
  simp only [State.formerOne]
  repeat' split
  all_goals simp [hm]

@[simp] theorem State.formerAdd_wf {s : State} (T t tids pos part joined) (hm : Memory.wf s.mem = true) :
    Memory.wf (s.formerAdd T t tids pos part joined).mem = true := by
  rw [State.formerAdd]
  split
  · exact hm
  · exact foldl_wf (fun _ _ h => by simp [h]) _ hm

@[simp] theorem State.unspillGroup_wf {s : State} (c p g) (hm : Memory.wf s.mem = true) : Memory.wf (s.unspillGroup c p g).mem = true := by
  have hback : Memory.wf (g.tids.foldl (fun s u => s.unspillThread g.team u) s).mem = true :=
    foldl_wf (fun _ _ h => by simp [h]) _ hm
  refine foldl_wf (fun _ _ h => by simp [h]) _ ?_
  split
  · exact hback
  · exact hback

@[simp] theorem State.unspill_wf {s : State} (c p) (hm : Memory.wf s.mem = true) : Memory.wf (s.unspill c p).mem = true := by
  simp only [State.unspill]
  split
  · exact hm
  · exact foldl_wf (fun _ _ h => by simp [h]) _ hm

@[simp] theorem State.unspillCore_wf {s : State} (c) (hm : Memory.wf s.mem = true) : Memory.wf (s.unspillCore c).mem = true :=
  foldl_wf (fun _ _ h => by simp [h]) _ hm

@[simp] theorem State.restartLane_wf {s : State} (t T tid th r) (hm : Memory.wf s.mem = true) :
    Memory.wf (s.restartLane t T tid th r).mem = true := by
  simp [State.restartLane, hm]

/-! ## Banks and their power -/

@[simp] theorem execPhaseInForce_wf {s : State} (ctx) (hm : Memory.wf s.mem = true) : ResWf (execPhaseInForce ctx s) := by simp [execPhaseInForce,
    hm]

@[simp] theorem execClearingEnd_wf {s : State} (k) (hm : Memory.wf s.mem = true) : ResWf (execClearingEnd k s) := by
  simp only [execClearingEnd]
  split
  · exact Memory.wf_clear _ _ hm
  · exact hm

@[simp] theorem execBankOn_wf {s : State} (k) (hm : Memory.wf s.mem = true) : ResWf (execBankOn k s) := by simp [execBankOn, hm]

@[simp] theorem execBankOff_wf {s : State} (k) (hm : Memory.wf s.mem = true) : ResWf (execBankOff k s) := by simp [execBankOff, hm]

@[simp] theorem execBankInuse_wf {s : State} (k) (hm : Memory.wf s.mem = true) : ResWf (execBankInuse k s) := by simp [execBankInuse, hm]

@[simp] theorem execBankNotuse_wf {s : State} (k) (hm : Memory.wf s.mem = true) : ResWf (execBankNotuse k s) := by simp [execBankNotuse, hm]

@[simp] theorem execBankPres_wf {s : State} (k) (hm : Memory.wf s.mem = true) : ResWf (execBankPres k s) := by simp [execBankPres, hm]

@[simp] theorem execBankNopres_wf {s : State} (k) (hm : Memory.wf s.mem = true) : ResWf (execBankNopres k s) := by simp [execBankNopres, hm]

@[simp] theorem execMemoryLineAccess_wf {s : State} (k) (hm : Memory.wf s.mem = true) : ResWf (execMemoryLineAccess k s) := by
  simp only [execMemoryLineAccess]
  split <;> simp [hm]

@[simp] theorem execActIdleTimeout_wf {s : State} (k) (hm : Memory.wf s.mem = true) : ResWf (execActIdleTimeout k s) := by
  simp only [execActIdleTimeout]
  split <;> simp [hm]

@[simp] theorem execRetEntryTimeout_wf {s : State} (k) (hm : Memory.wf s.mem = true) : ResWf (execRetEntryTimeout k s) := by
  simp only [execRetEntryTimeout]
  repeat' split
  all_goals simp [hm]

@[simp] theorem execWakeComplete_wf {s : State} (k) (hm : Memory.wf s.mem = true) : ResWf (execWakeComplete k s) := by
  simp only [execWakeComplete]
  repeat' split
  all_goals simp [hm]

@[simp] theorem execPatrolIntervalStart_wf {s : State} (hm : Memory.wf s.mem = true) : ResWf (execPatrolIntervalStart s) := by
  simp [execPatrolIntervalStart, hm]

@[simp] theorem execPatrolRead_wf {s : State} (k granule fixed bad) (hm : Memory.wf s.mem = true) :
    ResWf (execPatrolRead k granule fixed bad s) := by
  simp only [execPatrolRead]
  split
  · exact hm
  · exact foldl_wf (fun _ _ h => by simp [h]) _ (foldl_wf (fun _ _ h => by simp [h]) _ hm)

@[simp] theorem execRemapLost_wf {s : State} (k) (hm : Memory.wf s.mem = true) : ResWf (execRemapLost k s) := by
  simp only [execRemapLost]
  split
  · exact hm
  · refine foldl_wf (fun _ _ h => by simp [h]) _ ?_
    split <;> exact hm

@[simp] theorem execBusCodingChoice_wf {s : State} (k low) (hm : Memory.wf s.mem = true) : ResWf (execBusCodingChoice k low s) := by
  simp [execBusCodingChoice, hm]

/-! ## The frames of the lane instructions -/

@[simp] theorem State.lane_wf {s : State} {k} (hk : ∀ t T tid th, ResWf (k t T tid th)) : ResWf (s.lane k) := by
  simp only [State.lane]
  repeat' split
  all_goals simp [hk]

@[simp] theorem State.laneRun_wf {s : State} (regs preds) {k} (h : Memory.wf s.mem = true) (hk : ∀ t T tid th, ResWf (k t T tid th)) :
    ResWf (s.laneRun regs preds k) := by
  refine State.lane_wf fun t T tid th => ?_
  repeat' split
  all_goals simp [h, hk]

@[simp] theorem State.laneEff_wf {s : State} (regs preds f) (hm : Memory.wf s.mem = true) : ResWf (s.laneEff regs preds f) := by
  simp [State.laneEff, hm]

@[simp] theorem State.int3_wf {s : State} (o f) (hm : Memory.wf s.mem = true) : ResWf (s.int3 o f) := by simp [State.int3, hm]

@[simp] theorem State.int2_wf {s : State} (o f) (hm : Memory.wf s.mem = true) : ResWf (s.int2 o f) := by simp [State.int2, hm]

@[simp] theorem State.fp3_wf {s : State} (o f) (hm : Memory.wf s.mem = true) : ResWf (s.fp3 o f) := by simp [State.fp3, hm]

@[simp] theorem State.fp2_wf {s : State} (o f) (hm : Memory.wf s.mem = true) : ResWf (s.fp2 o f) := by simp [State.fp2, hm]

@[simp] theorem State.func1_wf {s : State} (o f) (hm : Memory.wf s.mem = true) : ResWf (s.func1 o f) := by simp [State.func1, hm]

@[simp] theorem State.steer_wf {s : State} {k} (hk : ∀ t T st, ResWf (k t T st)) : ResWf (s.steer k) := by
  simp only [State.steer]
  repeat' split
  all_goals simp [hk]

@[simp] theorem State.steerRun_wf {s : State} (regs) {k} (h : Memory.wf s.mem = true) (hk : ∀ t T st, ResWf (k t T st)) :
    ResWf (s.steerRun regs k) := by
  refine State.steer_wf fun t T st => ?_
  split <;> simp [h, hk]

@[simp] theorem State.steerEff_wf {s : State} (regs f) (hm : Memory.wf s.mem = true) : ResWf (s.steerEff regs f) := by simp [State.steerEff, hm]

@[simp] theorem State.sint3_wf {s : State} (o f) (hm : Memory.wf s.mem = true) : ResWf (s.sint3 o f) := by simp [State.sint3, hm]

@[simp] theorem State.sint2_wf {s : State} (o f) (hm : Memory.wf s.mem = true) : ResWf (s.sint2 o f) := by simp [State.sint2, hm]

/-! ## Floating point -/

@[simp] theorem execFadd_wf {s : State} (o rm) (hm : Memory.wf s.mem = true) : ResWf (execFadd o rm s) := by simp [execFadd, hm]

@[simp] theorem execFsub_wf {s : State} (o rm) (hm : Memory.wf s.mem = true) : ResWf (execFsub o rm s) := by simp [execFsub, hm]

@[simp] theorem execFmul_wf {s : State} (o rm) (hm : Memory.wf s.mem = true) : ResWf (execFmul o rm s) := by simp [execFmul, hm]

@[simp] theorem execFfma_wf {s : State} (o rm) (hm : Memory.wf s.mem = true) : ResWf (execFfma o rm s) := by simp [execFfma, hm]

@[simp] theorem execFmin_wf {s : State} (o prop) (hm : Memory.wf s.mem = true) : ResWf (execFmin o prop s) := by simp [execFmin, hm]

@[simp] theorem execFmax_wf {s : State} (o prop) (hm : Memory.wf s.mem = true) : ResWf (execFmax o prop s) := by simp [execFmax, hm]

@[simp] theorem execFcmp_wf {s : State} (c p o) (hm : Memory.wf s.mem = true) : ResWf (execFcmp c p o s) := by simp [execFcmp, hm]

@[simp] theorem execFclass_wf {s : State} (o) (hm : Memory.wf s.mem = true) : ResWf (execFclass o s) := by simp [execFclass, hm]

@[simp] theorem execFrnd_wf {s : State} (o rm) (hm : Memory.wf s.mem = true) : ResWf (execFrnd o rm s) := by simp [execFrnd, hm]

@[simp] theorem execF2i_wf {s : State} (o rm u) (hm : Memory.wf s.mem = true) : ResWf (execF2i o rm u s) := by simp [execF2i, hm]

@[simp] theorem execI2f_wf {s : State} (o rm u) (hm : Memory.wf s.mem = true) : ResWf (execI2f o rm u s) := by simp [execI2f, hm]

@[simp] theorem execFcvt_wf {s : State} (o rm dir hi) (hm : Memory.wf s.mem = true) : ResWf (execFcvt o rm dir hi s) := by simp [execFcvt, hm]

@[simp] theorem execFscale_wf {s : State} (o rm) (hm : Memory.wf s.mem = true) : ResWf (execFscale o rm s) := by simp [execFscale, hm]

@[simp] theorem execFexp_wf {s : State} (o m) (hm : Memory.wf s.mem = true) : ResWf (execFexp o m s) := by simp [execFexp, hm]

@[simp] theorem execFsgn_wf {s : State} (o op) (hm : Memory.wf s.mem = true) : ResWf (execFsgn o op s) := by simp [execFsgn, hm]

@[simp] theorem execHadd2_wf {s : State} (o rm bf nb) (hm : Memory.wf s.mem = true) : ResWf (execHadd2 o rm bf nb s) := by simp [execHadd2, hm]

@[simp] theorem execHmul2_wf {s : State} (o rm bf nb) (hm : Memory.wf s.mem = true) : ResWf (execHmul2 o rm bf nb s) := by simp [execHmul2, hm]

@[simp] theorem execHfma2_wf {s : State} (o rm bf nb) (hm : Memory.wf s.mem = true) : ResWf (execHfma2 o rm bf nb s) := by simp [execHfma2, hm]

@[simp] theorem execHminmax2_wf {s : State} (o bf mx prop) (hm : Memory.wf s.mem = true) : ResWf (execHminmax2 o bf mx prop s) := by
  simp [execHminmax2, hm]

@[simp] theorem execHcmp2_wf {s : State} (c p o bf) (hm : Memory.wf s.mem = true) : ResWf (execHcmp2 c p o bf s) := by simp [execHcmp2, hm]

@[simp] theorem execRcp_wf {s : State} (o) (hm : Memory.wf s.mem = true) : ResWf (execRcp o s) := by simp [execRcp, hm]

@[simp] theorem execRsq_wf {s : State} (o) (hm : Memory.wf s.mem = true) : ResWf (execRsq o s) := by simp [execRsq, hm]

@[simp] theorem execSqrt_wf {s : State} (o) (hm : Memory.wf s.mem = true) : ResWf (execSqrt o s) := by simp [execSqrt, hm]

@[simp] theorem execFdiv_wf {s : State} (o b x) (hm : Memory.wf s.mem = true) : ResWf (execFdiv o b x s) := by simp [execFdiv, hm]

@[simp] theorem execEx2_wf {s : State} (o) (hm : Memory.wf s.mem = true) : ResWf (execEx2 o s) := by simp [execEx2, hm]

@[simp] theorem execLg2_wf {s : State} (o) (hm : Memory.wf s.mem = true) : ResWf (execLg2 o s) := by simp [execLg2, hm]

@[simp] theorem execSinpi_wf {s : State} (o) (hm : Memory.wf s.mem = true) : ResWf (execSinpi o s) := by simp [execSinpi, hm]

@[simp] theorem execCospi_wf {s : State} (o) (hm : Memory.wf s.mem = true) : ResWf (execCospi o s) := by simp [execCospi, hm]

/-! ## Windows, transactions and requests -/

@[simp] theorem State.leaveAll_wf {s : State} (t T tid) (hm : Memory.wf s.mem = true) : Memory.wf (s.leaveAll t T tid).mem = true := by
  unfold State.leaveAll
  split <;> simp [hm]

@[simp] theorem State.unpark_wf {s : State} (t T tid th) (hm : Memory.wf s.mem = true) : Memory.wf (s.unpark t T tid th).mem = true := by
  simp [State.unpark, hm]

@[simp] theorem State.serveSend_wf {s : State} (aid ctx box) (hm : Memory.wf s.mem = true) : Memory.wf (s.serveSend aid ctx box).mem = true := by
  refine foldl_wf (fun s e h => ?_) _ hm
  split
  · dsimp only
    split <;> simp [h]
  · exact h

@[simp] theorem State.slotBack_wf {s : State} (ctx o) (hm : Memory.wf s.mem = true) : Memory.wf (s.slotBack ctx o).mem = true := by
  simp only [State.slotBack]
  repeat' split
  all_goals simp [hm]

@[simp] theorem State.takeRecord_wf {s : State} (t T tid th f d la preds) (hm : Memory.wf s.mem = true) :
    Memory.wf (s.takeRecord t T tid th f d la preds).mem = true := by
  simp [State.takeRecord, hm]

@[simp] theorem State.serveRecv_wf {s : State} (t f) (hm : Memory.wf s.mem = true) : Memory.wf (s.serveRecv t f).mem = true := by
  simp only [State.serveRecv]
  repeat' split
  all_goals simp [hm]

@[simp] theorem State.serveRecvs_wf {s : State} (t f n) (hm : Memory.wf s.mem = true) : Memory.wf (s.serveRecvs t f n).mem = true := by
  induction n generalizing s with
  | zero => exact hm
  | succ n ih => exact ih (State.serveRecv_wf t f hm)

@[simp] theorem State.landRecord_wf {s : State} (sender ctx box data) (hm : Memory.wf s.mem = true) :
    Memory.wf (s.landRecord sender ctx box data).1.mem = true := by
  simp only [State.landRecord]
  repeat' split
  all_goals simp [hm]

@[simp] theorem State.targetStore_wf {s : State} (ctx cl va data) (hm : Memory.wf s.mem = true) :
    Memory.wf (s.targetStore ctx cl va data).1.mem = true := by
  grind [State.targetStore, State.judgeStore_wf, State.spoilMem_mem, State.putLine_wf, State.store_wf]

@[simp] theorem State.inbound_wf {s : State} (x b) (hm : Memory.wf s.mem = true) : Memory.wf (s.inbound x b).1.mem = true := by
  simp only [State.inbound]
  repeat' split
  all_goals grind [State.targetLoad_mem, State.targetStore_wf, State.judgeStore_wf, State.spoilMem_mem, State.store_wf, State.setTeam_mem,
    State.landRecord_wf]

@[simp] theorem State.stopAccess_wf {s : State} (t T tid th id x f) (hm : Memory.wf s.mem = true) :
    Memory.wf (s.stopAccess t T tid th id x f).mem = true := by
  simp [State.stopAccess, hm]

@[simp] theorem State.txFault_wf {s : State} (t T tid th id x k q) (hm : Memory.wf s.mem = true) :
    Memory.wf (s.txFault t T tid th id x k q).mem = true := by
  simp [State.txFault, hm]

@[simp] theorem State.mcstAnswered_wf {s : State} (T tid th id batch x) (hm : Memory.wf s.mem = true) :
    Memory.wf (s.mcstAnswered T tid th id batch x).mem = true := by
  simp only [State.mcstAnswered]
  repeat' split
  all_goals simp [hm]

@[simp] theorem State.answerLane_wf {s : State} (id x r tid) (hm : Memory.wf s.mem = true) : Memory.wf (s.answerLane id x r tid).mem = true := by
  simp only [State.answerLane]
  repeat' split
  all_goals simp [hm]

end Sys2Proof.Laws.CanonicalForm
end


section
/-! The canonical form is kept: lane memory, waiting and waking, launches, contexts and boxes. -/

namespace Sys2Proof.Laws.CanonicalForm

open Sys2Proof Sys2Proof.Machine Sys2Proof.Laws.Storing

/-! ## Loads, stores and atomics -/

@[simp] theorem State.memRun_wf {s : State} (regs preds) {k} (h : Memory.wf s.mem = true) (hk : ∀ t T tid th, ResWf (k t T tid th)) :
    ResWf (s.memRun regs preds k) := by
  simp [State.memRun, h, hk]

@[simp] theorem State.performBytes_wf {s : State} (p data) (hm : Memory.wf s.mem = true) : Memory.wf (s.performBytes p data).mem = true := by
  grind [State.performBytes, State.spoilScr_mem, State.modTeam_mem, State.spoilMem_mem, State.store_wf]

@[simp] theorem State.performOne_wf {s : State} (p) (hm : Memory.wf s.mem = true) : Memory.wf (s.performOne p).mem = true := by
  simp only [State.performOne]
  repeat' split
  all_goals simp [hm]

@[simp] theorem State.performWhere_wf {s : State} (mine) (hm : Memory.wf s.mem = true) : Memory.wf (s.performWhere mine).mem = true :=
  foldl_wf (fun _ _ h => by simp [h]) _ hm

@[simp] theorem State.performThread_wf {s : State} (t tid) (hm : Memory.wf s.mem = true) : Memory.wf (s.performThread t tid).mem = true := by
  simp [State.performThread, hm]

@[simp] theorem State.performTeam_wf {s : State} (t) (hm : Memory.wf s.mem = true) : Memory.wf (s.performTeam t).mem = true := by
  simp [State.performTeam, hm]

@[simp] theorem State.performAll_wf {s : State} (hm : Memory.wf s.mem = true) : Memory.wf (s.performAll).mem = true := by simp [State.performAll,
    hm]

@[simp] theorem State.place_wf {s : State} (p) (hm : Memory.wf s.mem = true) : Memory.wf (s.place p).mem = true := by
  unfold State.place
  split <;> simp [hm]

@[simp] theorem State.gLoad_wf {s : State} (t T tid th a z d la) (hm : Memory.wf s.mem = true) :
    Memory.wf (s.gLoad t T tid th a z d la).mem = true := by
  grind [State.gLoad, State.stopLane_wf, State.scrLoad_mem, State.judgeLoad_mem, State.lateLane_mem]

@[simp] theorem execLd_wf {s : State} (m) (hm : Memory.wf s.mem = true) : ResWf (execLd m s) := by
  simp only [execLd]
  repeat' split
  all_goals simp [hm]

@[simp] theorem execLds_wf {s : State} (m) (hm : Memory.wf s.mem = true) : ResWf (execLds m s) := by
  refine State.memRun_wf _ _ hm fun t T tid th => ?_
  split <;> simp [hm]

@[simp] theorem State.scrStore_wf {s : State} (t T tid th off data) (hm : Memory.wf s.mem = true) :
    Memory.wf (s.scrStore t T tid th off data).mem = true := by
  unfold State.scrStore
  split <;> simp [hm]

@[simp] theorem State.gStore_wf {s : State} (t T tid th a data) (hm : Memory.wf s.mem = true) :
    Memory.wf (s.gStore t T tid th a data).mem = true := by
  grind [State.gStore, State.stopLane_wf, State.scrStore_wf, State.judgeStore_wf, State.place_wf, State.setThread_mem]

@[simp] theorem execSt_wf {s : State} (m) (hm : Memory.wf s.mem = true) : ResWf (execSt m s) := by simp [execSt, hm]

@[simp] theorem execSts_wf {s : State} (m) (hm : Memory.wf s.mem = true) : ResWf (execSts m s) := by simp [execSts, hm]

@[simp] theorem State.gRmw_wf {s : State} (t T tid th a la r) (hm : Memory.wf s.mem = true) : Memory.wf (s.gRmw t T tid th a la r).mem = true := by
  grind [State.gRmw, State.stopLane_wf, State.park_mem, State.holdRmw_mem, State.spoilScr_mem, State.lateLane_mem, State.judgeStore_wf,
    State.spoilMem_mem, State.store_wf]

@[simp] theorem execAtom_wf {s : State} (m) (hm : Memory.wf s.mem = true) : ResWf (execAtom m s) :=
  State.lane_wf fun _ _ _ _ => State.memRun_wf _ _ hm fun t T tid th => by simp [hm]

@[simp] theorem execAtomf_wf {s : State} (m) (hm : Memory.wf s.mem = true) : ResWf (execAtomf m s) := by
  simp only [execAtomf]
  repeat' split
  all_goals simp [hm]

@[simp] theorem execAtomx_wf {s : State} (m) (hm : Memory.wf s.mem = true) : ResWf (execAtomx m s) := by
  simp only [execAtomx]
  repeat' split
  all_goals simp [hm]

@[simp] theorem State.rayGo_wf {s : State} (t T tid th q la) (hm : Memory.wf s.mem = true) : Memory.wf (s.rayGo t T tid th q la).mem = true := by
  grind [State.rayGo, State.rayQuery_mem, State.lateLane_mem, State.lateWait_mem, State.sendRay_mem, State.stopLane_wf, State.park_mem]

@[simp] theorem execLdw_wf {s : State} (m) (hm : Memory.wf s.mem = true) : ResWf (execLdw m s) := by
  refine State.memRun_wf _ _ hm fun t T tid th => ?_
  grind [resWf_next, State.winCheck_mem, State.stopLane_wf, State.lateLane_mem, State.sendLoad_mem, State.lateWait_mem]

@[simp] theorem execStw_wf {s : State} (m) (hm : Memory.wf s.mem = true) : ResWf (execStw m s) := by
  refine State.memRun_wf _ _ hm fun t T tid th => ?_
  grind [resWf_next, State.winCheck_mem, State.stopLane_wf, State.rrcWrite_mem, State.newTx_mem, State.setThread_mem]

@[simp] theorem execAtw_wf {s : State} (m) (hm : Memory.wf s.mem = true) : ResWf (execAtw m s) := by
  refine State.lane_wf fun _ _ _ th0 => State.memRun_wf _ _ hm fun t T tid th => ?_
  grind [resWf_next, State.winCheck_mem, State.stopLane_wf, State.rrcWrite_mem, State.newTx_mem, State.lateWait_mem]

@[simp] theorem State.sendRanks_mem (s : State) (t tid batch m data off cls pos r ks) :
    (s.sendRanks t tid batch m data off cls pos r ks).mem = s.mem := by
  induction ks generalizing s r with
  | nil => rfl
  | cons k rest ih => simp [State.sendRanks, ih]

@[simp] theorem execMcst_wf {s : State} (m) (hm : Memory.wf s.mem = true) : ResWf (execMcst m s) := by
  refine State.memRun_wf _ _ hm fun t T tid th => ?_
  grind [resWf_next, State.winCheck_mem, State.stopLane_wf, State.rrcWrite_mem, State.sendRanks_mem, State.setThread_mem]

@[simp] theorem State.request_wf {s : State} (va ctx team) (hm : Memory.wf s.mem = true) : Memory.wf (s.request va ctx team).1.mem = true := by
  grind [State.request, State.store_wf, State.touch_mem]

@[simp] theorem execRreq_wf {s : State} (m) (hm : Memory.wf s.mem = true) : ResWf (execRreq m s) := by
  refine State.laneRun_wf _ _ hm fun t T tid th => ?_
  grind [resWf_next, State.translate_mem, State.stopLane_wf, State.lateLane_mem, State.request_wf]

@[simp] theorem execPref_wf {s : State} (x) (hm : Memory.wf s.mem = true) : ResWf (execPref x s) := by simp [execPref, hm]

@[simp] theorem execFence_wf {s : State} (sc) (hm : Memory.wf s.mem = true) : ResWf (execFence sc s) := by simp [execFence, hm]

@[simp] theorem State.feedRun_wf {s : State} (f before after preds) {k} (h : Memory.wf s.mem = true) (hk : ∀ t T tid th, ResWf (k t T tid th)) :
    ResWf (s.feedRun f before after preds k) := by
  refine State.lane_wf fun t T tid th => ?_
  repeat' split
  all_goals simp [h, hk]

@[simp] theorem execFadv_wf {s : State} (f cons b) (hm : Memory.wf s.mem = true) : ResWf (execFadv f cons b s) := by
  refine State.feedRun_wf _ _ _ _ hm fun t T tid th => ?_
  dsimp only
  repeat' split
  all_goals simp [hm]

@[simp] theorem execFcnt_wf {s : State} (d f sel) (hm : Memory.wf s.mem = true) : ResWf (execFcnt d f sel s) := by simp [execFcnt, hm]

@[simp] theorem State.runTodo_wf {s : State} (t T tid th o) (hm : Memory.wf s.mem = true) : Memory.wf (s.runTodo t T tid th o).mem = true := by
  simp only [State.runTodo]
  repeat' split
  all_goals simp_all

@[simp] theorem State.releaseFrom_wf {s : State} (t l tid) (hm : Memory.wf s.mem = true) : Memory.wf (s.releaseFrom t l tid).mem = true := by
  simp only [State.releaseFrom]
  repeat' split
  all_goals simp [hm]

@[simp] theorem State.releaseLine_wf {s : State} (t l) (hm : Memory.wf s.mem = true) : Memory.wf (s.releaseLine t l).mem = true := by
  rw [State.releaseLine]
  split
  · exact hm
  · exact foldl_wf (fun _ _ h => by simp [h]) _ hm

/-! ## Waiting and waking -/

@[simp] theorem State.onThread_wf {s : State} (t tid) {k : Team → Thread → State} (h : Memory.wf s.mem = true)
    (hk : ∀ T th, Memory.wf (k T th).mem = true) : Memory.wf (s.onThread t tid k).mem = true := by
  simp only [State.onThread]
  repeat' split
  all_goals simp [h, hk]

@[simp] theorem State.release_wf {s : State} (t tid f) (hm : Memory.wf s.mem = true) : Memory.wf (s.release t tid f).mem = true := by
  grind [State.release, State.onThread_wf, State.unpark_wf]

@[simp] theorem State.arithLane_wf {s : State} (t tid) (hm : Memory.wf s.mem = true) : Memory.wf (s.arithLane t tid).mem = true := by
  grind [State.arithLane, State.onThread_wf, State.report_wf, State.setTeam_mem]

@[simp] theorem State.arithEng_wf {s : State} (t idx src flags info) (hm : Memory.wf s.mem = true) :
    Memory.wf (s.arithEng t idx src flags info).mem = true := by
  simp only [State.arithEng]
  repeat' split
  all_goals simp [hm]

@[simp] theorem State.payLine_wf {s : State} (t l) (hm : Memory.wf s.mem = true) : Memory.wf (s.payLine t l).mem = true := by
  simp only [State.payLine]
  repeat' split
  all_goals simp [hm]

@[simp] theorem State.payRest_wf {s : State} (t e) (hm : Memory.wf s.mem = true) : Memory.wf (s.payRest t e).mem = true := by
  rw [State.payRest]
  split
  · refine foldl_wf (fun s u h => ?_) _ hm
    repeat' split
    all_goals simp [h]
  · exact hm

@[simp] theorem State.stopEng_wf {s : State} (t idx f) (hm : Memory.wf s.mem = true) : Memory.wf (s.stopEng t idx f).mem = true := by
  simp only [State.stopEng]
  repeat' split
  all_goals simp [hm]

@[simp] theorem State.fire_wf {s : State} (t idx) (hm : Memory.wf s.mem = true) : Memory.wf (s.fire t idx).mem = true := by
  simp only [State.fire]
  repeat' split
  all_goals simp [hm]

@[simp] theorem State.flip_wf {s : State} (t k) (hm : Memory.wf s.mem = true) : Memory.wf (s.flip t k).mem = true := by
  rw [State.flip]
  split
  · exact hm
  · exact foldl_wf (fun _ _ h => by simp [h]) _ (foldl_wf (fun _ _ h => by simp [h]) _ hm)

@[simp] theorem State.testBar_wf {s : State} (t k) (hm : Memory.wf s.mem = true) : Memory.wf (s.testBar t k).mem = true := by
  simp only [State.testBar]
  repeat' split
  all_goals simp [hm]

@[simp] theorem State.arriveBar_wf {s : State} (t k who) (hm : Memory.wf s.mem = true) : Memory.wf (s.arriveBar t k who).mem = true := by
  simp [State.arriveBar, hm]

@[simp] theorem State.releaseJoin_wf {s : State} (t j status) (hm : Memory.wf s.mem = true) : Memory.wf (s.releaseJoin t j status).mem = true := by
  rw [State.releaseJoin]
  split
  · exact hm
  · exact foldl_wf (fun _ _ h => foldl_wf (fun _ _ h => by simp [h]) _ h) _ hm

@[simp] theorem State.testJoin_wf {s : State} (t j) (hm : Memory.wf s.mem = true) : Memory.wf (s.testJoin t j).mem = true := by
  simp only [State.testJoin]
  repeat' split
  all_goals simp [hm]

@[simp] theorem State.servePop_wf {s : State} (t tid) (hm : Memory.wf s.mem = true) : Memory.wf (s.servePop t tid).mem = true := by
  grind [State.servePop, State.onThread_wf, State.modTeam_mem, State.unpark_wf]

@[simp] theorem State.serveQueue_wf {s : State} (t k) (hm : Memory.wf s.mem = true) : Memory.wf (s.serveQueue t k).mem = true := by
  rw [State.serveQueue]
  split
  · exact hm
  · exact foldl_wf (fun _ _ h => by simp [h]) _ hm

@[simp] theorem State.serveRed_wf {s : State} (t k n fuel) (hm : Memory.wf s.mem = true) : Memory.wf (s.serveRed t k n fuel).mem = true := by
  induction fuel generalizing s with
  | zero => exact hm
  | succ fuel ih =>
    simp only [State.serveRed]
    repeat' split
    all_goals simp [ih, hm]

@[simp] theorem State.testRed_wf {s : State} (t k n) (hm : Memory.wf s.mem = true) : Memory.wf (s.testRed t k n).mem = true := by
  simp [State.testRed, hm]

@[simp] theorem State.endClaim_wf {s : State} (t k ok) (hm : Memory.wf s.mem = true) : Memory.wf (s.endClaim t k ok).mem = true := by
  rw [State.endClaim]
  split
  · exact hm
  · exact foldl_wf (fun _ _ h => by simp [h]) _ hm

theorem State.claimStep_wf {s : State} (t k) (hm : Memory.wf s.mem = true) : ∀ s', s.claimStep t k = some s' → Memory.wf s'.mem = true := by
  simp only [State.claimStep]
  repeat' split
  all_goals simp [hm]

@[simp] theorem State.reconsiderCore_wf {s : State} (c fuel) (hm : Memory.wf s.mem = true) : Memory.wf (s.reconsiderCore c fuel).mem = true := by
  induction fuel generalizing s with
  | zero => exact hm
  | succ fuel ih =>
    rw [State.reconsiderCore]
    split
    next s1 h =>
      obtain ⟨e, -, he⟩ := List.exists_of_findSome?_eq_some h
      exact ih (State.claimStep_wf _ _ hm s1 he)
    next => exact hm

@[simp] theorem State.reconsider_wf {s : State} (c) (hm : Memory.wf s.mem = true) : Memory.wf (s.reconsider c).mem = true := by
  unfold State.reconsider
  split <;> simp [hm]

@[simp] theorem State.reconsiderFor_wf {s : State} (t) (hm : Memory.wf s.mem = true) : Memory.wf (s.reconsiderFor t).mem = true := by
  simp [State.reconsiderFor, hm]

@[simp] theorem State.cwaitRead_wf {s : State} (t T g want next) (hm : Memory.wf s.mem = true) :
    Memory.wf (s.cwaitRead t T g want next).mem = true := by
  grind [State.cwaitRead, State.setSteer_mem, State.steerWait_mem, State.stopSteer_wf, State.judgeLoad_mem]

@[simp] theorem State.pollCwait_wf {s : State} (t) (hm : Memory.wf s.mem = true) : Memory.wf (s.pollCwait t).mem = true := by
  grind [State.pollCwait, State.steerOn_mem, State.cwaitRead_wf]

@[simp] theorem State.pollCwaits_wf {s : State} (ctx) (hm : Memory.wf s.mem = true) : Memory.wf (s.pollCwaits ctx).mem = true :=
  foldl_wf (fun _ _ h => by simp [h]) _ hm

@[simp] theorem State.afterLive_wf {s : State} (t k) (hm : Memory.wf s.mem = true) : Memory.wf (s.afterLive t k).mem = true :=
  State.reconsiderFor_wf _ (foldl_wf (fun _ _ h => by simp [h]) _ (by simp [hm]))

@[simp] theorem State.endThread_wf {s : State} (t tid) (hm : Memory.wf s.mem = true) : Memory.wf (s.endThread t tid).mem = true := by
  rw [State.endThread]
  split
  · exact hm
  · split
    · exact hm
    · exact State.afterLive_wf _ _ (foldl_wf (fun _ _ h => by simp [h]) _ (by simp [hm]))

/-! ## Launches, work queues and counters -/

@[simp] theorem State.rereadCtx_wf {s : State} (ctx) (hm : Memory.wf s.mem = true) : Memory.wf (s.rereadCtx ctx).mem = true :=
  State.pollCwaits_wf _ (foldl_wf (fun _ _ h => by simp [h]) _ hm)

@[simp] theorem execWaitRereadTimer_wf {s : State} (k) (hm : Memory.wf s.mem = true) : ResWf (execWaitRereadTimer k s) := by
  simp only [execWaitRereadTimer]
  repeat' split
  all_goals simp [hm]

@[simp] theorem execTfireReached_wf {s : State} (k) (hm : Memory.wf s.mem = true) : ResWf (execTfireReached k s) := by simp [execTfireReached, hm]

@[simp] theorem State.putQueue_wf {s : State} (q Q) (hm : Memory.wf s.mem = true) : Memory.wf (s.putQueue q Q).mem = true := by
  grind [State.putQueue, State.store_wf, State.touch_mem]

@[simp] theorem execBind_wf {s : State} (q) (hm : Memory.wf s.mem = true) : ResWf (execBind q s) := by
  simp only [execBind]
  repeat' split
  all_goals simp [hm]

@[simp] theorem execUnbind_wf {s : State} (q) (hm : Memory.wf s.mem = true) : ResWf (execUnbind q s) := by
  unfold execUnbind
  split <;> simp [hm]

@[simp] theorem State.ringBell_wf {s : State} (q v) (hm : Memory.wf s.mem = true) : Memory.wf (s.ringBell q v).mem = true := by
  simp only [State.ringBell]
  repeat' split
  all_goals simp [hm]

@[simp] theorem State.consume_wf {s : State} (q ty) {f} (h : Memory.wf s.mem = true) (hf : ∀ s Q bs, Memory.wf s.mem = true → Memory.wf (f s Q
    bs).mem = true) :
    Memory.wf (s.consume q ty f).mem = true := by
  simp only [State.consume]
  repeat' split
  all_goals simp [h, hf]

@[simp] theorem execNopRecord_wf {s : State} (q) (hm : Memory.wf s.mem = true) : ResWf (execNopRecord q s) := by simp [execNopRecord, hm]

@[simp] theorem execLaunchRecord_wf {s : State} (q) (hm : Memory.wf s.mem = true) : ResWf (execLaunchRecord q s) := by
  refine State.consume_wf _ _ hm fun s Q bs h => ?_
  grind [State.judgeLaunch_mem, State.notice_mem, State.acceptGrid_mem, State.rereadGrid_mem]

@[simp] theorem State.addCounter_wf {s : State} (ctx va v) (hm : Memory.wf s.mem = true) : Memory.wf (s.addCounter ctx va v).mem = true := by
  grind [State.addCounter, State.judgeStore_wf, State.store_wf]

@[simp] theorem execSignalRecord_wf {s : State} (q) (hm : Memory.wf s.mem = true) : ResWf (execSignalRecord q s) :=
  State.consume_wf _ _ hm fun s Q bs h => by simp [h]

@[simp] theorem execLaunch_wf {s : State} (d a) (hm : Memory.wf s.mem = true) : ResWf (execLaunch d a s) := by
  refine State.steerRun_wf _ hm fun t T st => ?_
  grind [resWf_next, State.judgeLaunch_mem, State.acceptGrid_mem, State.rereadGrid_mem, State.lateSteer_mem]

@[simp] theorem execWaitch_wf {s : State} (one) (hm : Memory.wf s.mem = true) : ResWf (execWaitch one s) := by
  refine State.steerRun_wf _ hm fun t T st => ?_
  split <;> simp [hm]

/-! ## Contexts -/

@[simp] theorem execActivate_wf {s : State} (ctx) (hm : Memory.wf s.mem = true) : ResWf (execActivate ctx s) := by
  simp only [execActivate]
  repeat' split
  all_goals simp [hm]

@[simp] theorem State.clearPage_wf {s : State} (c ctx va) (hm : Memory.wf s.mem = true) : Memory.wf (s.clearPage c ctx va).mem = true := by
  simp only [State.clearPage]
  split
  · split
    · simpa using hm
    · refine Memory.wf_set _ _ ?_
      rw [State.touchAll_mem]
      exact Memory.wf_clear _ _ (by simpa using hm)
  · simpa using hm

@[simp] theorem State.clearBlock_wf {s : State} (c ctx k n) (hm : Memory.wf s.mem = true) : Memory.wf (s.clearBlock c ctx k n).mem = true :=
  foldl_wf (fun _ _ h => by simp [h]) _ hm

@[simp] theorem State.clearBlocks_wf {s : State} (ctx) (hm : Memory.wf s.mem = true) : Memory.wf (s.clearBlocks ctx).mem = true := by
  rw [State.clearBlocks]
  split
  · exact hm
  · exact foldl_wf (fun _ _ h => by simp [h]) _ hm

@[simp] theorem execDestroy_wf {s : State} (ctx) (hm : Memory.wf s.mem = true) : ResWf (execDestroy ctx s) := by
  unfold execDestroy
  split <;> simp [hm]

@[simp] theorem execInvalPage_wf {s : State} (ctx) (hm : Memory.wf s.mem = true) : ResWf (execInvalPage ctx s) := by
  unfold execInvalPage
  split <;> simp [hm]

@[simp] theorem execInvalAll_wf {s : State} (ctx) (hm : Memory.wf s.mem = true) : ResWf (execInvalAll ctx s) := by
  unfold execInvalAll
  split <;> simp [hm]

/-! ## Receive boxes -/

theorem State.addCredit_wf {s : State} (target ctx box n) (hm : Memory.wf s.mem = true) :
    ∀ s', s.addCredit target ctx box n = some s' → Memory.wf s'.mem = true := by
  unfold State.addCredit
  split <;> simp [hm]

@[simp] theorem State.failSends_wf {s : State} (target ctx box) (hm : Memory.wf s.mem = true) :
    Memory.wf (s.failSends target ctx box).mem = true := by
  refine foldl_wf (fun s e h => foldl_wf (fun s x h => ?_) _ h) _ hm
  repeat' split
  all_goals simp [h]

@[simp] theorem State.failRecords_wf {s : State} (target ctx box) (hm : Memory.wf s.mem = true) :
    Memory.wf (s.failRecords target ctx box).mem = true := by
  refine foldl_wf (fun s x h => ?_) _ hm
  repeat' split
  all_goals simp [h]

@[simp] theorem State.closeBox_wf {s : State} (target ctx box) (hm : Memory.wf s.mem = true) : Memory.wf (s.closeBox target ctx box).mem = true :=
    by
  simp [State.closeBox, hm]

@[simp] theorem State.unbindBoxes_wf {s : State} (t) (hm : Memory.wf s.mem = true) : Memory.wf (s.unbindBoxes t).mem = true := by
  refine foldl_wf (fun s b h => foldl_wf (fun s e h => ?_) _ h) _ hm
  dsimp only
  repeat' split
  all_goals simp [h]

@[simp] theorem execRwgrant_wf {s : State} (d a b f) (hm : Memory.wf s.mem = true) : ResWf (execRwgrant d a b f s) := by
  refine State.steer_wf fun t T st => ?_
  split
  · simp [hm]
  · refine State.steerRun_wf _ hm fun _ _ _ => ?_
    grind [resWf_next, State.stopSteer_wf, State.lateSteer_mem, State.modGrant_mem, State.addCredit_wf, State.newTx_mem]

end Sys2Proof.Laws.CanonicalForm
end


section
/-! The canonical form is kept: the lane's control and synchronisation, steering, engines and the save area. -/

namespace Sys2Proof.Laws.CanonicalForm

open Sys2Proof Sys2Proof.Machine Sys2Proof.Laws.Storing

/-! ## Narrow formats -/

@[simp] theorem execF8pk_wf {s : State} (o kind rm pos) (hm : Memory.wf s.mem = true) : ResWf (execF8pk o kind rm pos s) := by simp [execF8pk, hm]

@[simp] theorem execF4pk_wf {s : State} (o kind rz pos) (hm : Memory.wf s.mem = true) : ResWf (execF4pk o kind rz pos s) := by simp [execF4pk, hm]

@[simp] theorem execF8up_wf {s : State} (o byte e5m2) (hm : Memory.wf s.mem = true) : ResWf (execF8up o byte e5m2 s) := by simp [execF8up, hm]

@[simp] theorem execF4up_wf {s : State} (o nib) (hm : Memory.wf s.mem = true) : ResWf (execF4up o nib s) := by simp [execF4up, hm]

@[simp] theorem execBmax_wf {s : State} (o) (hm : Memory.wf s.mem = true) : ResWf (execBmax o s) := by simp [execBmax, hm]

@[simp] theorem execDxexp_wf {s : State} (o kind delta) (hm : Memory.wf s.mem = true) : ResWf (execDxexp o kind delta s) := by simp [execDxexp, hm]

@[simp] theorem State.qdot_wf {s : State} (four o) (hm : Memory.wf s.mem = true) : ResWf (s.qdot four o) := by simp [State.qdot, hm]

@[simp] theorem execQdot8_wf {s : State} (o) (hm : Memory.wf s.mem = true) : ResWf (execQdot8 o s) := by simp [execQdot8, hm]

@[simp] theorem execQdot4_wf {s : State} (o) (hm : Memory.wf s.mem = true) : ResWf (execQdot4 o s) := by simp [execQdot4, hm]

@[simp] theorem execDxdec_wf {s : State} (o four sel sr sa) (hm : Memory.wf s.mem = true) : ResWf (execDxdec o four sel sr sa s) := by
  simp [execDxdec, hm]

/-! ## The cube -/

@[simp] theorem execCubePass_wf {s : State} (core) (hm : Memory.wf s.mem = true) : ResWf (execCubePass core s) := by
  simp only [execCubePass]
  repeat' split
  all_goals simp [hm]

@[simp] theorem execCdrainStep_wf {s : State} (core) (hm : Memory.wf s.mem = true) : ResWf (execCdrainStep core s) := by
  simp only [execCdrainStep]
  repeat' split
  all_goals simp [hm]

@[simp] theorem State.arriveCmd_wf {s : State} (t e) (hm : Memory.wf s.mem = true) : Memory.wf (s.arriveCmd t e).mem = true := by
  unfold State.arriveCmd
  split <;> simp [hm]

@[simp] theorem State.finishCmd_wf {s : State} (t i e) (hm : Memory.wf s.mem = true) : Memory.wf (s.finishCmd t i e).mem = true := by
  simp only [State.finishCmd]
  repeat' split
  all_goals simp [hm]

@[simp] theorem execCubeComplete_wf {s : State} (t i) (hm : Memory.wf s.mem = true) : ResWf (execCubeComplete t i s) := by
  simp only [execCubeComplete]
  repeat' split
  all_goals simp [hm]

/-! ## Lane control -/

@[simp] theorem execBr_wf {s : State} (p n x tgt) (hm : Memory.wf s.mem = true) : ResWf (execBr p n x tgt s) := by simp [execBr, hm]

@[simp] theorem execJmp_wf {s : State} (tgt) (hm : Memory.wf s.mem = true) : ResWf (execJmp tgt s) := by simp [execJmp, hm]

/-- The state in which a push to or a pop of the link stack leaves the machine. -/
def linkState (r : LinkRes) : State := match r with | .ok s _ _ => s | .bad s _ => s

theorem State.linkPush_wf {s : State} (T tid th ret) (hm : Memory.wf s.mem = true) : Memory.wf (linkState (s.linkPush T tid th ret)).mem = true :=
    by
  simp only [State.linkPush]
  split
  · exact hm
  split
  · exact hm
  split
  · next priv va _ =>
    have hjudge := State.judgeStore_wf T.ctx T.cluster priv va false hm
    split <;> simp_all [linkState, Memory.wf_store]
  · exact hm

theorem State.linkPop_mem (s : State) (T tid th) : (linkState (s.linkPop T tid th)).mem = s.mem := by
  simp only [State.linkPop]
  split
  · rfl
  split
  · rfl
  split
  · next priv va _ =>
    have hjudge := State.judgeLoad_mem s T.ctx T.cluster priv va
    split <;> simp_all [linkState]
  · rfl

@[simp] theorem execCall_wf {s : State} (tgt) (hm : Memory.wf s.mem = true) : ResWf (execCall tgt s) := by
  refine State.laneRun_wf _ _ hm fun t T tid th => ?_
  have hpush := State.linkPush_wf T tid th (BitVec.ofNat 24 th.nextPos.h) hm
  split <;> simp_all [linkState]

@[simp] theorem execCalli_wf {s : State} (a j) (hm : Memory.wf s.mem = true) : ResWf (execCalli a j s) := by
  refine State.laneRun_wf _ _ hm fun t T tid th => ?_
  have hpush := State.linkPush_wf T tid th (BitVec.ofNat 24 th.nextPos.h) hm
  dsimp only
  split
  · simp [hm]
  · split <;> simp_all [linkState]

@[simp] theorem execRet_wf {s : State} (j) (hm : Memory.wf s.mem = true) : ResWf (execRet j s) := by
  refine State.laneRun_wf _ _ hm fun t T tid th => ?_
  have hpop := State.linkPop_mem s T tid th
  split
  · simp_all [linkState]
  · split <;> simp_all [linkState]

@[simp] theorem execJoin_wf {s : State} (a p j) (hm : Memory.wf s.mem = true) : ResWf (execJoin a p j s) := by
  refine State.laneRun_wf _ _ hm fun t T tid th => ?_
  dsimp only
  repeat' split
  all_goals simp [hm]

@[simp] theorem execExit_wf {s : State} (hm : Memory.wf s.mem = true) : ResWf (execExit s) :=
  State.laneRun_wf _ _ hm fun t T tid th => by simp [hm]

@[simp] theorem State.spawnLoop_wf {s : State} (t th ws tgt n) (hm : Memory.wf s.mem = true) :
    Memory.wf (s.spawnLoop t th ws tgt n).1.mem = true := by
  induction n generalizing s with
  | zero => exact hm
  | succ n ih =>
    simp only [State.spawnLoop]
    repeat' split
    all_goals simp [ih, hm]

@[simp] theorem execSpawn_wf {s : State} (a p tgt) (hm : Memory.wf s.mem = true) : ResWf (execSpawn a p tgt s) := by simp [execSpawn, hm]

/-! ## Lane synchronisation -/

@[simp] theorem execRedq_wf {s : State} (n op a x) (hm : Memory.wf s.mem = true) : ResWf (execRedq n op a x s) := by
  refine State.laneRun_wf _ _ hm fun t T tid th => ?_
  split <;> simp [hm]

@[simp] theorem execDqpop_wf {s : State} (d p) (hm : Memory.wf s.mem = true) : ResWf (execDqpop d p s) := by
  refine State.laneRun_wf _ _ hm fun t T tid th => ?_
  split <;> simp [hm]

@[simp] theorem execBara_wf {s : State} (k p) (hm : Memory.wf s.mem = true) : ResWf (execBara k p s) := by
  refine State.laneRun_wf _ _ hm fun t T tid th => State.arriveBar_wf _ _ _ ?_
  split <;> simp [hm]

@[simp] theorem execBarw_wf {s : State} (k arv p) (hm : Memory.wf s.mem = true) : ResWf (execBarw k arv p s) := by
  refine State.laneRun_wf _ _ hm fun t T tid th => ?_
  split <;> simp [hm]

@[simp] theorem State.claimArrive_wf {s : State} (t T tid th a) (hm : Memory.wf s.mem = true) :
    Memory.wf (s.claimArrive t T tid th a).mem = true := by
  simp [State.claimArrive, hm]

@[simp] theorem execRclaim_wf {s : State} (p b) (hm : Memory.wf s.mem = true) : ResWf (execRclaim p b s) := by
  refine State.laneRun_wf _ _ hm fun t T tid th => ?_
  dsimp only
  repeat' split
  all_goals simp [hm]

@[simp] theorem execRrel_wf {s : State} (p b pool) (hm : Memory.wf s.mem = true) : ResWf (execRrel p b pool s) := by
  refine State.laneRun_wf _ _ hm fun t T tid th => ?_
  dsimp only
  repeat' split
  all_goals simp [hm]

@[simp] theorem execTrdy_wf {s : State} (a x b) (hm : Memory.wf s.mem = true) : ResWf (execTrdy a x b s) := by
  refine State.laneRun_wf _ _ hm fun t T tid th => ?_
  dsimp only
  repeat' split
  all_goals simp [hm]

/-! ## Lane system instructions -/

@[simp] theorem execTrap_wf {s : State} (code) (hm : Memory.wf s.mem = true) : ResWf (execTrap code s) := by simp [execTrap, hm]

@[simp] theorem execBrkpt_wf {s : State} (hm : Memory.wf s.mem = true) : ResWf (execBrkpt s) := by simp [execBrkpt, hm]

@[simp] theorem execSrd_wf {s : State} (d sel) (hm : Memory.wf s.mem = true) : ResWf (execSrd d sel s) := by
  unfold execSrd
  split <;> simp [hm]

@[simp] theorem execNop_wf {s : State} (hm : Memory.wf s.mem = true) : ResWf (execNop s) := by simp [execNop, hm]

@[simp] theorem execYield_wf {s : State} (hm : Memory.wf s.mem = true) : ResWf (execYield s) := by simp [execYield, hm]

@[simp] theorem execStat_wf {s : State} (d clr) (hm : Memory.wf s.mem = true) : ResWf (execStat d clr s) := by simp [execStat, hm]

/-! ## Ray instructions and records -/

@[simp] theorem execRayq_wf {s : State} (d a la b p any) (hm : Memory.wf s.mem = true) : ResWf (execRayq d a la b p any s) := by simp [execRayq, hm]

@[simp] theorem execRwsend_wf {s : State} (m) (hm : Memory.wf s.mem = true) : ResWf (execRwsend m s) := by
  refine State.memRun_wf _ _ hm fun t T tid th => ?_
  grind [resWf_next, State.stopLane_wf, State.winCheck_mem, State.rrcWrite_mem, State.park_mem, State.setThread_mem, State.sendRecord_mem]

@[simp] theorem execRwrecv_wf {s : State} (d f la) (hm : Memory.wf s.mem = true) : ResWf (execRwrecv d f la s) := by
  refine State.feedRun_wf _ _ _ _ hm fun t T tid th => ?_
  repeat' split
  all_goals simp [hm]

@[simp] theorem execRwrecvNb_wf {s : State} (d f la p) (hm : Memory.wf s.mem = true) : ResWf (execRwrecvNb d f la p s) := by
  refine State.feedRun_wf _ _ _ _ hm fun t T tid th => ?_
  repeat' split
  all_goals simp [hm]

/-! ## Steering control -/

@[simp] theorem execSbr_wf {s : State} (c n tgt) (hm : Memory.wf s.mem = true) : ResWf (execSbr c n tgt s) := by simp [execSbr, hm]

@[simp] theorem execSjmp_wf {s : State} (tgt) (hm : Memory.wf s.mem = true) : ResWf (execSjmp tgt s) := by simp [execSjmp, hm]

@[simp] theorem execScall_wf {s : State} (tgt) (hm : Memory.wf s.mem = true) : ResWf (execScall tgt s) := by
  refine State.steerRun_wf _ hm fun t T st => ?_
  split <;> simp [hm]

@[simp] theorem execSret_wf {s : State} (hm : Memory.wf s.mem = true) : ResWf (execSret s) := by
  refine State.steerRun_wf _ hm fun t T st => ?_
  split <;> simp [hm]

@[simp] theorem execSloop_wf {s : State} (d tgt) (hm : Memory.wf s.mem = true) : ResWf (execSloop d tgt s) := by simp [execSloop, hm]

@[simp] theorem execSdone_wf {s : State} (hm : Memory.wf s.mem = true) : ResWf (execSdone s) := by
  refine State.steer_wf fun t T st => ?_
  split
  · simp [hm]
  · exact foldl_wf (fun _ _ h => by simp [h]) _ hm

@[simp] theorem execDqpush_wf {s : State} (role b) (hm : Memory.wf s.mem = true) : ResWf (execDqpush role b s) := by
  refine State.steerRun_wf _ hm fun t T st => ?_
  dsimp only
  repeat' split
  all_goals simp [hm]

@[simp] theorem execQrd_wf {s : State} (d q b) (hm : Memory.wf s.mem = true) : ResWf (execQrd d q b s) := by
  refine State.steerRun_wf _ hm fun t T st => ?_
  dsimp only
  repeat' split
  all_goals simp [hm]

@[simp] theorem execStrap_wf {s : State} (code) (hm : Memory.wf s.mem = true) : ResWf (execStrap code s) := by simp [execStrap, hm]

@[simp] theorem execSbrk_wf {s : State} (hm : Memory.wf s.mem = true) : ResWf (execSbrk s) := by simp [execSbrk, hm]

@[simp] theorem execSnop_wf {s : State} (hm : Memory.wf s.mem = true) : ResWf (execSnop s) := by simp [execSnop, hm]

@[simp] theorem execSyld_wf {s : State} (hm : Memory.wf s.mem = true) : ResWf (execSyld s) := by simp [execSyld, hm]

/-! ## Steering memory -/

@[simp] theorem execSld_wf {s : State} (d a z sg x off) (hm : Memory.wf s.mem = true) : ResWf (execSld d a z sg x off s) := by
  refine State.steerRun_wf _ hm fun t T st => ?_
  grind [resWf_next, State.lateSteer_mem, State.stopSteer_wf, State.steerWait_mem, State.judgeLoad_mem]

@[simp] theorem execSst_wf {s : State} (d a z x off) (hm : Memory.wf s.mem = true) : ResWf (execSst d a z x off s) := by
  refine State.steerRun_wf _ hm fun t T st => ?_
  grind [resWf_next, State.stopSteer_wf, State.steerWait_mem, State.spoilScr_mem, State.setTeam_mem, State.judgeStore_wf, State.spoilMem_mem,
    State.store_wf]

@[simp] theorem execSatom_wf {s : State} (d a b op wide u) (hm : Memory.wf s.mem = true) : ResWf (execSatom d a b op wide u s) := by
  refine State.steerRun_wf _ hm fun t T st => ?_
  grind [resWf_next, State.stopSteer_wf, State.steerWait_mem, State.spoilScr_mem, State.lateSteer_mem, State.judgeStore_wf, State.spoilMem_mem,
    State.store_wf]

@[simp] theorem execSfence_wf {s : State} (sc eng) (hm : Memory.wf s.mem = true) : ResWf (execSfence sc eng s) := by simp [execSfence, hm]

@[simp] theorem execSrds_wf {s : State} (d sel) (hm : Memory.wf s.mem = true) : ResWf (execSrds d sel s) := by simp [execSrds, hm]

@[simp] theorem execCwait_wf {s : State} (a b) (hm : Memory.wf s.mem = true) : ResWf (execCwait a b s) := by simp [execCwait, hm]

/-! ## Steering objects -/

@[simp] theorem execAclaim_wf {s : State} (d b) (hm : Memory.wf s.mem = true) : ResWf (execAclaim d b s) := by
  refine State.steerRun_wf _ hm fun t T st => ?_
  dsimp only
  repeat' split
  all_goals simp [hm]

@[simp] theorem execArel_wf {s : State} (b) (hm : Memory.wf s.mem = true) : ResWf (execArel b s) := by
  refine State.steerRun_wf _ hm fun t T st => ?_
  dsimp only
  repeat' split
  all_goals simp [hm]

@[simp] theorem execFinit_wf {s : State} (f a) (hm : Memory.wf s.mem = true) : ResWf (execFinit f a s) := by
  refine State.steerRun_wf _ hm fun t T st => ?_
  dsimp only
  repeat' split
  all_goals simp [hm]

@[simp] theorem execBari_wf {s : State} (k rst b) (hm : Memory.wf s.mem = true) : ResWf (execBari k rst b s) := by simp [execBari, hm]

@[simp] theorem execSbara_wf {s : State} (k c) (hm : Memory.wf s.mem = true) : ResWf (execSbara k c s) := by simp [execSbara, hm]

@[simp] theorem execSbarw_wf {s : State} (k arv c) (hm : Memory.wf s.mem = true) : ResWf (execSbarw k arv c s) := by
  unfold execSbarw
  split <;> simp [hm]

@[simp] theorem execBararm_wf {s : State} (k) (hm : Memory.wf s.mem = true) : ResWf (execBararm k s) := by simp [execBararm, hm]

@[simp] theorem execBararmTile_wf {s : State} (pb k) (hm : Memory.wf s.mem = true) : ResWf (execBararmTile pb k s) := by
  refine State.steerRun_wf _ hm fun t T st => ?_
  split <;> simp [hm]

@[simp] theorem execAttime_wf {s : State} (pb dt) (hm : Memory.wf s.mem = true) : ResWf (execAttime pb dt s) := by simp [execAttime, hm]

@[simp] theorem execBwp_wf {s : State} (b) (hm : Memory.wf s.mem = true) : ResWf (execBwp b s) := by simp [execBwp, hm]

@[simp] theorem execGdetach_wf {s : State} (hm : Memory.wf s.mem = true) : ResWf (execGdetach s) := by
  refine State.steerRun_wf _ hm fun t T st => ?_
  repeat' split
  all_goals simp [hm]

@[simp] theorem execRrinv_wf {s : State} (x) (hm : Memory.wf s.mem = true) : ResWf (execRrinv x s) := by
  refine State.steerRun_wf _ hm fun t T st => ?_
  grind [resWf_next, State.setSteer_mem, State.rrcDrop_mem, State.winEntry_mem, State.stopSteer_wf]

@[simp] theorem execWprobe_wf {s : State} (d x) (hm : Memory.wf s.mem = true) : ResWf (execWprobe d x s) := by
  refine State.steerRun_wf _ hm fun t T st => ?_
  grind [resWf_next, State.winCheck_mem, State.lateSteer_mem, State.newTx_mem]

/-! ## Engine commands -/

@[simp] theorem State.failCmd_wf {s : State} (t T f) (hm : Memory.wf s.mem = true) : Memory.wf (s.failCmd t T f).mem = true := by
  simp [State.failCmd, hm]

@[simp] theorem execCopy_wf {s : State} (e sk dk sf df) (hm : Memory.wf s.mem = true) : ResWf (execCopy e sk dk sf df s) := by simp [execCopy, hm]

@[simp] theorem execCube_wf {s : State} (e mode init fa fb fc k) (hm : Memory.wf s.mem = true) : ResWf (execCube e mode init fa fb fc k s) := by
  refine State.steerRun_wf _ hm fun t T st => ?_
  dsimp only
  repeat' split
  all_goals simp [hm]

@[simp] theorem execCdrain_wf {s : State} (e f clr df k delta) (hm : Memory.wf s.mem = true) : ResWf (execCdrain e f clr df k delta s) := by
  refine State.steerRun_wf _ hm fun t T st => ?_
  dsimp only
  repeat' split
  all_goals simp [hm]

@[simp] theorem execColl_wf {s : State} (e slot grp) (hm : Memory.wf s.mem = true) : ResWf (execColl e slot grp s) := by
  refine State.steerRun_wf _ hm fun t T st => ?_
  dsimp only
  repeat' split
  all_goals simp [hm]

/-! ## Engines -/

@[simp] theorem State.enterAll_wf {s : State} (t but) (hm : Memory.wf s.mem = true) : Memory.wf (s.enterAll t but).mem = true := by
  rw [State.enterAll]
  split
  · exact hm
  · exact foldl_wf (fun _ _ h => foldl_wf (fun _ _ h => by simp [h]) _ h) _ hm

@[simp] theorem State.startTeam_wf {s : State} (t) (hm : Memory.wf s.mem = true) : Memory.wf (s.startTeam t).mem = true := by
  simp [State.startTeam, hm]

@[simp] theorem State.afterStage_wf {s : State} (t) (hm : Memory.wf s.mem = true) : Memory.wf (s.afterStage t).mem = true := by
  simp only [State.afterStage]
  repeat' split
  all_goals simp [hm]

@[simp] theorem State.unitFault_wf {s : State} (t i e u f) (hm : Memory.wf s.mem = true) : Memory.wf (s.unitFault t i e u f).mem = true := by
  unfold State.unitFault
  split <;> simp [hm]

@[simp] theorem State.stageLand_wf {s : State} (t i soff lines u bs) (hm : Memory.wf s.mem = true) :
    Memory.wf (s.stageLand t i soff lines u bs).mem = true := by
  grind [State.stageLand, State.modEng_mem, State.modTeam_mem, State.payLine_wf, State.afterStage_wf, State.drainWaiting_mem, State.dropEng_mem]

@[simp] theorem execStageLineLand_wf {s : State} (t i u) (hm : Memory.wf s.mem = true) : ResWf (execStageLineLand t i u s) := by
  simp only [execStageLineLand]
  repeat' split
  all_goals grind [resWf_next, State.streamRead_mem, State.stageLand_wf, State.unitFault_wf]

@[simp] theorem State.copyLanded_wf {s : State} (t i sk dk sf df par u) (hm : Memory.wf s.mem = true) :
    Memory.wf (s.copyLanded t i sk dk sf df par u).mem = true := by
  grind [State.copyLanded, State.modEng_mem, State.modTeam_mem, State.serveRecvs_wf]

@[simp] theorem State.copyWrite_wf {s : State} (t T i e a sk dk sf df par u bs) (hm : Memory.wf s.mem = true) :
    Memory.wf (s.copyWrite t T i e a sk dk sf df par u bs).mem = true := by
  simp only [State.copyWrite]
  split
  · grind [State.unitFault_wf, State.modTeam_mem, State.spoilScr_mem, State.copyLanded_wf, State.payLine_wf, State.judgeStore_wf, State.putLine_wf,
    State.spoilMem_mem]
  · simp [hm]
  · grind [State.winCheck_mem, State.unitFault_wf, State.copyRanks_mem, State.rrcWrite_mem]

@[simp] theorem State.copyUnit_wf {s : State} (t T i e a sk dk sf df par u) (hm : Memory.wf s.mem = true) :
    Memory.wf (s.copyUnit t T i e a sk dk sf df par u).mem = true := by
  simp only [State.copyUnit]
  repeat' split
  all_goals grind [State.unitFault_wf, State.copyLanded_wf, State.endTxs_mem, State.copyRead_mem, State.copyWrite_wf, State.modEng_mem]

@[simp] theorem execCopyLineLand_wf {s : State} (t i u) (hm : Memory.wf s.mem = true) : ResWf (execCopyLineLand t i u s) := by
  simp only [execCopyLineLand]
  repeat' split
  all_goals simp [hm]

@[simp] theorem execCopyComplete_wf {s : State} (t i) (hm : Memory.wf s.mem = true) : ResWf (execCopyComplete t i s) := by
  simp only [execCopyComplete]
  repeat' split
  all_goals simp [hm]

@[simp] theorem execFiredCommandEnqueue_wf {s : State} (t i) (hm : Memory.wf s.mem = true) : ResWf (execFiredCommandEnqueue t i s) := by
  simp [execFiredCommandEnqueue, hm]

@[simp] theorem execAttimeFire_wf {s : State} (t i) (hm : Memory.wf s.mem = true) : ResWf (execAttimeFire t i s) := by
  simp only [execAttimeFire]
  repeat' split
  all_goals simp_all

/-! ## The save area -/

theorem wf_stores {α : Type} (f : α → Nat) (g : α → List Byte) (l : List α) {m : List Host.Cell} (h : Memory.wf m = true) :
    Memory.wf (l.foldl (fun m p => Memory.store m (f p) (g p)) m) = true := by
  induction l generalizing m with
  | nil => exact h
  | cons p l ih => exact ih (Memory.wf_store _ _ h)

@[simp] theorem State.writeSlotAt_wf {s : State} (T saved) (hm : Memory.wf s.mem = true) : Memory.wf (s.writeSlotAt T saved).mem = true := by
  simp only [State.writeSlotAt]
  repeat' split
  · exact hm
  · exact hm
  · rw [State.touch_mem]
    exact Memory.wf_shifted _ _ _ (wf_stores _ _ _ (Memory.wf_clear _ _ hm))

@[simp] theorem State.writeSlot_wf {s : State} (T) (hm : Memory.wf s.mem = true) : Memory.wf (s.writeSlot T).mem = true := by
  simp [State.writeSlot, hm]

@[simp] theorem State.resave_wf {s : State} (t) (hm : Memory.wf s.mem = true) : Memory.wf (s.resave t).mem = true := by
  simp only [State.resave]
  repeat' split
  all_goals simp [hm]

end Sys2Proof.Laws.CanonicalForm
end


section
/-! The canonical form is kept: collectives and retirement. -/

namespace Sys2Proof.Laws.CanonicalForm

open Sys2Proof Sys2Proof.Machine Sys2Proof.Laws.Storing

/-! ## Collectives -/

@[simp] theorem State.opalPut_wf {s : State} (t T a n f) (hm : Memory.wf s.mem = true) : Memory.wf (s.opalPut t T a n f).1.mem = true := by
  grind [State.opalPut, State.modTeam_mem, State.judgeStore_wf, State.putLine_wf, State.store_wf]

@[simp] theorem State.opalLines_wf {s : State} (t T a x) (hm : Memory.wf s.mem = true) : Memory.wf (s.opalLines t T a x).1.mem = true := by
  induction x generalizing s a with
  | nil => exact hm
  | cons bs r ih => grind [State.opalLines, State.opalPut_wf]

@[simp] theorem State.opalWrite_wf {s : State} (t T a bs) (hm : Memory.wf s.mem = true) : Memory.wf (s.opalWrite t T a bs).1.mem = true := by
  simp only [State.opalWrite]
  split <;> simp [hm]

@[simp] theorem State.collStop_wf {s : State} (t i o f quiet) (hm : Memory.wf s.mem = true) : Memory.wf (s.collStop t i o f quiet).mem = true := by
  simp only [State.collStop]
  repeat' split
  all_goals grind [State.opalPut_wf, State.modRun_mem, State.keepEnd_mem, State.dropRendezvous_mem, State.resave_wf, State.stopEng_wf]

@[simp] theorem State.collFailQ_wf {s : State} (t i cause f origin quiet) (hm : Memory.wf s.mem = true) :
    Memory.wf (s.collFailQ t i cause f origin quiet).mem = true := by
  grind [State.collFailQ, State.collStop_wf, State.collTell_mem]

@[simp] theorem State.collFail_wf {s : State} (t i cause f origin) (hm : Memory.wf s.mem = true) :
    Memory.wf (s.collFail t i cause f origin).mem = true := by
  simp [State.collFail, hm]

@[simp] theorem State.collJudge_wf {s : State} (t T b i k g seq blk whole ranks) (hm : Memory.wf s.mem = true) :
    Memory.wf (s.collJudge t T b i k g seq blk whole ranks).mem = true := by
  unfold State.collJudge
  dsimp only
  split
  · simp [hm]
  · exact hm
  · simp [hm]
  · split <;> simp [hm]
  · grind [State.putRun_mem, State.collStop_wf, State.collFail_wf, State.collPerm_mem]

@[simp] theorem State.collUngrouped_wf {s : State} (t T b i g seq blk f) (hm : Memory.wf s.mem = true) :
    Memory.wf (s.collUngrouped t T b i g seq blk f).mem = true := by
  simp only [State.collUngrouped]
  split <;> simp [hm]

@[simp] theorem State.collBegin_wf {s : State} (t T e i k g seq par) (hm : Memory.wf s.mem = true) :
    Memory.wf (s.collBegin t T e i k g seq par).mem = true := by
  grind [State.collBegin, State.collBlock_mem, State.readGroup_mem, State.collJudge_wf, State.collUngrouped_wf]

@[simp] theorem State.collBit_wf {s : State} (t i k v) (hm : Memory.wf s.mem = true) : Memory.wf (s.collBit t i k v).1.mem = true := by
  grind [State.collBit, State.opalPut_wf, State.modEng_mem]

@[simp] theorem State.collMark_wf {s : State} (t i k v) (hm : Memory.wf s.mem = true) : Memory.wf (s.collMark t i k v).mem = true := by
  grind [State.collMark, State.collBit_wf, State.collFailQ_wf]

@[simp] theorem State.collRdst_wf {s : State} (t i k v win off l x) (hm : Memory.wf s.mem = true) :
    Memory.wf (s.collRdst t i k v win off l x).mem = true := by
  induction x generalizing s l with
  | nil => exact hm
  | cons bs rest ih => grind [State.collRdst, State.winCheck_mem, State.collFail_wf, State.copyRanks_mem, State.rrcWrite_mem]

@[simp] theorem State.collTileEnd_wf {s : State} (t i k v) (hm : Memory.wf s.mem = true) : Memory.wf (s.collTileEnd t i k v).mem = true := by
  rw [State.collTileEnd]
  dsimp only
  split
  · simp [hm]
  split
  · simp [hm]
  split
  · simp [hm]
  have hget := State.collGet_mem s v.T v.r (v.r.tile k)
  split
  · grind
  · grind [State.collFail_wf]
  · split
    · grind [State.modEng_mem, State.modRun_mem, State.collRdst_wf, State.collMark_wf]
    · grind [State.modEng_mem, State.opalWrite_wf, State.collFail_wf, State.collBit_wf, State.collFailQ_wf]

@[simp] theorem State.collAsk_wf {s : State} (t i k g st v) (hm : Memory.wf s.mem = true) : Memory.wf (s.collAsk t i k g st v).mem = true := by
  simp only [State.collAsk]
  repeat' split
  all_goals simp [hm]

@[simp] theorem State.collSend_wf {s : State} (t i k g st a v) (hm : Memory.wf s.mem = true) : Memory.wf (s.collSend t i k g st a v).mem = true :=
    by
  grind [State.collSend, State.collFail_wf, State.collGet_mem, State.modEng_mem, State.collTx_mem]

@[simp] theorem State.collTileGo_wf {s : State} (t i k) (hm : Memory.wf s.mem = true) : Memory.wf (s.collTileGo t i k).mem = true := by
  simp only [State.collTileGo]
  repeat' split
  all_goals simp_all

@[simp] theorem State.collGo_wf {s : State} (t i) (hm : Memory.wf s.mem = true) : Memory.wf (s.collGo t i).mem = true := by
  rw [State.collGo]
  split
  · exact hm
  · split
    · simp [hm]
    · exact foldl_wf (fun _ _ h => by simp [h]) _ hm

@[simp] theorem execCollStart_wf {s : State} (t i) (hm : Memory.wf s.mem = true) : ResWf (execCollStart t i s) := by
  simp only [execCollStart]
  repeat' split
  all_goals simp [hm]

@[simp] theorem State.rtrArrive_wf {s : State} (m) (hm : Memory.wf s.mem = true) : Memory.wf (s.rtrArrive m).1.mem = true := by
  simp only [State.rtrArrive]
  repeat' split
  all_goals simp [hm]

@[simp] theorem State.answerFar_wf {s : State} (ctx g seq rank r) (hm : Memory.wf s.mem = true) :
    Memory.wf (s.answerFar ctx g seq rank r).mem = true := by
  grind [State.answerFar, State.rankEntry_mem, State.send_mem, State.collFail_wf]

@[simp] theorem State.collKeep_wf {s : State} (t i k slot v val last) (hm : Memory.wf s.mem = true) :
    Memory.wf (s.collKeep t i k slot v val last).1.mem = true := by
  grind [State.collKeep, State.opalWrite_wf, State.modRun_mem]

@[simp] theorem State.collTake_wf {s : State} (t i k g slot mode last v data) (hm : Memory.wf s.mem = true) :
    Memory.wf (s.collTake t i k g slot mode last v data).1.mem = true := by
  simp only [State.collTake]
  repeat' split
  all_goals grind [State.opalWrite_wf, State.collFail_wf, State.readTile_mem, State.collGet_mem, State.collKeep_wf, State.endTxs_mem,
    State.collGo_wf, State.modEng_mem]

@[simp] theorem State.transferArrive_wf {s : State} (m data) (hm : Memory.wf s.mem = true) : Memory.wf (s.transferArrive m data).1.mem = true := by
  simp only [State.transferArrive]
  repeat' split
  all_goals simp [hm]

@[simp] theorem State.stageArrive_wf {s : State} (ctx a g seq data) (hm : Memory.wf s.mem = true) :
    Memory.wf (s.stageArrive ctx a g seq data).1.mem = true := by
  grind [State.stageArrive, State.opalWrite_wf, State.collFail_wf, State.modRun_mem]

@[simp] theorem State.abortArrive_wf {s : State} (ctx g seq o) (hm : Memory.wf s.mem = true) : Memory.wf (s.abortArrive ctx g seq o).mem = true :=
    by
  grind [State.abortArrive, State.collStop_wf, State.keepEnd_mem]

@[simp] theorem State.collOwed_wf {s : State} (t i) (hm : Memory.wf s.mem = true) : Memory.wf (s.collOwed t i).mem = true := by
  simp only [State.collOwed]
  repeat' split
  all_goals grind [State.opalPut_wf, State.resave_wf, State.modRun_mem]

@[simp] theorem execCollComplete_wf {s : State} (t i) (hm : Memory.wf s.mem = true) : ResWf (execCollComplete t i s) := by
  rw [execCollComplete]
  split
  · simp [hm]
  · split
    · simp [hm]
    · grind [resWf_next, State.opalPut_wf, State.collFailQ_wf, State.arithEng_wf, State.arriveCmd_wf, State.modTeam_mem, State.dropEng_mem,
      State.keepEnd_mem, State.drainWaiting_mem]

@[simp] theorem State.stepSent_wf {s : State} (t i u) (hm : Memory.wf s.mem = true) : Memory.wf (s.stepSent t i u).mem = true := by
  simp [State.stepSent, hm]

@[simp] theorem State.sentAhead_wf {s : State} (id) (hm : Memory.wf s.mem = true) : Memory.wf (s.sentAhead id).mem = true := by
  simp only [State.sentAhead]
  repeat' split
  all_goals simp [hm]

@[simp] theorem State.collAnswered_wf {s : State} (id x i u a) (hm : Memory.wf s.mem = true) : Memory.wf (s.collAnswered id x i u a).mem = true :=
    by
  grind [State.collAnswered, State.endTx_mem, State.collFail_wf, State.collStop_wf, State.collGo_wf, State.sendDone_mem, State.stepSent_wf]

@[simp] theorem State.collSilent_wf {s : State} (id x i u) (hm : Memory.wf s.mem = true) : Memory.wf (s.collSilent id x i u).mem = true := by
  simp only [State.collSilent]
  repeat' split
  all_goals simp [hm]

/-! ## Retirement -/

@[simp] theorem State.clearCore_wf {s : State} (t T) (hm : Memory.wf s.mem = true) : Memory.wf (s.clearCore t T).mem = true := by
  unfold State.clearCore
  split <;> simp [hm]

@[simp] theorem State.freedBut_wf {s : State} (c but) (hm : Memory.wf s.mem = true) : Memory.wf (s.freedBut c but).mem = true := by
  refine foldl_wf (fun _ _ h => by simp [h]) _ ?_
  split <;> simp [hm]

@[simp] theorem State.freed_wf {s : State} (c) (hm : Memory.wf s.mem = true) : Memory.wf (s.freed c).mem = true := by simp [State.freed, hm]

@[simp] theorem State.retireTeam_wf {s : State} (t T) (hm : Memory.wf s.mem = true) : Memory.wf (s.retireTeam t T).mem = true := by
  grind [State.retireTeam, State.unbindBoxes_wf, State.clearCore_wf, State.modGrid_mem, State.freed_wf]

@[simp] theorem execTeamRetire_wf {s : State} (t) (hm : Memory.wf s.mem = true) : ResWf (execTeamRetire t s) := by
  simp only [execTeamRetire]
  repeat' split
  all_goals simp [hm]

@[simp] theorem State.gridGone_wf {s : State} (k g) (hm : Memory.wf s.mem = true) : Memory.wf (s.gridGone k g).mem = true := by
  simp only [State.gridGone]
  repeat' split
  all_goals simp [hm]

@[simp] theorem execGridRetire_wf {s : State} (k) (hm : Memory.wf s.mem = true) : ResWf (execGridRetire k s) := by
  rw [execGridRetire]
  split
  · exact hm
  · split
    · exact hm
    · dsimp only
      rw [resWf_next, State.flushMgmt_mem]
      refine foldl_wf (fun _ _ h => by simp [h]) _ ?_
      refine State.gridGone_wf _ _ ?_
      dsimp only
      repeat' split
      all_goals simp [hm]

@[simp] theorem execPrivateBlockCleared_wf {s : State} (ctx k) (hm : Memory.wf s.mem = true) : ResWf (execPrivateBlockCleared ctx k s) := by
  simp only [execPrivateBlockCleared]
  repeat' split
  all_goals simp [hm]

end Sys2Proof.Laws.CanonicalForm
end


section
/-! The canonical form is kept: placement, kills, gangs and pre-emption. -/

namespace Sys2Proof.Laws.CanonicalForm

open Sys2Proof Sys2Proof.Machine Sys2Proof.Laws.Storing

/-! ## Placement, saving and resumption -/

@[simp] theorem State.bringUp_wf {s : State} (t d) (hm : Memory.wf s.mem = true) : Memory.wf (s.bringUp t d).mem = true :=
  State.afterStage_wf _ (foldl_wf (fun _ _ h => by simp [h]) _ (foldl_wf (fun _ _ h => by simp [h]) _ (by simp [hm])))

@[simp] theorem State.startSave_wf {s : State} (t) (hm : Memory.wf s.mem = true) : Memory.wf (s.startSave t).mem = true := by
  simp [State.startSave, hm]

@[simp] theorem State.saveGang_wf {s : State} (no) (hm : Memory.wf s.mem = true) : Memory.wf (s.saveGang no).mem = true := by
  rw [State.saveGang, State.saveStep_mem]
  exact foldl_wf (fun _ _ h => by simp [h]) _ hm

@[simp] theorem State.startSaves_wf {s : State} (t) (hm : Memory.wf s.mem = true) : Memory.wf (s.startSaves t).mem = true := by
  simp only [State.startSaves]
  repeat' split
  all_goals simp [hm]

@[simp] theorem State.saveNow_wf {s : State} (t T) (hm : Memory.wf s.mem = true) : Memory.wf (s.saveNow t T).mem = true := by
  grind [State.saveNow, State.writeSlot_wf, State.setTeam_mem, State.clearCore_wf, State.dropUnits_mem, State.freed_wf, State.answerSaves_mem,
    State.saveStep_mem]

@[simp] theorem execSaveComplete_wf {s : State} (t) (hm : Memory.wf s.mem = true) : ResWf (execSaveComplete t s) := by
  simp only [execSaveComplete]
  repeat' split
  all_goals simp [hm]

@[simp] theorem State.recheckParks_wf {s : State} (t) (hm : Memory.wf s.mem = true) : Memory.wf (s.recheckParks t).mem = true := by
  rw [State.recheckParks]
  split
  · exact hm
  · refine State.reconsiderFor_wf _ (foldl_wf (fun _ _ h => by simp [h]) _ (foldl_wf (fun _ _ h => by simp [h]) _ ?_))
    refine foldl_wf (fun _ _ h => foldl_wf (fun _ _ h => by simp [h]) _ h) _ ?_
    refine foldl_wf (fun _ _ h => foldl_wf (fun _ _ h => by simp [h]) _ (by simp [h])) _ ?_
    exact foldl_wf (fun _ _ h => by split <;> simp [h]) _ hm

theorem execParked_wf {s : State} (t tid i) (hm : Memory.wf s.mem = true) : ∀ r, execParked t tid i s = some r → ResWf r := by
  simp only [execParked]
  repeat' split
  all_goals simp [hm]

@[simp] theorem State.parkAgain_wf {s : State} (t tid) (hm : Memory.wf s.mem = true) : Memory.wf (s.parkAgain t tid).mem = true := by
  refine State.onThread_wf _ _ hm fun T th => ?_
  have hback : Memory.wf (s.unpark t T tid { th with nextPos := th.pos }).mem = true := by simp [hm]
  have hfetch := State.fetchClause_mem s T .lane th.pos.h
  dsimp only
  split
  · next s1 cl heq =>
    rw [heq] at hfetch
    have hs1 : Memory.wf s1.mem = true := by
      rw [show s1.mem = s.mem from hfetch]
      exact hm
    split
    · exact hback
    · next x _ =>
      split
      · next s2 hpark =>
        have hs2 : Memory.wf s2.mem = true := by
          refine execParked_wf t tid _ ?_ _ hpark
          exact hs1
        refine State.onThread_wf _ _ hs2 fun T1 th1 => ?_
        split
        · exact hs2
        · exact State.unpark_wf _ _ _ _ hs2
      · exact hback
  · exact hback

@[simp] theorem State.goOn_wf {s : State} (t) (hm : Memory.wf s.mem = true) : Memory.wf (s.goOn t).mem = true := by
  rw [State.goOn]
  split
  · exact hm
  · refine State.recheckParks_wf _ ?_
    split
    · exact foldl_wf (fun _ _ h => by simp [h]) _ (by simp [hm])
    · simp [hm]

@[simp] theorem State.resume_wf {s : State} (t T f) (hm : Memory.wf s.mem = true) : Memory.wf (s.resume t T f).mem = true := by
  simp [State.resume, hm]

theorem State.placeAt_wf {s : State} (e w f) (hm : Memory.wf s.mem = true) : ∀ s', s.placeAt e w f = some s' → Memory.wf s'.mem = true := by
  intro s' h
  rw [State.placeAt] at h
  split at h
  · split at h
    · exact nomatch h
    · obtain ⟨s1, hs1, rfl⟩ := Option.map_eq_some_iff.1 h
      have hmem := State.reserve_mem s _ _ _ _ _ _ s1 hs1
      simp [hmem, hm]
  · obtain ⟨T, -, rfl⟩ := Option.map_eq_some_iff.1 h
    simp [hm]

@[simp] theorem State.placeFrom_wf {s : State} (e head ws) (hm : Memory.wf s.mem = true) : Memory.wf (s.placeFrom e head ws).mem = true := by
  induction ws generalizing s head with
  | nil => exact hm
  | cons w rest ih => grind [State.placeFrom, State.placeAt_wf, State.setDie_mem]

@[simp] theorem execTeamPlace_wf {s : State} (die) (hm : Memory.wf s.mem = true) : ResWf (execTeamPlace die s) := by simp [execTeamPlace, hm]

@[simp] theorem execTeamResume_wf {s : State} (t) (hm : Memory.wf s.mem = true) : ResWf (execTeamResume t s) := by
  simp only [execTeamResume]
  repeat' split
  all_goals simp [hm]

@[simp] theorem execPassoverTimeout_wf {s : State} (die) (hm : Memory.wf s.mem = true) : ResWf (execPassoverTimeout die s) := by
  simp [execPassoverTimeout, hm]

/-! ## Fault commands and kills -/

@[simp] theorem State.fltOn_wf {s : State} (x grid) {f} (hm : Memory.wf s.mem = true)
    (hf : ∀ s t T s', Memory.wf s.mem = true → f s t T = some s' → Memory.wf s'.mem = true) : Memory.wf (s.fltOn x grid f).mem = true := by
  simp only [State.fltOn]
  split
  · simp [hm]
  · split
    · next s2 h =>
      obtain ⟨T, -, hT⟩ := Option.bind_eq_some_iff.1 h
      exact hf _ _ T s2 (by simp [hm]) hT
    · simp [hm]

@[simp] theorem State.endKill_wf {s : State} (ts tid recs) (hm : Memory.wf s.mem = true) : Memory.wf (s.endKill ts tid recs).mem = true := by
  rw [State.endKill]
  split
  · exact hm
  · rw [State.fltDone_mem]
    exact foldl_wf (fun _ _ h => by simp [h]) _ hm

@[simp] theorem State.restartEng_wf {s : State} (t i e) (hm : Memory.wf s.mem = true) : Memory.wf (s.restartEng t i e).mem = true := by
  unfold State.restartEng
  split <;> simp [hm]

theorem State.restartAt_wf {s : State} (t T x) (hm : Memory.wf s.mem = true) : ∀ s', s.restartAt t T x = some s' → Memory.wf s'.mem = true := by
  simp only [State.restartAt]
  repeat' split
  all_goals simp [hm]

@[simp] theorem State.restartRun_wf {s : State} (x grid) (hm : Memory.wf s.mem = true) : Memory.wf (s.restartRun x grid).mem = true := by
  refine State.fltOn_wf _ _ hm fun s t T s' h hs' => ?_
  obtain ⟨s1, hs1, rfl⟩ := Option.map_eq_some_iff.1 hs'
  simp [State.restartAt_wf t T x h s1 hs1]

@[simp] theorem State.discardEng_wf {s : State} (t i e) (hm : Memory.wf s.mem = true) : Memory.wf (s.discardEng t i e).mem = true := by
  unfold State.discardEng
  split <;> simp [hm]

@[simp] theorem State.discardRun_wf {s : State} (x grid) (hm : Memory.wf s.mem = true) : Memory.wf (s.discardRun x grid).mem = true := by
  refine State.fltOn_wf _ _ hm fun s t T s' h hs' => ?_
  obtain ⟨e, -, he⟩ := Option.bind_eq_some_iff.1 hs'
  split at he
  · obtain rfl := Option.some.inj he
    simp [h]
  · exact nomatch he

@[simp] theorem State.killthreadRun_wf {s : State} (x grid) (hm : Memory.wf s.mem = true) : Memory.wf (s.killthreadRun x grid).mem = true := by
  refine State.fltOn_wf _ _ hm fun s t T s' h hs' => ?_
  obtain ⟨th, -, hth⟩ := Option.bind_eq_some_iff.1 hs'
  split at hth
  · exact nomatch hth
  · obtain rfl := Option.some.inj hth
    exact State.endKill_wf _ _ _ (by simp [h])

@[simp] theorem State.recordBreak_wf {s : State} (no m) (hm : Memory.wf s.mem = true) : Memory.wf (s.recordBreak no m).mem = true := by
  rw [State.recordBreak, State.saveStep_mem]
  exact foldl_wf (fun _ _ h => by simp [h]) _ hm

@[simp] theorem State.breakGang_wf {s : State} (no m) (hm : Memory.wf s.mem = true) : Memory.wf (s.breakGang no m).mem = true := by
  unfold State.breakGang
  split <;> simp [hm]

@[simp] theorem State.killTeam_wf {s : State} (t) (hm : Memory.wf s.mem = true) : Memory.wf (s.killTeam t).mem = true := by
  grind [State.killTeam, State.modTeam_mem, State.answerSaves_mem, State.unbindBoxes_wf, State.clearCore_wf, State.collKill_mem,
    State.dropUnsent_mem, State.grantAclaims_mem, State.breakGang_wf]

@[simp] theorem State.killteamRun_wf {s : State} (x grid) (hm : Memory.wf s.mem = true) : Memory.wf (s.killteamRun x grid).mem = true := by
  unfold State.killteamRun
  split <;> simp [hm]

@[simp] theorem State.killGrid_wf {s : State} (k) (hm : Memory.wf s.mem = true) : Memory.wf (s.killGrid k).mem = true := by
  rw [State.killGrid]
  split
  · exact hm
  · next g _ =>
    have hteams : Memory.wf ((s.teams.filter fun e => e.2.grid == k).foldl (fun s e => s.killTeam e.1) s).mem = true :=
      foldl_wf (fun _ _ h => by simp [h]) _ hm
    dsimp only
    split
    · have hbreak := foldl_wf (g := fun s m => if (Map.find? s.grids k).any (fun g => Map.get 0 g.members m == 3) then s else s.breakGang g.no m)
        (fun _ _ h => by split <;> simp [h]) (span 0 g.desc.nteam) hteams
      split
      · refine foldl_wf (fun _ _ h => by simp [h]) _ ?_
        exact foldl_wf (fun _ _ h => by split <;> simp [h]) _ hteams
      · exact foldl_wf (fun _ _ h => by split <;> simp [h]) _ hteams
    · exact hteams

@[simp] theorem State.killgridRun_wf {s : State} (x grid) (hm : Memory.wf s.mem = true) : Memory.wf (s.killgridRun x grid).mem = true := by
  rw [State.killgridRun]
  split
  · simp [hm]
  · exact State.endKill_wf _ _ _ (foldl_wf (fun _ _ h => by simp [h]) _ hm)

@[simp] theorem State.killedAway_wf {s : State} (k) (hm : Memory.wf s.mem = true) : Memory.wf (s.killedAway k).mem = true := by
  rw [State.killedAway]
  split
  · exact hm
  · refine foldl_wf (fun _ _ h => by simp [h]) _ (foldl_wf (fun _ _ h => by simp [h]) _ (State.killGrid_wf _ ?_))
    split <;> simp [hm]

@[simp] theorem State.runFlt_wf {s : State} (op x grid) (hm : Memory.wf s.mem = true) : Memory.wf (s.runFlt op x grid).mem = true := by
  unfold State.runFlt
  split <;> simp [hm]

@[simp] theorem State.fltCmd_wf {s : State} (op x) (hm : Memory.wf s.mem = true) : Memory.wf (s.fltCmd op x).mem = true := by
  unfold State.fltCmd
  split <;> simp [hm]

@[simp] theorem State.fltGo_wf {s : State} (x) (hm : Memory.wf s.mem = true) : Memory.wf (s.fltGo x).mem = true := by
  induction x generalizing s with
  | zero => exact hm
  | succ fuel ih =>
    rw [State.fltGo]
    split
    · exact hm
    · next j rest _ =>
      cases j with
      | kill ts tid recs =>
        have hjob := State.endKill_wf (s := { s with ctl := { s.ctl with jobs := [] } }) ts tid recs hm
        dsimp only
        split
        · exact ih hjob
        · exact hjob
      | queued op x grid =>
        have hjob := State.runFlt_wf (s := { s with ctl := { s.ctl with jobs := [] } }) op x grid hm
        dsimp only
        split
        · exact ih hjob
        · exact hjob

@[simp] theorem execRestart_wf {s : State} (x) (hm : Memory.wf s.mem = true) : ResWf (execRestart x s) := by simp [execRestart, hm]

@[simp] theorem execDiscard_wf {s : State} (x) (hm : Memory.wf s.mem = true) : ResWf (execDiscard x s) := by simp [execDiscard, hm]

@[simp] theorem execKillthread_wf {s : State} (x) (hm : Memory.wf s.mem = true) : ResWf (execKillthread x s) := by simp [execKillthread, hm]

@[simp] theorem execKillteam_wf {s : State} (x) (hm : Memory.wf s.mem = true) : ResWf (execKillteam x s) := by simp [execKillteam, hm]

@[simp] theorem execKillgrid_wf {s : State} (x) (hm : Memory.wf s.mem = true) : ResWf (execKillgrid x s) := by simp [execKillgrid, hm]

/-! ## Gangs -/

@[simp] theorem execGangRound_wf {s : State} (k) (hm : Memory.wf s.mem = true) : ResWf (execGangRound k s) := by
  simp only [execGangRound]
  repeat' split
  all_goals simp [hm]

@[simp] theorem execGangReservationAnswer_wf {s : State} (no m granted) (hm : Memory.wf s.mem = true) :
    ResWf (execGangReservationAnswer no m granted s) := by
  rw [execGangReservationAnswer]
  split
  · exact hm
  · split
    · next since got _ =>
      split
      · simp [hm]
      · generalize (if got.contains m then got else got ++ [m]) = now
        dsimp only
        split
        · exact foldl_wf (fun _ _ h => by simp [h]) _ hm
        · exact hm
    · exact hm

@[simp] theorem execGangRoundTimeout_wf {s : State} (k) (hm : Memory.wf s.mem = true) : ResWf (execGangRoundTimeout k s) := by
  simp only [execGangRoundTimeout]
  repeat' split
  all_goals simp [hm]

@[simp] theorem execGangRetry_wf {s : State} (r) (hm : Memory.wf s.mem = true) : ResWf (execGangRetry r s) := by
  simp only [execGangRetry]
  repeat' split
  all_goals simp [hm]

@[simp] theorem State.childOver_wf {s : State} (g m child) (hm : Memory.wf s.mem = true) : Memory.wf (s.childOver g m child).mem = true := by
  simp only [State.childOver]
  repeat' split
  all_goals simp [hm]

@[simp] theorem State.brokerMark_wf {s : State} (no x) (hm : Memory.wf s.mem = true) : Memory.wf (s.brokerMark no x).mem = true := by
  simp only [State.brokerMark]
  repeat' split
  all_goals simp [hm]

@[simp] theorem execGangStagedReport_wf {s : State} (no m) (hm : Memory.wf s.mem = true) : ResWf (execGangStagedReport no m s) := by
  simp only [execGangStagedReport]
  repeat' split
  all_goals simp [hm]

@[simp] theorem State.undoResv_wf {s : State} (r) (hm : Memory.wf s.mem = true) : Memory.wf (s.undoResv r).mem = true := by simp [State.undoResv,
    hm]

@[simp] theorem State.fillSlot_wf {s : State} (j m) (hm : Memory.wf s.mem = true) : Memory.wf (s.fillSlot j m).mem = true := by
  simp only [State.fillSlot]
  split
  · exact hm
  · rw [State.touch_mem]
    exact Memory.wf_shifted _ _ _ (Memory.wf_clear _ _ hm)

theorem State.reserveMember_wf {s : State} (r f) (hm : Memory.wf s.mem = true) :
    ∀ s', s.reserveMember r f = some s' → Memory.wf s'.mem = true := by
  intro s' h
  rw [State.reserveMember] at h
  dsimp only at h
  split at h
  · obtain ⟨g, hg, h⟩ := Option.bind_eq_some_iff.1 h
    obtain ⟨e, -, rfl⟩ := Option.map_eq_some_iff.1 h
    simp [State.gangRecord_mem s r g hg, hm]
  · split at h
    · exact nomatch h
    · next s1 k g hg =>
      have hs1 : Memory.wf s1.mem = true := by rw [State.gangRecord_mem s r _ hg]; exact hm
      split at h
      · obtain rfl := Option.some.inj h
        exact State.fillSlot_wf _ _ hs1
      · exact nomatch h
  · split at h
    · exact nomatch h
    · next s1 k g hg =>
      have hs1 : Memory.wf s1.mem = true := by rw [State.gangRecord_mem s r _ hg]; exact hm
      obtain ⟨s2, hs2, rfl⟩ := Option.map_eq_some_iff.1 h
      simp [State.reserve_mem s1 _ _ _ _ _ _ s2 hs2, hs1]

theorem State.tryReserve_wf {s : State} (r) (hm : Memory.wf s.mem = true) : ∀ s', s.tryReserve r = some s' → Memory.wf s'.mem = true := by
  intro s' h
  obtain ⟨d, -, h⟩ := Option.bind_eq_some_iff.1 h
  obtain ⟨f, -, h⟩ := Option.bind_eq_some_iff.1 h
  exact State.reserveMember_wf r f hm s' h

theorem State.makeRoom_wf {s : State} (r) (hm : Memory.wf s.mem = true) : ∀ s', s.makeRoom r = some s' → Memory.wf s'.mem = true := by
  intro s' h
  rw [State.makeRoom] at h
  split at h
  · next s1 hs1 =>
    obtain rfl := Option.some.inj h
    exact State.tryReserve_wf r hm _ hs1
  · dsimp only at h
    split at h
    · exact nomatch h
    · obtain ⟨s1, hs1, rfl⟩ := Option.map_eq_some_iff.1 h
      exact foldl_wf (fun _ _ h => by simp [h]) _ (State.tryReserve_wf r (foldl_wf (fun _ _ h => by simp [h]) _ hm) s1 hs1)

theorem State.grantMember_wf {s : State} (r) (hm : Memory.wf s.mem = true) : ∀ s', s.grantMember r = some s' → Memory.wf s'.mem = true := by
  grind [State.grantMember, State.makeRoom_wf]

@[simp] theorem execGangReservationRequest_wf {s : State} (r) (hm : Memory.wf s.mem = true) : ResWf (execGangReservationRequest r s) := by
  rw [execGangReservationRequest]
  dsimp only
  split
  · simp [hm]
  · split
    · next s1 hs1 => simp [State.grantMember_wf r hm s1 hs1]
    · rw [resWf_next, State.post_mem]
      split <;> exact hm

@[simp] theorem execGangRelease_wf {s : State} (no m) (hm : Memory.wf s.mem = true) : ResWf (execGangRelease no m s) := by
  unfold execGangRelease
  split <;> simp [hm]

@[simp] theorem State.bringMember_wf {s : State} (r) (hm : Memory.wf s.mem = true) : Memory.wf (s.bringMember r).mem = true := by
  simp only [State.bringMember]
  repeat' split
  all_goals simp [hm]

@[simp] theorem execGangCommit_wf {s : State} (no) (hm : Memory.wf s.mem = true) : ResWf (execGangCommit no s) :=
  foldl_wf (fun _ _ h => by simp [h]) _ hm

@[simp] theorem State.collMoved_wf {s : State} (t o) (hm : Memory.wf s.mem = true) : Memory.wf (s.collMoved t o).mem = true := by
  simp only [State.collMoved]
  split <;> simp [hm]

@[simp] theorem State.resumeHere_wf {s : State} (t T brought) (hm : Memory.wf s.mem = true) : Memory.wf (s.resumeHere t T brought).mem = true := by
  rw [State.resumeHere]
  split
  · dsimp only
    rw [State.grantAclaims_mem]
    refine State.goOn_wf _ ?_
    split
    · exact foldl_wf (fun _ _ h => by simp [h]) _ hm
    · exact hm
  · exact hm

@[simp] theorem State.dropMoved_wf {s : State} (no) (hm : Memory.wf s.mem = true) : Memory.wf (s.dropMoved no).mem = true := by
  refine foldl_wf (fun s e h => ?_) _ hm
  dsimp only
  split <;> simp [h]

@[simp] theorem execGangOpen_wf {s : State} (no) (hm : Memory.wf s.mem = true) : ResWf (execGangOpen no s) := by
  refine foldl_wf (fun _ _ h => by split <;> simp [h]) _ (foldl_wf (fun s r h => ?_) _ (State.dropMoved_wf _ hm))
  repeat' split
  all_goals simp [h]

@[simp] theorem State.breakMember_wf {s : State} (no m) (hm : Memory.wf s.mem = true) : Memory.wf (s.breakMember no m).mem = true := by
  unfold State.breakMember
  split <;> simp [hm]

@[simp] theorem execGangBringupTimeout_wf {s : State} (k m) (hm : Memory.wf s.mem = true) : ResWf (execGangBringupTimeout k m s) := by
  simp only [execGangBringupTimeout]
  repeat' split
  all_goals simp [hm]

@[simp] theorem execDetachNotice_wf {s : State} (no m done) (hm : Memory.wf s.mem = true) : ResWf (execDetachNotice no m done s) := by
  simp [execDetachNotice, hm]

@[simp] theorem execGangBreak_wf {s : State} (no m) (hm : Memory.wf s.mem = true) : ResWf (execGangBreak no m s) := by
  simp only [execGangBreak]
  split <;> simp [hm]

@[simp] theorem execBrokerSilenceTimeout_wf {s : State} (no m) (hm : Memory.wf s.mem = true) : ResWf (execBrokerSilenceTimeout no m s) := by
  simp only [execBrokerSilenceTimeout]
  repeat' split
  all_goals simp [hm]

@[simp] theorem execGangSaveRequest_wf {s : State} (no) (hm : Memory.wf s.mem = true) : ResWf (execGangSaveRequest no s) := by
  simp [execGangSaveRequest, hm]

/-! ## Pre-emption -/

@[simp] theorem State.preempt_wf {s : State} (e P d) (hm : Memory.wf s.mem = true) : Memory.wf (s.preempt e P d).mem = true :=
  foldl_wf (fun _ _ h => by simp [h]) _ hm

@[simp] theorem execPreemptTimeout_wf {s : State} (die) (hm : Memory.wf s.mem = true) : ResWf (execPreemptTimeout die s) :=
  foldl_wf (fun _ _ h => by simp [h]) _ (foldl_wf (fun _ _ h => by simp [h]) _ hm)

@[simp] theorem execWaitchSaveTimeout_wf {s : State} (die) (hm : Memory.wf s.mem = true) : ResWf (execWaitchSaveTimeout die s) := by
  simp only [execWaitchSaveTimeout]
  split <;> simp [hm]

end Sys2Proof.Laws.CanonicalForm
end


section
/-! The canonical form is kept: the pod, the scheduler, the host and the lane's integers. -/

namespace Sys2Proof.Laws.CanonicalForm

open Sys2Proof Sys2Proof.Machine Sys2Proof.Laws.Storing

/-! ## The pod -/

@[simp] theorem execStationTrain_wf {s : State} (i t) (hm : Memory.wf s.mem = true) : ResWf (execStationTrain i t s) := by
  unfold execStationTrain
  split <;> simp [hm]

@[simp] theorem execStationDown_wf {s : State} (i) (hm : Memory.wf s.mem = true) : ResWf (execStationDown i s) := by simp [execStationDown, hm]

@[simp] theorem execStationUp_wf {s : State} (i) (hm : Memory.wf s.mem = true) : ResWf (execStationUp i s) := by
  unfold execStationUp
  split <;> simp [hm]

@[simp] theorem execReachReport_wf {s : State} (i aids) (hm : Memory.wf s.mem = true) : ResWf (execReachReport i aids s) := by
  simp [execReachReport, hm]

@[simp] theorem execSlotmapWrite_wf {s : State} (k v) (hm : Memory.wf s.mem = true) : ResWf (execSlotmapWrite k v s) := by simp [execSlotmapWrite,
    hm]

@[simp] theorem execSlotTransmit_wf {s : State} (i) (hm : Memory.wf s.mem = true) : ResWf (execSlotTransmit i s) := by
  simp only [execSlotTransmit]
  repeat' split
  all_goals simp [hm]

@[simp] theorem State.rayAnswered_wf {s : State} (id x tid late run r) (hm : Memory.wf s.mem = true) :
    Memory.wf (s.rayAnswered id x tid late run r).mem = true := by
  simp only [State.rayAnswered]
  repeat' split
  all_goals grind [State.endTx_mem, State.accessDone_mem, State.modThread_mem, State.txFault_wf, State.rayQuery_mem, State.sendRay_mem,
    State.modTx_mem, State.stopAccess_wf]

@[simp] theorem State.deliver_wf {s : State} (id x r) (hm : Memory.wf s.mem = true) : Memory.wf (s.deliver id x r).mem = true := by
  simp only [State.deliver]
  repeat' split
  all_goals simp_all

@[simp] theorem State.answerWhole_wf {s : State} (id x r) (hm : Memory.wf s.mem = true) : Memory.wf (s.answerWhole id x r).mem = true := by
  simp [State.answerWhole, hm]

@[simp] theorem State.answer_wf {s : State} (id x r) (hm : Memory.wf s.mem = true) : Memory.wf (s.answer id x r).mem = true := by
  simp only [State.answer]
  repeat' split
  all_goals simp [hm]

@[simp] theorem State.redeliver_wf {s : State} (id) (hm : Memory.wf s.mem = true) : Memory.wf (s.redeliver id).mem = true := by
  simp only [State.redeliver]
  repeat' split
  all_goals simp [hm]

@[simp] theorem State.arrive_wf {s : State} (x b) (hm : Memory.wf s.mem = true) : Memory.wf (s.arrive x b).1.mem = true := by
  grind [State.arrive, State.rtrArrive_wf, State.transferArrive_wf, State.stageArrive_wf, State.serveSend_wf, State.uncredit_mem, State.closeBox_wf,
    State.abortArrive_wf, State.addCredit_wf, State.inbound_wf]

@[simp] theorem State.sendAgain_wf {s : State} (id x) (hm : Memory.wf s.mem = true) : Memory.wf (s.sendAgain id x).mem = true := by
  simp only [State.sendAgain]
  split <;> simp [hm]

@[simp] theorem execWindowReply_wf {s : State} (id r) (hm : Memory.wf s.mem = true) : ResWf (execWindowReply id r s) := by
  simp only [execWindowReply]
  split
  · exact hm
  split
  · simp [hm]
  split
  · exact hm
  split
  · grind [resWf_next, State.arrive_wf, State.modTx_mem, State.answer_wf]
  repeat' split
  all_goals simp [hm]

@[simp] theorem execWindowTimeout_wf {s : State} (id) (hm : Memory.wf s.mem = true) : ResWf (execWindowTimeout id s) := by
  simp only [execWindowTimeout]
  repeat' split
  all_goals simp [hm]

@[simp] theorem State.receive_wf {s : State} (q) (hm : Memory.wf s.mem = true) : Memory.wf (s.receive q).mem = true := by
  grind [State.receive, State.arrive_wf]

@[simp] theorem State.takeCell_wf {s : State} (x) (hm : Memory.wf s.mem = true) : Memory.wf (s.takeCell x).mem = true := by
  simp only [State.takeCell]
  repeat' split
  all_goals simp [hm]

@[simp] theorem execInboundTransaction_wf {s : State} (x) (hm : Memory.wf s.mem = true) : ResWf (execInboundTransaction x s) := by
  simp [execInboundTransaction, hm]

@[simp] theorem State.takeRwr_wf {s : State} (src ctx key box op) (hm : Memory.wf s.mem = true) :
    Memory.wf (s.takeRwr src ctx key box op).mem = true := by
  simp only [State.takeRwr]
  repeat' split
  all_goals simp [hm]

@[simp] theorem execGrantMessage_wf {s : State} (src ctx box n) (hm : Memory.wf s.mem = true) : ResWf (execGrantMessage src ctx box n s) := by
  simp [execGrantMessage, hm]

@[simp] theorem execRecordLand_wf {s : State} (src ctx key box data) (hm : Memory.wf s.mem = true) :
    ResWf (execRecordLand src ctx key box data s) := by
  simp [execRecordLand, hm]

@[simp] theorem execSlotReturn_wf {s : State} (src ctx box) (hm : Memory.wf s.mem = true) : ResWf (execSlotReturn src ctx box s) := by
  simp [execSlotReturn, hm]

@[simp] theorem execCloseNotice_wf {s : State} (src ctx box) (hm : Memory.wf s.mem = true) : ResWf (execCloseNotice src ctx box s) := by
  simp [execCloseNotice, hm]

@[simp] theorem State.takeComp_wf {s : State} (src ctx a g seq op) (hm : Memory.wf s.mem = true) :
    Memory.wf (s.takeComp src ctx a g seq op).mem = true := by
  simp [State.takeComp, hm]

@[simp] theorem execReadyToReceive_wf {s : State} (m) (hm : Memory.wf s.mem = true) : ResWf (execReadyToReceive m s) := by
  simp only [execReadyToReceive]
  repeat' split
  all_goals simp [hm]

@[simp] theorem execTransferDone_wf {s : State} (m data) (hm : Memory.wf s.mem = true) : ResWf (execTransferDone m data s) := by
  simp only [execTransferDone]
  repeat' split
  all_goals simp [hm]

@[simp] theorem execCollQuery_wf {s : State} (ctx g seq asker) (hm : Memory.wf s.mem = true) : ResWf (execCollQuery ctx g seq asker s) := by
  simp only [execCollQuery]
  repeat' split
  all_goals simp [hm]

@[simp] theorem execCollAbort_wf {s : State} (at0 g seq cause code rank norank) (hm : Memory.wf s.mem = true) :
    ResWf (execCollAbort at0 g seq cause code rank norank s) := by
  unfold execCollAbort
  split <;> simp [hm]

@[simp] theorem execTimeBeacon_wf {s : State} (beacons xpod) (hm : Memory.wf s.mem = true) : ResWf (execTimeBeacon beacons xpod s) := by
  simp only [execTimeBeacon]
  repeat' split
  all_goals simp [hm]

@[simp] theorem execBeaconLoss_wf {s : State} (hm : Memory.wf s.mem = true) : ResWf (execBeaconLoss s) := by
  unfold execBeaconLoss
  split <;> simp [hm]

/-! ## Fetching -/

@[simp] theorem execReservedEncoding_wf {s : State} (code) (hm : Memory.wf s.mem = true) : ResWf (execReservedEncoding code s) := by
  unfold execReservedEncoding
  split <;> simp [hm]

/-! ## The scheduler -/

@[simp] theorem execLateResultWrite_wf {s : State} (p id) (hm : Memory.wf s.mem = true) : ResWf (execLateResultWrite p id s) := by
  simp only [execLateResultWrite]
  repeat' split
  all_goals simp [hm]

@[simp] theorem execWaveSwap_wf {s : State} (core part) (hm : Memory.wf s.mem = true) : ResWf (execWaveSwap core part s) := by
  simp only [execWaveSwap]
  repeat' split
  all_goals simp [hm]

@[simp] theorem execStarvationPromote_wf {s : State} (core part) (hm : Memory.wf s.mem = true) : ResWf (execStarvationPromote core part s) := by
  simp only [execStarvationPromote]
  split <;> simp [hm]

@[simp] theorem State.emitAt_wf {s : State} (c p i k) (hm : Memory.wf s.mem = true) : Memory.wf (s.emitAt c p i k).mem = true := by
  simp only [State.emitAt]
  split <;> simp [hm]

@[simp] theorem State.emit_wf {s : State} (c p i) (hm : Memory.wf s.mem = true) : Memory.wf (s.emit c p i).mem = true := by
  simp only [State.emit]
  repeat' split
  all_goals simp [hm]

@[simp] theorem execFormerEmitTimeout_wf {s : State} (core part) (hm : Memory.wf s.mem = true) : ResWf (execFormerEmitTimeout core part s) := by
  unfold execFormerEmitTimeout
  split <;> simp [hm]

@[simp] theorem State.requeue_wf {s : State} (p w) (hm : Memory.wf s.mem = true) : Memory.wf (s.requeue p w).mem = true := by
  unfold State.requeue
  split <;> simp [hm]

@[simp] theorem execSlotReclaim_wf {s : State} (core part) (hm : Memory.wf s.mem = true) : ResWf (execSlotReclaim core part s) := by
  simp only [execSlotReclaim]
  split <;> simp [hm]

@[simp] theorem execJoinTimeout_wf {s : State} (t j) (hm : Memory.wf s.mem = true) : ResWf (execJoinTimeout t j s) := by
  simp only [execJoinTimeout]
  repeat' split
  all_goals simp [hm]

@[simp] theorem State.endJoins_wf {s : State} (hm : Memory.wf s.mem = true) : Memory.wf (s.endJoins).mem = true := by
  refine foldl_wf (fun s e h => ?_) _ hm
  split
  · exact foldl_wf (fun _ _ h => by simp [h]) _ h
  · exact h

@[simp] theorem State.reportDead_wf {s : State} (t) (hm : Memory.wf s.mem = true) : Memory.wf (s.reportDead t).mem = true := by
  unfold State.reportDead
  split <;> simp [hm]

@[simp] theorem State.failClaims_wf {s : State} (t) (hm : Memory.wf s.mem = true) : Memory.wf (s.failClaims t).mem = true := by
  rw [State.failClaims]
  split
  · exact hm
  · next T _ =>
    have hends : Memory.wf (((span 0 T.roles.length).filter fun k => !(T.role k).claim.isEmpty).foldl
        (fun s k => s.endClaim t k false) s).mem = true := foldl_wf (fun _ _ h => by simp [h]) _ hm
    dsimp only
    split <;> simp [hends]

@[simp] theorem execClaimDeadlock_wf {s : State} (t) (hm : Memory.wf s.mem = true) : ResWf (execClaimDeadlock t s) := by
  simp only [execClaimDeadlock]
  repeat' split
  all_goals simp [hm]

@[simp] theorem execTileDeadlock_wf {s : State} (core) (hm : Memory.wf s.mem = true) : ResWf (execTileDeadlock core s) := by
  simp only [execTileDeadlock]
  repeat' split
  all_goals simp [hm]

@[simp] theorem execCwaitPoll_wf {s : State} (t) (hm : Memory.wf s.mem = true) : ResWf (execCwaitPoll t s) := by simp [execCwaitPoll, hm]

/-! ## The host -/

@[simp] theorem State.writePart_wf {s : State} (a bs) (hm : Memory.wf s.mem = true) : Memory.wf (s.writePart a bs).1.mem = true := by
  grind [State.writePart, State.touch_mem, State.spoilMem_mem, State.putLine_wf, State.store_wf]

@[simp] theorem State.writeLines_wf {s : State} (a bs x) (hm : Memory.wf s.mem = true) : Memory.wf (s.writeLines a bs x).1.mem = true := by
  induction x generalizing s a bs with
  | zero => exact hm
  | succ fuel ih => grind [State.writeLines, State.writePart_wf]

@[simp] theorem execTsq_wf {s : State} (v) (hm : Memory.wf s.mem = true) : ResWf (execTsq v s) := by simp [execTsq, hm]

@[simp] theorem Res.state_wf {s : State} {r : Res} (hr : ResWf r) (hm : Memory.wf s.mem = true) : Memory.wf (Res.state r s).mem = true := by
  cases r with
  | next t => exact hr
  | fault f => exact hm
  | refused f => exact hm

@[simp] theorem State.ctxCommand_wf {s : State} (v) (hm : Memory.wf s.mem = true) : Memory.wf (s.ctxCommand v).mem = true := by
  simp only [State.ctxCommand]
  split <;> simp [hm]

@[simp] theorem State.queueCommand_wf {s : State} (v) (hm : Memory.wf s.mem = true) : Memory.wf (s.queueCommand v).mem = true := by
  simp only [State.queueCommand]
  split <;> simp [hm]

@[simp] theorem State.bankCommand_wf {s : State} (v) (hm : Memory.wf s.mem = true) : Memory.wf (s.bankCommand v).mem = true := by
  simp only [State.bankCommand]
  split <;> simp [hm]

@[simp] theorem State.fltCommand_wf {s : State} (v) (hm : Memory.wf s.mem = true) : Memory.wf (s.fltCommand v).mem = true := by
  simp only [State.fltCommand]
  repeat' split
  all_goals simp [hm]

@[simp] theorem State.regWrite_wf {s : State} (off v) (hm : Memory.wf s.mem = true) : Memory.wf (s.regWrite off v).mem = true := by
  simp only [State.regWrite]
  repeat' split
  all_goals simp [hm]

@[simp] theorem State.regWrites_wf {s : State} (a bs x) (hm : Memory.wf s.mem = true) : Memory.wf (s.regWrites a bs x).mem = true := by
  induction x generalizing s a bs with
  | zero => exact hm
  | succ fuel ih =>
    rw [State.regWrites]
    split
    · exact hm
    · exact ih _ _ (by simp [hm])

@[simp] theorem State.controlWrite_wf {s : State} (a bs) (hm : Memory.wf s.mem = true) : Memory.wf (s.controlWrite a bs).mem = true := by
  simp only [State.controlWrite]
  repeat' split
  all_goals simp [hm]

@[simp] theorem State.spreadRdma_wf {s : State} (conn key addr n data) {whole : Res} (hw : ResWf whole) (hm : Memory.wf s.mem = true) :
    Memory.wf (s.spreadRdma conn key addr n data whole).mem = true := by
  simp only [State.spreadRdma]
  repeat' split
  all_goals simp [hm, hw]

@[simp] theorem State.line_wf {s : State} (k) (hm : Memory.wf s.mem = true) : Memory.wf (s.line k).mem = true := by
  grind [State.line, State.writePart_wf, State.lineAnswer_mem, State.readPhys_mem]

@[simp] theorem State.linesOut_wf {s : State} (conn x) (hm : Memory.wf s.mem = true) : Memory.wf (s.linesOut conn x).mem = true := by
  induction x generalizing s with
  | zero => exact hm
  | succ fuel ih =>
    rw [State.linesOut]
    split
    · exact hm
    · exact ih (by simp [hm])

@[simp] theorem State.linesDone_wf {s : State} (conn) (hm : Memory.wf s.mem = true) : Memory.wf (s.linesDone conn).mem = true := by
  simp [State.linesDone, hm]

@[simp] theorem execDoorbell_wf {s : State} (q v) (hm : Memory.wf s.mem = true) : ResWf (execDoorbell q v s) := by
  unfold execDoorbell
  split <;> simp [hm]

@[simp] theorem execRdmaWrite_wf {s : State} (conn key addr data) (hm : Memory.wf s.mem = true) : ResWf (execRdmaWrite conn key addr data s) := by
  simp only [execRdmaWrite]
  repeat' split
  all_goals simp [hm]

@[simp] theorem execRdmaRead_wf {s : State} (conn key addr len) (hm : Memory.wf s.mem = true) : ResWf (execRdmaRead conn key addr len s) := by
  have hread := State.readPhys_mem s addr len
  rw [execRdmaRead]
  dsimp only
  repeat' split
  all_goals simp_all

@[simp] theorem execUnsupportedRdmaRequest_wf {s : State} (conn) (hm : Memory.wf s.mem = true) : ResWf (execUnsupportedRdmaRequest conn s) := by
  unfold execUnsupportedRdmaRequest
  split <;> simp [hm]

@[simp] theorem execRegisterWrite_wf {s : State} (conn key off v) (hm : Memory.wf s.mem = true) : ResWf (execRegisterWrite conn key off v s) := by
  simp only [execRegisterWrite]
  repeat' split
  all_goals simp [hm]

@[simp] theorem execRrqTailNotice_wf {s : State} (hm : Memory.wf s.mem = true) : ResWf (execRrqTailNotice s) := by
  unfold execRrqTailNotice
  split <;> simp [hm]

@[simp] theorem execFltTailNotice_wf {s : State} (hm : Memory.wf s.mem = true) : ResWf (execFltTailNotice s) := by
  simp only [execFltTailNotice]
  split <;> simp [hm]

/-! ## Lane integers -/

@[simp] theorem execIadd_wf {s : State} (o) (hm : Memory.wf s.mem = true) : ResWf (execIadd o s) := by simp [execIadd, hm]

@[simp] theorem execIsub_wf {s : State} (o rev) (hm : Memory.wf s.mem = true) : ResWf (execIsub o rev s) := by simp [execIsub, hm]

@[simp] theorem execImul_wf {s : State} (o) (hm : Memory.wf s.mem = true) : ResWf (execImul o s) := by
  simp only [execImul]
  repeat' split
  all_goals simp [hm]

@[simp] theorem execImulh_wf {s : State} (o u) (hm : Memory.wf s.mem = true) : ResWf (execImulh o u s) := by simp [execImulh, hm]

@[simp] theorem execImad_wf {s : State} (o) (hm : Memory.wf s.mem = true) : ResWf (execImad o s) := by simp [execImad, hm]

@[simp] theorem execImin_wf {s : State} (o u) (hm : Memory.wf s.mem = true) : ResWf (execImin o u s) := by simp [execImin, hm]

@[simp] theorem execImax_wf {s : State} (o u) (hm : Memory.wf s.mem = true) : ResWf (execImax o u s) := by simp [execImax, hm]

@[simp] theorem execIabs_wf {s : State} (o) (hm : Memory.wf s.mem = true) : ResWf (execIabs o s) := by simp [execIabs, hm]

@[simp] theorem execAnd_wf {s : State} (o) (hm : Memory.wf s.mem = true) : ResWf (execAnd o s) := by simp [execAnd, hm]

@[simp] theorem execOr_wf {s : State} (o) (hm : Memory.wf s.mem = true) : ResWf (execOr o s) := by simp [execOr, hm]

@[simp] theorem execXor_wf {s : State} (o) (hm : Memory.wf s.mem = true) : ResWf (execXor o s) := by simp [execXor, hm]

@[simp] theorem execAndn_wf {s : State} (o) (hm : Memory.wf s.mem = true) : ResWf (execAndn o s) := by simp [execAndn, hm]

@[simp] theorem execShl_wf {s : State} (o) (hm : Memory.wf s.mem = true) : ResWf (execShl o s) := by simp [execShl, hm]

@[simp] theorem execShr_wf {s : State} (o) (hm : Memory.wf s.mem = true) : ResWf (execShr o s) := by simp [execShr, hm]

@[simp] theorem execSar_wf {s : State} (o) (hm : Memory.wf s.mem = true) : ResWf (execSar o s) := by
  simp only [execSar]
  repeat' split
  all_goals simp [hm]

@[simp] theorem execRol_wf {s : State} (o) (hm : Memory.wf s.mem = true) : ResWf (execRol o s) := by simp [execRol, hm]

@[simp] theorem execBfx_wf {s : State} (o) (hm : Memory.wf s.mem = true) : ResWf (execBfx o s) := by simp [execBfx, hm]

@[simp] theorem execBfi_wf {s : State} (o) (hm : Memory.wf s.mem = true) : ResWf (execBfi o s) := by simp [execBfi, hm]

@[simp] theorem execPopc_wf {s : State} (o) (hm : Memory.wf s.mem = true) : ResWf (execPopc o s) := by simp [execPopc, hm]

@[simp] theorem execClz_wf {s : State} (o) (hm : Memory.wf s.mem = true) : ResWf (execClz o s) := by simp [execClz, hm]

@[simp] theorem execBrev_wf {s : State} (o) (hm : Memory.wf s.mem = true) : ResWf (execBrev o s) := by simp [execBrev, hm]

@[simp] theorem execIcmp_wf {s : State} (c p o) (hm : Memory.wf s.mem = true) : ResWf (execIcmp c p o s) := by simp [execIcmp, hm]

@[simp] theorem execIsel_wf {s : State} (o w p n) (hm : Memory.wf s.mem = true) : ResWf (execIsel o w p n s) := by simp [execIsel, hm]

@[simp] theorem execMov_wf {s : State} (d b) (hm : Memory.wf s.mem = true) : ResWf (execMov d b s) := by simp [execMov, hm]

@[simp] theorem execMovs_wf {s : State} (d n) (hm : Memory.wf s.mem = true) : ResWf (execMovs d n s) := by simp [execMovs, hm]

@[simp] theorem execIadd64_wf {s : State} (o) (hm : Memory.wf s.mem = true) : ResWf (execIadd64 o s) := by simp [execIadd64, hm]

@[simp] theorem execImulw_wf {s : State} (o sg) (hm : Memory.wf s.mem = true) : ResWf (execImulw o sg s) := by simp [execImulw, hm]

@[simp] theorem execPlop_wf {s : State} (op d a b) (hm : Memory.wf s.mem = true) : ResWf (execPlop op d a b s) := by simp [execPlop, hm]

@[simp] theorem execPmovGet_wf {s : State} (d) (hm : Memory.wf s.mem = true) : ResWf (execPmovGet d s) := by simp [execPmovGet, hm]

@[simp] theorem execPmovPut_wf {s : State} (a x) (hm : Memory.wf s.mem = true) : ResWf (execPmovPut a x s) := by simp [execPmovPut, hm]

@[simp] theorem execPmovSet_wf {s : State} (w) (hm : Memory.wf s.mem = true) : ResWf (execPmovSet w s) := by simp [execPmovSet, hm]

@[simp] theorem execSetx_wf {s : State} (n v) (hm : Memory.wf s.mem = true) : ResWf (execSetx n v s) := by
  unfold execSetx
  split <;> simp [hm]

@[simp] theorem State.indexed_wf {s : State} (d n b k) (hm : Memory.wf s.mem = true) : ResWf (s.indexed d n b k) := by
  refine State.lane_wf fun t T tid th => ?_
  dsimp only
  repeat' split
  all_goals simp [hm]

@[simp] theorem execMovx_wf {s : State} (d n b) (hm : Memory.wf s.mem = true) : ResWf (execMovx d n b s) := by simp [execMovx, hm]

@[simp] theorem execStx_wf {s : State} (d n b) (hm : Memory.wf s.mem = true) : ResWf (execStx d n b s) := by simp [execStx, hm]

end Sys2Proof.Laws.CanonicalForm
end


section
/-! The canonical form is kept: management and the steering integers. -/

namespace Sys2Proof.Laws.CanonicalForm

open Sys2Proof Sys2Proof.Machine Sys2Proof.Laws.Storing

/-! ## Management -/

@[simp] theorem State.restarted_wf {s : State} (warm c) (hm : Memory.wf s.mem = true) : Memory.wf (s.restarted warm c).mem = true :=
  Memory.wf_filter _ hm

@[simp] theorem State.perform_wf {s : State} (warm) (hm : Memory.wf s.mem = true) : Memory.wf (s.perform warm).mem = true := by
  unfold State.perform
  split <;> simp [hm]

@[simp] theorem State.finishStart_wf {s : State} (hm : Memory.wf s.mem = true) : Memory.wf (s.finishStart).mem = true := by
  unfold State.finishStart
  split <;> simp [hm]

@[simp] theorem execColdStart_wf {s : State} (hm : Memory.wf s.mem = true) : ResWf (execColdStart s) := by simp [execColdStart, hm]

@[simp] theorem execPowerCapLimit_wf {s : State} (k watts) (hm : Memory.wf s.mem = true) : ResWf (execPowerCapLimit k watts s) := by
  simp [execPowerCapLimit, hm]

@[simp] theorem execThermalLimit_wf {s : State} (celsius) (hm : Memory.wf s.mem = true) : ResWf (execThermalLimit celsius s) := by
  simp [execThermalLimit, hm]

@[simp] theorem execThermalTrip_wf {s : State} (celsius) (hm : Memory.wf s.mem = true) : ResWf (execThermalTrip celsius s) := by
  unfold execThermalTrip
  split <;> simp [hm]

@[simp] theorem State.onConn_wf {s : State} (r) {f} (h : Memory.wf s.mem = true) (hf : ResWf (f s)) : ResWf (s.onConn r f) := by
  simp only [State.onConn]
  split <;> simp [h, hf]

@[simp] theorem State.serveAny_wf {s : State} (op r ok) {f} (h : Memory.wf s.mem = true) (hf : ResWf (f s)) : ResWf (s.serveAny op r ok f) := by
  refine State.onConn_wf _ h ?_
  repeat' split
  all_goals simp [h, hf]

@[simp] theorem State.serveListed_wf {s : State} (op r ok) {f} (h : Memory.wf s.mem = true) (hf : ResWf (f s)) : ResWf (s.serveListed op r ok f) :=
    by
  refine State.onConn_wf _ h ?_
  repeat' split
  all_goals simp [h, hf]

@[simp] theorem State.badOp_wf {s : State} (op r) (hm : Memory.wf s.mem = true) : ResWf (s.badOp op r) := by simp [State.badOp, hm]

@[simp] theorem execStatus_wf {s : State} (r) (hm : Memory.wf s.mem = true) : ResWf (execStatus r s) := by
  unfold execStatus
  split <;> simp [hm]

@[simp] theorem execQuote_wf {s : State} (r) (hm : Memory.wf s.mem = true) : ResWf (execQuote r s) := by simp [execQuote, hm]

@[simp] theorem execFlashwr_wf {s : State} (r) (hm : Memory.wf s.mem = true) : ResWf (execFlashwr r s) := by simp [execFlashwr, hm]

@[simp] theorem execFlashseal_wf {s : State} (r) (hm : Memory.wf s.mem = true) : ResWf (execFlashseal r s) := by
  refine State.serveAny_wf _ _ _ hm ?_
  dsimp only
  split
  · simp [hm]
  · split <;> simp [hm]

@[simp] theorem execStart_wf {s : State} (r) (hm : Memory.wf s.mem = true) : ResWf (execStart r s) := by
  refine State.serveListed_wf _ _ _ hm ?_
  dsimp only
  rw [resWf_next, State.modMgmt_mem]
  exact foldl_wf (fun _ _ h => by simp [h]) _ (by simp [hm])

@[simp] theorem execRead_wf {s : State} (r) (hm : Memory.wf s.mem = true) : ResWf (execRead r s) := by
  have hread := State.readPhys_mem s (fld r.payload 8 8) (fld r.payload 4 4)
  refine State.serveListed_wf _ _ _ hm ?_
  repeat' split
  all_goals simp_all

@[simp] theorem State.spreadRead_wf {s : State} (r) (hm : Memory.wf s.mem = true) : Memory.wf (s.spreadRead r).mem = true := by
  simp only [State.spreadRead]
  split <;> simp [hm]

@[simp] theorem State.spread_wf {s : State} (i) (hm : Memory.wf s.mem = true) : Memory.wf (s.spread i).mem = true := by
  simp only [State.spread]
  repeat' split
  all_goals simp [hm]

@[simp] theorem execConnset_wf {s : State} (r) (hm : Memory.wf s.mem = true) : ResWf (execConnset r s) := by simp [execConnset, hm]

@[simp] theorem execEpset_wf {s : State} (r) (hm : Memory.wf s.mem = true) : ResWf (execEpset r s) := by simp [execEpset, hm]

@[simp] theorem execMsave_wf {s : State} (r) (hm : Memory.wf s.mem = true) : ResWf (execMsave r s) := by
  refine State.serveListed_wf _ _ _ hm ?_
  dsimp only
  split
  · simp [hm]
  · next t T _ =>
    have hheld : Memory.wf ((s.withGang t T).foldl (fun s k => s.modTeam k fun U => { U with mheld := true }) s).mem = true :=
      foldl_wf (fun _ _ h => by exact h) _ hm
    rw [resWf_next, State.flushMgmt_mem, State.modMgmt_mem]
    split <;> simp [hheld]

@[simp] theorem execMresume_wf {s : State} (r) (hm : Memory.wf s.mem = true) : ResWf (execMresume r s) := by
  refine State.serveListed_wf _ _ _ hm ?_
  split
  · simp [hm]
  · next t T _ =>
    have hheld : Memory.wf ((s.withGang t T).foldl (fun s k => s.modTeam k fun U => { U with mheld := false }) s).mem = true :=
      foldl_wf (fun _ _ h => by exact h) _ hm
    split <;> simp [hm, hheld]

@[simp] theorem State.serveFrame_wf {s : State} (op r) (hm : Memory.wf s.mem = true) : ResWf (s.serveFrame op r) := by
  unfold State.serveFrame
  split <;> simp [hm]

@[simp] theorem execTcpConnection_wf {s : State} (e) (hm : Memory.wf s.mem = true) : ResWf (execTcpConnection e s) := by
  simp only [execTcpConnection]
  repeat' split
  all_goals simp [hm]

/-! ## Steering integers -/

@[simp] theorem execSadd_wf {s : State} (o) (hm : Memory.wf s.mem = true) : ResWf (execSadd o s) := by simp [execSadd, hm]

@[simp] theorem execSsub_wf {s : State} (o rev) (hm : Memory.wf s.mem = true) : ResWf (execSsub o rev s) := by simp [execSsub, hm]

@[simp] theorem execSmul_wf {s : State} (o) (hm : Memory.wf s.mem = true) : ResWf (execSmul o s) := by simp [execSmul, hm]

@[simp] theorem execSmulh_wf {s : State} (o u) (hm : Memory.wf s.mem = true) : ResWf (execSmulh o u s) := by simp [execSmulh, hm]

@[simp] theorem execSmin_wf {s : State} (o u) (hm : Memory.wf s.mem = true) : ResWf (execSmin o u s) := by simp [execSmin, hm]

@[simp] theorem execSmax_wf {s : State} (o u) (hm : Memory.wf s.mem = true) : ResWf (execSmax o u s) := by simp [execSmax, hm]

@[simp] theorem execSand_wf {s : State} (o) (hm : Memory.wf s.mem = true) : ResWf (execSand o s) := by simp [execSand, hm]

@[simp] theorem execSor_wf {s : State} (o) (hm : Memory.wf s.mem = true) : ResWf (execSor o s) := by simp [execSor, hm]

@[simp] theorem execSxor_wf {s : State} (o) (hm : Memory.wf s.mem = true) : ResWf (execSxor o s) := by simp [execSxor, hm]

@[simp] theorem execSshl_wf {s : State} (o) (hm : Memory.wf s.mem = true) : ResWf (execSshl o s) := by simp [execSshl, hm]

@[simp] theorem execSshr_wf {s : State} (o) (hm : Memory.wf s.mem = true) : ResWf (execSshr o s) := by simp [execSshr, hm]

@[simp] theorem execSsar_wf {s : State} (o) (hm : Memory.wf s.mem = true) : ResWf (execSsar o s) := by simp [execSsar, hm]

@[simp] theorem execSbfx_wf {s : State} (o) (hm : Memory.wf s.mem = true) : ResWf (execSbfx o s) := by simp [execSbfx, hm]

@[simp] theorem execSpopc_wf {s : State} (o) (hm : Memory.wf s.mem = true) : ResWf (execSpopc o s) := by simp [execSpopc, hm]

@[simp] theorem execSclz_wf {s : State} (o) (hm : Memory.wf s.mem = true) : ResWf (execSclz o s) := by simp [execSclz, hm]

@[simp] theorem execScmp_wf {s : State} (c p a b) (hm : Memory.wf s.mem = true) : ResWf (execScmp c p a b s) := by simp [execScmp, hm]

@[simp] theorem execSsel_wf {s : State} (o c n) (hm : Memory.wf s.mem = true) : ResWf (execSsel o c n s) := by simp [execSsel, hm]

@[simp] theorem execSmov_wf {s : State} (d b) (hm : Memory.wf s.mem = true) : ResWf (execSmov d b s) := by simp [execSmov, hm]

@[simp] theorem execSadd64_wf {s : State} (o) (hm : Memory.wf s.mem = true) : ResWf (execSadd64 o s) := by simp [execSadd64, hm]

@[simp] theorem execClop_wf {s : State} (op d a b) (hm : Memory.wf s.mem = true) : ResWf (execClop op d a b s) := by simp [execClop, hm]

@[simp] theorem State.sdivide_wf {s : State} (o f) (hm : Memory.wf s.mem = true) : ResWf (s.sdivide o f) := by simp [State.sdivide, hm]

@[simp] theorem execSdiv_wf {s : State} (o u) (hm : Memory.wf s.mem = true) : ResWf (execSdiv o u s) := by simp [execSdiv, hm]

@[simp] theorem execSrem_wf {s : State} (o u) (hm : Memory.wf s.mem = true) : ResWf (execSrem o u s) := by simp [execSrem, hm]

end Sys2Proof.Laws.CanonicalForm
end


section
/-! The canonical form is kept: instructions, turns and the step. -/

namespace Sys2Proof.Laws.CanonicalForm

open Sys2Proof Sys2Proof.Machine Sys2Proof.Laws.Storing

/-! ## The instructions -/

@[simp] theorem exec_wf {s : State} (i) (hm : Memory.wf s.mem = true) : ResWf (exec i s) := by
  unfold exec
  split <;> simp [hm]

/-! ## Turns -/

@[simp] theorem State.stopAt_wf {s : State} (t tid p f) (hm : Memory.wf s.mem = true) : Memory.wf (s.stopAt t tid p f).mem = true := by
  simp [State.stopAt, hm]

@[simp] theorem State.settle_wf {s : State} (t tid th i) (hm : Memory.wf s.mem = true) : Memory.wf (s.settle t tid th i).mem = true := by
  unfold State.settle
  split <;> simp [hm]

@[simp] theorem State.issueThread_wf {s : State} (t cl k guarded i tid) (hm : Memory.wf s.mem = true) :
    ResWf (s.issueThread t cl k guarded i tid) := by
  rw [State.issueThread]
  split
  · exact hm
  next T _ =>
  split
  · exact hm
  next th _ =>
  split
  · exact hm
  dsimp only
  split
  · exact hm
  have hexec := exec_wf i (State.settle_wf (s := { s.setThread t T tid { th with g := th.guard cl k, pos := ⟨cl.h, k⟩, nextPos := cl.after k } with
    cur := some (.lane t tid) }) t tid th i hm)
  split
  · next s2 heq =>
    rw [heq] at hexec
    split
    · exact State.stopAt_wf _ _ _ _ hm
    · exact hexec
  · exact hexec

@[simp] theorem State.issueAll_wf {s : State} (t cl k guarded i tids) (hm : Memory.wf s.mem = true) : ResWf (s.issueAll t cl k guarded i tids) := by
  induction tids generalizing s with
  | nil => exact hm
  | cons tid r ih =>
    have hone := State.issueThread_wf t cl k guarded i tid hm
    rw [State.issueAll]
    split
    · next s1 heq =>
      rw [heq] at hone
      exact ih hone
    · exact hone

@[simp] theorem State.regroup_wf {s : State} (c p k w cl i latch) (hm : Memory.wf s.mem = true) :
    Memory.wf (s.regroup c p k w cl i latch).mem = true := by
  rw [State.regroup]
  split
  · exact hm
  · dsimp only
    split
    · exact hm
    · exact foldl_wf (fun _ _ h => by simp [h]) _ hm

@[simp] theorem State.stopWave_wf {s : State} (c p k w q f) (hm : Memory.wf s.mem = true) : Memory.wf (s.stopWave c p k w q f).mem = true :=
  foldl_wf (fun _ _ h => by simp [h]) _ hm

@[simp] theorem State.issueWave_wf {s : State} (c p k hold) (hm : Memory.wf s.mem = true) : ResWf (s.issueWave c p k hold) := by
  rw [State.issueWave]
  split
  · exact hm
  split
  · exact hm
  split
  · exact hm
  · next w _ _ T _ _ =>
    have hfetch := State.waveClause_mem s T w
    split
    · next s1 f heq =>
      rw [heq] at hfetch
      simp_all
    · next s1 cl heq =>
      rw [heq] at hfetch
      have h1 : Memory.wf s1.mem = true := by
        rw [show s1.mem = s.mem from hfetch]
        exact hm
      split
      · simp [h1]
      · next x _ =>
        dsimp only
        split
        · exact hm
        · have hall := State.issueAll_wf (s := { s1.orderUsed (x.instr .lane) with holding := hold }) w.team cl w.pos.k (x.guarded .lane)
            (x.instr .lane) (s1.waveOrder (x.instr .lane) w.tids) (by simpa using h1)
          split
          · next s2 heq =>
            rw [heq] at hall
            exact State.regroup_wf _ _ _ _ _ _ _ hall
          · exact hall

@[simp] theorem State.stopSteerAt_wf {s : State} (t T p f) (hm : Memory.wf s.mem = true) : Memory.wf (s.stopSteerAt t T p f).mem = true := by
  simp [State.stopSteerAt, hm]

@[simp] theorem State.issueSteer_wf {s : State} (t T cl x) (hm : Memory.wf s.mem = true) : ResWf (s.issueSteer t T cl x) := by
  rw [State.issueSteer]
  dsimp only
  split
  · simp [hm]
  split
  · simp [hm]
  split
  · simp [hm]
  · generalize (if Instr.fenced (x.instr .steer) then _ else _ : Team) = T2
    have hexec := exec_wf (s := { s.setTeam t T2 with cur := some (.steer t) }) (x.instr .steer) hm
    split
    · next s1 heq =>
      rw [heq] at hexec
      simpa using hexec
    · exact hexec

@[simp] theorem State.steerTurn_wf {s : State} (c k) (hm : Memory.wf s.mem = true) : ResWf (s.steerTurn c k) := by
  rw [State.steerTurn]
  split
  · exact hm
  · next t T _ =>
    dsimp only
    split
    · exact hm
    · have hfetch := State.steerClause_mem s T
      split
      · next s1 f heq =>
        rw [heq] at hfetch
        simp_all
      · next s1 cl heq =>
        rw [heq] at hfetch
        have h1 : Memory.wf s1.mem = true := by
          rw [show s1.mem = s.mem from hfetch]
          exact hm
        split
        · simp [h1]
        · next x _ =>
          have hissue := State.issueSteer_wf t T cl x h1
          split
          · next s2 heq =>
            rw [heq] at hissue
            rw [resWf_next]
            split <;> exact hissue
          · exact hissue

@[simp] theorem State.elapse_wf {s : State} (n) (hm : Memory.wf s.mem = true) : Memory.wf (s.elapse n).mem = true := by
  have hjoins : Memory.wf ((s.joinEnds n).foldl (fun s a => State.endJoins { s with clock := max s.clock (a * Config.ticksPerAclk) }) s).mem = true
    :=
    foldl_wf (fun _ _ h => State.endJoins_wf (by exact h)) _ hm
  simp [State.elapse, hjoins]

@[simp] theorem State.before_wf {s : State} (i) (hm : Memory.wf s.mem = true) : Memory.wf (s.before i).mem = true := by
  unfold State.before
  split <;> simp [hm]

@[simp] theorem State.turn_wf {s : State} (x) (hm : Memory.wf s.mem = true) : ResWf (s.turn x) := by
  cases x with
  | issue c p k => exact State.issueWave_wf _ _ _ _ hm
  | hold c p k => exact State.issueWave_wf _ _ _ _ hm
  | perform t tid => exact State.performThread_wf _ _ hm
  | ahead id => simp [State.turn, hm]
  | behind a b i =>
    rw [State.turn]
    split
    · have hexec := exec_wf (s := { s.before i with view := (a, b) }) i (State.before_wf i hm)
      split
      · next s1 heq =>
        rw [heq] at hexec
        exact hexec
      · exact hexec
    · exact hm
  | receive q => exact State.receive_wf _ hm
  | spread i => simp [State.turn, hm]
  | line k => exact State.line_wf _ hm
  | ecc pa bad => simp [State.turn, hm]
  | steer c k => exact State.steerTurn_wf _ _ hm
  | event i =>
    rw [State.turn]
    split
    · exact exec_wf _ (State.before_wf i hm)
    · exact hm
  | elapse n => exact State.elapse_wf n hm

/-! ## The step -/

@[simp] theorem step_wf {s : State} (hm : Memory.wf s.mem = true) : ResWf (step s) := by
  simp only [step]
  repeat' split
  all_goals simp [hm]

/-- Settles O56: memory is written by a few operations only, each of which keeps its canonical form; everything else is made of those. -/
theorem stepKeepsCanonical : Obligations.StepKeepsCanonical := by
  intro s s' hs hstep
  have hres := step_wf (s := s) hs
  rw [hstep] at hres
  exact hres

end Sys2Proof.Laws.CanonicalForm
end
